-- ==== Sys2Proof/Word.lean ====
section
/-! DEFINITION. The word types of the ZEH-4832, sparse tables, and the plain records that commands carry
as operands (a submission entry, a sensor sample, a levee token, …). -/

namespace Sys2Proof

abbrev Byte := BitVec 8
/-- A 32-bit register, a VE lane or a `u32` field. -/
abbrev Word := BitVec 32
/-- A 64-bit register, a counter or a `u64` field. -/
abbrev DWord := BitVec 64

/-- A sparse table: key and value pairs in rising key order; an unlisted key holds the table's default. -/
abbrev Tab (α : Type) := List (Nat × α)

/-- A submission ring entry as the Keeper fetched it from the ring slot in host memory (R301). -/
structure Entry where
  opcode  : Byte
  flags   : Byte
  comp    : BitVec 16
  seq     : Word
  reqId   : Word
  ctrSet  : BitVec 16
  gaugeId : BitVec 16
  desc    : DWord
  sigEv   : BitVec 16
  waitEv  : BitVec 16
  sigVal  : Word
  waitVal : Word
  rsvd    : Word
  /-- The 24 inline bytes at 0x28, byte 0x28 in bits [7:0]. -/
  inl     : BitVec 192
  deriving DecidableEq, Repr, Inhabited

/-- What the host bridge returns for a read of host memory: refused, or the bytes (R245). -/
structure HostRead where
  granted : Bool
  data    : List Byte
  deriving DecidableEq, Repr, Inhabited

/-- What a detection reports (R336). `corrected` is the source's C0 form, `command` its C1 form. -/
structure FaultReport where
  source     : Nat
  corrected  : Bool
  command    : Bool
  /-- C-die 0-3, or 4 for the I-die. -/
  die        : Nat
  /-- Kind and unit of the failed unit in the form of R348. -/
  kind       : Nat
  unit       : Nat
  /-- Polders with work on the unit (sluices and links, R336 0x07 and 0x08). -/
  users      : List (Fin 4)
  /-- The command that met the error, for class C1. -/
  queue      : Fin 16
  seq        : Word
  /-- Device address concerned (memory sources), or the offset in the cluster buffer or VE store (source 0x04). -/
  addr       : Nat
  /-- The module-held item (source 0x0C): 0-7 polder items, 8 layout, 9 spare map, 10 trim words. -/
  item       : Nat
  bothCopies : Bool
  deriving DecidableEq, Repr, Inhabited

/-- What the diagnosis and self-tests of a repair found (R343, R345). -/
structure RepairResult where
  /-- Remap values of R348 that the mapping decided. -/
  remaps     : List DWord
  /-- Units needed for which the pools hold no spare. -/
  missing    : Bool
  poisoned   : List (Nat × Nat)
  unfinished : List (Fin 4 × Fin 16 × Word)
  /-- Sites retrained, with the bin reached (0-3) or 0xFF. -/
  bins       : List (Fin 32 × Nat)
  deriving DecidableEq, Repr, Inhabited

/-- What a margin test found on its C-die (R352), as remap values of R348: the remap in force of a unit whose replaced unit has
failed again, or for a unit in service that has failed the remap that would replace it. -/
structure MarginResult where
  nominal : List DWord
  stress  : List DWord
  deriving DecidableEq, Repr, Inhabited

/-- What a unit reports of its activity: the weight of its logic, and the S-tier and D-tier bytes it moved (R389,
R390). -/
structure Weight where
  act    : Nat
  sBytes : Nat
  dBytes : Nat
  deriving DecidableEq, Repr, Inhabited

/-- The weights one cluster's activity estimator reports for 1 µs (R390): its pack slots by number, the VE, the table
builder with the pack slot it builds for; and the ACLK cycles for which each of the commands that held a pack slot, or the
VE, in that time held it, in their order (R391). -/
structure Weights where
  slots : List Weight
  (ve table : Weight)
  tableSlot : Nat
  slotCycles : List (List Nat)
  veCycles : List Nat
  deriving DecidableEq, Repr, Inhabited

/-- The weight of a command on the sluices or ports of a C-die (0-3) or the I-die (4) in slot 0-9 of a sample, and
how many sluices it used. -/
structure IoUse where
  slot : Nat
  die  : Nat
  p    : Fin 4
  q    : Fin 16
  n    : Word
  w    : Weight
  sluices : Nat
  deriving DecidableEq, Repr, Inhabited

/-- One 10 µs sample (R389): input power in W and input energy in µJ; rail energies in µJ by domain; the parts of
the stack and memory domains that are leakage, refresh and idle; the energy of each port; the rest of the I-die's
domain that no activity causes; what sluices and ports did for commands; for each edge of a
polder's snapshots that wait for their energy, the cycles of its 1 µs slot before and after it (R416). -/
structure RailSample where
  inputW  : Nat
  inputUJ : Nat
  (array stack memory : List Nat)
  iDie    : Nat
  (stackIdle memIdle : List Nat)
  ports   : List Nat
  iRest   : Nat
  io      : List IoUse
  cuts    : List (List (Nat × Nat))
  deriving DecidableEq, Repr, Inhabited

/-- Junction temperatures in units of 0.25 °C: hottest of each C-die stack, I-die, coolant in and out (R409). -/
structure Temps where
  cdies  : List Int
  iDie   : Int
  inlet  : Int
  outlet : Int
  deriving DecidableEq, Repr, Inhabited

/-- A flit as the FEC layer hands it over (R267). -/
structure RxFlit where
  fecOk : Bool
  bytes : List Byte
  deriving DecidableEq, Repr, Inhabited

/-- A levee token (R276), its fields as they stand on the lane. -/
structure Token where
  typ     : Byte
  hop     : BitVec 5
  op      : BitVec 3
  rank    : BitVec 16
  id      : Word
  payload : DWord
  iv      : DWord
  tag     : DWord
  deriving DecidableEq, Repr, Inhabited

/-- Error counts of one 1 ms window of a lane (R273): uncorrectable codewords, corrected symbols, corrected codewords. -/
structure LaneCount where
  uncorrectable : Nat
  corrected     : Nat
  words         : Nat
  deriving DecidableEq, Repr, Inhabited

/-- Registers of a function's configuration space that the module implements (R281): Device Control, the power
management state, the Message Control of the MSI-X capability, the AER status words. -/
inductive CfgReg where
  | deviceControl | powerState | msixControl | aerUncorrectable | aerCorrectable
  deriving DecidableEq, Repr, Inhabited

/-- What a host register write is aimed at: a BAR0 offset with its size in bytes, the SR-IOV
capability's NumVFs and VF Enable (R282), or a register of configuration space (R281). -/
inductive RegTarget where
  | bar0 (off : Nat) (size : Nat)
  | sriov (enable : Bool)
  | config (reg : CfgReg)
  deriving DecidableEq, Repr, Inhabited

/-- How an access to a ring fails on the link (R315). -/
inductive LinkError where
  | unsupportedRequest | completerAbort | poisoned | timeout
  deriving DecidableEq, Repr, Inhabited

/-- A failed access to the rings of a queue (R315). -/
structure RingFailure where
  queue : Fin 16
  kind  : LinkError
  deriving DecidableEq, Repr, Inhabited

/-- The result of a port's training (R265, R266, R274): did the data lanes and the levee lane train, and with which
transmitter equalisation settings, one byte a lane (R324)? -/
structure PortTraining where
  data  : Bool
  levee : Bool
  eq    : List Byte
  deriving DecidableEq, Repr, Inhabited

/-- What a hello message of T3 says of its sender (R266). -/
structure Hello where
  device   : BitVec 16
  stepping : Byte
  deriving DecidableEq, Repr, Inhabited

end Sys2Proof
end

