-- ==== Sys2Proof/Syntax.lean ====
section
/-! DEFINITION. The commands of the ZEH-4832: one constructor per row of spec/opcode_table.json. Polders, queues,
functions, ports, sites and clusters are named by their numbers; `n` is a command's queue sequence and `k` a
cluster's position in its command's range (log 4 says which operands stand for what an outside agent supplies). -/

namespace Sys2Proof

inductive Instr where
  /-- MM (R114). -/
  | mm (p : Fin 4) (q : Fin 16) (e : Entry)
  /-- VK (R152). -/
  | vk (p : Fin 4) (q : Fin 16) (e : Entry)
  /-- MOVE (R242). -/
  | move (p : Fin 4) (q : Fin 16) (e : Entry) (h : HostRead)
  /-- FILL (R242). -/
  | fill (p : Fin 4) (q : Fin 16) (e : Entry)
  /-- CRC (R436). -/
  | crc (p : Fin 4) (q : Fin 16) (e : Entry)
  /-- BUCKET_ADD (R254). -/
  | bucketAdd (p : Fin 4) (q : Fin 16) (e : Entry)
  /-- REDUCE (R258). -/
  | reduce (p : Fin 4) (q : Fin 16) (e : Entry)
  /-- GATHER (R242). -/
  | gather (p : Fin 4) (q : Fin 16) (e : Entry)
  /-- SCATTER (R242). -/
  | scatter (p : Fin 4) (q : Fin 16) (e : Entry)
  /-- UPDATE (R193). -/
  | update (p : Fin 4) (q : Fin 16) (e : Entry)
  /-- STEP (R173). -/
  | stepCmd (p : Fin 4) (q : Fin 16) (e : Entry)
  /-- STATE_SAVE (R362). -/
  | stateSave (p : Fin 4) (q : Fin 16) (e : Entry)
  /-- STATE_LOAD (R363). -/
  | stateLoad (p : Fin 4) (q : Fin 16) (e : Entry)
  /-- REPLAY_CHECK (R367). -/
  | replayCheck (p : Fin 4) (q : Fin 16) (e : Entry)
  /-- MARK (R427). -/
  | mark (p : Fin 4) (q : Fin 16) (e : Entry)
  /-- EVENT_SIGNAL (R308). -/
  | eventSignal (p : Fin 4) (q : Fin 16) (e : Entry)
  /-- EVENT_WAIT (R308). -/
  | eventWait (p : Fin 4) (q : Fin 16) (e : Entry)
  /-- BARRIER (R277). -/
  | barrier (p : Fin 4) (q : Fin 16) (e : Entry)
  /-- NOP (R308). -/
  | nop (p : Fin 4) (q : Fin 16) (e : Entry)
  /-- INVALID_OPCODE_ENTRY (R302). -/
  | invalidOpcodeEntry (p : Fin 4) (q : Fin 16) (e : Entry)
  /-- STEP_FENCE_REACHED (R174). -/
  | stepFenceReached (p : Fin 4)
  /-- STATE_SAVE_FENCE_REACHED (R362). -/
  | stateSaveFenceReached (p : Fin 4)
  /-- STATE_LOAD_FENCE_REACHED (R364). -/
  | stateLoadFenceReached (p : Fin 4)
  /-- MM_CLUSTER_START (R95). -/
  | mmClusterStart (p : Fin 4) (q : Fin 16) (n : Word) (k : Nat)
  /-- DEQUE_REFILL (R118). -/
  | dequeRefill (p : Fin 4) (q : Fin 16) (n : Word) (k : Nat)
  /-- TILE_STEAL (R119). -/
  | tileSteal (p : Fin 4) (q : Fin 16) (n : Word) (k : Nat)
  /-- SUBTILE_DRAIN (R78). -/
  | subtileDrain (p : Fin 4) (q : Fin 16) (n : Word) (k : Nat)
  /-- SPLITK_COMBINE (R120). -/
  | splitkCombine (p : Fin 4) (q : Fin 16) (n : Word) (k : Nat) (t : Nat)
  /-- VE_RANGE_START (R153). -/
  | veRangeStart (p : Fin 4) (q : Fin 16) (n : Word)
  /-- UPDATE_BLOCK (R195). -/
  | updateBlock (p : Fin 4) (q : Fin 16) (n : Word) (k : Nat)
  /-- COMMAND_COMPLETION (R305). -/
  | commandCompletion (p : Fin 4) (q : Fin 16)
  /-- VE_NOP (R137). -/
  | veNop (c : Fin 256)
  /-- END (R154). -/
  | veEnd (c : Fin 256)
  /-- BRA (R137). -/
  | bra (c : Fin 256)
  /-- LOOP (R151). -/
  | veLoop (c : Fin 256)
  /-- SMOVI (R137). -/
  | smovi (c : Fin 256)
  /-- SALU (R138). -/
  | salu (c : Fin 256)
  /-- SALUI (R138). -/
  | salui (c : Fin 256)
  /-- SFALU (R137). -/
  | sfalu (c : Fin 256)
  /-- AMOVI (R137). -/
  | amovi (c : Fin 256)
  /-- AADDI (R137). -/
  | aaddi (c : Fin 256)
  /-- AADDS (R137). -/
  | aadds (c : Fin 256)
  /-- VEXT (R137). -/
  | vext (c : Fin 256)
  /-- RDSR (R138). -/
  | rdsr (c : Fin 256)
  /-- FADD (R134). -/
  | fadd (c : Fin 256)
  /-- FSUB (R134). -/
  | fsub (c : Fin 256)
  /-- FMUL (R134). -/
  | fmul (c : Fin 256)
  /-- FFMA (R134). -/
  | ffma (c : Fin 256)
  /-- FMIN (R134). -/
  | fmin (c : Fin 256)
  /-- FMAX (R134). -/
  | fmax (c : Fin 256)
  /-- FCMP (R137). -/
  | fcmp (c : Fin 256)
  /-- VSEL (R137). -/
  | vsel (c : Fin 256)
  /-- PLOG (R137). -/
  | plog (c : Fin 256)
  /-- IADD (R137). -/
  | iadd (c : Fin 256)
  /-- ISUB (R137). -/
  | isub (c : Fin 256)
  /-- IMUL (R137). -/
  | imul (c : Fin 256)
  /-- IMAD (R137). -/
  | imad (c : Fin 256)
  /-- IMIN (R137). -/
  | imin (c : Fin 256)
  /-- IMAX (R137). -/
  | imax (c : Fin 256)
  /-- ILOG (R137). -/
  | ilog (c : Fin 256)
  /-- ISHF (R137). -/
  | ishf (c : Fin 256)
  /-- ICMP (R137). -/
  | icmp (c : Fin 256)
  /-- VMOVI (R137). -/
  | vmovi (c : Fin 256)
  /-- VMOV (R137). -/
  | vmov (c : Fin 256)
  /-- FRCP (R139). -/
  | frcp (c : Fin 256)
  /-- FRSQ (R139). -/
  | frsq (c : Fin 256)
  /-- FEXP2 (R139). -/
  | fexp2 (c : Fin 256)
  /-- FLOG2 (R139). -/
  | flog2 (c : Fin 256)
  /-- FTANH (R139). -/
  | ftanh (c : Fin 256)
  /-- FSIGM (R139). -/
  | fsigm (c : Fin 256)
  /-- CVTF (R140). -/
  | cvtf (c : Fin 256)
  /-- CVTT (R141). -/
  | cvtt (c : Fin 256)
  /-- CVTSR (R142). -/
  | cvtsr (c : Fin 256)
  /-- FSCL (R137). -/
  | fscl (c : Fin 256)
  /-- I2F (R137). -/
  | i2f (c : Fin 256)
  /-- F2I (R137). -/
  | f2i (c : Fin 256)
  /-- RSUM (R147). -/
  | rsum (c : Fin 256)
  /-- RMAX (R147). -/
  | rmax (c : Fin 256)
  /-- RMIN (R147). -/
  | rmin (c : Fin 256)
  /-- RISUM (R147). -/
  | risum (c : Fin 256)
  /-- VPERM (R137). -/
  | vperm (c : Fin 256)
  /-- VROT (R137). -/
  | vrot (c : Fin 256)
  /-- VBCL (R137). -/
  | vbcl (c : Fin 256)
  /-- GFEED (R148). -/
  | gfeed (c : Fin 256)
  /-- LBAR (R149). -/
  | lbar (c : Fin 256)
  /-- LRED (R150). -/
  | lred (c : Fin 256)
  /-- LBAR_RELEASE (R150). -/
  | lbarRelease (p : Fin 4) (q : Fin 16) (n : Word)
  /-- LD (R143). -/
  | ld (c : Fin 256)
  /-- ST (R143). -/
  | st (c : Fin 256)
  /-- LDX (R144). -/
  | ldx (c : Fin 256)
  /-- STX (R144). -/
  | stx (c : Fin 256)
  /-- LDSCL (R145). -/
  | ldscl (c : Fin 256)
  /-- STSCL (R145). -/
  | stscl (c : Fin 256)
  /-- MOD_INFO (R297). -/
  | modInfo
  /-- POLDER_CREATE (R371). -/
  | polderCreate
  /-- POLDER_DESTROY (R372). -/
  | polderDestroy
  /-- FW_WRITE_QUERY (R328). -/
  | fwWriteQuery
  /-- FW_WRITE_BEGIN (R329). -/
  | fwWriteBegin
  /-- FW_WRITE_DATA (R329). -/
  | fwWriteData
  /-- FW_WRITE_COMMIT (R329). -/
  | fwWriteCommit
  /-- FW_WRITE_ABORT (R329). -/
  | fwWriteAbort
  /-- FW_PROGRAMMING_DONE (R330). -/
  | fwProgrammingDone (good : Bool)
  /-- FW_RECOVER_BEGIN (R332). -/
  | fwRecoverBegin
  /-- FW_RECOVER_DATA (R332). -/
  | fwRecoverData
  /-- FW_RECOVER_COMMIT (R332). -/
  | fwRecoverCommit
  /-- SPARE_REPORT_SUMMARY (R353). -/
  | spareReportSummary
  /-- SPARE_REPORT_REPAIR (R354). -/
  | spareReportRepair
  /-- SPARE_REPORT_MARGIN_TEST (R353). -/
  | spareReportMarginTest
  /-- POWER_CAP_SET (R405). -/
  | powerCapSet
  /-- METER_CONFIG_SET_RING (R403). -/
  | meterConfigSetRing
  /-- METER_CONFIG_RELEASE (R403). -/
  | meterConfigRelease
  /-- METER_CONFIG_SET_PARAMETERS (R403). -/
  | meterConfigSetParameters
  /-- METER_CONFIG_READ_STATEMENT (R403). -/
  | meterConfigReadStatement
  /-- COUNTER_CLEAR (R419). -/
  | counterClear
  /-- DEBUG_UNLOCK_CHALLENGE (R379). -/
  | debugUnlockChallenge
  /-- DEBUG_UNLOCK_UNLOCK (R379). -/
  | debugUnlockUnlock
  /-- OPEN (R374). -/
  | openPolder (p : Fin 4)
  /-- CLOSE (R375). -/
  | closePolder (p : Fin 4)
  /-- KEY_LOAD (R383). -/
  | keyLoad (p : Fin 4)
  /-- QUEUE_CREATE (R298). -/
  | queueCreate (p : Fin 4)
  /-- QUEUE_DESTROY (R299). -/
  | queueDestroy (p : Fin 4)
  /-- QUEUE_REMOVED (R299). -/
  | queueRemoved (p : Fin 4)
  /-- ATTEST_GET_REPORT (R386). -/
  | attestGetReport (p : Fin 4)
  /-- ATTEST_GET_CHAIN (R385). -/
  | attestGetChain (p : Fin 4)
  /-- GAUGE_CONFIG_RING (R167). -/
  | gaugeConfigRing (p : Fin 4)
  /-- GAUGE_CONFIG_ENTRIES (R169). -/
  | gaugeConfigEntries (p : Fin 4)
  /-- GOV_CONFIG_LOG (R188). -/
  | govConfigLog (p : Fin 4)
  /-- GOV_CONFIG_ENTRIES (R189). -/
  | govConfigEntries (p : Fin 4)
  /-- GROUP_CONFIG (R198). -/
  | groupConfig (p : Fin 4)
  /-- SCHED_CONFIG (R204). -/
  | schedConfig (p : Fin 4)
  /-- DUMP_READ_STATUS (R431). -/
  | dumpReadStatus (p : Fin 4)
  /-- DUMP_READ_COPY (R431). -/
  | dumpReadCopy (p : Fin 4)
  /-- DUMP_READ_CAPTURE (R431). -/
  | dumpReadCapture (p : Fin 4)
  /-- DUMP_READ_RELEASE (R431). -/
  | dumpReadRelease (p : Fin 4)
  /-- DUMP_READ_LIVE_COUNTERS (R433). -/
  | dumpReadLiveCounters (p : Fin 4)
  /-- EVENT_READ (R313). -/
  | eventRead (f : Fin 5)
  /-- METER_READ_STATEMENT (R404). -/
  | meterReadStatement (p : Fin 4)
  /-- METER_READ_CERTIFICATE (R404). -/
  | meterReadCertificate (p : Fin 4)
  /-- METER_READ_STATUS (R404). -/
  | meterReadStatus (p : Fin 4)
  /-- UNKNOWN_MESSAGE_TYPE (R295). -/
  | unknownMessageType (f : Fin 5)
  /-- SQ_TAIL_WRITE (R300). -/
  | sqTailWrite (f : Fin 5) (q : Fin 16) (v : Word)
  /-- CQ_HEAD_WRITE (R303). -/
  | cqHeadWrite (f : Fin 5) (q : Fin 16) (v : Word)
  /-- TIME_LO_READ (R288). -/
  | timeLoRead (f : Fin 5)
  /-- WIN_COMMIT (R289). -/
  | winCommit (f : Fin 5) (v : Word)
  /-- BAR2_READ (R291). -/
  | bar2Read (f : Fin 5) (off : Nat) (len : Nat)
  /-- BAR2_WRITE (R291). -/
  | bar2Write (f : Fin 5) (off : Nat) (data : List Byte)
  /-- CVU_START (R438). -/
  | cvuStart (f : Fin 5) (u : Fin 4)
  /-- CVU_FINISH (R439). -/
  | cvuFinish (f : Fin 5) (u : Fin 4)
  /-- CVU_DATA8 (R438). -/
  | cvuData8 (f : Fin 5) (u : Fin 4) (v : Word)
  /-- CVU_DATA16 (R438). -/
  | cvuData16 (f : Fin 5) (u : Fin 4) (v : Word)
  /-- CVU_DATA32 (R438). -/
  | cvuData32 (f : Fin 5) (u : Fin 4) (v : Word)
  /-- REGISTER_WRITE (R11). -/
  | registerWrite (f : Fin 5) (tgt : RegTarget) (v : DWord)
  /-- POWER_GOOD (R317). -/
  | powerGood
  /-- SITE_TRAINING_DONE (R232). -/
  | siteTrainingDone (m : Fin 32) (good : Bool)
  /-- PORT_BRINGUP_DONE (R266). -/
  | portBringupDone (j : Fin 6) (x : PortTraining) (hello : Hello)
  /-- RELEASE (R317). -/
  | release
  /-- IDENTITY_DERIVATION_DONE (R380). -/
  | identityDerivationDone
  /-- METER_KEY_DERIVATION_DONE (R402). -/
  | meterKeyDerivationDone
  /-- CONFIG_SLOT_REWRITE (R325). -/
  | configSlotRewrite
  /-- PERST_ASSERT (R333). -/
  | perstAssert
  /-- PERST_DEASSERT (R318). -/
  | perstDeassert (rate : Fin 7) (width : Fin 3)
  /-- PF0_RESET (R333). -/
  | pf0Reset
  /-- VF_RESET (R333). -/
  | vfReset (p : Fin 4)
  /-- INPUT_LOSS (R442). -/
  | inputLoss
  /-- PWRBRK_ASSERT (R445). -/
  | pwrbrkAssert
  /-- PWRBRK_DEASSERT (R445). -/
  | pwrbrkDeassert
  /-- REFCLK_LOSS (R448). -/
  | refclkLoss
  /-- MREF_LOSS (R448). -/
  | mrefLoss
  /-- SMB_BOOT_PROGRESS (R447). -/
  | smbBootProgress
  /-- SMB_MODULE_STATE (R447). -/
  | smbModuleState
  /-- SMB_INPUT_POWER (R447). -/
  | smbInputPower
  /-- SMB_POWER_LIMIT (R447). -/
  | smbPowerLimit
  /-- SMB_SERIAL (R447). -/
  | smbSerial
  /-- SMB_FW_VERSION (R447). -/
  | smbFwVersion
  /-- SMB_LIFECYCLE (R447). -/
  | smbLifecycle
  /-- SMB_TEMPERATURES (R447). -/
  | smbTemperatures
  /-- SMB_ALERT_CAUSE (R447). -/
  | smbAlertCause
  /-- SMB_ALERT_RESPONSE (R447). -/
  | smbAlertResponse
  /-- FLIT_RECEIVED (R271). -/
  | flitReceived (j : Fin 6) (flit : RxFlit)
  /-- REPLAY_REQUEST_RECEIVED (R271). -/
  | replayRequestReceived (j : Fin 6) (ack : BitVec 12)
  /-- REPLAY_TIMEOUT (R271). -/
  | replayTimeout (j : Fin 6)
  /-- PORT_RETRAIN_TIMEOUT (R271). -/
  | portRetrainTimeout (j : Fin 6)
  /-- LANE_ERROR_WINDOW (R273). -/
  | laneErrorWindow (j : Fin 6) (lanes : List LaneCount) (levee : LaneCount)
  /-- WRITE_DATA_RECEIVED (R252). -/
  | writeDataReceived (j : Fin 6)
  /-- WRITE_DONE_RECEIVED (R253). -/
  | writeDoneReceived (j : Fin 6)
  /-- COLLECTIVE_DATA_RECEIVED (R259). -/
  | collectiveDataReceived (j : Fin 6)
  /-- MANAGEMENT_MESSAGE_RECEIVED (R266). -/
  | managementMessageReceived (j : Fin 6)
  /-- LEVEE_ARRIVE_RECEIVED (R277). -/
  | leveeArriveReceived (j : Fin 6) (tok : Token)
  /-- LEVEE_RELEASE_RECEIVED (R277). -/
  | leveeReleaseReceived (j : Fin 6) (tok : Token)
  /-- FAULT_TOKEN_RECEIVED (R263). -/
  | faultTokenReceived (j : Fin 6) (tok : Token)
  /-- CREDIT_TOKEN_RECEIVED (R276). -/
  | creditTokenReceived (j : Fin 6) (tok : Token)
  /-- TIME_TOKEN_SEND (R421). -/
  | timeTokenSend
  /-- TIME_TOKEN_RECEIVED (R421). -/
  | timeTokenReceived (j : Fin 6) (est : DWord)
  /-- TIME_SLEW_TICK (R421). -/
  | timeSlewTick
  /-- BARRIER_TIMEOUT (R278). -/
  | barrierTimeout (p : Fin 4) (q : Fin 16) (n : Word)
  /-- REDUCE_TIMEOUT (R263). -/
  | reduceTimeout (p : Fin 4) (q : Fin 16) (n : Word)
  /-- EVENT_WAIT_TIMEOUT (R308). -/
  | eventWaitTimeout (p : Fin 4) (q : Fin 16) (n : Word)
  /-- WATCHDOG_EXPIRY (R428). -/
  | watchdogExpiry (p : Fin 4) (q : Fin 16) (n : Word)
  /-- HANG_DECLARED (R429). -/
  | hangDeclared (p : Fin 4) (q : Fin 16) (n : Word) (freed : Bool)
  /-- CQ_COALESCE_TIMEOUT (R314). -/
  | cqCoalesceTimeout (p : Fin 4) (q : Fin 16)
  /-- QUEUE_LINK_ERROR (R315). -/
  | queueLinkError (p : Fin 4) (q : RingFailure)
  /-- FAULT_DETECTED (R335). -/
  | faultDetected (rep : FaultReport)
  /-- DISCARD_RECORD_POST (R310). -/
  | discardRecordPost (p : Fin 4)
  /-- REPAIR_DONE (R345). -/
  | repairDone (id : Nat) (res : RepairResult)
  /-- KEEPER_HEARTBEAT (R336). -/
  | keeperHeartbeat (beats : List Bool)
  /-- SPARE_MAP_SCAN (R355). -/
  | spareMapScan
  /-- TRIM_SCAN (R355). -/
  | trimScan
  /-- MARGIN_TEST_AUTO_START (R352). -/
  | marginTestAutoStart (d : Fin 4)
  /-- MARGIN_TEST_DONE (R352). -/
  | marginTestDone (d : Fin 4) (res : MarginResult)
  /-- SCRUB (R225). -/
  | scrub (a : Nat) (syms : Nat)
  /-- MR4_POLL (R234). -/
  | mr4Poll (m : Fin 32) (temp : Int) (mr4 : Nat)
  /-- REFRESH (R231). -/
  | refresh (m : Fin 32) (ch : Fin 32)
  /-- ZQ_CALIBRATION (R231). -/
  | zqCalibration (m : Fin 32)
  /-- WCK_DRIFT_TRACK (R231). -/
  | wckDriftTrack (m : Fin 32)
  /-- CHANNEL_POWER_DOWN (R235). -/
  | channelPowerDown (m : Fin 32) (ch : Fin 32)
  /-- SITE_SELF_REFRESH (R235). -/
  | siteSelfRefresh (m : Fin 32)
  /-- IMBALANCE_WINDOW (R238). -/
  | imbalanceWindow (p : Fin 4)
  /-- METER_SAMPLE (R389). -/
  | meterSample (x : RailSample)
  /-- ACTIVITY_ESTIMATE (R390). -/
  | activityEstimate (c : Fin 256) (w : Weights)
  /-- GOVERNOR_EVAL (R406). -/
  | governorEval
  /-- THERMAL_SAMPLE (R409). -/
  | thermalSample (x : Temps)
  /-- REQUEST_CLOSE (R394). -/
  | requestClose (p : Fin 4) (rid : Word)
  /-- METER_BATCH_CLOSE (R401). -/
  | meterBatchClose (ch : Fin 5)
  /-- METER_RECORD_DELIVER (R400). -/
  | meterRecordDeliver (ch : Fin 5)
  deriving DecidableEq, Repr

end Sys2Proof
end

