-- ==== Sys2Proof/Config.lean ====
section
/-! DEFINITION. What one module fixes and what the spec leaves open: constants without a body, so that no
proof can see a value of them. -/

namespace Sys2Proof.Config

/-! Fused and factory contents of the module (R320, R321, R381): DESIGN CHOICE, log 8. -/

/-- The fused serial number (R320). -/
opaque serial : DWord
/-- The SHA-256 digest of the firmware signing public key (R320). -/
opaque fwKeyDigest : BitVec 256
/-- The SHA-256 digest of the debug authority public key (R320). -/
opaque debugKeyDigest : BitVec 256
/-- The image region of the flash as the module ships (R321), by offset. -/
opaque factoryImage : List (Nat × Byte)
/-- The device certificate chain in DER (R381). -/
opaque certChain : List Byte
/-- The fused trim words: die, word, complement (R320). -/
opaque fusedTrims : List (Nat × Word × Word)
/-- The fused identity seed (R320, R380). -/
opaque identitySeed : BitVec 256
/-- The modulus and private exponent of a module whose key generation fails, which R380 does not foresee. -/
opaque failedKey : Nat × Nat
/-- The fused base clock plan: per C-die, the supply voltage in mV of each of the 19 ACLK steps with its complement (R320,
R324). -/
opaque basePlan : List (List (BitVec 16 × BitVec 16))
/-- The flash directory and the factory record (R321). -/
opaque flashDirectory : List Byte
opaque factoryRecord : List Byte
/-- The vendor ID and the revision in configuration space, which R281 does not give in figures. -/
opaque vendorId : BitVec 16
opaque revisionId : Byte

/-- The SMB_ADDR strap, as the carrier wires it (R447). -/
opaque smbAddr : BitVec 3

/-! What the far end of a peer link is, which the spec does not say how a receiver learns: log 10. -/

/-- The number of the port at the far end of port j. -/
opaque farPort : Nat → Nat
/-- The job rank at the far end of port j under a job key ID. -/
opaque farRank : Nat → Nat → BitVec 16

/-! Free values: log 6. -/

/-- The n-th draw of the I-die's entropy source (R373, R374, R379, R399). -/
opaque entropy : Nat → BitVec 256
/-- A byte of memory the spec leaves undefined: free draw n, address a (R129, R339). -/
opaque freeByte : Nat → Nat → Byte
/-- Where the copies of a retired channel lie (R229: private to the module): an index into the die's other channels, by
C-die, channel and data block. -/
opaque copyPlace : Nat → Nat → Nat → Nat
/-- The 16-bit check word of a data block, the mark of a poisoned one, and the summary of a page's poison map (R221,
R224, R226). -/
opaque checkWord : List Byte → BitVec 16
opaque poisonMark : BitVec 16
opaque poisonSummary : List Bool → BitVec 16
/-- The upper half of the result of a BARRIER whose op combines 4 bytes, by op and lower half (R277): log 21. -/
opaque barrierHigh : Nat → Nat → Word
/-- The approximation a VE computes, inside the bound of R139: 0 fexp2, 1 flog2, 2 ftanh, 3 fsigm. -/
opaque approx : Nat → Word → Word

end Sys2Proof.Config
end

