-- ==== Sys2Proof/Machine/State.lean ====
section
/-! DEFINITION. The state of one ZEH-4832 as plain data, and the state after reset: the module with its main
input absent, before POWER_GOOD (R317, R411). INVENTORY.md names the rule and the reset value of each field. -/

namespace Sys2Proof.Machine

/-- No command of this block stops the machine: every failure is a status, a report or a fault class (R15, R335). -/
inductive Fault where
  deriving DecidableEq, Repr

inductive Refusal where
  /-- Raised by exec's arm of a command that has no meaning yet; safe: nothing is claimed of it. -/
  | notModelled (mnemonic : String)
  deriving DecidableEq, Repr

/-- Status codes of R15. -/
inductive Status where
  | ok | okWarn | discarded | descInvalid | formatUnsupported | complementMismatch | accessDenied | domainReuse
  | srDenied | eccUncorrected | hwFault | restoreRngSkew | statePackInvalid | replayMismatch | timeout | keyMissing
  | spareExhausted
  deriving DecidableEq, Repr

/-- A value held with its complement (R10). -/
structure Comp (w : Nat) where
  val  : BitVec w
  comp : BitVec w
  deriving DecidableEq, Repr

/-! ## Accumulators and matrix commands -/

/-- A finite dyadic number, an infinity or a NaN: what an element, a scale or an intermediate denotes. -/
inductive FVal where
  | nan
  | inf (neg : Bool)
  /-- (−1)^neg × m × 2^e -/
  | fin (neg : Bool) (m : Nat) (e : Int)
  deriving DecidableEq, Repr

/-- An AF48 accumulator with its sticky flags (R53, R55) and the products that were accumulate-flushed into it (R54).
Integer accumulation keeps ea = 0 (R57); in G2 mode `a` is the binary32 code or the INT32 value (R67). -/
structure Acc where
  a    : Int
  ea   : Int
  nan  : Bool
  pinf : Bool
  ninf : Bool
  accf : Nat
  deriving DecidableEq, Repr

/-- A tensor descriptor (R101). -/
structure Tensor where
  addr   : Nat
  addrHi : BitVec 16
  scale  : Nat
  scaleHi : BitVec 16
  lines  : Nat
  length : Nat
  stride : Nat
  fmt    : Nat
  smode  : Nat
  tr     : Bool
  rsvd   : Nat
  deriving DecidableEq, Repr

/-- A layer descriptor (R99, R105). -/
structure MmDesc where
  (a b c bias : Tensor)
  prec     : Comp 16
  layer    : Nat
  gauge    : Nat
  slotByte : BitVec 8
  epi      : BitVec 8
  split    : Nat
  tileM    : Nat
  tileN    : Nat
  base     : Nat
  count    : Nat
  epiPtr   : Nat
  epiPtrHi : BitVec 16
  clipLo   : Word
  clipHi   : Word
  scratch  : Nat
  scratchHi : BitVec 16
  scratchSize : Nat
  rsvd     : Nat
  deriving DecidableEq, Repr

/-- What one cluster holds of an MM command (R118, R78): the undealt part of its block, its deque, and the
item in progress with the next sub-tile. -/
structure MmLane where
  started : Bool
  next    : Nat
  stop    : Nat
  deque   : List Nat
  item    : Option Nat
  sub     : Nat
  /-- The bank that the next sub-tile uses (R78). -/
  bank    : Bool
  deriving DecidableEq, Repr

/-- A matrix command in flight: the latched descriptor and widths, and the progress of its work items. -/
structure MmRun where
  d        : MmDesc
  /-- Formats in force for A, B and C (R47, R185), and the passes' widths. -/
  (fa fb fc : Nat)
  (wa wb : Nat)
  p        : Nat
  /-- Scales measured, not read (R365). -/
  measure  : Bool
  lanes    : Tab MmLane
  /-- Inputs that the command shares with a running VE program (R146). -/
  changed  : Bool
  /-- Sums kept of each item, sub-tile by sub-tile, row-major in each (R117). -/
  partials : Tab (List Acc)
  /-- Finished items with the lane that finished each. -/
  finished : List (Nat × Nat)
  combined : List Nat
  deriving DecidableEq, Repr

/-! ## Gauges, governor, update settings -/

/-- Overflow and vanish counts of one class (R162). -/
structure OvfVan where
  ovf : Nat
  van : Nat
  deriving DecidableEq, Repr

/-- Totals of a gauge over a command or a step (R163). -/
structure GTot where
  count : Nat
  nz    : Nat
  nan   : Nat
  sat   : Nat
  flush : Nat
  accf  : Nat
  /-- Largest finite |v| as binary32 bits. -/
  amax  : Word
  cmds  : Nat
  (w4 w8 w16 comp : OvfVan)
  hist  : List Nat
  histSat : Bool
  deriving DecidableEq, Repr

/-- A step's share in a gauge's window (R179). -/
structure GWin where
  nz : Nat
  (w4 w8 w16 comp : OvfVan)
  deriving DecidableEq, Repr

/-- A configured gauge (R161, R167): settings, totals of the step in progress, window (newest first), streak. -/
structure Gauge where
  gradient : Bool
  wdOff    : Bool
  ladder   : Nat
  bpl      : Nat
  bs       : Nat
  scaleAddr : Nat
  stateAddr : Nat
  lines    : Nat
  tot      : GTot
  win      : List GWin
  streak   : Nat
  deriving DecidableEq, Repr

/-- A governed layer (R179-R183, R189). -/
structure Layer where
  feed   : Option Nat
  grad   : Option Nat
  follow : Bool
  width  : Option Nat
  streak : Nat
  band   : Option (Nat × Nat)
  /-- Intersection of the bands latched in the step in progress (R180). -/
  stepBand : Option (Nat × Nat)
  /-- Width adopted and the step of the adoption, not yet logged (R181). -/
  adopted : Option (Nat × Word)
  deriving DecidableEq, Repr

/-- A GAUGE_CONFIG or GOV_CONFIG entry as the request gave it (R167, R188). -/
structure GaugeEntry where
  id : Nat
  (remove gradient wdOff : Bool)
  (ladder bpl bs scaleAddr stateAddr lines : Nat)
  deriving DecidableEq, Repr

structure LayerEntry where
  id : Nat
  (remove follow : Bool)
  width : Nat
  (feed grad : Nat)
  deriving DecidableEq, Repr

/-- A change that waits for a STEP (R169, R189). -/
inductive Staged where
  | ring (base entries : Nat)
  | gauge (g : GaugeEntry)
  | log (base entries : Nat)
  | layer (l : LayerEntry)
  deriving DecidableEq, Repr

/-- A parameter group (R197). -/
structure Group where
  (rule sched : Nat)
  skip   : Bool
  (baseLr b1 b2 eps wd trust : Word)
  n0     : Word
  (master moment policy : Nat)
  deriving DecidableEq, Repr

/-- A learning-rate schedule (R204). -/
structure Sched where
  (restarts doubling : Bool)
  kind   : Nat
  (ns nw nd : Word)
  (rEnd log2g : Word)
  deriving DecidableEq, Repr

/-! ## Commands in flight -/

/-- A VK launch (R152, R153). -/
structure VkRun where
  (base count : Nat)
  report  : Nat
  flush   : Bool
  prog    : List DWord
  scalars : List Word
  addrs   : List (BitVec 48)
  started : Bool
  /-- Clusters that raised an exception before all had stopped, and the lowest index among them (R156). -/
  (raised low : Nat)
  deriving DecidableEq, Repr

/-- A block of an UPDATE between its rule arithmetic and its write-back (R195): what the write-back will store, and
the block's share of the report (R202, R212). -/
structure UpdBlock where
  block  : Nat
  stores : List (Nat × List Byte)
  amax   : Word
  nonfinite : Nat
  deriving DecidableEq, Repr

/-- An UPDATE in flight (R191-R195). -/
structure UpdRun where
  desc    : List Byte
  group   : Group
  lr      : Word
  fclip   : Word
  e       : Int
  skipAll : Bool
  (base count : Nat)
  started : Bool
  /-- Blocks committed by this command with their amax, blocks skipped by their tag with the stored amax. -/
  committed : Tab Word
  skipped : Tab Word
  nonfinite : Nat
  prog    : List DWord
  /-- Blocks whose copy program runs, by position in the cluster range. -/
  work    : Tab UpdBlock
  /-- What the copy programs of committed blocks have stored to the S-tier, and to the cluster buffers by position (R455). -/
  copied  : List (Nat × Nat)
  copiedBuf : List (Nat × Nat × Nat)
  deriving DecidableEq, Repr

/-- Where a REDUCE stands in the four phases of R262. -/
inductive RedPhase where
  | start | exchange | closing | final
  deriving DecidableEq, Repr

/-- A REDUCE in flight (R256-R262): `val` is the member's current partial value of each element, `got` what has been
received or sent in this attempt as (stage, first element, elements), `sent` whether it has arrived at the barrier of
its phase, `sum` its share of a norm-final. -/
structure RedRun where
  desc    : List Byte
  phase   : RedPhase
  attempt : Nat
  val     : List Word
  got     : List (Nat × Nat × Nat)
  sent    : Bool
  sum     : Word × Word
  deriving DecidableEq, Repr

structure BarRun where
  id      : Word
  parent  : Nat
  kids    : BitVec 6
  op      : Nat
  own     : DWord
  result  : Nat
  sent    : Bool
  deriving DecidableEq, Repr

inductive Body where
  | done
  | mm (r : MmRun)
  | vk (r : VkRun)
  | update (r : UpdRun)
  | reduce (r : RedRun)
  | barrier (r : BarRun)
  /-- A STEP that waits for its fence: how many staged changes it will apply (R169). -/
  | step (staged : Nat)
  | save (desc items : List Byte)
  | load (desc items : List Byte)
  | wait (event : Nat) (value : Word)
  /-- A MOVE to a peer that waits for its confirmation (R253). -/
  | remote (id : Word)
  deriving DecidableEq, Repr

/-- Memory a command may write: lines of `bytes` bytes, `stride` apart, in device or host memory. -/
structure Area where
  host   : Bool
  addr   : Nat
  lines  : Nat
  bytes  : Nat
  stride : Nat
  deriving DecidableEq, Repr

/-- The inputs of a running MM command, and whether a byte of them has changed since command start (R100); the model's
own record. -/
structure Watch where
  (p : Fin 4)
  (q : Fin 16)
  (n : Word)
  areas   : List Area
  changed : Bool
  deriving DecidableEq, Repr

/-- A command between command start and the posting of its completion. -/
structure Cmd where
  q       : Fin 16
  e       : Entry
  /-- The entry passed the checks of R302. -/
  valid   : Bool
  body    : Body
  warn    : BitVec 16
  /-- The final status once the command's work has ended, and the levee time of that decision (R303). -/
  res     : Option Status
  doneTime : DWord
  detail  : Word
  /-- The step in which it reached command start (R171), and the gauges configured then (R169, R296). -/
  step    : Word
  known   : List Nat
  /-- Gauge contributions kept apart (R164) and spillway bits by state-entry address (R177). -/
  contrib : Tab GTot
  spill   : Tab Byte
  startRec : DWord
  /-- The descriptor as read at command start (R100, R430). -/
  desc    : List Byte
  claims  : List Nat
  /-- What becomes undefined when the command fails or is discarded (R129, R339). -/
  areas   : List Area
  /-- Energy attributed, direct and shared, in µJ (R392). -/
  energy  : Nat
  shared  : Nat
  /-- The watchdog has expired and the Keeper waits for the units (R428). -/
  expired : Bool
  /-- It is or was one that holds cube-rows or VEs (R415). -/
  held : Bool
  deriving DecidableEq, Repr

/-! ## Queues and functions -/

inductive QState where
  | absent | running | held | error
  deriving DecidableEq, Repr

structure Queue where
  st      : QState
  tailErr : Bool
  vector  : Nat
  depth   : Nat
  sqBase  : Nat
  cqBase  : Nat
  watchdog : Nat
  coCount : Nat
  coTime  : Nat
  tail    : Word
  head    : Word
  taken   : Word
  fence   : Word
  /-- The entry at the head, once the Keeper has found that its start waits (R304, R305). -/
  waiting : Option Entry
  /-- Completion entries written since QUEUE_CREATE, discard records included. -/
  posted  : Nat
  /-- Completions since the last MSI-X message (R314). -/
  unsignalled : Nat
  destroying : Bool
  deriving DecidableEq, Repr

/-- A module event entry (R312). -/
structure Event where
  code    : BitVec 16
  polder  : Byte
  seq     : Word
  time    : DWord
  payload : List Byte
  deriving DecidableEq, Repr

/-- A mailbox request as copied at the doorbell (R293): the doorbell's sequence and the 4 KiB of MB_REQ. -/
structure Request where
  seq   : BitVec 16
  /-- The local count at the doorbell's arrival (R422). -/
  time  : DWord
  bytes : Tab Byte
  deriving DecidableEq, Repr

/-- Configuration space of one function (R281, R314): power state D3hot, the codes of Max_Payload_Size and
Max_Read_Request_Size in Device Control, MSI-X Enable and Function Mask, the AER status words. -/
structure PciConfig where
  d3hot : Bool
  mps   : BitVec 3
  mrrs  : BitVec 3
  (msixEnable msixMask : Bool)
  aerUncor : Word
  aerCor   : Word
  deriving DecidableEq, Repr

/-- A snapshot of a counter set (R416): the generation of its edge, the 1 µs slot of the sample in progress that holds the
edge while that slot is not yet attributed, and the energy attributed up to the edge so far. -/
structure Snap where
  set    : Nat
  gen    : DWord
  slot   : Option Nat
  energy : Nat
  deriving DecidableEq, Repr

/-- A live read that waits for the energies of its snapshots (R416, R433): the response payload, the energies zero. -/
structure LiveRead where
  bytes : List Byte
  snaps : List Snap
  deriving DecidableEq, Repr

/-- The registers and queues of one function (R284-R289, R312). -/
structure Func where
  doorbell : BitVec 16
  (busy ready overrun mismatch : Bool)
  rspSeq   : BitVec 16
  mbReq    : Tab Byte
  mbRsp    : Tab Byte
  latched  : Option Request
  cause    : Word
  mask     : Word
  timeSnap : Word
  (winLo winHi : Word)
  winBase  : BitVec 18
  winDenied : Bool
  events   : List Event
  lost     : Word
  eventSeq : Word
  msixTable : Tab Byte
  msixPending : DWord
  resetting : Bool
  live     : Option LiveRead
  config   : PciConfig
  deriving DecidableEq, Repr

/-- A BAR0 check-value unit (R438, R439): staging copies, latched copies, the running computation. -/
structure Cvu where
  cfg  : Word
  (init fxor exp : DWord)
  lcfg : Word
  (lfxor lexp : DWord)
  reg  : DWord
  (run done match_ mismatch seqErr cfgErr : Bool)
  /-- Data writes queued: bytes left of each, oldest first. -/
  queue : List (List Byte)
  count : Word
  deriving DecidableEq, Repr

/-! ## Polders -/

structure JobKey where
  key  : BitVec 256
  rank : BitVec 16
  id   : Word
  deriving DecidableEq, Repr

/-- A request being metered (R394). -/
structure Req where
  start  : DWord
  last   : DWord
  cmds   : Nat
  live   : Nat
  /-- A command of it was discarded, and none has started since (R394). -/
  cut    : Bool
  (energy shared discarded : Nat)
  /-- Energy already reported in records, in µJ (R395). -/
  (reported reportedShared reportedDisc : Nat)
  delay  : Nat
  deriving DecidableEq, Repr

structure GroupAcc where
  (start last : DWord)
  (cmds merged energy shared discarded : Nat)
  deriving DecidableEq, Repr

/-- A command as attribution knows it: polder, queue, sequence, request, counter set (R391, R392). -/
structure Who where
  p   : Fin 4
  q   : Fin 16
  n   : Word
  rid : Word
  set : BitVec 16
  deriving DecidableEq, Repr

/-- A record of the trace ring that is not yet written: its 256 bytes, and for types 1 to 3 the snapshot in it, the energy
of which they do not hold yet (R416, R426). -/
structure RingDue where
  bytes : List Byte
  snap  : Option Snap
  deriving DecidableEq, Repr

/-- A held hang dump in the dump region: its length, the triggers that came later, and the snapshots in it whose energy is
due, with the byte offset of that energy (R416, R429, R430). -/
structure Dump where
  length : Nat
  later  : Nat
  snaps  : List (Nat × Snap)
  deriving DecidableEq, Repr

/-- STATE.POLDER (R285). `closing` and `faultedClosing`: opened or faulted, with a fault detected while CLOSE runs;
`shut`: closed by that CLOSE and still under repair, which reads 3 (R377, R452). -/
inductive PState where
  | absent | closed | opened | closing | repairing | shut | faulted | faultedClosing
  deriving DecidableEq, Repr

structure Polder where
  st       : PState
  mode     : Nat
  hashKey  : BitVec 128
  seed     : BitVec 128
  (peerBase peerLen : Nat)
  traceSize : Nat
  u        : List Nat
  openNonce : BitVec 128
  openDigest : BitVec 256
  key      : Option JobKey
  /-- IV counters by 256 × channel + class (R249, R268). -/
  ivs      : Tab DWord
  step     : Word
  /-- Module-held items whose first or second copy fails its complement (R355, R356), one bit per item:
  0 step counter, 1 learning rate, 2 schedules, 3 groups, 4 governor, 5 streaks, 6 SR seed, 7 claim table. -/
  (bad0 bad1 : Byte)
  events   : Tab Word
  claims   : List Nat
  /-- Update cells written in this step (R203). -/
  cells    : List Nat
  gRing    : Option (Nat × Nat)
  gauges   : Tab (Option Gauge)
  recSeq   : DWord
  layers   : Tab (Option Layer)
  log      : Option (Nat × Nat × DWord)
  staged   : List Staged
  groups   : Tab (Option Group)
  scheds   : Tab (Option Sched)
  origin   : Option Nat
  loaded   : Bool
  defaulted : Option Word
  acctOff  : DWord
  traceWritten : DWord
  dump     : Option Dump
  queues   : Vector Queue 16
  /-- The queue a dispatch core served last (R304). -/
  served   : Fin 16
  /-- BAR2 accesses refused for an uncorrectable error (R291). -/
  eccErrs  : DWord
  inflight : List Cmd
  /-- The fault class of a discard whose records are still due, with its repair ID. -/
  discard  : Option (Nat × Nat)
  /-- The last barriers released, by port set, with their results (R278). -/
  released : List (Nat × Word × DWord)
  /-- Arrivals received and not yet combined: barrier ID or tag, port, payload (R277). -/
  arrivals : List (Word × Nat × DWord)
  /-- The last attempt of each collective tag (R262, R263). -/
  attempts : Tab Nat
  /-- Barrier IDs and tags whose timeout has expired (R263, R278). -/
  timedOut : List Word
  /-- Remote writes that wait for the peer's confirmation: write ID, queue, sequence (R253). -/
  remoteOut : List (Word × Fin 16 × Word)
  chanBytes : Tab Nat
  winStart : DWord
  reqs     : Tab (Option Req)
  accs     : Tab (Option GroupAcc)
  openEnergy : Nat
  /-- Energy of the idle record, the shared energy in it, and the fractions it will take up (R396). -/
  (idleEnergy idleShared idleFrac : Nat)
  idleStart : DWord
  /-- Commands that have left since the last sample, and whether each was discarded (R391, R392). -/
  recent : List (Who × Bool)
  /-- Records of the trace ring that wait to be written, oldest first (R416, R426). -/
  ringDue : List RingDue
  deriving DecidableEq, Repr

/-! ## Clusters and vector engines -/

/-- `stopping`: another cluster of the launch raised an exception, and this one is before its next instruction boundary
(R156). -/
inductive VeMode where
  | idle | running | atBarrier | ended | stopping
  deriving DecidableEq, Repr

/-- A vector engine (R132): `loops` holds for lc0 and lc1 the body's first and last instruction while active;
`contribution` is the operation, value and destination of the lred it waits in. -/
structure Ve where
  v    : Vector (Vector Word 64) 32
  sreg : Vector Word 16
  p    : Vector DWord 8
  a    : Vector (BitVec 48) 8
  lc   : Vector Word 2
  loops : Vector (Option (Nat × Nat)) 2
  pc   : BitVec 12
  store : Tab Byte
  /-- Parts of the data region that no store has written since program start: start, end and the free draw they read
  as (R133). -/
  stale : List (Nat × Nat × Nat)
  prog : List DWord
  mode : VeMode
  /-- Owner: polder, queue, sequence, launch position, launch cluster count. -/
  owner : Option (Fin 4 × Fin 16 × Word × Nat × Nat)
  update : Bool
  flush : Bool
  bars : Nat
  contribution : Option (Nat × Word × Fin 16)
  /-- What the program has stored to the S-tier and to the cluster buffer so far: address and length (R455). -/
  areas : List (Nat × Nat)
  bufAreas : List (Nat × Nat)
  /-- S-tier bytes read and written since the last barrier: address and length (R146). -/
  (reads writes : List (Nat × Nat))
  deriving DecidableEq, Repr

/-- A unit that a command holds or held: a pack slot by its number, or the VE; its occupancy in eighths (R391, R393). -/
structure Held where
  unit : Option Nat
  occ  : Nat
  p    : Fin 4
  q    : Fin 16
  n    : Word
  deriving DecidableEq, Repr

/-- A command's part in a unit during one 1 µs slot: the cycles for which it held the unit, and its occupancy in 1/8,192
(R391, R393). -/
structure UseBy where
  who    : Who
  cycles : Nat
  occ    : Nat
  deriving DecidableEq, Repr

/-- A unit during one 1 µs slot: the commands that held it, in their order, and its weight (R390). -/
structure UnitUse where
  users : List UseBy
  w     : Weight
  deriving DecidableEq, Repr

structure Cluster where
  /-- Busy pack slots: slot number, size in cube-rows, owner (R93, R95). -/
  slots  : List (Nat × Nat × Fin 4 × Fin 16 × Word)
  /-- Accumulators (R73): accumulator (m, n) of bank b of physical cube c at 64 × (66 × b + c) + 8 × m + n. -/
  accs   : Tab Acc
  /-- Product tables (R84): the 256 entries T[i][c], at 16 × i + c, of table bank b of physical cube c at 66 × b + c. -/
  tables : Tab (List FVal)
  /-- Digit registers (R86): that of cell (m, n, k) of physical cube c at 512 × c + 64 × m + 8 × n + k. -/
  digits : Tab Word
  buffer : Tab Byte
  /-- Parts of the cluster buffer that hold what an MM command staged there, in a layout the spec keeps to itself:
  start, end and the free draw they read as (log 15). -/
  staged : List (Nat × Nat × Nat)
  ve     : Ve
  /-- The unit uses of the current 10 µs sample, one list per 1 µs slot reported, oldest first (R390). -/
  weights : List (List UnitUse)
  /-- Units that commands have released in the 1 µs slot in progress (R391). -/
  gone : List Held
  deriving DecidableEq, Repr

/-! ## Memory sites, peer ports, meter -/

inductive SiteState where
  | untrained
  | trained (bin : Nat)
  | failed
  deriving DecidableEq, Repr

structure Site where
  st     : SiteState
  trying : Nat
  temp   : Int
  zqTemp : Int
  /-- Thermal level of R234 and R409: 0 none, 1 above 85, 2 above 95, 3 above 100, 4 above 105, 5 above 110 °C. -/
  level  : Nat
  /-- Refresh interval in force relative to nominal: the smaller of R234's and MR4's, in 1/8. -/
  refresh : Nat
  /-- Bandwidth limit in percent (R24, R234, R406, R409). -/
  limit  : Nat
  powerDown : List Nat
  (selfRefresh deepSleep : Bool)
  /-- Segments of each channel that self-refresh leaves out, one bit per segment (R235). -/
  pasr   : List Nat
  /-- Per-bank refreshes, all-bank refreshes, ZQ latches, drift trackings (R231). -/
  (refreshes allBank zqs wcks : Nat)
  /-- Trained delays and reference levels (R324). -/
  delays : BitVec 256
  deriving DecidableEq, Repr

/-- Peer port: in electrical idle, at bring-up, up on eight or on four lanes, retraining, failed (R266, R271, R273). -/
inductive PortStatus where
  | down | training | retraining | up | upFour | failed
  deriving DecidableEq, Repr

structure Port where
  st       : PortStatus
  fallback : Bool
  /-- The levee lane trains again while the data lanes run (R274). -/
  leveeTraining : Bool
  /-- Transmitter equalisation settings of the last training, one byte a lane (R324). -/
  eq       : List Byte
  /-- Lane switches agreed over T3 and still to be made: did this end name it, the lane, and the sequence of the flits that
  the end which named it sends at which both ends switch (R273). -/
  switchAt : List (Bool × Nat × BitVec 12)
  spareUsed : Bool
  owner    : Option (Fin 4)
  /-- Lanes taken out of service, and consecutive windows with uncorrectable codewords per lane (R273). -/
  badLanes : List Nat
  badWins  : List Nat
  (txSeq rxNext acked : BitVec 12)
  replay   : List (List Byte)
  /-- Where the body of a T3 flit holds the fallback's tokens, by sequence number: start and length (R274). -/
  tokenPart : Tab (Nat × Nat)
  stalls   : Nat
  replayAsked : Bool
  credits  : Vector Nat 4
  /-- Credits to return to the sender, per class. -/
  owed     : Vector Nat 4
  /-- Received body streams of T1, T2, T3 not yet taken as messages. -/
  streams  : Vector (List Byte) 4
  /-- Messages of T1, T2, T3, or what is left of them, that wait to be packed into flit bodies; at class 0 the fallback's
  token messages, which go first on T3 (R268, R274). Tokens that wait for T0 credits. -/
  wait     : Vector (List (List Byte)) 4
  tokWait  : List Token
  /-- Turn of the weighted round-robin of R270: T1 flits sent since the last T2 flit. -/
  turn     : Nat
  txFlits  : List (List Byte)
  txTokens : List Token
  /-- Fault tokens forwarded already, by the payload that names them (log 10). -/
  faultsSeen : List DWord
  /-- Remote writes of which a message was refused (R252). -/
  refused  : List Word
  /-- What the remote writes in progress have stored: write ID, address, bytes (R252). -/
  landed   : List (Word × Nat × Nat)
  deriving DecidableEq, Repr

/-- A record chain of the meter (R398-R403). -/
structure Chain where
  seq    : Nat
  head   : BitVec 256
  batch  : Nat
  first  : Nat
  lost   : Nat
  ring   : Option (Nat × Nat)
  released : Nat
  buffer : List (Nat × List Byte)
  statements : List (Nat × List Byte)
  /-- Closed batches that wait for the meter key (R402). -/
  unsigned : List (Nat × List Byte)
  shift  : Nat
  delay  : Nat
  nextParams : Option (Nat × Nat)
  /-- Energy of the module chain not yet recorded, in µJ. -/
  energy : Nat
  periodStart : DWord
  deriving DecidableEq, Repr

structure Power where
  cap   : Nat
  aclk  : Nat
  duty  : Nat
  ceil  : Vector Nat 4
  /-- The time of the last change of a die's ceiling (R409). -/
  ceilTime : Vector DWord 4
  stretch : Bool
  inputs : List Nat
  lastStep : DWord
  eventTimes : Vector (Option DWord) 4
  dieLevel : Vector Nat 4
  iLevel : Nat
  /-- I-die sluice rate, and T1 and T2 flit slots of the peer ports, in percent (R409). -/
  (iSluices flitSlots : Nat)
  /-- The C-die and memory rails are on (R410, R442); the PLLs of R26 have locked (R317). -/
  (rails locked : Bool)
  thermTimes : Tab (Option DWord)
  temps : Temps
  deriving DecidableEq, Repr

/-! ## Boot, fuses, flash, repair -/

inductive Boot where
  | off | fuses | image | config | training | ready | recovery | offline | thermalHold
  deriving DecidableEq, Repr

structure Fuses where
  serial    : DWord
  lifecycle : Nat
  pending   : Bool
  floor     : Nat
  fwDigest  : BitVec 256
  dbgDigest : BitVec 256
  /-- The 256-bit identity seed (R320, R380). -/
  seed      : BitVec 256
  /-- The fused base clock plan: per C-die, 19 supply voltages in mV from 1.8 to 3.6 GHz, each with its complement (R320,
  R324). -/
  basePlan  : List (List (Comp 16))
  trims     : List (Nat × Comp 32)
  /-- Permanent remaps with the fuse bank that holds each, in the die order of R353. -/
  remaps    : List (Nat × Comp 64)
  deriving DecidableEq, Repr

/-- The clock plans (R324): per C-die the supply voltage in mV of each of the 19 ACLK steps, FCLK in MHz, and the DCLK of
each site in kHz, which follows its bin (R26). -/
structure ClockPlan where
  volts : List (List Nat)
  fclk  : Nat
  dclk  : List Nat
  deriving DecidableEq, Repr

/-- What a configuration blob says (R323, R324): its generation and the contents of its sections. -/
structure Blob where
  gen     : Word
  /-- Training cache: per site the bin last trained, 0xFF for none, and the delays and levels. -/
  bins    : List Nat
  delays  : List (BitVec 256)
  plan    : ClockPlan
  remaps  : List (Comp 64)
  /-- Peer equalisation cache, by port. -/
  eqs     : List (List Byte)
  history : List DWord
  deriving DecidableEq, Repr

/-- The flash of R321: in its first MiB the directory, the certificate chain and the factory record; the image region;
the bytes of the two configuration slots, an erased slot being empty. -/
structure Flash where
  directory : List Byte
  chain : List Byte
  factory : List Byte
  image : Tab Byte
  slotA : List Byte
  slotB : List Byte
  deriving DecidableEq, Repr

inductive FwState where
  | idle | staging | programming | programmed | failed
  deriving DecidableEq, Repr

structure Fw where
  st      : FwState
  length  : Nat
  staged  : Tab Byte
  written : List (Nat × Nat)
  /-- FW_RECOVER: begun, the length begun, the next offset (R332). -/
  recBegun : Bool
  recLength : Nat
  recNext : Nat
  deriving DecidableEq, Repr

/-- The report of one repair (R354); a repair in progress has `done = 0`. -/
structure Repair where
  id       : Nat
  polders  : List (Fin 4)
  cls      : Nat
  outcome  : Nat
  (detected record done : DWord)
  (source kind die unit : Nat)
  spares   : List DWord
  unfinished : List (Fin 4 × Fin 16 × Word)
  poisoned : List (Nat × Nat)
  lost     : Bool
  active   : Bool
  deriving DecidableEq, Repr

inductive Layout where
  | none | whole | halves | quarters
  deriving DecidableEq, Repr

/-- Counters of one set, in the order of R415. -/
abbrev Counters := Vector DWord 14

structure CounterBank where
  sets : Tab Counters
  gen  : DWord
  /-- The local count of the edge that last advanced the generation (R417), the rank in R426's order of the last event at
  it, and whether increments have been delivered since (R416). -/
  edge : Option DWord
  rank : Nat
  dirty : Bool
  deriving DecidableEq, Repr

structure State where
  boot      : Boot
  perst     : Bool
  pwrbrk    : Bool
  thermtrip : Bool
  modPwrgd  : Bool
  smbAlert  : Bool
  alert     : Byte
  lastReset : Nat
  /-- Rate code and width (1, 2 or 4) of the trained host link (R297). -/
  (hostRate hostWidth : Nat)
  bootFlags : Byte
  slotGen   : Word
  slotUsed  : Option Bool
  slotDue   : Bool
  /-- The slot was defaulted, and step 4 runs the self-test of clusters and S-slices (R317, R326). -/
  selfTest  : Bool
  /-- The clock plans in force (R324). -/
  plan      : ClockPlan
  releaseTime : DWord
  localCount : DWord
  correction : DWord
  /-- Nanoseconds by which each port's neighbour is still ahead (R421). -/
  slew      : Vector Nat 6
  bootNonce : BitVec 128
  draws     : Nat
  lastRead  : List Byte
  fuses     : Fuses
  flash     : Flash
  fw        : Fw
  fwVersion : Word
  fwSecurity : BitVec 16
  (romDigest fwDigest cfgDigest : BitVec 256)
  layout    : Layout
  numVfs    : Nat
  vfEnable  : Bool
  softRemaps : List (Comp 64)
  trims     : List (Nat × Comp 32)
  history   : List DWord
  failedDies : Vector Bool 4
  marginDies : Vector Bool 4
  clean     : Vector Bool 4
  repairs   : Nat
  lastRepair : Nat
  reports   : List Repair
  corrected : Vector DWord 8
  (dispatchCores mgmtCores : Nat)
  /-- Physical cores whose heartbeat has been lost (R347). -/
  coresLost : List Nat
  identity  : Bool
  meterKey  : Bool
  challenge : Option (BitVec 256)
  attestSeq : DWord
  funcs     : Vector Func 5
  cvus      : Vector Cvu 4
  polders   : Vector Polder 4
  clusters  : Vector Cluster 256
  mem       : List Host.Cell
  /-- Undefined parts of device memory: start, end and the free draw they read as, in rising order (log 6). -/
  undef     : List (Nat × Nat × Nat)
  watch     : List Watch
  hostMem   : List Host.Cell
  msix      : List (Fin 5 × Nat)
  /-- D-tier blocks poisoned (R226) and S-tier words with a double-bit error (R220), by start address. -/
  poison    : Tab Bool
  pageErrs  : Tab (List DWord)
  /-- Pages whose retirement waits for a repair: die, and 2^21 times the channel plus the page (R228). -/
  pagesDue  : List (Fin 4 × Nat)
  sluiceCvu : Tab DWord
  sites     : Vector Site 32
  ports     : Vector Port 6
  counters  : Vector CounterBank 4
  chains    : Vector Chain 5
  power     : Power
  pending   : List Instr
  deriving DecidableEq, Repr

/-! ## Reset -/

def Queue.reset : Queue :=
  { st := .absent, tailErr := false, vector := 0xFF, depth := 0, sqBase := 0, cqBase := 0, watchdog := 0,
    coCount := 0, coTime := 0, tail := 0, head := 0, taken := 0, fence := 0, waiting := none, posted := 0, unsignalled := 0,
    destroying := false }

/-- The base specification's initial payload and read request sizes, 128 and 512 bytes, and MSI-X disabled (log 82). -/
def PciConfig.reset : PciConfig :=
  { d3hot := false, mps := 0, mrrs := 2, msixEnable := false, msixMask := false, aerUncor := 0, aerCor := 0 }

/-- R285-R289 give the register values; log 1 names the rest. -/
def Func.reset : Func :=
  { doorbell := 0, busy := false, ready := false, overrun := false, mismatch := false, rspSeq := 0, mbReq := [],
    mbRsp := [], latched := none, cause := 0, mask := 0, timeSnap := 0, winLo := 0, winHi := 0, winBase := 0,
    winDenied := false, events := [], lost := 0, eventSeq := 0, msixTable := (List.range 64).map fun i => (16 * i + 12, 1), msixPending := 0,
    resetting := false, live := none, config := PciConfig.reset }

def Cvu.reset : Cvu :=
  { cfg := 0, init := 0, fxor := 0, exp := 0, lcfg := 0, lfxor := 0, lexp := 0, reg := 0, run := false,
    done := false, match_ := false, mismatch := false, seqErr := false, cfgErr := false, queue := [],
    count := 0 }

def Polder.reset : Polder :=
  { st := .absent, mode := 0, hashKey := 0, seed := 0, peerBase := 0, peerLen := 0,
    traceSize := 0, u := [], openNonce := 0, openDigest := 0, key := none, ivs := [], step := 0, bad0 := 0,
    bad1 := 0, events := [], claims := [], cells := [], gRing := none, gauges := [], recSeq := 0, layers := [], log := none,
    staged := [], groups := [], scheds := [], origin := none, loaded := false, defaulted := none, acctOff := 0,
    traceWritten := 0, dump := none, queues := Vector.replicate 16 Queue.reset, served := 15, eccErrs := 0,
    inflight := [],
    discard := none, released := [], arrivals := [], attempts := [], timedOut := [], remoteOut := [],
    chanBytes := [], winStart := 0, reqs := [], accs := [], openEnergy := 0, idleEnergy := 0, idleShared := 0,
    idleFrac := 0, idleStart := 0, recent := [], ringDue := [] }

/-- The state of a VE at program start (R132), idle. -/
def Ve.reset : Ve :=
  { v := Vector.replicate 32 (Vector.replicate 64 0), sreg := Vector.replicate 16 0,
    p := (Vector.replicate 8 (0 : DWord)).set 0 (BitVec.allOnes 64), a := Vector.replicate 8 0,
    lc := Vector.replicate 2 0, loops := Vector.replicate 2 none, pc := 0, store := [], stale := [], prog := [], mode := .idle,
    owner := none, update := false, flush := false, bars := 0, contribution := none, areas := [], bufAreas := [],
    reads := [], writes := [] }

def Cluster.reset : Cluster :=
  { slots := [], accs := [], tables := [], digits := [], buffer := [], staged := [], ve := Ve.reset,
    weights := [], gone := [] }

def Site.reset : Site :=
  { st := .untrained, trying := 0, temp := 0, zqTemp := 0, level := 0, refresh := 8, limit := 100, powerDown := [],
    selfRefresh := false, deepSleep := false, pasr := [], refreshes := 0, allBank := 0, zqs := 0, wcks := 0, delays := 0 }

/-- Credits are those of R269: 64 tokens, 1,024, 512 and 32 flits. -/
def Port.reset : Port :=
  { st := .down, fallback := false, leveeTraining := false, eq := [], switchAt := [], spareUsed := false, owner := none, badLanes := [], badWins := [], txSeq := 0,
    rxNext := 0, acked := 0, replay := [], tokenPart := [], stalls := 0, replayAsked := false, credits := #v[64, 1024, 512, 32],
    owed := #v[0, 0, 0, 0], streams := #v[[], [], [], []], wait := #v[[], [], [], []], tokWait := [],
    turn := 0, txFlits := [], txTokens := [], faultsSeen := [], refused := [], landed := [] }

/-- Group shift 8 and close delay 10 ms are the defaults of R394 and R395. -/
def Chain.reset : Chain :=
  { seq := 0, head := 0, batch := 0, first := 0, lost := 0, ring := none, released := 0,
    buffer := [], statements := [], unsigned := [], shift := 8, delay := 10, nextParams := none,
    energy := 0, periodStart := 0 }

/-- 2,800 W after power-up (R25), 3.6 GHz nominal (R26), duty 8 (R24). -/
def Power.reset : Power :=
  { cap := 2800, aclk := 3600, duty := 8, ceil := Vector.replicate 4 3600, ceilTime := Vector.replicate 4 0,
    stretch := false, inputs := [], lastStep := 0, eventTimes := Vector.replicate 4 none,
    dieLevel := Vector.replicate 4 0, iLevel := 0, iSluices := 100, flitSlots := 100, rails := false, locked := false, thermTimes := [],
    temps := { cdies := [], iDie := 0, inlet := 0, outlet := 0 } }

def Fw.reset : Fw :=
  { st := .idle, length := 0, staged := [], written := [], recBegun := false, recLength := 0, recNext := 0 }

/-- The module as shipped (R378: production): log 8. -/
def Fuses.factory : Fuses :=
  { serial := Config.serial, lifecycle := 2, pending := false, floor := 0, fwDigest := Config.fwKeyDigest,
    dbgDigest := Config.debugKeyDigest, seed := Config.identitySeed, basePlan := Config.basePlan.map fun d => d.map fun v => ⟨v.1, v.2⟩,
    trims := Config.fusedTrims.map fun t => (t.1, ⟨t.2.1, t.2.2⟩), remaps := [] }

def CounterBank.reset : CounterBank := { sets := [], gen := 0, edge := none, rank := 0, dirty := false }

def State.reset : State :=
  { boot := .off, perst := true, pwrbrk := false, thermtrip := false, modPwrgd := false, smbAlert := false,
    alert := 0, lastReset := 0, hostRate := 0, hostWidth := 1, bootFlags := 0, slotGen := 0, slotUsed := none, slotDue := false,
    selfTest := false, plan := { volts := [], fclk := 0, dclk := [] }, releaseTime := 0,
    localCount := 0, correction := 0, slew := Vector.replicate 6 0, bootNonce := 0, draws := 0, lastRead := [],
    fuses := Fuses.factory,
    flash := { directory := Config.flashDirectory, chain := Config.certChain, factory := Config.factoryRecord,
               image := Config.factoryImage, slotA := [], slotB := [] },
    fw := Fw.reset, fwVersion := 0, fwSecurity := 0, romDigest := 0, fwDigest := 0, cfgDigest := 0,
    layout := .none, numVfs := 0, vfEnable := false, softRemaps := [], trims := [], history := [],
    failedDies := Vector.replicate 4 false, marginDies := Vector.replicate 4 false,
    clean := Vector.replicate 4 false,
    repairs := 0, lastRepair := 0, reports := [], corrected := Vector.replicate 8 0, dispatchCores := 4,
    mgmtCores := 1, coresLost := [], identity := false, meterKey := false, challenge := none, attestSeq := 0,
    funcs := Vector.replicate 5 Func.reset, cvus := Vector.replicate 4 Cvu.reset,
    polders := Vector.replicate 4 Polder.reset, clusters := Vector.replicate 256 Cluster.reset, mem := [], undef := [],
    watch := [], hostMem := [], msix := [], poison := [], pageErrs := [], pagesDue := [], sluiceCvu := [],
    sites := Vector.replicate 32 Site.reset, ports := Vector.replicate 6 Port.reset,
    counters := Vector.replicate 4 CounterBank.reset, chains := Vector.replicate 5 Chain.reset,
    power := Power.reset, pending := [] }

end Sys2Proof.Machine
end

