-- ==== Sys2Proof/Machine/Ops.lean ====
section
/-! DEFINITION. The named operations over the state: sparse tables, device memory with its access and poison
rules (R214-R217, R220, R226), host memory, interrupts (R287, R314), module events (R312) and counters (R413-R418). -/

namespace Sys2Proof.Machine

/-! ## Vectors and sparse tables -/

def vmod {α : Type} {n : Nat} (xs : Vector α n) (i : Fin n) (f : α → α) : Vector α n := xs.set i (f (xs.get i))

/-- The entries of consecutive keys from k that hold `vs`, the default left out. -/
def tabRow {α : Type} [DecidableEq α] (d : α) : Nat → List α → Tab α
  | _, [] => []
  | k, v :: vs => if v = d then tabRow d (k + 1) vs else (k, v) :: tabRow d (k + 1) vs

/-- Write `vs` at the consecutive keys from k. -/
def tabSplice {α : Type} [DecidableEq α] (d : α) (t : Tab α) (k : Nat) (vs : List α) : Tab α :=
  t.filter (fun c => decide (c.1 < k)) ++ (tabRow d k vs ++ t.filter (fun c => decide (k + vs.length ≤ c.1)))

def tabSet {α : Type} [DecidableEq α] (d : α) (t : Tab α) (k : Nat) (v : α) : Tab α := tabSplice d t k [v]

def tabGet {α : Type} (d : α) (t : Tab α) (k : Nat) : α :=
  match t.find? (fun c => c.1 == k) with
  | some c => c.2
  | none => d

/-- Give every key of [lo, hi) the default. -/
def tabErase {α : Type} (t : Tab α) (lo hi : Nat) : Tab α :=
  t.filter fun c => decide (c.1 < lo) || decide (hi ≤ c.1)

def tabMod {α : Type} [DecidableEq α] (d : α) (t : Tab α) (k : Nat) (f : α → α) : Tab α :=
  tabSet d t k (f (tabGet d t k))

/-! ## Bytes (R8: little-endian) -/

def leBytes : Nat → Nat → List Byte
  | 0, _ => []
  | n + 1, x => BitVec.ofNat 8 x :: leBytes n (x / 256)

def leVal : List Byte → Nat
  | [] => 0
  | b :: bs => b.toNat + 256 * leVal bs

def zeros (n : Nat) : List Byte := List.replicate n 0

/-- Bytes a to a + n − 1 of a byte table. -/
def tabBytes (t : Tab Byte) (a n : Nat) : List Byte := (List.range n).map fun i => tabGet 0 t (a + i)

/-- The field of n bytes at offset o of a structure read as bytes. -/
def fld (bs : List Byte) (o n : Nat) : Nat := leVal ((bs.drop o).take n)

/-- Are the n bytes at offset o all zero? -/
def zeroAt (bs : List Byte) (o n : Nat) : Bool := ((bs.drop o).take n).all (· == 0)

def padTo (n : Nat) (bs : List Byte) : List Byte := bs ++ zeros (n - bs.length)

def roundUp (n k : Nat) : Nat := (n + k - 1) / k * k

/-! ## Update by unit -/

def modPolder (s : State) (p : Fin 4) (f : Polder → Polder) : State := { s with polders := vmod s.polders p f }
def modQueue (s : State) (p : Fin 4) (q : Fin 16) (f : Queue → Queue) : State :=
  modPolder s p fun P => { P with queues := vmod P.queues q f }
def modFunc (s : State) (f : Fin 5) (g : Func → Func) : State := { s with funcs := vmod s.funcs f g }
def modCluster (s : State) (c : Fin 256) (f : Cluster → Cluster) : State := { s with clusters := vmod s.clusters c f }
def modVe (s : State) (c : Fin 256) (f : Ve → Ve) : State := modCluster s c fun C => { C with ve := f C.ve }
def modPort (s : State) (j : Fin 6) (f : Port → Port) : State := { s with ports := vmod s.ports j f }
def modSite (s : State) (m : Fin 32) (f : Site → Site) : State := { s with sites := vmod s.sites m f }
def modChain (s : State) (c : Fin 5) (f : Chain → Chain) : State := { s with chains := vmod s.chains c f }
def modCvu (s : State) (u : Fin 4) (f : Cvu → Cvu) : State := { s with cvus := vmod s.cvus u f }

def polder (s : State) (p : Fin 4) : Polder := s.polders.get p
def queue (s : State) (p : Fin 4) (q : Fin 16) : Queue := (polder s p).queues.get q
def func (s : State) (f : Fin 5) : Func := s.funcs.get f
def cluster (s : State) (c : Fin 256) : Cluster := s.clusters.get c
def ve (s : State) (c : Fin 256) : Ve := (cluster s c).ve
def port (s : State) (j : Fin 6) : Port := s.ports.get j
def site (s : State) (m : Fin 32) : Site := s.sites.get m
def chain (s : State) (c : Fin 5) : Chain := s.chains.get c

/-- The function that serves polder p (R282). -/
def vf (p : Fin 4) : Fin 5 := ⟨p.val + 1, by omega⟩

def ofNatFin (n k : Nat) (h : 0 < n) : Fin n := ⟨k % n, Nat.mod_lt _ h⟩
def fin4 (k : Nat) : Fin 4 := ofNatFin 4 k (by decide)
def fin5 (k : Nat) : Fin 5 := ofNatFin 5 k (by decide)
def fin6 (k : Nat) : Fin 6 := ofNatFin 6 k (by decide)
def fin16 (k : Nat) : Fin 16 := ofNatFin 16 k (by decide)
def fin32 (k : Nat) : Fin 32 := ofNatFin 32 k (by decide)
def fin256 (k : Nat) : Fin 256 := ofNatFin 256 k (by decide)

/-! ## Polders and their parts (R28, R282, R452) -/

def layoutCode : Layout → Nat
  | .none => 0
  | .whole => 1
  | .halves => 2
  | .quarters => 3

/-- How many polders the layout has. -/
def polderCount : Layout → Nat
  | .none => 0
  | .whole => 1
  | .halves => 2
  | .quarters => 4

/-- The C-dies of polder p, ascending. -/
def diesOf (s : State) (p : Fin 4) : List (Fin 4) :=
  match s.layout with
  | .none => []
  | .whole => if p = 0 then [0, 1, 2, 3] else []
  | .halves => if p = 0 then [0, 1] else if p = 1 then [2, 3] else []
  | .quarters => [p]

def dieCount (s : State) (p : Fin 4) : Nat := (diesOf s p).length

/-- The polder that a C-die belongs to. -/
def polderOfDie (s : State) (d : Fin 4) : Option (Fin 4) :=
  match s.layout with
  | .none => none
  | .whole => some 0
  | .halves => some (fin4 (d.val / 2))
  | .quarters => some d

/-- The lowest-numbered C-die of polder p. -/
def firstDie (s : State) (p : Fin 4) : Fin 4 := (diesOf s p).headD 0

/-- The clusters of polder p as places, in the index order of R115: C-die ascending, then cluster ascending. -/
def clustersOf (s : State) (p : Fin 4) : List (Fin 256) :=
  (diesOf s p).flatMap fun d => (List.range 64).map fun k => fin256 (64 * d.val + k)

/-- Open in the sense of R452. -/
def isOpen (s : State) (p : Fin 4) : Bool :=
  match (polder s p).st with
  | .opened | .closing | .repairing | .faulted | .faultedClosing => true
  | _ => false

def stateCode : PState → Nat
  | .absent => 0
  | .closed => 1
  | .opened | .closing => 2
  | .repairing | .shut => 3
  | .faulted | .faultedClosing => 4

/-- Is C-die d in no open polder? -/
def dieIdle (s : State) (d : Fin 4) : Bool :=
  match polderOfDie s d with
  | none => true
  | some p => !isOpen s p

/-- A command in flight, by queue and sequence. -/
def cmdAt (s : State) (p : Fin 4) (q : Fin 16) (n : Word) : Option Cmd :=
  (polder s p).inflight.find? fun c => c.q = q && c.e.seq = n

def modCmd (s : State) (p : Fin 4) (q : Fin 16) (n : Word) (f : Cmd → Cmd) : State :=
  modPolder s p fun P => { P with inflight := P.inflight.map fun c => if c.q = q && c.e.seq = n then f c else c }

/-! ## Time (R420) -/

def leveeTime (s : State) : DWord := s.localCount + s.correction
/-- Accounting time of polder p (R422). -/
def acctTime (s : State) (p : Fin 4) : DWord := s.localCount + (polder s p).acctOff

/-! ## Free values: the n-th draw (log 6) -/

def skipDraws (s : State) (n : Nat) : State := { s with draws := s.draws + n }
def nextDraw (s : State) : State := skipDraws s 1
def drawBits (s : State) (w : Nat) : BitVec w := (Config.entropy s.draws).setWidth w

/-! ## Bytes with undefined parts -/

/-- A byte of a store whose parts may be undefined (log 6). -/
def staleByte (t : Tab Byte) (stale : List (Nat × Nat × Nat)) (a : Nat) : Byte :=
  match stale.find? fun r => decide (r.1 ≤ a) && decide (a < r.2.1) with
  | some r => Config.freeByte r.2.2 a
  | none => tabGet 0 t a

/-- Undefined parts after a write of [a, b). -/
def cutStale (stale : List (Nat × Nat × Nat)) (a b : Nat) : List (Nat × Nat × Nat) :=
  if b ≤ a then stale else
  stale.flatMap fun r =>
    [(r.1, min r.2.1 a, r.2.2), (max r.1 b, r.2.1, r.2.2)].filter fun x => decide (x.1 < x.2.1)

/-- Undefined parts with [a, b) under draw n. -/
def addStale (stale : List (Nat × Nat × Nat)) (a b n : Nat) : List (Nat × Nat × Nat) :=
  if b ≤ a then stale else
  let t := cutStale stale a b
  t.filter (fun r => decide (r.1 < a)) ++ (a, b, n) :: t.filter (fun r => decide (a ≤ r.1))

/-! ## Device memory (R214-R217) -/

def sliceBase (d : Fin 4) : Nat := d.val * 2 ^ 32
/-- base_d of R215. -/
def dieBase (d : Fin 4) : Nat := 0x010000000000 * (d.val + 1)
def traceBase (d : Fin 4) : Nat := dieBase d + 0xF000000000
def dumpBase (d : Fin 4) : Nat := dieBase d + 0xF800000000

/-- Where polder p may read (or write) device memory: base and length of each range (R216, R217). -/
def ranges (s : State) (p : Fin 4) (write : Bool) : List (Nat × Nat) :=
  let ds := diesOf s p
  ds.map (fun d => (sliceBase d, 2 ^ 32)) ++
  (ds.zip (polder s p).u).map (fun x => (dieBase x.1, 16384 * x.2)) ++
  (if write then [] else (ds.take 1).map fun d => (traceBase d, (polder s p).traceSize))

/-- Does every byte of [a, a + n) lie in one of the places of R216? No access runs from one range into the next. -/
def accessOk (s : State) (p : Fin 4) (write : Bool) (a n : Nat) : Bool :=
  n == 0 || (ranges s p write).any fun r => decide (r.1 ≤ a) && decide (a + n ≤ r.1 + r.2)

/-- Every line of a strided area (R103, R245). -/
def linesOk (s : State) (p : Fin 4) (write : Bool) (a lines bytes stride : Nat) : Bool :=
  (List.range lines).all fun i => accessOk s p write (a + i * stride) bytes

/-- The unit of the error code at an address: an 8-byte word of the S-tier, a 64-byte block of the D-tier. -/
def eccUnit (a : Nat) : Nat := if a < 2 ^ 40 then 8 else 64
def granule (a : Nat) : Nat := a / eccUnit a * eccUnit a
def isBad (s : State) (a : Nat) : Bool := tabGet false s.poison (granule a)

/-- Does [a, a + n) meet a poisoned block or a failed word? -/
def meetsBad (s : State) (a n : Nat) : Bool :=
  s.poison.any fun c => c.2 && decide (c.1 < a + n) && decide (a < c.1 + eccUnit c.1)

/-- A byte of device memory. -/
def memByte (s : State) (a : Nat) : Byte := staleByte s.mem s.undef a
/-- The bytes without the error check: what the Keeper and checks that cannot fail read. -/
def memBytes (s : State) (a n : Nat) : List Byte := (List.range n).map fun i => memByte s (a + i)
def memNat (s : State) (a n : Nat) : Nat := leVal (memBytes s a n)

/-- A read of n bytes: none when it meets an uncorrectable error (R220, R226). -/
def memRead (s : State) (a n : Nat) : Option (List Byte) :=
  if meetsBad s a n then none else some (memBytes s a n)

/-- Does a byte lie in an area? -/
def inArea (x : Area) (a : Nat) : Bool :=
  decide (x.addr ≤ a) &&
  (if x.lines ≤ 1 then decide (x.lines = 1 ∧ a < x.addr + x.bytes)
   else decide ((a - x.addr) / x.stride < x.lines ∧ (a - x.addr) % x.stride < x.bytes))

/-- Do two strided areas share a byte? -/
def areasMeet (a lines bytes stride b lines' bytes' stride' : Nat) : Bool :=
  (List.range lines).any fun i => (List.range lines').any fun j =>
    decide (a + i * stride < b + j * stride' + bytes') && decide (b + j * stride' < a + i * stride + bytes) &&
    decide (0 < bytes) && decide (0 < bytes')

/-- Would storing byte b at address a change what is there? A defined byte over an undefined one is a change. -/
def changes (s : State) (a : Nat) (b : Byte) : Bool :=
  (s.undef.any fun r => decide (r.1 ≤ a) && decide (a < r.2.1)) || tabGet 0 s.mem a != b

/-- The watches after the bytes `bs` are stored at a (R100). -/
def watchPut (s : State) (a : Nat) (bs : List Byte) : List Watch :=
  s.watch.map fun w =>
    { w with changed := w.changed || (bs.zipIdx a).any fun x => w.areas.any (inArea · x.2) && changes s x.2 x.1 }

/-- The watches after [a, a + n) becomes undefined (R100). -/
def watchSpoil (s : State) (a n : Nat) : List Watch :=
  s.watch.map fun w =>
    { w with changed := w.changed || w.areas.any fun x => areasMeet a 1 n 0 x.addr x.lines x.bytes x.stride }

/-- Store bytes whatever the error state. -/
def memPut (s : State) (a : Nat) (bs : List Byte) : State :=
  { s with mem := tabSplice 0 s.mem a bs, undef := cutStale s.undef a (a + bs.length), watch := watchPut s a bs }

/-- Is the write of [a, a + n) to the granule at address x partial and the granule bad? -/
def blocked (s : State) (a n x : Nat) : Bool :=
  isBad s x && !(decide (a ≤ granule x) && decide (granule x + eccUnit x ≤ a + n))

/-- A write: whole granules clear their error, a partial write of a bad granule stores nothing and fails (R220,
R226). The Bool says whether every byte was stored. -/
def memWrite (s : State) (a : Nat) (bs : List Byte) : State × Bool :=
  let n := bs.length
  if n = 0 then (s, true) else
  let b0 := blocked s a n a
  let b1 := blocked s a n (a + n - 1)
  let lo := if b0 then granule a + eccUnit a else a
  let hi := if b1 then granule (a + n - 1) else a + n
  let s := { s with poison := s.poison.filter fun c => !(decide (a ≤ c.1) && decide (c.1 + eccUnit c.1 ≤ a + n)) }
  (if lo < hi then memPut s lo ((bs.drop (lo - a)).take (hi - lo)) else s, !b0 && !b1)

/-- Writes in order; the Bool says whether every byte of all was stored. -/
def memWrites (s : State) (ws : List (Nat × List Byte)) : State × Bool :=
  ws.foldl (fun x w => let r := memWrite x.1 w.1 w.2; (r.1, x.2 && r.2)) (s, true)

/-- Leave [a, a + n) undefined: every byte a free value (R129, R156, R339). -/
def spoil (s : State) (a n : Nat) : State :=
  nextDraw { s with mem := tabErase s.mem a (a + n), undef := addStale s.undef a (a + n) s.draws,
                    watch := watchSpoil s a n }

def spoilLines (s : State) (a lines bytes stride : Nat) : State :=
  (List.range lines).foldl (fun s i => spoil s (a + i * stride) bytes) s

/-- Zero a range and clear its errors (R376). -/
def eraseRange (s : State) (a n : Nat) : State :=
  { s with mem := tabErase s.mem a (a + n), undef := cutStale s.undef a (a + n), poison := tabErase s.poison a (a + n) }

def poisonBlock (s : State) (a : Nat) : State := { s with poison := tabSet false s.poison (granule a) true }

/-- Clusters of C-die d. -/
def onDie (d : Fin 4) (c : Fin 256) : Bool := c.val / 64 == d.val

/-- Zero the cluster buffers, VE stores, accumulator banks and product tables of a C-die (R340, R376); its VEs and
tile engines idle. What its units did in the sample in progress is still to be attributed. -/
def clearClusters (s : State) (d : Fin 4) : State :=
  { s with clusters := s.clusters.mapFinIdx fun i C _ =>
      if i / 64 = d.val then { Cluster.reset with weights := C.weights, gone := C.gone } else C }

/-- The erase of R376 on one C-die. -/
def eraseDie (s : State) (d : Fin 4) : State :=
  clearClusters (eraseRange (eraseRange s (sliceBase d) (2 ^ 32)) (dieBase d) (2 ^ 40)) d

/-! ## Host memory -/

def hostWrite (s : State) (a : Nat) (bs : List Byte) : State := { s with hostMem := tabSplice 0 s.hostMem a bs }

/-! ## Interrupts (R287, R314) -/

/-- Is vector v of a function masked, by its MSI-X table entry or by the Function Mask? -/
def vecMasked (F : Func) (v : Nat) : Bool := F.config.msixMask || (tabGet 0 F.msixTable (16 * v + 12)).getLsbD 0

/-- Send an MSI-X message, or set its pending bit while the vector is masked (R314); a function sends none while MSI-X is not
enabled (log 82). -/
def sendMsix (s : State) (f : Fin 5) (v : Nat) : State :=
  if !(func s f).config.msixEnable then s
  else if vecMasked (func s f) v then
    modFunc s f fun F => { F with msixPending := F.msixPending ||| (1#64 <<< v) }
  else { s with msix := s.msix ++ [(f, v)] }

/-- Set a cause bit; an unmasked cause sends its message (R314). Bits 0 and 3 use vector 0, 1, 2, 4 and 5 vector 1;
the bit of a queue is set without a message here. -/
def raiseCause (s : State) (f : Fin 5) (bit : Nat) : State :=
  let masked := (func s f).mask.getLsbD bit
  let s := modFunc s f fun F => { F with cause := F.cause ||| (1#32 <<< bit) }
  if masked ∨ 16 ≤ bit then s else sendMsix s f (if bit = 0 ∨ bit = 3 then 0 else 1)

/-! ## Module events (R18, R312) -/

def evCode (n : Nat) : BitVec 16 := BitVec.ofNat 16 n

/-- Queue one event on a function; a full queue loses its oldest entry. -/
def queueEvent (s : State) (f : Fin 5) (code : BitVec 16) (polderNo : Byte) (payload : List Byte) : State :=
  let t := leveeTime s
  let s := modFunc s f fun F =>
    let ev : Event := { code := code, polder := polderNo, seq := F.eventSeq, time := t, payload := padTo 16 payload }
    let full := decide (1024 ≤ F.events.length)
    { F with events := (if full then F.events.drop 1 else F.events) ++ [ev], eventSeq := F.eventSeq + 1,
             lost := if full then F.lost + 1 else F.lost }
  raiseCause s f 1

/-- An event that concerns one polder: PF0 and that polder's function. -/
def polderEvent (s : State) (p : Fin 4) (code : Nat) (payload : List Byte) : State :=
  let n := BitVec.ofNat 8 p.val
  queueEvent (queueEvent s 0 (evCode code) n payload) (vf p) (evCode code) n payload

/-- An event that concerns the module: PF0 and every function whose polder is open. -/
def moduleEvent (s : State) (code : Nat) (payload : List Byte) : State :=
  [0, 1, 2, 3].foldl (fun s (p : Fin 4) => if isOpen s p then queueEvent s (vf p) (evCode code) 0xFF payload else s)
    (queueEvent s 0 (evCode code) 0xFF payload)

/-- An event for PF0 only, or for PF0 and one function. -/
def adminEvent (s : State) (code : Nat) (payload : List Byte) : State := queueEvent s 0 (evCode code) 0xFF payload

def eventBytes (e : Event) : List Byte :=
  leBytes 2 e.code.toNat ++ [e.polder, 0] ++ leBytes 4 e.seq.toNat ++ leBytes 8 e.time.toNat ++ e.payload

/-! ## Event counters of a polder (R306) -/

/-- The counter after a signal: the larger value, or one more for v = 0. -/
def signalled (c v : Word) : Word := if v = 0 then c + 1 else if c < v then v else c

/-- An EVENT_WAIT in flight on counter ev completes with OK at time t once the counter is at least its value (R308). -/
def wakeWait (t : DWord) (ev : Nat) (c : Word) (x : Cmd) : Cmd :=
  match x.body with
  | .wait ev' v => if ev' = ev ∧ v ≤ c then { x with body := .done, res := some .ok, doneTime := t } else x
  | _ => x

def signal (s : State) (p : Fin 4) (ev : Nat) (v : Word) : State :=
  let t := leveeTime s
  modPolder s p fun P =>
    let c := signalled (tabGet 0 P.events ev) v
    { P with events := tabSet 0 P.events ev c, inflight := P.inflight.map (wakeWait t ev c) }

/-! ## Counter sets (R413-R418) -/

def zeroCounters : Counters := Vector.replicate 14 0

/-- Index of the polder set among the tables of a bank. -/
def polderSet : Nat := 0xFFFF

/-- Add to counter i of a command's set and of its polder set (R414). -/
def countAdd (s : State) (p : Fin 4) (set : BitVec 16) (i : Fin 14) (n : Nat) : State :=
  let add (t : Tab Counters) (k : Nat) := tabMod zeroCounters t k fun c => vmod c i (· + BitVec.ofNat 64 n)
  { s with counters := vmod s.counters p fun b =>
      { b with dirty := true, sets := if set.toNat = polderSet then add b.sets polderSet
                       else add (add b.sets set.toNat) polderSet } }

def counterSet (s : State) (p : Fin 4) (set : Nat) : Counters := tabGet zeroCounters (s.counters.get p).sets set

/-- Debug features active (R378). -/
def debugActive (s : State) : Bool := s.fuses.lifecycle == 1 || s.fuses.lifecycle == 3

/-- The counters as a tenant sees them (R418). -/
def shownCounters (s : State) (c : Counters) : Counters :=
  if debugActive s then c else
  ((vmod (vmod (vmod (vmod c 0 (· &&& ~~~1023)) 1 (· &&& ~~~1023)) 2 (· &&& ~~~1023)) 3 (· &&& ~~~1023)).set 13 0)

def counterBytes (c : Counters) : List Byte := c.toList.flatMap fun x => leBytes 8 x.toNat

/-! ## Statuses (R15) -/

def statusCode : Status → Nat
  | .ok => 0x00
  | .okWarn => 0x01
  | .discarded => 0x10
  | .descInvalid => 0x20
  | .formatUnsupported => 0x21
  | .complementMismatch => 0x22
  | .accessDenied => 0x23
  | .domainReuse => 0x24
  | .srDenied => 0x25
  | .eccUncorrected => 0x30
  | .hwFault => 0x31
  | .restoreRngSkew => 0x40
  | .statePackInvalid => 0x41
  | .replayMismatch => 0x42
  | .timeout => 0x50
  | .keyMissing => 0x51
  | .spareExhausted => 0x60

/-- An ordered list of checks: the status of the first that fails. -/
def firstFail : List (Bool × Status) → Option Status
  | [] => none
  | (ok, st) :: rest => if ok then firstFail rest else some st

/-! ## Complements (R10) -/

/-- Does the value of w bytes agree with its complement? -/
def compOk (w v c : Nat) : Bool := v % 2 ^ (8 * w) + c % 2 ^ (8 * w) == 2 ^ (8 * w) - 1

/-- A value of w bytes followed by its complement. -/
def withComp (w v : Nat) : List Byte := leBytes w v ++ leBytes w (2 ^ (8 * w) - 1 - v % 2 ^ (8 * w))

end Sys2Proof.Machine
end

