-- ==== Sys2Proof/Machine/Crypto.lean ====
section
/-! DEFINITION. The published functions the spec names: the check-value polynomials (R434), SHA-256 (FIPS 180-4),
AES-256 and GCM (FIPS 197, SP 800-38D), RSASSA-PSS and RSA-OAEP with SHA-256 and MGF1 (RFC 8017). -/

namespace Sys2Proof.Machine

/-! ## Check-value units (R434) -/

/-- Width and polynomial of a polynomial code. -/
def crcWidth (poly : Nat) : Nat :=
  match poly with
  | 0 | 1 => 32
  | 2 => 16
  | _ => 64

def crcPoly (poly : Nat) : Nat :=
  match poly with
  | 0 => 0x04C11DB7
  | 1 => 0x1EDC6F41
  | 2 => 0x1021
  | _ => 0x42F0E1EBA9EA3693

/-- The low n bits in reverse order. -/
def reflect : Nat → Nat → Nat
  | 0, _ => 0
  | n + 1, x => (x % 2) * 2 ^ n + reflect n (x / 2)

/-- Shift k zero bits through a w-bit register, most significant bit first. -/
def crcShift (w poly : Nat) : Nat → Nat → Nat
  | 0, r => r
  | k + 1, r => crcShift w poly k (if r / 2 ^ (w - 1) % 2 = 1 then (2 * r % 2 ^ w) ^^^ poly else 2 * r % 2 ^ w)

/-- One input byte. -/
def crcByte (poly : Nat) (refin : Bool) (r : Nat) (b : Byte) : Nat :=
  let w := crcWidth poly
  let x := if refin then reflect 8 b.toNat else b.toNat
  crcShift w (crcPoly poly) 8 (r ^^^ (x * 2 ^ (w - 8)))

/-- The result of a register: output reflection, then the final XOR. -/
def crcResult (poly : Nat) (refout : Bool) (fxor r : Nat) : Nat :=
  (if refout then reflect (crcWidth poly) r else r) ^^^ (fxor % 2 ^ crcWidth poly)

def crcOver (poly : Nat) (refin refout : Bool) (init fxor : Nat) (bs : List Byte) : Nat :=
  crcResult poly refout fxor (bs.foldl (crcByte poly refin) (init % 2 ^ crcWidth poly))

/-- CRC-32C as records, packs and tokens carry it. -/
def crc32c (bs : List Byte) : Nat := crcOver 1 true true 0xFFFFFFFF 0xFFFFFFFF bs
/-- CRC-64/ECMA-182 as flits carry it (R267). -/
def crc64 (bs : List Byte) : Nat := crcOver 3 false false 0 0 bs

/-! ## SHA-256 -/

/-- The k-th round constant, eight to a row. -/
def shaK (i : Nat) : Word :=
  let rows : List Nat := [
    0x428a2f9871374491b5c0fbcfe9b5dba53956c25b59f111f1923f82a4ab1c5ed5,
    0xd807aa9812835b01243185be550c7dc372be5d7480deb1fe9bdc06a7c19bf174,
    0xe49b69c1efbe47860fc19dc6240ca1cc2de92c6f4a7484aa5cb0a9dc76f988da,
    0x983e5152a831c66db00327c8bf597fc7c6e00bf3d5a7914706ca635114292967,
    0x27b70a852e1b21384d2c6dfc53380d13650a7354766a0abb81c2c92e92722c85,
    0xa2bfe8a1a81a664bc24b8b70c76c51a3d192e819d6990624f40e3585106aa070,
    0x19a4c1161e376c082748774c34b0bcb5391c0cb34ed8aa4a5b9cca4f682e6ff3,
    0x748f82ee78a5636f84c878148cc7020890befffaa4506cebbef9a3f7c67178f2]
  BitVec.ofNat 32 (rows.getD (i / 8) 0 >>> (32 * (7 - i % 8)))

def beVal (bs : List Byte) : Nat := bs.foldl (fun a b => a * 256 + b.toNat) 0
def beBytes (n x : Nat) : List Byte := (leBytes n x).reverse

def shaExtend : Nat → List Word → List Word
  | 0, w => w
  | k + 1, w =>
    -- w holds the last 16 words, newest first
    let g (i : Nat) := w.getD i 0
    let s0 := (g 14).rotateRight 7 ^^^ (g 14).rotateRight 18 ^^^ (g 14 >>> 3)
    let s1 := (g 1).rotateRight 17 ^^^ (g 1).rotateRight 19 ^^^ (g 1 >>> 10)
    shaExtend k ((g 15 + s0 + g 6 + s1) :: w)

structure ShaRegs where
  (a b c d e f g h : Word)

def shaRound (r : ShaRegs) (kw : Word) : ShaRegs :=
  let s1 := r.e.rotateRight 6 ^^^ r.e.rotateRight 11 ^^^ r.e.rotateRight 25
  let ch := (r.e &&& r.f) ^^^ (~~~r.e &&& r.g)
  let t1 := r.h + s1 + ch + kw
  let s0 := r.a.rotateRight 2 ^^^ r.a.rotateRight 13 ^^^ r.a.rotateRight 22
  let mj := (r.a &&& r.b) ^^^ (r.a &&& r.c) ^^^ (r.b &&& r.c)
  { a := t1 + (s0 + mj), b := r.a, c := r.b, d := r.c, e := r.d + t1, f := r.e, g := r.f, h := r.g }

def shaBlock (h : ShaRegs) (block : List Byte) : ShaRegs :=
  let w0 := (List.range 16).map fun i => BitVec.ofNat 32 (beVal ((block.drop (4 * i)).take 4))
  let w := (shaExtend 48 w0.reverse).reverse
  let r := (w.mapIdx fun i x => shaK i + x).foldl shaRound h
  { a := h.a + r.a, b := h.b + r.b, c := h.c + r.c, d := h.d + r.d, e := h.e + r.e, f := h.f + r.f, g := h.g + r.g,
    h := h.h + r.h }

def shaBlocks : Nat → ShaRegs → List Byte → ShaRegs
  | 0, h, _ => h
  | k + 1, h, bs => shaBlocks k (shaBlock h (bs.take 64)) (bs.drop 64)

def shaPad (bs : List Byte) : List Byte :=
  let n := bs.length
  bs ++ (0x80 :: zeros ((119 - n % 64) % 64)) ++ beBytes 8 (8 * n)

def sha256 (bs : List Byte) : List Byte :=
  let m := shaPad bs
  let r := shaBlocks (m.length / 64) ⟨0x6a09e667, 0xbb67ae85, 0x3c6ef372, 0xa54ff53a, 0x510e527f, 0x9b05688c,
    0x1f83d9ab, 0x5be0cd19⟩ m
  [r.a, r.b, r.c, r.d, r.e, r.f, r.g, r.h].flatMap fun x => beBytes 4 x.toNat

/-- A digest as a number whose first byte is the most significant. -/
def digest (bs : List Byte) : BitVec 256 := BitVec.ofNat 256 (beVal (sha256 bs))
def digestBytes (d : BitVec 256) : List Byte := beBytes 32 d.toNat

/-! ## AES-256 -/

/-- The S-box, its entry 0 in the highest byte. -/
def sboxRows : List Nat := [
  0x637c777bf26b6fc53001672bfed7ab76, 0xca82c97dfa5947f0add4a2af9ca472c0,
  0xb7fd9326363ff7cc34a5e5f171d83115, 0x04c723c31896059a071280e2eb27b275,
  0x09832c1a1b6e5aa0523bd6b329e32f84, 0x53d100ed20fcb15b6acbbe394a4c58cf,
  0xd0efaafb434d338545f9027f503c9fa8, 0x51a3408f929d38f5bcb6da2110fff3d2,
  0xcd0c13ec5f974417c4a77e3d645d1973, 0x60814fdc222a908846eeb814de5e0bdb,
  0xe0323a0a4906245cc2d3ac629195e479, 0xe7c8376d8dd54ea96c56f4ea657aae08,
  0xba78252e1ca6b4c6e8dd741f4bbd8b8a, 0x703eb5664803f60e613557b986c11d9e,
  0xe1f8981169d98e949b1e87e9ce5528df, 0x8ca1890dbfe6426841992d0fb054bb16]

def sbox (b : Byte) : Byte :=
  BitVec.ofNat 8 (sboxRows.getD (b.toNat / 16) 0 >>> (8 * (15 - b.toNat % 16)))

def xtime (b : Byte) : Byte := if b.getLsbD 7 then (b <<< 1) ^^^ 0x1B else b <<< 1

def xorBytes (a b : List Byte) : List Byte := List.zipWith (· ^^^ ·) a b

/-- Key schedule: the words so far newest first, i the index of the next. -/
def aesExpand : Nat → Nat → Byte → List (List Byte) → List (List Byte)
  | 0, _, _, ws => ws
  | k + 1, i, rc, ws =>
    let t := ws.headD []
    let t' := if i % 8 = 0 then
        let r := (t.drop 1 ++ t.take 1).map sbox
        xorBytes r [rc, 0, 0, 0]
      else if i % 8 = 4 then t.map sbox else t
    aesExpand k (i + 1) (if i % 8 = 0 then xtime rc else rc) (xorBytes (ws.getD 7 []) t' :: ws)

/-- The fifteen round keys of a 32-byte key. -/
def aesRoundKeys (key : List Byte) : List (List Byte) :=
  let w0 := (List.range 8).map fun i => (key.drop (4 * i)).take 4
  let ws := (aesExpand 52 8 1 w0.reverse).reverse
  (List.range 15).map fun r => ((ws.drop (4 * r)).take 4).flatten

def shiftRows (st : List Byte) : List Byte :=
  (List.range 16).map fun i => st.getD ((i + 4 * (i % 4)) % 16) 0

def mixColumn (c : List Byte) : List Byte :=
  let g (i : Nat) := c.getD (i % 4) 0
  (List.range 4).map fun i => xtime (g i) ^^^ (xtime (g (i + 1)) ^^^ g (i + 1)) ^^^ g (i + 2) ^^^ g (i + 3)

def mixColumns (st : List Byte) : List Byte :=
  (List.range 4).flatMap fun i => mixColumn ((st.drop (4 * i)).take 4)

def aesRounds : List (List Byte) → List Byte → List Byte
  | [], st => st
  | [k], st => xorBytes (shiftRows (st.map sbox)) k
  | k :: ks, st => aesRounds ks (xorBytes (mixColumns (shiftRows (st.map sbox))) k)

/-- AES-256 of one 16-byte block. -/
def aes (key block : List Byte) : List Byte :=
  match aesRoundKeys key with
  | [] => block
  | k :: ks => aesRounds ks (xorBytes block k)

/-- A job key as its 32 bytes, byte 0 first. -/
def keyBytes (k : BitVec 256) : List Byte := leBytes 32 k.toNat

/-! ## GCM -/

/-- Multiplication in GF(2^128) with the bit order of SP 800-38D: the leftmost bit is the coefficient of 1. -/
def gfMul : Nat → BitVec 128 → BitVec 128 → BitVec 128 → BitVec 128
  | 0, _, _, z => z
  | k + 1, x, v, z =>
    let z := if x.getLsbD k then z ^^^ v else z
    gfMul k x (if v.getLsbD 0 then (v >>> 1) ^^^ (0xE1#128 <<< 120) else v >>> 1) z

def ghashBlocks : Nat → BitVec 128 → BitVec 128 → List Byte → BitVec 128
  | 0, _, y, _ => y
  | k + 1, h, y, bs =>
    ghashBlocks k h (gfMul 128 (y ^^^ BitVec.ofNat 128 (beVal (padTo 16 (bs.take 16)))) h 0) (bs.drop 16)

def padBlock (bs : List Byte) : List Byte := bs ++ zeros ((16 - bs.length % 16) % 16)

def ghash (h : BitVec 128) (aad ct : List Byte) : BitVec 128 :=
  let m := padBlock aad ++ padBlock ct ++ beBytes 8 (8 * aad.length) ++ beBytes 8 (8 * ct.length)
  ghashBlocks (m.length / 16) h 0 m

def ctrBytes (key iv : List Byte) : Nat → Nat → List Byte → List Byte
  | 0, _, _ => []
  | k + 1, c, bs => xorBytes (bs.take 16) (aes key (iv ++ beBytes 4 c)) ++ ctrBytes key iv k (c + 1) (bs.drop 16)

/-- The key stream applied to a text (the same both ways), from counter 2. -/
def gcmCrypt (key iv bs : List Byte) : List Byte := ctrBytes key iv ((bs.length + 15) / 16) 2 bs

def gcmTag (key iv aad ct : List Byte) : List Byte :=
  let h := BitVec.ofNat 128 (beVal (aes key (zeros 16)))
  xorBytes (beBytes 16 (ghash h aad ct).toNat) (aes key (iv ++ beBytes 4 1))

/-- Seal: ciphertext and tag. -/
def gcmSeal (key iv aad pt : List Byte) : List Byte × List Byte :=
  let ct := gcmCrypt key iv pt
  (ct, gcmTag key iv aad ct)

/-- Open: the plaintext when the tag verifies. -/
def gcmOpen (key iv aad ct tag : List Byte) : Option (List Byte) :=
  if gcmTag key iv aad ct = tag then some (gcmCrypt key iv ct) else none

/-! ## RSA (RFC 8017), 3,072-bit modulus, public exponent 65,537 -/

/-- b^e mod n, one bit of e per step. -/
def powMod : Nat → Nat → Nat → Nat → Nat
  | 0, _, _, n => 1 % n
  | k + 1, b, e, n =>
    let r := powMod k (b * b % n) (e / 2) n
    if e % 2 = 1 then r * b % n else r

def rsaPublic (n x : Nat) : Nat := powMod 17 x 65537 n
def rsaPrivate (n d x : Nat) : Nat := powMod 3072 x d n

def mgf1Blocks : Nat → Nat → List Byte → List Byte
  | 0, _, _ => []
  | k + 1, c, seed => sha256 (seed ++ beBytes 4 c) ++ mgf1Blocks k (c + 1) seed

def mgf1 (seed : List Byte) (len : Nat) : List Byte := (mgf1Blocks ((len + 31) / 32) 0 seed).take len

def clearTopBit (bs : List Byte) : List Byte := bs.modifyHead (· &&& 0x7F)

/-- EMSA-PSS of a message with a 32-byte salt, for a 3,072-bit modulus. -/
def pssEncode (msg salt : List Byte) : List Byte :=
  let h := sha256 (zeros 8 ++ sha256 msg ++ salt)
  let db := zeros 318 ++ [0x01] ++ salt
  clearTopBit (xorBytes db (mgf1 h 351)) ++ h ++ [0xBC]

def pssSign (n d : Nat) (msg salt : List Byte) : List Byte :=
  beBytes 384 (rsaPrivate n d (beVal (pssEncode msg salt)))

/-- RSASSA-PSS verification of a 384-byte signature. -/
def pssVerify (modulus : List Byte) (msg sig : List Byte) : Bool :=
  let n := beVal modulus
  let em := beBytes 384 (rsaPublic n (beVal sig))
  let h := (em.drop 351).take 32
  let db := clearTopBit (xorBytes (em.take 351) (mgf1 h 351))
  let salt := db.drop 319
  decide (beVal sig < n) && em.getLast? == some 0xBC && !(em.headD 0).getLsbD 7 &&
  db.take 319 == zeros 318 ++ [0x01] && h == sha256 (zeros 8 ++ sha256 msg ++ salt)

/-- RSAES-OAEP decryption of 384 bytes under a label. -/
def oaepDecrypt (n d : Nat) (label ct : List Byte) : Option (List Byte) :=
  let em := beBytes 384 (rsaPrivate n d (beVal ct))
  let y := em.headD 0
  let seed := xorBytes ((em.drop 1).take 32) (mgf1 (em.drop 33) 32)
  let db := xorBytes (em.drop 33) (mgf1 seed 351)
  let rest := (db.drop 32).dropWhile (· == 0)
  if decide (beVal ct < n) && y == 0 && db.take 32 == sha256 label && rest.headD 0 == 1 then some (rest.drop 1) else none

end Sys2Proof.Machine
end

