-- ==== Sys2Proof/Machine/Clock.lean ====
section
/-! DEFINITION. TCLK: the tick of the block, with the byte each BAR0 check-value unit processes (R420, R435, R439), and the
edges at which counter snapshots are taken (R415-R417, R426). -/

namespace Sys2Proof.Machine

/-! ## Check-value units -/

def cfgPoly (c : Word) : Nat := c.toNat % 4
def cfgRefin (c : Word) : Bool := c.getLsbD 2
def cfgRefout (c : Word) : Bool := c.getLsbD 3
def cfgCompare (c : Word) : Bool := c.getLsbD 4

/-- Process one byte of the oldest data write. -/
def cvuByte (C : Cvu) : Cvu :=
  match C.queue with
  | (b :: bs) :: rest =>
    { C with reg := BitVec.ofNat 64 (crcByte (cfgPoly C.lcfg) (cfgRefin C.lcfg) C.reg.toNat b), count := C.count + 1,
             queue := if bs.isEmpty then rest else bs :: rest }
  | [] :: rest => { C with queue := rest }
  | [] => C

/-! ## The tick (log 2) -/

/-- Is the local count running: from the end of fuse load to a loss of input (R420)? -/
def clocked (s : State) : Bool :=
  match s.boot with
  | .off | .fuses | .thermalHold => false
  | _ => true

/-- One TCLK cycle of an idle block: the local count rises and each check-value unit processes one byte. -/
def tick (s : State) : State :=
  if clocked s then { s with localCount := s.localCount + 1, cvus := s.cvus.map cvuByte } else s

/-! ## Edges of snapshots -/

/-- Free increments of ACLK cycles, feed stalls and drain stalls (R415): how many the clusters of a command have counted
since the last edge the spec does not fix to the cycle (log 7). -/
def countTimed (s : State) (p : Fin 4) (set : BitVec 16) : State :=
  let x (k : Nat) := leVal ((List.range 8).map fun i => Config.freeByte s.draws (8 * k + i))
  nextDraw (countAdd (countAdd (countAdd s p set 0 (x 0)) p set 2 (x 1)) p set 3 (x 2))

/-- The edge of an event of rank k in the order of R426 (0 end records, 1 discard records, 2 start and mark records): a later
one than that of the last snapshot, where increments have been delivered since or an event of a higher rank lies at it. -/
def toEdge (s : State) (p : Fin 4) (k : Nat) : State :=
  let b := s.counters.get p
  if b.edge = some s.localCount ∧ (b.dirty = true ∨ k < b.rank) then tick s else s

/-- A snapshot at the current edge: the generation advances once per edge (R417). -/
def snapEdge (s : State) (p : Fin 4) (k : Nat) : State :=
  { s with counters := vmod s.counters p fun b =>
      if b.edge = some s.localCount then { b with rank := k }
      else { b with gen := b.gen + 1, edge := some s.localCount, dirty := false, rank := k } }

/-- A snapshot of rank k, with every increment delivered before its edge (R416): between two edges the clusters of the
commands at work have counted cycles. -/
def takeSnap (s : State) (p : Fin 4) (k : Nat) : State :=
  let s := toEdge s p k
  if (s.counters.get p).edge = some s.localCount then snapEdge s p k
  else snapEdge (((polder s p).inflight.filter (·.held)).foldl (fun s c => countTimed s p c.e.ctrSet) s) p k

end Sys2Proof.Machine
end

