-- ==== Sys2Proof/Machine/Dram.lean ====
section
/-! DEFINITION. Where memory lies: remap values and the remaps in force (R348, R349), the banks of an S-slice (R218), the
channels, pages and reserve of the D-tier (R217, R221, R222, R227, R229, R230), and the traffic of its channels (R235,
R238), with the trace ring's among it (R424, R425). -/

namespace Sys2Proof.Machine

/-! ## Remap values (R348) -/

def rmKind (v : DWord) : Nat := v.toNat % 16
def rmDie (v : DWord) : Nat := v.toNat / 16 % 4
def rmUnit (v : DWord) : Nat := v.toNat / 64 % 2 ^ 29
def rmRepl (v : DWord) : Nat := v.toNat / 2 ^ 35

def mkRemap (kind die unit repl : Nat) : DWord :=
  BitVec.ofNat 64 (kind % 16 + 16 * (die % 4) + 64 * (unit % 2 ^ 29) + 2 ^ 35 * (repl % 2 ^ 29))

/-- Do two remaps name the same unit? -/
def sameUnit (a b : DWord) : Bool := rmKind a == rmKind b && rmDie a == rmDie b && rmUnit a == rmUnit b

def heldComp (v : DWord) : Comp 64 := { val := v, comp := ~~~v }
def compAgrees {w : Nat} (c : Comp w) : Bool := c.comp == ~~~c.val

/-- Remaps in force, in the order applied: fuse entries in die order, then soft entries, a soft entry for a unit
that a fuse entry covers left out (R349). -/
def fuseRemaps (s : State) : List DWord :=
  (List.range 13).flatMap fun b => (s.fuses.remaps.filter fun r => r.1 = b).map fun r => r.2.val
def softInForce (s : State) : List DWord :=
  (s.softRemaps.map (·.val)).filter fun v => !(fuseRemaps s).any (sameUnit v)
def remapsInForce (s : State) : List DWord := fuseRemaps s ++ softInForce s

/-- The unit that replaces a unit: the last remap in force of it. -/
def replOf (s : State) (kind die unit : Nat) : Option Nat :=
  (((remapsInForce s).filter fun v => rmKind v = kind ∧ rmDie v = die ∧ rmUnit v = unit).getLast?).map rmRepl

/-! ## The S-tier (R218, R220) -/

/-- Logical bank, row of the bank and line of the row of an S-slice address. -/
structure SPlace where
  bank : Nat
  row  : Nat
  line : Nat
  deriving DecidableEq, Repr

def sPlace (a : Nat) : SPlace :=
  let l := a % 2 ^ 32 / 64
  { bank := (l % 2 ^ 11) ^^^ (l / 2 ^ 11 % 2 ^ 11) ^^^ (l / 2 ^ 22 % 16 * 128), row := l / 2 ^ 15 % 2 ^ 11,
    line := l / 2 ^ 11 % 16 }

/-- The S-die of a logical bank, 0 for SnA and 1 for SnB. -/
def sDie (bank : Nat) : Nat := bank / 1024

/-- The unit that a remap of the row names (R348). -/
def sUnit (x : SPlace) : Nat := x.bank * 2 ^ 11 + x.row

/-- The physical bank behind a logical bank (log 83). -/
def physBank (s : State) (d bank : Nat) : Nat := (replOf s 5 d bank).getD bank

/-! ## Pages, reserve and U (R215, R217, R221, R227, R230) -/

def retiredChannels (s : State) (d : Nat) : List Nat :=
  ((remapsInForce s).filter fun v => rmKind v = 7 ∧ rmDie v = d).map rmUnit

/-- Retirements of pages of a die outside its retired channels: each has cost a page. -/
def retiredPages (s : State) (d : Nat) : List Nat :=
  ((remapsInForce s).filter fun v => rmKind v = 6 ∧ rmDie v = d ∧
    !(retiredChannels s d).contains (rmUnit v / 2 ^ 21)).map rmUnit

/-- Blocks of the reserved regions of a die: trace ring and dump region of the open polder it leads (R217). -/
def reservedBlocks (traceSize : Nat) : Nat := (traceSize + 2 ^ 31) / 64

/-- avail_d of R230. -/
def availBlocks (s : State) (d z : Nat) : Nat :=
  60546875 * (256 - (retiredChannels s d).length) - 31 * (retiredPages s d).length - z

def shipU : Nat := 58593750
def dieU (s : State) (d z : Nat) : Nat := min shipU (availBlocks s d z / 256)

/-- U of each C-die of a polder as an OPEN would fix it: the first die holds the reserved regions; module-wide mode
takes the least (R230). -/
def openU (s : State) (ds : List (Fin 4)) (mode traceSize : Nat) : List Nat :=
  let us := ds.mapIdx fun i d => dieU s d.val (if i = 0 then reservedBlocks traceSize else 0)
  if mode = 1 then us.map fun _ => us.foldl min shipU else us

/-- U shown for C-die d (R297): the open polder's, or what an OPEN in the mode and trace size last given would fix. -/
def shownU (s : State) (d : Fin 4) : Nat :=
  match polderOfDie s d with
  | none => dieU s d.val (reservedBlocks (2 ^ 28))
  | some p =>
    let ds := diesOf s p
    let us := if isOpen s p then (polder s p).u else openU s ds 0 (2 ^ 28)
    us.getD (ds.idxOf d) 0

/-- Trace ring size of the open polder that the die leads, which holds its reserved regions (R217). -/
def leadTrace (s : State) (d : Fin 4) : Option Nat :=
  match polderOfDie s d with
  | some p => if isOpen s p && firstDie s p == d then some (polder s p).traceSize else none
  | none => none

/-- Blocks of the reserved regions of a die. -/
def regionBlocks (s : State) (d : Fin 4) : Nat := (leadTrace s d).elim 0 reservedBlocks

/-- Pages of each channel that n blocks spread over 256 channels fill. -/
def chanPages (n : Nat) : Nat := ((n + 255) / 256 + 30) / 31

/-- Pages of each channel that the reserved regions of a die take: the trace ring's, then the dump region's (log 84). -/
def regionPages (s : State) (d : Fin 4) : Nat :=
  match leadTrace s d with
  | some t => chanPages (t / 64) + chanPages (2 ^ 31 / 64)
  | none => 0

/-- Pages 0 to 1,953,124 of a channel (R221). -/
def pageCount : Nat := 1953125

/-- The first page of a channel's reserve: user blocks fill the pages below it. -/
def firstReserve (s : State) (d : Fin 4) : Nat := (shownU s d + 30) / 31

/-- A number into an ascending list. -/
def insertUp (x : Nat) : List Nat → List Nat
  | [] => [x]
  | y :: ys => if x ≤ y then x :: y :: ys else y :: insertUp x ys

/-- Pages of a channel of the die that replace retired pages. -/
def usedReserve (s : State) (d l : Nat) : List Nat :=
  ((remapsInForce s).filter fun v => rmKind v = 6 ∧ rmDie v = d ∧ rmRepl v / 2 ^ 21 = l).map fun v => rmRepl v % 2 ^ 21

/-- Pages of a channel of the die that are retired. -/
def retiredIn (s : State) (d l : Nat) : List Nat :=
  ((remapsInForce s).filter fun v => rmKind v = 6 ∧ rmDie v = d ∧ rmUnit v / 2 ^ 21 = l).map fun v => rmUnit v % 2 ^ 21

/-- Each number once, ascending. -/
def sortUp (xs : List Nat) : List Nat := xs.eraseDups.foldr insertUp []

/-- The first page from k on that an ascending list of used pages leaves, when k counts free pages. -/
def skipUsed : List Nat → Nat → Nat
  | [], k => k
  | u :: us, k => if u ≤ k then skipUsed us (k + 1) else skipUsed us k

/-- The k-th reserve page of a channel that replaces no retired page (log 84). -/
def reservePage (s : State) (d : Fin 4) (l k : Nat) : Nat :=
  let first := firstReserve s d
  skipUsed ((sortUp (usedReserve s d.val l)).filter fun g => first ≤ g) (first + k)

/-- The first page of a channel beyond the reserved regions. -/
def regionEnd (s : State) (d : Fin 4) (l : Nat) : Nat :=
  match regionPages s d with
  | 0 => firstReserve s d
  | k + 1 => reservePage s d l k + 1

/-- Free reserve pages of a die: every page beyond user blocks, reserved regions and retired pages, a retired channel's
copies taken off (R229, R230). -/
def freeReservePages (s : State) (d : Fin 4) : Nat :=
  (256 - (retiredChannels s d.val).length) * pageCount - (retiredPages s d.val).length -
    256 * (regionPages s d + firstReserve s d)

/-- Free page entries of the die's remap table of 65,536: one entry for each retired page (R227). -/
def freePageEntries (s : State) (d : Nat) : Nat := 65536 - (retiredPages s d).eraseDups.length

/-- The lowest reserve page of a channel that is beyond the reserved regions, replaces no page and is not retired; the page
`u` being retired is none of them. -/
def spareIn (s : State) (d : Fin 4) (u k : Nat) : Nat :=
  let own := if u / 2 ^ 21 = k then [u % 2 ^ 21] else []
  let first := regionEnd s d k
  skipUsed ((sortUp (usedReserve s d.val k ++ retiredIn s d.val k ++ own)).filter fun g => first ≤ g) first

/-- The reserve page that the retirement of page u takes, with its channel: the lowest free one of the page's own channel,
else of the lowest other channel of the die (R227). -/
def freePage (s : State) (d : Fin 4) (u : Nat) : Option (Nat × Nat) :=
  if freeReservePages s d = 0 then none else
  let l := u / 2 ^ 21
  (l :: (List.range 256).filter fun k => k != l && !(retiredChannels s d.val).contains k).findSome? fun k =>
    let g := spareIn s d u k
    if g < pageCount then some (k, g) else none

/-! ## Where a device address lies (R217, R222) -/

/-- A D-tier block's place: C-die, channel of the die, logical page of the channel, position in the page (R221). -/
structure Place where
  die  : Fin 4
  chan : Nat
  page : Nat
  pos  : Nat
  deriving DecidableEq, Repr

/-- The site of the module, and the channel of the site, of a channel of a die. -/
def siteOf (d : Fin 4) (l : Nat) : Fin 32 := fin32 (8 * d.val + l % 8)
def chanOf (l : Nat) : Fin 32 := fin32 (l / 8)

def log2Exact (n : Nat) : Nat := Nat.log2 n

/-- XOR of the n-bit digits of y below 64 bits. -/
def foldDigits : Nat → Nat → Nat → Nat
  | 0, _, _ => 0
  | k + 1, n, y => (y % 2 ^ n) ^^^ foldDigits k n (y / 2 ^ n)

/-- h of R222 for a data block q of channels numbered with n bits. -/
def chanHash (key : BitVec 128) (n q : Nat) : Nat :=
  let y := (q ^^^ (key.toNat % 2 ^ 64)) * (key.toNat / 2 ^ 64 ||| 1) % 2 ^ 64
  foldDigits ((64 + n - 1) / n) n (y ^^^ (y / 2 ^ 29))

/-- R222: C-die, channel of the die and data block of the channel, of block bi over the channels of `set`. -/
def spread (key : BitVec 128) (set : List (Fin 4)) (bi : Nat) : Fin 4 × Nat × Nat :=
  let n := 8 + log2Exact set.length
  let q := bi / 2 ^ n
  let c := (bi % 2 ^ n) ^^^ chanHash key n q
  (set.getD (c / 256) 0, c % 256, q)

/-- The place of a user block. -/
def userPlace (s : State) (p : Fin 4) (d : Fin 4) (u a : Nat) : Place :=
  let P := polder s p
  let ds := diesOf s p
  let bi := (a - dieBase d) / 64 + (if P.mode = 1 then ds.idxOf d * 256 * u else 0)
  let x := spread P.hashKey (if P.mode = 1 then ds else [d]) bi
  { die := x.1, chan := x.2.1, page := x.2.2 / 31, pos := x.2.2 % 31 }

/-- The place of a block of a reserved region that begins at `base`, its first page in each channel the k-th of the
reserve: die-local under the polder's hash key in either mode (R217). -/
def regionPlace (s : State) (p : Fin 4) (d : Fin 4) (base k a : Nat) : Place :=
  let x := spread (polder s p).hashKey [d] ((a - base) / 64)
  { die := d, chan := x.2.1, page := reservePage s d x.2.1 (k + x.2.2 / 31), pos := x.2.2 % 31 }

/-- The place of a D-tier address of polder p: in a user range, in the trace ring or in the dump region. -/
def place (s : State) (p : Fin 4) (a : Nat) : Option Place :=
  let P := polder s p
  match ((diesOf s p).zip P.u).find? fun x => decide (dieBase x.1 ≤ a) && decide (a < dieBase x.1 + 16384 * x.2) with
  | some (d, u) => some (userPlace s p d u a)
  | none =>
    let d := firstDie s p
    if traceBase d ≤ a ∧ a < traceBase d + P.traceSize then some (regionPlace s p d (traceBase d) 0 a)
    else if dumpBase d ≤ a ∧ a < dumpBase d + 2 ^ 31 then
      some (regionPlace s p d (dumpBase d) (chanPages (P.traceSize / 64)) a)
    else none

/-- The user address of data block q of a channel of polder p: R222 read backwards. -/
def blockAddr (s : State) (p : Fin 4) (d : Fin 4) (l q : Nat) : Nat :=
  let P := polder s p
  let ds := diesOf s p
  let n := if P.mode = 1 then 8 + log2Exact ds.length else 8
  let c := if P.mode = 1 then 256 * ds.idxOf d + l else l
  let bi := q * 2 ^ n + (c ^^^ chanHash P.hashKey n q)
  let per := 256 * P.u.headD 0
  if P.mode = 1 then dieBase (ds.getD (bi / per) 0) + 64 * (bi % per) else dieBase d + 64 * bi

/-- The poison map of a user page: one Bool for each of its 31 data blocks (R221, R226). -/
def poisonMap (s : State) (p : Fin 4) (d : Fin 4) (l g : Nat) : List Bool :=
  (List.range 31).map fun i => isBad s (blockAddr s p d l (31 * g + i))

/-- The check block of a user page, bytes 1,984 to 2,047: the check word of each data block, the poison mark in place of
a poisoned one's, and the summary of the poison map (R221, R226). -/
def checkBlock (s : State) (p : Fin 4) (d : Fin 4) (l g : Nat) : List Byte :=
  let bad := poisonMap s p d l g
  ((bad.mapIdx fun i b =>
    leBytes 2 (if b then Config.poisonMark
      else Config.checkWord (memBytes s (blockAddr s p d l (31 * g + i)) 64)).toNat).flatten) ++
  leBytes 2 (Config.poisonSummary bad).toNat

/-! ## Traffic of the channels (R229, R235, R238) -/

/-- Key of a channel in the traffic table: 1,024 channels of the module, by site then channel. -/
def chanKey (m ch : Fin 32) : Nat := 32 * m.val + ch.val

/-- The channel of the die whose devices serve a place: that of the replacement page for a retired page, and one of the
die's other channels for what a retired channel held. -/
def servedBy (s : State) (x : Place) : Nat :=
  let l := match replOf s 6 x.die.val (x.chan * 2 ^ 21 + x.page) with
    | some r => r / 2 ^ 21
    | none => x.chan
  let gone := retiredChannels s x.die.val
  if gone.contains l then
    let live := (List.range 256).filter fun k => !gone.contains k
    live.getD (Config.copyPlace x.die.val l (31 * x.page + x.pos) % live.length) l
  else l

/-- Traffic of `n` bytes at device address a, one block at a time; the channel and site leave their low-power states. -/
def touchBlocks : Nat → State → Fin 4 → Nat → Nat → State
  | 0, s, _, _, _ => s
  | k + 1, s, p, a, n =>
    if n = 0 then s else
    let here := min n (64 - a % 64)
    let s := match place s p a with
      | none => s
      | some x =>
        let l := servedBy s x
        let m := siteOf x.die l
        let s := modPolder s p fun P => { P with chanBytes := tabMod 0 P.chanBytes (chanKey m (chanOf l)) (· + here) }
        modSite s m fun S => { S with powerDown := S.powerDown.filter (· ≠ (chanOf l).val), selfRefresh := false, pasr := [] }
    touchBlocks k s p (a + here) (n - here)

/-- An access of n bytes by polder p: in the D-tier it is traffic of the channels. -/
def touch (s : State) (p : Fin 4) (a n : Nat) : State :=
  if a < 2 ^ 40 then s else touchBlocks (n / 64 + 2) s p a n

/-- A write by the module into a reserved region, whole blocks of which clear their error (R226), with its traffic. -/
def regionWrite (s : State) (p : Fin 4) (a : Nat) (bs : List Byte) : State :=
  touch (memWrite s a bs).1 p a bs.length

/-! ## Accesses of a command: the S-tier and D-tier byte counters (R415), and the traffic of the channels -/

/-- Count an access of a command of counter set `set` (R415) and note D-tier traffic. -/
def noteAccess (s : State) (p : Fin 4) (set : BitVec 16) (a n : Nat) : State :=
  if a < 2 ^ 40 then countAdd s p set 4 n else touch (countAdd s p set 5 n) p a n

/-- A unit's read: the state with the access counted, and the bytes unless an uncorrectable error was met. -/
def unitRead (s : State) (p : Fin 4) (set : BitVec 16) (a n : Nat) : State × Option (List Byte) :=
  (noteAccess s p set a n, memRead s a n)

def unitWrite (s : State) (p : Fin 4) (set : BitVec 16) (a : Nat) (bs : List Byte) : State × Bool :=
  let r := memWrite s a bs
  (noteAccess r.1 p set a bs.length, r.2)

/-- Writes in order; the Bool says whether every byte of all was stored. -/
def unitWrites (s : State) (p : Fin 4) (set : BitVec 16) (ws : List (Nat × List Byte)) : State × Bool :=
  ws.foldl (fun x w => let r := unitWrite x.1 p set w.1 w.2; (r.1, x.2 && r.2)) (s, true)

/-- Accesses of several spans, given by address and length. -/
def noteSpans (s : State) (p : Fin 4) (set : BitVec 16) (xs : List (Nat × Nat)) : State :=
  xs.foldl (fun s x => noteAccess s p set x.1 x.2) s

/-! ## The trace ring (R424, R425) -/

def traceEntries (P : Polder) : Nat := (P.traceSize - 4096) / 256

/-- The first block of the ring's header, the only one that holds more than zeros. -/
def traceHeader (s : State) (p : Fin 4) (n : DWord) : List Byte :=
  leBytes 4 0x54524331 ++ leBytes 2 256 ++ zeros 2 ++ leBytes 4 (traceEntries (polder s p)) ++ zeros 4 ++
  leBytes 8 n.toNat ++ leBytes 8 (~~~n).toNat ++ leBytes 8 (leveeTime s).toNat ++ zeros 24

/-- Write one record of whole blocks, then the header's first block. -/
def writeRing (s : State) (p : Fin 4) (bytes : List Byte) : State :=
  let n := (polder s p).traceWritten
  let base := traceBase (firstDie s p)
  let s := regionWrite s p (base + 4096 + 256 * (n.toNat % traceEntries (polder s p))) bytes
  let s := regionWrite s p base (traceHeader s p (n + 1))
  modPolder s p fun P => { P with traceWritten := n + 1 }

/-- Is the energy of a record's snapshot known: are the slots up to its edge attributed? A record of another type holds
none. -/
def settled (x : RingDue) : Bool := x.snap.all fun k => k.slot.isNone

/-- The bytes of a record with its energy, which a rounded one shows as zero (R418). -/
def ringBytes (x : RingDue) : List Byte :=
  match x.snap with
  | some k => if fld x.bytes 2 1 = 1 then x.bytes else x.bytes.take 0x90 ++ leBytes 8 k.energy ++ x.bytes.drop 0x98
  | none => x.bytes

/-- The records that can be written, in their order: those before the first that waits for its energy (R416, R426). -/
def flushRing (s : State) (p : Fin 4) : State :=
  let due := (polder s p).ringDue
  let s := (due.takeWhile settled).foldl (fun s x => writeRing s p (ringBytes x)) s
  modPolder s p fun P => { P with ringDue := due.dropWhile settled }

/-- The sequence of the next record: those that wait have theirs already. -/
def nextRecord (P : Polder) : DWord := P.traceWritten + BitVec.ofNat 64 P.ringDue.length

/-- A record of the trace ring, with its type, queue byte, opcode, sequence, request, set, the bytes from 0x20 and its
snapshot. It is written once the records before it are and its energy is known. -/
def traceRecord (s : State) (p : Fin 4) (typ : Nat) (qb : Nat) (rounded : Bool) (op : Nat) (seq rid : Word) (set : Nat)
    (body : List Byte) (snap : Option Snap := none) : State :=
  let P := polder s p
  if traceEntries P = 0 then s else
  let bytes := leBytes 1 typ ++ leBytes 1 qb ++ leBytes 1 (if rounded then 1 else 0) ++ leBytes 1 op ++
    leBytes 4 seq.toNat ++ leBytes 8 (nextRecord P).toNat ++ leBytes 8 (leveeTime s).toNat ++ leBytes 4 rid.toNat ++
    leBytes 2 set ++ zeros 2 ++ body
  flushRing (modPolder s p fun P => { P with ringDue := P.ringDue ++ [{ bytes := padTo 256 bytes, snap := snap }] }) p

/-! ## Snapshots (R416) -/

/-- The energy counter of a set of a polder. -/
def setEnergy (s : State) (p : Fin 4) (set : Nat) : Nat := ((counterSet s p set).get 13).toNat

/-- The counters of a set as a snapshot shows them; their energy follows once it is attributed. -/
def shownSet (s : State) (p : Fin 4) (set : Nat) : List Byte :=
  (counterBytes (shownCounters s (counterSet s p set))).take 0x68 ++ zeros 8

/-- The generation and the shown counters of a command's set, as records 0x01-0x03 carry them. -/
def snapBody (s : State) (p : Fin 4) (set : Nat) : List Byte :=
  leBytes 8 (s.counters.get p).gen.toNat ++ shownSet s p set

/-- The 1 µs slot of the sample in progress that is not yet reported by every cluster of the polder (R390). -/
def slotNow (s : State) (p : Fin 4) : Nat :=
  match (clustersOf s p).map fun c => (cluster s c).weights.length with
  | [] => 0
  | k :: ks => ks.foldl min k

/-- The snapshot of a set at the edge now: the slot that holds the edge is still to be attributed. -/
def snapNow (s : State) (p : Fin 4) (set : Nat) : Snap :=
  { set := set, gen := (s.counters.get p).gen, slot := some (slotNow s p), energy := setEnergy s p set }

end Sys2Proof.Machine
end

