-- ==== Sys2Proof/Machine/Fp.lean ====
section
/-! DEFINITION. The arithmetic of the number formats: exact dyadic values, rounding, element encodings
(R32-R38), conversion with saturation and flush (R61, R62), stochastic rounding (R65), binary32 operations
(R13, R134) and the VE approximations (R139). -/

namespace Sys2Proof.Machine

/-! ## Rounding of exact values -/

/-- m / 2^sh rounded to nearest, ties to even. -/
def rneShift (m sh : Nat) : Nat :=
  let q := m >>> sh
  let r := m % 2 ^ sh
  if 2 * r > 2 ^ sh ∨ (2 * r = 2 ^ sh ∧ q % 2 = 1) then q + 1 else q

/-- m × 2^e rounded to nearest even integer. -/
def rneNat (m : Nat) (e : Int) : Nat :=
  if 0 ≤ e then m <<< e.toNat else rneShift m (-e).toNat

/-- m × 2^e rounded to nearest, ties away from zero (R68, INT8). -/
def rnaNat (m : Nat) (e : Int) : Nat :=
  if 0 ≤ e then m <<< e.toNat else (m + 2 ^ ((-e).toNat - 1)) >>> (-e).toNat

/-- The exponent of the least significant bit that a p-bit significand with least exponent emin keeps of m × 2^e. -/
def lsbExp (p : Nat) (emin : Int) (m : Nat) (e : Int) : Int :=
  max ((Nat.log2 m : Int) + e) emin - ((p : Int) - 1)

/-- m × 2^e rounded (rne) to p bits with least exponent emin: the new pair. -/
def roundSig (p : Nat) (emin : Int) (m : Nat) (e : Int) : Nat × Int :=
  if m = 0 then (0, e) else
  let l := lsbExp p emin m e
  (rneNat m (e - l), l)

/-- sr of R65 on a magnitude: integer part plus the carry of the fraction's top 16 bits and r. -/
def srSig (p : Nat) (emin : Int) (r : BitVec 16) (m : Nat) (e : Int) : Nat × Int :=
  if m = 0 then (0, e) else
  let l := lsbExp p emin m e
  if l ≤ e then (m <<< (e - l).toNat, l) else
  let sh := (l - e).toNat
  let i := m >>> sh
  let f16 := ((m % 2 ^ sh) <<< 16) >>> sh
  (if f16 + r.toNat ≥ 2 ^ 16 then i + 1 else i, l)

/-- Compare m1 × 2^e1 < m2 × 2^e2. -/
def magLt (m1 : Nat) (e1 : Int) (m2 : Nat) (e2 : Int) : Bool :=
  let e := min e1 e2
  decide (m1 <<< (e1 - e).toNat < m2 <<< (e2 - e).toNat)

/-! ## Exact values -/

namespace FVal

def zero : FVal := .fin false 0 0
def one : FVal := .fin false 1 0
def ofInt (i : Int) (e : Int := 0) : FVal := .fin (decide (i < 0)) i.natAbs e

def isZero : FVal → Bool
  | .fin _ m _ => m == 0
  | _ => false

def isFinite : FVal → Bool
  | .fin _ _ _ => true
  | _ => false

def isNan : FVal → Bool
  | .nan => true
  | _ => false

def sign : FVal → Bool
  | .nan => false
  | .inf n => n
  | .fin n _ _ => n

def neg : FVal → FVal
  | .nan => .nan
  | .inf n => .inf (!n)
  | .fin n m e => .fin (!n) m e

def abs : FVal → FVal
  | .nan => .nan
  | .inf _ => .inf false
  | .fin _ m e => .fin false m e

def scale (x : FVal) (k : Int) : FVal :=
  match x with
  | .fin n m e => .fin n m (e + k)
  | y => y

/-- Exact product; zero times infinity is NaN. -/
def mul : FVal → FVal → FVal
  | .nan, _ => .nan
  | _, .nan => .nan
  | .inf a, .inf b => .inf (a != b)
  | .inf a, .fin b m _ => if m = 0 then .nan else .inf (a != b)
  | .fin a m _, .inf b => if m = 0 then .nan else .inf (a != b)
  | .fin a m e, .fin b n f => .fin (a != b) (m * n) (e + f)

/-- The signed integer of a finite value in units of 2^e0, for e0 at or below its exponent. -/
def unitsOf (neg : Bool) (m : Nat) (e e0 : Int) : Int :=
  let v : Int := (m <<< (e - e0).toNat : Nat)
  if neg then -v else v

/-- Exact sum; an exact zero is +0 unless both terms are negative zeros. -/
def add : FVal → FVal → FVal
  | .nan, _ => .nan
  | _, .nan => .nan
  | .inf a, .inf b => if a = b then .inf a else .nan
  | .inf a, _ => .inf a
  | _, .inf b => .inf b
  | .fin a m e, .fin b n f =>
    let e0 := min e f
    let v := unitsOf a m e e0 + unitsOf b n f e0
    if v = 0 then .fin (a && b && (m == 0) && (n == 0)) 0 0 else .fin (decide (v < 0)) v.natAbs e0

def sub (x y : FVal) : FVal := x.add y.neg

/-- x < y on numbers; false with a NaN. -/
def lt : FVal → FVal → Bool
  | .nan, _ => false
  | _, .nan => false
  | .inf a, .inf b => a && !b
  | .inf a, _ => a
  | _, .inf b => !b
  | .fin a m e, .fin b n f =>
    let e0 := min e f
    decide (unitsOf a m e e0 < unitsOf b n f e0)

def eq : FVal → FVal → Bool
  | .nan, _ => false
  | _, .nan => false
  | x, y => !(lt x y) && !(lt y x)

def le (x y : FVal) : Bool := lt x y || eq x y

/-- floor(log2 |x|) of a nonzero finite value. -/
def log2 : FVal → Int
  | .fin _ m e => (Nat.log2 m : Int) + e
  | _ => 0

end FVal

/-! ## Element formats (R32, R35, R36) -/

/-- A floating element format: exponent bits, stored significand bits, bias, and what its all-ones exponent
means: nothing special, infinity and NaN, or NaN only at the all-ones significand (E4M3). -/
structure FFmt where
  eb : Nat
  mb : Nat
  bias : Int
  /-- 0: no special value; 1: IEEE specials; 2: the single NaN of E4M3. -/
  special : Nat

def fp4   : FFmt := ⟨2, 1, 1, 0⟩
def e4m3  : FFmt := ⟨4, 3, 7, 2⟩
def e5m2  : FFmt := ⟨5, 2, 15, 1⟩
def bf16  : FFmt := ⟨8, 7, 127, 1⟩
def fp16  : FFmt := ⟨5, 10, 15, 1⟩
def fp32  : FFmt := ⟨8, 23, 127, 1⟩

def FFmt.emin (f : FFmt) : Int := 1 - f.bias
def FFmt.width (f : FFmt) : Nat := 1 + f.eb + f.mb
/-- Largest finite magnitude as a code. -/
def FFmt.maxCode (f : FFmt) : Nat :=
  match f.special with
  | 0 => 2 ^ (f.eb + f.mb) - 1
  | 1 => (2 ^ f.eb - 1) * 2 ^ f.mb - 1
  | _ => 2 ^ (f.eb + f.mb) - 2
/-- The canonical NaN of R37; formats without a NaN write +0 (R61). -/
def FFmt.nanCode (f : FFmt) : Nat :=
  match f.special with
  | 0 => 0
  | 1 => (2 ^ f.eb - 1) * 2 ^ f.mb + (if f.mb = 2 then 3 else 2 ^ (f.mb - 1))
  | _ => 2 ^ (f.eb + f.mb) - 1

def FFmt.decode (f : FFmt) (code : Nat) : FVal :=
  let neg := decide (code / 2 ^ (f.eb + f.mb) % 2 = 1)
  let ex := code / 2 ^ f.mb % 2 ^ f.eb
  let m := code % 2 ^ f.mb
  if f.special = 1 ∧ ex = 2 ^ f.eb - 1 then (if m = 0 then .inf neg else .nan)
  else if f.special = 2 ∧ ex = 2 ^ f.eb - 1 ∧ m = 2 ^ f.mb - 1 then .nan
  else if ex = 0 then .fin neg m (f.emin - f.mb)
  else .fin neg (2 ^ f.mb + m) ((ex : Int) - f.bias - f.mb)

/-- The magnitude code of a rounded pair from `roundSig` or `srSig` that lies in range. -/
def FFmt.pack (f : FFmt) (m : Nat) (l : Int) : Nat :=
  if m < 2 ^ f.mb then m
  else if m < 2 ^ (f.mb + 1) then (l + f.mb + f.bias).toNat * 2 ^ f.mb + (m - 2 ^ f.mb)
  else (l + f.mb + 1 + f.bias).toNat * 2 ^ f.mb

def FFmt.signBit (f : FFmt) (neg : Bool) : Nat := if neg then 2 ^ (f.eb + f.mb) else 0

/-- The outcome of converting one element (R61-R63): its code, whether it counts as saturated or flushed, and
whether a finite saturation flags its block for the spillway. -/
structure Conv where
  code  : Nat
  sat   : Bool
  flush : Bool
  flag  : Bool
  deriving DecidableEq, Repr

/-- The format's float kind, or none for an integer format. -/
def floatFmt (fmt : Nat) : Option FFmt :=
  match fmt with
  | 1 => some fp4
  | 3 => some e4m3
  | 4 => some e5m2
  | 6 => some bf16
  | 7 => some fp16
  | 9 => some fp32
  | _ => none

/-- Bits of an element (R32). -/
def fmtBits (fmt : Nat) : Nat :=
  match fmt with
  | 0 | 1 | 2 => 4
  | 3 | 4 | 5 => 8
  | 6 | 7 | 8 => 16
  | _ => 32

def isInt (fmt : Nat) : Bool := fmt == 0 || fmt == 5 || fmt == 8 || fmt == 0xA

/-- Element size in bytes for alignment; 4-bit elements count as one (R103). -/
def fmtAlign (fmt : Nat) : Nat := max 1 (fmtBits fmt / 8)

/-- Largest magnitude an integer format writes (R36). -/
def intMax (fmt : Nat) : Nat := 2 ^ (fmtBits fmt - 1) - 1

/-- log2 of the inverse of R36's fixed-point factor. -/
def fixedShift (fmt : Nat) : Int :=
  match fmt with
  | 0 => 2
  | 5 => 6
  | 8 => 14
  | _ => 0

/-- A two's-complement integer of n bits. -/
def toSigned (n x : Nat) : Int := if x % 2 ^ n < 2 ^ (n - 1) then (x % 2 ^ n : Nat) else (x % 2 ^ n : Nat) - (2 ^ n : Nat)

/-- The value an element's bits denote without any scale (R35, R36). -/
def decodeElem (fmt code : Nat) : FVal :=
  match floatFmt fmt with
  | some f => f.decode (code % 2 ^ f.width)
  | none => FVal.ofInt (toSigned (fmtBits fmt) code)

/-- The value of an element under a block scale: integers take the factor of R36. -/
def decodeScaled (fmt code : Nat) : FVal :=
  if isInt fmt then (decodeElem fmt code).scale (-(fixedShift fmt)) else decodeElem fmt code

/-- How a magnitude is rounded: to nearest even, or stochastically with the draw r. -/
inductive Rounding where
  | rne
  | sr (r : BitVec 16)

def Rounding.sig (how : Rounding) (p : Nat) (emin : Int) (m : Nat) (e : Int) : Nat × Int :=
  match how with
  | .rne => roundSig p emin m e
  | .sr r => srSig p emin r m e

/-- Conversion into a floating format (R61, R62). -/
def FFmt.convert (f : FFmt) (how : Rounding) (flushCtl : Bool) (t : FVal) : Conv :=
  match t with
  | .nan => ⟨f.nanCode, false, false, false⟩
  | .inf n =>
    if f.special = 1 then ⟨f.signBit n + (2 ^ f.eb - 1) * 2 ^ f.mb, false, false, false⟩
    else ⟨f.signBit n + f.maxCode, true, false, false⟩
  | .fin n m e =>
    let r := how.sig (f.mb + 1) f.emin m e
    let c := f.pack r.1 r.2
    if r.1 = 0 then ⟨f.signBit n, false, decide (m ≠ 0), false⟩
    else if c > f.maxCode then ⟨f.signBit n + f.maxCode, true, false, true⟩
    else if flushCtl ∧ c < 2 ^ f.mb then ⟨f.signBit n, false, true, false⟩
    else ⟨f.signBit n + c, false, false, false⟩

def encodeSigned (n : Nat) (neg : Bool) (m : Nat) : Nat := if neg then (2 ^ n - m) % 2 ^ n else m

/-- Conversion into an integer format; under a block scale the caller has applied R36's factor. -/
def intConvert (fmt : Nat) (how : Rounding) (t : FVal) : Conv :=
  let n := fmtBits fmt
  let lim := intMax fmt
  match t with
  | .nan => ⟨0, false, false, false⟩
  | .inf s => ⟨encodeSigned n s lim, true, false, false⟩
  | .fin s m e =>
    let r := match how with
      | .rne => rneNat m e
      | .sr d =>
        if 0 ≤ e then m <<< e.toNat else
        let sh := (-e).toNat
        if ((m % 2 ^ sh) <<< 16) >>> sh + d.toNat ≥ 2 ^ 16 then (m >>> sh) + 1 else m >>> sh
    if r > lim then ⟨encodeSigned n s lim, true, false, true⟩ else ⟨encodeSigned n s r, false, false, false⟩

/-- Conversion of t into an element format (R59 step 4, R61, R62). `scaled`: the element carries a block scale,
so an integer target takes the inverse of R36's factor. -/
def convertElem (fmt : Nat) (how : Rounding) (flushCtl scaled : Bool) (t : FVal) : Conv :=
  match floatFmt fmt with
  | some f => f.convert how flushCtl t
  | none => intConvert fmt how (if scaled then t.scale (fixedShift fmt) else t)

/-- Smallest normal magnitude of a floating format as an exponent; R162's vanish test. -/
def vanishes (fmt : Nat) (t : FVal) : Bool :=
  match t with
  | .fin _ m e =>
    if m = 0 then false else
    match floatFmt fmt with
    | some f =>
      let r := roundSig (f.mb + 1) f.emin m e
      decide (r.1 < 2 ^ f.mb)
    | none => decide (rneNat m e = 0)
  | _ => false

/-- Largest finite magnitude of a format (R176); 127/64 and the like for integers under a scale. -/
def maxFinite (fmt : Nat) : FVal :=
  match floatFmt fmt with
  | some f => f.decode f.maxCode
  | none => .fin false (intMax fmt) (-(fixedShift fmt))

/-! ## binary32 (R13, R134) -/

def f32dec (x : Word) : FVal := fp32.decode x.toNat

def canonNan : Word := 0x7FC00000

/-- Rounding to binary32, overflow to infinity (R134). -/
def f32enc (t : FVal) : Word :=
  match t with
  | .nan => canonNan
  | .inf n => if n then 0xFF800000 else 0x7F800000
  | .fin n m e =>
    let r := roundSig 24 (-126) m e
    let c := fp32.pack r.1 r.2
    BitVec.ofNat 32 (fp32.signBit n + (if c > fp32.maxCode then 0x7F800000 else c))

def f32add (a b : Word) : Word := f32enc ((f32dec a).add (f32dec b))
def f32sub (a b : Word) : Word := f32enc ((f32dec a).sub (f32dec b))
def f32mul (a b : Word) : Word := f32enc ((f32dec a).mul (f32dec b))
def f32fma (a b c : Word) : Word := f32enc (((f32dec a).mul (f32dec b)).add (f32dec c))
def f32neg (a : Word) : Word := if (f32dec a).isNan then canonNan else a ^^^ 0x80000000

/-- fmin: NaN with a NaN, −0 below +0 (R134). -/
def f32min (a b : Word) : Word :=
  let x := f32dec a; let y := f32dec b
  if x.isNan || y.isNan then canonNan
  else if x.isZero && y.isZero then (if x.sign then a else b)
  else if y.lt x then b else a

def f32max (a b : Word) : Word :=
  let x := f32dec a; let y := f32dec b
  if x.isNan || y.isNan then canonNan
  else if x.isZero && y.isZero then (if x.sign then b else a)
  else if x.lt y then b else a

/-- A quotient of magnitudes with 64 bits to spare and a sticky last bit. -/
def divMag (m1 : Nat) (e1 : Int) (m2 : Nat) (e2 : Int) : Nat × Int :=
  let k := 64 + Nat.log2 m2
  let n := m1 <<< k
  (2 * (n / m2) + (if n % m2 = 0 then 0 else 1), e1 - e2 - k - 1)

def FVal.div : FVal → FVal → FVal
  | .nan, _ => .nan
  | _, .nan => .nan
  | .inf _, .inf _ => .nan
  | .inf a, .fin b _ _ => .inf (a != b)
  | .fin a _ _, .inf b => .fin (a != b) 0 0
  | .fin a m e, .fin b n f =>
    if n = 0 then (if m = 0 then .nan else .inf (a != b))
    else let r := divMag m e n f; .fin (a != b) r.1 r.2

/-- Correctly rounded binary32 division (R199, R205). -/
def f32div (a b : Word) : Word := f32enc ((f32dec a).div (f32dec b))

/-- floor of the square root, one bit per step from bit k downwards. -/
def isqrtFrom : Nat → Nat → Nat → Nat
  | 0, _, r => r
  | k + 1, n, r =>
    let t := r + 2 ^ k
    isqrtFrom k n (if t * t ≤ n then t else r)

/-- 1/√(m × 2^e) with a sticky last bit, for m below 2^64. -/
def rsqrtMag (m : Nat) (e : Int) : Nat × Int :=
  let odd := decide (e % 2 ≠ 0)
  let m' := if odd then 2 * m else m
  let e' := if odd then e - 1 else e
  let q := isqrtFrom 104 (2 ^ 208 / m') 0
  (2 * q + (if q * q * m' = 2 ^ 208 then 0 else 1), -(e' / 2) - 104 - 1)

def f32rcp (x : Word) : Word :=
  match f32dec x with
  | .nan => canonNan
  | y => f32enc (FVal.one.div y)

/-- frsq of R139. -/
def f32rsq (x : Word) : Word :=
  match f32dec x with
  | .nan => canonNan
  | .inf n => if n then canonNan else 0
  | .fin n m e =>
    if m = 0 then (if n then 0xFF800000 else 0x7F800000)
    else if n then canonNan
    else let r := rsqrtMag m e; f32enc (.fin false r.1 r.2)

/-! ## Fixed-point evaluation behind the bounds of R139 (fractions of 2^128) -/

/-- ln 2 × 2^128, rounded down. -/
def ln2 : Nat := 0xB17217F7D1CF79ABC9E3B39803F2F6AF

/-- The exponential series: terms t^k / k! from k on. -/
def expSeries : Nat → Nat → Nat → Nat → Nat
  | 0, _, _, _ => 0
  | n + 1, t, k, term => term + expSeries n t (k + 1) (term * t / (2 ^ 128 * (k + 1)))

/-- 2^(f / 2^128) for 0 ≤ f < 2^128, in units of 2^-128. -/
def exp2Frac (f : Nat) : Nat := expSeries 48 (f * ln2 / 2 ^ 128) 0 (2 ^ 128)

/-- 2^x for x = ±m × 2^e, |x| below 2^20. -/
def exp2Val (neg : Bool) (m : Nat) (e : Int) : FVal :=
  let u : Nat := if -128 ≤ e then m <<< (e + 128).toNat else m >>> (-(e + 128)).toNat
  let i : Int := if neg then -(u : Int) else u
  .fin false (exp2Frac (i % 2 ^ 128).toNat) (i / 2 ^ 128 - 128)

/-- z + z^3/3 + z^5/5 + …, z in units of 2^-128. -/
def atanhSeries : Nat → Nat → Nat → Nat → Nat
  | 0, _, _, _ => 0
  | n + 1, zz, k, pw => pw / (2 * k + 1) + atanhSeries n zz (k + 1) (pw * zz / 2 ^ 128)

/-- log2 (m × 2^e), m nonzero, in units of 2^-128. -/
def log2Units (m : Nat) (e : Int) : Int :=
  let k := Nat.log2 m
  let f := m <<< 128 >>> k                                  -- in [1, 2) × 2^128
  let z := (f - 2 ^ 128) * 2 ^ 128 / (f + 2 ^ 128)
  let ln := 2 * atanhSeries 48 (z * z / 2 ^ 128) 0 z
  (k + e) * (2 ^ 128 : Nat) + (ln * 2 ^ 128 / ln2 : Nat)

/-- e^-y for y = m × 2^e ≥ 0, in units of 2^-128 (zero beyond y = 2^9). -/
def expNeg (m : Nat) (e : Int) : Nat :=
  if magLt 512 0 m e then 0 else
  let u : Nat := if -128 ≤ e then m <<< (e + 128).toNat else m >>> (-(e + 128)).toNat
  match exp2Val true (u * 2 ^ 128 / ln2) (-128) with
  | .fin _ mm ee => if -128 ≤ ee then mm <<< (ee + 128).toNat else mm >>> (-(ee + 128)).toNat
  | _ => 0

/-- The exact function's value, to about 2^-120, of a finite argument in range. -/
def approxVal (op : Nat) (n : Bool) (m : Nat) (e : Int) : FVal :=
  match op with
  | 0 => exp2Val n m e
  | 1 => FVal.ofInt (log2Units m e) (-128)
  | 2 =>
    let q := expNeg (2 * m) e
    .fin n ((2 ^ 128 - q) * 2 ^ 128 / (2 ^ 128 + q)) (-128)
  | _ =>
    let q := expNeg m e
    .fin false (if n then q * 2 ^ 128 / (2 ^ 128 + q) else 2 ^ 256 / (2 ^ 128 + q)) (-128)

/-- Does the candidate lie within `ulps` units in the last place of the rounded result, or within 2^-abs? -/
def withinBound (cand : Word) (v : FVal) (ulps : Nat) (abs : Option Nat) : Bool :=
  match f32dec cand with
  | .fin cn cm ce =>
    match v with
    | .fin _ m e =>
      let d := (FVal.sub (.fin cn cm ce) v).abs
      let l := lsbExp 24 (-126) m e
      FVal.le d (.fin false ulps l) || (match abs with | some k => FVal.le d (.fin false 1 (-(k : Int))) | none => false)
    | _ => false
  | _ => false

/-- log2's absolute bound holds for x in [0.5, 2] (R139). -/
def approxAbs (op : Nat) (x : FVal) : Option Nat :=
  match op with
  | 0 => none
  | 1 => if FVal.le (.fin false 1 (-1)) x && FVal.le x (.fin false 2 0) then some 22 else none
  | _ => some 23

/-- fexp2, flog2, ftanh, fsigm (R139): special inputs as the table says; elsewhere the module's own function,
a free value held inside the bound (log 6). -/
def f32approx (op : Nat) (x : Word) : Word :=
  let free (n : Bool) (m : Nat) (e : Int) : Word :=
    let v := approxVal op n m e
    let c := Config.approx op x
    if withinBound c v (if op ≤ 1 then 1 else 2) (approxAbs op (f32dec x)) then c else f32enc v
  match f32dec x with
  | .nan => canonNan
  | .inf n =>
    match op with
    | 0 => if n then 0 else 0x7F800000
    | 1 => if n then canonNan else 0x7F800000
    | 2 => if n then 0xBF800000 else 0x3F800000
    | _ => if n then 0 else 0x3F800000
  | .fin n m e =>
    match op with
    | 0 =>
      if !n && FVal.le (.fin false 128 0) (.fin n m e) then 0x7F800000
      else if n && magLt 150 0 m e then 0
      else free n m e
    | 1 => if m = 0 then 0xFF800000 else if n then canonNan else free n m e
    | _ => free n m e

/-! ## Cosine table of the schedules (R205) -/

/-- π × 2^128, rounded down. -/
def pi128 : Nat := 0x3243F6A8885A308D313198A2E03707344

/-- The alternating cosine series for an angle t in units of 2^-128: Σ (−1)^k t^2k / (2k)!. -/
def cosSeries : Nat → Nat → Nat → Int → Int
  | 0, _, _, _ => 0
  | n + 1, tt, k, term => term + cosSeries n tt (k + 1) (-(term * tt / ((2 ^ 128 * ((2 * k + 1) * (2 * k + 2)) : Nat) : Int)))

/-- T[i] = rne((1 + cos(π i / 1024)) / 2), with T[0] = 1.0 and T[1024] = 0.0. -/
def cosTable (i : Nat) : Word :=
  if i = 0 then 0x3F800000 else if 1024 ≤ i then 0 else
  let t := pi128 * i / 1024
  let c := cosSeries 40 (t * t / 2 ^ 128) 0 (2 ^ 128 : Nat)
  f32enc (FVal.ofInt (2 ^ 128 + c) (-129))

/-! ## Integers of binary32 -/

/-- rne of an unsigned integer to binary32. -/
def f32ofNat (n : Nat) : Word := f32enc (.fin false n 0)

def f32ofInt (i : Int) : Word := f32enc (FVal.ofInt i)

end Sys2Proof.Machine
end

