-- ==== Sys2Proof/Machine/Gauges.lean ====
section
/-! DEFINITION. What a gauge measures (R161-R163), how contributions merge (R164), and the spillway bits of a
block (R176, R177). -/

namespace Sys2Proof.Machine

/-- The format of each width class of a ladder (R161): W4, W8, W16, compensated. -/
def ladderFmt (ladder cls : Nat) : Option Nat :=
  match cls with
  | 0 => match ladder with | 0 => some 0 | 1 => some 1 | 3 => some 3 | 4 => some 4 | _ => none
  | 1 => if ladder = 0 then some 5 else some 6
  | 2 => if ladder = 0 then some 8 else some 7
  | _ => if ladder = 0 then none else some 9

def OvfVan.zero : OvfVan := { ovf := 0, van := 0 }
def OvfVan.plus (a b : OvfVan) : OvfVan := { ovf := a.ovf + b.ovf, van := a.van + b.van }

def GTot.zero : GTot :=
  { count := 0, nz := 0, nan := 0, sat := 0, flush := 0, accf := 0, amax := 0, cmds := 0, w4 := .zero, w8 := .zero,
    w16 := .zero, comp := .zero, hist := List.replicate 64 0, histSat := false }

/-- Does t_c overflow class format `fmt` (R162)? -/
def overflows (fmt : Nat) (scaled : Bool) (t : FVal) : Bool :=
  t.isFinite && (convertElem fmt .rne false scaled t).sat

/-- Counts of one element in one class (R162). -/
def classify (ladder cls : Nat) (scaled : Bool) (t : FVal) : OvfVan :=
  match ladderFmt ladder cls with
  | none => .zero
  | some fmt =>
    let tc := if isInt fmt && scaled then t.scale (fixedShift fmt) else t
    { ovf := (overflows fmt scaled t).toNat, van := (vanishes fmt tc).toNat }

/-- The histogram bin of |v|, for nonzero v that is no NaN (R163). -/
def histBin : FVal → Nat
  | .inf _ => 63
  | v => min 63 (v.log2 + 48).toNat

/-- Add one to bin b, saturating at 2^32 − 1 (R164). -/
def bumpBin (h : List Nat) (b : Nat) : List Nat := h.modify b fun c => min (c + 1) (2 ^ 32 - 1)

/-- One element into a total: v before and t after the block scale, what its conversion counted, and whether it
was accumulate-flushed (R160, R163). A bin that reaches 2^32 − 1 counts as saturated (log 94). -/
def feedGauge (ladder : Nat) (scaled : Bool) (g : GTot) (v t : FVal) (sat flush accf : Bool) : GTot :=
  let nz := !v.isNan && !v.isZero
  { count := g.count + 1, nz := g.nz + nz.toNat, nan := g.nan + v.isNan.toNat, sat := g.sat + sat.toNat,
    flush := g.flush + flush.toNat, accf := g.accf + accf.toNat,
    amax := if v.isFinite && decide (g.amax < f32enc v.abs) then f32enc v.abs else g.amax,
    cmds := g.cmds, w4 := g.w4.plus (classify ladder 0 scaled t), w8 := g.w8.plus (classify ladder 1 scaled t),
    w16 := g.w16.plus (classify ladder 2 scaled t), comp := g.comp.plus (classify ladder 3 scaled t),
    hist := if nz then bumpBin g.hist (histBin v) else g.hist,
    histSat := g.histSat || (nz && decide (2 ^ 32 - 1 ≤ g.hist.getD (histBin v) 0 + 1)) }

/-- Sum of two totals: integer sums, saturating histogram sums and maxima only (R164). -/
def GTot.plus (a b : GTot) : GTot :=
  let h := (List.zipWith (· + ·) a.hist b.hist)
  { count := a.count + b.count, nz := a.nz + b.nz, nan := a.nan + b.nan, sat := a.sat + b.sat,
    flush := a.flush + b.flush, accf := a.accf + b.accf, amax := if a.amax < b.amax then b.amax else a.amax,
    cmds := a.cmds + b.cmds, w4 := a.w4.plus b.w4, w8 := a.w8.plus b.w8, w16 := a.w16.plus b.w16,
    comp := a.comp.plus b.comp, hist := h.map (fun c => min c (2 ^ 32 - 1)),
    histSat := a.histSat || b.histSat || h.any (fun c => decide (2 ^ 32 - 1 ≤ c)) }

def gaugeOf (P : Polder) (id : Nat) : Option Gauge := tabGet none P.gauges id

/-- The managed table at a scale pointer: its gauge (R177). -/
def managedAt (P : Polder) (a : Nat) : Option Gauge :=
  match P.gauges.find? fun x => match x.2 with | some g => g.scaleAddr == a && a != 0 | none => false with
  | some (_, g) => g
  | none => none

/-- The polder's gauges as a command sees them: those configured when it started (R169, R296). -/
def seenBy (P : Polder) (c : Cmd) : Polder := { P with gauges := P.gauges.filter fun x => c.known.contains x.1 }

/-- Merge a finished command's contributions into the step's totals (R164): one more command merged in each gauge
it fed an element (log 97); a gauge no longer configured takes nothing. -/
def mergeGauges (P : Polder) (contrib : Tab GTot) : Polder :=
  contrib.foldl (fun P c => { P with gauges := tabMod none P.gauges c.1 (Option.map fun (g : Gauge) =>
      { g with tot := { g.tot.plus c.2 with cmds := g.tot.cmds + c.2.cmds + 1 } }) }) P

/-! ## Spillway bits (R176) -/

def bitF : Byte := 0x80
def bitH : Byte := 0x40
def bitW : Byte := 0x20

/-- Does a state entry lie in a block or word that its two bytes cannot be stored to (R220, R226)? -/
def spillBlocked (s : State) (spill : Tab Byte) : Bool := spill.any fun c => blocked s c.1 2 c.1 || blocked s c.1 2 (c.1 + 1)

/-- Is |t| at least a quarter of the largest finite value of its format (R176, bit H)? -/
def nearTop (fmt : Nat) (t : FVal) : Bool := t.isFinite && FVal.le ((maxFinite fmt).scale (-2)) t.abs

end Sys2Proof.Machine
end

