-- ==== Sys2Proof/Machine/Operands.lean ====
section
/-! DEFINITION. Operand forms: the fields of a submission entry with the checks of R302, and the descriptors that
several commands share: device addresses and tensor descriptors (R101, R103). -/

namespace Sys2Proof.Machine

/-! ## The submission entry (R301) -/

def flagFence (e : Entry) : Bool := e.flags.getLsbD 0
def flagSignal (e : Entry) : Bool := e.flags.getLsbD 1
def flagSealed (e : Entry) : Bool := e.flags.getLsbD 2
def flagShare (e : Entry) : Bool := e.flags.getLsbD 3

/-- The 24 inline bytes from 0x28. -/
def inlBytes (e : Entry) : List Byte := leBytes 24 e.inl.toNat

/-- An event ID field: 0x000-0xFFF, or 0xFFFF for none. -/
def eventIdOk (v : BitVec 16) : Bool := decide (v.toNat < 4096) || v == 0xFFFF

/-- Opcode and flags agree with the complement field (R302, order 1). -/
def entryCompOk (e : Entry) : Bool :=
  e.comp.toNat % 256 == (~~~e.opcode).toNat && e.comp.toNat / 256 == (~~~e.flags).toNat

/-- The event ID at 0x28 and the value at 0x2C of EVENT_SIGNAL and EVENT_WAIT (R308). -/
def inlEvent (e : Entry) : Nat := fld (inlBytes e) 0 2
def inlValue (e : Entry) : Word := BitVec.ofNat 32 (fld (inlBytes e) 4 4)

/-- Inline bytes that the command of an opcode does not define are reserved (R301, R308, R427). -/
def inlineOk (e : Entry) : Bool :=
  match e.opcode.toNat with
  | 0x0F => zeroAt (inlBytes e) 5 19
  | 0x10 => zeroAt (inlBytes e) 2 2 && zeroAt (inlBytes e) 8 16
  | 0x11 => zeroAt (inlBytes e) 2 2 && zeroAt (inlBytes e) 12 12
  | _ => e.inl == 0

/-- NOP, EVENT_SIGNAL and EVENT_WAIT ignore the descriptor address (R301). -/
def descIgnored (e : Entry) : Bool := e.opcode == 0x10 || e.opcode == 0x11 || e.opcode == 0x13

/-- Opcode, flags, event IDs, counter set and reserved fields (R302, order 3; R414). -/
def entryFieldsOk (e : Entry) : Bool :=
  decide (1 ≤ e.opcode.toNat) && decide (e.opcode.toNat ≤ 0x13) && decide (e.flags.toNat < 16) &&
  e.rsvd == 0 && inlineOk e && (descIgnored e || decide (e.desc.toNat < 2 ^ 48)) &&
  eventIdOk e.sigEv && eventIdOk e.waitEv && (!flagSignal e || e.sigEv != 0xFFFF) &&
  (!flagSealed e || e.opcode == 0x03) && (!flagShare e || e.opcode == 0x0A) &&
  (decide (e.ctrSet.toNat < 64) || e.ctrSet == 0xFFFF)

/-- The checks of R302 on the entry that should carry sequence n. -/
def entryStatus (n : Word) (e : Entry) : Option Status :=
  firstFail [(entryCompOk e, .complementMismatch), (e.seq == n, .descInvalid), (entryFieldsOk e, .descInvalid)]

/-- An entry that failed R302 as it goes on: it honours no FENCE, no wait event and signals nothing. -/
def mutedEntry (n : Word) (e : Entry) : Entry :=
  { e with flags := 0, seq := n, sigEv := 0xFFFF, waitEv := 0xFFFF,
           ctrSet := if decide (e.ctrSet.toNat < 64) then e.ctrSet else 0xFFFF }

/-! ## Descriptors read at command start (R100) -/

/-- The first checks of every descriptor of n bytes: 64-byte aligned, in the polder's memory, and read without an
uncorrectable error (R220, R226). -/
def descChecks (s : State) (p : Fin 4) (a n : Nat) : List (Bool × Status) :=
  [(a % 64 == 0, .descInvalid), (accessOk s p false a n, .accessDenied), (!meetsBad s a n, .eccUncorrected)]

/-- A device address field: bits [47:0], bits [63:48] reserved. -/
def addrOf (bs : List Byte) (o : Nat) : Nat := fld bs o 6
def addrHiOk (bs : List Byte) (o : Nat) : Bool := zeroAt bs (o + 6) 2

/-- Bytes of the descriptor of an opcode; none for a command without one (R99, R152, R191, R241, R243, R256, R277, R356). -/
def descLen (op : Byte) : Nat :=
  match op.toNat with
  | 0x01 | 0x02 | 0x0A => 256
  | 0x03 | 0x04 | 0x06 | 0x07 | 0x08 | 0x09 => 128
  | 0x05 | 0x0B | 0x0C | 0x0D | 0x0E | 0x12 => 64
  | _ => 0

/-! ## Fields of an instruction word of the vector engine (R135) -/

def bitsAt (w : DWord) (lo n : Nat) : Nat := w.toNat / 2 ^ lo % 2 ^ n
def fOp (w : DWord) : Nat := bitsAt w 56 8
def mSpace (w : DWord) : Nat := bitsAt w 42 2

/-- May a program store to a space? -/
def storesTo (prog : List DWord) (space : Nat) : Bool :=
  prog.any fun w => (fOp w == 0x81 || fOp w == 0x83 || fOp w == 0x85) && mSpace w == space

/-! ## The fields and blocks of an UPDATE (R191, R192, R194) -/

namespace UpdRun

def weight (r : UpdRun) : Nat := addrOf r.desc 0x00
def grad (r : UpdRun) : Nat := addrOf r.desc 0x08
def mom1 (r : UpdRun) : Nat := addrOf r.desc 0x10
def mom2 (r : UpdRun) : Nat := addrOf r.desc 0x18
def tags (r : UpdRun) : Nat := addrOf r.desc 0x20
def cell (r : UpdRun) : Nat := addrOf r.desc 0x28
def delta (r : UpdRun) : Nat := addrOf r.desc 0x30
def deltaScale (r : UpdRun) : Nat := addrOf r.desc 0x38
def normCell (r : UpdRun) : Nat := addrOf r.desc 0x40
def report (r : UpdRun) : Nat := addrOf r.desc 0x48
def elems (r : UpdRun) : Nat := fld r.desc 0x50 4
def bs (r : UpdRun) : Nat := fld r.desc 0x54 2
def gradFmt (r : UpdRun) : Nat := fld r.desc 0x57 1
def gmul (r : UpdRun) : Word := BitVec.ofNat 32 (fld r.desc 0x58 4)
def tid (r : UpdRun) : Nat := fld r.desc 0x60 2
def copyTid (r : UpdRun) : Nat := fld r.desc 0x62 2

/-- B of R192. -/
def blocks (r : UpdRun) : Nat := (r.elems + r.bs - 1) / r.bs
/-- Elements of block b. -/
def blockLen (r : UpdRun) (b : Nat) : Nat := min r.bs (r.elems - b * r.bs)

/-- t of R198 in step n. -/
def t (r : UpdRun) (n : Word) : Word := n - r.group.n0 + 1

/-- Blocks of the cluster in position k, ascending (R194). -/
def laneBlocks (r : UpdRun) (k : Nat) : List Nat :=
  let lo := k * r.blocks / r.count
  let hi := (k + 1) * r.blocks / r.count
  (List.range (hi - lo)).map (lo + ·)

/-- A block is settled when it was skipped by its tag or has been committed. -/
def settled (r : UpdRun) (b : Nat) : Bool := (r.skipped.any fun x => x.1 == b) || r.committed.any fun x => x.1 == b

/-- The next block of position k. -/
def nextBlock (r : UpdRun) (k : Nat) : Option Nat := (r.laneBlocks k).find? fun b => !r.settled b

/-- Every block is settled, or none is to run (R195, R201). -/
def complete (r : UpdRun) : Bool := r.skipAll || (List.range r.blocks).all r.settled

/-- The arrays that the UPDATE itself reads and writes. -/
def ownRanges (r : UpdRun) : List (Nat × Nat) :=
  let g := r.group
  let ms := fmtAlign g.master
  let ss := fmtAlign g.moment
  [(r.weight, r.elems * ms), (r.grad, r.elems * fmtAlign r.gradFmt), (r.tags, 16 * r.blocks)] ++
  (if g.rule = 0 then [] else [(r.mom1, r.elems * ss)]) ++ (if g.rule < 2 then [] else [(r.mom2, r.elems * ss)]) ++
  (if g.policy = 1 then [(r.cell, 32)] else []) ++ (if r.normCell = 0 then [] else [(r.normCell, 16)]) ++
  (if r.delta = 0 then [] else [(r.delta, 2 * r.elems), (r.deltaScale, 2 * r.blocks)])

/-- A of R203: the largest finite amax. -/
def amax (r : UpdRun) : Word :=
  if r.skipAll then 0 else
  (r.committed ++ r.skipped).foldl (fun a x =>
    let v := x.2 &&& 0x7FFFFFFF
    if (f32dec v).isFinite && decide (a < v) then v else a) 0

end UpdRun

/-! ## Tensor descriptors (R101) -/

def readTensor (bs : List Byte) (o : Nat) : Tensor :=
  let f := fld bs (o + 0x1C) 1
  { addr := addrOf bs o, addrHi := BitVec.ofNat 16 (fld bs (o + 6) 2), scale := addrOf bs (o + 8),
    scaleHi := BitVec.ofNat 16 (fld bs (o + 14) 2), lines := fld bs (o + 0x10) 4, length := fld bs (o + 0x14) 4,
    stride := fld bs (o + 0x18) 4, fmt := f % 16, smode := f / 16 % 8, tr := decide (128 ≤ f),
    rsvd := fld bs (o + 0x1D) 3 }

/-- Bytes of a line of n elements of a format; 4-bit elements pack two to a byte (R34). -/
def lineBytes (fmt n : Nat) : Nat := (n * fmtBits fmt + 7) / 8

/-! ## Elements in memory (R34) -/

/-- The element code i of a line at address a, w bits wide; a 4-bit element with even index is the low half. -/
def elemBits (s : State) (w a i : Nat) : Nat :=
  if w = 4 then (memByte s (a + i / 2)).toNat / (if i % 2 = 0 then 1 else 16) % 16
  else memNat s (a + i * (w / 8)) (w / 8)

def packNibbles : List Nat → List Byte
  | [] => []
  | [a] => [BitVec.ofNat 8 (a % 16)]
  | a :: b :: rest => BitVec.ofNat 8 (a % 16 + 16 * (b % 16)) :: packNibbles rest

/-- Element codes as line bytes. -/
def packLine (w : Nat) (codes : List Nat) : List Byte :=
  if w = 4 then packNibbles codes else codes.flatMap (leBytes (w / 8))

end Sys2Proof.Machine
end

