-- ==== Sys2Proof/Machine/Queue.lean ====
section
/-! DEFINITION. Command start (R302-R305, R172, R311, R338, R400), the end of a command's work, the posting of its
completion (R303, R305, R307, R416) and what a discarded or failed command leaves (R129, R338, R339). -/

namespace Sys2Proof.Machine

/-! ## Requests (R394) -/

/-- The chain of a polder's meter. -/
def chainOf (p : Fin 4) : Fin 5 := ⟨p.val, by omega⟩

/-- A command of request rid reaches command start. -/
def requestStart (s : State) (p : Fin 4) (rid : Word) : State :=
  let t := acctTime s p
  let delay := (chain s (chainOf p)).delay
  modPolder s p fun P => { P with reqs := tabMod none P.reqs rid.toNat fun r =>
    match r with
    | some r => some { r with cmds := r.cmds + 1, live := r.live + 1, cut := false }
    | none => some { start := t, last := t, cmds := 1, live := 1, cut := false, energy := 0, shared := 0, discarded := 0,
                     reported := 0, reportedShared := 0, reportedDisc := 0, delay := delay } }

/-- A command of request rid has posted its completion. -/
def requestPosted (s : State) (p : Fin 4) (rid : Word) : State :=
  let t := acctTime s p
  modPolder s p fun P => { P with reqs := tabMod none P.reqs rid.toNat (Option.map fun (r : Req) =>
    { r with live := r.live - 1, last := t }) }

/-- The command as attribution knows it. -/
def whoIs (p : Fin 4) (c : Cmd) : Who := { p := p, q := c.q, n := c.e.seq, rid := c.e.reqId, set := c.e.ctrSet }

/-- The command leaves; the slots of the sample in progress are still to be attributed to it. -/
def noteLeft (s : State) (p : Fin 4) (c : Cmd) (discarded : Bool) : State :=
  modPolder s p fun P => { P with recent := P.recent ++ [(whoIs p c, discarded)] }

/-- A command of request rid is discarded: its energy counts as discarded energy (R392), and the request stays open for its
re-issue (R394). -/
def requestDiscarded (s : State) (p : Fin 4) (c : Cmd) : State :=
  modPolder (noteLeft s p c true) p fun P => { P with reqs := tabMod none P.reqs c.e.reqId.toNat (Option.map fun (r : Req) =>
    { r with live := r.live - 1, cut := true, discarded := r.discarded + c.energy + c.shared }) }

/-! ## Command start -/

/-- The sequence the next entry of a queue carries (R300). -/
def nextSeq (Q : Queue) : Word := Q.taken + 1

/-- Commands of a queue between command start and the posting of their completion, oldest first. -/
def inQueue (P : Polder) (q : Fin 16) : List Cmd := P.inflight.filter fun c => c.q = q

/-- STEP, STATE_SAVE and STATE_LOAD hold every later command start of the polder until they post (R172, R357). -/
def isFence (c : Cmd) : Bool := c.valid && (c.e.opcode == 0x0B || c.e.opcode == 0x0C || c.e.opcode == 0x0D)
def fenceHeld (P : Polder) : Bool := P.inflight.any isFence

/-- A free completion slot for every command taken and unreported, for this one and for a discard record (R303). -/
def cqRoom (P : Polder) (q : Fin 16) (Q : Queue) : Bool :=
  decide ((BitVec.ofNat 32 Q.posted - Q.head).toNat + (inQueue P q).length + 2 ≤ Q.depth + 1)

/-- A FENCE holds the rest of its queue until it is posted, an EVENT_WAIT until it has completed (R305, R308). -/
def queueHeld (P : Polder) (q : Fin 16) : Bool :=
  (inQueue P q).any fun c => c.valid && (flagFence c.e || (c.e.opcode == 0x11 && c.res.isNone))

/-- A polder chain with a ring and a full buffer holds command start (R400). -/
def meterHeld (s : State) (p : Fin 4) : Bool :=
  (chain s (chainOf p)).ring.isSome && decide (2048 ≤ (chain s (chainOf p)).buffer.length)

/-- May the Keeper take the next entry of queue q at all? -/
def mayTake (s : State) (p : Fin 4) (q : Fin 16) : Bool :=
  let P := polder s p
  let Q := queue s p q
  s.boot == .ready && P.st == .opened && P.discard.isNone && Q.st == .running && !Q.destroying &&
  Q.tail != Q.taken && cqRoom P q Q && !fenceHeld P && !queueHeld P q && !meterHeld s p

/-- A FENCE and an EVENT_SIGNAL wait for every earlier command of the queue; a wait event for its counter (R305,
R308). -/
def mayStart (s : State) (p : Fin 4) (q : Fin 16) (e : Entry) : Bool :=
  let P := polder s p
  (!(flagFence e || e.opcode == 0x10) || (inQueue P q).isEmpty) &&
  (e.waitEv == 0xFFFF || decide (e.waitVal ≤ tabGet 0 P.events e.waitEv.toNat))

/-- The queues that a dispatch core looks at before queue q, from the one after the last served on (R304). -/
def beforeQueue (P : Polder) (q : Fin 16) : List (Fin 16) :=
  ((List.finRange 16).map fun i => P.served + 1 + i).takeWhile (· ≠ q)

/-- Is the entry at the head of a queue known to wait (R305)? -/
def headWaits (s : State) (p : Fin 4) (q : Fin 16) : Bool :=
  match (queue s p q).waiting with
  | some e => !mayStart s p q e
  | none => false

/-- Round robin (R304): every queue before q in the turn has no entry to take, or one that waits. One step starts one
entry, so the order of steps is the order of command starts. -/
def inTurn (s : State) (p : Fin 4) (q : Fin 16) : Bool :=
  (beforeQueue (polder s p) q).all fun k => !mayTake s p k || headWaits s p k

/-- Is entry e, the valid entry of opcode op at the head of queue q, the next that a dispatch core takes up? -/
def headOk (s : State) (p : Fin 4) (q : Fin 16) (e : Entry) (op : Byte) : Bool :=
  mayTake s p q && inTurn s p q && (entryStatus (nextSeq (queue s p q)) e).isNone && e.opcode == op

/-- Does the row of opcode op take place now for entry e at the head of queue q? -/
def startOk (s : State) (p : Fin 4) (q : Fin 16) (e : Entry) (op : Byte) : Bool :=
  headOk s p q e op && mayStart s p q e

/-- Record flag [0]: the counters of the record are rounded (R418). -/
def rounded (s : State) : Bool := !debugActive s

/-- A flag at bit k of a register. -/
def bitsOf (b : Bool) (k : Nat) : Word := if b then 1#32 <<< k else 0

def qstateCode : QState → Nat
  | .absent => 0
  | .running => 1
  | .held => 2
  | .error => 3

/-- QSTATE (R290). -/
def qstateReg (Q : Queue) : Word := BitVec.ofNat 32 (qstateCode Q.st) ||| bitsOf Q.tailErr 2

/-- A record of types 1 to 3: a snapshot of the command's set, and the bytes after it. It is written only once the slots up
to the edge are attributed (R416). -/
def commandRecord (s : State) (p : Fin 4) (typ : Nat) (q : Fin 16) (e : Entry) (rest : List Byte) : State :=
  let set := e.ctrSet.toNat
  traceRecord s p typ q.val (rounded s) e.opcode.toNat e.seq e.reqId set (snapBody s p set ++ rest) (some (snapNow s p set))

/-- A MARK whose descriptor address is zero and whose kind is begin or end (R427). -/
def markOk (e : Entry) : Bool := e.desc == 0 && decide (fld (inlBytes e) 4 1 ≤ 1)

/-- A command whose one mark record stands for its start and end records (R427). -/
def isMark (valid : Bool) (e : Entry) : Bool := valid && e.opcode == 0x0F && markOk e

/-- Does the address of a descriptor pass the checks that come before the read? -/
def descReadable (s : State) (p : Fin 4) (e : Entry) : Bool :=
  decide (e.desc.toNat % 64 = 0) && accessOk s p false e.desc.toNat (descLen e.opcode)

/-- The descriptor as the Keeper reads it at command start (R100); none where it is not read. -/
def descBytes (s : State) (p : Fin 4) (e : Entry) : List Byte :=
  if descReadable s p e then memBytes s e.desc.toNat (descLen e.opcode) else []

/-- The Keeper reads the descriptor of a command at command start (R100): traffic of the channels (R235, R238). -/
def readDesc (s : State) (p : Fin 4) (e : Entry) : State :=
  if descReadable s p e then touch s p e.desc.toNat (descLen e.opcode) else s

/-- Take the entry: the descriptor read, the start snapshot, the start record (a MARK writes its own), and the command in
flight. -/
def startCmd (s : State) (p : Fin 4) (q : Fin 16) (e : Entry) (valid : Bool := true) : State :=
  let desc := if valid then descBytes s p e else []
  let s := takeSnap (if valid then readDesc s p e else s) p 2
  let n := nextRecord (polder s p)
  let s := if isMark valid e then s else commandRecord s p 1 q e []
  let s := requestStart s p e.reqId
  let s := modQueue s p q fun Q => { Q with taken := Q.taken + 1, waiting := none }
  modPolder s p fun P => { P with served := q, inflight := P.inflight ++
    [{ q := q, e := e, valid := valid, body := .done, warn := 0, res := none, doneTime := 0, detail := 0, step := P.step,
       known := P.gauges.map (·.1), contrib := [], spill := [],
       startRec := n, desc := desc, claims := [], areas := [], energy := 0, shared := 0, expired := false, held := false }] }

/-- The command's completion is decided: its status, and the levee time (R303). -/
def setResult (s : State) (p : Fin 4) (q : Fin 16) (n : Word) (st : Status) : State :=
  let t := leveeTime s
  modCmd s p q n fun c => { c with res := some st, doneTime := t }

/-- The command's work has ended with a status. -/
def endCmd (s : State) (p : Fin 4) (q : Fin 16) (n : Word) (st : Status) : State :=
  let t := leveeTime s
  modCmd s p q n fun c => { c with res := some st, doneTime := t, body := .done }

/-- Work that holds cube-rows or VEs. -/
def holdsUnits : Body → Bool
  | .mm _ | .vk _ | .update _ => true
  | _ => false

def setBody (s : State) (p : Fin 4) (q : Fin 16) (n : Word) (b : Body) : State :=
  modCmd s p q n fun c => { c with body := b, held := c.held || holdsUnits b }

def setAreas (s : State) (p : Fin 4) (q : Fin 16) (n : Word) (as : List Area) : State :=
  modCmd s p q n fun c => { c with areas := as }

def addWarn (s : State) (p : Fin 4) (q : Fin 16) (n : Word) (w : BitVec 16) : State :=
  modCmd s p q n fun c => { c with warn := c.warn ||| w }

/-! ## Failure and discard -/

/-- A free word for position k of a draw (log 6). -/
def freeWord (draw k : Nat) : Word := BitVec.ofNat 32 (leVal ((List.range 4).map fun i => Config.freeByte draw (4 * k + i)))

def spoilHost (s : State) (a n : Nat) : State :=
  nextDraw (hostWrite s a ((List.range n).map fun i => Config.freeByte s.draws (a + i)))

def spoilArea (s : State) (r : Area) : State :=
  (List.range r.lines).foldl (fun s i =>
    if r.host then spoilHost s (r.addr + i * r.stride) r.bytes else spoil s (r.addr + i * r.stride) r.bytes) s

def spoilAreas (s : State) (rs : List Area) : State := rs.foldl spoilArea s

/-- Does VE state belong to a command? -/
def ownedBy (V : Ve) (p : Fin 4) (q : Fin 16) (n : Word) : Bool :=
  match V.owner with
  | some (p', q', n', _, _) => p' == p && q' == q && n' == n
  | none => false

/-- The pack slots of a cluster as held units. -/
def packsHeld (C : Cluster) : List Held :=
  C.slots.map fun x => { unit := some x.1, occ := x.2.1, p := x.2.2.1, q := x.2.2.2.1, n := x.2.2.2.2 }

/-- The VE of a cluster as a held unit. -/
def veHeld (V : Ve) : List Held :=
  match V.owner with
  | some (p, q, n, _, _) => [{ unit := none, occ := 8, p := p, q := q, n := n }]
  | none => []

def isOf (p : Fin 4) (q : Fin 16) (n : Word) (h : Held) : Bool := h.p == p && h.q == q && h.n == n

/-- A command gives up its pack slots of a cluster. -/
def leaveSlots (C : Cluster) (p : Fin 4) (q : Fin 16) (n : Word) : Cluster :=
  { C with slots := C.slots.filter fun x => !(x.2.2.1 == p && x.2.2.2.1 == q && x.2.2.2.2 == n),
           gone := C.gone ++ (packsHeld C).filter (isOf p q n) }

/-- The VE of a cluster is idle again. -/
def leaveVe (C : Cluster) : Cluster := { C with ve := { C.ve with mode := .idle, owner := none }, gone := C.gone ++ veHeld C.ve }

/-- Free every slot and VE that a command holds (R95, R129, R155). -/
def releaseUnits (s : State) (p : Fin 4) (q : Fin 16) (n : Word) : State :=
  { s with clusters := s.clusters.map fun C =>
      let C := leaveSlots C p q n
      if ownedBy C.ve p q n then leaveVe C else C }

/-- The clusters of a range. -/
def rangeClusters (s : State) (p : Fin 4) (base count : Nat) : List (Fin 256) := ((clustersOf s p).drop base).take count

/-- The parts of [lo, hi) outside the ranges `keep`, given by address and length. -/
def gaps (lo hi : Nat) (keep : List (Nat × Nat)) : List (Nat × Nat) :=
  keep.foldl (fun xs k => xs.flatMap fun x =>
    [(x.1, min x.2 k.1), (max x.1 (k.1 + k.2), x.2)].filter fun y => decide (y.1 < y.2)) [(lo, hi)]

/-- Leave [a, a + n) of a cluster buffer undefined. -/
def staleBuffer (s : State) (c : Fin 256) (a n : Nat) : State :=
  nextDraw (modCluster s c fun C =>
    { C with buffer := tabErase C.buffer a (a + n), staged := addStale C.staged a (a + n) s.draws })

/-- Leave a cluster buffer undefined but for the ranges `keep`. -/
def staleAround (s : State) (c : Fin 256) (keep : List (Nat × Nat)) : State :=
  (gaps 0 0x180000 keep).foldl (fun s x => staleBuffer s c x.1 (x.2 - x.1)) s

/-- The S-slices of a polder become undefined but for the ranges `keep`. -/
def spoilSlices (s : State) (p : Fin 4) (keep : List (Nat × Nat)) : State :=
  (diesOf s p).foldl (fun s d =>
    (gaps (sliceBase d) (sliceBase d + 2 ^ 32) keep).foldl (fun s x => spoil s x.1 (x.2 - x.1)) s) s

/-- What a copy program could have written for the blocks of an UPDATE that are not committed (R455): any byte of the
S-slices but the UPDATE's own arrays and what the copy programs of committed blocks stored, and of the buffers of the
clusters that still have a block to run any byte but what was stored for committed blocks; and what the blocks in
progress have stored. -/
def spoilCopies (s : State) (p : Fin 4) (q : Fin 16) (n : Word) (r : UpdRun) : State :=
  if r.complete then s else
  let cs := rangeClusters s p r.base r.count
  let work := (cs.filter fun k => ownedBy (ve s k) p q n).map fun k => (k, (ve s k).areas, (ve s k).bufAreas)
  let s := if storesTo r.prog 2 then
      (work.flatMap (·.2.1)).foldl (fun s x => spoil s x.1 x.2) (spoilSlices s p (r.ownRanges ++ r.copied))
    else s
  if storesTo r.prog 1 then
    let s := ((List.range cs.length).zip cs).foldl (fun s x =>
      if (r.nextBlock x.1).isSome then
        staleAround s x.2 ((r.copiedBuf.filter fun y => y.1 == x.1).map (·.2))
      else s) s
    work.foldl (fun s x => x.2.2.foldl (fun s y => staleBuffer s x.1 y.1 y.2) s) s
  else s

/-- What the program of a command could have written (R156, R339, R455; log 17): an instruction of a VK program that
stores to the S-tier can name any byte of the polder's S-slices, one that stores to the cluster buffer any byte of it. -/
def spoilPrograms (s : State) (p : Fin 4) (c : Cmd) : State :=
  match c.body with
  | .vk r =>
    let s := if storesTo r.prog 1 then (rangeClusters s p r.base r.count).foldl (staleAround · · []) s else s
    if storesTo r.prog 2 then spoilSlices s p [] else s
  | .update r => spoilCopies s p c.q c.e.seq r
  | _ => s

/-- A command fails on its own, class C1 (R129): its units are released, its memory is undefined, its stream claims
are removed (R208), and its completion will carry the status. -/
def failCmd (s : State) (p : Fin 4) (q : Fin 16) (n : Word) (st : Status) : State :=
  match cmdAt s p q n with
  | none => s
  | some c =>
    let s := releaseUnits (spoilPrograms s p c) p q n
    let s := spoilAreas s c.areas
    let s := modPolder s p fun P => { P with claims := P.claims.filter fun t => !c.claims.contains t }
    modCmd (endCmd s p q n st) p q n fun c => { c with claims := [] }

/-- Abandon every command in flight on a polder (R338, R339). -/
def abandonAll (s : State) (p : Fin 4) : State :=
  let cs := (polder s p).inflight
  let s := cs.foldl (fun s c =>
    requestDiscarded (spoilAreas (releaseUnits (spoilPrograms s p c) p c.q c.e.seq) c.areas) p c) s
  modPolder s p fun P =>
    { P with inflight := [], claims := P.claims.filter (fun t => !(cs.any fun c => c.claims.contains t)), remoteOut := [] }

/-! ## Completion entries (R303) -/

/-- Phase bit of completion entry j of a ring of D + 1 slots. -/
def phase (depth j : Nat) : Bool := j / (depth + 1) % 2 == 0

def cqEntry (seq : Word) (st : Status) (flags : Nat) (warn : BitVec 16) (rid coarse detail : Word) (t : DWord) :
    List Byte :=
  leBytes 4 seq.toNat ++ leBytes 1 (statusCode st) ++ leBytes 1 flags ++ leBytes 2 warn.toNat ++ leBytes 4 rid.toNat ++
  leBytes 4 coarse.toNat ++ leBytes 4 detail.toNat ++ zeros 4 ++ leBytes 8 t.toNat

/-- Write an entry into the next slot of the completion ring. -/
def putCq (s : State) (p : Fin 4) (q : Fin 16) (f : Nat → List Byte) : State :=
  let Q := queue s p q
  let s := hostWrite s (Q.cqBase + 32 * (Q.posted % (Q.depth + 1))) (f (phase Q.depth Q.posted).toNat)
  modQueue s p q fun Q => { Q with posted := Q.posted + 1 }

/-- Send a queue's message on its vector, if it has one and its cause is not masked (R314). -/
def sendQueueMsix (s : State) (p : Fin 4) (q : Fin 16) : State :=
  let Q := queue s p q
  if (func s (vf p)).mask.getLsbD (16 + q.val) ∨ 64 ≤ Q.vector then s else
  modQueue (sendMsix s (vf p) Q.vector) p q fun Q => { Q with unsignalled := 0 }

/-- A completion was posted: the queue's cause bit, and its message when the coalescing count is reached. -/
def notePosted (s : State) (p : Fin 4) (q : Fin 16) : State :=
  let s := raiseCause s (vf p) (16 + q.val)
  let s := modQueue s p q fun Q => { Q with unsignalled := Q.unsignalled + 1 }
  if max 1 (queue s p q).coCount ≤ (queue s p q).unsignalled then sendQueueMsix s p q else s

/-- The coarse energy field: energy attributed to the request in mJ (R395). -/
def coarseEnergy (s : State) (p : Fin 4) (rid : Word) : Word :=
  match tabGet none (polder s p).reqs rid.toNat with
  | none => 0
  | some r => BitVec.ofNat 32 (min ((r.energy + r.shared) / 1000) (2 ^ 32 - 1))

/-- OK_WARN exactly when the warning word is nonzero (R16). -/
def finalStatus (st : Status) (warn : BitVec 16) : Status :=
  if st = .ok ∨ st = .okWarn then (if warn = 0 then .ok else .okWarn) else st

def succeeded (st : Status) : Bool := st == .ok || st == .okWarn

/-- The end snapshot and the end record; a MARK has no increments, one record and one snapshot (R416, R425, R427). -/
def endRecord (s : State) (p : Fin 4) (c : Cmd) (st : Status) : State :=
  if isMark c.valid c.e then s else
  commandRecord (takeSnap s p 0) p 2 c.q c.e
    (leBytes 1 (statusCode st) ++ [0] ++ leBytes 2 c.warn.toNat ++ zeros 4 ++ leBytes 8 c.startRec.toNat)

/-- OR bits into a state entry and clear them in its complement: an entry that failed its complement keeps failing
(R175, R177). -/
def orSpill (s : State) (p : Fin 4) (set : BitVec 16) (a : Nat) (bits : Byte) : State :=
  (unitWrite s p set a [memByte s a ||| bits, memByte s (a + 1) &&& ~~~bits]).1

def mergeSpill (s : State) (p : Fin 4) (set : BitVec 16) (spill : Tab Byte) : State :=
  spill.foldl (fun s c => orSpill s p set c.1 c.2) s

/-- Merge what the command kept apart (R164, R177). -/
def mergeCmd (s : State) (p : Fin 4) (c : Cmd) : State :=
  mergeSpill (modPolder s p fun P => mergeGauges P c.contrib) p c.e.ctrSet c.spill

/-- Write the completion entry, advance QFENCE, and signal the event (R303, R307). -/
def reportCmd (s : State) (p : Fin 4) (c : Cmd) (st : Status) : State :=
  let coarse := coarseEnergy s p c.e.reqId
  let s := putCq s p c.q fun ph => cqEntry c.e.seq st ph c.warn c.e.reqId coarse c.detail c.doneTime
  let s := modQueue s p c.q fun Q => { Q with fence := c.e.seq }
  let s := notePosted s p c.q
  if flagSignal c.e then signal s p c.e.sigEv.toNat c.e.sigVal else s

/-- An EVENT_SIGNAL signals its event as it completes, after every earlier command of its queue (R308); one that a fault
discards before has signalled nothing (R338). -/
def signalOwn (s : State) (p : Fin 4) (c : Cmd) (st : Status) : State :=
  if c.valid && c.e.opcode == 0x10 && succeeded st then signal s p (inlEvent c.e) (inlValue c.e) else s

/-- Post the completion of a finished command: merges only with OK or OK_WARN; a queue in the error state posts
nothing (R315). -/
def postCompletion (s : State) (p : Fin 4) (c : Cmd) (res : Status) : State :=
  let st := finalStatus res c.warn
  let s := releaseUnits s p c.q c.e.seq
  let lost := (queue s p c.q).st == .error
  let s := if succeeded st && !lost then mergeCmd s p c else s
  let s := endRecord (signalOwn s p c st) p c st
  let s := if lost then s else reportCmd s p c st
  let s := noteLeft (requestPosted s p c.e.reqId) p c false
  modPolder s p fun P => { P with inflight := P.inflight.filter fun x => !(x.q = c.q && x.e.seq = c.e.seq) }

/-- A command whose work goes on: no result yet, not stopped by its watchdog, its polder not discarding. -/
def liveCmd (s : State) (p : Fin 4) (q : Fin 16) (n : Word) : Option Cmd :=
  if isRunningPolder (polder s p) then
    (cmdAt s p q n).filter fun c => c.res.isNone && !c.expired
  else none
where
  isRunningPolder (P : Polder) : Bool := P.st == .opened && P.discard.isNone

/-- The Keeper has found that the start of the entry at the head of a queue waits (R305), and passes on to the next
queue. -/
def noteWaiting (s : State) (p : Fin 4) (q : Fin 16) (e : Entry) : State :=
  modQueue s p q fun Q => { Q with waiting := some e }

/-- Start a command and, unless one of its checks fails, go on with it: the frame of every ring row. -/
def runEntry (s : State) (p : Fin 4) (q : Fin 16) (e : Entry) (op : Byte) (checks : State → Option Status)
    (act : State → State) : State :=
  if startOk s p q e op then
    match checks s with
    | some st => endCmd (startCmd s p q e) p q e.seq st
    | none => act (startCmd s p q e)
  else if headOk s p q e op then noteWaiting s p q e
  else s

end Sys2Proof.Machine
end

