-- ==== Sys2Proof/Machine/Spares.lean ====
section
/-! DEFINITION. What the remaps in force make of clusters and cubes (R3, R76), the fuse banks (R349), and the spare
pools with their events (R347, R350, R351). -/

namespace Sys2Proof.Machine

/-! ## Clusters and cubes (R3, R76) -/

/-- The physical cluster, 0-65 of its die, behind an active cluster (R3). -/
def physCluster (s : State) (c : Fin 256) : Nat := (replOf s 2 (c.val / 64) (c.val % 64)).getD (c.val % 64)

/-- The spare map of a cluster (R76): the physical cube, 0-65, at grid position x, which lies at cube-row x div 8 and
cube-column x mod 8. -/
def physCube (s : State) (c : Fin 256) (x : Nat) : Nat := (replOf s 1 (c.val / 64) (256 * physCluster s c + x)).getD x

/-- The two physical cubes of a cluster that no position uses: they are power-gated (R76). -/
def gatedCubes (s : State) (c : Fin 256) : List Nat :=
  (List.range 66).filter fun k => !((List.range 64).any fun x => physCube s c x == k)

/-- The ends of a die-to-die link (R348): C0–C1, C2–C3, C0–C2, C1–C3, then C0 to C3 with the I-die, 4. -/
def linkEnds (l : Nat) : Nat × Nat :=
  match l with
  | 0 => (0, 1)
  | 1 => (2, 3)
  | 2 => (0, 2)
  | 3 => (1, 3)
  | k => (k % 4, 4)

/-- The mesh edges of the path between two C-dies, row first (R22). -/
def route (a b : Nat) : List Nat :=
  (if a % 2 = b % 2 then [] else [a / 2]) ++ (if a / 2 = b / 2 then [] else [2 + b % 2])

/-- The polders whose traffic uses a link (R22, R336): those two of whose C-dies a path over the mesh edge joins, or the
one of the C-die whose direct link to the I-die it is. -/
def linkUsers (s : State) (l : Nat) : List (Fin 4) :=
  if l < 4 then ([0, 1, 2, 3] : List (Fin 4)).filter fun p =>
    (diesOf s p).any fun a => (diesOf s p).any fun b => (route a.val b.val).contains l
  else (polderOfDie s (fin4 l)).toList

/-- The C-die that a link's remaps are fused on: the lower-numbered of two (log 85). -/
def linkDie (l : Nat) : Nat := (linkEnds l).1

/-- The fuse bank of a remap in the die order of R353: C0-C3, the I-die, S0A, S0B … S3B; none for kinds that are
never fused (R349). -/
def fuseBank (v : DWord) : Option Nat :=
  match rmKind v with
  | 0x1 | 0x2 | 0x3 | 0x8 => some (rmDie v)
  | 0xB => some (linkDie (rmUnit v / 16))
  | 0x4 => some (5 + 2 * rmDie v + sDie (rmUnit v / 2 ^ 11))
  | 0x5 => some (5 + 2 * rmDie v + sDie (rmUnit v))
  | 0x9 | 0xA | 0xC | 0xD => some 4
  | _ => none

def fusesUsed (s : State) (b : Nat) : Nat := (s.fuses.remaps.filter fun r => r.1 = b).length

/-! ## Pools (R347, R351) -/

/-- A pool: kind, die (4 for the I-die) and instance. -/
structure Pool where
  kind : Nat
  die  : Nat
  inst : Nat
  deriving DecidableEq, Repr

/-- The pool that a remap draws on; that of an S-tier row is the physical bank behind its logical bank. -/
def poolOf (s : State) (v : DWord) : Pool :=
  let u := rmUnit v
  match rmKind v with
  | 0x1 => ⟨1, rmDie v, u / 256⟩
  | 0x2 => ⟨2, rmDie v, 0⟩
  | 0x3 => ⟨3, rmDie v, u / 256⟩
  | 0x4 => ⟨4, rmDie v, physBank s (rmDie v) (u / 2 ^ 11)⟩
  | 0x5 => ⟨5, rmDie v, u / 64⟩
  | 0xA => ⟨0xA, 4, u / 16⟩
  | 0xB => ⟨0xB, 4, u / 16⟩
  | 0xD => ⟨0xD, 4, u⟩
  | 0x6 | 0x7 | 0x8 => ⟨rmKind v, rmDie v, 0⟩
  | k => ⟨k, 4, 0⟩

def poolInitial (k : Nat) : Nat :=
  match k with
  | 0x4 => 128
  | 0x6 => 65536
  | 0x7 => 16
  | 0x8 => 4
  | 0xA | 0xC | 0xD => 1
  | _ => 2

/-- Pools of a kind on one die (4: the I-die). -/
def poolInstances (k d : Nat) : Nat :=
  match k with
  | 0x1 | 0x3 => if d < 4 then 66 else 0
  | 0x4 => if d < 4 then 2112 else 0
  | 0x5 => if d < 4 then 32 else 0
  | 0x2 | 0x6 | 0x7 | 0x8 => if d < 4 then 1 else 0
  | 0xA => if d = 4 then 6 else 0
  | 0xB | 0xD => if d = 4 then 8 else 0
  | _ => if d = 4 then 1 else 0

/-! ## What is left -/

def poolRemaining (s : State) (x : Pool) : Nat :=
  if x.kind = 6 then min (freeReservePages s (fin4 x.die)) (freePageEntries s x.die)
  else if x.kind = 0xC ∧ s.coresLost.contains 5 then 0
  else poolInitial x.kind - ((remapsInForce s).filter fun v => poolOf s v = x).length

def poolLow (s : State) (x : Pool) : Bool := decide (poolRemaining s x * 4 < poolInitial x.kind)

/-! ## Events (R350, R351) -/

/-- The instance field of EV_SPARE_LOW: physical cluster, port, bank group, link, or 0. -/
def lowInstance (x : Pool) : Nat := if x.kind = 4 then x.inst / 64 else x.inst

def raiseLow (s : State) (x : Pool) : State :=
  moduleEvent s 0x0302 (leBytes 1 x.kind ++ leBytes 1 x.die ++ leBytes 2 (lowInstance x) ++
    leBytes 4 (poolRemaining s x) ++ leBytes 4 (poolInitial x.kind))

/-- The polder an event about a remap concerns: the owner of the C-die or of the port. -/
def remapPolder (s : State) (v : DWord) : Option (Fin 4) :=
  if rmKind v = 0xA then (port s (fin6 (rmUnit v / 16))).owner
  else if rmKind v = 0xF then polderOfDie s (fin4 (rmUnit v / 8))
  else if 1 ≤ rmKind v ∧ rmKind v ≤ 8 then polderOfDie s (fin4 (rmDie v)) else none

/-- The polder that EV_SPARE_USED concerns: that of a C2 repair of one polder; in live use the unit's owner (R312,
log 29). -/
def spareConcerns (s : State) (v : DWord) (repair : Nat) : Option (Fin 4) :=
  if repair = 0 then remapPolder s v else
  match s.reports.find? fun r => r.id == repair with
  | some r => if r.cls = 2 ∧ r.polders.length = 1 then r.polders.head? else none
  | none => none

def spareUsedEvent (s : State) (v : DWord) (repair : Nat) : State :=
  let pay := leBytes 8 v.toNat ++ leBytes 4 repair
  match spareConcerns s v repair with
  | some p => polderEvent s p 0x0301 pay
  | none => moduleEvent s 0x0301 pay

/-- The pools that a remap can lower: its own, and for a retired channel the pages of its die too (R347). -/
def loweredBy (s : State) (v : DWord) : List Pool := poolOf s v :: if rmKind v = 7 then [⟨6, rmDie v, 0⟩] else []

/-- Raise EV_SPARE_LOW for those of `xs` that have crossed their mark since state `old` (R351). -/
def raiseCrossed (old s : State) (xs : List Pool) : State :=
  (xs.filter fun x => !poolLow old x && poolLow s x).foldl raiseLow s

/-- Make a soft remap: it is in force, a slot rewrite falls due, EV_SPARE_USED is raised, and EV_SPARE_LOW when a
pool crosses its mark (R325, R349-R351). -/
def makeRemap (s : State) (v : DWord) (repair : Nat) : State :=
  raiseCrossed s (spareUsedEvent { s with softRemaps := s.softRemaps ++ [heldComp v], slotDue := true } v repair) (loweredBy s v)

def makeRemaps (s : State) (vs : List DWord) (repair : Nat) : State := vs.foldl (fun s v => makeRemap s v repair) s

/-- The pools that can be low, once each: those whose remaps the module has made, the D-tier pages of each die, and the
spare core. -/
def usedPools (s : State) : List Pool :=
  (((remapsInForce s).map (poolOf s)) ++ (List.range 4).map (fun d => (⟨6, d, 0⟩ : Pool)) ++ [(⟨0xC, 4, 0⟩ : Pool)]).eraseDups

end Sys2Proof.Machine
end

