-- ==== Sys2Proof/Machine/Link.lean ====
section
/-! DEFINITION. Sending on a peer port: IVs (R249), flits with sequence, ack and credits (R267, R269, R270), messages
(R268), levee tokens (R276) and their fallback onto the data lanes (R274). -/

namespace Sys2Proof.Machine

def portUp (P : Port) : Bool := P.st == .up || P.st == .upFour

/-! ## IVs (R249) -/

def ivBytes (rank : BitVec 16) (chan : Nat) (ctr : DWord) : List Byte :=
  leBytes 2 rank.toNat ++ leBytes 1 chan ++ [0] ++ leBytes 8 ctr.toNat

/-- The next IV counter of a channel and class of polder p. -/
def ivCounter (s : State) (p : Fin 4) (chan cls : Nat) : DWord := tabGet 0 (polder s p).ivs (256 * chan + cls)
def bumpIv (s : State) (p : Fin 4) (chan cls : Nat) : State :=
  modPolder s p fun P => { P with ivs := tabMod 0 P.ivs (256 * chan + cls) (· + 1) }

/-! ## Flits (R267) -/

def flitHeader (typ cls : Nat) (seq ack : BitVec 12) (ccls credits : Nat) : Nat :=
  typ % 16 + 16 * (cls % 4) + 256 * seq.toNat + 2 ^ 20 * ack.toNat + 2 ^ 32 * (ccls % 4) + 2 ^ 34 * (credits % 4096)

/-- The class whose credits the next flit returns: the lowest of T1-T3 that owes some. -/
def owedClass (P : Port) : Fin 4 := if 0 < P.owed.get 1 then 1 else if 0 < P.owed.get 2 then 2 else 3

def flitBytes (typ cls : Nat) (P : Port) (body : List Byte) : List Byte :=
  let c := owedClass P
  let m := leBytes 8 (flitHeader typ cls P.txSeq (P.rxNext - 1) c.val (min 4095 (P.owed.get c))) ++ padTo 496 body
  m ++ leBytes 8 (crc64 m)

/-- Credits the flit just built has returned. -/
def paidOwed (P : Port) : Vector Nat 4 := vmod P.owed (owedClass P) fun n => n - min 4095 n

/-- An idle flit or a replay request: no sequence is consumed. -/
def sendBare (P : Port) (typ : Nat) : Port :=
  { P with txFlits := P.txFlits ++ [flitBytes typ 0 P []], owed := paidOwed P }

/-- The next `room` bytes of a body from messages back to back, and what is left of them: a message may go on in the next
body (R268). -/
def cutStream : Nat → List (List Byte) → List Byte × List (List Byte)
  | _, [] => ([], [])
  | room, m :: ms =>
    if m.length ≤ room then
      let r := cutStream (room - m.length) ms
      (m ++ r.1, r.2)
    else (m.take room, m.drop room :: ms)

/-- A management message of which a flit has carried a part: every one is 32 bytes long (log 10). -/
def begun (m : List Byte) : Bool := decide (m.length < 32)

/-- The body of the next flit of T3: what is left of a management message that a flit has begun, the tokens of the fallback
ahead of all else (R274), then the management messages. With it what then waits, and the place of the tokens in the body. -/
def takeBody3 (P : Port) : List Byte × Vector (List (List Byte)) 4 × (Nat × Nat) :=
  let b := ((P.wait.get 3).takeWhile begun).flatten
  let x := cutStream (496 - b.length) (P.wait.get 0)
  let y := if x.2.isEmpty then cutStream (496 - b.length - x.1.length) ((P.wait.get 3).dropWhile begun)
           else ([], (P.wait.get 3).dropWhile begun)
  (b ++ x.1 ++ y.1, (P.wait.set 0 x.2).set 3 y.2, (b.length, x.1.length))

/-- The body of the next flit of a class and the messages, or rests of messages, that then still wait. -/
def takeBody (P : Port) (cls : Fin 4) : List Byte × Vector (List (List Byte)) 4 :=
  if cls = 3 then ((takeBody3 P).1, (takeBody3 P).2.1)
  else
    let r := cutStream 496 (P.wait.get cls)
    (r.1, P.wait.set cls r.2)

/-- Send one data flit of a class, filled with zeros behind the last message that waits (log 10). -/
def sendData (P : Port) (cls : Fin 4) : Port :=
  let x := takeBody P cls
  let f := flitBytes 1 cls.val P x.1
  { P with txFlits := P.txFlits ++ [f], replay := P.replay ++ [f], txSeq := P.txSeq + 1, owed := paidOwed P,
           credits := vmod P.credits cls (· - 1), wait := x.2,
           tokenPart := tabSet (0, 0) P.tokenPart P.txSeq.toNat (if cls = 3 then (takeBody3 P).2.2 else (0, 0)),
           turn := if cls = 1 then P.turn + 1 else if cls = 2 then 0 else P.turn }

def hasData (P : Port) (cls : Fin 4) : Bool := !(P.wait.get cls).isEmpty || (cls == 3 && !(P.wait.get 0).isEmpty)
def sendable (P : Port) (cls : Fin 4) : Bool := hasData P cls && decide (0 < P.credits.get cls)

/-- The class that the next flit slot serves: T3 first, then three T1 to one T2, unused share passing over (R270). -/
def pickClass (P : Port) : Option (Fin 4) :=
  if sendable P 3 then some 3
  else if sendable P 1 && (decide (P.turn < 3) || !sendable P 2) then some 1
  else if sendable P 2 then some 2 else none

/-- Fill flit slots while a class has data and credit and the replay buffer has room (R269-R271). -/
def pump : Nat → Port → Port
  | 0, P => P
  | k + 1, P =>
    if portUp P ∧ P.replay.length < 1024 then
      match pickClass P with
      | some c => pump k (sendData P c)
      | none => P
    else P

/-- Idle flits that return what credits are owed, one class each (R267, R270). -/
def idleCredits : Nat → Port → Port
  | 0, P => P
  | k + 1, P => if P.owed.get 1 + P.owed.get 2 + P.owed.get 3 = 0 then P else idleCredits k (sendBare P 0)

/-- The flit slots after credits have become due: data flits while there are any, then idle flits for what is still owed
(R270). -/
def fillSlots (P : Port) : Port := if portUp P then idleCredits 3 (pump 2048 P) else P

/-- A message waits for the flits of its class; the messages of one step are packed together, then sent. -/
def queueBytes (P : Port) (cls : Fin 4) (bs : List Byte) : Port := { P with wait := vmod P.wait cls (· ++ [bs]) }

/-- Send what waits on a port. -/
def flush (s : State) (j : Fin 6) : State := modPort s j (pump 2048)

/-! ## Messages (R268) -/

def msgHeader (kind flags len : Nat) (id : Word) (addr attempt : Nat) : List Byte :=
  leBytes 1 kind ++ leBytes 1 flags ++ leBytes 2 len ++ leBytes 4 id.toNat ++ leBytes 6 addr ++ leBytes 2 attempt

/-- The class of a message kind. -/
def kindClass (kind : Nat) : Fin 4 := if kind = 3 then 1 else if kind ≤ 2 then 2 else 3

/-- A message of kinds 1-3, sealed under the polder's job key with the port's channel and class counter. -/
def sealMsg (s : State) (p : Fin 4) (j : Fin 6) (k : JobKey) (hdr payload : List Byte) (cls : Fin 4) : List Byte :=
  let r := gcmSeal (keyBytes k.key) (ivBytes k.rank j.val (ivCounter s p j.val cls.val)) hdr payload
  hdr ++ padBlock r.1 ++ r.2

/-- Queue one sealed message of polder p on port j. -/
def queueSealed (s : State) (p : Fin 4) (j : Fin 6) (kind flags : Nat) (id : Word) (addr attempt : Nat)
    (payload : List Byte) : State :=
  match (polder s p).key with
  | none => s
  | some k =>
    let cls := kindClass kind
    let m := sealMsg s p j k (msgHeader kind flags payload.length id addr attempt) payload cls
    bumpIv (modPort s j fun P => queueBytes P cls m) p j.val cls.val

/-- Send one sealed message of polder p on port j. -/
def sendSealed (s : State) (p : Fin 4) (j : Fin 6) (kind flags : Nat) (id : Word) (addr attempt : Nat)
    (payload : List Byte) : State := flush (queueSealed s p j kind flags id addr attempt payload) j

/-- A management message on T3, in plaintext. -/
def plainMsg (kind flags : Nat) (payload : List Byte) : List Byte :=
  msgHeader kind flags payload.length 0 0 0 ++ padBlock payload

def sendPlain (s : State) (j : Fin 6) (kind flags : Nat) (payload : List Byte) : State :=
  flush (modPort s j fun P => queueBytes P 3 (plainMsg kind flags payload)) j

/-! ## Levee tokens (R276) -/

def tokenBytes (t : Token) : List Byte :=
  [t.typ] ++ leBytes 1 (t.hop.toNat + 32 * t.op.toNat) ++ leBytes 2 t.rank.toNat ++ leBytes 4 t.id.toNat ++
  leBytes 8 t.payload.toNat ++ leBytes 8 t.iv.toNat ++ leBytes 8 t.tag.toNat

/-- The bytes a token's tag covers beside the encrypted payload. -/
def tokenAad (t : Token) : List Byte := (tokenBytes t).take 8 ++ leBytes 8 t.iv.toNat

def tokenIv (rank : BitVec 16) (chan : Nat) (iv : DWord) : List Byte := ivBytes rank chan iv

/-- Encrypt the payload and set the 64-bit tag. -/
def sealToken (k : JobKey) (chan : Nat) (t : Token) : Token :=
  let r := gcmSeal (keyBytes k.key) (tokenIv k.rank chan t.iv) (tokenAad t) (leBytes 8 t.payload.toNat)
  { t with payload := BitVec.ofNat 64 (leVal r.1), tag := BitVec.ofNat 64 (leVal (r.2.take 8)) }

/-- The payload of a received token under the job key, for the sender's rank and channel; none when the tag fails. -/
def openToken (k : JobKey) (chan : Nat) (t : Token) : Option DWord :=
  let ct := leBytes 8 t.payload.toNat
  let iv := tokenIv t.rank chan t.iv
  if (gcmTag (keyBytes k.key) iv (tokenAad t) ct).take 8 = leBytes 8 t.tag.toNat
  then some (BitVec.ofNat 64 (leVal (gcmCrypt (keyBytes k.key) iv ct))) else none

/-- A token in clear: CRC-32C in place of the tag. -/
def clearToken (t : Token) : Token :=
  { t with tag := BitVec.ofNat 64 (crc32c ((tokenBytes t).take 24)) }
def clearOk (t : Token) : Bool := t.tag == (clearToken t).tag

/-- A port that is up or will be after training: what it is given waits for that (R271). -/
def portLives (P : Port) : Bool := portUp P || P.st == .training || P.st == .retraining

/-- Put a token on the port: on the levee lane while a T0 credit is held, or on the data lanes as message kind 5 in
fallback (R269, R274). While the port trains the token waits. -/
def putToken (s : State) (j : Fin 6) (t : Token) : State :=
  let P := port s j
  if !portLives P then s
  else if P.fallback then flush (modPort s j fun P => queueBytes P 0 (plainMsg 5 0 (tokenBytes t))) j
  else if P.credits.get 0 = 0 || !portUp P then modPort s j fun P => { P with tokWait := P.tokWait ++ [t] }
  else modPort s j fun P => { P with txTokens := P.txTokens ++ [t], credits := vmod P.credits 0 (· - 1) }

/-- Send a sealed token of polder p on port j; without a job key nothing can be sealed and nothing is sent. -/
def sendToken (s : State) (p : Fin 4) (j : Fin 6) (typ : Nat) (hop : BitVec 5) (op : BitVec 3) (id : Word)
    (payload : DWord) : State :=
  match (polder s p).key with
  | none => s
  | some k =>
    let t : Token := { typ := BitVec.ofNat 8 typ, hop := hop, op := op, rank := k.rank, id := id, payload := payload,
                       iv := ivCounter s p j.val 0, tag := 0 }
    bumpIv (putToken s j (sealToken k j.val t)) p j.val 0

/-- Send waiting tokens while T0 credits last. -/
def drainTokens : Nat → Port → Port
  | 0, P => P
  | k + 1, P =>
    match P.tokWait with
    | [] => P
    | t :: ts =>
      if P.credits.get 0 = 0 then P
      else drainTokens k { P with tokWait := ts, txTokens := P.txTokens ++ [t], credits := vmod P.credits 0 (· - 1) }

def sendClear (s : State) (j : Fin 6) (typ : Nat) (payload : DWord) : State :=
  putToken s j (clearToken { typ := BitVec.ofNat 8 typ, hop := 0, op := 0, rank := 0, id := 0, payload := payload,
                             iv := 0, tag := 0 })

/-- Ports of polder p, ascending. -/
def portsOf (s : State) (p : Fin 4) : List (Fin 6) :=
  ([0, 1, 2, 3, 4, 5] : List (Fin 6)).filter fun j => (port s j).owner = some p

/-- The payload that names a fault token: the origin's rank and its count of floods, the counter of channel 0xFD
(log 10). -/
def faultName (s : State) (p : Fin 4) : DWord :=
  match (polder s p).key with
  | none => 0
  | some k => BitVec.ofNat 64 (k.rank.toNat * 2 ^ 48 + (ivCounter s p 0xFD 0).toNat % 2 ^ 48)

/-- Flood a fault token of polder p over the levee (R263, R338). -/
def floodFault (s : State) (p : Fin 4) : State :=
  let x := faultName s p
  bumpIv ((portsOf s p).foldl (fun s j => sendToken s p j 3 0 0 0 x) s) p 0xFD 0

end Sys2Proof.Machine
end

