-- ==== Sys2Proof/Machine/Request.lean ====
section
/-! DEFINITION. Mailbox requests: their fields, who may send what in which state, the header checks of R295. -/

namespace Sys2Proof.Machine

/-- The polder that a VF serves. -/
def polderOfVf (f : Fin 5) : Option (Fin 4) := if h : 0 < f.val then some ⟨f.val - 1, by omega⟩ else none

/-! ## Requests -/

/-- The first 4 KiB of a request as bytes. -/
def reqBytes (r : Request) : List Byte := tabBytes r.bytes 0 4096
def reqType (bs : List Byte) : Nat := fld bs 0 2
def reqLen (bs : List Byte) : Nat := fld bs 4 4
/-- The payload: as many bytes as the header says. -/
def reqPayload (bs : List Byte) : List Byte := (bs.drop 64).take (reqLen bs)

def isAdminType (t : Nat) : Bool := decide (1 ≤ t) && decide (t ≤ 0x0A)
def isPolderType (t : Nat) : Bool := decide (0x101 ≤ t) && decide (t ≤ 0x10D)
def typeKnown (t : Nat) : Bool := isAdminType t || isPolderType t

/-- Types a polder answers in every state in which it exists (R344): EVENT_READ, METER_READ, ATTEST_GET, DUMP_READ. -/
def isReadType (t : Nat) : Bool := t == 0x10C || t == 0x10D || t == 0x106 || t == 0x10B

/-- Is a polder message allowed in a state of the polder (R282, R344, R346, R373, R375)? -/
def polderAllows (st : PState) (t : Nat) : Bool :=
  match st with
  | .absent => false
  | .closed => isReadType t || t == 0x101
  | .opened => t != 0x101
  | .repairing | .shut => isReadType t
  | .faulted | .closing | .faultedClosing => isReadType t || t == 0x102

def holdsQueue (s : State) (p : Fin 4) : Bool := (List.finRange 16).any fun q => (queue s p q).st != .absent

/-- What the state of the module denies an open polder: KEY_LOAD and ATTEST_GET before the identity is derived (R382), and
KEY_LOAD while the polder holds a queue (R383). -/
def identityAllows (s : State) (p : Fin 4) (t : Nat) : Bool :=
  if t = 0x103 then s.identity && !holdsQueue s p else if t = 0x106 then s.identity else true

/-- Order 3 of R295: the function's kind, recovery mode (R331) and the offline module (R368); a ready module takes every
admin type (R327). -/
def typeAllowed (s : State) (f : Fin 5) (bs : List Byte) : Bool :=
  let t := reqType bs
  match s.boot with
  | .recovery => f == 0 && t == 5
  | .offline => f == 0 && (t == 1 || t == 0x10C || (t == 6 && decide (fld (reqPayload bs) 0 1 ≤ 1)))
  | _ => match polderOfVf f with
    | none => isAdminType t || t == 0x10C
    | some p => isPolderType t && polderAllows (polder s p).st t && identityAllows s p t

/-- Orders 1 to 3 of R295; a doorbell with another sequence than the header's belongs to order 2 (R293). -/
def headerStatus (s : State) (f : Fin 5) (r : Request) : Option Status :=
  let bs := reqBytes r
  firstFail
    [(compOk 2 (fld bs 0 2) (fld bs 0x0C 2) && compOk 4 (fld bs 4 4) (fld bs 0x10 4), .complementMismatch),
     (decide (reqLen bs ≤ 4032) && zeroAt bs 8 4 && zeroAt bs 0x0E 2 && zeroAt bs 0x14 4 && zeroAt bs 0x20 32 &&
      typeKnown (reqType bs) && decide (fld bs 2 2 = r.seq.toNat), .descInvalid),
     (typeAllowed s f bs, .accessDenied)]

/-- Does the Keeper still serve mailboxes (R368)? -/
def keeperServes (s : State) : Bool := s.boot == .recovery || (decide (0 < s.dispatchCores) && decide (0 < s.mgmtCores))

/-- A request that the Keeper can serve now. -/
def waitingRequest (s : State) (f : Fin 5) : Option Request :=
  let up := match s.boot with | .ready | .offline | .recovery => true | _ => false
  if (func s f).busy && up && keeperServes s then (func s f).latched else none

/-- A CLOSE of the polder has arrived and is not yet answered (R377). -/
def closeRuns (s : State) (p : Fin 4) : Bool :=
  match waitingRequest s (vf p) with
  | some r => reqType (reqBytes r) == 0x102 && (headerStatus s (vf p) r).isNone
  | none => false

end Sys2Proof.Machine
end

