-- ==== Sys2Proof/Machine/Faults.lean ====
section
/-! DEFINITION. The one shared operation of fault handling: classes C1 to C4, the merging of faults, what stops and
what is abandoned (R335-R339, R344, R368). FAULT_DETECTED, the scans, the links and the hang path call it. -/

namespace Sys2Proof.Machine

/-- What a fault's report says of it (R354). -/
structure FaultInfo where
  source : Nat
  kind   : Nat
  die    : Nat
  unit   : Nat
  deriving DecidableEq, Repr

/-- Repair IDs run from 1 to 0xFF_FFFF and wrap to 1 (R344). -/
def nextRepair (s : State) : Nat := if s.lastRepair = 0xFFFFFF then 1 else s.lastRepair + 1

def newReport (s : State) (id cls : Nat) (ps : List (Fin 4)) (i : FaultInfo) : Repair :=
  { id := id, polders := ps, cls := cls, outcome := 0, detected := leveeTime s, record := 0, done := 0,
    source := i.source, kind := i.kind, die := i.die, unit := i.unit, spares := [], unfinished := [], poisoned := [],
    lost := false, active := true }

/-- The last 16 repairs are kept (R353). -/
def keepReports (rs : List Repair) : List Repair := rs.drop (rs.length - 16)

def modReport (s : State) (id : Nat) (f : Repair → Repair) : State :=
  { s with reports := s.reports.map fun r => if r.id = id then f r else r }

/-- Record a repair that begins now. -/
def beginRepair (s : State) (cls : Nat) (ps : List (Fin 4)) (i : FaultInfo) : State :=
  let id := nextRepair s
  { s with reports := keepReports (s.reports ++ [newReport s id cls ps i]), lastRepair := id, repairs := s.repairs + 1 }

/-- A STEP or STATE_LOAD that has made its final writes posts its completion before the fault acts (R338, step 2). -/
def postFinal (s : State) (p : Fin 4) : State :=
  match (polder s p).inflight with
  | [c] =>
    match c.body, c.res with
    | .step _, some st => postCompletion s p c st
    | .load _ _, some st => postCompletion s p c st
    | _, _ => s
  | _ => s

/-- Steps 1 to 3 of R338 on one polder: command start stops, work in flight is abandoned, records fall due. -/
def beginDiscard (s : State) (cls id : Nat) (p : Fin 4) : State :=
  modPolder (abandonAll (postFinal s p) p) p fun P => { P with discard := some (cls, id) }

/-- A polder that runs: open, no discard begun. -/
def isRunning (s : State) (p : Fin 4) : Bool := (polder s p).st == .opened && (polder s p).discard.isNone

/-- A faulted polder whose CLOSE runs: a fault leaves it under repair once that has ended (R377). -/
def faultedCloses (s : State) (p : Fin 4) : Bool := (polder s p).st == .faulted && closeRuns s p

/-- A repair serves the polder, its queues held or its CLOSE running or done. -/
def inRepair (s : State) (p : Fin 4) : Bool :=
  match (polder s p).st with
  | .repairing | .closing | .shut | .faultedClosing => true
  | _ => false

/-- A discard or a repair of the polder is under way. -/
def isHandling (s : State) (p : Fin 4) : Bool := inRepair s p || (polder s p).discard.isSome

/-- A fault of class cls takes polder p into repair id: a discard, but none while CLOSE runs or has run (R377), and none
of a faulted polder, whose queues are held already (R337). -/
def takePolder (cls id : Nat) (s : State) (p : Fin 4) : State :=
  match (polder s p).st with
  | .closing | .shut | .faultedClosing => s
  | .faulted => if closeRuns s p then modPolder s p fun P => { P with st := .faultedClosing } else s
  | _ => if (polder s p).st == .opened && closeRuns s p then modPolder s p fun P => { P with st := .closing, discard := none }
         else beginDiscard s cls id p

/-- A class C2 fault of the polders `ps`: a running polder is discarded; a fault that reaches a polder already
handling one adds nothing but itself (R337); with no polder to discard it is recorded and repaired (R336). -/
def faultC2 (s : State) (ps : List (Fin 4)) (i : FaultInfo) : State :=
  let fresh := ps.filter fun p => isRunning s p || faultedCloses s p
  if fresh.isEmpty && ps.any (isHandling s) then s else
  let s := beginRepair s 2 fresh i
  fresh.foldl (fun s p => takePolder 2 s.lastRepair s p) s

/-- The scope of a class C3 fault: every open polder (R335, R452), a faulted one among them, and one whose CLOSE has left
it under repair. -/
def c3Polders (s : State) : List (Fin 4) :=
  ([0, 1, 2, 3] : List (Fin 4)).filter fun p => isOpen s p || isHandling s p

/-- The repair that a class C3 fault joins (R337): a C3 repair in progress, or one whose discard records are still to
be posted. -/
def c3Base (s : State) : Option Repair :=
  let act := s.reports.filter fun r => r.active && !r.polders.isEmpty
  match act.find? fun r => r.cls = 3 with
  | some r => some r
  | none => act.find? fun r => r.polders.any fun p => (polder s p).discard.isSome

/-- Polders whose queues the C3 repair holds already: no new record for them (R337). -/
def c3Held (s : State) (r : Repair) (p : Fin 4) : Bool :=
  r.cls == 3 && r.polders.contains p && inRepair s p && (polder s p).discard.isNone

/-- Repairs in progress on polders end in the repair `id` (R337). -/
def mergeRepairs (s : State) (id : Nat) : State :=
  let now := leveeTime s
  { s with reports := s.reports.map fun r =>
      if r.active && !r.polders.isEmpty && r.id != id then { r with active := false, done := now } else r }

/-- A class C3 fault: every open polder is discarded. Before the records of an earlier fault it makes one repair of
class 3 with it; a C2 repair in progress merges into the C3 repair, with a second record on its queues; a polder that
a C3 repair holds already gets none (R337). -/
def faultC3 (s : State) (i : FaultInfo) : State :=
  let ps := c3Polders s
  match c3Base s with
  | none =>
    let s := mergeRepairs (beginRepair s 3 ps i) (nextRepair s)
    ps.foldl (fun s p => takePolder 3 s.lastRepair s p) s
  | some r =>
    let fresh := ps.filter fun p => !c3Held s r p
    let s := modReport (mergeRepairs s r.id) r.id fun x => { x with cls := 3, polders := ps }
    fresh.foldl (takePolder 3 r.id) s

/-! ## SMBus alert causes (R447) -/

def raiseAlert (s : State) (bit : Nat) : State :=
  { s with alert := s.alert ||| (1#8 <<< bit), smbAlert := true }

/-! ## C4 (R368) -/

/-- Put every port into electrical idle: transmission ends, nothing waits. -/
def idlePort (P : Port) : Port := { P with st := .down, wait := #v[[], [], [], []], tokWait := [] }

/-- The fault token of R368 on every trained levee lane; a port of no polder, or of a polder without a key, has
none to seal it with. -/
def lastTokens (s : State) : State :=
  ([0, 1, 2, 3] : List (Fin 4)).foldl (fun s p => floodFault s p) s

def stopPolder (P : Polder) : Polder := { P with inflight := [], discard := none }

/-- A class C4 fault: all work stops, no record is posted, the module is offline until PERST# or a power cycle; the
fault enters the margin and wear history. -/
def faultC4 (s : State) (i : FaultInfo) : State :=
  let s := lastTokens s
  let s := raiseAlert s 2
  { s with boot := .offline, polders := s.polders.map stopPolder, ports := s.ports.map idlePort,
           clusters := s.clusters.map fun C => { C with slots := [], ve := { C.ve with mode := .idle, owner := none } },
           history := s.history ++ [mkRemap i.kind i.die i.unit 0], slotDue := true }

/-! ## Fault tokens and class by source -/

def faultInfo (source kind die unit : Nat) : FaultInfo := { source := source, kind := kind, die := die, unit := unit }

/-- The polder of a C-die as a list; empty for a C-die of no polder (R336). -/
def diePolders (s : State) (d : Nat) : List (Fin 4) := if d < 4 then (polderOfDie s (fin4 d)).toList else []

/-! ## Page retirement (R227, R228) -/

/-- The channels of a die that hold more than 64 retired pages: they are to be retired (R229). -/
def crowded (s : State) (d : Nat) : List Nat :=
  let ls := (retiredPages s d).map (· / 2 ^ 21)
  ls.eraseDups.filter fun l => decide (64 < ls.count l)

/-- Point page g of channel l at a free reserve page (R227); none when a page entry or a reserve page is lacking. A page
that has an entry already keeps it. -/
def remapPage (s : State) (d : Fin 4) (l g : Nat) (repair : Nat) : Option State :=
  let u := l * 2 ^ 21 + g
  if freePageEntries s d.val = 0 ∧ !(retiredPages s d.val).contains u then none else
  (freePage s d u).map fun r => makeRemap s (mkRemap 6 d.val u (r.1 * 2 ^ 21 + r.2)) repair

/-- A page whose retirement waits for a repair (R228). -/
def pageDue (s : State) (d : Fin 4) (u : Nat) : State :=
  { s with pagesDue := if s.pagesDue.contains (d, u) then s.pagesDue else s.pagesDue ++ [(d, u)] }

/-- A page waits no longer. -/
def pageMet (s : State) (d : Fin 4) (u : Nat) : State := { s with pagesDue := s.pagesDue.filter (· != (d, u)) }

/-- Retire page g of channel l of die d, live (R227), or raise the C2 fault of R228: the page waits for the repair. Of a
retired channel the copies have places of their own. The 65th retired page of a channel raises the C2 fault whose repair retires the channel (R229). -/
def retirePage (s : State) (d : Fin 4) (l g : Nat) : State :=
  if (retiredChannels s d.val).contains l then s else
  match remapPage s d l g 0 with
  | none => faultC2 (pageDue s d (l * 2 ^ 21 + g)) (diePolders s d.val) (faultInfo 0x06 6 d.val (l * 2 ^ 21 + g))
  | some t =>
    let t := pageMet t d (l * 2 ^ 21 + g)
    if (crowded t d.val).contains l then faultC2 t (diePolders t d.val) (faultInfo 0x06 7 d.val l) else t

/-- Retire the page that holds a D-tier address of polder p. -/
def retireAt (s : State) (p : Fin 4) (a : Nat) : State :=
  match place s p a with
  | none => s
  | some x => retirePage s x.die x.chan x.page

/-- The polder whose memory holds an address. -/
def ownerOf (s : State) (a : Nat) : Option (Fin 4) :=
  if a < 2 ^ 34 then polderOfDie s (fin4 (a / 2 ^ 32))
  else if 2 ^ 40 ≤ a ∧ a < 5 * 2 ^ 40 then polderOfDie s (fin4 (a / 2 ^ 40 - 1)) else none

def bumpCorrected (s : State) (i : Fin 8) : State := { s with corrected := vmod s.corrected i (· + 1) }

/-- An uncorrectable error met at an address: a D-tier block is poisoned and its page retired (R224); an S-tier word
stays failed (R220). A block that is poisoned already, or a word that has failed, stays as it is. -/
def uncorrectable (s : State) (a : Nat) : State :=
  if isBad s a then s else
  let s := poisonBlock s a
  if 2 ^ 40 ≤ a then
    match ownerOf s a with
    | some p => retireAt s p a
    | none => s
  else s

/-- An S-tier row that is failing goes live to a spare row of its physical bank, while that has one (R347). -/
def spareRow (s : State) (a : Nat) : State :=
  let d := a / 2 ^ 32 % 4
  let v (r : Nat) := mkRemap 4 d (sUnit (sPlace a)) r
  let left := poolRemaining s (poolOf s (v 0))
  if left = 0 then s else makeRemap s (v (128 - left)) 0

/-- A corrected single error: the S-tier counts it; the D-tier also counts it against its page, and a third within
24 hours retires the page (R220, R224, R227). Keys of the page table are die, channel and page. -/
def correctedError (s : State) (a : Nat) : State :=
  if a < 2 ^ 40 then bumpCorrected s 0 else
  let s := bumpCorrected s 1
  match ownerOf s a with
  | none => s
  | some p =>
    match place s p a with
    | none => s
    | some x =>
      let key := (x.die.val * 256 + x.chan) * 2 ^ 21 + x.page
      let now := leveeTime s
      let day : DWord := 86400000000000
      let ts := (tabGet [] s.pageErrs key).filter (fun t => decide (now - t < day)) ++ [now]
      if 3 ≤ ts.length then retirePage { s with pageErrs := tabSet [] s.pageErrs key [] } x.die x.chan x.page
      else { s with pageErrs := tabSet [] s.pageErrs key ts }

end Sys2Proof.Machine
end

