-- ==== Sys2Proof/Machine/Host.lean ====
section
/-! DEFINITION. The host's accesses: queue registers (R290, R300, R303, R311), BAR0 (R283-R289), the BAR2 window
(R291), the BAR0 check-value units (R438, R439), the doorbell (R286, R293), the MSI-X table (R314),
configuration space (R281, R282). -/

namespace Sys2Proof.Machine

/-- Does function f answer the host's configuration requests? Until release, and while it is being reset, with Request
Retry Status only (R318, R327, R333), in recovery mode only PF0 (R331), a VF only while enabled. -/
def configReach (s : State) (f : Fin 5) : Bool :=
  !s.perst && !(func s f).resetting && (f == 0 || (s.vfEnable && decide (f.val ≤ s.numVfs))) &&
  match s.boot with
  | .ready | .offline => true
  | .recovery => f == 0
  | _ => false

/-- Does function f answer the host's memory requests (R281, R318)? Not in D3hot (log 82). -/
def hostReach (s : State) (f : Fin 5) : Bool := configReach s f && !(func s f).config.d3hot

/-! ## Queue registers -/

/-- (P − T) mod 2^32 exceeds the depth (R300). -/
def tailTooFar (Q : Queue) (t v : Word) : Bool := decide (Q.depth < (v - t).toNat)

def refuseTail (s : State) (p : Fin 4) (q : Fin 16) : State :=
  raiseCause (modQueue s p q fun Q => { Q with tailErr := true }) (vf p) 4

/-- A write of SQ_TAIL: checked against T, refused on a held queue before the repair has ended, and the resumption of
a held queue after it (R300, R311, R346). -/
def tailWrite (s : State) (p : Fin 4) (q : Fin 16) (v : Word) : State :=
  let Q := queue s p q
  match Q.st with
  | .absent => s
  | .running | .error =>
    if tailTooFar Q Q.taken v then refuseTail s p q else modQueue s p q fun Q => { Q with tail := v }
  | .held =>
    if (polder s p).st = .opened ∧ (polder s p).discard = none ∧ tailTooFar Q Q.fence v = false then
      modQueue s p q fun Q => { Q with tail := v, taken := Q.fence, st := .running }
    else refuseTail s p q

def doSqTailWrite (f : Fin 5) (q : Fin 16) (v : Word) (s : State) : State :=
  match polderOfVf f with
  | some p => if hostReach s f then tailWrite s p q v else s
  | none => s

def execSqTailWrite (f : Fin 5) (q : Fin 16) (v : Word) (s : State) : Host.Outcome State Fault Refusal :=
  .next (doSqTailWrite f q v s)

def headWrite (s : State) (p : Fin 4) (q : Fin 16) (v : Word) : State :=
  if (queue s p q).st = .absent then s else modQueue s p q fun Q => { Q with head := v }

def doCqHeadWrite (f : Fin 5) (q : Fin 16) (v : Word) (s : State) : State :=
  match polderOfVf f with
  | some p => if hostReach s f then headWrite s p q v else s
  | none => s

def execCqHeadWrite (f : Fin 5) (q : Fin 16) (v : Word) (s : State) : Host.Outcome State Fault Refusal :=
  .next (doCqHeadWrite f q v s)

/-! ## Levee time readout (R288) -/

/-- A 4-byte read of TIME_LO: returns the low half and latches the high half. -/
def doTimeLoRead (f : Fin 5) (s : State) : State :=
  if hostReach s f then
    let t := leveeTime s
    { (modFunc s f fun F => { F with timeSnap := (t >>> 32).setWidth 32 }) with lastRead := leBytes 4 t.toNat }
  else s

def execTimeLoRead (f : Fin 5) (s : State) : Host.Outcome State Fault Refusal := .next (doTimeLoRead f s)

/-! ## The BAR2 window (R289, R291) -/

/-- The staged base, device address bits [47:30]. -/
def stagedBase (F : Func) : BitVec 18 := (F.winHi.setWidth 16 ++ (F.winLo >>> 30).setWidth 2)

def doWinCommit (f : Fin 5) (v : Word) (s : State) : State :=
  if hostReach s f ∧ f ≠ 0 ∧ v.getLsbD 0 = true then modFunc s f fun F => { F with winBase := stagedBase F } else s

def execWinCommit (f : Fin 5) (v : Word) (s : State) : Host.Outcome State Fault Refusal := .next (doWinCommit f v s)

/-- The device address of offset x of the window. -/
def winAddr (F : Func) (off : Nat) : Nat := F.winBase.toNat * 2 ^ 30 + off

/-- The polder whose memory a BAR2 access of function f may reach: an open polder of a module that is not offline
(log 12). -/
def winPolder (s : State) (f : Fin 5) : Option (Fin 4) :=
  match polderOfVf f with
  | some p => if s.boot = .ready ∧ isOpen s p then some p else none
  | none => none

/-- A refused access sets DENIED and WIN_DENIED (R291). -/
def denyWin (s : State) (f : Fin 5) : State := raiseCause (modFunc s f fun F => { F with winDenied := true }) f 5

/-- The polder that a BAR2 access of `len` bytes at `off` reaches, where R216 allows it; none when it is refused. -/
def winAllowed (s : State) (f : Fin 5) (write : Bool) (off len : Nat) : Option (Fin 4) :=
  (winPolder s f).filter fun p => decide (off + len ≤ 2 ^ 34) && accessOk s p write (winAddr (func s f) off) len

/-- An access that meets an uncorrectable error: refused, and counted in the polder's ECC counter (R291). -/
def denyEcc (s : State) (f : Fin 5) (p : Fin 4) : State :=
  denyWin (modPolder s p fun P => { P with eccErrs := P.eccErrs + 1 }) f

/-- What the host reads when an access is refused. -/
def allOnes (len : Nat) (s : State) : State := { s with lastRead := List.replicate len 0xFF }

def doBar2Read (f : Fin 5) (off len : Nat) (s : State) : State :=
  if hostReach s f ∧ f ≠ 0 then
    match winAllowed s f false off len with
    | none => allOnes len (denyWin s f)
    | some p =>
      let a := winAddr (func s f) off
      match memRead s a len with
      | some bs => { (touch s p a len) with lastRead := bs }
      | none => allOnes len (denyEcc (touch s p a len) f p)
  else s

def execBar2Read (f : Fin 5) (off len : Nat) (s : State) : Host.Outcome State Fault Refusal :=
  .next (doBar2Read f off len s)

/-- Would the write merge into a failed word or a poisoned block (R220, R224, R226)? -/
def mergesBad (s : State) (a len : Nat) : Bool := blocked s a len a || blocked s a len (a + len - 1)

def doBar2Write (f : Fin 5) (off : Nat) (data : List Byte) (s : State) : State :=
  if hostReach s f ∧ f ≠ 0 then
    match winAllowed s f true off data.length with
    | none => denyWin s f
    | some p =>
      let a := winAddr (func s f) off
      if mergesBad s a data.length then denyEcc (touch s p a data.length) f p
      else touch (memWrite s a data).1 p a data.length
  else s

def execBar2Write (f : Fin 5) (off : Nat) (data : List Byte) (s : State) : Host.Outcome State Fault Refusal :=
  .next (doBar2Write f off data s)

/-! ## Check-value units of BAR0 -/

/-- Unit u belongs to VF u + 1 while polder u exists, to PF0 otherwise (R284). -/
def cvuOwner (s : State) (u : Fin 4) : Fin 5 := if (polder s u).st = .absent then 0 else vf u

def cvuReach (s : State) (f : Fin 5) (u : Fin 4) : Bool := hostReach s f && cvuOwner s u == f

/-- Staged bits above the polynomial's width are zero. -/
def cvuStartOk (C : Cvu) : Bool :=
  let w := crcWidth (cfgPoly C.cfg)
  decide (C.init.toNat < 2 ^ w) && decide (C.fxor.toNat < 2 ^ w) && decide (C.exp.toNat < 2 ^ w)

/-- START: latch the group, load INIT, clear COUNT, DONE and MATCH, set RUN; or set CFGERR (R438). -/
def cvuBegin (C : Cvu) : Cvu :=
  if cvuStartOk C then
    { C with lcfg := C.cfg, lfxor := C.fxor, lexp := C.exp, reg := C.init, count := 0, done := false, match_ := false,
             run := true, queue := [] }
  else { C with cfgErr := true }

def cvuBytes : Nat → Cvu → Cvu
  | 0, C => C
  | k + 1, C => cvuBytes k (cvuByte C)

/-- Bytes that wait in the unit. -/
def cvuWaiting (C : Cvu) : Nat := (C.queue.map List.length).foldl (· + ·) 0

/-- The result over the bytes processed so far, as if finished. -/
def cvuResult (C : Cvu) : Nat := crcResult (cfgPoly C.lcfg) (cfgRefout C.lcfg) C.lfxor.toNat C.reg.toNat

/-- A data write: queued up to 16 deep; a full queue holds the link until its oldest write is processed (R439); with
RUN clear it is ignored and sets SEQERR. -/
def cvuFeed (C : Cvu) (bs : List Byte) : Cvu :=
  if C.run then
    let C := if 16 ≤ C.queue.length then cvuBytes (C.queue.headD []).length C else C
    { C with queue := C.queue ++ [bs] }
  else { C with seqErr := true }

/-- FINISH after every queued write: DONE, and the comparison when CMP_EN is set. -/
def cvuEnd (C : Cvu) : Cvu :=
  let C := cvuBytes (cvuWaiting C) C
  let C := { C with done := true, run := false }
  if cfgCompare C.lcfg then
    if cvuResult C = C.lexp.toNat then { C with match_ := true } else { C with mismatch := true }
  else C

/-- EV_CVU_MISMATCH (R437) to the owner of the unit and PF0. -/
def cvuEvent (s : State) (f : Fin 5) (pay : List Byte) : State :=
  match polderOfVf f with
  | some p => polderEvent s p 0x0601 pay
  | none => adminEvent s 0x0601 pay

def cvuMismatchPay (source unit qb : Nat) (n : Word) (res : Nat) : List Byte :=
  leBytes 1 source ++ leBytes 1 unit ++ leBytes 1 qb ++ [0] ++ leBytes 4 n.toNat ++ leBytes 8 res

def doCvuStart (f : Fin 5) (u : Fin 4) (s : State) : State :=
  if cvuReach s f u then modCvu s u cvuBegin else s

def execCvuStart (f : Fin 5) (u : Fin 4) (s : State) : Host.Outcome State Fault Refusal := .next (doCvuStart f u s)

def doCvuFinish (f : Fin 5) (u : Fin 4) (s : State) : State :=
  if cvuReach s f u then
    if (s.cvus.get u).run then
      let C := cvuEnd (s.cvus.get u)
      let s := modCvu s u fun _ => C
      if cfgCompare C.lcfg && cvuResult C != C.lexp.toNat then
        cvuEvent s f (cvuMismatchPay 0 u.val 0xFF 0 (cvuResult C)) else s
    else modCvu s u fun C => { C with seqErr := true }
  else s

def execCvuFinish (f : Fin 5) (u : Fin 4) (s : State) : Host.Outcome State Fault Refusal := .next (doCvuFinish f u s)

def cvuData (f : Fin 5) (u : Fin 4) (n : Nat) (v : Word) (s : State) : State :=
  if cvuReach s f u then modCvu s u fun C => cvuFeed C (leBytes n v.toNat) else s

def execCvuData8 (f : Fin 5) (u : Fin 4) (v : Word) (s : State) : Host.Outcome State Fault Refusal :=
  .next (cvuData f u 1 v s)
def execCvuData16 (f : Fin 5) (u : Fin 4) (v : Word) (s : State) : Host.Outcome State Fault Refusal :=
  .next (cvuData f u 2 v s)
def execCvuData32 (f : Fin 5) (u : Fin 4) (v : Word) (s : State) : Host.Outcome State Fault Refusal :=
  .next (cvuData f u 4 v s)

/-- The upper half of a 64-bit pair replaced. -/
def setHi (x : DWord) (v : Word) : DWord := v ++ x.setWidth 32
def setLo (x : DWord) (v : Word) : DWord := (x >>> 32).setWidth 32 ++ v

/-- A 4-byte write into a unit's block (R438). -/
def cvuWrite (f : Fin 5) (u : Fin 4) (o : Nat) (v : Word) (s : State) : State :=
  if cvuReach s f u then
    match o with
    | 0x00 => modCvu s u fun C => { C with cfg := v &&& 0x1F }
    | 0x08 => modCvu s u fun C => { C with init := setLo C.init v }
    | 0x0C => modCvu s u fun C => { C with init := setHi C.init v }
    | 0x10 => modCvu s u fun C => { C with fxor := setLo C.fxor v }
    | 0x14 => modCvu s u fun C => { C with fxor := setHi C.fxor v }
    | 0x18 => modCvu s u fun C => { C with exp := setLo C.exp v }
    | 0x1C => modCvu s u fun C => { C with exp := setHi C.exp v }
    | 0x20 =>
      let s := if v.getLsbD 0 then doCvuStart f u s else s
      if v.getLsbD 1 then doCvuFinish f u s else s
    | 0x24 => modCvu s u fun C =>
        { C with mismatch := C.mismatch && !v.getLsbD 3, seqErr := C.seqErr && !v.getLsbD 4,
                 cfgErr := C.cfgErr && !v.getLsbD 5 }
    | 0x28 => cvuData f u 1 v s
    | 0x2C => cvuData f u 2 v s
    | 0x30 => cvuData f u 4 v s
    | _ => s
  else s

/-! ## BAR0 register writes (R11, R283) -/

/-- A doorbell: with its complement the request is copied and BUSY set, or OVERRUN while BUSY; without it MISMATCH
(R286, R293). -/
def doorbellWrite (f : Fin 5) (v : Word) (s : State) : State :=
  let F := func s f
  let seq := v.setWidth 16
  if (v >>> 16).setWidth 16 = ~~~seq then
    if F.busy then raiseCause (modFunc s f fun F => { F with overrun := true }) f 3
    else modFunc s f fun F => { F with doorbell := seq, busy := true, latched := some { seq := seq, time := s.localCount, bytes := F.mbReq } }
  else raiseCause (modFunc s f fun F => { F with mismatch := true }) f 3

/-- A vector with its pending bit set sends its message once it is unmasked (R314). -/
def sendPending (s : State) (f : Fin 5) (k : Nat) : State :=
  let F := func s f
  if F.config.msixEnable && !vecMasked F k && F.msixPending.getLsbD k then
    sendMsix (modFunc s f fun F => { F with msixPending := F.msixPending &&& ~~~(1#64 <<< k) }) f k
  else s

/-- Store into the MSI-X table. -/
def msixWrite (f : Fin 5) (o : Nat) (v : Word) (s : State) : State :=
  sendPending (modFunc s f fun F => { F with msixTable := tabSplice 0 F.msixTable o (leBytes 4 v.toNat) }) f (o / 16)

/-- A 4-byte write into queue block q, register o (R290). -/
def queueBlockWrite (f : Fin 5) (q : Fin 16) (o : Nat) (v : Word) (s : State) : State :=
  match o with
  | 0x0 => doSqTailWrite f q v s
  | 0x4 => doCqHeadWrite f q v s
  | 0x8 => match polderOfVf f with
    | some p => if v.getLsbD 2 then modQueue s p q fun Q => { Q with tailErr := false } else s
    | none => s
  | _ => s

/-- An aligned 4-byte write at BAR0 offset `off` (R284-R290). -/
def bar0Write4 (f : Fin 5) (off : Nat) (v : Word) (s : State) : State :=
  let vfOnly (g : Func → Func) := if f = 0 then s else modFunc s f g
  if off = 0x10 then doorbellWrite f v s
  else if off = 0x14 then modFunc s f fun F =>
    { F with ready := F.ready && !v.getLsbD 1, overrun := F.overrun && !v.getLsbD 2,
             mismatch := F.mismatch && !v.getLsbD 3 }
  else if off = 0x20 then modFunc s f fun F => { F with cause := F.cause &&& ~~~v }
  else if off = 0x24 then modFunc s f fun F => { F with mask := v }
  else if off = 0x50 then vfOnly fun F => { F with winLo := v &&& 0xC0000000 }
  else if off = 0x54 then vfOnly fun F => { F with winHi := v &&& 0xFFFF }
  else if off = 0x58 then doWinCommit f v s
  else if off = 0x5C then vfOnly fun F => { F with winDenied := F.winDenied && !v.getLsbD 31 }
  else if 0x1000 ≤ off ∧ off < 0x1100 then queueBlockWrite f (fin16 ((off - 0x1000) / 16)) (off % 16) v s
  else if 0x10000 ≤ off ∧ off < 0x11000 then
    modFunc s f fun F => { F with mbReq := tabSplice 0 F.mbReq (off - 0x10000) (leBytes 4 v.toNat) }
  else if 0x20000 ≤ off ∧ off < 0x20400 then cvuWrite f (fin4 ((off - 0x20000) / 0x100)) (off % 0x100) v s
  else if 0x30000 ≤ off ∧ off < 0x30400 then msixWrite f (off - 0x30000) v s
  else s

/-- Offsets an 8-byte write may name: register pairs, the request buffer and the MSI-X table (R283). -/
def pairOffset (off : Nat) : Bool :=
  off == 0x50 || (decide (0x10000 ≤ off) && decide (off < 0x11000)) ||
  (decide (0x30000 ≤ off) && decide (off < 0x30400)) ||
  (decide (0x20000 ≤ off) && decide (off < 0x20400) && (off % 0x100 == 8 || off % 0x100 == 0x10 || off % 0x100 == 0x18))

def bar0Write (f : Fin 5) (off size : Nat) (v : DWord) (s : State) : State :=
  if size = 4 ∧ off % 4 = 0 then bar0Write4 f off (v.setWidth 32) s
  else if size = 8 ∧ off % 8 = 0 ∧ pairOffset off then
    bar0Write4 f (off + 4) ((v >>> 32).setWidth 32) (bar0Write4 f off (v.setWidth 32) s)
  else s

/-- A write of the SR-IOV control: NumVFs may change only while VF Enable is clear (R282; log 5). -/
def sriovWrite (enable : Bool) (v : DWord) (s : State) : State :=
  { s with numVfs := if s.vfEnable then s.numVfs else min 4 (v.toNat % 2 ^ 16), vfEnable := enable }

/-- A code of Max_Payload_Size or Max_Read_Request_Size: 128 bytes at 0, twice as many a step; one above the supported
size leaves the field (R281; log 82). -/
def sizeCode (old new : BitVec 3) (most : Nat) : BitVec 3 := if new.toNat ≤ most then new else old

/-- A write of a configuration register (R281), with the fields of the base specification (log 82): sizes up to 512 and
4,096 bytes, the power states D0 and D3hot, MSI-X Enable and Function Mask at bits 31 and 30 of the
capability's first word, AER bits cleared by writing one. -/
def configWrite (C : PciConfig) (r : CfgReg) (v : Word) : PciConfig :=
  match r with
  | .deviceControl =>
    { C with mps := sizeCode C.mps ((v >>> 5).setWidth 3) 2, mrrs := sizeCode C.mrrs ((v >>> 12).setWidth 3) 5 }
  | .msixControl => { C with msixEnable := v.getLsbD 31, msixMask := v.getLsbD 30 }
  | .powerState =>
    { C with d3hot := if v.toNat % 4 = 3 then true else if v.toNat % 4 = 0 then false else C.d3hot }
  | .aerUncorrectable => { C with aerUncor := C.aerUncor &&& ~~~v }
  | .aerCorrectable => { C with aerCor := C.aerCor &&& ~~~v }

def doRegisterWrite (f : Fin 5) (tgt : RegTarget) (v : DWord) (s : State) : State :=
  match tgt with
  | .bar0 off size => if hostReach s f then bar0Write f off size v s else s
  | .sriov enable => if configReach s f ∧ f = 0 then sriovWrite enable v s else s
  | .config r =>
    if configReach s f then
      let s := modFunc s f fun F => { F with config := configWrite F.config r (v.setWidth 32) }
      if r = .msixControl then (List.range 64).foldl (fun s k => sendPending s f k) s else s
    else s

def execRegisterWrite (f : Fin 5) (tgt : RegTarget) (v : DWord) (s : State) : Host.Outcome State Fault Refusal :=
  .next (doRegisterWrite f tgt v s)

end Sys2Proof.Machine
end

