-- ==== Sys2Proof/Machine/Mailbox.lean ====
section
/-! DEFINITION. The mailbox protocol (R292-R296): header checks, who may send what, the response; then the queue
messages (R298, R299), EVENT_READ (R313), COUNTER_CLEAR (R419) and requests answered by their header alone. -/

namespace Sys2Proof.Machine

/-! ## Responses (R293) -/

def respHeader (bs : List Byte) (st : Status) (n : Nat) : List Byte :=
  leBytes 2 (fld bs 0 2) ++ leBytes 2 (fld bs 2 2) ++ leBytes 4 n ++ leBytes 2 (statusCode st) ++ zeros 2 ++
  leBytes 2 (2 ^ 16 - 1 - fld bs 0 2) ++ zeros 2 ++ leBytes 4 (2 ^ 32 - 1 - n) ++ zeros 4 ++ (bs.drop 0x18).take 8 ++
  zeros 32

/-- Write the response, clear BUSY, set READY and RSPSEQ, raise MB_RSP. -/
def respond (s : State) (f : Fin 5) (bs : List Byte) (st : Status) (payload : List Byte) : State :=
  let s := modFunc s f fun F =>
    { F with mbRsp := tabSplice 0 F.mbRsp 0 (respHeader bs st payload.length ++ payload), latched := none,
             busy := false, ready := true, rspSeq := BitVec.ofNat 16 (fld bs 2 2) }
  raiseCause s f 0

/-- What a message's handler answers: the new state, the status, the response payload. -/
abbrev Answer := State × Status × List Byte

def refuse (s : State) (st : Status) : Answer := (s, st, [])
def accept (s : State) (payload : List Byte := []) : Answer := (s, .ok, payload)

/-- The payload of a request of the type on function f that passed its header; none when no such request waits. -/
def requestOf (s : State) (f : Fin 5) (typ : Nat) : Option (List Byte) :=
  match waitingRequest s f with
  | none => none
  | some r =>
    let bs := reqBytes r
    if headerStatus s f r = none ∧ reqType bs = typ then some bs else none

/-- Any DEBUG_UNLOCK request, a short one too, ends the challenge before it (R379). -/
def endChallenge (s : State) (typ : Nat) : State := if typ = 0x0A then { s with challenge := none } else s

/-- Serve the waiting request of one type whose payload `pick` accepts. A payload shorter than the layout of its
message is DESC_INVALID (log 16). -/
def serve (s : State) (f : Fin 5) (typ len : Nat) (pick : List Byte → Bool) (act : State → List Byte → Answer) : State :=
  match requestOf s f typ with
  | none => s
  | some bs =>
    let pay := reqPayload bs
    if !pick (padTo len pay) then s
    else if pay.length < len then respond (endChallenge s typ) f bs .descInvalid []
    else let a := act s pay; respond a.1 f bs a.2.1 a.2.2

def anyPayload (_ : List Byte) : Bool := true

/-- The operation byte of a message with operations. -/
def opIs (k : Nat) (pay : List Byte) : Bool := fld pay 0 1 == k
/-- GAUGE_CONFIG and GOV_CONFIG carry their operation in 2 bytes (R167, R188). -/
def op2Is (k : Nat) (pay : List Byte) : Bool := fld pay 0 2 == k

/-! ## Requests answered by the header, and reserved operations -/

/-- Operations that a message defines, by type; true for a message without operations. -/
def opKnown (t : Nat) (pay : List Byte) : Bool :=
  let o := fld (padTo 2 pay) 0 1
  let o2 := fld (padTo 2 pay) 0 2
  match t with
  | 4 => decide (o ≤ 4)
  | 5 => decide (1 ≤ o) && decide (o ≤ 3)
  | 6 => decide (o ≤ 2)
  | 8 => decide (o ≤ 3)
  | 0x0A => decide (o ≤ 1)
  | 0x106 => decide (o ≤ 1)
  | 0x107 => decide (o2 ≤ 1)
  | 0x108 => decide (o2 ≤ 1)
  | 0x10B => decide (o ≤ 4)
  | 0x10D => decide (o ≤ 2)
  | _ => true

/-- Is a QUEUE_DESTROY of the polder waiting? -/
def destroyingQueue (P : Polder) : Option (Fin 16) :=
  (List.finRange 16).find? fun q => (P.queues.get q).destroying

/-- Does the function's request wait for QUEUE_REMOVED (R299)? -/
def removalWaits (s : State) (f : Fin 5) : Bool :=
  match polderOfVf f with
  | some p => (destroyingQueue (polder s p)).isSome
  | none => false

/-- Answer a request whose header fails R295, or whose operation is reserved (R9). -/
def doUnknownMessageType (f : Fin 5) (s : State) : State :=
  match (if removalWaits s f then none else waitingRequest s f) with
  | none => s
  | some r =>
    let bs := reqBytes r
    match headerStatus s f r with
    | some st => respond s f bs st []
    | none =>
      if opKnown (reqType bs) (reqPayload bs) then s
      else respond (endChallenge s (reqType bs)) f bs .descInvalid []

def execUnknownMessageType (f : Fin 5) (s : State) : Host.Outcome State Fault Refusal := .next (doUnknownMessageType f s)

/-! ## Queues -/

def isPow2 (n : Nat) : Bool := n != 0 && n == 2 ^ Nat.log2 n

def queueCreateOk (s : State) (p : Fin 4) (b : List Byte) : Bool :=
  let d := fld b 4 4
  decide (fld b 0 1 < 16) && (queue s p (fin16 (fld b 0 1))).st == .absent &&
  (decide (fld b 1 1 < 64) || fld b 1 1 == 0xFF) && zeroAt b 2 2 && isPow2 d && decide (d ≤ 65536) &&
  fld b 8 8 % 4096 == 0 && fld b 0x10 8 % 4096 == 0 && decide (fld b 0x18 4 ≤ 60000) && decide (fld b 0x1C 2 ≤ d) &&
  zeroAt b 0x20 32

def queueFrom (b : List Byte) : Queue :=
  { Queue.reset with st := .running, vector := fld b 1 1, depth := fld b 4 4, sqBase := fld b 8 8, cqBase := fld b 0x10 8,
                     watchdog := if fld b 0x18 4 = 0 then 10000 else fld b 0x18 4, coCount := fld b 0x1C 2,
                     coTime := fld b 0x1E 2 }

def doQueueCreate (p : Fin 4) (s : State) : State :=
  serve s (vf p) 0x104 64 anyPayload fun s b =>
    if queueCreateOk s p b then accept (modQueue s p (fin16 (fld b 0 1)) fun _ => queueFrom b)
    else refuse s .descInvalid

def execQueueCreate (p : Fin 4) (s : State) : Host.Outcome State Fault Refusal := .next (doQueueCreate p s)

/-- QUEUE_DESTROY: fetching stops; the answer waits for QUEUE_REMOVED (R299). -/
def doQueueDestroy (p : Fin 4) (s : State) : State :=
  if (destroyingQueue (polder s p)).isSome then s else
  match requestOf s (vf p) 0x105 with
  | none => s
  | some bs =>
    let b := reqPayload bs
    let q := fin16 (fld b 0 1)
    if b.length < 8 ∨ 16 ≤ fld b 0 1 ∨ !zeroAt b 1 7 ∨ (queue s p q).st = .absent then respond s (vf p) bs .descInvalid []
    else modQueue s p q fun Q => { Q with destroying := true }

def execQueueDestroy (p : Fin 4) (s : State) : Host.Outcome State Fault Refusal := .next (doQueueDestroy p s)

/-- The started commands of the queue have completed: it is removed and the final QFENCE answered. -/
def doQueueRemoved (p : Fin 4) (s : State) : State :=
  match destroyingQueue (polder s p), waitingRequest s (vf p) with
  | some q, some r =>
    if (inQueue (polder s p) q).isEmpty then
      let fence := (queue s p q).fence
      respond (modQueue s p q fun _ => Queue.reset) (vf p) (reqBytes r) .ok (leBytes 4 fence.toNat)
    else s
  | _, _ => s

def execQueueRemoved (p : Fin 4) (s : State) : Host.Outcome State Fault Refusal := .next (doQueueRemoved p s)

/-! ## EVENT_READ -/

def doEventRead (f : Fin 5) (s : State) : State :=
  serve s f 0x10C 4 anyPayload fun s b =>
    let n := fld b 0 2
    if n = 0 ∨ 125 < n ∨ !zeroAt b 2 2 then refuse s .descInvalid else
    let F := func s f
    let es := F.events.take n
    accept (modFunc s f fun F => { F with events := F.events.drop n, lost := 0 })
      (leBytes 2 es.length ++ zeros 2 ++ leBytes 4 F.lost.toNat ++ es.flatMap eventBytes)

def execEventRead (f : Fin 5) (s : State) : Host.Outcome State Fault Refusal := .next (doEventRead f s)

/-! ## COUNTER_CLEAR -/

/-- A polder number is idle: absent, closed, or reading 2 with no command in flight. -/
def numberIdle (P : Polder) : Bool :=
  match P.st with
  | .absent | .closed => true
  | .opened | .closing => P.inflight.isEmpty
  | _ => false

/-- Clear the sets of a mask, and the polder set if asked, at an edge of no earlier snapshot; the edge advances the
generation (R417, R419). -/
def clearSets (s : State) (p : Fin 4) (mask : DWord) (pol : Bool) : State :=
  let s := snapEdge (if (s.counters.get p).edge = some s.localCount then tick s else s) p 0
  { s with counters := vmod s.counters p fun b =>
      { b with sets := b.sets.filter fun c => !((decide (c.1 < 64) && mask.getLsbD c.1) || (c.1 == polderSet && pol)) } }

def doCounterClear (s : State) : State :=
  serve s 0 9 16 anyPayload fun s b =>
    if 4 ≤ fld b 0 1 ∨ 2 ≤ fld b 1 1 ∨ !zeroAt b 2 6 then refuse s .descInvalid else
    let p := fin4 (fld b 0 1)
    let pol := fld b 1 1 == 1
    let mask := BitVec.ofNat 64 (fld b 8 8)
    if !numberIdle (polder s p) then refuse s .accessDenied else
    let s := clearSets s p mask pol
    let g := (s.counters.get p).gen
    let s := if isOpen s p then
        traceRecord s p 7 0xFF false 0 0 0 0 (leBytes 8 g.toNat ++ leBytes 8 mask.toNat ++ leBytes 1 pol.toNat)
      else s
    accept s (leBytes 8 g.toNat)

def execCounterClear (s : State) : Host.Outcome State Fault Refusal := .next (doCounterClear s)

end Sys2Proof.Machine
end

