-- ==== Sys2Proof/Machine/Access.lean ====
section
/-! DEFINITION. Memory accesses of a command's units by lines. -/

namespace Sys2Proof.Machine

/-- Read consecutive lines; none when any meets an error. -/
def readLines (s : State) (p : Fin 4) (set : BitVec 16) (a stride bytes : Nat) : List Nat → State × Option (List (List Byte))
  | [] => (s, some [])
  | i :: is =>
    let r := unitRead s p set (a + i * stride) bytes
    let rest := readLines r.1 p set a stride bytes is
    (rest.1, match r.2, rest.2 with
      | some x, some xs => some (x :: xs)
      | _, _ => none)

/-- Write lines by their numbers; false when any could not be stored whole. -/
def writeLines (s : State) (p : Fin 4) (set : BitVec 16) (a stride : Nat) : List (Nat × List Byte) → State × Bool
  | [] => (s, true)
  | x :: xs =>
    let r := unitWrite s p set (a + x.1 * stride) x.2
    let rest := writeLines r.1 p set a stride xs
    (rest.1, r.2 && rest.2)

end Sys2Proof.Machine
end

