-- ==== Sys2Proof/Machine/Flags.lean ====
section
/-! DEFINITION. The warning word (R17) and the counters of conversions: saturations, flushes, accumulate-flushes
(R54, R63, R415). -/

namespace Sys2Proof.Machine

def wSaturated : BitVec 16 := 0x01
def wFlushed : BitVec 16 := 0x02
def wAccFlushed : BitVec 16 := 0x04
def wKZero : BitVec 16 := 0x08
def wScaleDefaulted : BitVec 16 := 0x10
def wGovChanged : BitVec 16 := 0x20

/-- The warning bits of counts of saturated, flushed and accumulate-flushed elements. -/
def warnOf (sats flushes accf : Nat) : BitVec 16 :=
  (if 0 < sats then wSaturated else 0) ||| (if 0 < flushes then wFlushed else 0) ||| (if 0 < accf then wAccFlushed else 0)

/-- Add a command's counts to its counters and its warning word. -/
def noteCounts (s : State) (p : Fin 4) (q : Fin 16) (n : Word) (set : BitVec 16) (sats flushes accf : Nat) : State :=
  addWarn (countAdd (countAdd (countAdd s p set 7 sats) p set 8 flushes) p set 9 accf) p q n (warnOf sats flushes accf)

/-- The counter set of a command (R413). -/
def setOf (s : State) (p : Fin 4) (q : Fin 16) (n : Word) : BitVec 16 :=
  match cmdAt s p q n with
  | some c => c.e.ctrSet
  | none => 0xFFFF

/-- Totals of a list of conversions. -/
def satsOf (cs : List Conv) : Nat := cs.countP (·.sat)
def flushesOf (cs : List Conv) : Nat := cs.countP (·.flush)

end Sys2Proof.Machine
end

