-- ==== Sys2Proof/Machine/Sluice.lean ====
section
/-! DEFINITION. MOVE, FILL, GATHER, SCATTER (R241-R246), checked and sealed copies (R244, R248-R251), MOVE to a peer
(R252, R253), BUCKET_ADD (R254) and CRC (R436, R437). Each takes its whole effect at command start (log 13). -/

namespace Sys2Proof.Machine

/-! ## Descriptors -/

/-- A check configuration block (R436). -/
structure CheckCfg where
  poly   : Nat
  flags  : Nat
  init   : Nat
  fxor   : Nat
  exp    : Nat
  okRsvd : Bool

def readCheck (bs : List Byte) (o : Nat) : CheckCfg :=
  { poly := fld bs o 1, flags := fld bs (o + 1) 1, init := fld bs (o + 8) 8, fxor := fld bs (o + 16) 8,
    exp := fld bs (o + 24) 8, okRsvd := zeroAt bs (o + 2) 6 }

/-- Reserved encodings of the block, and bits above the width (R434, R436). -/
def checkOk (c : CheckCfg) : Bool :=
  decide (c.poly ≤ 3) && decide (c.flags < 8) && c.okRsvd && decide (c.init < 2 ^ crcWidth c.poly) &&
  decide (c.fxor < 2 ^ crcWidth c.poly) && decide (c.exp < 2 ^ crcWidth c.poly)

/-- A sluice descriptor (R241) with the geometry that the opcode gives it. -/
structure SlDesc where
  bs     : List Byte
  op     : Nat
  sealed_ : Bool

namespace SlDesc
def src (d : SlDesc) : Nat := if d.bs.getD 0x20 0 &&& 1 = 1 then fld d.bs 0 8 else addrOf d.bs 0
def dst (d : SlDesc) : Nat := if d.bs.getD 0x20 0 &&& 2 = 2 then fld d.bs 8 8 else addrOf d.bs 8
def lines (d : SlDesc) : Nat := fld d.bs 0x10 4
def length (d : SlDesc) : Nat := fld d.bs 0x14 4
def sstride (d : SlDesc) : Nat := fld d.bs 0x18 4
def dstride (d : SlDesc) : Nat := fld d.bs 0x1C 4
def ends (d : SlDesc) : Nat := fld d.bs 0x20 1
def hostSrc (d : SlDesc) : Bool := d.ends % 2 == 1
def hostDst (d : SlDesc) : Bool := d.ends / 2 % 2 == 1
def peer (d : SlDesc) : Bool := d.ends / 4 % 2 == 1
def portNo (d : SlDesc) : Nat := d.ends / 8 % 8
def elem (d : SlDesc) : Nat := fld d.bs 0x21 1
def transpose (d : SlDesc) : Bool := fld d.bs 0x22 1 % 2 == 1
def checked (d : SlDesc) : Bool := fld d.bs 0x22 1 / 2 % 2 == 1
def srcFmt (d : SlDesc) : Nat := fld d.bs 0x23 1 % 16
def dstFmt (d : SlDesc) : Nat := fld d.bs 0x23 1 / 16
def mult (d : SlDesc) : Word := BitVec.ofNat 32 (fld d.bs 0x24 4)
def fill (d : SlDesc) : Nat := fld d.bs 0x28 8
def addend (d : SlDesc) : Nat := addrOf d.bs 0x28
def index (d : SlDesc) : Nat := addrOf d.bs 0x30
def icount (d : SlDesc) : Nat := fld d.bs 0x38 4
def event (d : SlDesc) : Nat := fld d.bs 0x3C 2
def check (d : SlDesc) : CheckCfg := readCheck d.bs 0x40
def result (d : SlDesc) : Nat := addrOf d.bs 0x60
def isMove (d : SlDesc) : Bool := d.op == 3
def isFill (d : SlDesc) : Bool := d.op == 4
def isBucket (d : SlDesc) : Bool := d.op == 6
def isGather (d : SlDesc) : Bool := d.op == 8
def isScatter (d : SlDesc) : Bool := d.op == 9
def indexed (d : SlDesc) : Bool := d.isGather || d.isScatter
/-- Element widths in bits of source and destination. -/
def sbits (d : SlDesc) : Nat := if d.isBucket then fmtBits d.srcFmt else 2 ^ (d.elem + 2)
def dbits (d : SlDesc) : Nat := if d.isBucket then fmtBits d.dstFmt else 2 ^ (d.elem + 2)
/-- Lines and elements per line of source and destination (R242, R243). -/
def slines (d : SlDesc) : Nat := if d.isScatter then d.icount else d.lines
def dlines (d : SlDesc) : Nat := if d.isGather then d.icount else if d.isMove && d.transpose then d.length else d.lines
def dlength (d : SlDesc) : Nat := if d.isMove && d.transpose then d.lines else d.length
def sbytes (d : SlDesc) : Nat := (d.length * d.sbits + 7) / 8
def dbytes (d : SlDesc) : Nat := (d.dlength * d.dbits + 7) / 8
end SlDesc

def slDesc (s : State) (e : Entry) : SlDesc :=
  { bs := memBytes s e.desc.toNat 128, op := e.opcode.toNat, sealed_ := flagSealed e }

/-! ## Validation (R245) -/

/-- Order 3: reserved fields and encodings; fields of another command are ignored (R9; log 14). -/
def slReserved (d : SlDesc) : Bool :=
  (d.isFill || d.hostSrc || addrHiOk d.bs 0) && (d.hostDst || addrHiOk d.bs 8) && decide (d.ends < 64) &&
  (d.isBucket || decide (d.elem ≤ 4)) && decide (fld d.bs 0x22 1 < 4) && (!d.isBucket || addrHiOk d.bs 0x28) &&
  (!d.indexed || addrHiOk d.bs 0x30) && zeroAt d.bs 0x3E 2 && zeroAt d.bs 0x68 24 &&
  decide (d.portNo ≤ 5) && (!d.peer || decide (d.event < 4096) || d.event == 0xFFFF) &&
  (!d.checked || (checkOk d.check && addrHiOk d.bs 0x60))

/-- Order 4: the combinations of R242, and SEALED with exactly one host endpoint (R251). -/
def slCombination (d : SlDesc) : Bool :=
  let n := d.hostSrc.toNat + d.hostDst.toNat + d.peer.toNat
  if d.isMove then
    decide (n ≤ 1) && (!d.transpose || n == 0) && (!d.sealed_ || d.hostSrc || d.hostDst)
  else n == 0 && !d.transpose && !d.sealed_ && (d.indexed || !d.checked)

def bucketFmts (d : SlDesc) : Bool :=
  !d.isBucket || ((d.dstFmt == 9 || d.dstFmt == 6) && (d.srcFmt == 9 || d.srcFmt == 6 || d.srcFmt == 7))

def finite32 (x : Word) : Bool := (f32dec x).isFinite

/-- Order 6: alignment, strides, a finite multiplier. -/
def slAligned (d : SlDesc) : Bool :=
  let se := max 1 (d.sbits / 8)
  let de := max 1 (d.dbits / 8)
  (d.isFill || ((d.hostSrc || d.src % se == 0) && d.sstride % se == 0 &&
    (decide (d.slines ≤ 1) || decide (d.sbytes ≤ d.sstride)))) &&
  (d.hostDst || d.dst % de == 0) && d.dstride % de == 0 && (decide (d.dlines ≤ 1) || decide (d.dbytes ≤ d.dstride)) &&
  (!d.isBucket || (d.addend % de == 0 && finite32 d.mult)) && (!d.indexed || d.index % 4 == 0) &&
  (!d.checked || d.result % 8 == 0)

/-- Order 9: every device byte in the polder's memory. -/
def slMemory (s : State) (p : Fin 4) (d : SlDesc) : Bool :=
  (d.isFill || d.hostSrc || linesOk s p false d.src (if d.indexed && d.isGather then d.lines else d.slines) d.sbytes d.sstride) &&
  (d.hostDst || d.peer ||
    linesOk s p true d.dst (if d.isScatter then d.lines else d.dlines) d.dbytes d.dstride) &&
  (!d.isBucket || d.addend == 0 || linesOk s p false d.addend d.dlines d.dbytes d.dstride) &&
  (!d.indexed || accessOk s p false d.index (4 * d.icount)) && (!d.checked || accessOk s p true d.result 8)

def slChecks (s : State) (p : Fin 4) (e : Entry) : Option Status :=
  let d := slDesc s e
  firstFail (descChecks s p e.desc.toNat 128 ++
    [(slReserved d, .descInvalid), (slCombination d, .descInvalid), (bucketFmts d, .formatUnsupported),
     (slAligned d, .descInvalid), (!(d.sealed_ || d.peer) || (polder s p).key.isSome, .keyMissing),
     (!d.peer || (port s (fin6 d.portNo)).owner == some p, .accessDenied), (slMemory s p d, .accessDenied)])

/-- Lines, length or index count zero: OK, and no memory is touched. -/
def slEmpty (d : SlDesc) : Bool := d.lines == 0 || d.length == 0 || (d.indexed && d.icount == 0)

/-! ## Lines -/

/-- A line as read: the pad nibble of an odd 4-bit line reads as zero (R34). -/
def cleanLine (bits length : Nat) (bs : List Byte) : List Byte :=
  if bits = 4 ∧ length % 2 = 1 then bs.modify (bs.length - 1) (· &&& 0x0F) else bs

/-- Element code i of a line's bytes. -/
def lineElem (w : Nat) (bs : List Byte) (i : Nat) : Nat :=
  if w = 4 then (bs.getD (i / 2) 0).toNat / (if i % 2 = 0 then 1 else 16) % 16 else fld bs (i * (w / 8)) (w / 8)

def lineElems (w n : Nat) (bs : List Byte) : List Nat := (List.range n).map (lineElem w bs)

/-- The transpose of lines of n elements. -/
def transposeLines (w n : Nat) (ls : List (List Byte)) : List (List Byte) :=
  (List.range n).map fun j => packLine w (ls.map fun l => lineElem w l j)

def dstArea (d : SlDesc) : List Area :=
  [{ host := d.hostDst, addr := d.dst, lines := if d.isScatter then d.lines else d.dlines, bytes := d.dbytes,
     stride := d.dstride }] ++
  (if d.checked then [{ host := false, addr := d.result, lines := 1, bytes := 8, stride := 8 }] else [])

/-! ## Checked copies and CRC (R244, R436) -/

/-- The C-die whose memory holds a byte of device memory: that of the S-slice, or of the D-tier block's place (R222). -/
def homeDie (s : State) (p : Fin 4) (a : Nat) : Nat :=
  if a < 2 ^ 40 then a / 2 ^ 32 else match place s p a with
    | some x => x.die.val
    | none => a / 2 ^ 40 - 1

/-- The sluice that runs a check: of the C-die or I-die that holds the first byte; which of its sluices in service is the
Keeper's choice, a free value (R435; log 6). -/
def checkUnit (s : State) (p : Fin 4) (host : Bool) (a : Nat) : Nat :=
  let n := (drawBits s 4).toNat
  let pick (ks : List Nat) := ks.getD (n % ks.length) n
  if host then 64 + pick ((List.range 8).filter fun k => (replOf s 9 0 k).isNone)
  else 16 * homeDie s p a + pick ((List.range 16).filter fun k => (replOf s 8 (homeDie s p a) k).isNone)

/-- Feed bytes through a check-value unit, write the 64-bit result, compare when asked. False when the result could
not be stored. It comes at the end of a copy (R244). -/
def runCheck (s : State) (p : Fin 4) (q : Fin 16) (n : Word) (set : BitVec 16) (c : CheckCfg) (host : Bool) (srcA at_ : Nat)
    (source : Nat) (bs : List Byte) : State × Bool :=
  let refin := c.flags % 2 == 1
  let reg := bs.foldl (crcByte c.poly refin) c.init
  let res := crcResult c.poly (c.flags / 2 % 2 == 1) c.fxor reg
  let u := checkUnit s p host srcA
  let s := nextDraw { s with sluiceCvu := tabSet 0 s.sluiceCvu u (BitVec.ofNat 64 reg) }
  let w := unitWrite s p set at_ (leBytes 8 res)
  (if c.flags / 4 % 2 == 1 && res != c.exp then
     polderEvent w.1 p 0x0601 (cvuMismatchPay source u q.val n res) else w.1, w.2)

/-! ## The common end of a copy -/

/-- The check of a checked copy over the source bytes; an unchecked copy passes. -/
def copyCheck (s : State) (p : Fin 4) (q : Fin 16) (e : Entry) (d : SlDesc) (src : List (List Byte)) : State × Bool :=
  if d.checked then runCheck s p q e.seq e.ctrSet d.check d.hostSrc d.src d.result 2 src.flatten else (s, true)

/-- The check at the end of a copy whose destination stands, and the command's end: `ok` says that every byte of the
destination was stored. -/
def endCopy (s : State) (p : Fin 4) (q : Fin 16) (e : Entry) (d : SlDesc) (src : List (List Byte)) (ok : Bool) : State :=
  if !ok then failCmd s p q e.seq .eccUncorrected else
  let c := copyCheck s p q e d src
  if c.2 then endCmd c.1 p q e.seq .ok else failCmd c.1 p q e.seq .eccUncorrected

/-- Write the destination lines, then end the command; overlap leaves the destination undefined (R243). `src` are the source
lines as read. -/
def putLines (s : State) (p : Fin 4) (q : Fin 16) (e : Entry) (d : SlDesc) (ls : List (Nat × List Byte))
    (src : List (List Byte)) : State :=
  let overlap := !d.isFill && !d.hostSrc && !d.hostDst && !d.peer &&
    areasMeet d.src (if d.isGather then d.lines else d.slines) d.sbytes d.sstride d.dst
      (if d.isScatter then d.lines else d.dlines) d.dbytes d.dstride
  if d.hostDst then
    endCopy (ls.foldl (fun s x => hostWrite s (d.dst + x.1 * d.dstride) x.2) s) p q e d src true
  else
    let w := writeLines s p e.ctrSet d.dst d.dstride ls
    let s := if overlap && w.2 then
        spoilAreas w.1 [{ host := false, addr := d.dst, lines := if d.isScatter then d.lines else d.dlines,
                          bytes := d.dbytes, stride := d.dstride }] else w.1
    endCopy s p q e d src w.2

/-- Number lines from 0. -/
def numbered (ls : List (List Byte)) : List (Nat × List Byte) := ls.mapIdx fun i l => (i, l)

/-! ## Sealed copies (R248-R250) -/

/-- Device address of byte o of the stream of lines. -/
def streamAddr (a stride bytes o : Nat) : Nat := a + o / bytes * stride + o % bytes

def chunkAad (addr len : Nat) (toHost : Bool) : List Byte :=
  leBytes 8 addr ++ leBytes 4 len ++ leBytes 1 toHost.toNat ++ zeros 3

/-- Cut a byte stream into lines of n bytes. -/
def cutLines : Nat → Nat → List Byte → List (List Byte)
  | 0, _, _ => []
  | k + 1, n, bs => bs.take n :: cutLines k n (bs.drop n)

/-- Records from device bytes: channel 0xFF, one IV per chunk. -/
def sealChunks : Nat → List Byte → BitVec 16 → DWord → Nat → Nat → Nat → Nat → List Byte → List Byte
  | 0, _, _, _, _, _, _, _, _ => []
  | k + 1, key, rank, ctr, a, stride, bytes, o, bs =>
    let pt := bs.take 65536
    let iv := ivBytes rank 0xFF ctr
    let r := gcmSeal key iv (chunkAad (streamAddr a stride bytes o) pt.length true) pt
    let rec_ := iv ++ leBytes 4 pt.length ++ r.2 ++ r.1
    padTo (roundUp rec_.length 64) rec_ ++ sealChunks k key rank (ctr + 1) a stride bytes (o + 65536) (bs.drop 65536)

/-- Plaintext of the records up to the first that fails, and whether all verified (R250). -/
def openChunks : Nat → List Byte → Nat → Nat → Nat → Nat → Nat → List Byte → List Byte × Bool
  | 0, _, _, _, _, _, _, _ => ([], true)
  | k + 1, key, a, stride, bytes, o, left, bs =>
    let len := min 65536 left
    let iv := bs.take 12
    let ct := (bs.drop 0x20).take len
    if fld bs 0x0C 4 = len ∧ iv.getD 2 0 = 0xFE then
      match gcmOpen key iv (chunkAad (streamAddr a stride bytes o) len false) ct ((bs.drop 0x10).take 16) with
      | some pt =>
        let r := openChunks k key a stride bytes (o + len) (left - len) (bs.drop (roundUp (0x20 + len) 64))
        (pt ++ r.1, r.2)
      | none => ([], false)
    else ([], false)

/-- Lines of bytes from a stream that may stop short: whole lines and a shorter last one. -/
def streamLines (n : Nat) (bs : List Byte) : List (Nat × List Byte) :=
  numbered ((cutLines ((bs.length + n - 1) / n) n bs))

/-- The part of the destination from stream offset o on, as areas. -/
def restAreas (d : SlDesc) (o : Nat) : List Area :=
  (List.range d.lines).filterMap fun i =>
    let skip := o - i * d.dbytes
    if skip < d.dbytes then
      some { host := false, addr := d.dst + i * d.dstride + skip, lines := 1, bytes := d.dbytes - skip, stride := 1 }
    else none

/-- The lines of a decrypted stream as they are written: the pad nibble of a whole 4-bit line is zero (R34). -/
def cleanStream (d : SlDesc) (ls : List (Nat × List Byte)) : List (Nat × List Byte) :=
  ls.map fun x => (x.1, if x.2.length = d.dbytes then cleanLine d.dbits d.dlength x.2 else x.2)

def moveSealed (s : State) (p : Fin 4) (q : Fin 16) (e : Entry) (d : SlDesc) (h : HostRead) (k : JobKey) : State :=
  let total := d.lines * d.sbytes
  let chunks := (total + 65535) / 65536
  if d.hostSrc then
    let r := openChunks chunks (keyBytes k.key) d.dst d.dstride d.dbytes 0 total h.data
    let w := writeLines s p e.ctrSet d.dst d.dstride (cleanStream d (streamLines d.dbytes r.1))
    if !r.2 then
      endCmd (spoilAreas w.1 (restAreas d r.1.length)) p q e.seq .accessDenied
    else endCopy w.1 p q e d [h.data] w.2
  else
    let r := readLines s p e.ctrSet d.src d.sstride d.sbytes (List.range d.lines)
    match r.2 with
    | none => failCmd r.1 p q e.seq .eccUncorrected
    | some ls =>
      let rec_ := sealChunks chunks (keyBytes k.key) k.rank (ivCounter r.1 p 0xFF 0) d.src d.sstride d.sbytes 0
        (ls.map (cleanLine d.sbits d.length)).flatten
      let s := hostWrite r.1 d.dst rec_
      let s := modPolder s p fun P => { P with ivs := tabMod 0 P.ivs (256 * 0xFF) (· + BitVec.ofNat 64 chunks) }
      endCopy s p q e d ls true

/-! ## MOVE to a peer (R252, R253) -/

/-- The write ID of a MOVE: its port and the low bits of the port's count of T2 messages, which a re-issue does not repeat
(log 10). -/
def writeId (s : State) (p : Fin 4) (j : Fin 6) : Word :=
  BitVec.ofNat 32 (j.val * 2 ^ 29 + (ivCounter s p j.val 2).toNat % 2 ^ 29)

/-- Queue one line as write-data messages of at most 4,096 bytes. -/
def queueLine : Nat → State → Fin 4 → Fin 6 → Word → Nat → List Byte → State
  | 0, s, _, _, _, _, _ => s
  | k + 1, s, p, j, id, a, bs =>
    if bs.isEmpty then s
    else queueLine k (queueSealed s p j 1 0 id a 0 (bs.take 4096)) p j id (a + 4096) (bs.drop 4096)

/-- Write data, then the write-done message that asks for the confirmation and carries the remote event. -/
def movePeer (s : State) (p : Fin 4) (q : Fin 16) (e : Entry) (d : SlDesc) (ls : List (List Byte)) : State :=
  let j := fin6 d.portNo
  let id := writeId s p j
  let s := (numbered ls).foldl (fun s x =>
    queueLine (x.2.length / 4096 + 1) s p j id (d.dst + x.1 * d.dstride) x.2) s
  let s := sendSealed s p j 2 0 id 0 0 (leBytes 2 d.event ++ zeros 14)
  let s := countAdd s p e.ctrSet 6 (d.lines * d.dbytes + 16)
  let s := modPolder s p fun P => { P with remoteOut := P.remoteOut ++ [(id, q, e.seq)] }
  setBody s p q e.seq (.remote id)

/-! ## MOVE, FILL, GATHER, SCATTER -/

/-- The host lines of an unsealed MOVE from host memory, in line order. -/
def hostLines (d : SlDesc) (h : HostRead) : List (List Byte) := cutLines d.lines d.sbytes (padTo (d.lines * d.sbytes) h.data)

def moveAct (s : State) (p : Fin 4) (q : Fin 16) (e : Entry) (d : SlDesc) (h : HostRead) : State :=
  if slEmpty d then endCmd s p q e.seq .ok else
  let s := setAreas s p q e.seq (if d.peer then [] else dstArea d)
  if (d.hostSrc || d.hostDst) && !h.granted then failCmd s p q e.seq .accessDenied
  else
    match d.sealed_, (polder s p).key with
    | true, some k => moveSealed s p q e d h k
    | _, _ =>
      let r := if d.hostSrc then (s, some (hostLines d h))
               else readLines s p e.ctrSet d.src d.sstride d.sbytes (List.range d.lines)
      match r.2 with
      | none => failCmd r.1 p q e.seq .eccUncorrected
      | some raw =>
        let ls := raw.map (cleanLine d.sbits d.length)
        if d.peer then
          let c := copyCheck (movePeer r.1 p q e d ls) p q e d raw
          if c.2 then c.1 else failCmd c.1 p q e.seq .eccUncorrected
        else putLines r.1 p q e d (numbered (if d.transpose then transposeLines d.sbits d.length ls else ls)) raw

def doMove (p : Fin 4) (q : Fin 16) (e : Entry) (h : HostRead) (s : State) : State :=
  runEntry s p q e 0x03 (fun s => slChecks s p e) fun s' => moveAct s' p q e (slDesc s e) h

def execMove (p : Fin 4) (q : Fin 16) (e : Entry) (h : HostRead) (s : State) : Host.Outcome State Fault Refusal :=
  .next (doMove p q e h s)

def fillAct (s : State) (p : Fin 4) (q : Fin 16) (e : Entry) (d : SlDesc) : State :=
  if slEmpty d then endCmd s p q e.seq .ok else
    let s := setAreas s p q e.seq (dstArea d)
    let line := packLine d.dbits (List.replicate d.length (d.fill % 2 ^ d.dbits))
    putLines s p q e d (numbered (List.replicate d.lines line)) []

def doFill (p : Fin 4) (q : Fin 16) (e : Entry) (s : State) : State :=
  runEntry s p q e 0x04 (fun s => slChecks s p e) fun s' => fillAct s' p q e (slDesc s e)

def execFill (p : Fin 4) (q : Fin 16) (e : Entry) (s : State) : Host.Outcome State Fault Refusal := .next (doFill p q e s)

/-- The index list; none when reading it meets an error. -/
def readIndices (s : State) (p : Fin 4) (set : BitVec 16) (d : SlDesc) : State × Option (List Nat) :=
  let r := unitRead s p set d.index (4 * d.icount)
  (r.1, r.2.map fun bs => (List.range d.icount).map fun k => fld bs (4 * k) 4)

/-- GATHER and SCATTER: an index not below `lines` fails the command when it is read (R242). -/
def indexedAct (s : State) (p : Fin 4) (q : Fin 16) (e : Entry) (d : SlDesc) : State :=
  if slEmpty d then endCmd s p q e.seq .ok else
    let s := setAreas s p q e.seq (dstArea d)
    let ix := readIndices s p e.ctrSet d
    match ix.2 with
    | none => failCmd ix.1 p q e.seq .eccUncorrected
    | some idx =>
      if idx.any fun i => decide (d.lines ≤ i) then failCmd ix.1 p q e.seq .descInvalid
      else
        let r := readLines ix.1 p e.ctrSet d.src d.sstride d.sbytes (if d.isGather then idx else List.range d.icount)
        match r.2 with
        | none => failCmd r.1 p q e.seq .eccUncorrected
        | some raw =>
          let ls := raw.map (cleanLine d.sbits d.length)
          putLines r.1 p q e d (if d.isGather then numbered ls else idx.zip ls) raw

def doGather (p : Fin 4) (q : Fin 16) (e : Entry) (s : State) : State :=
  runEntry s p q e 0x08 (fun s => slChecks s p e) fun s' => indexedAct s' p q e (slDesc s e)

def execGather (p : Fin 4) (q : Fin 16) (e : Entry) (s : State) : Host.Outcome State Fault Refusal :=
  .next (doGather p q e s)

def doScatter (p : Fin 4) (q : Fin 16) (e : Entry) (s : State) : State :=
  runEntry s p q e 0x09 (fun s => slChecks s p e) fun s' => indexedAct s' p q e (slDesc s e)

def execScatter (p : Fin 4) (q : Fin 16) (e : Entry) (s : State) : Host.Outcome State Fault Refusal :=
  .next (doScatter p q e s)

/-! ## BUCKET_ADD (R254) -/

/-- One element: the fused product rounded to FP32 under R61 and R62, then the bucket format. -/
def bucketElem (fmt : Nat) (x mul a : FVal) : Conv :=
  let r := fp32.convert .rne false ((x.mul mul).add a)
  if fmt = 9 then r
  else
    let b := bf16.convert .rne false (fp32.decode r.code)
    { b with sat := r.sat || b.sat, flush := r.flush || b.flush }

def bucketLine (d : SlDesc) (src add : List Byte) : List Conv :=
  (List.range d.length).map fun i =>
    bucketElem d.dstFmt (decodeElem d.srcFmt (lineElem d.sbits src i)) (f32dec d.mult)
      (if d.addend = 0 then .zero else decodeElem d.dstFmt (lineElem d.dbits add i))

def bucketAct (s : State) (p : Fin 4) (q : Fin 16) (e : Entry) (d : SlDesc) : State :=
  if slEmpty d then endCmd s p q e.seq .ok else
    let s := setAreas s p q e.seq (dstArea d)
    let r := readLines s p e.ctrSet d.src d.sstride d.sbytes (List.range d.lines)
    let r' := if d.addend = 0 then (r.1, some (List.replicate d.lines []))
              else readLines r.1 p e.ctrSet d.addend d.dstride d.dbytes (List.range d.lines)
    match r.2, r'.2 with
    | some xs, some as =>
      let cs := List.zipWith (bucketLine d) xs as
      let s := noteCounts r'.1 p q e.seq e.ctrSet (cs.map satsOf).sum (cs.map flushesOf).sum 0
      putLines s p q e d (numbered (cs.map fun c => packLine d.dbits (c.map (·.code)))) []
    | _, _ => failCmd r'.1 p q e.seq .eccUncorrected

def doBucketAdd (p : Fin 4) (q : Fin 16) (e : Entry) (s : State) : State :=
  runEntry s p q e 0x06 (fun s => slChecks s p e) fun s' => bucketAct s' p q e (slDesc s e)

def execBucketAdd (p : Fin 4) (q : Fin 16) (e : Entry) (s : State) : Host.Outcome State Fault Refusal :=
  .next (doBucketAdd p q e s)

/-! ## CRC (R436) -/

def crcLines (bs : List Byte) : Nat := fld bs 8 4
def crcBytesPer (bs : List Byte) : Nat := fld bs 0x0C 4
def crcStride (bs : List Byte) : Nat := fld bs 0x10 4

def crcChecks (s : State) (p : Fin 4) (e : Entry) : Option Status :=
  let bs := memBytes s e.desc.toNat 64
  firstFail (descChecks s p e.desc.toNat 64 ++
    [(addrHiOk bs 0 && zeroAt bs 0x14 4 && addrHiOk bs 0x18 && checkOk (readCheck bs 0x20), .descInvalid),
     (addrOf bs 0x18 % 8 == 0 && (decide (crcLines bs ≤ 1) || decide (crcBytesPer bs ≤ crcStride bs)), .descInvalid),
     (linesOk s p false (addrOf bs 0) (crcLines bs) (crcBytesPer bs) (crcStride bs) &&
        accessOk s p true (addrOf bs 0x18) 8, .accessDenied)])

def crcAct (s : State) (p : Fin 4) (q : Fin 16) (e : Entry) (bs : List Byte) : State :=
  let s := setAreas s p q e.seq [{ host := false, addr := addrOf bs 0x18, lines := 1, bytes := 8, stride := 8 }]
  let r := readLines s p e.ctrSet (addrOf bs 0) (crcStride bs) (crcBytesPer bs) (List.range (crcLines bs))
  match r.2 with
  | none => failCmd r.1 p q e.seq .eccUncorrected
  | some ls =>
    let c := runCheck r.1 p q e.seq e.ctrSet (readCheck bs 0x20) false (addrOf bs 0) (addrOf bs 0x18) 1 ls.flatten
    if c.2 then endCmd c.1 p q e.seq .ok else failCmd c.1 p q e.seq .eccUncorrected

def doCrc (p : Fin 4) (q : Fin 16) (e : Entry) (s : State) : State :=
  runEntry s p q e 0x05 (fun s => crcChecks s p e) fun s' => crcAct s' p q e (memBytes s e.desc.toNat 64)

def execCrc (p : Fin 4) (q : Fin 16) (e : Entry) (s : State) : Host.Outcome State Fault Refusal := .next (doCrc p q e s)

end Sys2Proof.Machine
end

