-- ==== Sys2Proof/Machine/Collective.lean ====
section
/-! DEFINITION. BARRIER (R277, R278) and REDUCE (R256-R264): command start, the levee tree, the data exchange, the
norm pairs, commit cells, fault tokens and timeouts. The rows that hand over received tokens and messages follow in
Ports.lean. -/

namespace Sys2Proof.Machine

/-! ## Pairs (R260) -/

/-- Two-sum with exact error. -/
def padd (x : Word × Word) (y : Word) : Word × Word :=
  let s := f32add x.1 y
  let bp := f32sub s x.1
  (s, f32add x.2 (f32add (f32sub x.1 (f32sub s bp)) (f32sub y bp)))

/-- Pair + pair. -/
def pairAdd (x y : Word × Word) : Word × Word :=
  let r := padd x y.1
  (r.1, f32add r.2 y.2)

def pairNorm (x : Word × Word) : Word × Word :=
  let h := f32add x.1 x.2
  (h, f32sub x.2 (f32sub h x.1))

/-- Add the square of one element. -/
def pairSquare (a : Word × Word) (x : Word) : Word × Word :=
  let p := f32mul x x
  let r := padd a p
  (r.1, f32add r.2 (f32fma x x (f32neg p)))

/-- The 64 lane accumulators combined by the tree of R147: element e goes to lane e mod 64 in ascending e. -/
def pairOf (xs : List (Nat × Word)) : Word × Word :=
  let lanes := (List.range 64).map fun i => (xs.filter fun x => x.1 % 64 == i).foldl (fun a x => pairSquare a x.2) (0, 0)
  (treeCombinePairs 6 lanes).headD (0, 0)
where
  treeCombinePairs : Nat → List (Word × Word) → List (Word × Word)
    | 0, xs => xs
    | n + 1, xs => treeCombinePairs n (level xs)
  level : List (Word × Word) → List (Word × Word)
    | x :: y :: rest => pairAdd x y :: level rest
    | xs => xs

def pairWord (x : Word × Word) : DWord := BitVec.ofNat 64 (x.1.toNat + 2 ^ 32 * x.2.toNat)
def wordPair (v : DWord) : Word × Word := (v.setWidth 32, (v >>> 32).setWidth 32)

/-- Combine two barrier values under a reduce op (R277); op 0 combines nothing. -/
def barrierOp (op : Nat) (a b : DWord) : DWord :=
  let lo (f : Word → Word → Word) : DWord := (f (a.setWidth 32) (b.setWidth 32)).setWidth 64
  match op with
  | 0 => a
  | 1 => lo f32add
  | 2 => lo f32max
  | 3 => lo f32min
  | 4 => lo (· + ·)
  | _ => pairWord (pairAdd (wordPair a) (wordPair b))

/-! ## The levee tree -/

def childPorts (kids : BitVec 6) : List (Fin 6) := ([0, 1, 2, 3, 4, 5] : List (Fin 6)).filter fun j => kids.getLsbD j.val

/-- The ports of a tree. -/
def treePorts (parent : Nat) (kids : BitVec 6) : List (Fin 6) :=
  (if parent < 6 then [fin6 parent] else []) ++ childPorts kids

def portsOwned (s : State) (p : Fin 4) (js : List (Fin 6)) : Bool := js.all fun j => (port s j).owner == some p

/-- The arrival of an ID from child j that `ok` accepts. -/
def arrivalFrom (P : Polder) (id : Word) (ok : DWord → Bool) (j : Fin 6) : Option DWord :=
  (P.arrivals.find? fun a => a.1 == id && a.2.1 == j.val && ok a.2.2).map (·.2.2)

/-- The arrivals of every child in ascending port number, or none while one is missing. -/
def childArrivals (P : Polder) (id : Word) (kids : BitVec 6) (ok : DWord → Bool) : Option (List DWord) :=
  (childPorts kids).mapM (arrivalFrom P id ok)

def dropArrivals (s : State) (p : Fin 4) (id : Word) (ok : DWord → Bool) : State :=
  modPolder s p fun P => { P with arrivals := P.arrivals.filter fun a => !(a.1 == id && ok a.2.2) }

/-- Send a release down the tree. -/
def releaseKids (s : State) (p : Fin 4) (kids : BitVec 6) (op : Nat) (id : Word) (v : DWord) : State :=
  (childPorts kids).foldl (fun s j => sendToken s p j 2 0 (BitVec.ofNat 3 op) id v) s

def sendArrival (s : State) (p : Fin 4) (parent op : Nat) (id : Word) (v : DWord) : State :=
  sendToken s p (fin6 parent) 1 0 (BitVec.ofNat 3 op) id v

def anyPayloadOk (_ : DWord) : Bool := true

/-! ## BARRIER -/

def barFields (d : List Byte) : Bool :=
  (decide (fld d 4 1 < 6) || fld d 4 1 == 0xFF) && decide (fld d 5 1 < 64) && decide (fld d 6 1 ≤ 5) && zeroAt d 7 1 &&
  decide (fld d 8 4 ≤ 600000) && zeroAt d 0xC 4 && addrHiOk d 0x10 && addrOf d 0x10 % 8 == 0 && addrHiOk d 0x18 &&
  addrOf d 0x18 % 8 == 0 && zeroAt d 0x20 32 && (fld d 4 1 == 0xFF || !(BitVec.ofNat 6 (fld d 5 1)).getLsbD (fld d 4 1))

def barKids (d : List Byte) : BitVec 6 := BitVec.ofNat 6 (fld d 5 1)

def barChecks (s : State) (p : Fin 4) (e : Entry) : Option Status :=
  let a := e.desc.toNat
  let d := memBytes s a 64
  let js := treePorts (fld d 4 1) (barKids d)
  firstFail (descChecks s p a 64 ++
    [(barFields d, .descInvalid), (js.isEmpty || (polder s p).key.isSome, .keyMissing), (portsOwned s p js, .accessDenied),
     (accessOk s p false (addrOf d 0x10) 8 && accessOk s p true (addrOf d 0x18) 8, .accessDenied),
     (!meetsBad s (addrOf d 0x10) 8, .eccUncorrected)])

def portSet (parent : Nat) (kids : BitVec 6) : Nat := parent + 256 * kids.toNat

/-- Remember a released barrier: the last 16 per port set (R278). -/
def remember (P : Polder) (set : Nat) (id : Word) (v : DWord) : Polder :=
  let mine := P.released.filter fun x => x.1 == set
  let old := mine.take (mine.length - 15)
  { P with released := (P.released.filter fun x => !old.contains x) ++ [(set, id, v)] }

def storedRelease (P : Polder) (set : Nat) (id : Word) : Option DWord :=
  (P.released.find? fun x => x.1 == set && x.2.1 == id).map (·.2.2)

/-- The value that a member contributes: ops 1 to 4 use the low 4 bytes. -/
def ownValue (op : Nat) (v : DWord) : DWord := if 1 ≤ op ∧ op ≤ 4 then v &&& 0xFFFFFFFF else v

/-- The result at the root: beside a 4-byte result the spec states no upper half, which is then free and goes down the tree
with the rest, so that every member writes the same bits (R277; log 21). -/
def rootResult (op : Nat) (v : DWord) : DWord :=
  if 1 ≤ op ∧ op ≤ 4 then (Config.barrierHigh op (v.toNat % 2 ^ 32)) ++ v.setWidth 32 else v

/-- Write the result and end. -/
def barResult (s : State) (p : Fin 4) (c : Cmd) (r : BarRun) (v : DWord) : State :=
  let w := unitWrite s p c.e.ctrSet r.result (leBytes 8 v.toNat)
  if w.2 then endCmd w.1 p c.q c.e.seq .ok else failCmd w.1 p c.q c.e.seq .eccUncorrected

/-- The release of a barrier: the arrivals it combined have served, it is remembered, sent down, and the result written. Until
then they are kept, for a BARRIER issued again after a discard (R278). -/
def barRelease (s : State) (p : Fin 4) (c : Cmd) (r : BarRun) (v : DWord) : State :=
  let s := modPolder (dropArrivals s p r.id anyPayloadOk) p fun P => remember P (portSet r.parent r.kids) r.id v
  barResult (releaseKids s p r.kids r.op r.id v) p c r v

/-- Combine and pass on once every child has arrived. -/
def barAdvance (s : State) (p : Fin 4) (c : Cmd) (r : BarRun) : State :=
  if r.sent then s else
  match childArrivals (polder s p) r.id r.kids anyPayloadOk with
  | none => s
  | some vs =>
    let v := vs.foldl (barrierOp r.op) r.own
    if r.parent = 0xFF then barRelease s p c r (rootResult r.op v)
    else setBody (sendArrival s p r.parent r.op r.id v) p c.q c.e.seq (.barrier { r with sent := true })

def readBar (s : State) (d : List Byte) : BarRun :=
  { id := BitVec.ofNat 32 (fld d 0 4), parent := fld d 4 1, kids := barKids d, op := fld d 6 1,
    own := ownValue (fld d 6 1) (BitVec.ofNat 64 (memNat s (addrOf d 0x10) 8)), result := addrOf d 0x18, sent := false }

def doBarrier (p : Fin 4) (q : Fin 16) (e : Entry) (s : State) : State :=
  runEntry s p q e 0x12 (fun s => barChecks s p e) fun t =>
    let d := memBytes s e.desc.toNat 64
    let r := readBar t d
    let t := noteAccess (setAreas (setBody t p q e.seq (.barrier r)) p q e.seq [flatArea r.result 8]) p e.ctrSet (addrOf d 0x10) 8
    match cmdAt t p q e.seq with
    | none => t
    | some c =>
      match storedRelease (polder t p) (portSet r.parent r.kids) r.id with
      | some v => barResult t p c r v
      | none => barAdvance t p c r
where flatArea (a n : Nat) : Area := { host := false, addr := a, lines := 1, bytes := n, stride := 0 }

def execBarrier (p : Fin 4) (q : Fin 16) (e : Entry) (s : State) : Host.Outcome State Fault Refusal := .next (doBarrier p q e s)

/-! ## The REDUCE descriptor (R256) -/

namespace RedRun
def src (r : RedRun) : Nat := addrOf r.desc 0
def dst (r : RedRun) : Nat := addrOf r.desc 8
def elems (r : RedRun) : Nat := fld r.desc 0x10 4
def fmt (r : RedRun) : Nat := fld r.desc 0x14 1
def size (r : RedRun) : Nat := fmtAlign r.fmt
def mode (r : RedRun) : Nat := fld r.desc 0x15 1
def bidir (r : RedRun) : Bool := (r.desc.getD 0x16 0).getLsbD 0
def norm (r : RedRun) : Bool := (r.desc.getD 0x16 0).getLsbD 1
def tag (r : RedRun) : Word := BitVec.ofNat 32 (fld r.desc 0x18 4)
def bucket (r : RedRun) : Nat := fld r.desc 0x1C 2
def buckets (r : RedRun) : Nat := fld r.desc 0x1E 2
def dim (r : RedRun) (d : Nat) : Nat := fld r.desc (0x20 + d) 1
def pos (r : RedRun) (d : Nat) : Nat := fld r.desc (0x23 + d) 1
/-- The + and − port of a dimension. -/
def plus (r : RedRun) (d : Nat) : Nat := fld r.desc (0x26 + 2 * d) 1
def minus (r : RedRun) (d : Nat) : Nat := fld r.desc (0x27 + 2 * d) 1
def parent (r : RedRun) : Nat := fld r.desc 0x2C 1
def kids (r : RedRun) : BitVec 6 := BitVec.ofNat 6 (fld r.desc 0x2D 1)
def normTable (r : RedRun) : Nat := addrOf r.desc 0x38
def normCell (r : RedRun) : Nat := addrOf r.desc 0x40
def commit (r : RedRun) : Nat := addrOf r.desc 0x48
/-- Dimensions of size 2 or more. -/
def dims (r : RedRun) : List Nat := [0, 1, 2].filter fun d => decide (2 ≤ r.dim d)
/-- Reduction takes place, and gathering. -/
def scatters (r : RedRun) : Bool := r.mode == 0 || r.mode == 2
def gathers (r : RedRun) : Bool := r.mode == 1 || r.mode == 2
end RedRun

def treeFields (r : RedRun) : Bool :=
  (decide (r.parent < 6) || r.parent == 0xFF) && decide (fld r.desc 0x2D 1 < 64) && !r.kids.getLsbD r.parent &&
  zeroAt r.desc 0x2E 2 && decide (fld r.desc 0x30 4 ≤ 600000) && zeroAt r.desc 0x34 4 && zeroAt r.desc 0x50 48 &&
  zeroAt r.desc 0x17 1

/-- A dimension: its position, and its ports by the rule of R257. -/
def dimOk (r : RedRun) (d : Nat) : Bool :=
  decide (1 ≤ r.dim d) && decide (r.pos d < r.dim d) &&
  (if r.dim d = 1 then r.plus d == 0xFF && r.minus d == 0xFF
   else decide (r.plus d < 6) && decide (r.minus d < 6) && (r.dim d == 2 || r.plus d != r.minus d))

/-- Fields of modes 0 to 2, the overlap and the port rule included. Of a field that the mode does not use the reserved bits are
checked all the same (log 22). -/
def bucketFields (r : RedRun) : Bool :=
  let n := r.elems * r.size
  let addr (o a : Nat) := addrHiOk r.desc o && addrOf r.desc o % a == 0
  (r.fmt == 9 || r.fmt == 6) && addrHiOk r.desc 0x38 && addr 0 r.size && addr 8 r.size && decide (2 ^ 20 ≤ n) && decide (n ≤ 2 ^ 30) &&
  decide (fld r.desc 0x16 1 < 4) && (dimOk r 0 && dimOk r 1 && dimOk r 2) && addr 0x48 16 &&
  (!(r.norm && r.scatters) || (addr 0x38 16 && decide (r.bucket < 4096))) &&
  (decide (r.src + n ≤ r.dst) || decide (r.dst + n ≤ r.src))

/-- Fields of norm-final; of those that only the other modes use, the reserved bits and codes (log 22). -/
def finalFields (r : RedRun) : Bool :=
  addrHiOk r.desc 0 && addrHiOk r.desc 8 && addrHiOk r.desc 0x48 && decide (r.fmt < 0xB) &&
  addrHiOk r.desc 0x38 && r.normTable % 16 == 0 && addrHiOk r.desc 0x40 && r.normCell % 16 == 0 &&
  decide (1 ≤ r.buckets) && decide (r.buckets ≤ 4096) && decide (fld r.desc 0x16 1 < 4)

def redPorts (r : RedRun) : List (Fin 6) :=
  treePorts r.parent r.kids ++ (if r.mode = 3 then [] else r.dims.flatMap fun d => [fin6 (r.plus d), fin6 (r.minus d)])

def redMemory (s : State) (p : Fin 4) (r : RedRun) : Bool :=
  if r.mode = 3 then accessOk s p false r.normTable (16 * r.buckets) && accessOk s p true r.normCell 16
  else
    let n := r.elems * r.size
    accessOk s p false r.src n && accessOk s p true r.dst n && accessOk s p true r.commit 16 &&
    (!(r.norm && r.scatters) || accessOk s p true (r.normTable + 16 * r.bucket) 16)

def readRed (bs : List Byte) : RedRun :=
  { desc := bs, phase := .start, attempt := 0, val := [], got := [], sent := false, sum := (0, 0) }

/-- The validation of R257. -/
def redChecks (s : State) (p : Fin 4) (e : Entry) : Option Status :=
  let a := e.desc.toNat
  let r := readRed (memBytes s a 128)
  let js := redPorts r
  firstFail (descChecks s p a 128 ++
    [(decide (r.mode ≤ 3) && treeFields r && (if r.mode = 3 then finalFields r else bucketFields r), .descInvalid),
     ((polder s p).key.isSome, .keyMissing), (portsOwned s p js, .accessDenied),
     (redMemory s p r, .accessDenied)])

/-! ## Ranges (R258) -/

def splitRange (x : Nat × Nat) (n i : Nat) : Nat × Nat := (x.1 + i * (x.2 - x.1) / n, x.1 + (i + 1) * (x.2 - x.1) / n)

def halfRange (r : RedRun) (h : Nat) : Nat × Nat := if r.bidir then splitRange (0, r.elems) 2 h else (0, r.elems)
def halfList (r : RedRun) : List Nat := if r.bidir then [0, 1] else [0]

/-- The member's range in half h after the splits of dimensions 0 to k − 1. -/
def rangeAt (r : RedRun) (h : Nat) : Nat → Nat × Nat
  | 0 => halfRange r h
  | k + 1 => splitRange (rangeAt r h k) (r.dim k) (r.pos k)

def ownedRange (r : RedRun) (h : Nat) : Nat × Nat := rangeAt r h 3

/-- The chunk of position c in dimension d. -/
def chunkRange (r : RedRun) (h d c : Nat) : Nat × Nat := splitRange (rangeAt r h d) (r.dim d) c

/-- The position after p in the direction of a half. -/
def nextPos (r : RedRun) (h d : Nat) : Nat := if h = 0 then (r.pos d + 1) % r.dim d else (r.pos d + r.dim d - 1) % r.dim d
def prevPos (r : RedRun) (h d : Nat) : Nat := if h = 0 then (r.pos d + r.dim d - 1) % r.dim d else (r.pos d + 1) % r.dim d

def sendPort (r : RedRun) (h d : Nat) : Fin 6 := fin6 (if h = 0 then r.plus d else r.minus d)
def recvPort (r : RedRun) (h d : Nat) : Fin 6 := fin6 (if h = 0 then r.minus d else r.plus d)

/-! ## Progress of an attempt -/

/-- The number of a stage: half, dimension, gathering or not. -/
def stageOf (h d : Nat) (ag : Bool) : Nat := 8 * h + 2 * d + ag.toNat
/-- The note that a stage's own chunk has been sent, and that a half's result has been written. -/
def sentNote (st : Nat) : Nat := 64 + st
def writtenNote (h : Nat) : Nat := 128 + h

def noted (r : RedRun) (k : Nat) : Bool := r.got.any fun g => g.1 == k
def note (r : RedRun) (k lo n : Nat) : RedRun := { r with got := r.got ++ [(k, lo, n)] }

/-- Elements of [lo, hi) received in a stage. -/
def received (r : RedRun) (st lo hi : Nat) : Nat :=
  ((r.got.filter fun g => g.1 == st && decide (lo ≤ g.2.1) && decide (g.2.1 < hi)).map fun g => g.2.2).sum

def receivedAt (r : RedRun) (st o : Nat) : Bool := r.got.any fun g => g.1 == st && decide (g.2.1 ≤ o) && decide (o < g.2.1 + g.2.2)

/-- The member's chunk of dimension d is fully summed. -/
def scatterDone (r : RedRun) (h d : Nat) : Bool :=
  let x := rangeAt r h (d + 1)
  received r (stageOf h d false) x.1 x.2 == x.2 - x.1

/-- Every dimension before d is summed. -/
def scatterReady (r : RedRun) (h d : Nat) : Bool := (r.dims.filter (· < d)).all (scatterDone r h)

def gatherDone (r : RedRun) (h d : Nat) : Bool :=
  let x := rangeAt r h d
  let own := rangeAt r h (d + 1)
  received r (stageOf h d true) x.1 x.2 == (x.2 - x.1) - (own.2 - own.1)

def gatherReady (r : RedRun) (h d : Nat) : Bool := noted r (writtenNote h) && (r.dims.filter (d < ·)).all (gatherDone r h)

def exchangeDone (r : RedRun) : Bool :=
  (halfList r).all fun h => noted r (writtenNote h) && (!r.gathers || r.dims.all (gatherDone r h))

/-! ## Sending and writing -/

/-- Cut [lo, hi) into pieces of at most k elements. -/
def pieces (k lo hi : Nat) : List (Nat × Nat) :=
  (List.range ((hi - lo + k - 1) / k)).map fun i => (lo + i * k, min (lo + (i + 1) * k) hi)

/-- Queue one piece of a stage, and count its payload bytes (R415). -/
def queuePiece (s : State) (p : Fin 4) (c : Cmd) (r : RedRun) (j : Fin 6) (o : Nat) (payload : List Byte) : State :=
  countAdd (queueSealed s p j 3 0 r.tag o r.attempt payload) p c.e.ctrSet 6 payload.length

def wordsBytes (xs : List Word) : List Byte := xs.flatMap fun x => leBytes 4 x.toNat

/-- Partial sums of [lo, hi) travel as binary32 (R259). -/
def sendSums (s : State) (p : Fin 4) (c : Cmd) (r : RedRun) (h d lo hi : Nat) : State :=
  flush ((pieces 1024 lo hi).foldl (fun s x =>
    queuePiece s p c r (sendPort r h d) x.1 (wordsBytes ((r.val.drop x.1).take (x.2 - x.1)))) s) (sendPort r h d)

/-- Written bits of [lo, hi) travel in the bucket FMT. -/
def sendBits (s : State) (p : Fin 4) (c : Cmd) (r : RedRun) (h d lo hi : Nat) : State :=
  flush ((pieces (4096 / r.size) lo hi).foldl (fun s x =>
    queuePiece s p c r (sendPort r h d) x.1 (memBytes s (r.dst + x.1 * r.size) ((x.2 - x.1) * r.size))) s) (sendPort r h d)

/-- Write the half's owned result: the sum rounded into the bucket FMT, or in mode 1 the source bits. -/
def writeOwned (s : State) (p : Fin 4) (c : Cmd) (r : RedRun) (h : Nat) : State × Bool :=
  let x := ownedRange r h
  if r.mode = 1 then
    let b := unitRead s p c.e.ctrSet (r.src + x.1 * r.size) ((x.2 - x.1) * r.size)
    match b.2 with
    | none => (b.1, false)
    | some bs => unitWrite b.1 p c.e.ctrSet (r.dst + x.1 * r.size) bs
  else
    let cs := ((r.val.drop x.1).take (x.2 - x.1)).map fun v => convertElem r.fmt .rne false false (f32dec v)
    let s := noteCounts s p c.q c.e.seq c.e.ctrSet (satsOf cs) (flushesOf cs) 0
    unitWrite s p c.e.ctrSet (r.dst + x.1 * r.size) (cs.flatMap fun v => leBytes r.size v.code)

/-- Begin every stage of one half that can begin; the Bool tells of memory errors. -/
def kickHalf (s : State) (p : Fin 4) (c : Cmd) (r : RedRun) (h : Nat) : State × RedRun × Bool :=
  let x := if !r.scatters then (s, r) else r.dims.foldl (fun (x : State × RedRun) d =>
    let k := sentNote (stageOf h d false)
    if noted x.2 k || !scatterReady x.2 h d then x else
    let ch := chunkRange x.2 h d (prevPos x.2 h d)
    (sendSums x.1 p c x.2 h d ch.1 ch.2, note x.2 k 0 0)) (s, r)
  let w := if !noted x.2 (writtenNote h) && (!r.scatters || r.dims.all (scatterDone x.2 h)) then
      let y := writeOwned x.1 p c x.2 h
      (y.1, note x.2 (writtenNote h) 0 0, y.2)
    else (x.1, x.2, true)
  let g := if !r.gathers then (w.1, w.2.1) else r.dims.reverse.foldl (fun (x : State × RedRun) d =>
    let k := sentNote (stageOf h d true)
    if noted x.2 k || !gatherReady x.2 h d then x else
    let own := rangeAt x.2 h (d + 1)
    (sendBits x.1 p c x.2 h d own.1 own.2, note x.2 k 0 0)) (w.1, w.2.1)
  (g.1, g.2, w.2.2)

/-! ## Barriers of a REDUCE (R262) -/

/-- Arrivals and releases carry the attempt; bit 63 marks the closing barrier (log 10). -/
def closingMark : DWord := 1#64 <<< 63
def isClosing (v : DWord) : Bool := v.getLsbD 63
def closingOf (attempt : Nat) (v : DWord) : Bool := isClosing v && v.toNat % 65536 == attempt
def startOf (v : DWord) : Bool := !isClosing v
def attemptWord (a : Nat) : DWord := BitVec.ofNat 64 a

def setRed (s : State) (p : Fin 4) (c : Cmd) (r : RedRun) : State := setBody s p c.q c.e.seq (.reduce r)

/-- The norm partial entry (R260). -/
def writePartial (s : State) (p : Fin 4) (c : Cmd) (r : RedRun) : State × Bool :=
  if !(r.norm && r.scatters) then (s, true) else
  let xs := (halfList r).flatMap fun h =>
    let x := ownedRange r h
    (List.range (x.2 - x.1)).map fun i =>
      (x.1 + i, f32enc (decodeElem r.fmt (memNat s (r.dst + (x.1 + i) * r.size) r.size)))
  let v := pairNorm (pairOf xs)
  unitWrite s p c.e.ctrSet (r.normTable + 16 * r.bucket)
    (leBytes 4 v.1.toNat ++ leBytes 4 v.2.toNat ++ withComp 4 c.step.toNat)

/-- The commit cell, after the closing release (R262). -/
def commitBytes (r : RedRun) (n : Word) : List Byte := withComp 4 r.tag.toNat ++ withComp 4 n.toNat

/-- The closing release has come: commit, pass it on, end. The destination now holds the result. -/
def redCommit (s : State) (p : Fin 4) (c : Cmd) (r : RedRun) : State :=
  let s := releaseKids s p r.kids 0 r.tag (closingMark ||| attemptWord r.attempt)
  let w := unitWrite s p c.e.ctrSet r.commit (commitBytes r c.step)
  if w.2 then setAreas (endCmd w.1 p c.q c.e.seq .ok) p c.q c.e.seq [] else failCmd w.1 p c.q c.e.seq .eccUncorrected

/-- The closing arrival, once every child has arrived at the closing barrier. -/
def closeAdvance (s : State) (p : Fin 4) (c : Cmd) (r : RedRun) : State :=
  if r.sent then setRed s p c r else
  match childArrivals (polder s p) r.tag r.kids (closingOf r.attempt) with
  | none => setRed s p c r
  | some _ =>
    let s := dropArrivals s p r.tag (closingOf r.attempt)
    if r.parent = 0xFF then redCommit s p c r
    else setRed (sendArrival s p r.parent 0 r.tag (closingMark ||| attemptWord r.attempt)) p c { r with sent := true }

/-- Begin what can begin; at the end of the exchange write the partial entry and go to the closing barrier. -/
def redKick (s : State) (p : Fin 4) (c : Cmd) (r : RedRun) : State :=
  let x := (halfList r).foldl (fun (x : State × RedRun × Bool) h =>
    let y := kickHalf x.1 p c x.2.1 h
    (y.1, y.2.1, x.2.2 && y.2.2)) (s, r, true)
  if !x.2.2 then failCmd x.1 p c.q c.e.seq .eccUncorrected
  else if exchangeDone x.2.1 then
    let w := writePartial x.1 p c x.2.1
    if w.2 then closeAdvance w.1 p c { x.2.1 with phase := .closing, sent := false }
    else failCmd w.1 p c.q c.e.seq .eccUncorrected
  else setRed x.1 p c x.2.1

/-- The start release: a new attempt begins with this member's own values (R262, R263). -/
def redBegin (s : State) (p : Fin 4) (c : Cmd) (r : RedRun) (attempt : Nat) : State :=
  let s := modPolder s p fun P => { P with attempts := tabSet 0 P.attempts r.tag.toNat attempt }
  let s := releaseKids s p r.kids 0 r.tag (attemptWord attempt)
  let r := { r with phase := .exchange, attempt := attempt, got := [], sent := false }
  if !r.scatters then redKick s p c r else
  let b := unitRead s p c.e.ctrSet r.src (r.elems * r.size)
  match b.2 with
  | none => failCmd b.1 p c.q c.e.seq .eccUncorrected
  | some bs =>
    redKick b.1 p c { r with val := (List.range r.elems).map fun i => f32enc (decodeElem r.fmt (fld bs (i * r.size) r.size)) }

/-! ## Norm-final (R261) -/

/-- The partial entries of the table; the status of the first that fails. -/
def partialChecks (s : State) (r : RedRun) (n : Word) : Option Status :=
  let es := List.range r.buckets
  let at_ (i : Nat) := r.normTable + 16 * i
  firstFail [(!meetsBad s r.normTable (16 * r.buckets), .eccUncorrected),
    (es.all fun i => compOk 4 (memNat s (at_ i + 8) 4) (memNat s (at_ i + 12) 4), .complementMismatch),
    (es.all fun i => memNat s (at_ i + 8) 4 == n.toNat, .descInvalid)]

/-- The sum of the entries in ascending index. -/
def partialSum (s : State) (r : RedRun) : Word × Word :=
  let at_ (i : Nat) := wordPair (BitVec.ofNat 64 (memNat s (r.normTable + 16 * i) 8))
  (List.range (r.buckets - 1)).foldl (fun a i => pairAdd a (at_ (i + 1))) (at_ 0)

/-- The global pair: into the norm cell with the step, and down the tree. -/
def finalRelease (s : State) (p : Fin 4) (c : Cmd) (r : RedRun) (v : DWord) : State :=
  let s := releaseKids (dropArrivals s p r.tag anyPayloadOk) p r.kids 5 r.tag v
  let x := pairNorm (wordPair v)
  let w := unitWrite s p c.e.ctrSet r.normCell (leBytes 4 x.1.toNat ++ leBytes 4 x.2.toNat ++ withComp 4 c.step.toNat)
  if w.2 then endCmd w.1 p c.q c.e.seq .ok else failCmd w.1 p c.q c.e.seq .eccUncorrected

def finalAdvance (s : State) (p : Fin 4) (c : Cmd) (r : RedRun) : State :=
  if r.sent then s else
  match childArrivals (polder s p) r.tag r.kids anyPayloadOk with
  | none => setRed s p c r
  | some vs =>
    let v := vs.foldl (barrierOp 5) (pairWord r.sum)
    if r.parent = 0xFF then finalRelease s p c r v
    else setRed (sendArrival s p r.parent 5 r.tag v) p c { r with sent := true }

/-! ## REDUCE at command start and on arrivals -/

/-- Arrive at the start barrier once every child has; the root releases with the next attempt number. -/
def startAdvance (s : State) (p : Fin 4) (c : Cmd) (r : RedRun) : State :=
  if r.sent then s else
  match childArrivals (polder s p) r.tag r.kids startOf with
  | none => setRed s p c r
  | some _ =>
    let s := dropArrivals s p r.tag startOf
    if r.parent = 0xFF then redBegin s p c r ((tabGet 0 (polder s p).attempts r.tag.toNat + 1) % 65536)
    else setRed (sendArrival s p r.parent 0 r.tag (attemptWord r.attempt)) p c { r with sent := true }

def redAdvance (s : State) (p : Fin 4) (c : Cmd) (r : RedRun) : State :=
  match r.phase with
  | .start => startAdvance s p c r
  | .exchange => s
  | .closing => closeAdvance s p c r
  | .final => finalAdvance s p c r

/-- What a REDUCE may write (R339). -/
def redAreas (r : RedRun) : List Area :=
  let flat (a n : Nat) : Area := { host := false, addr := a, lines := 1, bytes := n, stride := 0 }
  if r.mode = 3 then [flat r.normCell 16]
  else
    (if r.mode = 0 then (halfList r).map fun h =>
        let x := ownedRange r h
        flat (r.dst + x.1 * r.size) ((x.2 - x.1) * r.size)
     else [flat r.dst (r.elems * r.size)]) ++
    (if r.norm && r.scatters then [flat (r.normTable + 16 * r.bucket) 16] else [])

/-- The commit cell already holds this tag and step (R262). A cell whose complements disagree, or that cannot be read, counts
as one that does not: the exchange runs (log 46). -/
def committed (s : State) (r : RedRun) (n : Word) : Bool :=
  r.mode != 3 && !meetsBad s r.commit 16 && memBytes s r.commit 16 == commitBytes r n

def doReduce (p : Fin 4) (q : Fin 16) (e : Entry) (s : State) : State :=
  runEntry s p q e 0x07 (fun s => redChecks s p e) fun t =>
    match cmdAt t p q e.seq with
    | none => t
    | some c =>
      let r := readRed (memBytes s e.desc.toNat 128)
      let r := { r with attempt := tabGet 0 (polder t p).attempts r.tag.toNat }
      if r.mode = 3 then
        match partialChecks t r c.step with
        | some st => endCmd t p q e.seq st
        | none =>
          let u := noteAccess (setAreas t p q e.seq (redAreas r)) p e.ctrSet r.normTable (16 * r.buckets)
          finalAdvance u p c { r with phase := .final, sum := partialSum t r }
      else
        let done := committed t r c.step
        let t := noteAccess t p e.ctrSet r.commit 16
        if done then
          let t := if r.parent = 0xFF then t else sendArrival t p r.parent 0 r.tag (closingMark ||| attemptWord r.attempt)
          endCmd t p q e.seq .ok
        else startAdvance (setAreas t p q e.seq (redAreas r)) p c r

def execReduce (p : Fin 4) (q : Fin 16) (e : Entry) (s : State) : Host.Outcome State Fault Refusal := .next (doReduce p q e s)

/-! ## What received tokens and messages do -/

/-- Commands of the polder that still work. -/
def liveCmds (P : Polder) : List Cmd := P.inflight.filter fun c => c.res.isNone && !c.expired

/-- Let every BARRIER and REDUCE of an ID go on. -/
def treeAdvance (s : State) (p : Fin 4) (id : Word) : State :=
  (liveCmds (polder s p)).foldl (fun s c =>
    match c.body with
    | .barrier r => if r.id = id then barAdvance s p c r else s
    | .reduce r => if r.tag = id then redAdvance s p c r else s
    | _ => s) s

def hasTree (P : Polder) (id : Word) : Bool :=
  (liveCmds P).any fun c => match c.body with
    | .barrier r => r.id == id
    | .reduce r => r.tag == id
    | _ => false

/-- A remembered release for a child on port j (R278). -/
def rememberedFor (P : Polder) (id : Word) (j : Fin 6) : Option DWord :=
  (P.released.find? fun x => x.2.1 == id && (BitVec.ofNat 6 (x.1 / 256)).getLsbD j.val).map (·.2.2)

/-- An arrival from port j (R277, R278). -/
def takeArrival (s : State) (p : Fin 4) (j : Fin 6) (op : BitVec 3) (id : Word) (v : DWord) : State :=
  let P := polder s p
  if P.timedOut.contains id then s else
  match (if hasTree P id then none else rememberedFor P id j) with
  | some x => sendToken s p j 2 0 op id x
  | none => treeAdvance (modPolder s p fun P => { P with arrivals := P.arrivals ++ [(id, j.val, v)] }) p id

/-- Is attempt a newer than attempt b (16-bit numbers)? -/
def newer (a b : Nat) : Bool := decide (0 < (a + 65536 - b) % 65536) && decide ((a + 65536 - b) % 65536 < 32768)

/-- A release from port j for one command. -/
def releaseTo (s : State) (p : Fin 4) (j : Fin 6) (v : DWord) (c : Cmd) : State :=
  match c.body with
  | .barrier r => if r.sent ∧ r.parent = j.val then barRelease s p c r v else s
  | .reduce r =>
    if r.parent ≠ j.val then s else
    match r.phase with
    | .final => if r.sent then finalRelease s p c r v else s
    | .closing | .start =>
      if closingOf r.attempt v then redCommit s p c r
      else if startOf v ∧ (r.phase = .start ∧ r.sent ∨ newer (v.toNat % 65536) r.attempt) then
        redBegin s p c r (v.toNat % 65536)
      else s
    | .exchange => if startOf v ∧ newer (v.toNat % 65536) r.attempt then redBegin s p c r (v.toNat % 65536) else s
  | _ => s

/-- The ID of a tree command. -/
def treeId (c : Cmd) : Option Word :=
  match c.body with
  | .barrier r => some r.id
  | .reduce r => some r.tag
  | _ => none

def takeRelease (s : State) (p : Fin 4) (j : Fin 6) (id : Word) (v : DWord) : State :=
  (liveCmds (polder s p)).foldl (fun s c => if treeId c = some id then releaseTo s p j v c else s) s

/-- A fault token: every REDUCE without its closing release abandons its attempt and arrives anew (R263). -/
def abandonAttempts (s : State) (p : Fin 4) : State :=
  (liveCmds (polder s p)).foldl (fun s c =>
    match c.body with
    | .reduce r =>
      if r.mode = 3 then s else
      let s := dropArrivals s p r.tag anyPayloadOk
      startAdvance s p c { r with phase := .start, got := [], sent := false }
    | _ => s) s

/-! ## Collective data (R259) -/

/-- Half and dimension of a message at element o from port j. -/
def stageFor (r : RedRun) (j : Fin 6) (o : Nat) : Option (Nat × Nat) :=
  ((halfList r).flatMap fun h => r.dims.map fun d => (h, d)).find? fun x =>
    recvPort r x.1 x.2 == j && decide ((rangeAt r x.1 x.2).1 ≤ o) && decide (o < (rangeAt r x.1 x.2).2)

/-- The position whose chunk holds element o. -/
def chunkAt (r : RedRun) (h d o : Nat) : Nat :=
  ((List.range (r.dim d)).find? fun c => decide ((chunkRange r h d c).1 ≤ o) && decide (o < (chunkRange r h d c).2)).getD 0

/-- Is a message at element o a partial sum? The first of a chunk that this member does not begin itself is. -/
def isSum (r : RedRun) (h d o : Nat) : Bool :=
  r.scatters && chunkAt r h d o != prevPos r h d && !receivedAt r (stageOf h d false) o

/-- Add a received partial sum to this member's values (R259). -/
def addSums (r : RedRun) (o : Nat) (xs : List Word) : RedRun :=
  { r with val := r.val.take o ++ List.zipWith f32add xs ((r.val.drop o).take xs.length) ++ r.val.drop (o + xs.length) }

/-- What becomes of a collective message: it waits, it is dropped, or it is taken. -/
inductive Collected where
  | wait
  | drop
  | take (s : State)

/-- A message of the running attempt at element o (R258, R259). -/
def collect (s : State) (p : Fin 4) (c : Cmd) (r : RedRun) (j : Fin 6) (o : Nat) (payload : List Byte) : Collected :=
  match stageFor r j o with
  | none => .drop
  | some (h, d) =>
    let pos := chunkAt r h d o
    let s := countAdd s p c.e.ctrSet 6 payload.length
    if isSum r h d o then
      if !scatterReady r h d then .wait else
      let xs := (List.range (payload.length / 4)).map fun i => BitVec.ofNat 32 (fld payload (4 * i) 4)
      let r := note (addSums r o xs) (stageOf h d false) o xs.length
      let s := if pos = r.pos d then s else sendSums s p c r h d o (o + xs.length)
      .take (redKick s p c r)
    else
      let n := payload.length / r.size
      let w := unitWrite s p c.e.ctrSet (r.dst + o * r.size) payload
      if !w.2 then .take (failCmd w.1 p c.q c.e.seq .eccUncorrected) else
      let r := note r (stageOf h d true) o n
      let s := if pos = nextPos r h d then w.1 else sendBits w.1 p c r h d o (o + n)
      .take (redKick s p c r)

/-- A collective message for a tag and attempt (R263, R264). -/
def takeCollective (s : State) (p : Fin 4) (j : Fin 6) (tag : Word) (attempt o : Nat) (payload : List Byte) : Collected :=
  let P := polder s p
  if P.timedOut.contains tag then .drop else
  match (liveCmds P).find? fun c => match c.body with | .reduce r => r.tag == tag && r.mode != 3 | _ => false with
  | none => .wait
  | some c =>
    match c.body with
    | .reduce r =>
      match r.phase with
      | .exchange => if attempt = r.attempt then collect s p c r j o payload else if newer attempt r.attempt then .wait else .drop
      | _ => if newer attempt r.attempt then .wait else .drop
    | _ => .wait

/-! ## Timeouts (R263, R278) -/

/-- Arrivals already received under the ID are discarded, and it is unusable from now on (R263, R278). -/
def expireId (id : Word) (P : Polder) : Polder :=
  { P with timedOut := P.timedOut ++ [id], arrivals := P.arrivals.filter (fun a => a.1 != id) }

def doBarrierTimeout (p : Fin 4) (q : Fin 16) (n : Word) (s : State) : State :=
  match liveCmd s p q n with
  | none => s
  | some c =>
    match c.body with
    | .barrier r =>
      failCmd (modPolder s p (expireId r.id)) p q n .timeout
    | _ => s

def execBarrierTimeout (p : Fin 4) (q : Fin 16) (n : Word) (s : State) : Host.Outcome State Fault Refusal :=
  .next (doBarrierTimeout p q n s)

def doReduceTimeout (p : Fin 4) (q : Fin 16) (n : Word) (s : State) : State :=
  match liveCmd s p q n with
  | none => s
  | some c =>
    match c.body with
    | .reduce r =>
      failCmd (modPolder s p (expireId r.tag)) p q n .timeout
    | _ => s

def execReduceTimeout (p : Fin 4) (q : Fin 16) (n : Word) (s : State) : Host.Outcome State Fault Refusal :=
  .next (doReduceTimeout p q n s)

end Sys2Proof.Machine
end

