-- ==== Sys2Proof/Machine/Ports.lean ====
section
/-! DEFINITION. The receiving side of a peer port: bring-up (R266), flits and retry (R267, R269, R271), lane errors
(R273, R274), messages of the three classes (R252, R253, R268) and levee tokens (R263, R276). -/

namespace Sys2Proof.Machine

/-! ## Bring-up and retraining (R266, R271) -/

/-- Lanes that the remaps in force have taken out of service on port j (R348). -/
def lostLanes (s : State) (j : Fin 6) : List Nat :=
  ((remapsInForce s).filter fun v => rmKind v = 0xA ∧ rmUnit v / 16 = j.val).map fun v => rmUnit v % 16

/-- A port that starts bring-up: a new link with every credit, its lost lanes known. -/
def trainPort (s : State) (j : Fin 6) : State :=
  modPort s j fun P =>
    { Port.reset with st := .training, owner := P.owner, badLanes := lostLanes s j,
                      spareUsed := !(lostLanes s j).isEmpty, eq := P.eq, txFlits := P.txFlits, txTokens := P.txTokens }

/-- Up on eight lanes while at most one of the nine is lost, on four after that (R273). -/
def upStatus (P : Port) : PortStatus := if P.badLanes.length ≤ 1 then .up else .upFour

def helloBytes : List Byte := leBytes 2 0x4832 ++ [0xB0] ++ zeros 13

/-- Move the waiting tokens onto the data lanes (R274). -/
def fallBack (s : State) (j : Fin 6) : State :=
  if (port s j).fallback then s else
  let ts := (port s j).tokWait
  ts.foldl (fun s t => putToken s j t) (modPort s j fun P => { P with fallback := true, tokWait := [] })

/-- The levee lane of a port in fallback trains again: at OPEN and in a repair (R274). -/
def trainLevee (s : State) (j : Fin 6) : State := modPort s j fun P => { P with leveeTraining := P.fallback }

/-- A port comes up: its equalisation settings, whose change makes a slot rewrite due (R325), the hello message (R266), the
tokens that have waited (R271), and the fallback when the levee lane has not trained (R274). -/
def comeUp (s : State) (j : Fin 6) (x : PortTraining) : State :=
  let s := { s with slotDue := s.slotDue || (port s j).eq != x.eq }
  let s := modPort s j fun P =>
    { P with st := upStatus P, stalls := 0, replayAsked := false, eq := x.eq, leveeTraining := false }
  let s := sendPlain s j 4 1 helloBytes
  if x.levee then modPort s j (drainTokens 64) else fallBack s j

/-- A port completes bring-up only towards a ZEH-4832; otherwise it stays in electrical idle. A retrain that has not
come up yet goes on until its timeout. On a port that is up, the levee lane alone has trained, or not. -/
def doPortBringupDone (j : Fin 6) (x : PortTraining) (hello : Hello) (s : State) : State :=
  let ok := x.data && hello.device == 0x4832
  match (port s j).st with
  | .training => if ok then comeUp s j x else modPort s j idlePort
  | .retraining => if ok then comeUp s j x else s
  | .up | .upFour =>
    if (port s j).leveeTraining then
      modPort s j fun P => { P with leveeTraining := false, fallback := P.fallback && !x.levee }
    else s
  | _ => s

def execPortBringupDone (j : Fin 6) (x : PortTraining) (hello : Hello) (s : State) : Host.Outcome State Fault Refusal :=
  .next (doPortBringupDone j x hello s)

/-! ## A port of no polder (R31) -/

/-- Time and credit tokens belong to no polder. -/
def clearType (typ : Byte) : Bool := typ == 4 || typ == 5

/-- A flit that could be replayed keeps its sequence: one of T1 or T2 carries nothing, one of T3 its management messages
alone. -/
def blankFlit (P : Port) (f : List Byte) : List Byte :=
  let h := fld f 0 8
  let cut := if h / 16 % 4 = 3 then tabGet (0, 0) P.tokenPart (h / 256 % 4096) else (0, 496)
  if h % 16 = 1 then
    let m := f.take (8 + cut.1) ++ zeros cut.2 ++ (f.take 504).drop (8 + cut.1 + cut.2)
    m ++ leBytes 8 (crc64 m)
  else f

/-- Of the fallback's messages that wait, those of time and credit tokens stay; the rest of one that a flit has begun is
blanked, which keeps the stream whole. -/
def keepClear (ms : List (List Byte)) : List (List Byte) :=
  (ms.filter fun m => decide (m.length < 48) || clearType (m.getD 16 0)).map fun m =>
    if m.length < 48 then zeros m.length else m

/-- Flit bodies of a class that an emptied receive buffer frees. -/
def freedBodies (P : Port) (cls : Fin 4) : Nat := ((P.streams.get cls).length + 495) / 496

/-- A port released to no polder carries no traffic of one (R31): what waits of T1 and T2 and the sealed tokens are dropped,
what could be replayed is blanked, the receive buffers are emptied and their credits returned (log 89). -/
def freePort (P : Port) : Port :=
  fillSlots
    { P with owner := none, tokWait := P.tokWait.filter fun t => clearType t.typ,
             wait := #v[keepClear (P.wait.get 0), [], [], P.wait.get 3],
             replay := P.replay.map (blankFlit P), tokenPart := [], streams := #v[P.streams.get 0, [], [], P.streams.get 3],
             owed := vmod (vmod P.owed 1 (· + freedBodies P 1)) 2 (· + freedBodies P 2),
             faultsSeen := [], refused := [], landed := [] }

/-- A port that failed: a C2 fault of the polder that owns it. -/
def failPort (s : State) (j : Fin 6) : State :=
  let owner := (port s j).owner.toList
  faultC2 (modPort s j fun P => { idlePort P with st := .failed }) owner (faultInfo 0x09 0xA 4 (16 * j.val))

def doPortRetrainTimeout (j : Fin 6) (s : State) : State :=
  if (port s j).st = .retraining then failPort s j else s

def execPortRetrainTimeout (j : Fin 6) (s : State) : Host.Outcome State Fault Refusal := .next (doPortRetrainTimeout j s)

/-! ## Flits (R267, R269, R271) -/

/-- Drop the acked flits from the replay buffer; an ack outside it changes nothing. -/
def takeAck (P : Port) (ack : BitVec 12) : Port :=
  let n := (ack - (P.txSeq - BitVec.ofNat 12 P.replay.length) + 1).toNat
  if 0 < n ∧ n ≤ P.replay.length then { P with replay := P.replay.drop n, acked := ack, stalls := 0 } else P

/-- Replay every unacked flit; the 32nd replay without progress retrains the port. -/
def replayAll (P : Port) : Port :=
  let P := { P with txFlits := P.txFlits ++ P.replay, stalls := P.stalls + 1 }
  if 32 ≤ P.stalls then { P with st := .retraining } else P

def takeCredits (P : Port) (c : Fin 4) (n : Nat) : Port :=
  if c = 0 then P else { P with credits := vmod P.credits c (· + n) }

/-- A received flit, discarded with a replay request at the first discard after good flits, or taken: its ack and
credits, and the body of a data flit into the stream of its class. -/
def rxFlit (P : Port) (x : RxFlit) : Port :=
  let h := fld x.bytes 0 8
  let typ := h % 16
  let seq := BitVec.ofNat 12 (h / 256)
  let good := x.fecOk && x.bytes.length == 512 && leBytes 8 (crc64 (x.bytes.take 504)) == x.bytes.drop 504 &&
    (typ != 1 || seq == P.rxNext)
  if !good then
    if P.replayAsked then P else sendBare { P with replayAsked := true } 2
  else
    let P := takeCredits (takeAck { P with replayAsked := false } (BitVec.ofNat 12 (h / 2 ^ 20)))
      (fin4 (h / 2 ^ 32 % 4)) (h / 2 ^ 34 % 4096)
    let P := if typ = 1 then
        { P with rxNext := P.rxNext + 1, streams := vmod P.streams (fin4 (h / 16 % 4)) (· ++ (x.bytes.drop 8).take 496) }
      else P
    let Q := pump 2048 P
    if typ = 1 ∧ Q.replay.length = P.replay.length then sendBare Q 0 else Q

def doReplayRequestReceived (j : Fin 6) (ack : BitVec 12) (s : State) : State :=
  if portUp (port s j) then modPort s j fun P => replayAll (takeAck P ack) else s

def execReplayRequestReceived (j : Fin 6) (ack : BitVec 12) (s : State) : Host.Outcome State Fault Refusal :=
  .next (doReplayRequestReceived j ack s)

def doReplayTimeout (j : Fin 6) (s : State) : State :=
  if portUp (port s j) ∧ !(port s j).replay.isEmpty then modPort s j replayAll else s

def execReplayTimeout (j : Fin 6) (s : State) : Host.Outcome State Fault Refusal := .next (doReplayTimeout j s)

/-! ## Lane errors (R273, R274) -/

/-- Consecutive windows with uncorrectable codewords, and whether the lane fails by the criteria of R273. -/
def laneWindow (wins : Nat) (c : LaneCount) : Nat × Bool :=
  let w := if 0 < c.uncorrectable then wins + 1 else 0
  (w, decide (3 ≤ w) || decide (4096 < c.corrected))

/-- Take a lane out of service: the spare lane 8 replaces it, then four lanes carry on, then the port fails. A lost
spare lane that was not in use replaces nothing. The remap in four-lane mode names the lane itself (log 10). -/
def loseLane (s : State) (j : Fin 6) (l : Nat) : State :=
  let P := port s j
  if !portUp P ∨ P.badLanes.contains l then s
  else if P.st = .upFour then failPort s j
  else
    let s := modPort s j fun P => { P with badLanes := P.badLanes ++ [l] }
    if P.spareUsed then
      makeRemap (modPort s j fun P => { P with st := .upFour }) (mkRemap 0xA 0 (16 * j.val + l) l) 0
    else
      let s := modPort s j fun P => { P with spareUsed := true }
      if l = 8 then s else makeRemap s (mkRemap 0xA 0 (16 * j.val + l) 8) 0

/-- Has the sequence that a switch names been reached: by the flits sent, or by those received (R273)? -/
def switchDue (P : Port) (x : Bool × Nat × BitVec 12) : Bool :=
  decide (((if x.1 then P.txSeq else P.rxNext) - x.2.2).toNat < 2048)

/-- Make the switches whose sequence has been reached. -/
def settleSwitches (s : State) (j : Fin 6) : State :=
  let P := port s j
  let due := P.switchAt.filter (switchDue P)
  due.foldl (fun s x => loseLane s j x.2.1) (modPort s j fun P => { P with switchAt := P.switchAt.filter fun x => !switchDue P x })

/-- The flits that T3 fills until nothing waits on it. -/
def flitsOf3 : Nat → Port → Nat
  | 0, _ => 0
  | k + 1, P => if hasData P 3 then flitsOf3 k { P with wait := (takeBody P 3).2 } + 1 else 0

/-- A lane switch is agreed over T3: the message names the lane and the sequence of the first flit after it (log 10). -/
def switchLane (s : State) (j : Fin 6) (l : Nat) : State :=
  let msg (n : BitVec 12) := plainMsg 4 3 (leBytes 1 l ++ [0] ++ leBytes 2 n.toNat ++ zeros 12)
  let P := port s j
  let n := P.txSeq + BitVec.ofNat 12 (flitsOf3 64 (queueBytes P 3 (msg 0)))
  let s := modPort s j fun P => { queueBytes P 3 (msg n) with switchAt := P.switchAt ++ [(true, l, n)] }
  settleSwitches (flush s j) j

/-- A flit brings an ack, credits and a body; switches that its sequence or a flit sent completes are made. -/
def doFlitReceived (j : Fin 6) (x : RxFlit) (s : State) : State :=
  if portUp (port s j) then settleSwitches (modPort s j fun P => rxFlit P x) j else s

def execFlitReceived (j : Fin 6) (x : RxFlit) (s : State) : Host.Outcome State Fault Refusal := .next (doFlitReceived j x s)

/-- The end of a 1 ms window: nine data lanes, then the levee lane under the same criteria (log 10). -/
def doLaneErrorWindow (j : Fin 6) (lanes : List LaneCount) (levee : LaneCount) (s : State) : State :=
  if !portUp (port s j) then s else
  let P := port s j
  let ws := (List.range 10).map fun i => laneWindow (P.badWins.getD i 0) (if i = 9 then levee else lanes.getD i ⟨0, 0, 0⟩)
  let words := ((lanes.take 9).map (·.words)).sum + levee.words
  let s := { s with corrected := vmod s.corrected 5 (· + BitVec.ofNat 64 words) }
  let s := modPort s j fun P => { P with badWins := ws.map (·.1) }
  let s := ((List.range 9).filter fun i => (ws.getD i (0, false)).2 && !P.badLanes.contains i).foldl
    (fun s i => switchLane s j i) s
  if (ws.getD 9 (0, false)).2 then fallBack s j else s

def execLaneErrorWindow (j : Fin 6) (lanes : List LaneCount) (levee : LaneCount) (s : State) :
    Host.Outcome State Fault Refusal := .next (doLaneErrorWindow j lanes levee s)

/-! ## Messages of a stream (R268) -/

/-- A message as it stands in a stream: header fields, the header itself, the payload and the tag as carried. -/
structure Msg where
  kind    : Nat
  flags   : Nat
  id      : Word
  addr    : Nat
  attempt : Nat
  header  : List Byte
  payload : List Byte
  tag     : List Byte
  deriving DecidableEq, Repr

/-- Skip the zero padding between messages (log 10). -/
def dropPad : Nat → List Byte → List Byte
  | 0, bs => bs
  | k + 1, bs => if 16 ≤ bs.length ∧ bs.headD 0 = 0 then dropPad k (bs.drop 16) else bs

/-- The message at the head of a class's stream, once it is complete, and the rest of the stream. -/
def headMsg (P : Port) (cls : Fin 4) : Option (Msg × List Byte) :=
  let bs := dropPad 64 (P.streams.get cls)
  let kind := fld bs 0 1
  let len := fld bs 2 2
  let body := roundUp 16 len
  let total := 16 + body + (if kind ≤ 3 then 16 else 0)
  if bs.length < 16 ∨ bs.length < total then none else
  some ({ kind := kind, flags := fld bs 1 1, id := BitVec.ofNat 32 (fld bs 4 4), addr := fld bs 8 6,
          attempt := fld bs 14 2, header := bs.take 16, payload := (bs.drop 16).take len,
          tag := (bs.drop (16 + body)).take (total - 16 - body) }, bs.drop total)

/-- Take the message off the stream: the flit bodies it frees are credits, which go back with the next flits (R269,
R270). -/
def popMsg (s : State) (j : Fin 6) (cls : Fin 4) (rest : List Byte) : State :=
  modPort s j fun P =>
    let freed := ((P.streams.get cls).length + 495) / 496 - (rest.length + 495) / 496
    fillSlots { P with streams := vmod P.streams cls fun _ => rest, owed := vmod P.owed cls (· + freed) }

/-- The IV counter of received messages: one per port and class under the polder's key (R249, R268). -/
def rxChannel (j : Fin 6) : Nat := 16 + j.val

/-- The plaintext of a received message of kinds 1 to 3; none when it does not authenticate. -/
def openMsg (s : State) (p : Fin 4) (j : Fin 6) (cls : Fin 4) (m : Msg) : Option (List Byte) :=
  match (polder s p).key with
  | none => none
  | some k =>
    gcmOpen (keyBytes k.key) (ivBytes (Config.farRank j.val k.id.toNat) (Config.farPort j.val % 6)
      (ivCounter s p (rxChannel j) cls.val)) m.header m.payload m.tag

/-- Tell the sender that its message was refused (log 10). -/
def refuseMsg (s : State) (j : Fin 6) (m : Msg) : State :=
  sendPlain s j 4 2 (leBytes 4 m.id.toNat ++ leBytes 1 m.kind ++ zeros 11)

/-! ## Remote writes (R252, R253) -/

/-- Refuse a write whole: what the MOVE has stored so far is undefined. -/
def refuseWrite (s : State) (j : Fin 6) (m : Msg) : State :=
  let mine := (port s j).landed.filter fun x => x.1 == m.id
  let s := mine.foldl (fun s x => spoil s x.2.1 x.2.2) s
  refuseMsg (modPort s j fun P =>
    { P with landed := P.landed.filter (fun x => x.1 != m.id), refused := P.refused ++ [m.id] }) j m

/-- A message that fails authentication is dropped and the link retrains (R268); the write that it is part of is refused with
it, so that it is never confirmed. -/
def badMsg (s : State) (j : Fin 6) (m : Msg) : State :=
  modPort (if m.kind = 1 then refuseWrite s j m else refuseMsg s j m) j fun P => { P with st := .retraining }

def inPeerWindow (P : Polder) (a n : Nat) : Bool := decide (P.peerBase ≤ a) && decide (a + n ≤ P.peerBase + P.peerLen)

/-- A write-data message reaches polder p. -/
def landWrite (s : State) (p : Fin 4) (j : Fin 6) (m : Msg) (bs : List Byte) : State :=
  if !inPeerWindow (polder s p) m.addr bs.length then refuseWrite s j m else
  let w := memWrite s m.addr bs
  if !w.2 then refuseWrite w.1 j m else
  modPort (touch w.1 p m.addr bs.length) j fun P =>
    { P with landed := P.landed ++ [(m.id, m.addr, bs.length)] }

def doWriteDataReceived (j : Fin 6) (s : State) : State :=
  if !portUp (port s j) then s else
  match headMsg (port s j) 2 with
  | none => s
  | some (m, rest) =>
    if m.kind ≠ 1 then s else
    let t := popMsg s j 2 rest
    match (port s j).owner with
    | none => refuseWrite t j m
    | some p =>
      match openMsg s p j 2 m with
      | none => badMsg (bumpIv t p (rxChannel j) 2) j m
      | some bs => landWrite (bumpIv t p (rxChannel j) 2) p j m bs

def execWriteDataReceived (j : Fin 6) (s : State) : Host.Outcome State Fault Refusal := .next (doWriteDataReceived j s)

/-- Every byte is written: the remote event is signalled with v = 0 and the confirmation goes back; a MOVE with a
refused message is not confirmed. -/
def confirmWrite (s : State) (p : Fin 4) (j : Fin 6) (m : Msg) (bs : List Byte) : State :=
  let bad := (port s j).refused.contains m.id
  let s := modPort s j fun P =>
    { P with landed := P.landed.filter (fun x => x.1 != m.id), refused := P.refused.filter (· != m.id) }
  if bad then s else
  let ev := fld bs 0 2
  sendSealed (if ev < 4096 then signal s p ev 0 else s) p j 2 1 m.id 0 0 (zeros 16)

/-- End the MOVE that waits for an answer under a write ID; the confirmation's payload counts for it (R415). -/
def endRemote (s : State) (p : Fin 4) (id : Word) (st : Status) : State :=
  match (polder s p).remoteOut.find? fun x => x.1 == id with
  | none => s
  | some (_, q, n) =>
    let s := modPolder s p fun P => { P with remoteOut := P.remoteOut.filter fun x => x.1 != id }
    match liveCmd s p q n with
    | none => s
    | some c => if st = .ok then endCmd (countAdd s p c.e.ctrSet 6 16) p q n .ok else failCmd s p q n st

def doWriteDoneReceived (j : Fin 6) (s : State) : State :=
  if !portUp (port s j) then s else
  match headMsg (port s j) 2 with
  | none => s
  | some (m, rest) =>
    if m.kind ≠ 2 then s else
    let t := popMsg s j 2 rest
    match (port s j).owner with
    | none => refuseWrite t j m
    | some p =>
      match openMsg s p j 2 m with
      | none => badMsg (bumpIv t p (rxChannel j) 2) j m
      | some bs =>
        let t := bumpIv t p (rxChannel j) 2
        if m.flags = 1 then endRemote t p m.id .ok else confirmWrite t p j m bs

def execWriteDoneReceived (j : Fin 6) (s : State) : Host.Outcome State Fault Refusal := .next (doWriteDoneReceived j s)

/-! ## Collective data (R259, R263, R264) -/

/-- A message for a tag not yet started, or an attempt not yet begun, stays in the T1 buffer and holds back its
credits. -/
def doCollectiveDataReceived (j : Fin 6) (s : State) : State :=
  if !portUp (port s j) then s else
  match headMsg (port s j) 1 with
  | none => s
  | some (m, rest) =>
    if m.kind ≠ 3 then s else
    let t := popMsg s j 1 rest
    match (port s j).owner with
    | none => refuseMsg t j m
    | some p =>
      match openMsg s p j 1 m with
      | none => badMsg (bumpIv t p (rxChannel j) 1) j m
      | some bs =>
        let t := bumpIv t p (rxChannel j) 1
        match takeCollective t p j m.id m.attempt m.addr bs with
        | .wait => s
        | .drop => t
        | .take u => u

def execCollectiveDataReceived (j : Fin 6) (s : State) : Host.Outcome State Fault Refusal :=
  .next (doCollectiveDataReceived j s)

/-! ## Levee tokens (R276) -/

/-- A credit token consumes no credit (log 10). -/
def returnCredit (s : State) (j : Fin 6) : State :=
  if (port s j).fallback then s else
  let t : Token := { typ := 5, hop := 0, op := 0, rank := 0, id := 0, payload := 1, iv := 0, tag := 0 }
  modPort s j fun P => { P with txTokens := P.txTokens ++ [clearToken t] }

/-- The owner of the port and the payload of a sealed token under its key. -/
def sealedToken (s : State) (j : Fin 6) (t : Token) : Option (Fin 4 × DWord) :=
  match (port s j).owner with
  | none => none
  | some p =>
    match (polder s p).key with
    | none => none
    | some k => (openToken k (Config.farPort j.val % 6) t).map fun v => (p, v)

def arriveToken (s : State) (j : Fin 6) (t : Token) : State :=
  match sealedToken s j t with
  | some (p, v) => takeArrival s p j t.op t.id v
  | none => s

def releaseToken (s : State) (j : Fin 6) (t : Token) : State :=
  match sealedToken s j t with
  | some (p, v) => takeRelease s p j t.id v
  | none => s

/-- Has polder p named this fault itself, or forwarded it already? -/
def faultKnown (s : State) (p : Fin 4) (v : DWord) : Bool :=
  (portsOf s p).any (fun j => (port s j).faultsSeen.contains v) ||
  (match (polder s p).key with
    | some k => v.toNat / 2 ^ 48 == k.rank.toNat
    | none => false)

/-- A fault token: acted on and forwarded once on every other port of the polder. -/
def faultToken (s : State) (j : Fin 6) (t : Token) : State :=
  match sealedToken s j t with
  | none => s
  | some (p, v) =>
    if 16 ≤ t.hop.toNat ∨ faultKnown s p v then s else
    let s := modPort s j fun P => { P with faultsSeen := P.faultsSeen ++ [v] }
    let s := ((portsOf s p).filter (· ≠ j)).foldl (fun s i => sendToken s p i 3 (t.hop + 1) 0 t.id v) s
    abandonAttempts s p

def creditToken (s : State) (j : Fin 6) (t : Token) : State :=
  if clearOk t then
    modPort s j fun P => drainTokens 64 { P with credits := vmod P.credits 0 (· + t.payload.toNat % 65) }
  else s

/-- A token of its row's type on the levee lane of a port that is up. -/
def onLevee (s : State) (j : Fin 6) (t : Token) (typ : Byte) (act : State → State) : State :=
  if portUp (port s j) ∧ t.typ = typ then returnCredit (act s) j else s

def doLeveeArriveReceived (j : Fin 6) (t : Token) (s : State) : State := onLevee s j t 1 fun s => arriveToken s j t
def execLeveeArriveReceived (j : Fin 6) (t : Token) (s : State) : Host.Outcome State Fault Refusal :=
  .next (doLeveeArriveReceived j t s)

def doLeveeReleaseReceived (j : Fin 6) (t : Token) (s : State) : State := onLevee s j t 2 fun s => releaseToken s j t
def execLeveeReleaseReceived (j : Fin 6) (t : Token) (s : State) : Host.Outcome State Fault Refusal :=
  .next (doLeveeReleaseReceived j t s)

def doFaultTokenReceived (j : Fin 6) (t : Token) (s : State) : State := onLevee s j t 3 fun s => faultToken s j t
def execFaultTokenReceived (j : Fin 6) (t : Token) (s : State) : Host.Outcome State Fault Refusal :=
  .next (doFaultTokenReceived j t s)

def doCreditTokenReceived (j : Fin 6) (t : Token) (s : State) : State :=
  if portUp (port s j) ∧ t.typ = 5 then creditToken s j t else s
def execCreditTokenReceived (j : Fin 6) (t : Token) (s : State) : Host.Outcome State Fault Refusal :=
  .next (doCreditTokenReceived j t s)

/-! ## Management messages (R266, R273, R274) -/

/-- A token as its 32 bytes stand on the lane. -/
def tokenOf (bs : List Byte) : Token :=
  { typ := bs.getD 0 0, hop := BitVec.ofNat 5 (fld bs 1 1), op := BitVec.ofNat 3 (fld bs 1 1 / 32),
    rank := BitVec.ofNat 16 (fld bs 2 2), id := BitVec.ofNat 32 (fld bs 4 4), payload := BitVec.ofNat 64 (fld bs 8 8),
    iv := BitVec.ofNat 64 (fld bs 16 8), tag := BitVec.ofNat 64 (fld bs 24 8) }

/-- A token in fallback, as its row takes it from the lane; a time token comes in its own row. -/
def fallbackToken (s : State) (j : Fin 6) (t : Token) : State :=
  if t.typ = 1 then arriveToken s j t
  else if t.typ = 2 then releaseToken s j t
  else if t.typ = 3 then faultToken s j t
  else if t.typ = 5 then creditToken s j t else s

/-- The refusal of a message: its sender fails with ACCESS_DENIED (R252, R268). -/
def refused (s : State) (j : Fin 6) (id : Word) (kind : Nat) : State :=
  match (port s j).owner with
  | none => s
  | some p =>
    if kind ≠ 3 then endRemote s p id .accessDenied else
    match (liveCmds (polder s p)).find? fun c => treeId c == some id with
    | some c => failCmd s p c.q c.e.seq .accessDenied
    | none => s

def manage (s : State) (j : Fin 6) (m : Msg) : State :=
  if m.kind = 5 then fallbackToken s j (tokenOf m.payload)
  else
    match m.flags with
    | 1 => if fld m.payload 0 2 = 0x4832 then s else modPort s j idlePort
    | 2 => refused s j (BitVec.ofNat 32 (fld m.payload 0 4)) (fld m.payload 4 1)
    | 3 => settleSwitches (modPort s j fun P =>
        { P with switchAt := P.switchAt ++ [(false, fld m.payload 0 1, BitVec.ofNat 12 (fld m.payload 2 2))] }) j
    | _ => s

def doManagementMessageReceived (j : Fin 6) (s : State) : State :=
  if !portUp (port s j) then s else
  match headMsg (port s j) 3 with
  | none => s
  | some (m, rest) => if m.kind = 4 ∨ m.kind = 5 then manage (popMsg s j 3 rest) j m else s

def execManagementMessageReceived (j : Fin 6) (s : State) : Host.Outcome State Fault Refusal :=
  .next (doManagementMessageReceived j s)

end Sys2Proof.Machine
end

