-- ==== Sys2Proof/Machine/Blob.lean ====
section
/-! DEFINITION. The configuration blob in the bytes of a slot (R323-R325): header, section directory, sections, CRC-32C.
R324 leaves the layout of sections 1, 2, 4 and 5 to the module: log 86. -/

namespace Sys2Proof.Machine

/-! ## Sections as bytes -/

def blobMagic : Nat := 0x43424C42

/-- The largest number of soft remap entries a section holds (R349). -/
def maxSoft : Nat := 131072

/-- A remap as bytes: value and complement (R348). -/
def softEntry (c : Comp 64) : List Byte := leBytes 8 c.val.toNat ++ leBytes 8 c.comp.toNat

/-- The soft remap section (R349). -/
def softBytes (cs : List (Comp 64)) : List Byte :=
  let cs := cs.take maxSoft
  withComp 4 cs.length ++ zeros 8 ++ cs.flatMap softEntry

/-- The training cache: for each site its bin, then 8 bits of delays and levels for each channel. -/
def cacheBytes (bins : List Nat) (delays : List (BitVec 256)) : List Byte :=
  (bins.zip delays).flatMap fun x => leBytes 1 x.1 ++ leBytes 32 x.2.toNat

/-- The clock plans: 19 voltages for each C-die, FCLK, and the DCLK of each site. -/
def planBytes (plan : ClockPlan) : List Byte :=
  ((List.range 4).flatMap fun d => (List.range 19).flatMap fun i => leBytes 2 ((plan.volts.getD d []).getD i 0)) ++
  leBytes 4 plan.fclk ++ (List.range 32).flatMap fun m => leBytes 4 (plan.dclk.getD m 0)

def readPlan (x : List Byte) : ClockPlan :=
  { volts := (List.range 4).map fun d => (List.range 19).map fun i => fld x (38 * d + 2 * i) 2, fclk := fld x 152 4,
    dclk := (List.range 32).map fun m => fld x (156 + 4 * m) 4 }

/-- The equalisation cache: nine lanes for each port. -/
def eqBytes (eqs : List (List Byte)) : List Byte := (List.range 6).flatMap fun j => (padTo 9 (eqs.getD j [])).take 9

/-- The margin and wear history: its newest 65,536 entries. -/
def historyBytes (h : List DWord) : List Byte :=
  let h := h.drop (h.length - 65536)
  leBytes 4 h.length ++ h.flatMap fun v => leBytes 8 v.toNat

/-- The sections of a blob, by type. -/
def blobSections (b : Blob) : List (Nat × List Byte) :=
  [(1, cacheBytes b.bins b.delays), (2, planBytes b.plan), (3, softBytes b.remaps), (4, eqBytes b.eqs),
   (5, historyBytes b.history)]

/-- Directory entries of sections that lie one behind the other from offset o on. -/
def directory : Nat → List (Nat × List Byte) → List Byte
  | _, [] => []
  | o, x :: xs => leBytes 2 x.1 ++ zeros 2 ++ leBytes 4 o ++ leBytes 4 x.2.length ++ zeros 4 ++ directory (o + x.2.length) xs

/-- The bytes of a slot that holds blob b: bytes 0 to B − 1 and the CRC-32C (R323). -/
def blobBytes (b : Blob) : List Byte :=
  let secs := blobSections b
  let start := 64 + 16 * secs.length
  let len := start + (secs.map (·.2.length)).sum
  let m := leBytes 4 blobMagic ++ withComp 4 b.gen.toNat ++ withComp 4 len ++ leBytes 2 secs.length ++ zeros 42 ++
    directory start secs ++ secs.flatMap (·.2)
  m ++ leBytes 4 (crc32c m)

/-! ## Reading a slot -/

/-- The directory of a blob: type and bytes of each section; none when one reaches beyond B. -/
def slotSections (bs : List Byte) (len : Nat) : Option (List (Nat × List Byte)) :=
  (List.range (fld bs 0x14 2)).mapM fun i =>
    let o := 64 + 16 * i
    if fld bs (o + 4) 4 + fld bs (o + 8) 4 ≤ len then some (fld bs o 2, (bs.drop (fld bs (o + 4) 4)).take (fld bs (o + 8) 4))
    else none

/-- The entries of a soft remap section; none when its count or an entry fails its complement (R349, R355). -/
def readSoft (x : List Byte) : Option (List (Comp 64)) :=
  let n := fld x 0 4
  if compOk 4 n (fld x 4 4) && decide (n ≤ maxSoft) && decide (16 + 16 * n ≤ x.length) then
    (List.range n).mapM fun i =>
      let c : Comp 64 := { val := BitVec.ofNat 64 (fld x (16 + 16 * i) 8), comp := BitVec.ofNat 64 (fld x (24 + 16 * i) 8) }
      if compAgrees c then some c else none
  else none

/-- Magic, both complements, B and CRC of a slot (R325). -/
def slotHeaderOk (bs : List Byte) : Bool :=
  let len := fld bs 0xC 4
  fld bs 0 4 == blobMagic && compOk 4 (fld bs 4 4) (fld bs 8 4) && compOk 4 len (fld bs 0x10 4) &&
  decide (128 ≤ len) && decide (len ≤ 2 ^ 22 - 4) && decide (len + 4 ≤ bs.length) &&
  fld bs len 4 == crc32c (bs.take len) && decide (1 ≤ fld bs 0x14 2) && decide (fld bs 0x14 2 ≤ 16) &&
  decide (64 + 16 * fld bs 0x14 2 ≤ len)

/-- No reserved type, no type twice (R324). -/
def typesOk (ts : List Nat) : Bool := ts.all (fun t => decide (1 ≤ t) && decide (t ≤ 5)) && decide ts.Nodup

def section_ (secs : List (Nat × List Byte)) (t : Nat) : Option (List Byte) := (secs.find? fun x => x.1 == t).map (·.2)

/-- The blob that a slot holds; none when the slot is invalid (R325): a clock plan and soft remaps it must have. -/
def slotBlob (bs : List Byte) : Option Blob :=
  if !slotHeaderOk bs then none else
  (slotSections bs (fld bs 0xC 4)).bind fun secs =>
    if !typesOk (secs.map (·.1)) then none else
    match section_ secs 2, (section_ secs 3).bind readSoft with
    | some plan, some remaps =>
      let cache := (section_ secs 1).getD []
      let eqs := (section_ secs 4).getD []
      let hist := (section_ secs 5).getD []
      some { gen := BitVec.ofNat 32 (fld bs 4 4), remaps := remaps,
             bins := (List.range (cache.length / 33)).map fun i => fld cache (33 * i) 1,
             delays := (List.range (cache.length / 33)).map fun i => BitVec.ofNat 256 (fld cache (33 * i + 1) 32),
             plan := readPlan plan,
             eqs := (List.range (eqs.length / 9)).map fun j => (eqs.drop (9 * j)).take 9,
             history := (List.range (fld hist 0 4)).map fun i => BitVec.ofNat 64 (fld hist (4 + 8 * i) 8) }
    | _, _ => none

/-- The configuration digest: SHA-256 of bytes 0 to B + 3 (R323). -/
def slotDigest (bs : List Byte) : BitVec 256 := digest (bs.take (fld bs 0xC 4 + 4))

/-- The bytes of the slot that step 3 chose (R325). -/
def usedSlot (s : State) : List Byte :=
  match s.slotUsed with
  | some true => s.flash.slotA
  | some false => s.flash.slotB
  | none => []

/-- Is generation x the later of two, by their signed difference modulo 2^32? -/
def laterGen (x y : Word) : Bool := decide (0 < (x - y).toInt)

/-- The slot that holds the newest valid blob, true for A (R325). -/
def pickSlot (F : Flash) : Option (Bool × Blob) :=
  match slotBlob F.slotA, slotBlob F.slotB with
  | some a, some b => if laterGen b.gen a.gen then some (false, b) else some (true, a)
  | some a, none => some (true, a)
  | none, some b => some (false, b)
  | none, none => none

end Sys2Proof.Machine
end

