-- ==== Sys2Proof/Machine/Upkeep.lean ====
section
/-! DEFINITION. Upkeep of the memory sites: training (R232), refresh, calibration and drift tracking (R231),
low-power states (R235), scrubbing (R225) and the imbalance windows (R238). -/

namespace Sys2Proof.Machine

/-! ## Training (R229, R232) -/

/-- The C-die of a site, and the channels of that die behind it (R222). -/
def siteDie (m : Fin 32) : Fin 4 := fin4 (m.val / 8)
def siteChannels (m : Fin 32) : List Nat := (List.range 32).map fun c => 8 * c + m.val % 8

/-- Bin fallback: EV_SPARE_USED with kind 0xF, the site as unit and the bin code as replacement (R350). -/
def binFallback (s : State) (m : Fin 32) (bin repair : Nat) : State := spareUsedEvent s (mkRemap 0xF 0 m.val bin) repair

/-- The channels of a failed site are retired, those that are not already (R229). -/
def retireSite (s : State) (m : Fin 32) (repair : Nat) : State :=
  let d := (siteDie m).val
  makeRemaps s (((siteChannels m).filter fun c => !(retiredChannels s d).contains c).map fun c => mkRemap 7 d c 0) repair

/-- The bin that the training cache of the slot in use names for a site (R324). -/
def cachedBin (s : State) (m : Fin 32) : Option Nat := (slotBlob (usedSlot s)).bind fun b => b.bins[m.val]?

/-- DCLK in kHz at a bin (R26). -/
def binClock (b : Nat) : Nat :=
  match b with
  | 0 => 1333000
  | 1 => 1200000
  | 2 => 1067000
  | _ => 937500

/-- A site has trained at a bin, which its DCLK follows (R26); the delays and levels it found are a free value. -/
def trainSite (s : State) (m : Fin 32) (b : Nat) : State :=
  let delays : BitVec 256 := drawBits s 256
  nextDraw (modSite { s with plan := { s.plan with dclk := s.plan.dclk.set m.val (binClock b) } } m
    fun S => { S with st := .trained b, delays := delays })

/-- A site reaches a bin, or fails at the last one; a bin other than the cached one makes a slot rewrite due (R325). -/
def settleSite (s : State) (m : Fin 32) (bin : Option Nat) (repair : Nat) : State :=
  match bin with
  | some b =>
    let s := trainSite s m b
    let s := { s with slotDue := s.slotDue || cachedBin s m != some b }
    if b = 0 then s
    else binFallback { s with bootFlags := if s.boot = .training then s.bootFlags ||| 8 else s.bootFlags } m b repair
  | none => retireSite (modSite s m fun S => { S with st := .failed }) m repair

/-- A site ends training at the bin it is trying, or falls back to the next; at 7,500 MT/s it fails. -/
def doSiteTrainingDone (m : Fin 32) (good : Bool) (s : State) : State :=
  if s.boot ≠ .training ∨ (site s m).st ≠ .untrained then s else
  let bin := (site s m).trying
  if good then settleSite s m (some bin) 0
  else if bin < 3 then modSite s m fun S => { S with trying := bin + 1 }
  else settleSite s m none 0

def execSiteTrainingDone (m : Fin 32) (good : Bool) (s : State) : Host.Outcome State Fault Refusal :=
  .next (doSiteTrainingDone m good s)

/-! ## Refresh, calibration, drift (R231) -/

def siteTrained (S : Site) : Bool :=
  match S.st with
  | .trained _ => true
  | _ => false

/-- A site whose channels take commands: trained, in neither self-refresh nor deep sleep. -/
def siteAwake (S : Site) : Bool := siteTrained S && !S.selfRefresh && !S.deepSleep

/-- A per-bank refresh of a channel; in self-refresh the device refreshes itself. -/
def doRefresh (m ch : Fin 32) (s : State) : State :=
  if siteAwake (site s m) then
    modSite s m fun S => { S with refreshes := S.refreshes + 1, powerDown := S.powerDown.filter (· ≠ ch.val) }
  else s

def execRefresh (m ch : Fin 32) (s : State) : Host.Outcome State Fault Refusal := .next (doRefresh m ch s)

/-- ZQ calibration is latched; the temperature of the latch is remembered. -/
def doZqCalibration (m : Fin 32) (s : State) : State :=
  if siteTrained (site s m) then modSite s m fun S => { S with zqs := S.zqs + 1, zqTemp := S.temp } else s

def execZqCalibration (m : Fin 32) (s : State) : Host.Outcome State Fault Refusal := .next (doZqCalibration m s)

def doWckDriftTrack (m : Fin 32) (s : State) : State :=
  if siteAwake (site s m) then modSite s m fun S => { S with wcks := S.wcks + 1 } else s

def execWckDriftTrack (m : Fin 32) (s : State) : Host.Outcome State Fault Refusal := .next (doWckDriftTrack m s)

/-! ## Low-power states (R235) -/

def doChannelPowerDown (m ch : Fin 32) (s : State) : State :=
  if siteAwake (site s m) && !(site s m).powerDown.contains ch.val then
    modSite s m fun S => { S with powerDown := S.powerDown ++ [ch.val] }
  else s

def execChannelPowerDown (m ch : Fin 32) (s : State) : Host.Outcome State Fault Refusal := .next (doChannelPowerDown m ch s)

/-- Pages in each of the 8 segments of a channel that a PASR mask can leave out (log 87). -/
def segmentPages : Nat := 244141

/-- May segment i of a channel be left out: does it hold no user block, no reserve page in use and no block of a
reserved region (R235)? Of a die with a retired channel no segment is, since that channel's copies can lie in any. -/
def segmentFree (s : State) (d : Fin 4) (l i : Nat) : Bool :=
  let k := regionPages s d
  let top := if k = 0 then firstReserve s d else reservePage s d l (k - 1) + 1
  (retiredChannels s d.val).isEmpty && decide (top ≤ segmentPages * i) &&
  (usedReserve s d.val l).all fun g => g / segmentPages != i

/-- The PASR masks of a site's channels (R235). -/
def pasrMasks (s : State) (m : Fin 32) : List Nat :=
  (siteChannels m).map fun l => (((List.range 8).filter (segmentFree s (siteDie m) l)).map (2 ^ ·)).sum

/-- A site of an open polder, idle for 10 ms, enters self-refresh with an all-bank refresh and its PASR masks (R231,
R235). -/
def doSiteSelfRefresh (m : Fin 32) (s : State) : State :=
  if siteAwake (site s m) && !dieIdle s (siteDie m) then
    let masks := pasrMasks s m
    modSite s m fun S => { S with selfRefresh := true, allBank := S.allBank + 1, pasr := masks }
  else s

def execSiteSelfRefresh (m : Fin 32) (s : State) : Host.Outcome State Fault Refusal := .next (doSiteSelfRefresh m s)

/-- Sites of C-dies in no open polder sleep, the others are awake: what OPEN, CLOSE and release leave. -/
def settleSleep (s : State) : State :=
  { s with sites := s.sites.mapFinIdx fun i S h =>
      let idle := dieIdle s (siteDie ⟨i, h⟩)
      { S with deepSleep := idle && siteTrained S, selfRefresh := S.selfRefresh && !idle,
               powerDown := if idle then [] else S.powerDown, pasr := if idle then [] else S.pasr } }

/-! ## Scrubbing (R224, R225) -/

/-- A scrub pass reads the block at a D-tier address and finds `syms` bad symbols. -/
def doScrub (a syms : Nat) (s : State) : State :=
  if a < 2 ^ 40 ∨ 5 * 2 ^ 40 ≤ a ∨ syms = 0 ∨ isBad s a then s
  else if syms = 1 then correctedError s a else uncorrectable s a

def execScrub (a syms : Nat) (s : State) : Host.Outcome State Fault Refusal := .next (doScrub a syms s)

/-! ## Imbalance windows (R238) -/

/-- Megatransfers per second of a bin (R233). -/
def binRate (b : Nat) : Nat :=
  match b with
  | 0 => 10667
  | 1 => 9600
  | 2 => 8533
  | _ => 7500

/-- A tenth of what a channel of the site moves in 100 ms at its bin: 2 bytes a transfer. -/
def tenthOfBin (s : State) (m : Fin 32) : Nat :=
  match (site s m).st with
  | .trained b => binRate b * 20000
  | _ => 0

/-- The sets of channels: one for each C-die, or one for the polder in module-wide mode; each by its C-dies. -/
def channelSets (s : State) (p : Fin 4) : List (List (Fin 4)) :=
  if (polder s p).mode = 1 then [diesOf s p] else (diesOf s p).map fun d => [d]

/-- The channels of a set as (site, channel), and the bytes of one. -/
def setChannels (ds : List (Fin 4)) : List (Fin 32 × Fin 32) :=
  ds.flatMap fun d => (List.finRange 8).flatMap fun i => (List.finRange 32).map fun c => (fin32 (8 * d.val + i.val), c)
def bytesOf (P : Polder) (x : Fin 32 × Fin 32) : Nat := tabGet 0 P.chanBytes (chanKey x.1 x.2)

/-- The busiest channel of a set and its ratio to the mean in 1/16, when both conditions of R238 hold. -/
def skewed (s : State) (P : Polder) (ds : List (Fin 4)) : Option ((Fin 32 × Fin 32) × Nat) :=
  let cs := setChannels ds
  let sum := (cs.map (bytesOf P)).sum
  match cs with
  | [] => none
  | c :: _ =>
    let x := cs.foldl (fun a b => if bytesOf P a < bytesOf P b then b else a) c
    let top := bytesOf P x
    if 8 * sum < top * cs.length ∧ tenthOfBin s x.1 ≤ top ∧ 0 < top then some (x, min 0xFFFF (16 * top * cs.length / sum))
    else none

/-- The end of a 100 ms window of polder p: at most one event, for the first set that is skewed. -/
def doImbalanceWindow (p : Fin 4) (s : State) : State :=
  if !isOpen s p then s else
  let P := polder s p
  let stop := P.winStart + 100000000
  let s := match (channelSets s p).findSome? (skewed s P) with
    | some (x, r) => polderEvent s p 0x0201 (leBytes 8 stop.toNat ++ leBytes 1 x.1.val ++ leBytes 1 x.2.val ++ leBytes 2 r)
    | none => s
  modPolder s p fun P => { P with winStart := stop, chanBytes := [] }

def execImbalanceWindow (p : Fin 4) (s : State) : Host.Outcome State Fault Refusal := .next (doImbalanceWindow p s)

end Sys2Proof.Machine
end

