-- ==== Sys2Proof/Machine/Boot.lean ====
section
/-! DEFINITION. Bring-up (R317-R322, R325, R326): fuse load, image verification, the configuration slot, the clocks of
the dies, training, release; shared by POWER_GOOD, the resets and the recovery mode. -/

namespace Sys2Proof.Machine

/-! ## The firmware image (R321, R322) -/

/-- n bytes of an image region from offset o; an erased byte of the flash reads all ones. -/
def imageBytes (t : Tab Byte) (o n : Nat) : List Byte := (List.range n).map fun i => tabGet 0xFF t (o + i)
def imageField (t : Tab Byte) (o n : Nat) : Nat := leVal (imageBytes t o n)

/-- The three sections of the header as offset and length, with their largest lengths. -/
def imageSections (t : Tab Byte) : List (Nat × Nat × Nat) :=
  [(imageField t 0x10 4, imageField t 0x14 4, 65536), (imageField t 0x18 4, imageField t 0x1C 4, 6 * 2 ^ 20),
   (imageField t 0x20 4, imageField t 0x24 4, 3 * 2 ^ 19)]

def sectionsApart : List (Nat × Nat × Nat) → Bool
  | [] => true
  | x :: xs => xs.all (fun y => decide (x.1 + x.2.1 ≤ y.1) || decide (y.1 + y.2.1 ≤ x.1)) && sectionsApart xs

def sectionsOk (t : Tab Byte) : Bool :=
  let l := imageField t 0x0C 4
  (imageSections t).all (fun x => decide (64 ≤ x.1) && decide (x.1 + x.2.1 ≤ l) && decide (x.2.1 ≤ x.2.2)) &&
  sectionsApart (imageSections t)

def imageSecurity (t : Tab Byte) : Nat := imageField t 8 2
def imageVersion (t : Tab Byte) : Word := BitVec.ofNat 32 (imageField t 4 4)

/-- Every condition of R322 under the fuses of the module. -/
def imageOk (F : Fuses) (t : Tab Byte) : Bool :=
  let l := imageField t 0x0C 4
  let modulus := imageBytes t l 384
  imageField t 0 4 == 0x4B465731 && decide (imageField t 0x0A 2 < 2) && imageField t 0x28 24 == 0 &&
  decide (64 ≤ l) && decide (l + 768 ≤ 2 ^ 23) && sectionsOk t && digest modulus == F.fwDigest &&
  pssVerify modulus (imageBytes t 0 l) (imageBytes t (l + 384) 384) &&
  decide (F.floor ≤ imageSecurity t) && decide (imageSecurity t ≤ 64)

/-- Take an accepted image into service: version, digests, and the floor raised when flag [0] asks (R322). -/
def runImage (s : State) : State :=
  let t := s.flash.image
  let raise := imageField t 0x0A 2 == 1 && decide (s.fuses.floor < imageSecurity t)
  { s with fwVersion := imageVersion t, fwSecurity := BitVec.ofNat 16 (imageSecurity t),
           romDigest := digest (imageBytes t (imageField t 0x10 4) (imageField t 0x14 4)),
           fwDigest := digest (imageBytes t (imageField t 0x18 4) (imageField t 0x1C 4)),
           fuses := if raise then { s.fuses with floor := imageSecurity t } else s.fuses }

/-! ## The configuration slot (R325, R326) -/

/-- The fused base clock plan, with the nominal FCLK and the DCLK of 10,667 MT/s (R26, R320, R324). -/
def fusedPlan (F : Fuses) : ClockPlan :=
  { volts := F.basePlan.map fun d => d.map fun v => v.val.toNat, fclk := 1800, dclk := List.replicate 32 (binClock 0) }

/-- Step 3: the slot in use with its clock plans, remaps and history; or the fused base plan and no soft remap, and the
self-test in step 4 (R317, R324-R326). -/
def applySlot (s : State) : State :=
  let flags := s.bootFlags &&& 16
  match pickSlot s.flash with
  | some (a, b) =>
    { s with slotUsed := some a, slotGen := b.gen, plan := b.plan, softRemaps := b.remaps, history := b.history,
             cfgDigest := slotDigest (if a then s.flash.slotA else s.flash.slotB), selfTest := false,
             bootFlags := flags ||| (if a then 1 else 2) }
  | none =>
    { s with slotUsed := none, slotGen := 0, plan := fusedPlan s.fuses, softRemaps := [], history := [], selfTest := true,
             bootFlags := flags ||| 4 }

/-- The bin that the training cache names for a site: the last it has trained at, 0xFF for none (R324). -/
def lastBin (s : State) (m : Fin 32) : Nat :=
  match (site s m).st with
  | .trained b => b
  | _ => (cachedBin s m).getD 0xFF

/-- A blob of the module's present configuration. -/
def newBlob (s : State) (gen : Word) : Blob :=
  { gen := gen, plan := s.plan, remaps := s.softRemaps, history := s.history, bins := (List.finRange 32).map (lastBin s),
    delays := s.sites.toList.map (·.delays), eqs := s.ports.toList.map (·.eq) }

/-- Write the slot that does not hold the newest valid blob, with generation + 1. -/
def rewriteSlot (s : State) : State :=
  let s := { s with slotDue := false }
  match pickSlot s.flash with
  | some (true, b) => { s with flash := { s.flash with slotB := blobBytes (newBlob s (b.gen + 1)) } }
  | some (false, b) => { s with flash := { s.flash with slotA := blobBytes (newBlob s (b.gen + 1)) } }
  | none => { s with flash := { s.flash with slotA := blobBytes (newBlob s 1) } }

/-- The fresh blob of R326, written before release: slot A is then the slot in use. -/
def defaultSlot (s : State) : State :=
  if s.slotUsed = none then
    let s := rewriteSlot s
    { s with cfgDigest := slotDigest s.flash.slotA }
  else s

/-- The voltages as use has refined them from the plan in force (R324, R326): what the Keeper has found is a free value
within the range of the C-die rails, 650 to 850 mV (R442). -/
def refinePlan (s : State) : State :=
  let volts := (List.range 4).map fun d => (List.range 19).map fun i => 650 + (Config.freeByte s.draws (19 * d + i)).toNat % 201
  nextDraw { s with plan := { s.plan with volts := volts } }

def doConfigSlotRewrite (s : State) : State :=
  if !s.slotDue then s
  else if s.boot = .ready then rewriteSlot (refinePlan s)
  else if s.boot = .offline then rewriteSlot s else s

def execConfigSlotRewrite (s : State) : Host.Outcome State Fault Refusal := .next (doConfigSlotRewrite s)

/-! ## Steps 1 to 4 (R317) -/

/-- h(0) of a chain (R399). -/
def chainStart (serial : DWord) (nonce : BitVec 128) (c : Nat) : BitVec 256 :=
  digest (("EOHIPER-METER".toList.map fun ch => BitVec.ofNat 8 ch.toNat) ++ leBytes 8 serial.toNat ++
    leBytes 16 nonce.toNat ++ leBytes 1 c)

/-- What survives without main input: fuses and flash, the input pins, and the records of what the module has sent
to the host, which are not the module's; the count of draws goes on, so that every draw is fresh. A flash that was
being programmed stays invalid (R330). -/
def unpowered (s : State) : State :=
  { State.reset with perst := s.perst, pwrbrk := s.pwrbrk, draws := s.draws, lastRead := s.lastRead, fuses := s.fuses,
                     flash := s.flash, hostMem := s.hostMem, msix := s.msix, pending := s.pending }

/-- The bandwidth limit in percent at a site's thermal level (R234, R409). -/
def siteLimit (l : Nat) : Nat := if 4 ≤ l then 10 else if l = 3 then 25 else if l = 2 then 50 else 100

/-- The issue duty of a C-die in eighths (R406, R409, R445). -/
def dieDuty (s : State) (d : Fin 4) : Nat := if s.pwrbrk || decide (2 ≤ s.power.dieLevel.get d) then 4 else s.power.duty

/-- The bandwidth limit of every site: its thermal limit, and half at duty 4 of its die (R24, R406). -/
def settleLimits (s : State) : State :=
  { s with sites := s.sites.mapFinIdx fun i S h =>
      { S with limit := min (siteLimit S.level) (if dieDuty s (siteDie ⟨i, h⟩) = 4 then 50 else 100) } }

/-- The I-die's sluice rate and the flit slots of T1 and T2 at the I-die's level (R409). -/
def ioLimits (P : Power) : Power :=
  { P with iSluices := if 1 ≤ P.iLevel then 50 else 100, flitSlots := if 2 ≤ P.iLevel then 50 else 100 }

/-- The power state at bring-up with the sensors' levels: rails on, and PWRBRK# obeyed (R409, R445). -/
def startPower (s : State) : Power :=
  ioLimits { Power.reset with dieLevel := s.power.dieLevel, iLevel := s.power.iLevel, temps := s.power.temps, rails := true,
                              aclk := if s.pwrbrk then 1800 else 3600, duty := if s.pwrbrk then 4 else 8 }

/-- The starting points that the training cache and the equalisation cache give (R324). -/
def applyCaches (s : State) : State :=
  match slotBlob (usedSlot s) with
  | none => s
  | some b =>
    { s with sites := s.sites.mapFinIdx fun i S _ => { S with delays := b.delays.getD i 0 },
             ports := s.ports.mapFinIdx fun j P _ => { P with eq := b.eqs.getD j [] } }

/-- Steps 3 and 4 begin: the slot, the clock plans, the PLLs, the remaps; then every site and port in training. Every
site starts at 10,667 MT/s (R232). -/
def beginTraining (s : State) : State :=
  let s := applySlot s
  let s := ([0, 1, 2, 3, 4, 5] : List (Fin 6)).foldl trainPort s
  applyCaches (settleLimits { s with boot := .training, power := { s.power with locked := true },
                                     sites := s.sites.map fun S => { Site.reset with level := S.level } })

/-- Step 2: the image is accepted, or the module enters recovery mode (R331). -/
def verifyImage (s : State) : State :=
  if imageOk s.fuses s.flash.image then beginTraining (runImage s) else { s with boot := .recovery }

/-- Fuse entries agree with their complements (R320). -/
def fusesAgree (F : Fuses) : Bool :=
  F.basePlan.all (fun d => d.all compAgrees) && F.trims.all (fun x => compAgrees x.2) && F.remaps.all fun x => compAgrees x.2

/-- The banks read up to n times, until the entries agree (R320); a read returns what the fuses hold. -/
def readFuses : Nat → Fuses → Option Fuses
  | 0, _ => none
  | n + 1, F => if fusesAgree F then some F else readFuses n F

/-- A class C4 fault. Before step 3 the Keeper reads the configuration slot first, so that the fault's entry joins the margin
and wear history that the slot holds (R324, R368; log 53). -/
def faultEarly (s : State) (i : FaultInfo) : State :=
  match s.boot with
  | .fuses | .recovery | .thermalHold => faultC4 (applyCaches (applySlot s)) i
  | _ => faultC4 s i

/-- Step 1: the fuses are loaded, a pending lifecycle takes effect (R379), levee time and the chains start; a bank
that disagrees is a class C4 fault (R320). -/
def loadFuses (s : State) : State :=
  let F := if s.fuses.pending then { s.fuses with lifecycle := 3, pending := false } else s.fuses
  let nonce : BitVec 128 := drawBits s 128
  let s := { nextDraw s with
    fuses := F, trims := F.trims, bootNonce := nonce,
    chains := Vector.ofFn fun c => { Chain.reset with head := chainStart F.serial nonce c.val } }
  if (readFuses 4 F).isSome then s else faultEarly s (faultInfo 0x0D 0 4 0)

/-- Bring-up from step 1 in a module whose rails are good; the thermal levels are the sensors', not the reset's. Boot flag
[4] stays from power-up on (R328). -/
def coldStart (s : State) (lastReset : Nat) : State :=
  let b := unpowered s
  let b := { b with boot := .fuses, modPwrgd := true, lastReset := lastReset, bootFlags := s.bootFlags &&& 16,
                    hostRate := s.hostRate, hostWidth := s.hostWidth, power := startPower s,
                    sites := s.sites.map fun S => { Site.reset with level := S.level } }
  let b := loadFuses b
  settleLimits (if b.boot = .offline then b else verifyImage b)

/-! ## Release (step 5) -/

/-- EV_SPARE_LOW again for every pool that is low (R351). -/
def lowEvents (s : State) : State := ((usedPools s).filter (poolLow s)).foldl raiseLow s

/-- The admin mailbox opens: the module is ready. -/
def releaseNow (s : State) : State :=
  lowEvents (settleSleep { s with boot := .ready, releaseTime := leveeTime s })

/-- Every site has ended training, and the self-test of step 4 when it runs: what that finds comes as FAULT_DETECTED, and
it ends when the repairs of it have (log 88). -/
def trainingEnded (s : State) : Bool :=
  (s.sites.toList.all fun S => S.st != .untrained) && !(s.selfTest && s.reports.any (·.active))

def doRelease (s : State) : State :=
  if s.boot = .training ∧ trainingEnded s then releaseNow { defaultSlot s with selfTest := false } else s

def execRelease (s : State) : Host.Outcome State Fault Refusal := .next (doRelease s)

/-! ## Power, and the end of a thermal hold (R442, R443, R446) -/

/-- An image region that is being programmed is invalid after a power loss or a reset (R330, R334). -/
def spoilImage (s : State) : State :=
  if s.fw.st = .programming then { s with flash := { s.flash with image := [] } } else s

/-- Main input reaches power good. -/
def doPowerGood (s : State) : State := if s.boot = .off then coldStart s 0 else s

def execPowerGood (s : State) : Host.Outcome State Fault Refusal := .next (doPowerGood s)

/-- Main input is lost: MOD_PWRGD is deasserted, nothing is held. -/
def doInputLoss (s : State) : State := unpowered (spoilImage s)

def execInputLoss (s : State) : Host.Outcome State Fault Refusal := .next (doInputLoss s)

/-- Every thermal level of R409 has been left. -/
def levelsLeft (s : State) : Bool :=
  s.power.dieLevel.toList.all (· == 0) && s.power.iLevel == 0 && s.sites.toList.all fun S => decide (S.level ≤ 1)

/-- A PERST# during a critical trip restarts bring-up only now. -/
def leaveHold (s : State) : State :=
  if s.boot = .thermalHold ∧ levelsLeft s then (if s.perst then { s with boot := .fuses } else coldStart s 1) else s

/-! ## The derivation engine (R380) -/

/-- The identity key pair is derived from the end of fuse load on. -/
def doIdentityDerivationDone (s : State) : State := if clocked s then { s with identity := true } else s

def execIdentityDerivationDone (s : State) : Host.Outcome State Fault Refusal := .next (doIdentityDerivationDone s)

end Sys2Proof.Machine
end

