-- ==== Sys2Proof/Machine/Firmware.lean ====
section
/-! DEFINITION. FW_WRITE (R328-R330). -/

namespace Sys2Proof.Machine

def setFw (s : State) (f : Fw → Fw) : State := { s with fw := f s.fw }

/-- The staged image of FW_WRITE is dropped; a recovery that has begun stays (R329, R332). -/
def idleFw (F : Fw) : Fw := { F with st := .idle, length := 0, staged := [], written := [] }

/-- Does a polder exist? -/
def polderExists (s : State) : Bool := s.layout != .none

/-- Reserved bytes of the header; the length field is zero except in data (R328). -/
def fwRsvd (b : List Byte) (isData : Bool) : Bool :=
  zeroAt b 1 3 && zeroAt b 0xC 4 && (if isData then decide (fld b 8 4 ≤ 4016) && decide (16 + fld b 8 4 ≤ b.length) else zeroAt b 8 4)

def serveFw (s : State) (typ op : Nat) (isData : Bool) (act : State → List Byte → Answer) : State :=
  serve s 0 typ 16 (opIs op) fun s b => if fwRsvd b isData then act s b else refuse s .descInvalid

def fwStateCode : FwState → Nat
  | .idle => 0
  | .staging => 1
  | .programming => 2
  | .programmed => 3
  | .failed => 4

/-- Programming progress in percent: the time course is the module's own, so it is free while programming and after a
failure (log 26). -/
def fwProgress (s : State) : Nat :=
  match s.fw.st with
  | .idle | .staging => 0
  | .programming | .failed => (Config.freeByte s.draws 0).toNat % 101
  | .programmed => 100

def doFwWriteQuery (s : State) : State :=
  serveFw s 4 0 false fun s _ =>
    let v := if imageOk s.fuses s.flash.image then (imageVersion s.flash.image).toNat else 0
    accept (nextDraw s) (leBytes 4 s.fwVersion.toNat ++ leBytes 4 v ++ leBytes 2 s.fwSecurity.toNat ++
      leBytes 2 s.fuses.floor ++ leBytes 1 (fwStateCode s.fw.st) ++ leBytes 1 (fwProgress s) ++ [s.bootFlags] ++
      leBytes 1 s.lastReset ++ leBytes 4 s.slotGen.toNat ++ zeros 4 ++ leBytes 8 s.releaseTime.toNat)

def execFwWriteQuery (s : State) : Host.Outcome State Fault Refusal := .next (doFwWriteQuery s)

def fwLengthOk (n : Nat) : Bool := decide (1024 ≤ n) && decide (n ≤ 2 ^ 23)

def doFwWriteBegin (s : State) : State :=
  serveFw s 4 1 false fun s b =>
    if polderExists s || s.fw.st == .programming then refuse s .accessDenied
    else if !fwLengthOk (fld b 4 4) then refuse s .descInvalid
    else accept (setFw s fun F => { F with st := .staging, length := fld b 4 4, staged := [], written := [] })

def execFwWriteBegin (s : State) : Host.Outcome State Fault Refusal := .next (doFwWriteBegin s)

/-- Bytes staged, and their interval noted. -/
def stage (F : Fw) (o : Nat) (bs : List Byte) : Fw :=
  if bs.isEmpty then F
  else { F with staged := tabSplice 0xFF F.staged o bs, written := F.written ++ [(o, o + bs.length)] }

def doFwWriteData (s : State) : State :=
  serveFw s 4 2 true fun s b =>
    let n := fld b 8 4
    if s.fw.st ≠ .staging then refuse s .accessDenied
    else if s.fw.length < fld b 4 4 + n then refuse s .descInvalid
    else accept (setFw s fun F => stage F (fld b 4 4) ((b.drop 16).take n))

def execFwWriteData (s : State) : Host.Outcome State Fault Refusal := .next (doFwWriteData s)

/-- How far the written intervals reach from byte 0 without a gap. -/
def reach : Nat → List (Nat × Nat) → Nat → Nat
  | 0, _, r => r
  | k + 1, xs, r => reach k xs ((xs.filter fun x => decide (x.1 ≤ r)).foldl (fun m x => max m x.2) r)

def fwComplete (F : Fw) : Bool := decide (F.length ≤ reach (F.written.length + 1) F.written 0)

/-- Commit: the staged image passes R322, and programming starts by erasing the image region. -/
def doFwWriteCommit (s : State) : State :=
  serveFw s 4 3 false fun s _ =>
    if s.fw.st ≠ .staging then refuse s .accessDenied
    else if !fwComplete s.fw then refuse s .descInvalid
    else if imageOk s.fuses s.fw.staged then
      accept { (setFw s fun F => { F with st := .programming }) with flash := { s.flash with image := [] } }
    else refuse (setFw s idleFw) .accessDenied

def execFwWriteCommit (s : State) : Host.Outcome State Fault Refusal := .next (doFwWriteCommit s)

def doFwWriteAbort (s : State) : State :=
  serveFw s 4 4 false fun s _ =>
    if s.fw.st = .staging then accept (setFw s idleFw) else refuse s .accessDenied

def execFwWriteAbort (s : State) : Host.Outcome State Fault Refusal := .next (doFwWriteAbort s)

/-- The read-back digest agrees with the staged image's, or not (R330). -/
def doFwProgrammingDone (good : Bool) (s : State) : State :=
  if s.fw.st ≠ .programming then s
  else if good then { (setFw s fun F => { F with st := .programmed }) with flash := { s.flash with image := s.fw.staged } }
  else setFw s fun F => { F with st := .failed }

def execFwProgrammingDone (good : Bool) (s : State) : Host.Outcome State Fault Refusal := .next (doFwProgrammingDone good s)

end Sys2Proof.Machine
end

