-- ==== Sys2Proof/Machine/Layer.lean ====
section
/-! DEFINITION. The layer descriptor (R99-R105), the PREC word and the widths in force (R108-R111, R181, R185, R365),
the validation of MM (R114, R125, R131), tiles, splits and work items (R115, R116, R118). -/

namespace Sys2Proof.Machine

/-! ## Reading the descriptor -/

/-- The layer descriptor at address a (R99, R105). -/
def readLayer (s : State) (a : Nat) : MmDesc :=
  let bs := memBytes s a 256
  { a := readTensor bs 0, b := readTensor bs 0x20, c := readTensor bs 0x40, bias := readTensor bs 0x60,
    prec := { val := BitVec.ofNat 16 (fld bs 0x80 2), comp := BitVec.ofNat 16 (fld bs 0x82 2) },
    layer := fld bs 0x84 2, gauge := fld bs 0x86 2, slotByte := bs.getD 0x88 0, epi := bs.getD 0x89 0,
    split := fld bs 0x8A 1, tileM := fld bs 0x8C 2, tileN := fld bs 0x8E 2, base := fld bs 0x90 2,
    count := fld bs 0x92 2, epiPtr := addrOf bs 0x98, epiPtrHi := BitVec.ofNat 16 (fld bs 0x9E 2),
    clipLo := BitVec.ofNat 32 (fld bs 0xA0 4), clipHi := BitVec.ofNat 32 (fld bs 0xA4 4),
    scratch := addrOf bs 0xA8, scratchHi := BitVec.ofNat 16 (fld bs 0xAE 2), scratchSize := fld bs 0xB0 8,
    rsvd := fld bs 0x8B 1 + fld bs 0x94 4 + fld bs 0xB8 72 }

namespace MmDesc

/-- M, K and N (R102). -/
def m (d : MmDesc) : Nat := if d.a.tr then d.a.length else d.a.lines
def k (d : MmDesc) : Nat := if d.a.tr then d.a.lines else d.a.length
def n (d : MmDesc) : Nat := if d.b.tr then d.b.length else d.b.lines

/-- Fields of the PREC word (R108). -/
def widthA (d : MmDesc) : Nat := d.prec.val.toNat % 4
def widthB (d : MmDesc) : Nat := d.prec.val.toNat / 4 % 4
def serial (d : MmDesc) : Bool := d.prec.val.getLsbD 4
def compensated (d : MmDesc) : Bool := d.prec.val.getLsbD 5
def governed (d : MmDesc) : Bool := d.prec.val.getLsbD 6
def bandMin (d : MmDesc) : Nat := d.prec.val.toNat / 128 % 4
def bandMax (d : MmDesc) : Nat := d.prec.val.toNat / 512 % 4
def g2 (d : MmDesc) : Bool := d.prec.val.getLsbD 11

/-- Epilogue flags (R112). -/
def scaleEn (d : MmDesc) : Bool := d.epi.getLsbD 0
def scalePerCol (d : MmDesc) : Bool := d.epi.getLsbD 1
def biasEn (d : MmDesc) : Bool := d.epi.getLsbD 2
def clipEn (d : MmDesc) : Bool := d.epi.getLsbD 3
def pairEn (d : MmDesc) : Bool := d.epi.getLsbD 4
def flushEn (d : MmDesc) : Bool := d.epi.getLsbD 5

/-- Slot number and size in cube-rows (R105). -/
def slot (d : MmDesc) : Nat := d.slotByte.toNat % 8
def slotSize (d : MmDesc) : Nat := 2 ^ (d.slotByte.toNat / 8 % 4)

def tm (d : MmDesc) : Nat := if d.tileM = 0 then 256 else d.tileM
def tn (d : MmDesc) : Nat := if d.tileN = 0 then 256 else d.tileN
def splitCap (d : MmDesc) : Nat := if d.split = 0 then 16 else d.split

/-- No output at all (R125), and no operand to read (R126). -/
def empty (d : MmDesc) : Bool := d.m == 0 || d.n == 0
def operands (d : MmDesc) : Bool := !d.empty && d.k != 0

/-- The starting width: width A, or width B when A is the CB4 operand (R110). -/
def start (d : MmDesc) : Nat := if d.a.fmt = 2 then d.widthB else d.widthA

end MmDesc

/-! ## Widths and formats in force -/

/-- The format an operand of a native format is read in at a width class (R47). -/
def widthFmt (fmt cls : Nat) : Option Nat :=
  match fmt with
  | 0 | 5 | 8 => ([some 0, some 5, some 8, none] : List (Option Nat)).getD cls none
  | 1 | 3 | 4 => ([some fmt, some 6, some 7, some 9] : List (Option Nat)).getD cls none
  | 6 | 7 | 9 => ([some 3, some 6, some 7, some 9] : List (Option Nat)).getD cls none
  | 2 => if cls = 0 then some 2 else none
  | _ => none

/-- The native width class (R32). -/
def nativeClass (fmt : Nat) : Nat :=
  match fmt with
  | 5 | 6 => 1
  | 7 | 8 => 2
  | 9 | 0xA => 3
  | _ => 0

def layerOf (P : Polder) (id : Nat) : Option Layer := tabGet none P.layers id

/-- Is step n one of the sixteen defaulted steps after a load without scale history (R365)? -/
def defaultedAt (P : Polder) (n : Word) : Bool :=
  match P.defaulted with
  | some d => decide ((n - d).toNat < 16)
  | none => false
def inDefaulted (P : Polder) : Bool := defaultedAt P P.step

/-- The governor's width for a command of layer `id` with starting width w (R110, R181, R189, R365). -/
def governorWidth (P : Polder) (id w : Nat) : Nat :=
  match layerOf P id with
  | none => w
  | some L => if inDefaulted P then 2 else L.width.getD w

/-- Widths in force of A and B (R109, R110). -/
def widthsInForce (P : Polder) (d : MmDesc) : Nat × Nat :=
  if d.governed then
    let w := governorWidth P d.layer d.start
    (if d.a.fmt = 2 then 0 else w, if d.b.fmt = 2 then 0 else w)
  else (d.widthA, d.widthB)

/-- The width that the producers of gauge g follow: none when no layer follows it or the layer has no width (R185,
R365). -/
def followWidth (P : Polder) (g : Nat) : Option Nat :=
  match P.layers.find? fun x => match x.2 with | some L => L.follow && L.feed == some g | none => false with
  | some (_, some L) => if inDefaulted P then some 2 else L.width
  | _ => none

/-- The format that C is written in (R185): its own where the ladder has no format of the followed width (log 96). -/
def outFmt (P : Polder) (d : MmDesc) : Nat :=
  match gaugeOf P d.gauge, followWidth P d.gauge with
  | some g, some w =>
    if ([0, 1, 2, 3].any fun c => ladderFmt g.ladder c == some d.c.fmt) then (ladderFmt g.ladder w).getD d.c.fmt
    else d.c.fmt
  | _, _ => d.c.fmt

/-! ## Order 4: reserved fields -/

/-- Reserved bits of a tensor descriptor that is read; the scale pointer is ignored whole under SMODE 0 (R101, R33). -/
def tensorOk (t : Tensor) : Bool :=
  t.addrHi == 0 && (t.smode == 0 || t.scaleHi == 0) && t.rsvd == 0 && decide (t.fmt ≤ 0xA) && decide (t.smode ≤ 5)

def mmReserved (d : MmDesc) : Bool :=
  tensorOk d.a && tensorOk d.b && tensorOk d.c && (!d.biasEn || tensorOk d.bias) && d.rsvd == 0 &&
  decide (d.prec.val.toNat < 2 ^ 12) && decide (d.slotByte.toNat < 32) && decide (d.epi.toNat < 64) &&
  d.epiPtrHi == 0 && d.scratchHi == 0

/-! ## Order 5: shapes -/

def mmShapes (d : MmDesc) : Bool :=
  (if d.b.tr then d.b.lines else d.b.length) == d.k && (if d.c.tr then d.c.length else d.c.lines) == d.m &&
  (if d.c.tr then d.c.lines else d.c.length) == d.n && (!d.c.tr || d.c.smode == 0) &&
  (!d.biasEn || (!d.bias.tr && d.bias.lines == 1 && d.bias.length == d.n))

/-! ## Order 6: formats, roles, scale modes -/

/-- SMODEs that a format accepts (R32). -/
def smodeOk (t : Tensor) : Bool :=
  if t.fmt = 2 then t.smode == 5 else if t.fmt = 0xA then t.smode == 0 else decide (t.smode ≤ 4)

def blockScaled (smode : Nat) : Bool := smode == 1 || smode == 2 || smode == 4
def rowScaled (smode : Nat) : Bool := smode == 3 || smode == 4

def isPairFmt (fmt : Nat) : Bool := fmt == 6 || fmt == 7

/-- The activation formats of a CB4 multiply (R51). -/
def cb4Partner (f : Nat) : Bool := f == 0 || f == 1 || f == 3 || f == 4

def mmRoles (d : MmDesc) (fc : Nat) : Bool :=
  d.a.fmt != 2 && d.a.fmt != 0xA && d.b.fmt != 0xA && d.c.fmt != 2 && smodeOk d.a && smodeOk d.b && smodeOk d.c &&
  !rowScaled d.c.smode && !(d.a.tr && blockScaled d.a.smode) && !(d.b.tr && blockScaled d.b.smode) &&
  (d.b.fmt != 2 || cb4Partner d.a.fmt) &&
  (!d.pairEn || (isPairFmt d.c.fmt && d.c.smode == 0 && isPairFmt fc)) &&
  (!d.biasEn || (d.bias.smode == 0 && (isPairFmt d.bias.fmt || d.bias.fmt == 9 || d.bias.fmt == 0xA)))

/-- The G2 conditions of R66 and R131. -/
def mmG2 (d : MmDesc) : Bool :=
  !d.g2 ||
  (d.a.fmt == d.b.fmt && (d.a.fmt == 5 || d.a.fmt == 3 || d.a.fmt == 6 || d.a.fmt == 9) && !blockScaled d.a.smode &&
   !blockScaled d.b.smode && !blockScaled d.c.smode && !d.pairEn && (!d.biasEn || d.bias.fmt == 9) && !d.governed &&
   !d.serial && d.widthA == nativeClass d.a.fmt && d.widthB == nativeClass d.a.fmt &&
   d.compensated == (d.a.fmt == 9))

/-! ## Order 7: PREC combinations (R109) -/

/-- An integer element format of a matrix operand. -/
def intOperand (t : Tensor) : Bool := t.fmt == 0 || t.fmt == 5 || t.fmt == 8

/-- A CB4 multiply runs at the W4 × W4 gang alone, so its activation is also read in a format of R51 (log 68). -/
def precChecks (P : Polder) (d : MmDesc) : List (Bool × Status) :=
  let w := widthsInForce P d
  let ints := intOperand d.a || intOperand d.b
  [(d.compensated == (d.widthA == 3 || d.widthB == 3), .descInvalid),
   (!d.governed || decide (d.bandMin ≤ d.bandMax), .descInvalid),
   (!d.governed || (if d.b.fmt = 2 then d.widthB == 0 else d.widthA == d.widthB), .descInvalid),
   (!d.governed || (decide (d.bandMin ≤ d.start) && decide (d.start ≤ d.bandMax)), .descInvalid),
   ((widthFmt d.a.fmt w.1).isSome && (widthFmt d.b.fmt w.2).isSome &&
     (d.b.fmt != 2 || cb4Partner ((widthFmt d.a.fmt w.1).getD 0xF)), .formatUnsupported),
   (!(d.widthA == 3 && d.widthB == 3 && ints), .formatUnsupported),
   (!(d.governed && d.bandMax == 3 && ints), .formatUnsupported)]

/-- Order 8: the INT16 limit (R57), for integer accumulation in the formats in force: log 69. -/
def int16Ok (fa fb : Nat) (d : MmDesc) : Bool :=
  !(isInt fa && isInt fb && !blockScaled d.a.smode && !blockScaled d.b.smode && (fa == 8 || fb == 8)) ||
  decide (d.k ≤ 65536)

/-! ## Order 9: IDs, slot, tiles, range -/

def pow2In (x lo hi : Nat) : Bool := decide (lo ≤ x) && decide (x ≤ hi) && x == 2 ^ Nat.log2 x

def mmPlacement (s : State) (p : Fin 4) (d : MmDesc) : Bool :=
  decide (d.layer < 0x1000) && (d.gauge == 0xFFFF || (gaugeOf (polder s p) d.gauge).isSome) &&
  d.slot % d.slotSize == 0 && (d.split == 0 || pow2In d.split 1 16) && (d.tileM == 0 || pow2In d.tileM 8 2048) &&
  (d.tileN == 0 || pow2In d.tileN 8 2048) && (d.count != 0 || d.base == 0) &&
  decide (d.base + d.count ≤ 64 * dieCount s p)

/-! ## Order 10: alignment, strides, pointers -/

/-- The stride of a tensor read or written in format f (R104). -/
def strideIn (t : Tensor) (f : Nat) : Nat := t.stride * fmtBits f / fmtBits t.fmt

/-- R103 for a tensor used in format f, and R104 for every format of the layer's band. The element size of R103 is
that of the format in force: log 70. -/
def tensorAligned (t : Tensor) (f : Nat) (band : List Nat) : Bool :=
  t.addr % fmtAlign f == 0 &&
  (decide (t.lines ≤ 1) || (strideIn t f % fmtAlign f == 0 && decide (lineBytes f t.length ≤ strideIn t f))) &&
  (t.smode == 0 || (t.scale != 0 && t.scale % 64 == 0)) &&
  (f :: band).all fun g => lineBytes t.fmt t.length * fmtBits g % fmtBits t.fmt == 0 &&
    (decide (t.lines ≤ 1) || t.stride * fmtBits g % fmtBits t.fmt == 0)

/-- Formats of the classes of the band; a CB4 operand never moves. -/
def bandFmts (d : MmDesc) (fmt : Nat) : List Nat :=
  if d.governed && fmt != 2 then
    (List.range 4).filterMap fun c => if d.bandMin ≤ c ∧ c ≤ d.bandMax then widthFmt fmt c else none
  else []

def clipOk (d : MmDesc) : Bool :=
  !d.clipEn || (!(f32dec d.clipLo).isNan && !(f32dec d.clipHi).isNan && FVal.le (f32dec d.clipLo) (f32dec d.clipHi))

def mmAligned (d : MmDesc) (fa fb fc : Nat) : Bool :=
  (!d.operands || (tensorAligned d.a fa (bandFmts d d.a.fmt) && tensorAligned d.b fb (bandFmts d d.b.fmt))) &&
  (d.empty || tensorAligned d.c fc []) && (d.empty || !d.biasEn || d.bias.addr % fmtAlign d.bias.fmt == 0) &&
  (!d.scaleEn || (d.epiPtr != 0 && d.epiPtr % 64 == 0)) && clipOk d &&
  (d.scratchSize == 0 || d.scratch % 64 == 0)

/-! ## Tables and the lo tensor -/

def blockSize (smode : Nat) : Nat := if smode = 2 then 16 else 32
/-- Blocks per line of a blocked dimension of length n. -/
def blocksOf (smode n : Nat) : Nat := (n + blockSize smode - 1) / blockSize smode

/-- Where the row table of a tensor begins (R43). -/
def rowTable (t : Tensor) (outer blen : Nat) : Nat :=
  t.scale + (if t.smode = 4 then roundUp (2 * outer * blocksOf 4 blen) 64 else 0)

/-- Bytes of the scale or codebook table of a tensor (R41, R43, R50). -/
def scaleBytes (t : Tensor) (outer blen : Nat) : Nat :=
  match t.smode with
  | 0 => 0
  | 5 => 32 * ((outer + 63) / 64)
  | 3 => 8 * outer
  | 4 => roundUp (2 * outer * blocksOf 4 blen) 64 + 8 * outer
  | m => 2 * outer * blocksOf m blen

/-- Where the lo tensor of a pair begins (R64). -/
def pairLo (d : MmDesc) (fc : Nat) : Nat :=
  roundUp (d.c.addr + (d.c.lines - 1) * strideIn d.c fc + lineBytes fc d.c.length) 4096

/-- Are the scales of C's table measured, and so written, by the command (R365)? -/
def measuresC (P : Polder) (d : MmDesc) : Bool :=
  inDefaulted P && blockScaled d.c.smode && (managedAt P d.c.scale).isSome

/-! ## Order 11: memory. A declared scratch region is checked also where p will be 1, and not where K = 0: log 71. -/

/-- Everything the command reads and writes lies in its polder's memory (R103); C's scale table is written only where it is
measured. -/
def mmMemory (s : State) (p : Fin 4) (d : MmDesc) (fa fb fc : Nat) : Bool :=
  let tens (t : Tensor) (f : Nat) (w : Bool) (a : Nat) := linesOk s p w a t.lines (lineBytes f t.length) (strideIn t f)
  (!d.operands ||
    (tens d.a fa false d.a.addr && tens d.b fb false d.b.addr &&
     accessOk s p false d.a.scale (scaleBytes d.a d.m d.k) && accessOk s p false d.b.scale (scaleBytes d.b d.n d.k) &&
     accessOk s p true d.scratch d.scratchSize)) &&
  (d.empty ||
    (tens d.c fc true d.c.addr && (!d.pairEn || tens d.c fc true (pairLo d fc)) &&
     accessOk s p (measuresC (polder s p) d) d.c.scale (scaleBytes d.c d.m d.n) &&
     (!d.biasEn || accessOk s p false d.bias.addr (lineBytes d.bias.fmt d.n)) &&
     (!d.scaleEn || accessOk s p false d.epiPtr (8 * (if d.scalePerCol then d.n else d.m)))))

/-- The validation of R114: the first check that fails. -/
def mmChecks (s : State) (p : Fin 4) (e : Entry) : Option Status :=
  let d := readLayer s e.desc.toNat
  let P := polder s p
  let w := widthsInForce P d
  let fa := (widthFmt d.a.fmt w.1).getD d.a.fmt
  let fb := (widthFmt d.b.fmt w.2).getD d.b.fmt
  let fc := outFmt P d
  firstFail (descChecks s p e.desc.toNat 256 ++
    [(compAgrees16 d.prec, .complementMismatch),
     (mmReserved d, .descInvalid), (mmShapes d, .descInvalid), (mmRoles d fc, .formatUnsupported),
     (mmG2 d, .formatUnsupported)] ++ precChecks P d ++
    [(int16Ok fa fb d, .formatUnsupported), (mmPlacement s p d, .descInvalid), (mmAligned d fa fb fc, .descInvalid),
     (mmMemory s p d fa fb fc, .accessDenied)])
where
  compAgrees16 (c : Comp 16) : Bool := c.comp == ~~~c.val

/-! ## Tiles and ranges (R115, R116, R118) -/

def tileCols (d : MmDesc) : Nat := (d.n + d.tn - 1) / d.tn
def tileCount (d : MmDesc) : Nat := (d.m + d.tm - 1) / d.tm * tileCols d

/-- The loop of R116, in the wrapping u32 and u64 arithmetic of R13; four doublings reach the largest cap. -/
def splitLoop (d : MmDesc) (cn : Nat) : Nat → Nat → Nat
  | 0, p => p
  | k + 1, p =>
    if p < d.splitCap ∧ tileCount d * p % 2 ^ 32 < cn ∧ 512 ≤ (d.k + 2 * p - 1) % 2 ^ 32 / (2 * p) ∧
        2 * p * d.m * d.n * 16 % 2 ^ 64 ≤ d.scratchSize
    then splitLoop d cn k (2 * p) else p

def splitCount (d : MmDesc) (dies : Nat) : Nat := if d.g2 then 1 else splitLoop d (64 * dies) 4 1

def clusterCount (s : State) (p : Fin 4) (base count : Nat) : Nat := if count = 0 then 64 * dieCount s p - base else count

/-- The K indices of range j (R116). -/
def rangeOf (k p j : Nat) : Nat × Nat :=
  let g := (k + 7) / 8
  (min (8 * (j * g / p)) k, min (8 * ((j + 1) * g / p)) k)

/-- The block of items of the cluster in position c of ccount (R118). -/
def laneOf (items ccount c : Nat) : MmLane :=
  { started := false, next := c * items / ccount, stop := (c + 1) * items / ccount, deque := [], item := none, sub := 0,
    bank := false }

end Sys2Proof.Machine
end

