-- ==== Sys2Proof/Machine/GaugeConfig.lean ====
section
/-! DEFINITION. GAUGE_CONFIG (R167-R170) and GOV_CONFIG (R188, R189): what is checked, what takes effect at once,
what is staged, and how a staged change is applied. -/

namespace Sys2Proof.Machine

/-! ## Gauge entries -/

def readGaugeEntry (b : List Byte) : GaugeEntry :=
  let f := b.getD 2 0
  { id := fld b 0 2, remove := f.getLsbD 0, gradient := f.getLsbD 1, wdOff := f.getLsbD 2, ladder := fld b 3 1 % 16,
    bpl := fld b 4 2, bs := fld b 6 1, scaleAddr := addrOf b 8, stateAddr := addrOf b 0x10, lines := fld b 0x18 4 }

def ladderOk (l : Nat) : Bool := l == 0 || l == 1 || l == 3 || l == 4

/-- Reserved fields and the table rules of R168 for one entry, a removal included. -/
def gaugeEntryOk (b : List Byte) : Bool :=
  let g := readGaugeEntry b
  decide (g.id < 0x400) && decide (fld b 2 1 < 8) && decide (fld b 3 1 < 16) && zeroAt b 7 1 && addrHiOk b 8 &&
  zeroAt b 0x1C 4 && ladderOk g.ladder &&
  (if g.scaleAddr = 0 then g.bs == 0
   else (g.bs == 16 || g.bs == 32) && g.lines != 0 && g.bpl != 0 && g.stateAddr != 0 && g.scaleAddr % 64 == 0 &&
     g.stateAddr % 64 == 0 && addrHiOk b 0x10)

/-- Bytes of a managed table. -/
def tableBytes (lines bpl : Nat) : Nat := 2 * lines * bpl

/-- Settings of a gauge as configured anew: no totals, windows or streak. -/
def newGauge (g : GaugeEntry) : Gauge :=
  { gradient := g.gradient, wdOff := g.wdOff, ladder := g.ladder, bpl := g.bpl, bs := g.bs, scaleAddr := g.scaleAddr,
    stateAddr := g.stateAddr, lines := g.lines, tot := GTot.zero, win := [], streak := 0 }

/-- New settings for a configured gauge: windows start afresh when the ladder changes (R169); a disabled watchdog has
no streak (R190). -/
def changeGauge (o : Gauge) (g : GaugeEntry) : Gauge :=
  { newGauge g with tot := o.tot, win := if o.ladder = g.ladder then o.win else [],
                    streak := if g.gradient && !g.wdOff then o.streak else 0 }

/-- The gauges after one entry. -/
def applyEntry (gs : Tab (Option Gauge)) (g : GaugeEntry) : Tab (Option Gauge) :=
  if g.remove then tabSet none gs g.id none
  else tabMod none gs g.id fun o => some (match o with | some o => changeGauge o g | none => newGauge g)

/-- The gauge entries among the staged changes. -/
def stagedGauges (P : Polder) : List GaugeEntry := P.staged.filterMap fun x => match x with | .gauge g => some g | _ => none

/-- Gauges as they will stand once every staged change is applied. -/
def futureGauges (P : Polder) : Tab (Option Gauge) := (stagedGauges P).foldl applyEntry P.gauges

/-- Configured, with no removal staged (R188). -/
def gaugeLive (P : Polder) (id : Nat) : Bool := (gaugeOf P id).isSome && !(stagedGauges P).any fun g => g.remove && g.id == id

def managedSpans (gs : Tab (Option Gauge)) : List (Nat × Nat) :=
  gs.flatMap fun x => match x.2 with
    | some g => if g.scaleAddr = 0 then [] else
        [(g.scaleAddr, tableBytes g.lines g.bpl), (g.stateAddr, tableBytes g.lines g.bpl)]
    | none => []

/-- Do any two spans of a list share a byte? -/
def spansMeet : List (Nat × Nat) → Bool
  | [] => false
  | x :: rest => rest.any (fun y => decide (x.1 < y.1 + y.2) && decide (y.1 < x.1 + x.2)) || spansMeet rest

/-- Each removal names a configured gauge whose removal is neither staged nor in `gone`, the removals of the request's
earlier entries (log 80). -/
def removalsOk (P : Polder) : List Nat → List GaugeEntry → Bool
  | _, [] => true
  | gone, g :: rest =>
    (!g.remove || (gaugeLive P g.id && !gone.contains g.id)) && removalsOk P (if g.remove then g.id :: gone else gone) rest

/-- Write every state entry of a table as 0xFF00 (R170); the Bool says whether all were stored (R226). -/
def clearStates (s : State) (a n : Nat) : State × Bool := memWrite s a ((List.range n).flatMap fun _ => [0x00, 0xFF])

def clearTable (s : State) (p : Fin 4) (g : Gauge) : State × Bool :=
  if g.scaleAddr = 0 then (s, true) else
  let r := clearStates s g.stateAddr (g.lines * g.bpl)
  (touch r.1 p g.stateAddr (2 * g.lines * g.bpl), r.2)

/-- Do the five settings of R170 differ? -/
def tableChanged (o : Option Gauge) (n : Gauge) : Bool :=
  match o with
  | none => true
  | some o => o.scaleAddr != n.scaleAddr || (n.scaleAddr != 0 &&
      (o.bs != n.bs || o.bpl != n.bpl || o.lines != n.lines || o.stateAddr != n.stateAddr))

/-- Put one gauge change into force, with its state table; the Bool says whether every state entry was stored. -/
def putGauge (s : State) (p : Fin 4) (g : GaugeEntry) : State × Bool :=
  let old := gaugeOf (polder s p) g.id
  let s := modPolder s p fun P => { P with gauges := applyEntry P.gauges g }
  match gaugeOf (polder s p) g.id with
  | some n => if tableChanged old n then clearTable s p n else (s, true)
  | none => (s, true)

/-- A gauge ID that is not configured takes effect with the response; everything else is staged (R169). State entries
that a poisoned block refuses stay unreadable, and the request is accepted (log 81). -/
def takeGauge (s : State) (p : Fin 4) (g : GaugeEntry) : State :=
  if !g.remove && (gaugeOf (polder s p) g.id).isNone then (putGauge s p g).1
  else modPolder s p fun P => { P with staged := P.staged ++ [.gauge g] }

/-! ## GAUGE_CONFIG -/

def slices (b : List Byte) (o sz n : Nat) : List (List Byte) := (List.range n).map fun i => (b.drop (o + sz * i)).take sz

def doGaugeConfigRing (p : Fin 4) (s : State) : State :=
  serve s (vf p) 0x107 32 (op2Is 0) fun s b =>
    let base := addrOf b 8
    let n := fld b 0x10 4
    match firstFail [(zeroAt b 2 2 && zeroAt b 4 4 && addrHiOk b 8 && zeroAt b 0x14 12 && base % 4096 == 0 &&
                        pow2In n 16 65536, .descInvalid),
                     (accessOk s p true base (512 * n), .accessDenied)] with
    | some st => refuse s st
    | none => accept (modPolder s p fun P => { P with staged := P.staged ++ [.ring base n] })

def execGaugeConfigRing (p : Fin 4) (s : State) : Host.Outcome State Fault Refusal := .next (doGaugeConfigRing p s)

def doGaugeConfigEntries (p : Fin 4) (s : State) : State :=
  serve s (vf p) 0x107 32 (op2Is 1) fun s b =>
    let n := fld b 2 2
    let raw := slices b 0x20 32 n
    let es := raw.map readGaugeEntry
    let fut := es.foldl applyEntry (futureGauges (polder s p))
    let inside (g : GaugeEntry) := g.scaleAddr == 0 ||
      (accessOk s p true g.scaleAddr (tableBytes g.lines g.bpl) && accessOk s p true g.stateAddr (tableBytes g.lines g.bpl))
    match firstFail [(zeroAt b 4 4 && zeroAt b 0x14 12 && decide (1 ≤ n) && decide (n ≤ 125) &&
                        decide (32 + 32 * n ≤ b.length) && raw.all gaugeEntryOk, .descInvalid),
                     (!spansMeet (managedSpans fut) && decide (fut.length ≤ 1024) && removalsOk (polder s p) [] es, .descInvalid),
                     (es.all inside, .accessDenied)] with
    | some st => refuse s st
    | none => accept (es.foldl (fun s g => takeGauge s p g) s)

def execGaugeConfigEntries (p : Fin 4) (s : State) : Host.Outcome State Fault Refusal := .next (doGaugeConfigEntries p s)

/-! ## Layer entries -/

def gaugeField (v : Nat) : Option Nat := if v = 0xFFFF then none else some v

def readLayerEntry (b : List Byte) : LayerEntry :=
  let f := b.getD 2 0
  { id := fld b 0 2, remove := f.getLsbD 0, follow := f.getLsbD 1, width := fld b 3 1, feed := fld b 4 2, grad := fld b 6 2 }

/-- The governed layers after one entry: initial width, gauges and streak under R189. -/
def applyLayer (ls : Tab (Option Layer)) (e : LayerEntry) : Tab (Option Layer) :=
  if e.remove then tabSet none ls e.id none else
  tabMod none ls e.id fun o =>
    let feed := gaugeField e.feed
    let grad := gaugeField e.grad
    let L : Layer := match o with
      | some L => { L with feed := feed, grad := grad, follow := e.follow,
                           streak := if L.feed = feed ∧ L.grad = grad then L.streak else 0 }
      | none => { feed := feed, grad := grad, follow := e.follow, width := none, streak := 0, band := none, stepBand := none,
                  adopted := none }
    some (if e.width = 0xFF then L else { L with width := some e.width, streak := 0 })

def stagedLayers (P : Polder) : List LayerEntry := P.staged.filterMap fun x => match x with | .layer l => some l | _ => none
def futureLayers (P : Polder) : Tab (Option Layer) := (stagedLayers P).foldl applyLayer P.layers

/-- R188 for one entry, a removal included, against the layers and the gauges' ladders as they will stand. -/
def layerEntryOk (P : Polder) (ls : Tab (Option Layer)) (b : List Byte) : Bool :=
  let e := readLayerEntry b
  let gs := (gaugeField e.feed).toList ++ (gaugeField e.grad).toList
  let lads := gs.filterMap fun g => (tabGet none (futureGauges P) g).map (·.ladder)
  decide (e.id < 0x1000) && decide (fld b 2 1 < 4) && (decide (e.width ≤ 3) || e.width == 0xFF) && zeroAt b 8 8 &&
  (!e.remove || (tabGet none ls e.id).isSome) &&
  !gs.isEmpty && gs.all (gaugeLive P) && lads.all (· == lads.headD 0) && !(e.width == 3 && lads.headD 1 == 0) &&
  (!e.follow || (e.feed != 0xFFFF && !ls.any fun x =>
    match x.2 with | some L => x.1 != e.id && L.follow && L.feed == some e.feed | none => false))

/-- Entries in order, each judged after the earlier ones. -/
def layerEntriesOk (P : Polder) : Tab (Option Layer) → List (List Byte) → Bool
  | _, [] => true
  | ls, b :: rest => layerEntryOk P ls b && layerEntriesOk P (applyLayer ls (readLayerEntry b)) rest

/-! ## GOV_CONFIG -/

def doGovConfigLog (p : Fin 4) (s : State) : State :=
  serve s (vf p) 0x108 32 (op2Is 0) fun s b =>
    let base := addrOf b 8
    let n := fld b 0x10 4
    match firstFail [(zeroAt b 2 2 && zeroAt b 4 4 && addrHiOk b 8 && zeroAt b 0x14 12 && base % 4096 == 0 &&
                        pow2In n 64 1048576, .descInvalid),
                     (accessOk s p true base (64 + 16 * n), .accessDenied)] with
    | some st => refuse s st
    | none => accept (modPolder s p fun P => { P with staged := P.staged ++ [.log base n] })

def execGovConfigLog (p : Fin 4) (s : State) : Host.Outcome State Fault Refusal := .next (doGovConfigLog p s)

def doGovConfigEntries (p : Fin 4) (s : State) : State :=
  serve s (vf p) 0x108 32 (op2Is 1) fun s b =>
    let n := fld b 2 2
    let raw := slices b 0x20 16 n
    if zeroAt b 4 4 && zeroAt b 0x14 12 && decide (1 ≤ n) && decide (n ≤ 250) && decide (32 + 16 * n ≤ b.length) &&
        layerEntriesOk (polder s p) (futureLayers (polder s p)) raw then
      accept (modPolder s p fun P => { P with staged := P.staged ++ raw.map fun x => .layer (readLayerEntry x) })
    else refuse s .descInvalid

def execGovConfigEntries (p : Fin 4) (s : State) : Host.Outcome State Fault Refusal := .next (doGovConfigEntries p s)

end Sys2Proof.Machine
end

