-- ==== Sys2Proof/Machine/Governor.lean ====
section
/-! DEFINITION. STEP (R171-R175) and what it does at its fence: the spillway (R178), the governor (R179-R184), the
watchdogs (R190), the gauge records (R165, R166), the precision log (R186, R187) and the staged changes. -/

namespace Sys2Proof.Machine

/-! ## Command start (R173) -/

/-- Value and complement of a `u32` pair at offset o. -/
def wordPairOk (b : List Byte) (o : Nat) : Bool := compOk 4 (fld b o 4) (fld b (o + 4) 4)

def stepChecks (s : State) (p : Fin 4) (e : Entry) : Option Status :=
  let a := e.desc.toNat
  let b := memBytes s a 64
  let n := (polder s p).step
  let t : Word := BitVec.ofNat 32 (fld b 0 4)
  firstFail (descChecks s p a 64 ++
    [(wordPairOk b 0, .complementMismatch), (zeroAt b 8 56, .descInvalid), (t == n || t == n + 1, .descInvalid)])

def doStepCmd (p : Fin 4) (q : Fin 16) (e : Entry) (s : State) : State :=
  runEntry s p q e 0x0B (fun s => stepChecks s p e) fun t =>
    let P := polder s p
    if BitVec.ofNat 32 (memNat s e.desc.toNat 4) = P.step then endCmd t p q e.seq .ok
    else setBody t p q e.seq (.step P.staged.length)

def execStepCmd (p : Fin 4) (q : Fin 16) (e : Entry) (s : State) : Host.Outcome State Fault Refusal := .next (doStepCmd p q e s)

/-! ## Action 1: the spillway -/

/-- Blocks flagged, raised and lowered of one gauge. -/
structure SpillInfo where
  flagged : Nat
  raised  : Nat
  lowered : Nat

def SpillInfo.zero : SpillInfo := { flagged := 0, raised := 0, lowered := 0 }

/-- One block under R178 with the clamps of R45: new scale and state, and what it counts. In a defaulted step nothing
moves and the state clears (R365). -/
def spillBlock (still : Bool) (e8 st : Nat) : Nat × Nat × SpillInfo :=
  let streak := st % 32
  let f := decide (128 ≤ st)
  if still then (e8, 0, { SpillInfo.zero with flagged := f.toNat })
  else if f then
    if e8 < 0xFE then (e8 + 1, 0, { flagged := 1, raised := 1, lowered := 0 }) else (e8, 0, { flagged := 1, raised := 0, lowered := 0 })
  else if st / 64 % 2 = 1 then (e8, 0, .zero)
  else if st / 32 % 2 = 1 then
    if streak + 1 = 16 then
      if 0 < e8 ∧ e8 < 0xFF then (e8 - 1, 0, { SpillInfo.zero with lowered := 1 }) else (e8, 0, .zero)
    else (e8, streak + 1, .zero)
  else (e8, streak, .zero)

def spillOne (still : Bool) (p : Fin 4) (set : BitVec 16) (g : Gauge) (x : State × SpillInfo) (i : Nat) : State × SpillInfo :=
  let s := x.1
  let e8 := memNat s (g.scaleAddr + 2 * i) 1
  let st := memNat s (g.stateAddr + 2 * i) 1
  let (e8', st', n) := spillBlock still e8 st
  let put (s : State) (a v : Nat) := noteAccess (memPut s a (withComp 1 v)) p set a 2
  let s := if e8' = e8 then s else put s (g.scaleAddr + 2 * i) e8'
  let s := if st' = st then s else put s (g.stateAddr + 2 * i) st'
  (s, { flagged := x.2.flagged + n.flagged, raised := x.2.raised + n.raised, lowered := x.2.lowered + n.lowered })

def spillGauge (s : State) (p : Fin 4) (set : BitVec 16) (still : Bool) (g : Gauge) : State × SpillInfo :=
  if g.scaleAddr = 0 then (s, .zero) else
  let n := g.lines * g.bpl
  (List.range n).foldl (spillOne still p set g) (noteSpans s p set [(g.scaleAddr, 2 * n), (g.stateAddr, 2 * n)], .zero)

/-- Configured gauges in ascending ID. -/
def gaugeList (P : Polder) : List (Nat × Gauge) := P.gauges.filterMap fun x => x.2.map fun g => (x.1, g)

def spillAll (s : State) (p : Fin 4) (set : BitVec 16) (still : Bool) : List (Nat × Gauge) → State × Tab SpillInfo
  | [] => (s, [])
  | x :: rest =>
    let r := spillGauge s p set still x.2
    let t := spillAll r.1 p set still rest
    (t.1, (x.1, r.2) :: t.2)

/-! ## The checks of R175 -/

def tablesReadable (s : State) (P : Polder) : Bool :=
  (gaugeList P).all fun x => x.2.scaleAddr == 0 ||
    (!meetsBad s x.2.scaleAddr (tableBytes x.2.lines x.2.bpl) && !meetsBad s x.2.stateAddr (tableBytes x.2.lines x.2.bpl))

def managedAgree (s : State) (P : Polder) : Bool :=
  (gaugeList P).all fun x => x.2.scaleAddr == 0 ||
    (entriesAgree s x.2.scaleAddr (x.2.lines * x.2.bpl) && entriesAgree s x.2.stateAddr (x.2.lines * x.2.bpl))
where
  entriesAgree (s : State) (a n : Nat) : Bool :=
    (List.range n).all fun i => compOk 1 (memNat s (a + 2 * i) 1) (memNat s (a + 2 * i + 1) 1)

/-! ## Action 2: the governor -/

def ovfvan (t : GTot) (cls : Nat) : OvfVan := match cls with | 0 => t.w4 | 1 => t.w8 | 2 => t.w16 | _ => t.comp
def winOvfvan (t : GWin) (cls : Nat) : OvfVan := match cls with | 0 => t.w4 | 1 => t.w8 | 2 => t.w16 | _ => t.comp

/-- Sums of the window of R179 in one class: this step and the three before it. -/
def windowOf (g : Gauge) (cls : Nat) : OvfVan × Nat :=
  let ws := g.win.take 3
  (ws.foldl (fun a w => a.plus (winOvfvan w cls)) (ovfvan g.tot cls), ws.foldl (fun a w => a + w.nz) g.tot.nz)

def layerGauges (P : Polder) (L : Layer) : List Gauge := (L.feed.toList ++ L.grad.toList).filterMap (gaugeOf P)

/-- The band of R180 with the limit of R183: none when the governor makes no decision. -/
def bandOf (L : Layer) (gs : List Gauge) : Option ((Nat × Nat) × (Nat × Nat)) :=
  match (match L.stepBand with | some b => some b | none => L.band) with
  | none => none
  | some b =>
    let hi := if gs.any fun g => (ladderFmt g.ladder 3).isNone then min b.2 2 else b.2
    if b.1 ≤ b.2 ∧ b.1 ≤ hi then some (b, (b.1, hi)) else none

/-- A change of width: old, new, reason. -/
structure WidthLog where
  step   : Word
  layer  : Nat
  old    : Nat
  new    : Nat
  reason : Nat

/-- R182 for a layer with width w and band (lo, hi): its new width and streak, and the reason of a change. -/
def decideWidth (gs : List Gauge) (w streak lo hi : Nat) : Nat × Nat × Option Nat :=
  if w < lo ∨ hi < w then (max lo (min w hi), 0, some 4) else
  let win := gs.map fun g => windowOf g w
  let ovf := win.any fun x => decide (x.2 < x.1.ovf * 1024)
  let van := win.any fun x => decide (x.2 < x.1.van * 16)
  if ovf || van then
    if w < hi then (w + 1, 0, some (if ovf then 1 else 2)) else (w, 0, none)
  else if lo < w then
    let quiet := gs.all fun g => g.tot.nz == 0 ||
      (decide ((ovfvan g.tot (w - 1)).ovf * 16384 < g.tot.nz) && decide ((ovfvan g.tot (w - 1)).van * 256 < g.tot.nz))
    let streak := if quiet then streak + 1 else 0
    if streak = 64 then (w - 1, 0, some 3) else (w, streak, none)
  else (w, 0, none)

/-- The governor's decision for one layer at the STEP that closes the step before `nxt`. -/
def governLayer (P : Polder) (nxt : Word) (id : Nat) (L : Layer) : Layer × List WidthLog :=
  let gs := layerGauges P L
  match L.width, (if inDefaulted P || gs.all fun g => g.tot.count == 0 then none else bandOf L gs) with
  | some w, some (band, lim) =>
    let (w', streak, why) := decideWidth gs w L.streak lim.1 lim.2
    ({ L with width := some w', streak := streak, band := some band },
     match why with | some r => [{ step := nxt, layer := id, old := w, new := w', reason := r }] | none => [])
  | _, _ => (L, [])

/-- Every layer in ascending ID: its adoption's entry, then its decision (log 93). -/
def governAll (P : Polder) (nxt : Word) : Tab (Option Layer) → Tab (Option Layer) × List WidthLog × Bool
  | [] => ([], [], false)
  | (id, none) :: rest => let r := governAll P nxt rest; ((id, none) :: r.1, r.2)
  | (id, some L) :: rest =>
    let r := governAll P nxt rest
    let x := governLayer P nxt id L
    let adopt := match L.adopted with
      | some (w, n) => [{ step := n, layer := id, old := w, new := w, reason := 5 }]
      | none => []
    ((id, some { x.1 with stepBand := none, adopted := none }) :: r.1, adopt ++ x.2 ++ r.2.1, !x.2.isEmpty || r.2.2)

/-! ## Action 3: the watchdogs (R190) -/

def watchdogStreak (g : Gauge) : Nat :=
  if !g.gradient || g.wdOff then 0
  else if g.tot.count = 0 then g.streak
  else if g.tot.nz * 2 ^ 20 < g.tot.count then g.streak + 1 else 0

/-- Does the advance to this streak raise EV_SILENT_LAYER? -/
def silentNow (g : Gauge) : Bool :=
  g.gradient && !g.wdOff && g.tot.count != 0 && watchdogStreak g != 0 && watchdogStreak g % 256 == 0

def silentEvents (s : State) (p : Fin 4) (n : Word) (gs : List (Nat × Gauge)) : State :=
  gs.foldl (fun s x => if silentNow x.2 then
      polderEvent s p 0x0101 (leBytes 2 x.1 ++ zeros 2 ++ leBytes 4 (watchdogStreak x.2) ++ leBytes 4 n.toNat)
    else s) s

/-! ## Action 4: gauge records (R165) -/

def ovfvanBytes (x : OvfVan) : List Byte := leBytes 8 x.ovf ++ leBytes 8 x.van

def recordBytes (id : Nat) (g : Gauge) (streak : Nat) (i : SpillInfo) (n : Word) (t seq : DWord) : List Byte :=
  let flags := g.gradient.toNat + 2 * (g.gradient && !g.wdOff).toNat + 4 * (decide (256 ≤ streak)).toNat + 8 * g.tot.histSat.toNat
  let b := leBytes 2 id ++ leBytes 1 flags ++ leBytes 1 g.ladder ++ leBytes 4 n.toNat ++ leBytes 8 t.toNat ++
    leBytes 8 g.tot.count ++ leBytes 8 g.tot.nz ++ leBytes 8 g.tot.nan ++ leBytes 8 g.tot.sat ++ leBytes 8 g.tot.flush ++
    leBytes 8 g.tot.accf ++ leBytes 4 g.tot.amax.toNat ++ leBytes 4 g.tot.cmds ++ leBytes 4 i.flagged ++
    leBytes 2 (min i.raised 0xFFFF) ++ leBytes 2 (min i.lowered 0xFFFF) ++ ovfvanBytes g.tot.w4 ++ ovfvanBytes g.tot.w8 ++
    ovfvanBytes g.tot.w16 ++ ovfvanBytes g.tot.comp ++ leBytes 4 streak ++ zeros 36 ++ leBytes 8 seq.toNat ++
    g.tot.hist.flatMap (leBytes 4) ++ zeros 60
  b ++ leBytes 4 (crc32c b)

/-- One record of whole blocks per gauge into the ring; none without a ring (R166). -/
def writeRecords (s : State) (p : Fin 4) (set : BitVec 16) (n : Word) (t : DWord) (info : Tab SpillInfo) (gs : List (Nat × Gauge)) : State :=
  gs.foldl (fun s x =>
    match (polder s p).gRing with
    | none => s
    | some (base, ents) =>
      let q := (polder s p).recSeq
      let s := (unitWrite s p set (base + 512 * (q.toNat % ents))
        (recordBytes x.1 x.2 (watchdogStreak x.2) (tabGet .zero info x.1) n t q)).1
      modPolder s p fun P => { P with recSeq := q + 1 }) s

/-! ## Action 5: the precision log (R186, R187) -/

def logEntry (l : WidthLog) : List Byte :=
  withComp 8 (leVal (leBytes 4 l.step.toNat ++ leBytes 2 l.layer ++ leBytes 1 (l.old % 4 + 4 * (l.new % 4) + 16 * l.reason) ++ [0]))

/-- Write a run of entries, then the header; a run without entries leaves the header. The Bool says whether every byte
was stored (R226). -/
def writeLog (s : State) (p : Fin 4) (set : BitVec 16) (ls : List WidthLog) : State × Bool :=
  match (polder s p).log with
  | none => (s, true)
  | some (base, ents, n) =>
    if ls.isEmpty then (s, true) else
    let m := n + BitVec.ofNat 64 ls.length
    let r := unitWrites s p set ((ls.zipIdx n.toNat).map (fun x => (base + 64 + 16 * (x.2 % ents), logEntry x.1)) ++
      [(base, withComp 8 m.toNat ++ zeros 48)])
    (modPolder r.1 p fun P => { P with log := some (base, ents, m) }, r.2)

/-! ## Action 6: the new step and the staged changes -/

/-- Close a gauge's step: its share enters the window, its totals clear. -/
def closeGauge (g : Gauge) : Gauge :=
  { g with streak := watchdogStreak g, tot := GTot.zero,
           win := { nz := g.tot.nz, w4 := g.tot.w4, w8 := g.tot.w8, w16 := g.tot.w16, comp := g.tot.comp } :: g.win.take 3 }

/-- Apply one staged change; a width it sets is logged with reason 0x6 (R189). The Bool says whether every byte was
stored. -/
def applyStaged (s : State) (p : Fin 4) (c : Staged) : State × List WidthLog × Bool :=
  match c with
  | .ring base n => (modPolder s p fun P => { P with gRing := some (base, n) }, [], true)
  | .log base n => (modPolder s p fun P => { P with log := some (base, n, 0) }, [], true)
  | .gauge g => let r := putGauge s p g; (r.1, [], r.2)
  | .layer e =>
    let P := polder s p
    let old := match layerOf P e.id with | some L => L.width.getD 0 | none => 0
    (modPolder s p fun P => { P with layers := applyLayer P.layers e },
     if e.remove ∨ e.width = 0xFF then [] else [{ step := P.step, layer := e.id, old := old, new := e.width, reason := 6 }],
     true)

def applyAll (s : State) (p : Fin 4) : List Staged → State × List WidthLog × Bool
  | [] => (s, [], true)
  | c :: rest =>
    let r := applyStaged s p c
    let t := applyAll r.1 p rest
    (t.1, r.2.1 ++ t.2.1, r.2.2 && t.2.2)

/-- The defaulted span ends with the sixteenth step (R365). -/
def endDefault (P : Polder) : Polder := if inDefaulted P then P else { P with defaulted := none }

/-- The actions of R174, all checks passed; the first Bool says whether action 2 changed a width, the second whether
every byte was stored (R226). The next step starts with an empty claim table (R208). -/
def closeStep (s : State) (p : Fin 4) (set : BitVec 16) (staged : Nat) : State × Bool × Bool :=
  let n := (polder s p).step
  let t := leveeTime s
  let sp := spillAll s p set (inDefaulted (polder s p)) (gaugeList (polder s p))
  let gov := governAll (polder sp.1 p) (n + 1) (polder sp.1 p).layers
  let s := modPolder sp.1 p fun P => { P with layers := gov.1 }
  let gs := gaugeList (polder s p)
  let s := silentEvents s p n gs
  let s := writeRecords s p set n t sp.2 gs
  let w := writeLog s p set gov.2.1
  let todo := (polder w.1 p).staged.take staged
  let s := modPolder w.1 p fun P => endDefault
    { P with step := n + 1, claims := [], cells := [], gauges := P.gauges.map fun x => (x.1, x.2.map closeGauge),
             staged := P.staged.drop staged }
  let r := applyAll s p todo
  let v := writeLog r.1 p set r.2.1
  (v.1, gov.2.2, w.2 && r.2.2 && v.2)

/-- The fence is reached: the command is the only one in flight (R172). -/
def atFence (P : Polder) : Option Cmd :=
  match P.inflight with
  | [c] => if c.res.isNone then some c else none
  | _ => none

/-- Module-held items 4 and 5: governor state and watchdog streaks (R355). -/
def governorBad (P : Polder) : Bool := (P.bad0 ||| P.bad1) &&& 0x30 != 0

/-- The final writes are made: the command keeps its body, so that a fault posts its completion first (R175, R338). -/
def finishFence (s : State) (p : Fin 4) (q : Fin 16) (n : Word) : State :=
  setResult s p q n .ok

/-- A STEP one of whose writes a poisoned block would refuse fails and leaves everything as it was (log 81). Of several
failures of R175 the held governor state comes first, then an uncorrectable read, then a complement (log 92). -/
def doStepFenceReached (p : Fin 4) (s : State) : State :=
  if !isRunning s p then s else
  match atFence (polder s p) with
  | some c =>
    match c.body with
    | .step staged =>
      if governorBad (polder s p) then faultC2 s [p] (faultInfo 0x0C 0 (firstDie s p).val 0)
      else match firstFail [(tablesReadable s (polder s p), .eccUncorrected), (managedAgree s (polder s p), .complementMismatch)] with
        | some st => endCmd s p c.q c.e.seq st
        | none =>
          let r := closeStep s p c.e.ctrSet staged
          if r.2.2 then finishFence (addWarn r.1 p c.q c.e.seq (if r.2.1 then wGovChanged else 0)) p c.q c.e.seq
          else endCmd s p c.q c.e.seq .eccUncorrected
    | _ => s
  | none => s

def execStepFenceReached (p : Fin 4) (s : State) : Host.Outcome State Fault Refusal := .next (doStepFenceReached p s)

end Sys2Proof.Machine
end

