-- ==== Sys2Proof/Machine/Cube.lean ====
section
/-! DEFINITION. The arithmetic of a matrix command: operand elements with their scales (R35, R36, R42-R53), the
compensated split (R58), AF48 and integer accumulation (R53-R57), the G2 chunks (R67), and the counts of R92. -/

namespace Sys2Proof.Machine

/-! ## Operand elements -/

/-- An operand element: its value with block scale and fixed-point factor, its share of the tile exponent when it
counts (R53), and what enters the cell (R48): magnitude code and exponent, before any scale (R71). An element that is
not finite has no magnitude code: it enters with code 0 and its class (log 72). -/
structure Elem where
  val : FVal
  be  : Option Int
  mag : Nat
  exp : Option Int
  deriving DecidableEq, Repr

/-- Stored significand bits of a format, for the exponent of R48. -/
def sigBits (fmt : Nat) : Nat := match floatFmt fmt with | some f => f.mb | none => 0

/-- The bounding exponent of an element before scales: an integer format has a fixed one. -/
def boundingExp (fmt : Nat) (v : FVal) : Option Int :=
  match v with
  | .fin _ _ e => some (if isInt fmt then (fmtBits fmt : Int) - 1 else e + sigBits fmt)
  | _ => none

/-- The magnitude code of R48: the significand, which E5M2 shifts up by one bit. -/
def magCode (fmt : Nat) (v : FVal) : Nat := match v with | .fin _ m _ => if fmt = 4 then 2 * m else m | _ => 0

/-- The exponent of R48: 0 for the integer formats. -/
def cellExp (fmt : Nat) (v : FVal) : Option Int :=
  match v with
  | .fin _ _ e => some (if isInt fmt then 0 else e + sigBits fmt)
  | _ => none

/-- An element of format `fmt` under block scale s (none: the block is NaN, R45). -/
def mkElem (fmt code : Nat) (scaled : Bool) (s : Option Int) : Elem :=
  let v := decodeElem fmt code
  let el : Elem := { val := .nan, be := none, mag := magCode fmt v, exp := cellExp fmt v }
  match s with
  | none => el
  | some k =>
    let k := k - (if scaled then fixedShift fmt else 0)
    { el with val := v.scale k, be := (boundingExp fmt v).map (· + k) }

/-- The E8M0 entry at address a: none for NaN. -/
def e8m0 (s : State) (a : Nat) : Option Int :=
  let x := (memByte s a).toNat
  if x = 0xFF then none else some ((x : Int) - 127)

/-- Address of the block entry of outer index o and blocked index x. -/
def blockEntry (t : Tensor) (blen o x : Nat) : Nat := t.scale + 2 * (o * blocksOf t.smode blen + x / blockSize t.smode)

/-- The code at outer index o and reduction index x of an operand read in format f. -/
def operandCode (s : State) (t : Tensor) (f o x : Nat) : Nat :=
  if t.tr then elemBits s (fmtBits f) (t.addr + x * strideIn t f) o
  else elemBits s (fmtBits f) (t.addr + o * strideIn t f) x

/-- A weight index names an entry of its group's codebook (R50, R51); G2 reads BF16 and FP32 subnormals as zero of
the same sign (R67). -/
def operandElem (s : State) (t : Tensor) (f blen : Nat) (g2 : Bool) (o x : Nat) : Elem :=
  let code := operandCode s t f o x
  if t.smode = 5 then mkElem 6 (memNat s (t.scale + 32 * (o / 64) + 2 * code) 2) false (some 0) else
  let el := mkElem f code (blockScaled t.smode) (if blockScaled t.smode then e8m0 s (blockEntry t blen o x) else some 0)
  match el.val with
  | .fin n m e => if g2 && (f == 6 || f == 9) && decide (m < 2 ^ sigBits f) then { el with val := .fin n 0 e, mag := 0 } else el
  | _ => el

/-! ## What a sub-tile or tile reads -/

/-- Byte spans of lines [l0, l1), elements [x0, x1). -/
def lineSpans (a stride w l0 l1 x0 x1 : Nat) : List (Nat × Nat) :=
  (List.range (l1 - l0)).map fun i => (a + (l0 + i) * stride + x0 * w / 8, (x1 * w + 7) / 8 - x0 * w / 8)

/-- Spans of outer indices [o0, o1) and reduction indices [k0, k1) of an operand. -/
def operandSpans (t : Tensor) (f o0 o1 k0 k1 : Nat) : List (Nat × Nat) :=
  if t.tr then lineSpans t.addr (strideIn t f) (fmtBits f) k0 k1 o0 o1
  else lineSpans t.addr (strideIn t f) (fmtBits f) o0 o1 k0 k1

/-- Spans of the tables that those elements need: block entries, row factors or codebooks. -/
def tableSpans (t : Tensor) (outer blen o0 o1 k0 k1 : Nat) : List (Nat × Nat) :=
  let b0 := k0 / blockSize t.smode
  let b1 := (k1 + blockSize t.smode - 1) / blockSize t.smode
  (if blockScaled t.smode then
    (List.range (o1 - o0)).map fun i => (t.scale + 2 * ((o0 + i) * blocksOf t.smode blen + b0), 2 * (b1 - b0))
   else []) ++
  (if rowScaled t.smode then [(rowTable t outer blen + 8 * o0, 8 * (o1 - o0))] else []) ++
  (if t.smode = 5 then [(t.scale + 32 * (o0 / 64), 32 * ((o1 + 63) / 64 - o0 / 64))] else [])

def spansBad (s : State) (xs : List (Nat × Nat)) : Bool := xs.any fun x => meetsBad s x.1 x.2

/-- Do the n consecutive entries of w bytes with their complements at address a agree? -/
def entriesAgree (s : State) (w a n : Nat) : Bool :=
  (List.range n).all fun i => compOk w (memNat s (a + 2 * w * i) w) (memNat s (a + 2 * w * i + w) w)

/-- Complements of the block entries and row factors in use (R10, R43). -/
def tablesAgree (s : State) (t : Tensor) (outer blen o0 o1 k0 k1 : Nat) : Bool :=
  let b0 := k0 / blockSize t.smode
  let b1 := (k1 + blockSize t.smode - 1) / blockSize t.smode
  (!blockScaled t.smode ||
    (List.range (o1 - o0)).all fun i => entriesAgree s 1 (t.scale + 2 * ((o0 + i) * blocksOf t.smode blen + b0)) (b1 - b0)) &&
  (!rowScaled t.smode || entriesAgree s 4 (rowTable t outer blen + 8 * o0) (o1 - o0))

/-! ## Products -/

/-- The part of an FP32 element in a pass (R58): 0 the whole element, 1 hi, 2 lo. -/
def passPart (k : Nat) (v : FVal) : FVal :=
  match v with
  | .fin n m e =>
    match k with
    | 0 => v
    | 1 => .fin n (m >>> 8) (e + 8)
    | _ => .fin n (m % 256) e
  | w => w

/-- A product in a pass: zero, infinity and NaN are judged on whole elements (R55). -/
def passProd (ka kb : Nat) (x y : FVal) : FVal :=
  if x.isFinite && y.isFinite then (passPart ka x).mul (passPart kb y) else x.mul y

/-- The passes of a pair of formats in force, in order (R58, R83). -/
def passesOf (fa fb : Nat) : List (Nat × Nat) :=
  match fa == 9, fb == 9 with
  | true, true => [(1, 1), (1, 2), (2, 1)]
  | true, false => [(1, 0), (2, 0)]
  | false, true => [(0, 1), (0, 2)]
  | false, false => [(0, 0)]

/-! ## CB4 products (R51, R52, R84) -/

/-- Code weight of the activation formats of R51, as a power of two (R48). -/
def codeWeight (fa : Nat) : Int := match fa with | 0 => 0 | 1 => -1 | _ => -3

/-- Entry [i][c] at 16 × i + c of the product table of the codebook at address cb, for activation format fa. -/
def productTable (s : State) (cb fa : Nat) : List FVal :=
  (List.range 256).map fun i => (bf16.decode (memNat s (cb + 2 * (i / 16)) 2)).mul (.fin false (i % 16) (codeWeight fa))

/-- The product of weight index i and an activation: T[i][c] × 2^e × the activation's scales, with the XOR of the
signs; an activation that is not finite meets the entry's class (R51, R55). -/
def tableProd (T : List FVal) (fa i : Nat) (x : Elem) : FVal :=
  match x.val with
  | .fin n m e =>
    let t := (T.getD (16 * i + x.mag) FVal.zero).scale (e - (if x.mag = m then 0 else 1) - codeWeight fa)
    if n then t.neg else t
  | v => v.mul (T.getD (16 * i + 1) FVal.zero)

/-! ## AF48 (R53-R57) -/

def Acc.zero (ea : Int) : Acc := { a := 0, ea := ea, nan := false, pinf := false, ninf := false, accf := 0 }

/-- rne_int of a value times 2^e. -/
def rneInt (neg : Bool) (m : Nat) (e : Int) : Int := if neg then -(rneNat m e : Int) else (rneNat m e : Int)

/-- rne_int(a / 2^k). -/
def rneDiv (a : Int) (k : Nat) : Int := rneInt (decide (a < 0)) a.natAbs (-(k : Int))

/-- One product into the step sum: rounded once to the LSB; a nonzero product that rounds to zero is an
accumulate-flush; a product that is not finite sets its flag (R53-R55). -/
def addProduct (acc : Acc) (v : FVal) : Acc :=
  match v with
  | .nan => { acc with nan := true }
  | .inf false => { acc with pinf := true }
  | .inf true => { acc with ninf := true }
  | .fin n m e =>
    let r := rneInt n m (e - acc.ea)
    { acc with a := acc.a + r, accf := acc.accf + (if r = 0 ∧ m ≠ 0 then 1 else 0) }

/-- The test at a K-group's end (R53, R75). -/
def renormalise (int : Bool) (acc : Acc) : Acc :=
  if !int && (decide (2 ^ 46 ≤ acc.a) || decide (acc.a ≤ -(2 ^ 46))) then
    { acc with a := rneDiv acc.a 8, ea := acc.ea + 8 }
  else acc

/-- K-groups of eight products in order. -/
def accGroups (int : Bool) : Nat → Acc → List FVal → Acc
  | 0, acc, _ => acc
  | g + 1, acc, ps =>
    if ps.isEmpty then acc
    else accGroups int g (renormalise int ((ps.take 8).foldl addProduct acc)) (ps.drop 8)

/-- Each pass runs the whole range in order. -/
def accPasses (int : Bool) (passes : List (Nat × Nat)) (acc : Acc) (xs ys : List FVal) : Acc :=
  passes.foldl (fun acc k => accGroups int (xs.length / 8 + 1) acc (List.zipWith (passProd k.1 k.2) xs ys)) acc

/-- Two split-K partials (R56). -/
def combine (int : Bool) (x y : Acc) : Acc :=
  let ea := max x.ea y.ea
  renormalise int
    { a := rneDiv x.a (ea - x.ea).toNat + rneDiv y.a (ea - y.ea).toNat, ea := ea, nan := x.nan || y.nan,
      pinf := x.pinf || y.pinf, ninf := x.ninf || y.ninf, accf := x.accf + y.accf }

/-- One level of the tree of R120: adjacent pairs, lower index first. -/
def treeLevel {α : Type} (f : α → α → α) : List α → List α
  | x :: y :: rest => f x y :: treeLevel f rest
  | xs => xs

def treeCombine {α : Type} (f : α → α → α) : Nat → List α → List α
  | 0, xs => xs
  | n + 1, xs => treeCombine f n (treeLevel f xs)

/-- The result of R55. -/
def accValue (acc : Acc) : FVal :=
  if acc.nan || (acc.pinf && acc.ninf) then .nan
  else if acc.pinf then .inf false
  else if acc.ninf then .inf true
  else FVal.ofInt acc.a acc.ea

/-- Integer accumulation is used when both formats are integers under SMODE 0 or 3 (R57). -/
def intAccumulate (fa fb sa sb : Nat) : Bool := isInt fa && isInt fb && !blockScaled sa && !blockScaled sb

/-! ## G2 (R67) -/

/-- Chunks of 16 products: one rounding each; a sum that underflows keeps its sign (log 30). -/
def g2Float : Nat → Word → List FVal → Word
  | 0, acc, _ => acc
  | n + 1, acc, ps =>
    if ps.isEmpty then acc
    else g2Float n (f32enc ((f32dec acc).add ((ps.take 16).foldl FVal.add FVal.zero))) (ps.drop 16)

/-- INT8 products in INT32 with wrap-around. -/
def g2Int (ps : List FVal) : Word :=
  ps.foldl (fun acc v => match v with | .fin n m e => acc + BitVec.ofInt 32 (rneInt n m e) | _ => acc) 0

def g2Acc (fmt : Nat) (xs ys : List FVal) : Acc :=
  let ps := List.zipWith FVal.mul xs ys
  let w := if fmt = 5 then g2Int ps else g2Float (ps.length / 16 + 1) 0 ps
  { Acc.zero 0 with a := w.toNat }

/-- The value of a G2 accumulator as the f32 epilogue takes it. -/
def g2Value (fmt : Nat) (acc : Acc) : Word :=
  let w : Word := BitVec.ofInt 32 acc.a
  if fmt = 5 then f32ofInt w.toInt else w

/-! ## Counts of R92 -/

/-- Digits of a width class (R80); compensated passes run at W16. -/
def digitsOf (w : Nat) : Nat := match w with | 0 => 1 | 1 => 2 | _ => 4

/-- The part of a magnitude code in a pass (R58): 0 the whole code, 1 hi, 2 lo. -/
def magPart (k mag : Nat) : Nat := match k with | 0 => mag | 1 => mag / 256 | _ => mag % 256

/-- Nonzero 4-bit digits of a magnitude code (R87). -/
def nzDigits (mag : Nat) : Nat := (List.range 4).countP fun i => mag / 16 ^ i % 16 != 0

/-- The magnitude codes of a K-group as they enter the cells: a BF16 or FP32 element more than 63 below the group's
largest exponent enters as zero (R49). -/
def enterGroup (fmt : Nat) (xs : List Elem) : List Nat :=
  let es := xs.filterMap (·.exp)
  let g := es.foldl max (es.headD 0)
  xs.map fun x => match x.exp with
    | some e => if (fmt = 6 ∨ fmt = 9) ∧ e < g - 63 then 0 else x.mag
    | none => x.mag

/-- The K-groups of a line as they enter the cells. -/
def enterLine (fmt : Nat) : Nat → List Elem → List (List Nat)
  | 0, _ => []
  | g + 1, xs => if xs.isEmpty then [] else enterGroup fmt (xs.take 8) :: enterLine fmt g (xs.drop 8)

/-- Cycles of one slice for one digit-serial step (R87). -/
def sliceCycles (da : Nat) (mags : List Nat) : Nat := max 1 (da * (mags.map nzDigits).foldl max 0)

/-- Cycles and K indices of each step of a column over its K-groups in a pass. -/
def columnSteps (da part : Nat) (groups : List (List Nat)) : List (Nat × Nat) :=
  groups.map fun g => (sliceCycles da (g.map (magPart part)), g.length)

/-- Active cell-cycles and digits skipped of one sub-tile of `rows` real rows: the columns' B codes by K-group, the
slices of the slot's grid. A slice that no real column feeds, and every slice of a cube wholly beyond M or N, takes
one cycle a step (R96, log 33). A G2 command counts the cells of its native gang (log 73). -/
def cellCounts (serial : Bool) (da db rows slices : Nat) (passes : List (Nat × Nat)) (cols : List (List (List Nat))) :
    Nat × Nat :=
  let groups := (cols.headD []).length
  if !serial || da * db = 1 then
    (rows * cols.length * ((cols.headD []).map (·.length)).sum * da * db * passes.length, 0)
  else
    let cubeRows := (rows + 7) / 8
    let steps := passes.flatMap fun p => cols.flatMap (columnSteps da p.2)
    let idle := (slices - cubeRows * cols.length) * groups * passes.length
    (rows * (steps.map fun x => x.1 * x.2).sum,
     64 * (cubeRows * (steps.map fun x => da * db - x.1).sum + idle * (da * db - 1)))

end Sys2Proof.Machine
end

