-- ==== Sys2Proof/Machine/Matrix.lean ====
section
/-! DEFINITION. The matrix commands: MM at command start (R114-R118, R125, R126), MM_CLUSTER_START (R85, R95),
DEQUE_REFILL (R118), TILE_STEAL (R119), SUBTILE_DRAIN (R77, R78, R121) and SPLITK_COMBINE (R120), with the epilogue of
R59-R64, the G2 epilogue of R68 and the measured scales of R365. -/

namespace Sys2Proof.Machine

namespace MmRun

def items (r : MmRun) : Nat := tileCount r.d * r.p
def int (r : MmRun) : Bool := intAccumulate r.fa r.fb r.d.a.smode r.d.b.smode

/-- First and last-plus-one row and column of tile t. -/
def tileRows (r : MmRun) (t : Nat) : Nat × Nat :=
  let i := t / tileCols r.d
  (i * r.d.tm, min ((i + 1) * r.d.tm) r.d.m)
def tileColumns (r : MmRun) (t : Nat) : Nat × Nat :=
  let j := t % tileCols r.d
  (j * r.d.tn, min ((j + 1) * r.d.tn) r.d.n)

/-- Output columns per cube (R77). -/
def nc (r : MmRun) : Nat := if r.wa ≥ 2 ∧ r.wb ≥ 2 ∧ !r.d.serial then 4 else 8
/-- Cube-rows and cube-columns of the arrangement of R77. -/
def cubes (r : MmRun) (rows cols : Nat) : Nat × Nat :=
  let s := r.d.slotSize
  if rows ≤ 8 then (1, 8 * s) else if cols ≤ r.nc then (8 * s, 1) else (s, 8)
/-- Rows and columns of a sub-tile: the grid shape of R77. -/
def grid (r : MmRun) (rows cols : Nat) : Nat × Nat := (8 * (r.cubes rows cols).1, (r.cubes rows cols).2 * r.nc)

/-- Sub-tiles of tile t in row-major order: rows [i0, i1), columns [j0, j1). -/
def subTiles (r : MmRun) (t : Nat) : List ((Nat × Nat) × (Nat × Nat)) :=
  let (r0, r1) := r.tileRows t
  let (c0, c1) := r.tileColumns t
  let (gr, gc) := r.grid (r1 - r0) (c1 - c0)
  (List.range ((r1 - r0 + gr - 1) / gr)).flatMap fun i => (List.range ((c1 - c0 + gc - 1) / gc)).map fun j =>
    ((r0 + i * gr, min (r0 + (i + 1) * gr) r1), (c0 + j * gc, min (c0 + (j + 1) * gc) c1))

/-- K range of item i. -/
def range (r : MmRun) (i : Nat) : Nat × Nat := rangeOf r.d.k r.p (i % r.p)

end MmRun

/-- The numbers [a, b). -/
def upTo (a b : Nat) : List Nat := (List.range (b - a)).map (a + ·)

/-! ## Command start -/

def lineArea (a lines bytes stride : Nat) : Area := { host := false, addr := a, lines := lines, bytes := bytes, stride := stride }
def flatArea (a n : Nat) : Area := lineArea a 1 n 0

/-- What the command may write (R129, R339): C, the lo tensor, the scratch region, a measured scale table. -/
def mmAreas (r : MmRun) : List Area :=
  let c := r.d.c
  let out (a : Nat) := lineArea a c.lines (lineBytes r.fc c.length) (strideIn c r.fc)
  [out c.addr] ++ (if r.d.pairEn then [out (pairLo r.d r.fc)] else []) ++
  (if 1 < r.p then [flatArea r.d.scratch r.d.scratchSize] else []) ++
  (if r.measure then [flatArea c.scale (scaleBytes c r.d.m r.d.n)] else [])

/-- What it reads: the output's own scale table unless that is measured. -/
def mmInputs (r : MmRun) : List Area :=
  let d := r.d
  let tens (t : Tensor) (f : Nat) := lineArea t.addr t.lines (lineBytes f t.length) (strideIn t f)
  (if d.operands then
    [tens d.a r.fa, tens d.b r.fb, flatArea d.a.scale (scaleBytes d.a d.m d.k), flatArea d.b.scale (scaleBytes d.b d.n d.k)]
   else []) ++
  (if d.biasEn then [flatArea d.bias.addr (lineBytes d.bias.fmt d.n)] else []) ++
  (if r.measure then [] else [flatArea d.c.scale (scaleBytes d.c d.m d.n)]) ++
  (if d.scaleEn then [flatArea d.epiPtr (8 * (if d.scalePerCol then d.n else d.m))] else [])

/-- Watch the inputs of a command from its start on (R100); watches of commands no longer in flight are dropped. -/
def watchInputs (s : State) (p : Fin 4) (q : Fin 16) (n : Word) (r : MmRun) : State :=
  let old := s.watch.filter fun w => (cmdAt s w.p w.q w.n).isSome && !(w.p == p && w.q == q && w.n == n)
  { s with watch := { p := p, q := q, n := n, areas := mmInputs r, changed := false } :: old }

/-- Has a byte of the command's inputs changed since command start? -/
def inputsChanged (s : State) (p : Fin 4) (q : Fin 16) (n : Word) : Bool :=
  s.watch.any fun w => w.p == p && w.q == q && w.n == n && w.changed

/-- What C or lo shares with the command's inputs, its output scale table and the declared scratch (R104). -/
def overlapAreas (r : MmRun) : List Area :=
  let outs := (mmAreas r).take (if r.d.pairEn then 2 else 1)
  let others := mmInputs r ++ (if r.measure then [flatArea r.d.c.scale (scaleBytes r.d.c r.d.m r.d.n)] else []) ++
    [flatArea r.d.scratch r.d.scratchSize]
  others.filter fun y => outs.any fun x => areasMeet x.addr x.lines x.bytes x.stride y.addr y.lines y.bytes y.stride

def mmRun (s : State) (p : Fin 4) (d : MmDesc) : MmRun :=
  let P := polder s p
  let w := widthsInForce P d
  let fc := outFmt P d
  let sp := splitCount d (dieCount s p)
  let n := clusterCount s p d.base d.count
  { d := d, fa := (widthFmt d.a.fmt w.1).getD d.a.fmt, fb := (widthFmt d.b.fmt w.2).getD d.b.fmt, fc := fc, wa := w.1,
    wb := w.2, p := sp, measure := measuresC P d,
    lanes := (List.range n).map fun c => (c, laneOf (tileCount d * sp) n c), changed := false,
    partials := [], finished := [], combined := [] }

/-- The first governed command of an unset layer sets its width, and every governed command latches its band (R180,
R181). -/
def latchLayer (s : State) (p : Fin 4) (d : MmDesc) : State :=
  if !d.governed then s else
  modPolder s p fun P => { P with layers := tabMod none P.layers d.layer (Option.map fun (L : Layer) =>
    let L := { L with stepBand := match L.stepBand with
                | none => some (d.bandMin, d.bandMax)
                | some (lo, hi) => some (max lo d.bandMin, min hi d.bandMax) }
    if L.width.isNone then { L with width := some d.start, adopted := some (d.start, P.step) } else L) }

def doMm (p : Fin 4) (q : Fin 16) (e : Entry) (s : State) : State :=
  runEntry s p q e 0x01 (fun s => mmChecks s p e) fun t =>
    let d := readLayer s e.desc.toNat
    let r := mmRun t p d
    let t := latchLayer t p d
    if d.empty then endCmd t p q e.seq .ok else
    let t := watchInputs t p q e.seq r
    let t := setAreas (setBody t p q e.seq (.mm r)) p q e.seq (mmAreas r ++ overlapAreas r)
    if d.k = 0 then addWarn t p q e.seq wKZero else t

def execMm (p : Fin 4) (q : Fin 16) (e : Entry) (s : State) : Host.Outcome State Fault Refusal := .next (doMm p q e s)

/-! ## Lanes -/

/-- The cluster at position k of the command's range. -/
def mmCluster (s : State) (p : Fin 4) (d : MmDesc) (k : Nat) : Fin 256 := (clustersOf s p).getD (d.base + k) 0

def laneAt (r : MmRun) (k : Nat) : Option MmLane := (r.lanes.find? fun x => x.1 == k).map (·.2)
def setLane (r : MmRun) (k : Nat) (l : MmLane) : MmRun :=
  { r with lanes := r.lanes.map fun x => if x.1 = k then (k, l) else x }

/-- Refill: up to 64 items in order from the block (R118). -/
def refill (l : MmLane) : MmLane :=
  let n := min (64 - l.deque.length) (l.stop - l.next)
  { l with deque := l.deque ++ upTo l.next (l.next + n), next := l.next + n }

/-- Items of the command not yet taken by a tile engine. -/
def waiting (l : MmLane) : Bool := decide (l.next < l.stop) || !l.deque.isEmpty
/-- An idle tile engine (R119), though its last item may still run. -/
def idleLane (l : MmLane) : Bool := l.deque.isEmpty && decide (l.stop ≤ l.next)
def doneLane (l : MmLane) : Bool := idleLane l && l.item.isNone

/-- A live MM command's progress. -/
def liveMm (s : State) (p : Fin 4) (q : Fin 16) (n : Word) : Option (Cmd × MmRun) :=
  match liveCmd s p q n with
  | some c => match c.body with
    | .mm r => some (c, r)
    | _ => none
  | none => none

/-- Free the slots of clusters without an item once no item of the command is left to take (R95). -/
def settleSlots (s : State) (p : Fin 4) (q : Fin 16) (n : Word) (r : MmRun) : State :=
  if r.lanes.any fun x => waiting x.2 then s else
  r.lanes.foldl (fun s x =>
    if x.2.started && doneLane x.2 then
      modCluster s (mmCluster s p r.d x.1) fun C => leaveSlots C p q n
    else s) s

/-- Do the cube-rows of the slot meet a busy slot (R95)? -/
def slotFree (C : Cluster) (o sz : Nat) : Bool := C.slots.all fun x => decide (o + sz ≤ x.1) || decide (x.1 + x.2.1 ≤ o)

/-! ## Cubes of a slot (R73-R86, R93, R94). A grid shape's cubes fill the slot's positions in row-major order, and a
cluster's first sub-tile of a command uses bank 0: log 74. -/

/-- Physical cubes of the command's slot on cluster c, by grid position. -/
def slotCubes (s : State) (c : Fin 256) (d : MmDesc) : List Nat :=
  (List.range (8 * d.slotSize)).map fun x => physCube s c (8 * d.slot + x)

/-- Key of a bank of a physical cube. -/
def bankKey (b : Bool) (phys : Nat) : Nat := 66 * b.toNat + phys

/-- The cubes at cube-column y of an arrangement of `cols` cube-columns, and at its first `rows` cube-rows. -/
def columnCubes (cubes : List Nat) (rows cols y : Nat) : List Nat := (List.range rows).map fun x => cubes.getD (x * cols + y) 0

/-- Build the tables of a sub-tile of `shape` cubes, columns [j0, j1), into table bank b: each group's table goes to the
cubes whose columns lie in the group (R84, R85). -/
def buildTables (s : State) (c : Fin 256) (r : MmRun) (b : Bool) (shape js : Nat × Nat) : State :=
  if r.d.b.smode = 5 ∧ r.d.k ≠ 0 then
    let cubes := slotCubes s c r.d
    (upTo (js.1 / 64) ((js.2 + 63) / 64)).foldl (fun s g =>
      let T := productTable s (r.d.b.scale + 32 * g) r.fa
      let ys := (List.range shape.2).filter fun y => decide (js.1 + 8 * y < js.2 ∧ (js.1 + 8 * y) / 64 = g)
      let put (t : Tab (List FVal)) (k : Nat) := tabSet [] t (bankKey b k) T
      modCluster s c fun C => { C with tables := (ys.flatMap (columnCubes cubes shape.1 shape.2)).foldl put C.tables }) s
  else s

/-- The arrangement of the sub-tiles of tile t. -/
def MmRun.shape (r : MmRun) (t : Nat) : Nat × Nat :=
  r.cubes ((r.tileRows t).2 - (r.tileRows t).1) ((r.tileColumns t).2 - (r.tileColumns t).1)

/-- Build the tables of the sub-tile that lane l runs next, in the bank it uses: at command start and while the one
before it runs (R85). -/
def buildNext (s : State) (c : Fin 256) (r : MmRun) (l : MmLane) : State :=
  match l.item.or l.deque.head? with
  | none => s
  | some i => match (r.subTiles (i / r.p))[l.sub]? with
    | none => s
    | some (_, js) => buildTables s c r l.bank (r.shape (i / r.p)) js

/-- The accumulator and the column of the cube that output column j of a cube uses (R81). -/
def cubeColumn (nc j : Nat) : Nat := if nc = 4 then 2 * (j % 4) else j % 8

/-- The 64 accumulators of the cube at cube-row x and cube-column y of a sub-tile of `rows` × `cols` outputs; one
without a real output holds zero (R81, R96). -/
def cubeAccs (nc rows cols : Nat) (accs : List Acc) (x y : Nat) : List Acc :=
  (List.range 64).map fun a =>
    let i := 8 * x + a / 8
    let j := nc * y + (if nc = 4 then a % 8 / 2 else a % 8)
    if i < rows ∧ j < cols ∧ cubeColumn nc j = a % 8 then accs.getD (i * cols + j) (Acc.zero 0) else Acc.zero 0

/-- Cubes of a sub-tile that hold a real output: cube-row, cube-column and physical cube. -/
def realCubes (cubes : List Nat) (nc : Nat) (shape : Nat × Nat) (rows cols : Nat) : List (Nat × Nat × Nat) :=
  (List.range (min shape.1 ((rows + 7) / 8))).flatMap fun x =>
    (List.range (min shape.2 ((cols + nc - 1) / nc))).map fun y => (x, y, cubes.getD (x * shape.2 + y) 0)

/-- A sub-tile's sums land in bank b of the slot's cubes; its other cubes hold zero (R73, R78, R94). -/
def landSums (s : State) (c : Fin 256) (r : MmRun) (b : Bool) (shape : Nat × Nat) (rows cols : Nat) (accs : List Acc) :
    State :=
  let cubes := slotCubes s c r.d
  let own (k : Nat) : Bool := k / 66 == b.toNat && cubes.contains (k % 66)
  let put (t : Tab Acc) (z : Nat × Nat × Nat) :=
    tabSplice (Acc.zero 0) t (64 * bankKey b z.2.2) (cubeAccs r.nc rows cols accs z.1 z.2.1)
  modCluster s c fun C =>
    { C with accs := (realCubes cubes r.nc shape rows cols).foldl put (C.accs.filter fun x => !own (x.1 / 64)) }

/-- The digit registers of the cube at cube-row x and cube-column y after the last step: the exact products of the
codes of its 8 × 8 × 8 cells (R86). -/
def cubeDigits (as bs : List (List Nat)) (x y : Nat) : List Word :=
  (List.range 512).map fun a =>
    BitVec.ofNat 32 ((as.getD (8 * x + a / 64) []).getD (a % 8) 0 * (bs.getD (8 * y + a / 8 % 8) []).getD (a % 8) 0)

/-- After a digit-serial sub-tile the digit registers hold its last step: `as` and `bs` are the codes of the last
K-group in the last pass, by row and by column. -/
def landDigits (s : State) (c : Fin 256) (r : MmRun) (shape : Nat × Nat) (as bs : List (List Nat)) : State :=
  let cubes := slotCubes s c r.d
  let put (t : Tab Word) (z : Nat × Nat × Nat) := tabSplice 0 t (512 * z.2.2) (cubeDigits as bs z.1 z.2.1)
  modCluster s c fun C =>
    let old := C.digits.filter fun x => !cubes.contains (x.1 / 512)
    { C with digits := (realCubes cubes 8 shape as.length bs.length).foldl put old }

def stageBuffer (s : State) (c : Fin 256) (o sz : Nat) : State :=
  let lo := o * 196608
  nextDraw (modCluster s c fun C =>
    { C with buffer := tabErase C.buffer lo (lo + sz * 196608), staged := C.staged ++ [(lo, lo + sz * 196608, s.draws)] })

/-- The deque of a cluster is filled when the command starts there: log 75. -/
def doMmClusterStart (p : Fin 4) (q : Fin 16) (n : Word) (k : Nat) (s : State) : State :=
  match liveMm s p q n with
  | none => s
  | some (_, r) =>
    match laneAt r k with
    | none => s
    | some l =>
      let c := mmCluster s p r.d k
      let o := r.d.slot
      let sz := r.d.slotSize
      if l.started ∨ !slotFree (cluster s c) o sz ∨ !(r.lanes.any fun x => waiting x.2) then s else
      let l := refill { l with started := true }
      let s := modCluster s c fun C => { C with slots := C.slots ++ [(o, sz, p, q, n)] }
      let s := buildNext (stageBuffer s c o sz) c r l
      setBody s p q n (.mm (setLane r k l))

def execMmClusterStart (p : Fin 4) (q : Fin 16) (n : Word) (k : Nat) (s : State) : Host.Outcome State Fault Refusal :=
  .next (doMmClusterStart p q n k s)

def doDequeRefill (p : Fin 4) (q : Fin 16) (n : Word) (k : Nat) (s : State) : State :=
  match liveMm s p q n with
  | none => s
  | some (_, r) =>
    match laneAt r k with
    | none => s
    | some l =>
      if l.started ∧ l.deque.length ≤ 16 ∧ l.next < l.stop then
        let l' := refill l
        let s := if l.deque.isEmpty && l.item.isNone then buildNext s (mmCluster s p r.d k) r l' else s
        setBody s p q n (.mm (setLane r k l'))
      else s

def execDequeRefill (p : Fin 4) (q : Fin 16) (n : Word) (k : Nat) (s : State) : Host.Outcome State Fault Refusal :=
  .next (doDequeRefill p q n k s)

/-! ## Stealing (R119) -/

/-- Die-to-die edges form the square C0-C1, C1-C3, C3-C2, C2-C0 (R22): the distance of two C-dies. -/
def edges (a b : Nat) : Nat := if a = b then 0 else if a + b = 3 then 2 else 1

/-- Positions of the range in the thief's search order: its own die from its cluster number + 1 upwards modulo 64,
then the other dies by distance and number. -/
def victimOrder (s : State) (p : Fin 4) (r : MmRun) (k : Nat) : List Nat :=
  let at_ (x : Nat) := (mmCluster s p r.d x).val
  let me := at_ k
  let ks := r.lanes.map (·.1)
  let own := (ks.filter fun x => at_ x / 64 == me / 64 && x != k).mergeSort fun x y =>
    decide ((at_ x + 64 - me - 1) % 64 ≤ (at_ y + 64 - me - 1) % 64)
  let far := (ks.filter fun x => at_ x / 64 != me / 64).mergeSort fun x y =>
    decide (edges (me / 64) (at_ x / 64) * 256 + at_ x ≤ edges (me / 64) (at_ y / 64) * 256 + at_ y)
  own ++ far

def hasItem (r : MmRun) (k : Nat) : Bool := match laneAt r k with | some l => !l.deque.isEmpty | none => false

def doTileSteal (p : Fin 4) (q : Fin 16) (n : Word) (k : Nat) (s : State) : State :=
  match liveMm s p q n with
  | none => s
  | some (c, r) =>
    match laneAt r k, (victimOrder s p r k).find? (hasItem r) with
    | some l, some v =>
      match laneAt r v with
      | none => s
      | some lv =>
        if l.started ∧ idleLane l then
          let r := setLane r v { lv with deque := lv.deque.dropLast }
          let l := { l with deque := lv.deque.getLast?.toList }
          let r := setLane r k l
          let s := countAdd (countAdd s p c.e.ctrSet 11 1) p c.e.ctrSet 12 1
          let s := if l.item.isNone then buildNext s (mmCluster s p r.d k) r l else s
          settleSlots (setBody s p q n (.mm r)) p q n r
        else s
    | _, _ => s

def execTileSteal (p : Fin 4) (q : Fin 16) (n : Word) (k : Nat) (s : State) : Host.Outcome State Fault Refusal :=
  .next (doTileSteal p q n k s)

/-! ## The epilogue (R59-R64) -/

/-- Round to the 34 significand bits of EW. -/
def rne34 (v : FVal) : FVal :=
  match v with
  | .fin n m e => let r := roundSig 34 (-1000000) m e; .fin n r.1 r.2
  | w => w

/-- Clip a value; NaN passes unchanged (R59, R60). -/
def clipTo (lo hi v : FVal) : FVal := if v.isNan then v else if v.lt lo then lo else if hi.lt v then hi else v

/-- The f32 factor with its complement at entry i of a table. -/
def factorAt (s : State) (a i : Nat) : Word := BitVec.ofNat 32 (memNat s (a + 8 * i) 4)

/-- The value of an accumulator, and whether an integer sum left the INT32 range (R55, R57). -/
def accOut (r : MmRun) (acc : Acc) : FVal × Bool :=
  let lim : Int := 2 ^ 31 - 1
  if r.int ∧ (lim < acc.a ∨ acc.a < -lim) then (FVal.ofInt (if acc.a < 0 then -lim else lim), true)
  else (accValue acc, false)

/-- v after step 3 of R59 for output (i, j). -/
def epiValue (s : State) (r : MmRun) (i j : Nat) (v : FVal) : FVal :=
  let d := r.d
  let v := rne34 v
  let v := if rowScaled d.a.smode && d.k != 0 then rne34 (v.mul (f32dec (factorAt s (rowTable d.a d.m d.k) i))) else v
  let v := if rowScaled d.b.smode && d.k != 0 then rne34 (v.mul (f32dec (factorAt s (rowTable d.b d.n d.k) j))) else v
  let v := if d.scaleEn then rne34 (v.mul (f32dec (factorAt s d.epiPtr (if d.scalePerCol then j else i)))) else v
  let v := if d.biasEn then
    rne34 (v.add (decodeElem d.bias.fmt (elemBits s (fmtBits d.bias.fmt) d.bias.addr j))) else v
  if d.clipEn then clipTo (f32dec d.clipLo) (f32dec d.clipHi) v else v

/-- The f32 epilogue of G2: one rounding per operation (R68). -/
def g2Epilogue (s : State) (r : MmRun) (i j : Nat) (v : Word) : Word :=
  let d := r.d
  let v := if d.a.smode = 3 ∧ d.k ≠ 0 then f32mul v (factorAt s (rowTable d.a d.m d.k) i) else v
  let v := if d.b.smode = 3 ∧ d.k ≠ 0 then f32mul v (factorAt s (rowTable d.b d.n d.k) j) else v
  let v := if d.scaleEn then f32mul v (factorAt s d.epiPtr (if d.scalePerCol then j else i)) else v
  let v := if d.biasEn then f32add v (BitVec.ofNat 32 (memNat s (d.bias.addr + 4 * j) 4)) else v
  if d.clipEn then f32enc (clipTo (f32dec d.clipLo) (f32dec d.clipHi) (f32dec v)) else v

/-- Overflow to infinity, subnormals flushed to signed zero (R68, FP32 and BF16). -/
def g2Float32 (f : FFmt) (t : FVal) : Conv :=
  match t with
  | .fin n m e =>
    let x := roundSig (f.mb + 1) f.emin m e
    let c := f.pack x.1 x.2
    if c < 2 ^ f.mb then ⟨f.signBit n, false, decide (m ≠ 0), false⟩
    else ⟨f.signBit n + min c (f.maxCode + 1), false, false, false⟩
  | w => f.convert .rne false w

/-- INT8 to nearest, ties away, −128 or 127 (R68). -/
def g2Int8 (t : FVal) : Conv :=
  match t with
  | .nan => ⟨0, false, false, false⟩
  | .inf n => ⟨if n then 0x80 else 0x7F, true, false, false⟩
  | .fin n m e =>
    let k := rnaNat m e
    let lim := if n then 128 else 127
    ⟨encodeSigned 8 n (min k lim), decide (lim < k), false, decide (lim < k)⟩

/-- Targets that R68 lists. -/
def g2Target (fc : Nat) : Bool := fc == 9 || fc == 6 || fc == 3 || fc == 5

/-- Another target counts no saturation and no flush: log 32. -/
def g2Convert (fc : Nat) (t : FVal) : Conv :=
  match fc with
  | 9 => g2Float32 fp32 t
  | 6 => g2Float32 bf16 t
  | 3 => e4m3.convert .rne false t
  | 5 => g2Int8 t
  | _ => ⟨0, false, false, false⟩

/-- One output element: v and t of R59, its conversion, the code of lo, and its counts. -/
structure OutElem where
  v    : FVal
  t    : FVal
  conv : Conv
  lo   : Nat
  sat  : Bool
  accf : Bool

/-- The lo code of a pair (R59 step 5). -/
def loCode (d : MmDesc) (fc : Nat) (t : FVal) (c : Conv) : Nat :=
  let hi := decodeElem fc c.code
  if c.sat || !hi.isFinite then 0 else (convertElem fc .rne d.flushEn false (t.sub hi)).code

/-- Convert v under output scale s (none: the scale entry is NaN, R45). -/
def outElem (r : MmRun) (scale : Option Int) (v : FVal) (intSat : Bool) (accf : Nat) : OutElem :=
  let scaled := blockScaled r.d.c.smode
  let t := match scale with | some k => v.scale (-k) | none => .nan
  let c := if r.d.g2 then g2Convert r.fc t else convertElem r.fc .rne r.d.flushEn scaled t
  { v := v, t := t, conv := c, lo := if r.d.pairEn then loCode r.d r.fc t c else 0,
    sat := c.sat || (intSat && !t.isNan), accf := decide (0 < accf) }

/-! ## Writing a block of output -/

/-- The bytes of one tensor (C or lo) of rows from i0 and columns from j0: each line segment with its address. -/
def outLines (r : MmRun) (a i0 j0 : Nat) (rows : List (List Nat)) : List (Nat × List Byte) :=
  let w := fmtBits r.fc
  let st := strideIn r.d.c r.fc
  if r.d.c.tr then
    (List.range (rows.headD []).length).map fun j =>
      (a + (j0 + j) * st + i0 * w / 8, packLine w (rows.map fun row => row.getD j 0))
  else rows.mapIdx fun i row => (a + (i0 + i) * st + j0 * w / 8, packLine w row)

def writeAll (s : State) (p : Fin 4) (set : BitVec 16) (xs : List (Nat × List Byte)) : State × Bool :=
  xs.foldl (fun x y => let w := unitWrite x.1 p set y.1 y.2; (w.1, x.2 && w.2)) (s, true)

/-- Gauge contributions of a row of elements (R160). -/
def feedRow (ladder : Nat) (scaled : Bool) (g : GTot) (xs : List OutElem) : GTot :=
  xs.foldl (fun g x => feedGauge ladder scaled g x.v x.t x.sat x.conv.flush x.accf) g

/-- State bits of one element's block (R176). -/
def blockBits (fc : Nat) (x : OutElem) : Byte :=
  bitW ||| (if x.conv.flag then bitF else 0) ||| (if nearTop fc x.t then bitH else 0)

/-- Spillway bits of a row i from column j0, by state-entry address (R177); a C whose shape or block size is not the
table's is addressed by the table's blocks per line and its own block size (log 95). -/
def spillRow (g : Gauge) (bs fc i j0 : Nat) (spill : Tab Byte) (xs : List OutElem) : Tab Byte :=
  (xs.zipIdx j0).foldl (fun sp x =>
    tabMod 0 sp (g.stateAddr + 2 * (i * g.bpl + x.2 / bs)) (· ||| blockBits fc x.1)) spill

/-- Add a block of output elements to the command: memory, counts, gauge and spillway contributions; false when a
write met a poisoned block. -/
def emit (s : State) (p : Fin 4) (q : Fin 16) (n : Word) (r : MmRun) (i0 j0 : Nat) (rows : List (List OutElem)) :
    State × Bool :=
  match cmdAt s p q n with
  | none => (s, true)
  | some c =>
    let P := seenBy (polder s p) c
    let all := rows.flatten
    let hi := outLines r r.d.c.addr i0 j0 (rows.map fun row => row.map (·.conv.code))
    let w := writeAll s p c.e.ctrSet hi
    let w := if r.d.pairEn then
        let l := writeAll w.1 p c.e.ctrSet (outLines r (pairLo r.d r.fc) i0 j0 (rows.map fun row => row.map (·.lo)))
        (l.1, w.2 && l.2)
      else w
    let s := if r.d.g2 && !g2Target r.fc then hi.foldl (fun s x => spoil s x.1 x.2.length) w.1 else w.1
    let s := noteCounts s p q n c.e.ctrSet (all.countP (·.sat)) (all.countP (·.conv.flush)) 0
    let scaled := blockScaled r.d.c.smode
    let contrib := match gaugeOf P r.d.gauge with
      | some g => tabMod GTot.zero c.contrib r.d.gauge fun t => rows.foldl (feedRow g.ladder scaled) t
      | none => c.contrib
    let spill := match (if scaled then managedAt P r.d.c.scale else none) with
      | some g => (rows.zipIdx i0).foldl (fun sp x => spillRow g (blockSize r.d.c.smode) r.fc x.2 j0 sp x.1) c.spill
      | none => c.spill
    (modCmd s p q n fun c => { c with contrib := contrib, spill := spill }, w.2)

/-- Output scales of row i for columns [j0, j1), as powers of two. -/
def outScale (s : State) (r : MmRun) (i j : Nat) : Option Int :=
  if blockScaled r.d.c.smode then e8m0 s (blockEntry r.d.c r.d.n i j) else some 0

/-- v and the integer saturation of an accumulator of output (i, j). -/
def finishAcc (s : State) (r : MmRun) (i j : Nat) (acc : Acc) : FVal × Bool :=
  if r.d.g2 then (f32dec (g2Epilogue s r i j (g2Value r.fa acc)), false)
  else let x := accOut r acc; (epiValue s r i j x.1, x.2)

/-- Cut a list into rows of n. -/
def rowsOf {α : Type} (n : Nat) : Nat → List α → List (List α)
  | 0, _ => []
  | k + 1, xs => xs.take n :: rowsOf n k (xs.drop n)

/-- The epilogue's reads of bias, factors and output scales for rows `is` and columns `js`, counted (R415). -/
def countEpi (s : State) (p : Fin 4) (set : BitVec 16) (r : MmRun) (is js : Nat × Nat) : State :=
  let d := r.d
  let fac := if d.scalePerCol then js else is
  let w := fmtBits d.bias.fmt / 8
  let spans := (if d.biasEn then [(d.bias.addr + js.1 * w, (js.2 - js.1) * w)] else []) ++
    (if d.scaleEn then [(d.epiPtr + 8 * fac.1, 8 * (fac.2 - fac.1))] else []) ++
    (if !r.measure && blockScaled d.c.smode then tableSpans d.c d.m d.n is.1 is.2 js.1 js.2 else [])
  spans.foldl (fun s x => noteAccess s p set x.1 x.2) s

/-- The epilogue of one sub-tile. -/
def drainEpilogue (s : State) (p : Fin 4) (q : Fin 16) (n : Word) (r : MmRun) (is js : Nat × Nat) (accs : List Acc) :
    State × Bool :=
  let rows := (rowsOf (js.2 - js.1) (is.2 - is.1) accs).mapIdx fun i row => row.mapIdx fun j acc =>
    let x := finishAcc s r (is.1 + i) (js.1 + j) acc
    outElem r (outScale s r (is.1 + i) (js.1 + j)) x.1 x.2 acc.accf
  emit (countEpi s p (setOf s p q n) r is js) p q n r is.1 js.1 rows

/-- Tables that the epilogue of rows `is`, columns `js` reads: bias, factors, output scales, row factors. -/
def epiStatus (s : State) (r : MmRun) (is js : Nat × Nat) : Option Status :=
  let d := r.d
  let fac := if d.scalePerCol then js else is
  let facSpan := (d.epiPtr + 8 * fac.1, 8 * (fac.2 - fac.1))
  let w := fmtBits d.bias.fmt / 8
  let cTab := !r.measure && blockScaled d.c.smode
  firstFail
    [(!d.biasEn || !meetsBad s (d.bias.addr + js.1 * w) ((js.2 - js.1) * w), .eccUncorrected),
     (!d.scaleEn || !meetsBad s facSpan.1 facSpan.2, .eccUncorrected),
     (!cTab || !spansBad s (tableSpans d.c d.m d.n is.1 is.2 js.1 js.2), .eccUncorrected),
     (!d.scaleEn || entriesAgree s 4 facSpan.1 (fac.2 - fac.1), .complementMismatch),
     (!cTab || tablesAgree s d.c d.m d.n is.1 is.2 js.1 js.2, .complementMismatch)]

/-! ## Measured scales (R365, R46) -/

def emaxOf (fmt : Nat) : Int := match fmt with | 1 => 2 | 3 => 8 | 4 => 15 | _ => 0

/-- The largest finite magnitude of a list. -/
def amaxOf (vs : List FVal) : FVal := vs.foldl (fun a v => if v.isFinite && a.lt v.abs then v.abs else a) FVal.zero

/-- The scale of R46 as its E8M0 value. -/
def measured (fmt : Nat) (vs : List FVal) : Nat :=
  let a := amaxOf vs
  if a.isZero then 127 else (min 254 (a.log2 - emaxOf fmt + 127)).toNat

/-- The sums of the whole output, row by row, from the partials of every tile. -/
def sumsAt (r : MmRun) : Tab Acc :=
  (List.range (tileCount r.d)).flatMap fun t =>
    let coords := (r.subTiles t).flatMap fun x => (upTo x.1.1 x.1.2).flatMap fun i => (upTo x.2.1 x.2.2).map fun j => (i, j)
    List.zipWith (fun ij acc => (ij.1 * r.d.n + ij.2, acc)) coords (tabGet [] r.partials (t * r.p))

/-- Write one row under the scales measured from its own values. -/
def emitMeasured (s : State) (p : Fin 4) (q : Fin 16) (n : Word) (r : MmRun) (sums : Tab Acc) (i : Nat) : State × Bool :=
  let set := setOf s p q n
  let xs := (List.range r.d.n).map fun j =>
    let acc := tabGet (Acc.zero 0) sums (i * r.d.n + j)
    (finishAcc s r i j acc, acc.accf)
  let bs := blockSize r.d.c.smode
  let nb := blocksOf r.d.c.smode r.d.n
  let ks := (List.range nb).map fun b => measured r.fc (((xs.drop (b * bs)).take bs).map (·.1.1))
  let w := unitWrite (countEpi s p set r (i, i + 1) (0, r.d.n)) p set (r.d.c.scale + 2 * i * nb) (ks.flatMap (withComp 1))
  let row := xs.mapIdx fun j x => outElem r (some ((ks.getD (j / bs) 127 : Nat) - 127)) x.1.1 x.1.2 x.2
  let z := emit w.1 p q n r i 0 [row]
  (z.1, w.2 && z.2)

/-! ## The end of the command -/

/-- R104: where C (or lo) meets what the command read or its scratch, both are undefined afterwards. -/
def spoilOverlap (s : State) (r : MmRun) : State :=
  let hit := overlapAreas r
  if hit.isEmpty then s else spoilAreas s ((mmAreas r).take (if r.d.pairEn then 2 else 1) ++ hit)

/-- R100: a command whose inputs changed while it ran leaves C, and lo, undefined. -/
def spoilChanged (s : State) (p : Fin 4) (q : Fin 16) (n : Word) (r : MmRun) : State :=
  if r.changed || inputsChanged s p q n then spoilAreas s ((mmAreas r).take (if r.d.pairEn then 2 else 1)) else s

/-- All work done: scratch is undefined (R117), the slots are free, and the command has ended with OK. -/
def finishMm (s : State) (p : Fin 4) (q : Fin 16) (n : Word) (r : MmRun) : State :=
  let s := if 1 < r.p then spoil s r.d.scratch r.d.scratchSize else s
  endCmd (releaseUnits (spoilChanged (spoilOverlap s r) p q n r) p q n) p q n .ok

def measureAll (s : State) (p : Fin 4) (q : Fin 16) (n : Word) (r : MmRun) : State × Bool :=
  let sums := sumsAt r
  (List.range r.d.m).foldl (fun x i => let w := emitMeasured x.1 p q n r sums i; (w.1, x.2 && w.2)) (s, true)

/-- The command has ended once every tile has its output. -/
def mmDone (r : MmRun) : Bool :=
  if 1 < r.p then decide (tileCount r.d ≤ r.combined.length) else decide (r.items ≤ r.finished.length)

/-- Store the progress; when all tiles are done, end the command. -/
def mmAdvance (s : State) (p : Fin 4) (q : Fin 16) (n : Word) (r : MmRun) : State :=
  let s := settleSlots (setBody s p q n (.mm r)) p q n r
  if !mmDone r then s
  else if !r.measure then finishMm s p q n r
  else match epiStatus s r (0, r.d.m) (0, r.d.n) with
    | some st => failCmd s p q n st
    | none =>
      let w := measureAll s p q n r
      if w.2 then finishMm w.1 p q n r else failCmd w.1 p q n .eccUncorrected

/-! ## SUBTILE_DRAIN -/

/-- What the operands of rows `is` and columns `js` over K range `ks` meet. -/
def operandStatus (s : State) (r : MmRun) (is js ks : Nat × Nat) : Option Status :=
  let d := r.d
  if d.k = 0 then none else
  firstFail
    [(!spansBad s (operandSpans d.a r.fa is.1 is.2 ks.1 ks.2), .eccUncorrected),
     (!spansBad s (tableSpans d.a d.m d.k is.1 is.2 ks.1 ks.2), .eccUncorrected),
     (!spansBad s (operandSpans d.b r.fb js.1 js.2 ks.1 ks.2), .eccUncorrected),
     (!spansBad s (tableSpans d.b d.n d.k js.1 js.2 ks.1 ks.2), .eccUncorrected),
     (tablesAgree s d.a d.m d.k is.1 is.2 ks.1 ks.2, .complementMismatch),
     (tablesAgree s d.b d.n d.k js.1 js.2 ks.1 ks.2, .complementMismatch)]

def elemRow (s : State) (t : Tensor) (f blen : Nat) (g2 : Bool) (o : Nat) (ks : Nat × Nat) : List Elem :=
  (upTo ks.1 ks.2).map (operandElem s t f blen g2 o)

/-- The largest of a list of exponents; 0 over none. -/
def topOf : List Int → Int
  | [] => 0
  | e :: rest => rest.foldl max e

/-- The largest RA(m) or CB(n) of a list of rows, each 0 over no counted element (R53). -/
def topExp (xss : List (List Elem)) : Int := topOf (xss.map fun xs => topOf (xs.filterMap (·.be)))

/-- The tile exponent of a tile over a K range. -/
def tileExp (s : State) (r : MmRun) (t : Nat) (ks : Nat × Nat) : Int :=
  let rows := (upTo (r.tileRows t).1 (r.tileRows t).2).map fun i => elemRow s r.d.a r.fa r.d.k r.d.g2 i ks
  let cols := (upTo (r.tileColumns t).1 (r.tileColumns t).2).map fun j => elemRow s r.d.b r.fb r.d.k r.d.g2 j ks
  topExp rows + topExp cols + 2

/-- The product table that output column j of a sub-tile reads: that of its cube in the first cube-row. -/
def columnTable (s : State) (c : Fin 256) (r : MmRun) (b : Bool) (js : Nat × Nat) (j : Nat) : List FVal :=
  tabGet [] (cluster s c).tables (bankKey b ((slotCubes s c r.d).getD ((j - js.1) / 8) 0))

/-- The accumulators of a sub-tile over a K range, row-major (R121). -/
def accumulate (s : State) (c : Fin 256) (b : Bool) (r : MmRun) (t : Nat) (is js ks : Nat × Nat) : List Acc :=
  if r.d.k = 0 then (upTo is.1 is.2).flatMap fun _ => (upTo js.1 js.2).map fun _ => Acc.zero 0 else
  let ea := if r.int ∨ r.d.g2 then 0 else tileExp s r t ks - 36
  let rows := (upTo is.1 is.2).map fun i => elemRow s r.d.a r.fa r.d.k r.d.g2 i ks
  if r.d.b.smode = 5 then
    let cols := (upTo js.1 js.2).map fun j => (columnTable s c r b js j, (upTo ks.1 ks.2).map (operandCode s r.d.b r.fb j))
    rows.flatMap fun xs => cols.map fun y =>
      accGroups false (xs.length / 8 + 1) (Acc.zero ea) (List.zipWith (tableProd y.1 r.fa) y.2 xs)
  else
    let cols := (upTo js.1 js.2).map fun j => (elemRow s r.d.b r.fb r.d.k r.d.g2 j ks).map (·.val)
    rows.flatMap fun xs => cols.map fun ys =>
      if r.d.g2 then g2Acc r.fa (xs.map (·.val)) ys
      else accPasses r.int (passesOf r.fa r.fb) (Acc.zero ea) (xs.map (·.val)) ys

/-- Bytes that one tile's panels move, counted once when its first sub-tile starts (R415). -/
def countPanels (s : State) (p : Fin 4) (set : BitVec 16) (r : MmRun) (t : Nat) (ks : Nat × Nat) : State :=
  let is := r.tileRows t
  let js := r.tileColumns t
  let spans := if r.d.k = 0 then [] else
    operandSpans r.d.a r.fa is.1 is.2 ks.1 ks.2 ++ tableSpans r.d.a r.d.m r.d.k is.1 is.2 ks.1 ks.2 ++
    operandSpans r.d.b r.fb js.1 js.2 ks.1 ks.2 ++ tableSpans r.d.b r.d.n r.d.k js.1 js.2 ks.1 ks.2
  spans.foldl (fun s x => noteAccess s p set x.1 x.2) s

/-- The codes of a line of an operand as they enter the cells, by K-group. -/
def cellLine (s : State) (t : Tensor) (f blen o : Nat) (ks : Nat × Nat) : List (List Nat) :=
  enterLine f ((ks.2 - ks.1) / 8 + 1) (elemRow s t f blen false o ks)

/-- Cell-cycles and digits skipped of a sub-tile (R92), and the digit registers it leaves (R86). -/
def countCells (s : State) (p : Fin 4) (set : BitVec 16) (c : Fin 256) (r : MmRun) (shape is js ks : Nat × Nat) : State :=
  if r.d.k = 0 then s else
  let passes := passesOf r.fa r.fb
  let cols := (upTo js.1 js.2).map fun j => cellLine s r.d.b r.fb r.d.k j ks
  let x := cellCounts r.d.serial (digitsOf r.wa) (digitsOf r.wb) (is.2 - is.1) (64 * r.d.slotSize) passes cols
  let s := countAdd (countAdd s p set 1 x.1) p set 10 x.2
  if r.d.serial && digitsOf r.wa * digitsOf r.wb != 1 then
    let rows := (upTo is.1 is.2).map fun i => cellLine s r.d.a r.fa r.d.k i ks
    let last := passes.getLast?.getD (0, 0)
    let codes (part : Nat) (xs : List (List (List Nat))) := xs.map fun y => ((y.getLast?).getD []).map (magPart part)
    landDigits s c r shape (codes last.1 rows) (codes last.2 cols)
  else s

/-- The lane after sub-tile `sub` of item i: the next sub-tile, or the item's end; the banks alternate (R78). -/
def nextSub (l : MmLane) (i subs : Nat) : MmLane :=
  let l := { l with bank := !l.bank }
  if l.sub + 1 < subs then { l with item := some i, sub := l.sub + 1 } else { l with item := none, sub := 0 }

/-- The item in progress, or the front of the deque. -/
def takeItem (l : MmLane) : Option (Nat × MmLane) :=
  match l.item, l.deque with
  | some i, _ => some (i, l)
  | none, i :: rest => some (i, { l with item := some i, sub := 0, deque := rest })
  | none, [] => none

/-- Keep the sums of a sub-tile of item i. -/
def keepSums (r : MmRun) (i : Nat) (accs : List Acc) : MmRun :=
  { r with partials := tabMod [] r.partials i (· ++ accs) }

/-- Where range i mod p of a tile keeps the partials of a sub-tile's rows: 16 bytes per output (R117); the layout is
the module's own (log 76). -/
def partialSpans (r : MmRun) (i : Nat) (is js : Nat × Nat) : List (Nat × Nat) :=
  (upTo is.1 is.2).map fun row =>
    (r.d.scratch + 16 * ((i % r.p) * r.d.m * r.d.n + row * r.d.n + js.1), 16 * (js.2 - js.1))

/-- Write the partials of a sub-tile; false when a write met a failed block. -/
def writePartials (s : State) (p : Fin 4) (set : BitVec 16) (xs : List (Nat × Nat)) : State × Bool :=
  xs.foldl (fun w x =>
    let z := unitWrite w.1 p set x.1 ((List.range x.2).map fun k => Config.freeByte w.1.draws (x.1 + k))
    (nextDraw z.1, w.2 && z.2)) (s, true)

/-- Keep a sub-tile's sums: in the scratch region when the K range is split, else until the output is measured. -/
def keepSub (s : State) (p : Fin 4) (q : Fin 16) (n : Word) (cm : Cmd) (r : MmRun) (i : Nat) (is js : Nat × Nat)
    (accs : List Acc) : State :=
  let w := if 1 < r.p then writePartials s p cm.e.ctrSet (partialSpans r i is js) else (s, true)
  if w.2 then mmAdvance w.1 p q n (keepSums r i accs) else failCmd w.1 p q n .eccUncorrected

/-- Run and drain one sub-tile of item i on the cluster of lane k: sums to the partial, or through the epilogue into C.
The tables of the next sub-tile are built meanwhile. -/
def drainSub (s : State) (p : Fin 4) (q : Fin 16) (n : Word) (cm : Cmd) (r : MmRun) (k i : Nat) (l : MmLane)
    (is js : Nat × Nat) : State :=
  let t := i / r.p
  let ks := r.range i
  let c := mmCluster s p r.d k
  match operandStatus s r is js ks with
  | some st => failCmd s p q n st
  | none =>
    let s := if l.sub = 0 then countPanels s p cm.e.ctrSet r t ks else s
    let accs := accumulate s c l.bank r t is js ks
    let s := countCells s p cm.e.ctrSet c r (r.shape t) is js ks
    let s := noteCounts s p q n cm.e.ctrSet 0 0 (accs.map (·.accf)).sum
    let s := landSums s c r l.bank (r.shape t) (is.2 - is.1) (js.2 - js.1) accs
    let l' := nextSub l i (r.subTiles t).length
    let s := buildNext s c r l'
    let r := setLane r k l'
    let r := if l'.item.isNone then { r with finished := r.finished ++ [(i, k)] } else r
    if 1 < r.p ∨ r.measure then keepSub s p q n cm r i is js accs else
    match epiStatus s r is js with
    | some st => failCmd s p q n st
    | none =>
      let w := drainEpilogue s p q n r is js accs
      if w.2 then mmAdvance w.1 p q n r else failCmd w.1 p q n .eccUncorrected

def doSubtileDrain (p : Fin 4) (q : Fin 16) (n : Word) (k : Nat) (s : State) : State :=
  match liveMm s p q n with
  | none => s
  | some (cm, r) =>
    match (laneAt r k).filter (·.started) with
    | none => s
    | some l =>
      match takeItem l with
      | none => s
      | some (i, l) =>
        match (r.subTiles (i / r.p))[l.sub]? with
        | none => s
        | some (is, js) => drainSub s p q n cm r k i l is js

def execSubtileDrain (p : Fin 4) (q : Fin 16) (n : Word) (k : Nat) (s : State) : Host.Outcome State Fault Refusal :=
  .next (doSubtileDrain p q n k s)

/-! ## SPLITK_COMBINE -/

/-- The combined sums of tile t by the tree of R120. -/
def tileSums (r : MmRun) (t : Nat) : List Acc :=
  (treeCombine (List.zipWith (combine r.int)) 4 ((List.range r.p).map fun j => tabGet [] r.partials (t * r.p + j))).headD []

/-- The partials of a tile in the scratch region. -/
def tilePartials (r : MmRun) (t : Nat) : List (Nat × Nat) :=
  (List.range r.p).flatMap fun j => (r.subTiles t).flatMap fun x => partialSpans r j x.1 x.2

/-- Cut the sums of a tile by sub-tile and drain each. -/
def drainTile (s : State) (p : Fin 4) (q : Fin 16) (n : Word) (r : MmRun) :
    List ((Nat × Nat) × (Nat × Nat)) → List Acc → State × Option Status
  | [], _ => (s, none)
  | (is, js) :: rest, accs =>
    match epiStatus s r is js with
    | some st => (s, some st)
    | none =>
      let k := (is.2 - is.1) * (js.2 - js.1)
      let w := drainEpilogue s p q n r is js (accs.take k)
      if w.2 then drainTile w.1 p q n r rest (accs.drop k) else (w.1, some .eccUncorrected)

/-- Every range of tile t has been finished. -/
def tileReady (r : MmRun) (t : Nat) : Bool :=
  (List.range r.p).all fun j => r.finished.any fun x => x.1 == t * r.p + j

/-- The lane that finished the last range of tile t. -/
def finisher (r : MmRun) (t : Nat) : Option Nat := ((r.finished.filter fun x => x.1 / r.p = t).getLast?).map (·.2)

def doSplitkCombine (p : Fin 4) (q : Fin 16) (n : Word) (k t : Nat) (s : State) : State :=
  match liveMm s p q n with
  | none => s
  | some (cm, r) =>
    if 1 < r.p ∧ t < tileCount r.d ∧ tileReady r t ∧ finisher r t = some k ∧ !r.combined.contains t then
      let spans := tilePartials r t
      let s := spans.foldl (fun s x => noteAccess s p cm.e.ctrSet x.1 x.2) s
      if spansBad s spans then failCmd s p q n .eccUncorrected else
      let sums := tileSums r t
      let r' := { r with combined := r.combined ++ [t] }
      if r.measure then mmAdvance s p q n { r' with partials := tabSet [] r'.partials (t * r.p) sums } else
      let w := drainTile s p q n r (r.subTiles t) sums
      match w.2 with
      | some st => failCmd w.1 p q n st
      | none => mmAdvance w.1 p q n r'
    else s

def execSplitkCombine (p : Fin 4) (q : Fin 16) (n : Word) (k : Nat) (t : Nat) (s : State) : Host.Outcome State Fault Refusal :=
  .next (doSplitkCombine p q n k t s)

end Sys2Proof.Machine
end

