-- ==== Sys2Proof/Machine/UpdateConfig.lean ====
section
/-! DEFINITION. Parameter groups and schedules: GROUP_CONFIG (R197, R198), SCHED_CONFIG (R204), and the functions of
them that an UPDATE evaluates (R199, R205). -/

namespace Sys2Proof.Machine

def wordAtOff (b : List Byte) (o : Nat) : Word := BitVec.ofNat 32 (fld b o 4)

/-! ## GROUP_CONFIG -/

def readGroup (b : List Byte) : Group :=
  { rule := fld b 2 1, sched := fld b 3 1, skip := (b.getD 1 0).getLsbD 1, baseLr := wordAtOff b 4, b1 := wordAtOff b 8,
    b2 := wordAtOff b 0xC, eps := wordAtOff b 0x10, wd := wordAtOff b 0x14, trust := wordAtOff b 0x18,
    n0 := wordAtOff b 0x1C, master := fld b 0x20 1, moment := fld b 0x21 1, policy := fld b 0x22 1 }

def removes (b : List Byte) : Bool := (b.getD 1 0).getLsbD 0

/-- Finite and at least zero. -/
def nonNeg (x : Word) : Bool := (f32dec x).isFinite && FVal.le FVal.zero (f32dec x)
/-- In [0, 1). -/
def belowOne (x : Word) : Bool := FVal.le FVal.zero (f32dec x) && FVal.lt (f32dec x) FVal.one
def positive (x : Word) : Bool := (f32dec x).isFinite && FVal.lt FVal.zero (f32dec x)

def storedFmt (f : Nat) : Bool := f == 9 || f == 6

/-- The accepted values of R197; a field that the rule does not use is not checked. -/
def groupOk (g : Group) : Bool :=
  decide (g.rule ≤ 3) && (decide (g.sched ≤ 63) || g.sched == 0xFF) && nonNeg g.baseLr && nonNeg g.wd &&
  storedFmt g.master && decide (g.policy ≤ 1) &&
  (g.rule == 0 || (belowOne g.b1 && storedFmt g.moment)) &&
  (decide (g.rule < 2) || (belowOne g.b2 && positive g.eps)) && (g.rule != 3 || nonNeg g.trust)

/-- One entry of GROUP_CONFIG against the polder's groups and schedules (R198). -/
def groupEntryOk (P : Polder) (b : List Byte) : Bool :=
  decide (fld b 1 1 < 4) &&
  (if removes b then (tabGet none P.groups (fld b 0 1)).isSome
   else
    let g := readGroup b
    zeroAt b 0x23 13 && groupOk g && (g.sched == 0xFF || (tabGet none P.scheds g.sched).isSome))

/-- No ID twice. -/
def idsDiffer (es : List (List Byte)) : Bool := decide ((es.map fun b => fld b 0 1).Nodup)

def putGroup (P : Polder) (b : List Byte) : Polder :=
  { P with groups := tabSet none P.groups (fld b 0 1) (if removes b then none else some (readGroup b)) }

def doGroupConfig (p : Fin 4) (s : State) : State :=
  serve s (vf p) 0x109 32 anyPayload fun s b =>
    let n := fld b 0 2
    let es := slices b 0x20 48 n
    if zeroAt b 2 30 && decide (1 ≤ n) && decide (n ≤ 83) && decide (32 + 48 * n ≤ b.length) && idsDiffer es &&
        es.all (groupEntryOk (polder s p)) then
      accept (modPolder s p fun P => es.foldl putGroup P)
    else refuse s .descInvalid

def execGroupConfig (p : Fin 4) (s : State) : Host.Outcome State Fault Refusal := .next (doGroupConfig p s)

/-! ## SCHED_CONFIG -/

def readSched (b : List Byte) : Sched :=
  { restarts := (b.getD 1 0).getLsbD 1, doubling := (b.getD 1 0).getLsbD 2, kind := fld b 2 1, ns := wordAtOff b 4,
    nw := wordAtOff b 8, nd := wordAtOff b 0xC, rEnd := wordAtOff b 0x10, log2g := wordAtOff b 0x14 }

/-- r_end in [0, 1]. -/
def ratioOk (x : Word) : Bool := FVal.le FVal.zero (f32dec x) && FVal.le (f32dec x) FVal.one
def logOk (x : Word) : Bool := (f32dec x).isFinite && FVal.le (f32dec x) FVal.zero

def schedOk (c : Sched) : Bool :=
  decide (c.kind ≤ 4) && ((!c.restarts && !c.doubling) || c.kind == 4) &&
  ((c.kind == 0 || c.kind == 2) || c.nd != 0) && ((c.kind != 1 && c.kind != 4) || ratioOk c.rEnd) &&
  ((c.kind != 2 && c.kind != 3) || logOk c.log2g)

/-- Is schedule `id` named by a group (R204)? -/
def schedNamed (P : Polder) (id : Nat) : Bool :=
  P.groups.any fun x => match x.2 with | some g => g.sched == id | none => false

def schedEntryOk (P : Polder) (b : List Byte) : Bool :=
  decide (fld b 0 1 < 64) && decide (fld b 1 1 < 8) &&
  (if removes b then (tabGet none P.scheds (fld b 0 1)).isSome && !schedNamed P (fld b 0 1)
   else zeroAt b 3 1 && zeroAt b 0x18 8 && schedOk (readSched b))

def putSched (P : Polder) (b : List Byte) : Polder :=
  { P with scheds := tabSet none P.scheds (fld b 0 1) (if removes b then none else some (readSched b)) }

def doSchedConfig (p : Fin 4) (s : State) : State :=
  serve s (vf p) 0x10A 32 anyPayload fun s b =>
    let n := fld b 0 2
    let es := slices b 0x20 32 n
    if zeroAt b 2 30 && decide (1 ≤ n) && decide (n ≤ 125) && decide (32 + 32 * n ≤ b.length) && idsDiffer es &&
        es.all (schedEntryOk (polder s p)) then
      accept (modPolder s p fun P => es.foldl putSched P)
    else refuse s .descInvalid

def execSchedConfig (p : Fin 4) (s : State) : Host.Outcome State Fault Refusal := .next (doSchedConfig p s)

/-! ## phi (R205) -/

def f32one : Word := 0x3F800000

/-- floor of a value at least zero. -/
def floorNat (x : Word) : Nat :=
  match f32dec x with
  | .fin false m e => if 0 ≤ e then m <<< e.toNat else m >>> (-e).toNat
  | _ => 0

/-- The period of restarts with doubling: at most 33 rounds, since the periods sum beyond 2^32. -/
def restartLoop : Nat → Nat → Nat → Nat × Nat
  | 0, y, p => (y, p)
  | k + 1, y, p => if p ≤ y then restartLoop k (y - p) (2 * p) else (y, p)

/-- Position and period of the cosine (R205). -/
def cosPhase (c : Sched) (x : Nat) : Nat × Nat :=
  let p := c.nd.toNat
  if c.restarts then (if c.doubling then restartLoop 34 x p else (x % p, p)) else (min x p, p)

def phi (c : Sched) (n : Word) : Word :=
  if n < c.ns then 0 else
  let s := (n - c.ns).toNat
  if s < c.nw.toNat then f32div (f32ofNat (s + 1)) (f32ofNat c.nw.toNat) else
  let x := s - c.nw.toNat
  match c.kind with
  | 0 => f32one
  | 1 => f32sub f32one (f32mul (f32sub f32one c.rEnd) (f32div (f32ofNat (min x c.nd.toNat)) (f32ofNat c.nd.toNat)))
  | 2 => f32approx 0 (f32mul (f32ofNat x) c.log2g)
  | 3 => f32approx 0 (f32mul (f32ofNat (x / c.nd.toNat)) c.log2g)
  | _ =>
    let yp := cosPhase c x
    let f := f32mul (f32div (f32ofNat yp.1) (f32ofNat yp.2)) 0x44800000
    let i := min (floorNat f) 1023
    let cv := f32add (cosTable i) (f32mul (f32sub f (f32ofNat i)) (f32sub (cosTable (i + 1)) (cosTable i)))
    f32add c.rEnd (f32mul (f32sub f32one c.rEnd) cv)

/-- phi of the schedule that a group names (R205). -/
def phiOf (P : Polder) (g : Group) (n : Word) : Word :=
  match tabGet none P.scheds g.sched with
  | some c => if g.sched = 0xFF then f32one else phi c n
  | none => f32one

/-- pow_sm: square-and-multiply, least significant bit first (R199). -/
def powSm : Nat → Word → Word → Nat → Word
  | 0, r, _, _ => r
  | k + 1, r, x, t =>
    if t = 0 then r else powSm k (if t % 2 = 1 then f32mul r x else r) (f32mul x x) (t / 2)

def powOf (b t : Word) : Word := powSm 32 f32one b t.toNat

end Sys2Proof.Machine
end

