-- ==== Sys2Proof/Machine/UpdateRun.lean ====
section
/-! DEFINITION. What an UPDATE in flight consists of: the descriptor's fields (R191), its blocks (R192, R194), the
report (R212), the update cell (R203) and how it ends early (R455). -/

namespace Sys2Proof.Machine

/-- The 64-byte report of R212. -/
def updReport (r : UpdRun) (n : Word) : List Byte :=
  leBytes 4 n.toNat ++ leBytes 4 r.committed.length ++ leBytes 4 r.skipped.length ++ leBytes 4 r.fclip.toNat ++
  leBytes 4 r.lr.toNat ++ leBytes 4 (BitVec.ofInt 32 (if r.group.policy = 1 then r.e else 0)).toNat ++
  leBytes 4 r.amax.toNat ++ leBytes 4 r.nonfinite ++ leBytes 4 (r.t n).toNat ++
  [if r.skipAll then 1 else 0] ++ zeros 27

def writeUpdReport (s : State) (p : Fin 4) (set : BitVec 16) (r : UpdRun) (n : Word) : State :=
  if r.report = 0 then s else (unitWrite s p set r.report (updReport r n)).1

/-- e_next of R203. -/
def nextExp (r : UpdRun) : Int :=
  let v := f32dec r.amax
  if v.isZero then r.e else max (-127) (min 127 (v.log2 - 14))

/-- The update cell after the command (R203); bytes 0x18-0x1F are reserved and stay. A cell that another UPDATE of the
step has written is undefined. -/
def writeUpdCell (s : State) (p : Fin 4) (set : BitVec 16) (r : UpdRun) (n : Word) : State :=
  if r.group.policy ≠ 1 then s else
  let shared := (polder s p).cells.contains r.cell
  let s := (unitWrite s p set r.cell (withComp 4 n.toNat ++ withComp 4 (BitVec.ofInt 32 (nextExp r)).toNat ++
    withComp 4 (BitVec.ofInt 32 r.e).toNat)).1
  if shared then spoil s r.cell 24 else modPolder s p fun P => { P with cells := r.cell :: P.cells }

/-- An UPDATE stops as class C1: committed blocks stay, the rest is untouched, the report is written (R455). -/
def failUpdate (s : State) (p : Fin 4) (q : Fin 16) (n : Word) (st : Status) (r : UpdRun) (step : Word) : State :=
  writeUpdReport (failCmd s p q n st) p (setOf s p q n) r step

def setDetail (s : State) (p : Fin 4) (q : Fin 16) (n : Word) (v : Nat) : State :=
  modCmd s p q n fun c => { c with detail := BitVec.ofNat 32 v }

end Sys2Proof.Machine
end

