-- ==== Sys2Proof/Machine/Ve.lean ====
section
/-! DEFINITION. The vector engine: instruction fields (R135, R136), loops and the program counter (R151), exceptions
(R155-R157), and the frame of every VE row. -/

namespace Sys2Proof.Machine

/-! ## Fields of an instruction word (R135) -/

def fPg (w : DWord) : Nat := bitsAt w 53 3
def fPn (w : DWord) : Bool := w.getLsbD 52
def fD (w : DWord) : Nat := bitsAt w 47 5
def fA (w : DWord) : Nat := bitsAt w 42 5
def fB (w : DWord) : Nat := bitsAt w 37 5
def fC (w : DWord) : Nat := bitsAt w 32 5
def fBsel (w : DWord) : Nat := bitsAt w 30 2
def fMod (w : DWord) : Nat := bitsAt w 24 6
def fRsvd (w : DWord) : Nat := bitsAt w 0 24
def iMod (w : DWord) : Nat := bitsAt w 32 10
def fImm (w : DWord) : Word := w.setWidth 32
def mX (w : DWord) : Nat := bitsAt w 44 3
def mRsvd (w : DWord) : Nat := bitsAt w 35 2
def mWidth (w : DWord) : Nat := bitsAt w 32 3
def mPost (w : DWord) : Bool := w.getLsbD 31
/-- The signed byte offset of form M, at address width. -/
def mOff (w : DWord) : BitVec 48 := (w.setWidth 31).signExtend 48

/-! ## Registers -/

def fin2 (k : Nat) : Fin 2 := ofNatFin 2 k (by decide)
def fin8 (k : Nat) : Fin 8 := ofNatFin 8 k (by decide)
def fin64 (k : Nat) : Fin 64 := ofNatFin 64 k (by decide)

def vreg (V : Ve) (k : Nat) : Vector Word 64 := V.v.get (fin32 k)
def sregOf (V : Ve) (k : Nat) : Word := V.sreg.get (fin16 k)
def aregOf (V : Ve) (k : Nat) : BitVec 48 := V.a.get (fin8 k)
def predOf (V : Ve) (k : Nat) : DWord := V.p.get (fin8 k)

def setSreg (V : Ve) (k : Nat) (x : Word) : Ve := { V with sreg := V.sreg.set (fin16 k) x }
def setAreg (V : Ve) (k : Nat) (x : BitVec 48) : Ve := { V with a := V.a.set (fin8 k) x }
def setPred (V : Ve) (k : Nat) (x : DWord) : Ve := { V with p := V.p.set (fin8 k) x }

/-- Is lane i active (R136)? -/
def active (V : Ve) (w : DWord) (i : Fin 64) : Bool := (predOf V (fPg w)).getLsbD i.val != fPn w

/-- Lanes for which f holds, as a mask. -/
def laneMask (f : Fin 64 → Bool) : DWord :=
  (List.finRange 64).foldl (fun m i => if f i then m ||| (1#64 <<< i.val) else m) 0

def activeMask (V : Ve) (w : DWord) : DWord := laneMask (active V w)

/-- Write the active lanes of a vector register; the others stay (R136). -/
def setLanes (V : Ve) (w : DWord) (k : Nat) (f : Fin 64 → Word) : Ve :=
  { V with v := V.v.set (fin32 k) (Vector.ofFn fun i => if active V w i then f i else (vreg V k).get i) }

def srcA (V : Ve) (w : DWord) (i : Fin 64) : Word := (vreg V (fA w)).get i
/-- Source B: a vector register, or a scalar register in every lane. -/
def srcB (V : Ve) (w : DWord) (i : Fin 64) : Word := if fBsel w = 1 then sregOf V (fB w) else (vreg V (fB w)).get i
def srcC (V : Ve) (w : DWord) (i : Fin 64) : Word := (vreg V (fC w)).get i

/-! ## Outcome of one instruction -/

/-- Where the program goes: past the instruction at `last`, to a branch target, or nowhere. -/
inductive Flow where
  | past (last : Nat)
  | jump (target : Nat)
  | hold

inductive VeOut where
  | ok (s : State) (f : Flow)
  /-- An exception with its lane mask and address (R155, R157). -/
  | trap (cause : Nat) (lanes : DWord) (addr : Nat)

abbrev VeOp := State → Fin 256 → DWord → VeOut

def allLanes : DWord := BitVec.allOnes 64
/-- An exception of no lane. -/
def trapOf (cause : Nat) : VeOut := .trap cause allLanes 0

def pcOf (s : State) (c : Fin 256) : Nat := (ve s c).pc.toNat

/-- Go on with the next instruction. -/
def goOn (s : State) (c : Fin 256) : VeOut := .ok s (.past (pcOf s c))

/-- An instruction that changes only the VE. -/
def veOnly (legal : Ve → DWord → Bool) (f : Ve → DWord → Ve) : VeOp := fun s c w =>
  if legal (ve s c) w then goOn (modVe s c fun V => f V w) c else trapOf 0x01

/-- Scalar, address, control and levee instructions name no predicate (R136). -/
def plain (w : DWord) : Bool := fPg w == 0 && !fPn w

/-- Reserved bits of form R. -/
def formR (w : DWord) : Bool := fRsvd w == 0 && decide (fBsel w ≤ 1)
/-- Form R with a source B that may be a scalar. -/
def formB (w : DWord) : Bool := formR w && (fBsel w == 0 || decide (fB w < 16))

/-! ## The program counter (R151) -/

/-- The end of loop i's body was reached: back to its first instruction, or the loop ends. -/
def loopEdge (i : Fin 2) (last : Nat) (x : Ve × Option Nat) : Ve × Option Nat :=
  match x.2, x.1.loops.get i with
  | none, some (first, l) =>
    if l ≠ last then x
    else if 1 < (x.1.lc.get i).toNat then ({ x.1 with lc := vmod x.1.lc i (· - 1) }, some first)
    else ({ x.1 with lc := x.1.lc.set i 0, loops := x.1.loops.set i none }, none)
  | _, _ => x

/-- The counter of the inner of two active loops. -/
def innerLoop (V : Ve) : Fin 2 :=
  match V.loops.get 0, V.loops.get 1 with
  | some (f0, _), some (f1, _) => if f0 < f1 then 1 else 0
  | _, _ => 0

/-- After the instruction at `last`: the next program counter, the inner loop's edge first. -/
def passed (V : Ve) (last : Nat) : Ve × Nat :=
  let i := innerLoop V
  let x := loopEdge (1 - i) last (loopEdge i last (V, none))
  (x.1, x.2.getD (last + 1))

/-- A branch out of loop i's body ends the loop. -/
def leaveLoop (target : Nat) (i : Fin 2) (V : Ve) : Ve :=
  match V.loops.get i with
  | some (first, last) =>
    if first ≤ target ∧ target ≤ last then V
    else { V with lc := V.lc.set i 0, loops := V.loops.set i none }
  | none => V

def flowed (V : Ve) (f : Flow) : Ve × Option Nat :=
  match f with
  | .past last => let x := passed V last; (x.1, some x.2)
  | .jump t => (leaveLoop t 1 (leaveLoop t 0 V), some t)
  | .hold => (V, none)

/-! ## Exceptions -/

/-- The status of a cause (R155). -/
def causeStatus (cause : Nat) : Status :=
  match cause with
  | 0x03 | 0x04 => .accessDenied
  | 0x05 => .complementMismatch
  | 0x06 => .formatUnsupported
  | 0x0A => .eccUncorrected
  | 0x0B => .timeout
  | 0x0C => .srDenied
  | _ => .descInvalid

/-- Polder-relative index of a cluster (R106). -/
def clusterIndex (s : State) (p : Fin 4) (c : Fin 256) : Nat :=
  match (diesOf s p).head? with
  | some d => c.val - 64 * d.val
  | none => c.val

/-- The exception report (R157). -/
def excReport (cause idx pc : Nat) (w lanes : DWord) (addr raised : Nat) : List Byte :=
  leBytes 1 cause ++ leBytes 1 (statusCode (causeStatus cause)) ++ leBytes 2 idx ++ leBytes 4 pc ++ leBytes 8 w.toNat ++
  leBytes 8 lanes.toNat ++ leBytes 8 addr ++ leBytes 4 raised ++ zeros 28

/-- The instruction at the program counter. -/
def wordAt (V : Ve) : DWord := V.prog.getD V.pc.toNat 0

/-- The clusters whose VE a command holds, by launch position. -/
def launchOf (s : State) (p : Fin 4) (q : Fin 16) (n : Word) : List (Fin 256) :=
  (clustersOf s p).filter fun c => ownedBy (ve s c) p q n

/-- Write an exception report, if the command has an address for it: in the D-tier traffic of its channels (R235). -/
def putReport (s : State) (p : Fin 4) (a : Nat) (rep : List Byte) : State := if a = 0 then s else regionWrite s p a rep

/-- A VK command stops with a cause: its units are released, what it could have written is undefined, the report is
written, and the completion carries the cause (R155, R156, R303). The VEs of `others` still run up to their next
instruction boundary; the command keeps its launch until it posts. -/
def failVk (s : State) (p : Fin 4) (q : Fin 16) (n : Word) (r : VkRun) (cause low : Nat) (rep : List Byte)
    (others : List (Fin 256)) : State :=
  let held := others.map fun c => (c, (ve s c).owner)
  let s := setDetail (failCmd s p q n (causeStatus cause)) p q n cause
  let s := setBody s p q n (.vk { r with started := true, raised := 1, low := low })
  let s := held.foldl (fun s x => modVe s x.1 fun V => { V with mode := .stopping, owner := x.2 }) s
  putReport s p r.report rep

/-- An UPDATE stops on an exception of its copy program: the report stands at its own plus 0x40 (R196), and
counts one cluster (log 100). -/
def failCopy (s : State) (p : Fin 4) (q : Fin 16) (n : Word) (r : UpdRun) (step : Word) (cause : Nat) (rep : List Byte) :
    State :=
  let s := setDetail (failUpdate s p q n (causeStatus cause) r step) p q n cause
  putReport s p (if r.report = 0 then 0 else r.report + 0x40) rep

/-- Does another cluster of the launch wait at a barrier that cluster c never reached (R149)? -/
def strandsOthers (s : State) (p : Fin 4) (q : Fin 16) (n : Word) (c : Fin 256) : Bool :=
  (launchOf s p q n).any fun d => (ve s d).mode == .atBarrier && decide ((ve s c).bars < (ve s d).bars)

/-- The cause, lanes and address of an exception: one that strands another cluster at a barrier is a barrier mismatch,
which no lane and no address raises (R149, log 77). -/
def trapCause (s : State) (p : Fin 4) (q : Fin 16) (n : Word) (c : Fin 256) (cause : Nat) (lanes : DWord) (addr : Nat) :
    Nat × DWord × Nat :=
  if strandsOthers s p q n c then (0x08, allLanes, 0) else (cause, lanes, addr)

/-- A cluster raises an exception. -/
def veTrap (s : State) (p : Fin 4) (q : Fin 16) (n : Word) (c : Fin 256) (cause pc : Nat) (w lanes : DWord) (addr : Nat) :
    State :=
  let x := trapCause s p q n c cause lanes addr
  let idx := clusterIndex s p c
  let rep := excReport x.1 idx pc w x.2.1 x.2.2 1
  match cmdAt s p q n with
  | none => s
  | some cmd =>
    match cmd.body with
    | .vk r =>
      failVk s p q n r x.1 idx rep ((launchOf s p q n).filter fun d => d != c && (ve s d).mode == .running)
    | .update r => failCopy s p q n r cmd.step x.1 rep
    | _ => s

/-- The report of a stop that the launch's engines share: that of the lowest cluster still running, counting them all;
without one, as for a failure at launch (log 58). -/
def stopReport (s : State) (p : Fin 4) (q : Fin 16) (n : Word) (cause : Nat) : List Byte :=
  let cs := (launchOf s p q n).filter fun c => (ve s c).mode == .running || (ve s c).mode == .atBarrier
  match cs with
  | [] => excReport cause 0xFFFF 0 0 0 0 0
  | c :: _ => excReport cause (clusterIndex s p c) (ve s c).pc.toNat (wordAt (ve s c)) allLanes 0 cs.length

/-- A VE at its instruction boundary, its launch stopped. -/
def stopVe (s : State) (c : Fin 256) : State := modCluster s c leaveVe

/-- A further cluster raises an exception before all have stopped: the report counts it, and describes the one with the
lowest index (R156). -/
def joinTrap (s : State) (p : Fin 4) (q : Fin 16) (n : Word) (r : VkRun) (c : Fin 256) (cause : Nat) (w lanes : DWord)
    (addr : Nat) : State :=
  let idx := clusterIndex s p c
  let rep := excReport cause idx (pcOf s c) w lanes addr (r.raised + 1)
  let s := setBody (stopVe s c) p q n (.vk { r with raised := r.raised + 1, low := min r.low idx })
  if idx < r.low then
    putReport (modCmd s p q n fun x => { x with res := some (causeStatus cause), detail := BitVec.ofNat 32 cause }) p r.report rep
  else putReport s p (if r.report = 0 then 0 else r.report + 0x20) (leBytes 4 (r.raised + 1))

/-- Set the program counter; a fetch beyond the program raises cause 0x04. -/
def fetchAt (s : State) (p : Fin 4) (q : Fin 16) (n : Word) (c : Fin 256) (f : Flow) : State :=
  match flowed (ve s c) f with
  | (_, none) => s
  | (V, some pc) =>
    if pc < V.prog.length then modVe s c fun _ => { V with pc := BitVec.ofNat 12 pc }
    else veTrap (modVe s c fun _ => V) p q n c 0x04 pc 0 allLanes 0

/-! ## The frame of a VE row -/

/-- The command whose program a cluster's VE runs. -/
def runningFor (s : State) (c : Fin 256) : Option (Fin 4 × Fin 16 × Word) :=
  let V := ve s c
  match V.mode, V.owner with
  | .running, some (p, q, n, _, _) =>
    match liveCmd s p q n with
    | some cmd => match cmd.body with
      | .vk _ | .update _ => some (p, q, n)
      | _ => none
    | none => none
  | _, _ => none

/-- The stopped VK launch of which a cluster's VE has not yet reached its instruction boundary (R156). -/
def stoppingFor (s : State) (c : Fin 256) : Option (Fin 4 × Fin 16 × Word × VkRun) :=
  match (ve s c).mode, (ve s c).owner with
  | .stopping, some (p, q, n, _, _) =>
    match cmdAt s p q n with
    | some cmd => match cmd.body with
      | .vk r => some (p, q, n, r)
      | _ => none
    | none => none
  | _, _ => none

/-- The last instruction of a VE whose launch has been stopped: what it would write is undefined already, so it only
ends, or raises an exception of its own. -/
def lastRow (op : Nat) (sub : DWord → Bool) (act : VeOp) (c : Fin 256) (s : State) : State :=
  match stoppingFor s c with
  | none => s
  | some (p, q, n, r) =>
    let w := wordAt (ve s c)
    if fOp w = op ∧ sub w then
      match act s c w with
      | .ok _ _ => stopVe s c
      | .trap cause lanes addr => joinTrap s p q n r c cause w lanes addr
    else s

/-- A row of op value `op`: the running program's next instruction, when it has that op. -/
def veRow (op : Nat) (sub : DWord → Bool) (act : VeOp) (c : Fin 256) (s : State) : State :=
  match runningFor s c with
  | none => lastRow op sub act c s
  | some (p, q, n) =>
    let w := wordAt (ve s c)
    if fOp w = op ∧ sub w then
      match act s c w with
      | .ok s' f => fetchAt s' p q n c f
      | .trap cause lanes addr => veTrap s p q n c cause (pcOf s c) w lanes addr
    else s

def anyWord (_ : DWord) : Bool := true

end Sys2Proof.Machine
end

