-- ==== Sys2Proof/Machine/VeScalar.lean ====
section
/-! DEFINITION. The scalar, address and control instructions of the vector engine (R137, R138, R151), but for END. -/

namespace Sys2Proof.Machine

/-! ## Integer operations -/

def maskCount (x : Word) : Nat := x.toNat % 32

/-- The operations of salu and salui (R138). -/
def saluOp (op : Nat) (a b : Word) : Option Word :=
  match op with
  | 0 => some (a + b)
  | 1 => some (a - b)
  | 2 => some (a * b)
  | 3 => some (a &&& b)
  | 4 => some (a ||| b)
  | 5 => some (a ^^^ b)
  | 6 => some (a <<< maskCount b)
  | 7 => some (a >>> maskCount b)
  | 8 => some (a.sshiftRight (maskCount b))
  | 9 => some (if a.slt b then a else b)
  | 10 => some (if a.slt b then b else a)
  | 11 => some (if a.slt b then 1 else 0)
  | 12 => some (if a.ult b then 1 else 0)
  | _ => none

def sfaluOp (op : Nat) (a b : Word) : Option Word :=
  match op with
  | 0 => some (f32add a b)
  | 1 => some (f32sub a b)
  | 2 => some (f32mul a b)
  | 3 => some (f32min a b)
  | 4 => some (f32max a b)
  | _ => none

/-- Write s[d] when the operation has a result. -/
def putScalar (s : State) (c : Fin 256) (w : DWord) (x : Option Word) : VeOut :=
  match x with
  | some x => goOn (modVe s c fun V => setSreg V (fD w) x) c
  | none => trapOf 0x01

def scalarD (w : DWord) : Bool := plain w && decide (fD w < 16)

def doVeNop : VeOp := fun s c w => if plain w then goOn s c else trapOf 0x01

/-- Conditions of bra (R137). -/
def braCond (V : Ve) (w : DWord) : Option Bool :=
  let x := sregOf V (fA w)
  let k := iMod w
  let sOk := decide (fA w < 16)
  let pOk := decide (fA w < 8)
  match k with
  | 0 => some true
  | 1 => if sOk then some (x == 0) else none
  | 2 => if sOk then some (x != 0) else none
  | 3 => if sOk then some (x.slt 0) else none
  | 4 => if pOk then some (predOf V (fA w) != 0) else none
  | 5 => if pOk then some (predOf V (fA w) == 0) else none
  | _ => none

/-- A taken branch goes to PC + sext(imm); a target outside the program raises cause 0x04 (R151). -/
def doBra : VeOp := fun s c w =>
  if !plain w then trapOf 0x01 else
  match braCond (ve s c) w with
  | none => trapOf 0x01
  | some false => goOn s c
  | some true =>
    let t := (pcOf s c : Int) + (fImm w).toInt
    if 0 ≤ t ∧ t < (ve s c).prog.length then .ok s (.jump t.toNat) else trapOf 0x04

/-- Does a loop with body [first, last] break a rule of R151? -/
def loopBad (V : Ve) (i : Fin 2) (len first last : Nat) : Bool :=
  (V.loops.get i).isSome || len == 0 || decide (V.prog.length ≤ last) ||
  (match V.loops.get (1 - i) with
   | some (_, outer) => decide (outer < last)
   | none => false) || decide (last < first)

/-- loop (R137, R151). -/
def doLoop : VeOp := fun s c w =>
  let V := ve s c
  let m := iMod w
  let len := (fImm w).toNat % 65536
  if !plain w || decide (4 ≤ m) || (decide (2 ≤ m) && decide (16 ≤ fA w)) then trapOf 0x01 else
  let i := fin2 m
  let count : Word := if m / 2 = 1 then sregOf V (fA w) else fImm w >>> 16
  let pc := pcOf s c
  if loopBad V i len (pc + 1) (pc + len) then trapOf 0x07
  else if count = 0 then .ok s (.past (pc + len))
  else goOn (modVe s c fun V =>
    { V with lc := V.lc.set i count, loops := V.loops.set i (some (pc + 1, pc + len)) }) c

def doSmovi : VeOp := fun s c w =>
  if scalarD w then putScalar s c w (some (fImm w)) else trapOf 0x01

def doSalu : VeOp := fun s c w =>
  if scalarD w && formR w && decide (fA w < 16) && decide (fB w < 16) then
    putScalar s c w (saluOp (fMod w) (sregOf (ve s c) (fA w)) (sregOf (ve s c) (fB w)))
  else trapOf 0x01

def doSalui : VeOp := fun s c w =>
  if scalarD w && decide (fA w < 16) then putScalar s c w (saluOp (iMod w) (sregOf (ve s c) (fA w)) (fImm w))
  else trapOf 0x01

def doSfalu : VeOp := fun s c w =>
  if scalarD w && formR w && decide (fA w < 16) && decide (fB w < 16) then
    putScalar s c w (sfaluOp (fMod w) (sregOf (ve s c) (fA w)) (sregOf (ve s c) (fB w)))
  else trapOf 0x01

/-- amovi: a[d] = zext(imm). -/
def doAmovi : VeOp :=
  veOnly (fun _ w => plain w && iMod w == 0 && decide (fD w < 8)) fun V w => setAreg V (fD w) ((fImm w).setWidth 48)

/-- aaddi: a[d] = a[a] + sext(imm). -/
def doAaddi : VeOp :=
  veOnly (fun _ w => plain w && iMod w == 1 && decide (fD w < 8) && decide (fA w < 8)) fun V w =>
    setAreg V (fD w) (aregOf V (fA w) + (fImm w).signExtend 48)

/-- aadds: a[d] = a[a] + (sext(s[b]) << mod[2:0]). -/
def doAadds : VeOp :=
  veOnly (fun _ w => plain w && formR w && decide (fD w < 8) && decide (fA w < 8) && decide (fB w < 16) &&
      decide (fMod w < 8)) fun V w =>
    setAreg V (fD w) (aregOf V (fA w) + ((sregOf V (fB w)).signExtend 48 <<< fMod w))

/-- vext: lane imm[5:0] of v[a]. -/
def doVext : VeOp := fun s c w =>
  if scalarD w && decide ((fImm w).toNat < 64) then
    putScalar s c w (some ((vreg (ve s c) (fA w)).get (fin64 (fImm w).toNat)))
  else trapOf 0x01

/-- The special values (R138). -/
def specialValue (s : State) (c : Fin 256) (k : Nat) : Option Word :=
  let V := ve s c
  match V.owner with
  | none => none
  | some (p, _, _, pos, count) =>
    match k with
    | 0 => some (BitVec.ofNat 32 (clusterIndex s p c))
    | 1 => some (BitVec.ofNat 32 pos)
    | 2 => some (BitVec.ofNat 32 count)
    | 3 => some (BitVec.ofNat 32 (dieCount s p))
    | 4 => some (V.lc.get 0)
    | 5 => some (V.lc.get 1)
    | 6 => some (if V.update then 1 else 0)
    | _ => none

def doRdsr : VeOp := fun s c w =>
  if scalarD w && decide ((fImm w).toNat < 16) then putScalar s c w (specialValue s c (fImm w).toNat) else trapOf 0x01

/-! ## The rows -/

def execVeNop (c : Fin 256) (s : State) : Host.Outcome State Fault Refusal := .next (veRow 0x00 anyWord doVeNop c s)
def execBra (c : Fin 256) (s : State) : Host.Outcome State Fault Refusal := .next (veRow 0x02 anyWord doBra c s)
def execVeLoop (c : Fin 256) (s : State) : Host.Outcome State Fault Refusal := .next (veRow 0x03 anyWord doLoop c s)
def execSmovi (c : Fin 256) (s : State) : Host.Outcome State Fault Refusal := .next (veRow 0x10 anyWord doSmovi c s)
def execSalu (c : Fin 256) (s : State) : Host.Outcome State Fault Refusal := .next (veRow 0x11 anyWord doSalu c s)
def execSalui (c : Fin 256) (s : State) : Host.Outcome State Fault Refusal := .next (veRow 0x12 anyWord doSalui c s)
def execSfalu (c : Fin 256) (s : State) : Host.Outcome State Fault Refusal := .next (veRow 0x13 anyWord doSfalu c s)
def execAmovi (c : Fin 256) (s : State) : Host.Outcome State Fault Refusal :=
  .next (veRow 0x14 (fun w => !(iMod w % 2 == 1)) doAmovi c s)
def execAaddi (c : Fin 256) (s : State) : Host.Outcome State Fault Refusal :=
  .next (veRow 0x14 (fun w => iMod w % 2 == 1) doAaddi c s)
def execAadds (c : Fin 256) (s : State) : Host.Outcome State Fault Refusal := .next (veRow 0x15 anyWord doAadds c s)
def execVext (c : Fin 256) (s : State) : Host.Outcome State Fault Refusal := .next (veRow 0x16 anyWord doVext c s)
def execRdsr (c : Fin 256) (s : State) : Host.Outcome State Fault Refusal := .next (veRow 0x17 anyWord doRdsr c s)

end Sys2Proof.Machine
end

