-- ==== Sys2Proof/Machine/VeVector.lean ====
section
/-! DEFINITION. The lane instructions of the vector engine: FP32 and INT32 arithmetic, compares and selects (R134,
R137), approximations (R139), reductions (R147) and lane moves (R137). -/

namespace Sys2Proof.Machine

/-! ## Frames -/

/-- A lane operation of form R with a source B; a field it does not use is not checked (log 18). -/
def laneOp (f : Ve → DWord → Fin 64 → Word) : VeOp :=
  veOnly (fun _ w => formB w) fun V w => setLanes V w (fD w) (f V w)

/-- A lane operation chosen by mod; none is a reserved value. -/
def laneModOp (f : Nat → Option (Word → Word → Word)) : VeOp :=
  veOnly (fun _ w => formB w && (f (fMod w)).isSome) fun V w =>
    setLanes V w (fD w) fun i => ((f (fMod w)).getD fun a _ => a) (srcA V w i) (srcB V w i)

def op2 (f : Word → Word → Word) : VeOp := laneOp fun V w i => f (srcA V w i) (srcB V w i)
def op3 (f : Word → Word → Word → Word) : VeOp := laneOp fun V w i => f (srcA V w i) (srcB V w i) (srcC V w i)
def op1 (f : Word → Word) : VeOp := veOnly (fun _ w => formR w) fun V w => setLanes V w (fD w) fun i => f (srcA V w i)

/-! ## FP32 -/

def doFadd : VeOp := op2 f32add
def doFsub : VeOp := op2 f32sub
def doFmul : VeOp := op2 f32mul
def doFfma : VeOp := op3 f32fma
def doFmin : VeOp := op2 f32min
def doFmax : VeOp := op2 f32max

/-- fscl: a × 2^b with one rounding. -/
def f32scale (a b : Word) : Word := f32enc ((f32dec a).scale (max (-600) (min 600 b.toInt)))
def doFscl : VeOp := op2 f32scale

def doFrcp : VeOp := op1 f32rcp
def doFrsq : VeOp := op1 f32rsq
def doFexp2 : VeOp := op1 (f32approx 0)
def doFlog2 : VeOp := op1 (f32approx 1)
def doFtanh : VeOp := op1 (f32approx 2)
def doFsigm : VeOp := op1 (f32approx 3)

def doI2f : VeOp := op1 fun a => f32ofInt a.toInt

/-! ## INT32 -/

def doIadd : VeOp := op2 (· + ·)
def doIsub : VeOp := op2 (· - ·)
def doImul : VeOp := op2 (· * ·)
def doImad : VeOp := op3 fun a b c => a * b + c
def doImin : VeOp := op2 fun a b => if a.slt b then a else b
def doImax : VeOp := op2 fun a b => if a.slt b then b else a

def ilogOp (k : Nat) : Option (Word → Word → Word) :=
  match k with
  | 0 => some (· &&& ·)
  | 1 => some (· ||| ·)
  | 2 => some (· ^^^ ·)
  | 3 => some fun a b => a &&& ~~~b
  | _ => none
def doIlog : VeOp := laneModOp ilogOp

def ishfOp (k : Nat) : Option (Word → Word → Word) :=
  match k with
  | 0 => some fun a b => a <<< maskCount b
  | 1 => some fun a b => a >>> maskCount b
  | 2 => some fun a b => a.sshiftRight (maskCount b)
  | _ => none
def doIshf : VeOp := laneModOp ishfOp

def doVmovi : VeOp := veOnly (fun _ _ => true) fun V w => setLanes V w (fD w) fun _ => fImm w
def doVmov : VeOp := laneOp srcB

/-! ## Compares, selects, predicates -/

/-- Comparisons of fcmp (R137). -/
def fcmpOp (k : Nat) : Option (Word → Word → Bool) :=
  match k with
  | 0 => some fun a b => FVal.eq (f32dec a) (f32dec b)
  | 1 => some fun a b => !FVal.eq (f32dec a) (f32dec b)
  | 2 => some fun a b => FVal.lt (f32dec a) (f32dec b)
  | 3 => some fun a b => FVal.le (f32dec a) (f32dec b)
  | 4 => some fun a b => FVal.lt (f32dec b) (f32dec a)
  | 5 => some fun a b => FVal.le (f32dec b) (f32dec a)
  | 6 => some fun a b => (f32dec a).isNan || (f32dec b).isNan
  | _ => none

/-- Comparisons of icmp: 0-5, unsigned with mod[3] (R137). -/
def icmpOp (k : Nat) : Option (Word → Word → Bool) :=
  let lt (a b : Word) : Bool := if 8 ≤ k then a.ult b else a.slt b
  match k % 8 with
  | 0 => some fun a b => a == b
  | 1 => some fun a b => a != b
  | 2 => some fun a b => lt a b
  | 3 => some fun a b => !lt b a
  | 4 => some fun a b => lt b a
  | 5 => some fun a b => !lt a b
  | _ => none

/-- A predicate from a comparison; inactive lanes are cleared. -/
def compareOp (f : Nat → Option (Word → Word → Bool)) : VeOp :=
  veOnly (fun _ w => formB w && (f (fMod w)).isSome && decide (1 ≤ fD w) && decide (fD w < 8)) fun V w =>
    setPred V (fD w) (laneMask fun i => active V w i && ((f (fMod w)).getD fun _ _ => false) (srcA V w i) (srcB V w i))

def doFcmp : VeOp := compareOp fcmpOp
def doIcmp : VeOp := compareOp fun k => if k < 16 then icmpOp k else none

def doVsel : VeOp :=
  veOnly (fun _ w => formB w && decide (fC w < 8)) fun V w =>
    setLanes V w (fD w) fun i => if (predOf V (fC w)).getLsbD i.val then srcA V w i else srcB V w i

def plogOp (k : Nat) (a b : DWord) : Option DWord :=
  match k with
  | 0 => some (a &&& b)
  | 1 => some (a ||| b)
  | 2 => some (a ^^^ b)
  | 3 => some (a &&& ~~~b)
  | 4 => some (~~~a)
  | _ => none

/-- plog acts on all 64 bits and ignores pg; `not` names no second predicate. -/
def doPlog : VeOp :=
  veOnly (fun _ w => formR w && fBsel w == 0 && decide (fMod w ≤ 4) && decide (1 ≤ fD w) && decide (fD w < 8) &&
      decide (fA w < 8) && (fMod w == 4 || decide (fB w < 8))) fun V w =>
    setPred V (fD w) ((plogOp (fMod w) (predOf V (fA w)) (predOf V (fB w))).getD 0)

/-! ## Reductions (R147) -/

/-- The lanes of v[a] as they enter the tree: an inactive lane as the identity. -/
def treeLeaves (V : Ve) (w : DWord) (ident : Word) : List Word :=
  (List.finRange 64).map fun i => if active V w i then srcA V w i else ident

def reduceOp (f : Word → Word → Word) (ident : Word) : VeOp :=
  veOnly (fun _ w => formR w && decide (fD w < 16)) fun V w =>
    setSreg V (fD w) ((treeCombine f 6 (treeLeaves V w ident)).headD ident)

def doRsum : VeOp := reduceOp f32add 0x80000000
def doRmax : VeOp := reduceOp f32max 0xFF800000
def doRmin : VeOp := reduceOp f32min 0x7F800000
def doRisum : VeOp := reduceOp (· + ·) 0

/-! ## Lane moves -/

def laneAt64 (V : Ve) (k n : Nat) : Word := (vreg V k).get (fin64 n)

def doVperm : VeOp := laneOp fun V w i => laneAt64 V (fA w) ((srcB V w i).toNat % 64)

/-- vrot and vbcl take a scalar b only. -/
def scalarB (w : DWord) : Bool := formB w && fBsel w == 1

def doVrot : VeOp :=
  veOnly (fun _ w => scalarB w) fun V w =>
    setLanes V w (fD w) fun i => laneAt64 V (fA w) ((i.val + (sregOf V (fB w)).toNat) % 64)
def doVbcl : VeOp :=
  veOnly (fun _ w => scalarB w) fun V w =>
    setLanes V w (fD w) fun _ => laneAt64 V (fA w) ((sregOf V (fB w)).toNat % 64)

/-! ## The rows -/

def execFadd (c : Fin 256) (s : State) : Host.Outcome State Fault Refusal := .next (veRow 0x20 anyWord doFadd c s)
def execFsub (c : Fin 256) (s : State) : Host.Outcome State Fault Refusal := .next (veRow 0x21 anyWord doFsub c s)
def execFmul (c : Fin 256) (s : State) : Host.Outcome State Fault Refusal := .next (veRow 0x22 anyWord doFmul c s)
def execFfma (c : Fin 256) (s : State) : Host.Outcome State Fault Refusal := .next (veRow 0x23 anyWord doFfma c s)
def execFmin (c : Fin 256) (s : State) : Host.Outcome State Fault Refusal := .next (veRow 0x24 anyWord doFmin c s)
def execFmax (c : Fin 256) (s : State) : Host.Outcome State Fault Refusal := .next (veRow 0x25 anyWord doFmax c s)
def execFcmp (c : Fin 256) (s : State) : Host.Outcome State Fault Refusal := .next (veRow 0x26 anyWord doFcmp c s)
def execVsel (c : Fin 256) (s : State) : Host.Outcome State Fault Refusal := .next (veRow 0x27 anyWord doVsel c s)
def execPlog (c : Fin 256) (s : State) : Host.Outcome State Fault Refusal := .next (veRow 0x28 anyWord doPlog c s)
def execIadd (c : Fin 256) (s : State) : Host.Outcome State Fault Refusal := .next (veRow 0x30 anyWord doIadd c s)
def execIsub (c : Fin 256) (s : State) : Host.Outcome State Fault Refusal := .next (veRow 0x31 anyWord doIsub c s)
def execImul (c : Fin 256) (s : State) : Host.Outcome State Fault Refusal := .next (veRow 0x32 anyWord doImul c s)
def execImad (c : Fin 256) (s : State) : Host.Outcome State Fault Refusal := .next (veRow 0x33 anyWord doImad c s)
def execImin (c : Fin 256) (s : State) : Host.Outcome State Fault Refusal := .next (veRow 0x34 anyWord doImin c s)
def execImax (c : Fin 256) (s : State) : Host.Outcome State Fault Refusal := .next (veRow 0x35 anyWord doImax c s)
def execIlog (c : Fin 256) (s : State) : Host.Outcome State Fault Refusal := .next (veRow 0x36 anyWord doIlog c s)
def execIshf (c : Fin 256) (s : State) : Host.Outcome State Fault Refusal := .next (veRow 0x37 anyWord doIshf c s)
def execIcmp (c : Fin 256) (s : State) : Host.Outcome State Fault Refusal := .next (veRow 0x38 anyWord doIcmp c s)
def execVmovi (c : Fin 256) (s : State) : Host.Outcome State Fault Refusal := .next (veRow 0x39 anyWord doVmovi c s)
def execVmov (c : Fin 256) (s : State) : Host.Outcome State Fault Refusal := .next (veRow 0x3A anyWord doVmov c s)
def execFrcp (c : Fin 256) (s : State) : Host.Outcome State Fault Refusal := .next (veRow 0x40 anyWord doFrcp c s)
def execFrsq (c : Fin 256) (s : State) : Host.Outcome State Fault Refusal := .next (veRow 0x41 anyWord doFrsq c s)
def execFexp2 (c : Fin 256) (s : State) : Host.Outcome State Fault Refusal := .next (veRow 0x42 anyWord doFexp2 c s)
def execFlog2 (c : Fin 256) (s : State) : Host.Outcome State Fault Refusal := .next (veRow 0x43 anyWord doFlog2 c s)
def execFtanh (c : Fin 256) (s : State) : Host.Outcome State Fault Refusal := .next (veRow 0x44 anyWord doFtanh c s)
def execFsigm (c : Fin 256) (s : State) : Host.Outcome State Fault Refusal := .next (veRow 0x45 anyWord doFsigm c s)
def execFscl (c : Fin 256) (s : State) : Host.Outcome State Fault Refusal := .next (veRow 0x53 anyWord doFscl c s)
def execI2f (c : Fin 256) (s : State) : Host.Outcome State Fault Refusal := .next (veRow 0x54 anyWord doI2f c s)
def execRsum (c : Fin 256) (s : State) : Host.Outcome State Fault Refusal := .next (veRow 0x60 anyWord doRsum c s)
def execRmax (c : Fin 256) (s : State) : Host.Outcome State Fault Refusal := .next (veRow 0x61 anyWord doRmax c s)
def execRmin (c : Fin 256) (s : State) : Host.Outcome State Fault Refusal := .next (veRow 0x62 anyWord doRmin c s)
def execRisum (c : Fin 256) (s : State) : Host.Outcome State Fault Refusal := .next (veRow 0x63 anyWord doRisum c s)
def execVperm (c : Fin 256) (s : State) : Host.Outcome State Fault Refusal := .next (veRow 0x64 anyWord doVperm c s)
def execVrot (c : Fin 256) (s : State) : Host.Outcome State Fault Refusal := .next (veRow 0x65 anyWord doVrot c s)
def execVbcl (c : Fin 256) (s : State) : Host.Outcome State Fault Refusal := .next (veRow 0x66 anyWord doVbcl c s)

end Sys2Proof.Machine
end

