-- ==== Sys2Proof/Machine/VeConvert.lean ====
section
/-! DEFINITION. Conversions of the vector engine: CVTF, CVTT, CVTSR, F2I (R137, R140-R142), the stochastic-rounding
stream (R206, R207), and GFEED (R148). -/

namespace Sys2Proof.Machine

/-- The E8M0 scale in a lane; a lane value above 255 is no E8M0 value, and the spec gives it no meaning: free (log 19). -/
def laneScale (draw : Nat) (lane : Fin 64) (x : Word) : Nat :=
  if x.toNat < 256 then x.toNat else (freeWord draw lane.val).toNat % 256

/-! ## CVTF (R140) -/

def decodeLane (fmt : Nat) (scale : Option Nat) (x : Word) : Word :=
  let code := x.toNat % 2 ^ fmtBits fmt
  match scale with
  | none => if isInt fmt then BitVec.ofInt 32 (toSigned (fmtBits fmt) code) else f32enc (decodeElem fmt code)
  | some e => if e = 255 then canonNan else f32enc ((decodeScaled fmt code).scale ((e : Int) - 127))

def doCvtf : VeOp := fun s c w =>
  let fmt := fMod w % 16
  let mode := fMod w / 16
  if !formB w || decide (0xA < fmt) then trapOf 0x01
  else if fmt = 2 ∨ 1 < mode ∨ (fmt = 0xA ∧ mode = 1) then trapOf 0x06
  else
    let V := ve s c
    let s' := modVe s c fun V => setLanes V w (fD w) fun i =>
      decodeLane fmt (if mode = 1 then some (laneScale s.draws i (srcB V w i)) else none) (srcA V w i)
    goOn (if mode = 1 ∧ (List.finRange 64).any (fun i => active V w i && decide (256 ≤ (srcB V w i).toNat))
          then nextDraw s' else s') c

/-! ## CVTT (R141) -/

/-- The value to convert under E8M0 scale s; 0xFF makes it NaN (R45). -/
def unscaled (v : FVal) (e : Nat) : FVal := if e = 255 then .nan else v.scale (127 - (e : Int))

/-- Lanes of the measuring block of lane i. -/
def blockLanes (bs : Nat) (i : Fin 64) : List (Fin 64) := (List.finRange 64).filter fun j => j.val / bs == i.val / bs

/-- The measured scale of lane i's block, over the active lanes (R46). -/
def measuredAt (V : Ve) (w : DWord) (fmt bs : Nat) (i : Fin 64) : Nat :=
  measured fmt (((blockLanes bs i).filter (active V w)).map fun j => f32dec (srcA V w j))

/-- Scale of lane i in a mode of R141. -/
def scaleAt (draw : Nat) (V : Ve) (w : DWord) (fmt mode : Nat) (i : Fin 64) : Option Nat :=
  match mode with
  | 0 => none
  | 1 => some (laneScale draw i (srcB V w i))
  | 2 => some (measuredAt V w fmt 32 i)
  | _ => some (measuredAt V w fmt 16 i)

/-- One lane's conversion. -/
def encodeLane (fmt : Nat) (how : Rounding) (flush : Bool) (scale : Option Nat) (x : Word) : Conv :=
  match scale with
  | none => convertElem fmt how flush false (f32dec x)
  | some e => convertElem fmt how flush true (unscaled (f32dec x) e)

/-- Convert the active lanes, store the codes, count saturations and flushes (R63). -/
def convertLanes (s : State) (c : Fin 256) (w : DWord) (f : Fin 64 → Conv) : State :=
  let V := ve s c
  let convs := ((List.finRange 64).filter (active V w)).map f
  let s := modVe s c fun V => setLanes V w (fD w) fun i => BitVec.ofNat 32 (f i).code
  match V.owner with
  | some (p, q, n, _, _) =>
    match cmdAt s p q n with
    | some cmd => noteCounts s p q n cmd.e.ctrSet (satsOf convs) (flushesOf convs) 0
    | none => s
  | none => s

/-- Formats that cvtt and cvtsr refuse: CB4, and INT32 with a scale (R32, R141). -/
def encodeBad (fmt mode : Nat) : Bool := fmt == 2 || (fmt == 0xA && mode != 0)

/-- The measured scale goes to every active lane of c; with c and d the same register the spec names no winner: the
active lanes are free (log 19). -/
def putScales (s : State) (c : Fin 256) (w : DWord) (f : Fin 64 → Nat) : State :=
  if fC w = fD w then
    nextDraw (modVe s c fun V => setLanes V w (fC w) fun i => freeWord s.draws i.val)
  else modVe s c fun V => setLanes V w (fC w) fun i => BitVec.ofNat 32 (f i)

def doCvtt : VeOp := fun s c w =>
  let fmt := fMod w % 16
  let mode := fMod w / 16
  if !(if mode = 1 then formB w else formR w) || decide (0xA < fmt) then trapOf 0x01
  else if encodeBad fmt mode then trapOf 0x06
  else
    let V := ve s c
    let d := s.draws
    let odd := mode = 1 ∧ (List.finRange 64).any (fun i => active V w i && decide (256 ≤ (srcB V w i).toNat))
    let s := convertLanes s c w fun i => encodeLane fmt .rne V.flush (scaleAt d V w fmt mode i) (srcA V w i)
    let s := if 2 ≤ mode then putScales s c w fun i => measuredAt V w fmt (if mode = 2 then 32 else 16) i else s
    goOn (if odd then nextDraw s else s) c

/-! ## The stochastic-rounding stream (R206) -/

def rotl (x : Word) (k : Nat) : Word := x.rotateLeft k

/-- Word i of the seed (R206). -/
def seedWord (seed : BitVec 128) (i : Nat) : Word := BitVec.ofNat 32 (seed.toNat / 2 ^ (32 * i))

def drawRound (seed : BitVec 128) (k : Nat) (x : Word × Word × Word × Word) : Word × Word × Word × Word :=
  let (x0, x1, x2, x3) := x
  let x0 := x0 + (seedWord seed k ^^^ x1)
  let x3 := rotl (x3 ^^^ x0) 16
  let x2 := x2 + x3
  let x1 := rotl (x1 ^^^ x2) 12
  let x0 := x0 + x1
  let x3 := rotl (x3 ^^^ x0) 8
  let x2 := x2 + x3 + BitVec.ofNat 32 k
  let x1 := rotl (x1 ^^^ x2) 7
  (x0, x1, x2, x3)

/-- draw of R206. -/
def srDraw (seed : BitVec 128) (step : Word) (tid : Nat) (block : Word) (elem : Nat) : BitVec 16 :=
  let x := [0, 1, 2, 3].foldl (fun x k => drawRound seed k x)
    (step, block, BitVec.ofNat 32 (tid % 65536 * 65536 + elem % 65536), (0x9E3779B9 : Word))
  BitVec.ofNat 16 ((x.1 + x.2.2.1).toNat / 65536)

/-! ## CVTSR (R142) -/

/-- Stream position of a cvtsr: step and copy tensor ID of the UPDATE; none outside update context. -/
def streamOf (s : State) (c : Fin 256) : Option (Fin 4 × Word × Nat) :=
  match (ve s c).owner with
  | none => none
  | some (p, q, n, _, _) =>
    match cmdAt s p q n with
    | none => none
    | some cmd => match cmd.body with
      | .update r => some (p, cmd.step, r.copyTid)
      | _ => none

def doCvtsr : VeOp := fun s c w =>
  let fmt := fMod w % 16
  let mode := fMod w / 16
  match streamOf s c with
  | none => trapOf 0x0C
  | some (p, step, tid) =>
    if !(if mode = 1 then formB w else formR w) || decide (0xA < fmt) || decide (16 ≤ fC w) then trapOf 0x01
    else if encodeBad fmt mode || decide (2 ≤ mode) || tid == 0xFFFF then trapOf 0x06
    else
      let V := ve s c
      let d := s.draws
      let seed := (polder s p).seed
      let odd := mode = 1 ∧ (List.finRange 64).any (fun i => active V w i && decide (256 ≤ (srcB V w i).toNat))
      let s := convertLanes s c w fun i =>
        let r := srDraw seed step tid (sregOf V 0) ((sregOf V (fC w)).toNat + i.val)
        encodeLane fmt (.sr r) V.flush (scaleAt d V w fmt mode i) (srcA V w i)
      goOn (if odd then nextDraw s else s) c

/-- f2i: rounds to nearest even and saturates to ±(2^31 − 1); saturation counts (R137). -/
def doF2i : VeOp := fun s c w =>
  if formR w then
    let V := ve s c
    goOn (convertLanes s c w fun i => intConvert 0xA .rne (f32dec (srcA V w i))) c
  else trapOf 0x01

/-! ## GFEED (R148) -/

/-- The contribution of the active lanes to a gauge of `ladder`. -/
def feedLanes (V : Ve) (w : DWord) (ladder fmt : Nat) (flush : Bool) (g : GTot) : GTot :=
  ((List.finRange 64).filter (active V w)).foldl (fun g i =>
    let v := f32dec (srcA V w i)
    let r := convertElem fmt .rne flush false v
    feedGauge ladder false g v v r.sat r.flush false) g

def doGfeed : VeOp := fun s c w =>
  let fmt := iMod w % 16
  let id := (fImm w).toNat % 65536
  if decide (32 ≤ iMod w) || decide (65536 ≤ (fImm w).toNat) || decide (0xA < fmt) then trapOf 0x01
  else if fmt = 2 ∨ fmt = 0xA then trapOf 0x06
  else if id = 0xFFFF then goOn s c
  else
    let V := ve s c
    match V.owner with
    | none => trapOf 0x09
    | some (p, q, n, _, _) =>
      match (cmdAt s p q n).bind fun cmd => gaugeOf (seenBy (polder s p) cmd) id with
      | none => trapOf 0x09
      | some g => goOn (modCmd s p q n fun cmd =>
          { cmd with contrib := tabMod GTot.zero cmd.contrib id (feedLanes V w g.ladder fmt (iMod w / 16 == 1)) }) c

/-! ## The rows -/

def execCvtf (c : Fin 256) (s : State) : Host.Outcome State Fault Refusal := .next (veRow 0x50 anyWord doCvtf c s)
def execCvtt (c : Fin 256) (s : State) : Host.Outcome State Fault Refusal := .next (veRow 0x51 anyWord doCvtt c s)
def execCvtsr (c : Fin 256) (s : State) : Host.Outcome State Fault Refusal := .next (veRow 0x52 anyWord doCvtsr c s)
def execF2i (c : Fin 256) (s : State) : Host.Outcome State Fault Refusal := .next (veRow 0x55 anyWord doF2i c s)
def execGfeed (c : Fin 256) (s : State) : Host.Outcome State Fault Refusal := .next (veRow 0x70 anyWord doGfeed c s)

end Sys2Proof.Machine
end

