-- ==== Sys2Proof/Machine/VeMemory.lean ====
section
/-! DEFINITION. Loads and stores of the vector engine: LD, ST, LDX, STX, LDSCL, STSCL (R133, R143-R146). -/

namespace Sys2Proof.Machine

/-- One element that an access moves: the lanes it serves, its address as byte and half, its width in bits. -/
structure VeElem where
  lanes : List (Fin 64)
  addr  : Nat
  odd   : Bool
  bits  : Nat
  deriving DecidableEq, Repr

def VeElem.size (e : VeElem) : Nat := (e.bits + 7) / 8

/-- Address arithmetic is 48 bits wide. -/
def at48 (a : Nat) : Nat := a % 2 ^ 48

/-- Bits of a width code (R143). -/
def widthBits (w : Nat) : Nat := 4 * 2 ^ w

/-- Base of the access: with post-increment a[x] itself (R143). -/
def memBase (V : Ve) (w : DWord) : Nat := (if mPost w then aregOf V (mX w) else aregOf V (mX w) + mOff w).toNat

/-- a[x] after the access. -/
def postInc (V : Ve) (w : DWord) : Ve := if mPost w then setAreg V (mX w) (aregOf V (mX w) + mOff w) else V

def activeLanes (V : Ve) (w : DWord) : List (Fin 64) := (List.finRange 64).filter (active V w)

/-- Elements of ld and st: lane i at base + i × b / 8. -/
def veLineElems (V : Ve) (w : DWord) : List VeElem :=
  let b := widthBits (mWidth w)
  (activeLanes V w).map fun i =>
    { lanes := [i], addr := at48 (memBase V w + i.val * b / 8), odd := b == 4 && i.val % 2 == 1, bits := b }

/-- Elements of ldx and stx: base + index × element size, 4-bit elements by nibble (R144). -/
def indexElems (V : Ve) (w : DWord) : List VeElem :=
  let b := widthBits (mWidth w)
  (activeLanes V w).map fun i =>
    let k := ((vreg V (fB w)).get i).toNat
    { lanes := [i], addr := at48 (memBase V w + k * b / 8), odd := b == 4 && k % 2 == 1, bits := b }

/-- Lanes per entry and bytes per entry of a scale access (R145). -/
def scaleEntry (w : Nat) : Nat × Nat :=
  match w with
  | 0 => (32, 2)
  | 1 => (16, 2)
  | _ => (1, 8)

/-- Entries that ldscl reads: those with an active lane. -/
def scaleLoads (V : Ve) (w : DWord) : List VeElem :=
  let x := scaleEntry (mWidth w)
  (List.range (64 / x.1)).filterMap fun j =>
    let ls := (activeLanes V w).filter fun i => i.val / x.1 == j
    if ls.isEmpty then none else some { lanes := ls, addr := at48 (memBase V w + j * x.2), odd := false, bits := 8 * x.2 }

/-- Entries that stscl writes: those whose first lane is active. -/
def scaleStores (V : Ve) (w : DWord) : List VeElem :=
  let x := scaleEntry (mWidth w)
  (List.range (64 / x.1)).filterMap fun j =>
    let i := fin64 (j * x.1)
    if active V w i then some { lanes := [i], addr := at48 (memBase V w + j * x.2), odd := false, bits := 8 * x.2 } else none

/-! ## The checks of an access (R133, R146, R196) -/

/-- Do an element's bytes lie in its space? The program region counts as inside the VE store. -/
def inSpace (s : State) (p : Fin 4) (space : Nat) (e : VeElem) : Bool :=
  match space with
  | 0 => decide (e.addr + e.size ≤ 0x40000)
  | 1 => decide (e.addr + e.size ≤ 0x180000)
  | _ => (diesOf s p).any fun d => decide (sliceBase d ≤ e.addr) && decide (e.addr + e.size ≤ sliceBase d + 2 ^ 32)

def inProgram (space : Nat) (e : VeElem) : Bool := space == 0 && decide (0x38000 < e.addr + e.size)

/-- The nibbles an element covers. -/
def nibbles (e : VeElem) : List Nat :=
  if e.bits = 4 then [2 * e.addr + e.odd.toNat] else (List.range (2 * e.size)).map (2 * e.addr + ·)

/-- Is the failed word at address a only partly written by a store of `es`? -/
def partWord (s : State) (es : List VeElem) (a : Nat) : Bool :=
  isBad s a && !((List.range 16).all fun k => es.any fun f => (nibbles f).contains (2 * granule a + k))

/-- Does an element lie in a failed word that the store does not write whole (R220)? -/
def partWrite (s : State) (es : List VeElem) (e : VeElem) : Bool :=
  partWord s es e.addr || partWord s es (e.addr + e.size - 1)

/-- The exception of the elements for which `bad` holds. -/
def trapElems (cause : Nat) (es : List VeElem) (bad : VeElem → Bool) : Option VeOut :=
  match es.filter bad with
  | [] => none
  | e :: rest => some (.trap cause (laneMask fun i => (e :: rest).any fun x => x.lanes.contains i) e.addr)

/-- Alignment, range, program region, update context, error codes: the first rule an access breaks. -/
def accessTrap (s : State) (p : Fin 4) (V : Ve) (space align : Nat) (store : Bool) (es : List VeElem) : Option VeOut :=
  (trapElems 0x02 es fun e => e.addr % align != 0).or <|
  (trapElems 0x03 es fun e => !inSpace s p space e).or <|
  (trapElems 0x04 es (inProgram space)).or <|
  (if store && V.update && space == 0 then trapElems 0x03 es fun e => decide (e.addr < 0x20000) else none).or <|
  (if space = 2 then trapElems 0x0A es fun e => if store then partWrite s es e else meetsBad s e.addr e.size else none)

/-! ## Reading and writing a space -/

def spaceByte (s : State) (c : Fin 256) (space a : Nat) : Byte :=
  match space with
  | 0 => staleByte (ve s c).store (ve s c).stale a
  | 1 => staleByte (cluster s c).buffer (cluster s c).staged a
  | _ => memByte s a

def spaceBytes (s : State) (c : Fin 256) (space a n : Nat) : List Byte := (List.range n).map fun i => spaceByte s c space (a + i)

def spaceWrite (s : State) (c : Fin 256) (space a : Nat) (bs : List Byte) : State :=
  match space with
  | 0 => modVe s c fun V => { V with store := tabSplice 0 V.store a bs, stale := cutStale V.stale a (a + bs.length) }
  | 1 => modCluster s c fun C =>
      { C with buffer := tabSplice 0 C.buffer a bs, staged := cutStale C.staged a (a + bs.length) }
  | _ => memPut s a bs

/-! ## Bytes that two units use without an order between them (R146; log 78) -/

def touches (xs : List (Nat × Nat)) (a : Nat) : Bool := xs.any fun x => decide (x.1 ≤ a) && decide (a < x.1 + x.2)

/-- The other clusters of the launch of cluster c's VE. -/
def launchPeers (s : State) (c : Fin 256) : List (Fin 256) :=
  match (ve s c).owner with
  | some (p, q, n, _, _) => (launchOf s p q n).filter (· != c)
  | none => []

/-- The MM commands that run in cluster c beside its VE. -/
def mmBeside (s : State) (c : Fin 256) : List (Cmd × MmRun) :=
  match (ve s c).owner with
  | none => []
  | some (p, _) => (polder s p).inflight.filterMap fun x => match x.body with
    | .mm r => if (cluster s c).slots.any fun y => y.2.2.1 == p && y.2.2.2.1 == x.q && y.2.2.2.2 == x.e.seq then some (x, r)
               else none
    | _ => none

/-- Is byte a of the cluster buffer in the region of a busy slot (R94)? -/
def inSlot (C : Cluster) (a : Nat) : Bool :=
  C.slots.any fun y => decide (196608 * y.1 ≤ a) && decide (a < 196608 * (y.1 + y.2.1))

/-- Does an MM command beside the VE write the byte; does it read or write it? -/
def mmWrites (s : State) (c : Fin 256) (space a : Nat) : Bool :=
  match space with
  | 0 => false
  | 1 => inSlot (cluster s c) a
  | _ => (mmBeside s c).any fun x => x.1.areas.any fun y => inArea y a
def mmUses (s : State) (c : Fin 256) (space a : Nat) : Bool :=
  mmWrites s c space a || (space == 2 && (mmBeside s c).any fun x => (mmInputs x.2).any fun y => inArea y a)

/-- Is the value that cluster c loads from byte a undefined? -/
def loadRaces (s : State) (c : Fin 256) (space a : Nat) : Bool :=
  mmWrites s c space a || (space == 2 && (launchPeers s c).any fun d => touches (ve s d).writes a)

/-- Does a store of cluster c to byte a leave it undefined? -/
def storeRaces (s : State) (c : Fin 256) (space a : Nat) : Bool :=
  mmUses s c space a ||
  (space == 2 && (launchPeers s c).any fun d => touches (ve s d).writes a || touches (ve s d).reads a)

def elemBytes (es : List VeElem) : List Nat := es.flatMap fun e => (List.range e.size).map (e.addr + ·)

def loadByte (s : State) (c : Fin 256) (space a : Nat) : Byte :=
  if loadRaces s c space a then Config.freeByte s.draws a else spaceByte s c space a

/-- An element's code. -/
def readElem (s : State) (c : Fin 256) (space : Nat) (e : VeElem) : Nat :=
  let x := leVal ((List.range e.size).map fun i => loadByte s c space (e.addr + i))
  if e.bits = 4 then x / (if e.odd then 16 else 1) % 16 else x

def writeElem (s : State) (c : Fin 256) (space : Nat) (e : VeElem) (x : Nat) : State :=
  if e.bits = 4 then
    let b := (spaceByte s c space e.addr).toNat
    let v := if e.odd then b % 16 + 16 * (x % 16) else b / 16 * 16 + x % 16
    spaceWrite s c space e.addr [BitVec.ofNat 8 v]
  else spaceWrite s c space e.addr (leBytes e.size x)

/-- Leave a byte of a space undefined. -/
def spoilByte (s : State) (c : Fin 256) (space a : Nat) : State :=
  match space with
  | 0 => s
  | 1 => nextDraw (modCluster s c fun C => { C with buffer := tabErase C.buffer a (a + 1), staged := addStale C.staged a (a + 1) s.draws })
  | _ => spoil s a 1

/-- What a VE has computed since its last barrier becomes undefined, after a byte that it read meanwhile was stored to by a
peer (R146): its registers but p0, its VE store, the cluster buffer if its program stores to it, and what it has stored
to the S-tier. Its place in the program stays (log 78). -/
def taintVe (s : State) (c : Fin 256) : State :=
  let V := ve s c
  let s := V.writes.foldl (fun s x => spoil s x.1 x.2) s
  let s := if storesTo V.prog 1 then staleAround s c [] else s
  let d := s.draws
  skipDraws (modVe s c fun V => { V with
    v := Vector.ofFn fun i => Vector.ofFn fun j => freeWord d (64 * i.val + j.val)
    sreg := Vector.ofFn fun i => freeWord d (2048 + i.val)
    a := Vector.ofFn fun i => freeWord d (2064 + 2 * i.val) ++ (freeWord d (2065 + 2 * i.val)).setWidth 16
    p := Vector.ofFn fun i => if i.val = 0 then predOf V 0 else freeWord d (2080 + 2 * i.val) ++ freeWord d (2081 + 2 * i.val)
    store := tabErase V.store 0 0x38000
    stale := addStale V.stale 0 0x38000 (d + 1)
    contribution := V.contribution.map fun x => (x.1, freeWord d 2096, x.2.2) }) 2

/-- The MM commands beside the VE that use one of the bytes: their values are undefined too. -/
def markMm (s : State) (c : Fin 256) (space : Nat) (bytes : List Nat) : State :=
  (mmBeside s c).foldl (fun s x =>
    let own (a : Nat) : Bool := if space = 1 then inSlot (cluster s c) a
      else x.1.areas.any (fun y => inArea y a) || (mmInputs x.2).any fun y => inArea y a
    if bytes.any own then
      match (ve s c).owner with
      | some (p, _) => setBody s p x.1.q x.1.e.seq (.mm { x.2 with changed := true })
      | none => s
    else s) s

/-- S-tier bytes of a command (R415). -/
def noteVeBytes (s : State) (c : Fin 256) (space : Nat) (es : List VeElem) : State :=
  if space ≠ 2 then s else
  match (ve s c).owner with
  | none => s
  | some (p, q, n, _, _) =>
    match cmdAt s p q n with
    | none => s
    | some cmd => countAdd s p cmd.e.ctrSet 4 (((es.map VeElem.bits).sum + 7) / 8)

/-- The byte ranges of elements, each once, with those known. -/
def noteRanges (es : List VeElem) (known : List (Nat × Nat)) : List (Nat × Nat) :=
  es.foldl (fun xs e => if xs.contains (e.addr, e.size) then xs else xs ++ [(e.addr, e.size)]) known

/-- S-tier bytes of an access that a peer has written since the last barrier. -/
def peerWritten (s : State) (c : Fin 256) (space : Nat) (es : List VeElem) : List Nat :=
  if space = 2 then (elemBytes es).filter fun a => (launchPeers s c).any fun d => touches (ve s d).writes a else []

/-- Peers that have read one of the S-tier bytes of a store since the last barrier. -/
def peerReaders (s : State) (c : Fin 256) (space : Nat) (es : List VeElem) : List (Fin 256) :=
  if space = 2 then (launchPeers s c).filter fun d => (elemBytes es).any (touches (ve s d).reads) else []

/-- What a load leaves beside its registers: the counted bytes, the S-tier bytes read, the draw that raced bytes used, and
the bytes of peers in a race undefined. -/
def noteLoad (s : State) (c : Fin 256) (space : Nat) (es : List VeElem) : State :=
  let s' := noteVeBytes s c space es
  let s' := if space = 2 then modVe s' c fun V => { V with reads := noteRanges es V.reads } else s'
  if (elemBytes es).any (loadRaces s c space) then
    (peerWritten s c space es).foldl (fun s a => spoilByte s c space a) (nextDraw (markMm s' c space (elemBytes es)))
  else s'

/-- Store elements in lane order: a higher lane's value stands (R144). Whole words clear their error (R220); bytes in a
race are left undefined, and so is what a peer computed from them; the stored bytes are noted. -/
def storeElems (s : State) (c : Fin 256) (space : Nat) (xs : List (VeElem × Nat)) : State :=
  let es := xs.map (·.1)
  let raced := (elemBytes es).filter (storeRaces s c space)
  let readers := peerReaders s c space es
  let s := noteVeBytes s c space es
  let s := xs.foldl (fun s x => writeElem s c space x.1 x.2) s
  let s := markMm (raced.foldl (fun s a => spoilByte s c space a) s) c space raced
  let more (xs : List (Nat × Nat)) := noteRanges es xs
  if space = 0 then s else
  if space = 1 then modVe s c fun V => { V with bufAreas := more V.bufAreas } else
  let s := readers.foldl taintVe s
  let s := { s with poison := s.poison.filter fun g => !(es.any fun e => granule e.addr == g.1 || granule (e.addr + e.size - 1) == g.1) }
  modVe s c fun V => { V with writes := more V.writes, areas := more V.areas }

/-! ## The instructions -/

/-- Form M without an index register. -/
def formM (w : DWord) (maxWidth : Nat) (indexed : Bool) : Bool :=
  mRsvd w == 0 && decide (mSpace w ≤ 2) && decide (mWidth w ≤ maxWidth) && (indexed || fB w == 0)

/-- The owner's polder. -/
def veOwner (V : Ve) : Fin 4 :=
  match V.owner with
  | some (p, _) => p
  | none => 0

/-- A load of `es`: lane i takes the code of the element that serves it. -/
def loadWith (elems : Ve → DWord → List VeElem) (indexed : Bool) : VeOp := fun s c w =>
  if !formM w 3 indexed then trapOf 0x01 else
  let V := ve s c
  let es := elems V w
  match accessTrap s (veOwner V) V (mSpace w) (max 1 (widthBits (mWidth w) / 8)) false es with
  | some t => t
  | none =>
    let s' := noteLoad s c (mSpace w) es
    goOn (modVe s' c fun V => postInc (setLanes V w (fD w) fun i =>
      match es.find? fun e => e.lanes.contains i with
      | some e => BitVec.ofNat 32 (readElem s c (mSpace w) e)
      | none => 0) w) c

def storeWith (elems : Ve → DWord → List VeElem) (indexed : Bool) : VeOp := fun s c w =>
  if !formM w 3 indexed then trapOf 0x01 else
  let V := ve s c
  let es := elems V w
  match accessTrap s (veOwner V) V (mSpace w) (max 1 (widthBits (mWidth w) / 8)) true es with
  | some t => t
  | none =>
    let s := storeElems s c (mSpace w) (es.map fun e =>
      (e, ((vreg V (fD w)).get (e.lanes.headD 0)).toNat % 2 ^ e.bits))
    goOn (modVe s c fun V => postInc V w) c

def doLd : VeOp := loadWith veLineElems false
def doSt : VeOp := storeWith veLineElems false
def doLdx : VeOp := loadWith indexElems true
def doStx : VeOp := storeWith indexElems true

/-- Value and complement bytes of a scale entry: 1 for E8M0, 4 for a row factor. -/
def entryValue (w : Nat) : Nat := if w = 2 then 4 else 1

/-- ldscl (R145). -/
def doLdscl : VeOp := fun s c w =>
  if !formM w 2 false then trapOf 0x01 else
  let V := ve s c
  let es := scaleLoads V w
  let n := entryValue (mWidth w)
  let raw (e : VeElem) := readElem s c (mSpace w) e
  match (accessTrap s (veOwner V) V (mSpace w) 2 false es).or
      (trapElems 0x05 es fun e => !compOk n (raw e) (raw e / 2 ^ (8 * n))) with
  | some t => t
  | none =>
    let s' := noteLoad s c (mSpace w) es
    goOn (modVe s' c fun V => postInc (setLanes V w (fD w) fun i =>
      match es.find? fun e => e.lanes.contains i with
      | some e => BitVec.ofNat 32 (raw e % 2 ^ (8 * n))
      | none => 0) w) c

/-- stscl (R145). -/
def doStscl : VeOp := fun s c w =>
  if !formM w 2 false then trapOf 0x01 else
  let V := ve s c
  let es := scaleStores V w
  match accessTrap s (veOwner V) V (mSpace w) 2 true es with
  | some t => t
  | none =>
    let s := storeElems s c (mSpace w) (es.map fun e =>
      (e, leVal (withComp (entryValue (mWidth w)) (((vreg V (fD w)).get (e.lanes.headD 0)).toNat))))
    goOn (modVe s c fun V => postInc V w) c

/-! ## The rows -/

def execLd (c : Fin 256) (s : State) : Host.Outcome State Fault Refusal := .next (veRow 0x80 anyWord doLd c s)
def execSt (c : Fin 256) (s : State) : Host.Outcome State Fault Refusal := .next (veRow 0x81 anyWord doSt c s)
def execLdx (c : Fin 256) (s : State) : Host.Outcome State Fault Refusal := .next (veRow 0x82 anyWord doLdx c s)
def execStx (c : Fin 256) (s : State) : Host.Outcome State Fault Refusal := .next (veRow 0x83 anyWord doStx c s)
def execLdscl (c : Fin 256) (s : State) : Host.Outcome State Fault Refusal := .next (veRow 0x84 anyWord doLdscl c s)
def execStscl (c : Fin 256) (s : State) : Host.Outcome State Fault Refusal := .next (veRow 0x85 anyWord doStscl c s)

end Sys2Proof.Machine
end

