-- ==== Sys2Proof/Machine/Vk.lean ====
section
/-! DEFINITION. VK (R152), the start of a cluster range (R153, R194), and the levee barrier of a launch: LBAR, LRED,
LBAR_RELEASE (R149, R150). -/

namespace Sys2Proof.Machine

/-! ## VK at command start (R152) -/

/-- The op values of R137. -/
def opDefined (op : Nat) : Bool :=
  ([0x00, 0x01, 0x02, 0x03, 0x10, 0x11, 0x12, 0x13, 0x14, 0x15, 0x16, 0x17, 0x20, 0x21, 0x22, 0x23, 0x24, 0x25, 0x26, 0x27,
    0x28, 0x30, 0x31, 0x32, 0x33, 0x34, 0x35, 0x36, 0x37, 0x38, 0x39, 0x3A] : List Nat).contains op ||
  ([0x40, 0x41, 0x42, 0x43, 0x44, 0x45, 0x50, 0x51, 0x52, 0x53, 0x54, 0x55, 0x60, 0x61, 0x62, 0x63, 0x64, 0x65, 0x66, 0x70,
    0x71, 0x72, 0x80, 0x81, 0x82, 0x83, 0x84, 0x85] : List Nat).contains op

/-- The instructions at a program address. -/
def readProgram (s : State) (a n : Nat) : List DWord := (List.range n).map fun i => BitVec.ofNat 64 (memNat s (a + 8 * i) 8)

/-- A cluster range as R105 and R106 allow it. -/
def rangeOk (s : State) (p : Fin 4) (base count : Nat) : Bool :=
  (count != 0 || base == 0) && decide (base + count ≤ 64 * dieCount s p)

def vkFields (s : State) (p : Fin 4) (bs : List Byte) : Bool :=
  addrHiOk bs 0 && addrOf bs 0 % 8 == 0 && decide (fld bs 8 4 ≤ 4096) && rangeOk s p (fld bs 0x0C 2) (fld bs 0x0E 2) &&
  ((List.range 8).all fun i => addrHiOk bs (0x50 + 8 * i)) && addrHiOk bs 0x90 && addrOf bs 0x90 % 64 == 0 &&
  decide (fld bs 0x98 1 < 2) && zeroAt bs 0x99 103

def vkChecks (s : State) (p : Fin 4) (e : Entry) : Option Status :=
  let a := e.desc.toNat
  let bs := memBytes s a 256
  firstFail (descChecks s p a 256 ++
    [(vkFields s p bs, .descInvalid),
     (accessOk s p false (addrOf bs 0) (8 * fld bs 8 4) && (addrOf bs 0x90 == 0 || accessOk s p true (addrOf bs 0x90) 64),
       .accessDenied),
     (!meetsBad s (addrOf bs 0) (8 * fld bs 8 4), .eccUncorrected)])

def readVk (s : State) (p : Fin 4) (bs : List Byte) : VkRun :=
  { base := fld bs 0x0C 2, count := clusterCount s p (fld bs 0x0C 2) (fld bs 0x0E 2), report := addrOf bs 0x90,
    flush := fld bs 0x98 1 == 1, prog := readProgram s (addrOf bs 0) (fld bs 8 4),
    scalars := (List.range 16).map fun i => BitVec.ofNat 32 (fld bs (0x10 + 4 * i) 4),
    addrs := (List.range 8).map fun i => BitVec.ofNat 48 (addrOf bs (0x50 + 8 * i)), started := false,
    raised := 0, low := 0 }

/-- The first instruction in program order that a launch refuses, with its index and cause (log 91). -/
def launchFault (prog : List DWord) : Option (Nat × DWord × Nat) :=
  (((List.range prog.length).zip prog).find? fun x => !opDefined (fOp x.2) || fOp x.2 == 0x52).map fun x =>
    (x.1, x.2, if fOp x.2 == 0x52 then 0x0C else 0x01)

def doVk (p : Fin 4) (q : Fin 16) (e : Entry) (s : State) : State :=
  runEntry s p q e 0x02 (fun s => vkChecks s p e) fun t =>
    let bs := memBytes s e.desc.toNat 256
    let r := readVk t p bs
    let t := touch t p (addrOf bs 0) (8 * r.prog.length)
    match launchFault r.prog with
    | some (i, w, cause) =>
      let t := setDetail (endCmd t p q e.seq (causeStatus cause)) p q e.seq cause
      putReport t p r.report (excReport cause 0xFFFF i w 0 0 0)
    | none =>
      if r.prog.isEmpty then endCmd t p q e.seq .ok else
      setAreas (setBody t p q e.seq (.vk r)) p q e.seq
        (if r.report = 0 then [] else [{ host := false, addr := r.report, lines := 1, bytes := 64, stride := 0 }])

def execVk (p : Fin 4) (q : Fin 16) (e : Entry) (s : State) : Host.Outcome State Fault Refusal := .next (doVk p q e s)

/-! ## VE_RANGE_START (R153) -/

/-- The range that a command waits for. -/
def waitsFor (c : Cmd) : Option (Nat × Nat) :=
  if c.res.isSome then none else
  match c.body with
  | .vk r => if r.started then none else some (r.base, r.count)
  | .update r => if r.started then none else some (r.base, r.count)
  | _ => none

def rangesMeet (a b : Nat × Nat) : Bool := decide (a.1 < b.1 + b.2) && decide (b.1 < a.1 + a.2)

/-- Every VE of the range is free, and no command that reached command start earlier waits for one of them. -/
def rangeFree (s : State) (p : Fin 4) (c : Cmd) (r : Nat × Nat) : Bool :=
  ((rangeClusters s p r.1 r.2).all fun k => (ve s k).owner.isNone) &&
  ((polder s p).inflight.takeWhile fun x => !(x.q == c.q && x.e.seq == c.e.seq)).all fun x =>
    match waitsFor x with
    | some y => !rangesMeet r y
    | none => true

/-- A VE at program start (R132). -/
def startVe (p : Fin 4) (q : Fin 16) (n : Word) (r : VkRun) (draw pos : Nat) : Ve :=
  { Ve.reset with
    sreg := Vector.ofFn fun i => r.scalars.getD i.val 0
    a := Vector.ofFn fun i => r.addrs.getD i.val 0
    prog := r.prog, stale := [(0, 0x38000, draw)], mode := .running, flush := r.flush
    owner := some (p, q, n, pos, r.count) }

/-- A VE held by an UPDATE, between blocks. -/
def holdVe (p : Fin 4) (q : Fin 16) (n : Word) (r : UpdRun) (pos : Nat) : Ve :=
  { Ve.reset with prog := r.prog, update := true, owner := some (p, q, n, pos, r.count) }

/-- Put a VE into every cluster of a range, by position. -/
def placeVes (s : State) (cs : List (Fin 256)) (f : Nat → Ve) : State :=
  (cs.zip (List.range cs.length)).foldl (fun s x => modVe s x.1 fun _ => f x.2) s

/-- An UPDATE with every block settled has ended its work; its report and cell follow at completion. -/
def finishUpdate (s : State) (p : Fin 4) (q : Fin 16) (n : Word) (r : UpdRun) : State :=
  if r.complete then
    setResult (setBody (releaseUnits s p q n) p q n (.update r)) p q n .ok
  else setBody s p q n (.update r)

def doVeRangeStart (p : Fin 4) (q : Fin 16) (n : Word) (s : State) : State :=
  match liveCmd s p q n with
  | none => s
  | some c =>
    match waitsFor c with
    | none => s
    | some x =>
      if !rangeFree s p c x then s else
      let cs := rangeClusters s p x.1 x.2
      match c.body with
      | .vk r =>
        let s := setBody s p q n (.vk { r with started := true })
        skipDraws (placeVes s cs fun k => startVe p q n r (s.draws + k) k) cs.length
      | .update r => finishUpdate (placeVes s cs (holdVe p q n r)) p q n { r with started := true }
      | _ => s

def execVeRangeStart (p : Fin 4) (q : Fin 16) (n : Word) (s : State) : Host.Outcome State Fault Refusal :=
  .next (doVeRangeStart p q n s)

/-! ## Barriers of a launch (R149, R150) -/

/-- Two VEs at a barrier disagree: one has ended short of it, or they wait at barriers of different kinds. -/
def barrierClash (a b : Ve) : Bool :=
  match a.mode, b.mode with
  | .ended, .atBarrier => decide (a.bars < b.bars)
  | .atBarrier, .ended => decide (b.bars < a.bars)
  | .atBarrier, .atBarrier => a.bars == b.bars && a.contribution.map (·.1) != b.contribution.map (·.1)
  | _, _ => false

/-- Does cluster c clash with another cluster of its launch? -/
def clashes (s : State) (c : Fin 256) : Bool :=
  match (ve s c).owner with
  | none => false
  | some (p, q, n, _, _) => (launchOf s p q n).any fun d => barrierClash (ve s c) (ve s d)

/-- Arrive at a barrier. -/
def arrive (s : State) (c : Fin 256) (x : Option (Nat × Word × Fin 16)) : VeOut :=
  let s := modVe s c fun V => { V with mode := .atBarrier, bars := V.bars + 1, contribution := x }
  if clashes s c then trapOf 0x08 else .ok s .hold

def doLbar : VeOp := fun s c w => if plain w then arrive s c none else trapOf 0x01

def doLred : VeOp := fun s c w =>
  if plain w && formR w && decide (fD w < 16) && decide (fA w < 16) && decide (fMod w < 4) then
    arrive s c (some (fMod w, sregOf (ve s c) (fA w), fin16 (fD w)))
  else trapOf 0x01

/-- The combining operation of lred (R150). -/
def lredOp (k : Nat) : Word → Word → Word :=
  match k with
  | 0 => f32add
  | 1 => f32max
  | 2 => f32min
  | _ => (· + ·)

/-- The result of a reduction over the contributions in launch order. -/
def lredResult (Vs : List Ve) : Word :=
  let xs := Vs.filterMap (·.contribution)
  (treeCombine (lredOp ((xs.map (·.1)).headD 0)) 8 (xs.map fun x => x.2.1)).headD 0

/-- Hand a VE its result and let it run on. -/
def releaseVe (x : Word) (V : Ve) : Ve :=
  let V := match V.contribution with
    | some (_, _, d) => { V with sreg := V.sreg.set d x }
    | none => V
  { V with mode := .running, contribution := none, reads := [], writes := [] }

def doLbarRelease (p : Fin 4) (q : Fin 16) (n : Word) (s : State) : State :=
  match liveCmd s p q n with
  | none => s
  | some _ =>
    let cs := launchOf s p q n
    if cs.isEmpty || !(cs.all fun c => (ve s c).mode == .atBarrier) then s else
    let x := lredResult (cs.map (ve s))
    let s := cs.foldl (fun s c => modVe s c (releaseVe x)) s
    cs.foldl (fun s c => if (ve s c).mode == .running then fetchAt s p q n c (.past (pcOf s c)) else s) s

def execLbar (c : Fin 256) (s : State) : Host.Outcome State Fault Refusal := .next (veRow 0x71 anyWord doLbar c s)
def execLred (c : Fin 256) (s : State) : Host.Outcome State Fault Refusal := .next (veRow 0x72 anyWord doLred c s)
def execLbarRelease (p : Fin 4) (q : Fin 16) (n : Word) (s : State) : Host.Outcome State Fault Refusal :=
  .next (doLbarRelease p q n s)

end Sys2Proof.Machine
end

