-- ==== Sys2Proof/Machine/Update.lean ====
section
/-! DEFINITION. UPDATE at command start (R191-R193, R200, R201, R203, R205, R208), UPDATE_BLOCK (R195, R199, R202,
R207), END (R149, R154, R196, R209) and COMMAND_COMPLETION (R305). -/

namespace Sys2Proof.Machine

/-! ## Validation (R193) -/

/-- The group that the descriptor names. -/
def updGroup (P : Polder) (bs : List Byte) : Option Group := tabGet none P.groups (fld bs 0x56 1)

/-- Reserved fields; address fields that the group's settings ignore are left out. A reserved FMT code is a reserved
encoding (R33), any other gradient format but the three of R191 is judged at order 5. -/
def updReserved (g : Option Group) (bs : List Byte) : Bool :=
  let rule := (g.map (·.rule)).getD 0
  let policy := (g.map (·.policy)).getD 0
  let size := fld bs 0x54 2
  (([0x00, 0x08, 0x20, 0x30, 0x40, 0x48, 0x68, 0x88, 0x90] : List Nat).all (addrHiOk bs)) &&
  (rule == 0 || addrHiOk bs 0x10) && (decide (rule < 2) || addrHiOk bs 0x18) && (policy != 1 || addrHiOk bs 0x28) &&
  addrHiOk bs 0x38 && pow2In size 64 1024 && decide (fld bs 0x57 1 ≤ 0xA) && fld bs 0x60 2 != 0xFFFF &&
  decide (fld bs 0x70 4 ≤ 4096) && zeroAt bs 0x84 4 && zeroAt bs 0x98 104

def updFmt (f : Nat) : Bool := f == 9 || f == 6 || f == 7

/-- Order 6: addresses, multipliers, the copy program's pair. -/
def updOperands (g : Group) (r : UpdRun) : Bool :=
  let ms := fmtAlign g.master
  let ss := fmtAlign g.moment
  r.tags % 16 == 0 && r.weight % ms == 0 && r.grad % fmtAlign r.gradFmt == 0 && (g.rule == 0 || r.mom1 % ss == 0) &&
  (decide (g.rule < 2) || r.mom2 % ss == 0) && (g.policy != 1 || (r.cell != 0 && r.cell % 32 == 0)) &&
  (r.delta == 0 || (g.policy == 1 && r.delta % 2 == 0 && r.deltaScale != 0 && r.deltaScale % 64 == 0)) &&
  r.normCell % 16 == 0 && r.report % 64 == 0 && (f32dec r.gmul).isFinite &&
  (r.normCell == 0 || positive (wordAtOff r.desc 0x5C)) &&
  ((addrOf r.desc 0x68 == 0) == (fld r.desc 0x70 4 == 0)) && addrOf r.desc 0x68 % 8 == 0

/-- Order 7: what the command reads and writes. -/
def updMemory (s : State) (p : Fin 4) (g : Group) (r : UpdRun) : Bool :=
  let ms := fmtAlign g.master
  let ss := fmtAlign g.moment
  accessOk s p true r.weight (r.elems * ms) && accessOk s p false r.grad (r.elems * fmtAlign r.gradFmt) &&
  (g.rule == 0 || accessOk s p true r.mom1 (r.elems * ss)) && (decide (g.rule < 2) || accessOk s p true r.mom2 (r.elems * ss)) &&
  accessOk s p true r.tags (16 * r.blocks) && (g.policy != 1 || accessOk s p true r.cell 32) &&
  (r.delta == 0 || (accessOk s p true r.delta (2 * r.elems) && accessOk s p true r.deltaScale (2 * r.blocks))) &&
  (r.normCell == 0 || accessOk s p false r.normCell 16) && (r.report == 0 || accessOk s p true r.report (if r.prog.isEmpty then 64 else 128)) &&
  accessOk s p false (addrOf r.desc 0x68) (8 * fld r.desc 0x70 4)

/-- The tables and cells read at command start meet no uncorrectable error. -/
def updClean (s : State) (g : Group) (r : UpdRun) : Bool :=
  (r.normCell == 0 || !meetsBad s r.normCell 16) && (g.policy != 1 || !meetsBad s r.cell 32) &&
  !meetsBad s r.tags (16 * r.blocks)

/-- Tag of block b, and its stored amax. -/
def tagAt (s : State) (r : UpdRun) (b : Nat) : Nat := memNat s (r.tags + 16 * b) 4
def tagAmax (s : State) (r : UpdRun) (b : Nat) : Word := BitVec.ofNat 32 (memNat s (r.tags + 16 * b + 8) 4)

def pairAt (s : State) (a : Nat) : Bool := compOk 4 (memNat s a 4) (memNat s (a + 4) 4)

/-- Order 9 of R193. -/
def updComps (s : State) (g : Group) (r : UpdRun) (n : Word) : Bool :=
  (r.normCell == 0 || pairAt s (r.normCell + 8)) &&
  (g.policy != 1 || (pairAt s r.cell && pairAt s (r.cell + 8) && pairAt s (r.cell + 16))) &&
  (List.range r.blocks).all fun b =>
    pairAt s (r.tags + 16 * b) && (tagAt s r b != n.toNat || pairAt s (r.tags + 16 * b + 8))

def cellInt (s : State) (a : Nat) : Int := (BitVec.ofNat 32 (memNat s a 4)).toInt
def expOk (x : Int) : Bool := decide (-127 ≤ x) && decide (x ≤ 127)

/-- The op values of a copy program: cvtsr is legal, lbar and lred are not (R193). -/
def copyOps (prog : List DWord) : Bool := prog.all fun w => opDefined (fOp w) && fOp w != 0x71 && fOp w != 0x72

/-- The run as the descriptor at command start gives it; constants follow. -/
def readUpd (bs : List Byte) (g : Group) (clusters : Nat) (prog : List DWord) : UpdRun :=
  { desc := bs, group := g, lr := 0, fclip := f32one, e := 0, skipAll := false, base := fld bs 0x64 2, count := clusters,
    started := false, committed := [], skipped := [], nonfinite := 0, prog := prog, work := [], copied := [],
    copiedBuf := [] }

def updRead (s : State) (p : Fin 4) (bs : List Byte) (g : Group) : UpdRun :=
  readUpd bs g (clusterCount s p (fld bs 0x64 2) (fld bs 0x66 2)) (readProgram s (addrOf bs 0x68) (fld bs 0x70 4))

/-- Orders 1 to 6 of R193. -/
def updChecks (s : State) (p : Fin 4) (e : Entry) : Option Status :=
  let a := e.desc.toNat
  let bs := memBytes s a 256
  let P := polder s p
  firstFail (descChecks s p a 256 ++
    [(updReserved (updGroup P bs) bs, .descInvalid),
     ((match updGroup P bs with | some g => decide (g.n0 ≤ P.step) | none => false) &&
       rangeOk s p (fld bs 0x64 2) (fld bs 0x66 2), .descInvalid),
     (updFmt (fld bs 0x57 1), .formatUnsupported),
     ((match updGroup P bs with | some g => updOperands g (updRead s p bs g) | none => false), .descInvalid)])

/-- Orders 7 to 10. -/
def updChecks2 (s : State) (p : Fin 4) (r : UpdRun) : Option Status :=
  let n := (polder s p).step
  let g := r.group
  firstFail
    [(updMemory s p g r, .accessDenied), (!meetsBad s (addrOf r.desc 0x68) (8 * r.prog.length), .eccUncorrected),
     (copyOps r.prog, .descInvalid), (updClean s g r, .eccUncorrected), (updComps s g r n, .complementMismatch),
     ((r.normCell == 0 || memNat s (r.normCell + 8) 4 == n.toNat) &&
       (g.policy != 1 || (expOk (cellInt s (r.cell + 8)) && expOk (cellInt s (r.cell + 0x10)))), .descInvalid)]

/-! ## Stream domains (R208) -/

/-- Claim IDs one after another: none when one is taken and the domain is not shared; else the table and the IDs
newly claimed. -/
def claimIds (share : Bool) : List Nat → List Nat → Option (List Nat × List Nat)
  | table, [] => some (table, [])
  | table, x :: xs =>
    if table.contains x then (if share then claimIds share table xs else none)
    else (claimIds share (table ++ [x]) xs).map fun r => (r.1, x :: r.2)

def updIds (r : UpdRun) : List Nat := r.tid :: (if r.copyTid = 0xFFFF then [] else [r.copyTid])

/-! ## Per-command constants -/

/-- ‖g‖² of the norm cell (R200). -/
def normSum (s : State) (r : UpdRun) : Word :=
  f32add (BitVec.ofNat 32 (memNat s r.normCell 4)) (BitVec.ofNat 32 (memNat s (r.normCell + 4) 4))

/-- fclip of R200; 0 for a sum of +∞, as R201 says, also where c × c overflows (log 98). -/
def clipFactor (s : State) (r : UpdRun) : Word :=
  if r.normCell = 0 then f32one else
  let x := normSum s r
  let c := wordAtOff r.desc 0x5C
  if f32dec x = .inf false then 0 else
  if FVal.le (f32dec x) (f32dec (f32mul c c)) then f32one else f32mul c (f32rsq x)

/-- The skip of R201: the sum is NaN or +∞ and the group says so. -/
def normSkips (s : State) (r : UpdRun) : Bool :=
  r.normCell != 0 && r.group.skip &&
  (match f32dec (normSum s r) with | .nan => true | .inf n => !n | _ => false)

/-- The run with its constants: learning rate, clip factor, exponent, blocks skipped by their tag. -/
def updPrepare (s : State) (p : Fin 4) (r : UpdRun) : UpdRun :=
  let P := polder s p
  let n := P.step
  { r with
    lr := f32mul r.group.baseLr (phiOf P r.group n)
    fclip := clipFactor s r
    e := if r.group.policy = 1 then
      (if memNat s r.cell 4 = n.toNat then cellInt s (r.cell + 0x10) else cellInt s (r.cell + 8)) else 0
    skipAll := normSkips s r
    skipped := (List.range r.blocks).filterMap fun b =>
      if tagAt s r b = n.toNat then some (b, tagAmax s r b) else none }

def reportArea (a n : Nat) : List Area := if a = 0 then [] else [flatArea a n]

/-- The bytes read at command start: the tags, the norm cell and the update cell are the command's, the copy program's
are traffic alone (R235, R415). -/
def noteUpdReads (s : State) (p : Fin 4) (set : BitVec 16) (r : UpdRun) : State :=
  let s := touch s p (addrOf r.desc 0x68) (8 * r.prog.length)
  let s := noteAccess s p set r.tags (16 * r.blocks)
  let s := if r.normCell = 0 then s else noteAccess s p set r.normCell 16
  if r.group.policy = 1 then noteAccess s p set r.cell 32 else s

def doUpdate (p : Fin 4) (q : Fin 16) (e : Entry) (s : State) : State :=
  runEntry s p q e 0x0A (fun s => updChecks s p e) fun t =>
    let bs := memBytes s e.desc.toNat 256
    match updGroup (polder s p) bs with
    | none => endCmd t p q e.seq .descInvalid
    | some g =>
      let r := updRead t p bs g
      if r.elems = 0 then endCmd t p q e.seq .ok else
      match updChecks2 t p r with
      | some st => endCmd t p q e.seq st
      | none =>
        match claimIds (flagShare e) (polder s p).claims (updIds r) with
        | none => endCmd t p q e.seq .domainReuse
        | some (table, fresh) =>
          let t := modPolder t p fun P => { P with claims := table }
          let r := updPrepare t p r
          let t := noteUpdReads t p e.ctrSet r
          let t := modCmd t p q e.seq fun c => { c with body := .update r, claims := fresh, areas := reportArea r.report 64 }
          if r.skipAll then setResult t p q e.seq .ok else t

def execUpdate (p : Fin 4) (q : Fin 16) (e : Entry) (s : State) : Host.Outcome State Fault Refusal := .next (doUpdate p q e s)

/-! ## One block: staging (R195) -/

/-- Read n consecutive elements of a format as binary32 words. -/
def decodeWords (fmt : Nat) (bs : List Byte) (n : Nat) : List Word :=
  let w := fmtAlign fmt
  (List.range n).map fun i => f32enc (decodeElem fmt (fld bs (i * w) w))

/-- Weights, gradients and moments of block b as staged. -/
structure Staging where
  w : List Word
  g : List Word
  m : List Word
  v : List Word

/-- Read one array of the block; none on an uncorrectable error. -/
def stageArray (s : State) (p : Fin 4) (set : BitVec 16) (r : UpdRun) (b base fmt : Nat) : State × Option (List Word) :=
  let w := fmtAlign fmt
  let n := r.blockLen b
  let x := unitRead s p set (base + b * r.bs * w) (n * w)
  (x.1, x.2.map fun bs => decodeWords fmt bs n)

def stageBlock (s : State) (p : Fin 4) (set : BitVec 16) (r : UpdRun) (b : Nat) : State × Option Staging :=
  let g := r.group
  let w := stageArray s p set r b r.weight g.master
  let gr := stageArray w.1 p set r b r.grad r.gradFmt
  let m := if g.rule = 0 then (gr.1, some []) else stageArray gr.1 p set r b r.mom1 g.moment
  let v := if g.rule < 2 then (m.1, some []) else stageArray m.1 p set r b r.mom2 g.moment
  (v.1, match w.2, gr.2, m.2, v.2 with
    | some w, some g, some m, some v => some { w := w, g := g, m := m, v := v }
    | _, _, _, _ => none)

/-! ## The rules (R199) -/

structure RuleConsts where
  c1 : Word
  c2 : Word
  rb1 : Word
  rb2 : Word

def ruleConsts (g : Group) (t : Word) : RuleConsts :=
  { c1 := f32sub f32one g.b1, c2 := f32sub f32one g.b2, rb1 := f32div f32one (f32sub f32one (powOf g.b1 t)),
    rb2 := f32div f32one (f32sub f32one (powOf g.b2 t)) }

def isZeroWord (x : Word) : Bool := (f32dec x).isZero

/-- New moments and u of one element. -/
def ruleElem (g : Group) (k : RuleConsts) (gr m v : Word) : Word × Word × Word :=
  match g.rule with
  | 0 => (m, v, gr)
  | 1 => let m := f32fma g.b1 m gr; (m, v, m)
  | _ =>
    let m := f32fma g.b1 m (f32mul k.c1 gr)
    let v := f32fma g.b2 v (f32mul k.c2 (f32mul gr gr))
    let mh := f32mul m k.rb1
    let vh := f32mul v k.rb2
    let den := f32add (if isZeroWord vh then 0 else f32mul vh (f32rsq vh)) g.eps
    (m, v, f32mul mh (f32rcp den))

/-- Sum of squares: one sum per lane in row order, then the tree of R147. -/
def sumSquares (xs : List Word) : Word :=
  let lanes := (List.range 64).map fun i =>
    (List.range ((xs.length + 63) / 64)).foldl (fun acc r => let x := xs.getD (64 * r + i) 0; f32fma x x acc) (0 : Word)
  (treeCombine f32add 6 lanes).headD 0

def normOf (xs : List Word) : Word :=
  let s := sumSquares xs
  if isZeroWord s then 0 else f32mul s (f32rsq s)

/-- The block's ratio under U3. -/
def trustRatio (g : Group) (w q : List Word) : Word :=
  let nw := normOf w
  let nq := normOf q
  let r := if isZeroWord nw || isZeroWord nq then f32one else f32mul nw (f32rcp nq)
  if FVal.lt FVal.zero (f32dec g.trust) then f32min r g.trust else r

/-- d of every element, with the new moments. -/
def ruleBlock (r : UpdRun) (t : Word) (x : Staging) : List Word × List Word × List Word :=
  let g := r.group
  let k := ruleConsts g t
  let els := (List.range x.w.length).map fun i =>
    ruleElem g k (f32mul (f32mul (x.g.getD i 0) r.gmul) r.fclip) (x.m.getD i 0) (x.v.getD i 0)
  let q := List.zipWith (fun w e => f32fma g.wd w e.2.2) x.w els
  let q := if g.rule = 3 then let ratio := trustRatio g x.w q; q.map (f32mul ratio) else q
  (q.map fun q => f32neg (f32mul r.lr q), els.map (·.1), els.map (·.2.1))

/-! ## Delta quantisation and storage rounding (R199, R202, R207) -/

/-- Quantise d: the FP16 conversion under policy 1, and dq. -/
def quantise (r : UpdRun) (d : Word) : Option Conv × Word :=
  if r.group.policy ≠ 1 then (none, d) else
  let c := convertElem 7 .rne false false (f32dec (f32scale d (BitVec.ofInt 32 (-r.e))))
  (some c, f32scale (f32enc (decodeElem 7 c.code)) (BitVec.ofInt 32 r.e))

/-- Round a value into its storage format: FP32 to nearest, BF16 with the draw of R207. -/
def storeRound (seed : BitVec 128) (n : Word) (r : UpdRun) (b : Nat) (fmt tgt i : Nat) (v : FVal) : Conv :=
  if fmt = 9 then convertElem 9 .rne false false v
  else convertElem fmt (.sr (srDraw seed n r.tid (BitVec.ofNat 32 b) (1024 * tgt + i))) false false v

/-- Number the elements of a list. -/
def indexed {α : Type} (xs : List α) : List (Nat × α) := (List.range xs.length).zip xs

structure BlockOut where
  out  : UpdBlock
  sats : Nat
  flushes : Nat
  /-- New weights and quantised deltas as binary32, for the copy program. -/
  w : List Word
  dq : List Word

/-- The largest finite |d| (R202). -/
def blockAmax (ds : List Word) : Word :=
  ds.foldl (fun a d => let v := d &&& 0x7FFFFFFF; if (f32dec v).isFinite && decide (a < v) then v else a) 0

/-- Steps 2 and 3 of R195 on a staged block, and what step 5 will store, the tag entry last. -/
def computeBlock (seed : BitVec 128) (n : Word) (r : UpdRun) (b : Nat) (x : Staging) : BlockOut :=
  let g := r.group
  let (ds, ms, vs) := ruleBlock r (r.t n) x
  let qs := ds.map (quantise r)
  let wc := (indexed (List.zip x.w qs)).map fun y =>
    storeRound seed n r b g.master 0 y.1 ((f32dec y.2.1).add (f32dec y.2.2.2))
  let mc := if g.rule = 0 then [] else (indexed ms).map fun y => storeRound seed n r b g.moment 1 y.1 (f32dec y.2)
  let vc := if g.rule < 2 then [] else (indexed vs).map fun y => storeRound seed n r b g.moment 2 y.1 (f32dec y.2)
  let pack (w : Nat) (cs : List Conv) := cs.flatMap fun c => leBytes w c.code
  let ws := fmtAlign g.master
  let ss := fmtAlign g.moment
  let amax := blockAmax ds
  let deltas := qs.filterMap (·.1)
  let all := wc ++ mc ++ vc ++ deltas
  let at_ (base w : Nat) := base + b * r.bs * w
  { out :=
      { block := b
        stores := [(at_ r.weight ws, pack ws wc)] ++ (if g.rule = 0 then [] else [(at_ r.mom1 ss, pack ss mc)]) ++
          (if g.rule < 2 then [] else [(at_ r.mom2 ss, pack ss vc)]) ++
          (if r.delta = 0 then [] else
            [(at_ r.delta 2, pack 2 deltas), (r.deltaScale + 2 * b, withComp 1 (r.e + 127).toNat)]) ++
          [(r.tags + 16 * b, withComp 4 n.toNat ++ withComp 4 amax.toNat)]
        amax := amax
        nonfinite := ds.countP fun d => !(f32dec d).isFinite }
    sats := satsOf all, flushes := flushesOf all
    w := wc.map fun c => f32enc (decodeElem g.master c.code)
    dq := qs.map (·.2) }

/-! ## Write-back (R195, R209, R210) -/

/-- A store is partly blocked by a failed granule (R220, R226). -/
def storeBlocked (s : State) (x : Nat × List Byte) : Bool :=
  blocked s x.1 x.2.length x.1 || blocked s x.1 x.2.length (x.1 + x.2.length - 1)

def applyStores (s : State) (p : Fin 4) (set : BitVec 16) (xs : List (Nat × List Byte)) : State :=
  xs.foldl (fun s x => (unitWrite s p set x.1 x.2).1) s

/-- A VE back to waiting between blocks. -/
def idleVe (V : Ve) : Ve := { V with mode := .idle, areas := [], bufAreas := [] }

/-- Write a block back, its tag last, and commit it; an error in its data path leaves it untouched (R455). -/
def commitBlock (s : State) (p : Fin 4) (q : Fin 16) (n : Word) (c : Cmd) (r : UpdRun) (k : Nat) (cl : Fin 256)
    (u : UpdBlock) : State :=
  if u.stores.any (storeBlocked s) then failUpdate s p q n .eccUncorrected r c.step else
  let V := ve s cl
  let s := applyStores s p c.e.ctrSet u.stores
  let s := modVe s cl idleVe
  finishUpdate s p q n
    { r with committed := r.committed ++ [(u.block, u.amax)], nonfinite := r.nonfinite + u.nonfinite,
             work := r.work.filter fun x => x.1 ≠ k, copied := r.copied ++ V.areas,
             copiedBuf := r.copiedBuf ++ V.bufAreas.map fun x => (k, x) }

/-- Rows of 64 words as the copy program finds them. -/
def putWords (V : Ve) (a : Nat) (xs : List Word) : Ve :=
  let bs := xs.flatMap fun x => leBytes 4 x.toNat
  { V with store := tabSplice 0 V.store a bs, stale := cutStale V.stale a (a + bs.length) }

/-- Start the copy program for block b (R196); its conversions flush nothing to zero that they need not (log 99). -/
def startCopy (r : UpdRun) (draw b : Nat) (o : BlockOut) (V : Ve) : Ve :=
  let desc := r.desc
  let scal (i : Nat) : Word :=
    if i = 0 then BitVec.ofNat 32 b else if i = 1 then BitVec.ofNat 32 (r.blockLen b)
    else if i = 2 then BitVec.ofNat 32 (b * r.bs)
    else if 8 ≤ i ∧ i < 12 then wordAtOff desc (0x74 + 4 * (i - 8)) else 0
  let addr (i : Nat) : BitVec 48 :=
    if i = 0 then 0x10000 else if i = 1 then 0x18000
    else if i = 6 then BitVec.ofNat 48 (addrOf desc 0x88) else if i = 7 then BitVec.ofNat 48 (addrOf desc 0x90) else 0
  putWords (putWords
    { Ve.reset with
      sreg := Vector.ofFn fun i => scal i.val
      a := Vector.ofFn fun i => addr i.val
      prog := V.prog, owner := V.owner, update := true, mode := .running, stale := [(0, 0x38000, draw)] }
    0x10000 o.w) 0x18000 o.dq

def doUpdateBlock (p : Fin 4) (q : Fin 16) (n : Word) (k : Nat) (s : State) : State :=
  match liveCmd s p q n with
  | none => s
  | some c =>
    match c.body with
    | .update r =>
      let cl := (rangeClusters s p r.base r.count).getD k 0
      let V := ve s cl
      if !r.started ∨ r.count ≤ k ∨ !ownedBy V p q n ∨ V.mode ≠ .idle then s else
      match r.nextBlock k with
      | none => s
      | some b =>
        let x := stageBlock s p c.e.ctrSet r b
        match x.2 with
        | none => failUpdate x.1 p q n .eccUncorrected r c.step
        | some st =>
          let o := computeBlock (polder s p).seed c.step r b st
          let s := noteCounts x.1 p q n c.e.ctrSet o.sats o.flushes 0
          if r.prog.isEmpty then commitBlock s p q n c r k cl o.out
          else
            let s := setBody s p q n (.update { r with work := r.work ++ [(k, o.out)] })
            nextDraw (modVe s cl (startCopy r s.draws b o))
    | _ => s

def execUpdateBlock (p : Fin 4) (q : Fin 16) (n : Word) (k : Nat) (s : State) : Host.Outcome State Fault Refusal :=
  .next (doUpdateBlock p q n k s)

/-! ## END (R137, R149, R154, R196) -/

/-- The last cluster of a launch has ended: the command's work is done. -/
def launchEnded (s : State) (p : Fin 4) (q : Fin 16) (n : Word) : State :=
  if (launchOf s p q n).all fun c => (ve s c).mode == .ended then setResult (releaseUnits s p q n) p q n .ok else s

/-- End of a program: of a VK launch's cluster, or of the copy program, whose block is then written back. -/
def doEnd : VeOp := fun s c w =>
  if !plain w then trapOf 0x01 else
  match (ve s c).owner with
  | none => trapOf 0x01
  | some (p, q, n, pos, _) =>
    match cmdAt s p q n with
    | none => trapOf 0x01
    | some cmd =>
      match cmd.body with
      | .update r =>
        match r.work.find? fun x => x.1 == pos with
        | some (_, u) => .ok (commitBlock s p q n cmd r pos c u) .hold
        | none => .ok s .hold
      | _ =>
        let s' := modVe s c fun V => { V with mode := .ended }
        if clashes s' c then trapOf 0x08 else .ok (launchEnded s' p q n) .hold

def execVeEnd (c : Fin 256) (s : State) : Host.Outcome State Fault Refusal := .next (veRow 0x01 anyWord doEnd c s)

/-! ## COMMAND_COMPLETION (R305) -/

/-- Where an UPDATE's cell, or a spillway bit of a command, lies in a block that a part of it cannot be stored to (R220,
R226), the command fails with ECC_UNCORRECTED in place of completing. -/
def postingBlocked (s : State) (c : Cmd) (st : Status) : Bool :=
  succeeded st && (spillBlocked s c.spill || match c.body with
    | .update r => r.group.policy == 1 && blocked s r.cell 24 r.cell
    | _ => false)

/-- What a command does just before its completion: an UPDATE writes its report and its cell (R203, R212). -/
def beforePosting (s : State) (p : Fin 4) (c : Cmd) (st : Status) : State × Status :=
  if postingBlocked s c st then
    (match c.body with
      | .update r => failUpdate s p c.q c.e.seq .eccUncorrected r c.step
      | _ => failCmd s p c.q c.e.seq .eccUncorrected, .eccUncorrected)
  else match c.body with
    | .update r => (if succeeded st then writeUpdCell (writeUpdReport s p c.e.ctrSet r c.step) p c.e.ctrSet r c.step else s, st)
    | _ => (s, st)

/-- Post the completion of the queue's oldest command once its work has ended, if its watchdog has not expired before (R428). -/
def doCommandCompletion (p : Fin 4) (q : Fin 16) (s : State) : State :=
  let P := polder s p
  if s.boot ≠ .ready ∨ P.st ≠ .opened ∨ P.discard.isSome then s else
  match (inQueue P q).head? with
  | none => s
  | some c =>
    match if c.expired then none else c.res with
    | none => s
    | some st =>
      let x := beforePosting s p c st
      postCompletion x.1 p ((cmdAt x.1 p q c.e.seq).getD c) x.2

def execCommandCompletion (p : Fin 4) (q : Fin 16) (s : State) : Host.Outcome State Fault Refusal :=
  .next (doCommandCompletion p q s)

end Sys2Proof.Machine
end

