-- ==== Sys2Proof/Machine/StatePack.lean ====
section
/-! DEFINITION. STATE_SAVE, STATE_LOAD and REPLAY_CHECK (R357-R367, R453, R454), with the actions at their fences. -/

namespace Sys2Proof.Machine

/-! ## Descriptor and items (R358) -/

/-- An UPDATE shard of the item list. -/
structure PackItem where
  tags   : Nat
  blocks : Nat
  cell   : Nat
  deriving DecidableEq, Repr

def packItems (bs : List Byte) (n : Nat) : List PackItem :=
  (slices bs 0 32 n).map fun b => { tags := addrOf b 0, blocks := fld b 8 4, cell := addrOf b 0x10 }

def itemOk (b : List Byte) : Bool :=
  addrHiOk b 0 && addrOf b 0 % 16 == 0 && decide (1 ≤ fld b 8 4) && decide (fld b 8 4 ≤ 2 ^ 24) && zeroAt b 0xC 4 &&
  addrHiOk b 0x10 && addrOf b 0x10 % 32 == 0 && zeroAt b 0x18 8

def packFlag (d : List Byte) (i : Nat) : Bool := (d.getD 0x0C 0).getLsbD i

/-- Reserved fields, item count, alignments of the pack and the item list; a load also reserves capacity and flag [0]. -/
def packFields (load : Bool) (d : List Byte) : Bool :=
  addrHiOk d 0 && addrOf d 0 % 64 == 0 && decide (fld d 0x0C 1 < 4) && zeroAt d 0x0D 1 && decide (fld d 0x0E 2 ≤ 64) &&
  addrHiOk d 0x10 && addrOf d 0x10 % 32 == 0 && zeroAt d 0x18 40 && (!load || (zeroAt d 8 4 && !packFlag d 0))

/-- Orders 1 to 4 of R362 and 1 to 5 of R363. -/
def packChecks (s : State) (p : Fin 4) (load : Bool) (e : Entry) : List (Bool × Status) :=
  let a := e.desc.toNat
  let d := memBytes s a 64
  let n := fld d 0x0E 2
  let l := addrOf d 0x10
  descChecks s p a 64 ++
  [(packFields load d, .descInvalid), (accessOk s p false l (32 * n), .accessDenied), (!meetsBad s l (32 * n), .eccUncorrected),
   ((slices (memBytes s l (32 * n)) 0 32 n).all itemOk, .descInvalid)]

/-- Descriptor and item list as read at command start. -/
def packDesc (s : State) (e : Entry) : List Byte := memBytes s e.desc.toNat 64
def packList (s : State) (e : Entry) : List Byte :=
  memBytes s (addrOf (packDesc s e) 0x10) (32 * fld (packDesc s e) 0x0E 2)

/-- Order 5 of R362: everything that is read, and the pack area. -/
def saveMemory (s : State) (p : Fin 4) (e : Entry) : Bool :=
  let d := packDesc s e
  ((packItems (packList s e) (fld d 0x0E 2)).all fun i =>
    accessOk s p false i.tags (16 * i.blocks) && (i.cell == 0 || accessOk s p false i.cell 32)) &&
  accessOk s p true (addrOf d 0) (fld d 8 4)

def doStateSave (p : Fin 4) (q : Fin 16) (e : Entry) (s : State) : State :=
  runEntry s p q e 0x0C (fun s => firstFail (packChecks s p false e ++ [(saveMemory s p e, .accessDenied)])) fun t =>
    setBody t p q e.seq (.save (packDesc s e) (packList s e))

def execStateSave (p : Fin 4) (q : Fin 16) (e : Entry) (s : State) : Host.Outcome State Fault Refusal :=
  .next (doStateSave p q e s)

def doStateLoad (p : Fin 4) (q : Fin 16) (e : Entry) (s : State) : State :=
  runEntry s p q e 0x0D (fun s => firstFail (packChecks s p true e)) fun t =>
    setBody t p q e.seq (.load (packDesc s e) (packList s e))

def execStateLoad (p : Fin 4) (q : Fin 16) (e : Entry) (s : State) : Host.Outcome State Fault Refusal :=
  .next (doStateLoad p q e s)

/-! ## The sections of a pack (R360) -/

structure PackSection where
  typ   : Nat
  count : Nat
  data  : List Byte

def winBytes (w : GWin) : List Byte :=
  leBytes 8 w.nz ++ ovfvanBytes w.w4 ++ ovfvanBytes w.w8 ++ ovfvanBytes w.w16 ++ ovfvanBytes w.comp

def gaugeSection (P : Polder) : List PackSection :=
  let gs := gaugeList P
  if gs.isEmpty then [] else
  [{ typ := 1, count := gs.length, data := gs.flatMap fun x =>
      let g := x.2
      let ws := g.win.take 4
      leBytes 2 x.1 ++ leBytes 1 g.ladder ++ leBytes 1 (g.gradient.toNat + 2 * g.wdOff.toNat) ++ leBytes 4 g.streak ++
      leBytes 1 ws.length ++ zeros 7 ++ zeros (72 * (4 - ws.length)) ++ ws.reverse.flatMap winBytes ++ zeros 16 }]

def layerList (P : Polder) : List (Nat × Layer) := P.layers.filterMap fun x => x.2.map fun l => (x.1, l)

def governorSection (P : Polder) : List PackSection :=
  let ls := layerList P
  if ls.isEmpty then [] else
  [{ typ := 2, count := ls.length, data := ls.flatMap fun x =>
      let l := x.2
      leBytes 2 x.1 ++ leBytes 1 (l.width.isSome.toNat + 2 * l.follow.toNat + 4 * l.band.isSome.toNat) ++
      leBytes 1 (l.width.getD 0) ++ leBytes 1 l.streak ++ leBytes 1 (l.band.getD (0, 0)).1 ++
      leBytes 1 (l.band.getD (0, 0)).2 ++ [0] ++ leBytes 2 (l.feed.getD 0xFFFF) ++ leBytes 2 (l.grad.getD 0xFFFF) ++ zeros 20 }]

/-- Log entries that a save takes: the most recent ones still in the ring. -/
def logKept (n ents : Nat) : Nat := min n (min ents 4096)

def logSection (s : State) (P : Polder) (want : Bool) : List PackSection :=
  match want, P.log with
  | true, some (base, ents, n) =>
    let k := logKept n.toNat ents
    if k = 0 then [] else
    [{ typ := 3, count := k, data := withComp 8 n.toNat ++
        (List.range k).flatMap fun i => memBytes s (base + 64 + 16 * ((n.toNat - k + i) % ents)) 16 }]
  | _, _ => []

def managed (P : Polder) : List (Nat × Gauge) := (gaugeList P).filter fun x => x.2.scaleAddr != 0

def pad64 (b : List Byte) : List Byte := padTo (roundUp b.length 64) b

def spillSection (s : State) (P : Polder) (want : Bool) : List PackSection :=
  if !want || (managed P).isEmpty then [] else
  [{ typ := 4, count := (managed P).length, data := (managed P).flatMap fun x =>
      let g := x.2
      let n := tableBytes g.lines g.bpl
      pad64 (leBytes 2 x.1 ++ leBytes 1 g.bs ++ [0] ++ leBytes 2 g.bpl ++ zeros 2 ++ leBytes 4 g.lines ++ zeros 4 ++
        memBytes s g.scaleAddr n ++ memBytes s g.stateAddr n) }]

def updateSection (s : State) (items : List PackItem) : List PackSection :=
  if items.isEmpty then [] else
  [{ typ := 5, count := items.length, data := items.flatMap fun i =>
      leBytes 4 i.blocks ++ leBytes 1 (i.cell != 0).toNat ++ zeros 27 ++ (if i.cell = 0 then [] else memBytes s i.cell 32) ++
      memBytes s i.tags (16 * i.blocks) }]

def packSections (s : State) (p : Fin 4) (d items : List Byte) : List PackSection :=
  let P := polder s p
  gaugeSection P ++ governorSection P ++ logSection s P (packFlag d 1) ++ spillSection s P (packFlag d 0) ++
  updateSection s (packItems items (fld d 0x0E 2))

/-! ## Writing a pack (R359, R361, R362) -/

/-- Offset of the first section: header and directory rounded up to 64 bytes. -/
def sectionsFrom (n : Nat) : Nat := 128 + roundUp (16 * n) 64

/-- L of R362. -/
def packLength (xs : List PackSection) : Nat :=
  sectionsFrom xs.length + (xs.map fun x => roundUp x.data.length 64).sum + 4

/-- The directory of R359. -/
def packDirectory : Nat → List PackSection → List Byte
  | _, [] => []
  | off, x :: xs =>
    leBytes 2 x.typ ++ zeros 2 ++ leBytes 4 off ++ leBytes 4 x.data.length ++ leBytes 4 x.count ++
    packDirectory (off + roundUp x.data.length 64) xs

/-- The polder's draw position (R361). -/
def drawPosition (P : Polder) : Word := if P.claims.isEmpty then P.step else P.step + 1

def packHeader (s : State) (p : Fin 4) (scale : Bool) (xs : List PackSection) : List Byte :=
  let P := polder s p
  let h := leBytes 4 0x53504B31 ++ leBytes 2 1 ++ leBytes 2 (scale.toNat + 2 * (xs.any fun x => x.typ == 3).toNat) ++
    leBytes 4 (packLength xs) ++ leBytes 2 xs.length ++ leBytes 1 (dieCount s p) ++ [0] ++ leBytes 4 P.step.toNat ++
    leBytes 4 (drawPosition P).toNat ++ leBytes 8 (leveeTime s).toNat ++ leBytes 8 s.fuses.serial.toNat ++
    leBytes 16 P.seed.toNat ++ zeros 8
  h ++ h.map (~~~·)

def packBytes (s : State) (p : Fin 4) (scale : Bool) (xs : List PackSection) : List Byte :=
  let b := packHeader s p scale xs ++
    padTo (sectionsFrom xs.length - 128) (packDirectory (sectionsFrom xs.length) xs) ++ xs.flatMap fun x => pad64 x.data
  b ++ leBytes 4 (crc32c b)

/-- Everything the save copies or checks is readable. -/
def saveClean (s : State) (P : Polder) (d : List Byte) (items : List PackItem) : Bool :=
  (items.all fun i => !meetsBad s i.tags (16 * i.blocks) && (i.cell == 0 || !meetsBad s i.cell 32)) &&
  tablesReadable s P &&
  (match packFlag d 1, P.log with
   | true, some (base, ents, _) => !meetsBad s base (64 + 16 * ents)
   | _, _ => true)

/-- Order 7 of R362: tags, update cells, and every managed scale and state entry, whether the pack takes them or not. -/
def saveComps (s : State) (P : Polder) (items : List PackItem) : Bool :=
  (items.all fun i =>
    ((List.range i.blocks).all fun b =>
      pairAt s (i.tags + 16 * b) && (memNat s (i.tags + 16 * b) 4 != P.step.toNat || pairAt s (i.tags + 16 * b + 8))) &&
    (i.cell == 0 || (pairAt s i.cell && pairAt s (i.cell + 8) && pairAt s (i.cell + 16)))) &&
  managedAgree s P

/-- What a save reads: tags and cells of the items, every managed table, the log where the pack takes it. -/
def saveReads (P : Polder) (d : List Byte) (items : List PackItem) : List (Nat × Nat) :=
  (items.flatMap fun i => (i.tags, 16 * i.blocks) :: (if i.cell = 0 then [] else [(i.cell, 32)])) ++
  ((managed P).flatMap fun x =>
    [(x.2.scaleAddr, tableBytes x.2.lines x.2.bpl), (x.2.stateAddr, tableBytes x.2.lines x.2.bpl)]) ++
  (match packFlag d 1, P.log with
   | true, some (base, ents, _) => [(base, 64 + 16 * ents)]
   | _, _ => [])

/-- STATE_SAVE at its fence: orders 6 and 7, then the pack (R362, R454). -/
def saveAtFence (s : State) (p : Fin 4) (c : Cmd) (d items : List Byte) : State :=
  let P := polder s p
  let is := packItems items (fld d 0x0E 2)
  let xs := packSections s p d items
  match firstFail [(decide (packLength xs ≤ fld d 8 4), .descInvalid), (saveClean s P d is, .eccUncorrected),
                   (saveComps s P is, .complementMismatch)] with
  | some st => endCmd s p c.q c.e.seq st
  | none =>
    let b := packBytes s p (packFlag d 0) xs
    let s := noteSpans s p c.e.ctrSet (saveReads P d is)
    let w := unitWrite (setAreas s p c.q c.e.seq [flatArea (addrOf d 0) b.length]) p c.e.ctrSet (addrOf d 0) b
    if w.2 then endCmd w.1 p c.q c.e.seq .ok else failCmd w.1 p c.q c.e.seq .eccUncorrected

def doStateSaveFenceReached (p : Fin 4) (s : State) : State :=
  if !isRunning s p then s else
  match atFence (polder s p) with
  | some c => match c.body with
    | .save d items => saveAtFence s p c d items
    | _ => s
  | none => s

def execStateSaveFenceReached (p : Fin 4) (s : State) : Host.Outcome State Fault Refusal := .next (doStateSaveFenceReached p s)

/-! ## Reading a pack (R363 order 7) -/

/-- The directory's sections; none when it breaks a rule of R363 order 7. -/
def readSections (b : List Byte) (len : Nat) : Option (List PackSection) :=
  let n := fld b 0x0C 2
  let ents := slices b 128 16 n
  let ok := ents.all fun x =>
    decide (1 ≤ fld x 0 2) && decide (fld x 0 2 ≤ 5) && zeroAt x 2 2 && fld x 4 4 % 64 == 0 &&
    decide (sectionsFrom n ≤ fld x 4 4) && decide (fld x 4 4 + fld x 8 4 ≤ len - 4)
  if decide (n ≤ 5) && decide (sectionsFrom n + 4 ≤ len) && ok && decide ((ents.map fun x => fld x 0 2).Nodup) then
    some (ents.map fun x => { typ := fld x 0 2, count := fld x 12 4, data := (b.drop (fld x 4 4)).take (fld x 8 4) })
  else none

def sectionOf (xs : List PackSection) (t : Nat) : Option PackSection := xs.find? fun x => x.typ == t
def sectionData (xs : List PackSection) (t : Nat) : List Byte := match sectionOf xs t with | some x => x.data | none => []
def sectionCount (xs : List PackSection) (t : Nat) : Nat := match sectionOf xs t with | some x => x.count | none => 0

/-- A managed table as the pack names it. -/
structure PackTable where
  gauge : Nat
  bs    : Nat
  bpl   : Nat
  lines : Nat
  scale : List Byte
  state : List Byte

/-- The tables of the spillway section; none when their sizes and the section's length disagree. -/
def readTables : Nat → List Byte → Option (List PackTable)
  | 0, b => if b.isEmpty then some [] else none
  | k + 1, b =>
    let n := tableBytes (fld b 8 4) (fld b 4 2)
    let size := roundUp (16 + 2 * n) 64
    if b.length < size then none else
    (readTables k (b.drop size)).map fun r =>
      { gauge := fld b 0 2, bs := fld b 2 1, bpl := fld b 4 2, lines := fld b 8 4, scale := (b.drop 16).take n,
        state := (b.drop (16 + n)).take n } :: r

/-- One item of the update-state section: blocks, cell, tag entries. -/
structure PackUpdate where
  blocks : Nat
  cell   : Option (List Byte)
  tags   : List Byte

def readUpdates : Nat → List Byte → Option (List PackUpdate)
  | 0, b => if b.isEmpty then some [] else none
  | k + 1, b =>
    let blocks := fld b 0 4
    let has := (b.getD 4 0).getLsbD 0
    let from_ := 32 + (if has then 32 else 0)
    let size := from_ + 16 * blocks
    if b.length < size ∨ b.length < 32 then none else
    (readUpdates k (b.drop size)).map fun r =>
      { blocks := blocks, cell := if has then some ((b.drop 32).take 32) else none,
        tags := (b.drop from_).take (16 * blocks) } :: r

/-- A pack whose header, CRC and directory stand. -/
structure Pack where
  head     : List Byte
  sections : List PackSection
  tables   : List PackTable
  updates  : List PackUpdate

def headerOk (b : List Byte) (len : Nat) : Bool :=
  fld b 0 4 == 0x53504B31 && fld b 4 2 == 1 && (b.drop 64).take 64 == (b.take 64).map (~~~·) && decide (fld b 6 2 < 4) &&
  zeroAt b 0xF 1 && zeroAt b 0x38 8 && (fld b 0xE 1 == 1 || fld b 0xE 1 == 2 || fld b 0xE 1 == 4) && decide (132 ≤ len) &&
  fld b (len - 4) 4 == crc32c (b.take (len - 4))

def readPack (b : List Byte) (len : Nat) : Option Pack :=
  if !headerOk b len then none else
  match readSections b len with
  | none => none
  | some xs =>
    if (sectionData xs 1).length ≠ 320 * sectionCount xs 1 ∨ (sectionData xs 2).length ≠ 32 * sectionCount xs 2 ∨
        4096 < sectionCount xs 3 ∨ ((sectionOf xs 3).isSome ∧ (sectionData xs 3).length ≠ 16 + 16 * sectionCount xs 3) then none
    else match readTables (sectionCount xs 4) (sectionData xs 4), readUpdates (sectionCount xs 5) (sectionData xs 5) with
      | some ts, some us => some { head := b.take 128, sections := xs, tables := ts, updates := us }
      | _, _ => none

def Pack.scaleHistory (k : Pack) : Bool := (k.head.getD 6 0).getLsbD 0
def Pack.step (k : Pack) : Word := BitVec.ofNat 32 (fld k.head 0x10 4)
def Pack.gaugeEntries (k : Pack) : List (List Byte) := slices (sectionData k.sections 1) 0 320 (sectionCount k.sections 1)
def Pack.layerEntries (k : Pack) : List (List Byte) := slices (sectionData k.sections 2) 0 32 (sectionCount k.sections 2)

/-! ## STATE_LOAD at its fence -/

/-- Order 9: the configuration is that of the pack. -/
def packMatches (P : Polder) (items : List PackItem) (k : Pack) : Bool :=
  P.staged.isEmpty &&
  ((gaugeList P).map fun x => (x.1, x.2.ladder, x.2.gradient)) ==
    (k.gaugeEntries.map fun b => (fld b 0 2, fld b 2 1, (b.getD 3 0).getLsbD 0)) &&
  ((layerList P).map fun x => (x.1, x.2.feed.getD 0xFFFF, x.2.grad.getD 0xFFFF)) ==
    (k.layerEntries.map fun b => (fld b 0 2, fld b 8 2, fld b 10 2)) &&
  (!k.scaleHistory ||
    ((managed P).map fun x => (x.1, x.2.bs, x.2.bpl, x.2.lines)) == (k.tables.map fun t => (t.gauge, t.bs, t.bpl, t.lines))) &&
  (items.map fun i => (i.blocks, i.cell != 0)) == (k.updates.map fun u => (u.blocks, u.cell.isSome))

/-- A load without scale history into a polder that manages tables (R365). -/
def loadDefaults (P : Polder) (k : Pack) : Bool := !k.scaleHistory && !(managed P).isEmpty

/-- Is the log to be restored (R364)? -/
def logRestored (P : Polder) (d : List Byte) (k : Pack) : Option (Nat × Nat) :=
  match packFlag d 1 && (sectionOf k.sections 3).isSome, P.log with
  | true, some (base, ents, _) => some (base, ents)
  | _, _ => none

/-- The log's entries and header as the pack restores them into a ring of `ents` entries. -/
def logWrites (k : Pack) (base ents : Nat) : List (Nat × List Byte) :=
  let b := sectionData k.sections 3
  let n := sectionCount k.sections 3
  let total := fld b 0 8
  let keep := min n ents
  ((List.range keep).map fun i =>
    (base + 64 + 16 * ((total - keep + i) % ents), (b.drop (16 + 16 * (n - keep + i))).take 16)) ++
  [(base, withComp 8 total ++ zeros 48)]

/-- What step 1 of R364 writes. -/
def loadWrites (P : Polder) (d : List Byte) (items : List PackItem) (k : Pack) : List (Nat × List Byte) :=
  (if k.scaleHistory then
    (List.zip (managed P) k.tables).flatMap fun x => [(x.1.2.scaleAddr, x.2.scale), (x.1.2.stateAddr, x.2.state)]
   else (managed P).map fun x => (x.2.stateAddr, (List.range (x.2.lines * x.2.bpl)).flatMap fun _ => [0x00, 0xFF])) ++
  ((List.zip items k.updates).flatMap fun x =>
    (match x.2.cell with | some c => [(x.1.cell, c)] | none => []) ++ [(x.1.tags, x.2.tags)]) ++
  (match logRestored P d k with | some (base, ents) => logWrites k base ents | none => [])

/-- The windows of one gauge entry, newest first. -/
def packWindows (b : List Byte) : List GWin :=
  let ov (w : List Byte) (o : Nat) : OvfVan := { ovf := fld w o 8, van := fld w (o + 8) 8 }
  ((slices b 16 72 4).reverse.take (min 4 (fld b 8 1))).map fun w =>
    { nz := fld w 0 8, w4 := ov w 8, w8 := ov w 24, w16 := ov w 40, comp := ov w 56 }

def loadGauge (k : Pack) (id : Nat) (g : Gauge) : Gauge :=
  match k.gaugeEntries.find? fun b => fld b 0 2 == id with
  | some b => { g with tot := GTot.zero, win := packWindows b, streak := fld b 4 4 }
  | none => g

def loadLayer (k : Pack) (id : Nat) (l : Layer) : Layer :=
  match k.layerEntries.find? fun b => fld b 0 2 == id with
  | some b =>
    let f := b.getD 2 0
    { l with width := if f.getLsbD 0 then some (fld b 3 1 % 4) else none, streak := fld b 4 1,
             band := if f.getLsbD 2 then some (fld b 5 1 % 4, fld b 6 1 % 4) else none, stepBand := none, adopted := none }
  | none => l

/-- Step 2 of R364. The items it writes get both copies anew (R356). -/
def loadPolder (P : Polder) (d : List Byte) (k : Pack) : Polder :=
  { P with
    step := k.step, seed := BitVec.ofNat 128 (fld k.head 0x28 16)
    gauges := P.gauges.map fun x => (x.1, x.2.map (loadGauge k x.1))
    layers := P.layers.map fun x => (x.1, x.2.map (loadLayer k x.1))
    claims := [], cells := [], origin := some (fld k.head 0xE 1), loaded := true
    defaulted := if loadDefaults P k then some k.step else none
    log := match P.log, logRestored P d k with
      | some (base, ents, _), some _ => some (base, ents, BitVec.ofNat 64 (fld (sectionData k.sections 3) 0 8))
      | l, _ => l
    bad0 := P.bad0 &&& 0x0E, bad1 := P.bad1 &&& 0x0E }

/-- STATE_LOAD at its fence: orders 6 to 10, then the actions of R364. -/
def loadAtFence (s : State) (p : Fin 4) (c : Cmd) (d items : List Byte) : State :=
  let P := polder s p
  let is := packItems items (fld d 0x0E 2)
  let a := addrOf d 0
  let len := memNat s (a + 8) 4
  let b := memBytes s a len
  match firstFail [(accessOk s p false a 128, .accessDenied), (!meetsBad s a 128, .eccUncorrected),
                   (accessOk s p false a len, .accessDenied), (!meetsBad s a len, .eccUncorrected)], readPack b len with
  | some st, _ => endCmd s p c.q c.e.seq st
  | none, none => endCmd s p c.q c.e.seq .statePackInvalid
  | none, some k =>
    let ws := loadWrites P d is k
    match firstFail [(BitVec.ofNat 32 (fld k.head 0x14 4) == k.step, .restoreRngSkew), (packMatches P is k, .descInvalid),
                     (ws.all fun x => accessOk s p true x.1 x.2.length, .accessDenied),
                     (!ws.any (storeBlocked s), .eccUncorrected)] with
    | some st => endCmd s p c.q c.e.seq st
    | none =>
      let s := (unitWrites (noteAccess s p c.e.ctrSet a len) p c.e.ctrSet ws).1
      let s := modPolder s p fun P => loadPolder P d k
      finishFence (addWarn s p c.q c.e.seq (if loadDefaults P k then wScaleDefaulted else 0)) p c.q c.e.seq

def doStateLoadFenceReached (p : Fin 4) (s : State) : State :=
  if !isRunning s p then s else
  match atFence (polder s p) with
  | some c => match c.body with
    | .load d items => loadAtFence s p c d items
    | _ => s
  | none => s

def execStateLoadFenceReached (p : Fin 4) (s : State) : Host.Outcome State Fault Refusal := .next (doStateLoadFenceReached p s)

/-! ## REPLAY_CHECK (R366, R367, R453) -/

def replayFields (d : List Byte) : Bool :=
  addrHiOk d 0 && addrHiOk d 8 && addrHiOk d 0x20 && decide (fld d 0x10 1 ≤ 1) && decide (fld d 0x11 1 ≤ 2) && zeroAt d 0x12 2 &&
  zeroAt d 0x1C 4 && zeroAt d 0x28 24 && nonNeg (wordAtOff d 0x18) && addrOf d 0 % 8 == 0 && addrOf d 8 % 8 == 0 &&
  addrOf d 0x20 % 32 == 0

def replaySize (d : List Byte) : Nat := if fld d 0x10 1 = 1 then 8 else 4

def replayChecks (s : State) (p : Fin 4) (e : Entry) : Option Status :=
  let a := e.desc.toNat
  let d := memBytes s a 64
  let n := replaySize d
  firstFail (descChecks s p a 64 ++
    [(replayFields d, .descInvalid), (fld d 0x14 4 == (polder s p).step.toNat, .descInvalid),
     (accessOk s p false (addrOf d 0) n && accessOk s p false (addrOf d 8) n &&
       (addrOf d 0x20 == 0 || accessOk s p true (addrOf d 0x20) 32), .accessDenied),
     (!meetsBad s (addrOf d 0) n && !meetsBad s (addrOf d 8) n, .eccUncorrected)])

/-- Exact comparison: asked for, or automatic with no load since OPEN or an equal die count (R366). -/
def replayExact (P : Polder) (dies : Nat) (mode : Nat) : Bool :=
  mode == 1 || (mode == 0 && (!P.loaded || P.origin == some dies))

/-- A replayed or recorded value as (hi, lo). -/
def replayValue (s : State) (d : List Byte) (o : Nat) : Word × Word :=
  (BitVec.ofNat 32 (memNat s (addrOf d o) 4), if replaySize d = 8 then BitVec.ofNat 32 (memNat s (addrOf d o + 4) 4) else 0)

/-- The value compared: hi + lo of a pair, or the value itself. -/
def replayNumber (d : List Byte) (x : Word × Word) : FVal := f32dec (if replaySize d = 8 then f32add x.1 x.2 else x.1)

/-- tol × max(|b|, 2^-126). -/
def replayLimit (d : List Byte) (b : FVal) : FVal :=
  let tol := wordAtOff d 0x18
  let t := if isZeroWord tol then FVal.fin false 1 (-8) else f32dec tol
  let m := FVal.fin false 1 (-126)
  t.mul (if FVal.lt m b.abs then b.abs else m)

/-- The comparison: match, |a − b| and the limit as result words; a difference or limit that a value without a finite
magnitude leaves unstated is free. -/
def replayJudge (draw : Nat) (exact : Bool) (d : List Byte) (x y : Word × Word) : Bool × Word × Word :=
  let a := replayNumber d x
  let b := replayNumber d y
  let fin := a.isFinite && b.isFinite
  let diff := (a.sub b).abs
  let lim := replayLimit d b
  (if exact then x == y else fin && FVal.le diff lim, if fin then f32enc diff else freeWord draw 0,
   if exact then 0 else if b.isFinite then f32enc lim else freeWord draw 1)

def doReplayCheck (p : Fin 4) (q : Fin 16) (e : Entry) (s : State) : State :=
  runEntry s p q e 0x0E (fun s => replayChecks s p e) fun t =>
    let d := memBytes s e.desc.toNat 64
    let P := polder t p
    let exact := replayExact P (dieCount t p) (fld d 0x11 1)
    let x := replayValue t d 0
    let y := replayValue t d 8
    let j := replayJudge t.draws exact d x y
    let res := addrOf d 0x20
    let r := leBytes 1 (if exact then 1 else 2) ++ leBytes 1 j.1.toNat ++ zeros 2 ++ leBytes 4 P.step.toNat ++
      leBytes 4 x.1.toNat ++ leBytes 4 x.2.toNat ++ leBytes 4 y.1.toNat ++ leBytes 4 y.2.toNat ++ leBytes 4 j.2.1.toNat ++
      leBytes 4 j.2.2.toNat
    let t := noteSpans t p e.ctrSet [(addrOf d 0, replaySize d), (addrOf d 8, replaySize d)]
    let t := nextDraw (setAreas t p q e.seq (reportArea res 32))
    let w := if res = 0 then (t, true) else unitWrite t p e.ctrSet res r
    endCmd w.1 p q e.seq (if !w.2 then .eccUncorrected else if j.1 then .ok else .replayMismatch)

def execReplayCheck (p : Fin 4) (q : Fin 16) (e : Entry) (s : State) : Host.Outcome State Fault Refusal :=
  .next (doReplayCheck p q e s)

end Sys2Proof.Machine
end

