-- ==== Sys2Proof/Machine/Dump.lean ====
section
/-! DEFINITION. The bytes of a hang dump (R430). The spec lists what an entry holds and gives no places: those are the model's
(log 23). -/

namespace Sys2Proof.Machine

/-- Bytes that the spec names and no State holds: free (log 23). -/
def freeBytes (draw base n : Nat) : List Byte := (List.range n).map fun i => Config.freeByte draw (base + i)

/-! ## Queues and commands -/

/-- 64 bytes per existing queue: ID, QSTATE, entries taken, SQ_TAIL, QFENCE, completions posted, watchdog remaining. -/
def dumpQueue (s : State) (p : Fin 4) (q : Fin 16) : List Byte :=
  let Q := queue s p q
  padTo 64 (leBytes 4 q.val ++ leBytes 4 (qstateReg Q).toNat ++ leBytes 4 Q.taken.toNat ++ leBytes 4 Q.tail.toNat ++
    leBytes 4 Q.fence.toNat ++ leBytes 4 Q.posted ++ freeBytes s.draws (64 * q.val) 4)

def dumpQueues (s : State) (p : Fin 4) : List Byte :=
  (List.finRange 16).flatMap fun q => if (queue s p q).st = .absent then [] else dumpQueue s p q

def entryBytes (e : Entry) : List Byte :=
  [e.opcode, e.flags] ++ leBytes 2 e.comp.toNat ++ leBytes 4 e.seq.toNat ++ leBytes 4 e.reqId.toNat ++
  leBytes 2 e.ctrSet.toNat ++ leBytes 2 e.gaugeId.toNat ++ leBytes 8 e.desc.toNat ++ leBytes 2 e.sigEv.toNat ++
  leBytes 2 e.waitEv.toNat ++ leBytes 4 e.sigVal.toNat ++ leBytes 4 e.waitVal.toNat ++ leBytes 4 e.rsvd.toNat ++
  inlBytes e

/-- Work items of a command that have been dealt to engines, and those done (R118, R195). -/
def itemsDealt (c : Cmd) : Nat :=
  match c.body with
  | .mm r => r.items - (r.lanes.map fun x => x.2.stop - x.2.next).sum
  | .update r => r.committed.length + r.skipped.length + r.work.length
  | _ => 0

def itemsDone (c : Cmd) : Nat :=
  match c.body with
  | .mm r => r.finished.length
  | .update r => r.committed.length + r.skipped.length
  | _ => 0

/-- Pack slots and VEs that a command holds. -/
def unitsOf (s : State) (p : Fin 4) (c : Cmd) : Nat :=
  ((clustersOf s p).map fun k => ((packsHeld (cluster s k) ++ veHeld (ve s k)).filter (isOf p c.q c.e.seq)).length).sum

/-- 512 bytes per command in flight: ring entry, descriptor as read, items dealt, items done, units held. -/
def dumpCommands (s : State) (p : Fin 4) : List Byte :=
  (polder s p).inflight.flatMap fun c =>
    padTo 512 (entryBytes c.e ++ padTo 256 c.desc ++ leBytes 4 (itemsDealt c) ++ leBytes 4 (itemsDone c) ++
      leBytes 4 (unitsOf s p c))

/-! ## Clusters -/

/-- Pack slots: number, size, queue and sequence of the command that holds each. -/
def dumpSlots (C : Cluster) : List Byte :=
  padTo 128 (C.slots.flatMap fun x => leBytes 4 x.1 ++ leBytes 4 x.2.1 ++ leBytes 4 x.2.2.2.1.val ++ leBytes 4 x.2.2.2.2.toNat)

/-- What the cluster holds of MM commands. -/
def lanesOn (s : State) (p : Fin 4) (c : Fin 256) : List MmLane :=
  (polder s p).inflight.flatMap fun x => match x.body with
    | .mm r => (r.lanes.filter fun y => mmCluster s p r.d y.1 == c).map (·.2)
    | _ => []

/-- Deque items, then for each command the sub-tile in progress. -/
def dumpLanes (ls : List MmLane) : List Byte :=
  let xs := ls.flatMap (·.deque)
  leBytes 4 xs.length ++ padTo 252 ((xs.take 63).flatMap (leBytes 4)) ++
  padTo 32 ((ls.take 8).flatMap fun l => leBytes 4 l.sub)

def veModeCode : VeMode → Nat
  | .idle => 0
  | .running => 1
  | .atBarrier => 2
  | .ended => 3
  | .stopping => 4

/-- VE PC, lc0-lc1, barrier count, exception state, s0-s15, a0-a7, p0-p7. -/
def dumpVe (V : Ve) : List Byte :=
  leBytes 4 V.pc.toNat ++ (V.lc.toList.flatMap fun x => leBytes 4 x.toNat) ++ leBytes 4 V.bars ++ leBytes 4 (veModeCode V.mode) ++
  (V.sreg.toList.flatMap fun x => leBytes 4 x.toNat) ++ (V.a.toList.flatMap fun x => leBytes 8 x.toNat) ++
  (V.p.toList.flatMap fun x => leBytes 8 x.toNat)

/-- 1 KiB per cluster; the K-group in progress and the stall causes are free. -/
def dumpCluster (s : State) (p : Fin 4) (c : Fin 256) : List Byte :=
  padTo 1024 (dumpSlots (cluster s c) ++ dumpLanes (lanesOn s p c) ++ freeBytes s.draws (2 ^ 20 + 64 * c.val) 36 ++ dumpVe (ve s c))

/-- What bytes of storage read as: those listed, and the free values of the stale parts. -/
def storeBytes (t : Tab Byte) (stale : List (Nat × Nat × Nat)) (n : Nat) : List Byte := (List.range n).map (staleByte t stale)

/-- An accumulator: the number a, the exponent ea, the sticky flags and the flush count. -/
def accBytes (a : Acc) : List Byte :=
  leBytes 8 (BitVec.ofInt 64 a.a).toNat ++ leBytes 2 (BitVec.ofInt 16 a.ea).toNat ++
  leBytes 2 (a.nan.toNat + 2 * a.pinf.toNat + 4 * a.ninf.toNat) ++ leBytes 4 a.accf

/-- Cluster buffer, VE store, v0-v31, accumulator banks. -/
def dumpTensors (C : Cluster) : List Byte :=
  storeBytes C.buffer C.staged 0x180000 ++ storeBytes C.ve.store C.ve.stale 0x40000 ++
  (C.ve.v.toList.flatMap fun v => v.toList.flatMap fun x => leBytes 4 x.toNat) ++
  (List.range (2 * 66 * 64)).flatMap fun k => accBytes (tabGet (Acc.zero 0) C.accs k)

/-! ## Sluices and levee -/

/-- The sluices of a polder: 16 of each C-die and those of the I-die, by the numbers of their check-value units (R434). -/
def sluiceUnits (s : State) (p : Fin 4) : List Nat :=
  ((diesOf s p).flatMap fun d => (List.range 16).map fun n => 16 * d.val + n) ++ (List.range 8).map (64 + ·)

/-- 128 bytes per sluice: the state of its check-value unit; between two commands of the block a sluice has no line in
progress, and how far a command on a peer has come is free. -/
def dumpSluice (s : State) (u : Nat) : List Byte :=
  padTo 128 (freeBytes s.draws (2 ^ 21 + 32 * u) 24 ++ leBytes 8 (tabGet 0 s.sluiceCvu u).toNat)

/-- Barriers and exchanges that wait: queue, sequence, ID or tag, attempt. -/
def dumpWaiting (c : Cmd) : List Byte :=
  let row (x a : Nat) := leBytes 4 c.q.val ++ leBytes 4 c.e.seq.toNat ++ leBytes 4 x ++ leBytes 4 a
  match c.body with
  | .barrier r => row r.id.toNat 0
  | .reduce r => row (fld r.desc 0x18 4) r.attempt
  | _ => []

/-- 1 KiB: what waits on the levee and peer ports, and the tokens outstanding of each port. -/
def dumpLevee (s : State) (p : Fin 4) : List Byte :=
  ((padTo 992 ((polder s p).inflight.flatMap dumpWaiting)).take 992) ++
  padTo 32 (s.ports.toList.flatMap fun P => leBytes 4 (64 - P.credits.get 0 + P.tokWait.length))

/-! ## The whole dump -/

/-- A counter set as R433 shows one: 128 bytes, its energy to follow. -/
def counterEntry (s : State) (p : Fin 4) (k : Nat) : List Byte := leBytes 2 k ++ zeros 6 ++ shownSet s p k ++ zeros 8

def dumpSets : List Nat := List.range 64 ++ [polderSet]

/-- The sections of a dump with their entry counts, in type order. -/
def dumpSections (s : State) (p : Fin 4) : List (Nat × Nat × List Byte) :=
  let cs := clustersOf s p
  let qs := dumpQueues s p
  let us := sluiceUnits s p
  let tensors : List (Nat × Nat × List Byte) :=
    if debugActive s then [(7, cs.length, cs.flatMap fun c => dumpTensors (cluster s c))] else []
  [(1, qs.length / 64, qs), (2, (polder s p).inflight.length, dumpCommands s p), (3, cs.length, cs.flatMap (dumpCluster s p)),
   (4, us.length, us.flatMap (dumpSluice s)), (5, 1, dumpLevee s p), (6, dumpSets.length, dumpSets.flatMap (counterEntry s p))] ++ tensors

/-- Directory entries and section bytes, from a byte offset. -/
def dumpLayout : Nat → List (Nat × Nat × List Byte) → List Byte × List Byte
  | _, [] => ([], [])
  | o, x :: xs =>
    let r := dumpLayout (o + x.2.2.length) xs
    (leBytes 2 x.1 ++ zeros 2 ++ leBytes 4 o ++ leBytes 4 x.2.2.length ++ leBytes 4 x.2.1 ++ r.1, x.2.2 ++ r.2)

def dieMask (s : State) (p : Fin 4) : Nat := ((diesOf s p).map fun d => 2 ^ d.val).sum

/-- The whole dump: the header of 256 bytes, then the sections. -/
def dumpBytes (s : State) (p : Fin 4) (reason qb : Nat) (n : Word) (repair : Nat) : List Byte :=
  let secs := dumpSections s p
  let lay := dumpLayout 256 secs
  leBytes 4 0x444D5031 ++ leBytes 2 1 ++ leBytes 2 (if debugActive s then 0 else 1) ++ leBytes 8 (256 + lay.2.length) ++
  leBytes 1 reason ++ leBytes 1 qb ++ leBytes 2 0 ++ leBytes 4 n.toNat ++ leBytes 8 (leveeTime s).toNat ++
  leBytes 4 (polder s p).step.toNat ++ leBytes 4 repair ++ leBytes 1 s.fuses.lifecycle ++ leBytes 1 (dieMask s p) ++
  leBytes 2 secs.length ++ zeros 20 ++ padTo 192 lay.1 ++ lay.2

/-- The snapshots in a dump whose energy is to follow, with its place; a redacted dump shows none (R416, R418). -/
def dumpSnaps (s : State) (p : Fin 4) : List (Nat × Snap) :=
  if debugActive s then
    let before := (((dumpSections s p).take 5).map (·.2.2.length)).sum
    dumpSets.mapIdx fun i k => (256 + before + 128 * i + 0x70, snapNow s p k)
  else []

end Sys2Proof.Machine
end

