-- ==== Sys2Proof/Machine/Hang.lean ====
section
/-! DEFINITION. Queue watchdogs, hangs and dumps: WATCHDOG_EXPIRY and HANG_DECLARED (R428), the capture (R429, R430)
and DUMP_READ (R431, R433). -/

namespace Sys2Proof.Machine

/-! ## Captures (R429) -/

/-- A later trigger while a dump is held: it adds one to the header's count and captures nothing. -/
def laterTrigger (s : State) (p : Fin 4) (d : Dump) : State :=
  let s := regionWrite s p (dumpBase (firstDie s p) + 0x12) (leBytes 2 (d.later + 1))
  modPolder s p fun P => { P with dump := some { d with later := d.later + 1 } }

/-- Write the dump (its energies follow: R416), the hang-dump record and EV_HANG_DUMP. -/
def writeDump (s : State) (p : Fin 4) (reason qb : Nat) (n : Word) (repair : Nat) : State :=
  let bs := dumpBytes s p reason qb n repair
  let snaps := dumpSnaps s p
  let s := nextDraw (regionWrite s p (dumpBase (firstDie s p)) bs)
  let s := modPolder s p fun P => { P with dump := some { length := bs.length, later := 0, snaps := snaps } }
  let s := traceRecord s p 6 qb false 0 n 0 0 (leBytes 1 reason ++ zeros 3 ++ leBytes 4 repair)
  polderEvent s p 0x0503 (leBytes 1 reason ++ leBytes 1 qb ++ zeros 2 ++ leBytes 4 n.toNat ++
    leBytes 4 ((bs.length + 1023) / 1024) ++ leBytes 4 repair)

/-- The repair that a capture belongs to: the one of a discard that has begun already, else the next (R337, R429). -/
def captureRepair (s : State) (p : Fin 4) : Nat :=
  match (polder s p).discard with
  | some (_, id) => id
  | none => nextRepair s

/-- Freeze, capture and discard a polder; the live counters of the dump carry the freeze edge. A polder whose discard has
begun is frozen already, and its repair takes the capture in. -/
def capture (s : State) (p : Fin 4) (reason qb : Nat) (n : Word) : State :=
  let s := match (polder s p).dump with
    | some d => laterTrigger s p d
    | none => writeDump (takeSnap s p 1) p reason qb n (captureRepair s p)
  faultC2 s [p] (faultInfo 0x0E 0 (firstDie s p).val 0)

/-! ## Watchdogs (R428) -/

/-- A command that the watchdog of its queue times, until its completion is posted: not EVENT_WAIT (0x11), BARRIER (0x12) or
REDUCE (0x07); STEP (0x0B), STATE_SAVE (0x0C) and STATE_LOAD (0x0D) only once their fence is reached and they act, a STEP or
STATE_LOAD not once its final writes have begun. -/
def watched (P : Polder) (c : Cmd) : Bool :=
  match c.body with
  | .wait _ _ | .barrier _ | .reduce _ => false
  | .step _ | .load _ _ => c.res.isNone && (atFence P).isSome
  | .save _ _ => (atFence P).isSome
  | _ => !([0x07, 0x0B, 0x0C, 0x0D, 0x11, 0x12] : List Byte).contains c.e.opcode

/-- The Keeper stops the command's work. -/
def doWatchdogExpiry (p : Fin 4) (q : Fin 16) (n : Word) (s : State) : State :=
  if !isRunning s p then s else
  match cmdAt s p q n with
  | none => s
  | some c => if watched (polder s p) c then modCmd s p q n fun c => { c with expired := true } else s

def execWatchdogExpiry (p : Fin 4) (q : Fin 16) (n : Word) (s : State) : Host.Outcome State Fault Refusal :=
  .next (doWatchdogExpiry p q n s)

/-- The units released a stopped command: it fails with TIMEOUT, an UPDATE as R455 states, a VK with its report. -/
def timeOut (s : State) (p : Fin 4) (c : Cmd) : State :=
  let s := modCmd s p c.q c.e.seq fun c => { c with expired := false }
  match c.body with
  | .update r =>
    if r.work.isEmpty then failUpdate s p c.q c.e.seq .timeout r c.step
    else failCopy s p c.q c.e.seq r c.step 0x0B (stopReport s p c.q c.e.seq 0x0B)
  | .vk r => failVk s p c.q c.e.seq r 0x0B 0xFFFF (stopReport s p c.q c.e.seq 0x0B) []
  | _ => failCmd s p c.q c.e.seq .timeout

def doHangDeclared (p : Fin 4) (q : Fin 16) (n : Word) (freed : Bool) (s : State) : State :=
  if !isRunning s p then s else
  match cmdAt s p q n with
  | none => s
  | some c =>
    if !c.expired then s
    else if freed then timeOut s p c else capture s p 0 q.val n

def execHangDeclared (p : Fin 4) (q : Fin 16) (n : Word) (freed : Bool) (s : State) :
    Host.Outcome State Fault Refusal := .next (doHangDeclared p q n freed s)

/-! ## DUMP_READ (R431) -/

/-- Reserved bytes, and the fields that operation uses nothing of are ignored (log 14). -/
def dumpRsvd (b : List Byte) : Bool := zeroAt b 1 7 && zeroAt b 0x1C 4

def serveDump (s : State) (p : Fin 4) (op : Nat) (act : State → List Byte → Answer) : State :=
  serve s (vf p) 0x10B 32 (opIs op) fun s b => if dumpRsvd b then act s b else refuse s .descInvalid

def doDumpReadStatus (p : Fin 4) (s : State) : State :=
  serveDump s p 0 fun s _ =>
    if (polder s p).dump.isNone then accept s (zeros 64) else
    match memRead s (dumpBase (firstDie s p)) 64 with
    | some bs => accept (touch s p (dumpBase (firstDie s p)) 64) bs
    | none => refuse s .eccUncorrected

def execDumpReadStatus (p : Fin 4) (s : State) : Host.Outcome State Fault Refusal := .next (doDumpReadStatus p s)

def stateIs (s : State) (p : Fin 4) (sts : List PState) : Bool := sts.contains (polder s p).st

/-- The copy of a dump range, in the user range of R216 (the S-slices are none of it). -/
def userRange (s : State) (p : Fin 4) (a n : Nat) : Bool := decide (2 ^ 40 ≤ a) && accessOk s p true a n

def dumpCopy (s : State) (p : Fin 4) (b : List Byte) : Answer :=
  let off := fld b 8 8
  let dst := fld b 0x10 8
  let n := fld b 0x18 4
  match (polder s p).dump with
  | none => refuse s .descInvalid
  | some d =>
    if dst % 64 ≠ 0 ∨ 2 ^ 48 ≤ dst ∨ 2 ^ 26 < n ∨ d.length < off + n then refuse s .descInvalid
    else if !userRange s p dst n then refuse s .accessDenied
    else
      let src := dumpBase (firstDie s p) + off
      match memRead s src n with
      | none => refuse (touch s p src n) .eccUncorrected
      | some bs =>
        let w := memWrite s dst bs
        (touch (touch w.1 p src n) p dst n, if w.2 then .ok else .eccUncorrected, [])

/-- Order of checks: the state the operation is allowed in, then the payload (R295, R431). -/
def doDumpReadCopy (p : Fin 4) (s : State) : State :=
  serve s (vf p) 0x10B 32 (opIs 1) fun s b =>
    if !stateIs s p [.opened, .faulted] then refuse s .accessDenied
    else if !dumpRsvd b then refuse s .descInvalid else dumpCopy s p b

def execDumpReadCopy (p : Fin 4) (s : State) : Host.Outcome State Fault Refusal := .next (doDumpReadCopy p s)

/-- A host capture; a polder whose discard has begun is frozen already. -/
def doDumpReadCapture (p : Fin 4) (s : State) : State :=
  serve s (vf p) 0x10B 32 (opIs 2) fun s b =>
    if !stateIs s p [.opened] then refuse s .accessDenied
    else if !dumpRsvd b then refuse s .descInvalid
    else accept (capture s p 1 0xFF 0)

def execDumpReadCapture (p : Fin 4) (s : State) : Host.Outcome State Fault Refusal := .next (doDumpReadCapture p s)

def doDumpReadRelease (p : Fin 4) (s : State) : State :=
  serveDump s p 3 fun s _ => accept (modPolder s p fun P => { P with dump := none })

def execDumpReadRelease (p : Fin 4) (s : State) : Host.Outcome State Fault Refusal := .next (doDumpReadRelease p s)

/-- First set and count of a live read. -/
def liveRange (first n : Nat) : Bool :=
  decide (1 ≤ n) && decide (n ≤ 28) && ((first == polderSet && n == 1) || decide (first + n ≤ 64))

/-- The payload of a live read: the head and the entries (R433). -/
def liveBytes (s : State) (p : Fin 4) (sets : List Nat) : List Byte :=
  leBytes 8 (s.counters.get p).gen.toNat ++ leBytes 8 (leveeTime s).toNat ++ sets.flatMap (counterEntry s p)

/-- In a debug state the response waits for the energies up to the edge (R416); else they read zero (R418). -/
def doDumpReadLiveCounters (p : Fin 4) (s : State) : State :=
  if (func s (vf p)).live.isSome then s else
  match requestOf s (vf p) 0x10B with
  | none => s
  | some bs =>
    let b := reqPayload bs
    let first := fld b 8 8
    if !opIs 4 (padTo 32 b) then s
    else if b.length < 32 ∨ !dumpRsvd b ∨ !liveRange first (fld b 0x18 4) then respond s (vf p) bs .descInvalid []
    else
      let s := takeSnap s p 2
      let sets := (List.range (fld b 0x18 4)).map (first + ·)
      let pay := liveBytes s p sets
      if debugActive s then
        modFunc s (vf p) fun F => { F with live := some { bytes := pay, snaps := sets.map (snapNow s p) } }
      else respond s (vf p) bs .ok pay

def execDumpReadLiveCounters (p : Fin 4) (s : State) : Host.Outcome State Fault Refusal :=
  .next (doDumpReadLiveCounters p s)

end Sys2Proof.Machine
end

