-- ==== Sys2Proof/Machine/Identity.lean ====
section
/-! DEFINITION. The module's key pairs (R378, R380, R402): an HMAC_DRBG with SHA-256 (NIST SP 800-90A) over the fused
seed feeds the probable-prime generation of FIPS 186-5, A.1.3. -/

namespace Sys2Proof.Machine

/-! ## HMAC_DRBG -/

def ascii (t : String) : List Byte := t.toList.map fun ch => BitVec.ofNat 8 ch.toNat

/-- HMAC-SHA256 under a key of 32 bytes. -/
def hmac (key msg : List Byte) : List Byte :=
  let k := padTo 64 key
  sha256 (k.map (· ^^^ 0x5C) ++ sha256 (k.map (· ^^^ 0x36) ++ msg))

structure Drbg where
  (key v : List Byte)

/-- The update function; generating passes no further input. -/
def Drbg.update (g : Drbg) (input : List Byte) : Drbg :=
  let k := hmac g.key (g.v ++ 0x00 :: input)
  let v := hmac k g.v
  if input.isEmpty then ⟨k, v⟩ else
  let k := hmac k (v ++ 0x01 :: input)
  ⟨k, hmac k v⟩

def Drbg.start (entropy label : List Byte) : Drbg :=
  Drbg.update ⟨zeros 32, List.replicate 32 0x01⟩ (entropy ++ label)

/-- The next n blocks of output, with the last value of V. -/
def Drbg.blocks : Nat → Drbg → List Byte × Drbg
  | 0, g => ([], g)
  | n + 1, g =>
    let v := hmac g.key g.v
    let r := Drbg.blocks n ⟨g.key, v⟩
    (v ++ r.1, r.2)

/-- The next string of 1,536 bits as a number, its first bit the most significant. -/
def Drbg.next (g : Drbg) : Nat × Drbg :=
  let r := Drbg.blocks 6 g
  (beVal r.1, r.2.update [])

/-! ## Probable primes (FIPS 186-5, A.1.3 and B.3.1)

Four rounds of Miller-Rabin with bases from the same generator: log 8. -/

/-- w = 2^a × m with m odd. -/
def oddPart : Nat → Nat → Nat × Nat
  | 0, w => (0, w)
  | k + 1, w => if w % 2 = 0 then let r := oddPart k (w / 2); (r.1 + 1, r.2) else (0, w)

/-- Does the square of z, squared up to a times, reach w − 1? -/
def reachesMinusOne : Nat → Nat → Nat → Bool
  | 0, _, _ => false
  | a + 1, w, z => z == w - 1 || reachesMinusOne a w (z * z % w)

/-- One round: w passes for base b. -/
def millerRabin (w b : Nat) : Bool :=
  let x := oddPart 1536 (w - 1)
  let z := powMod 1536 b x.2 w
  z == 1 || reachesMinusOne x.1 w z

/-- The next base between 2 and w − 2. -/
def nextBase : Nat → Nat → Drbg → Nat × Drbg
  | 0, _, g => (2, g)
  | k + 1, w, g =>
    let r := g.next
    if 1 < r.1 ∧ r.1 < w - 1 then r else nextBase k w r.2

def probablePrime : Nat → Nat → Drbg → Bool × Drbg
  | 0, _, g => (true, g)
  | k + 1, w, g =>
    let b := nextBase 64 w g
    if millerRabin w b.1 then probablePrime k w b.2 else (false, b.2)

/-- Steps 4 and 5 of A.1.3: candidates of 1,536 bits are made odd; those below √2 × 2^1535, or within 2^1436 of the other
prime, are passed over uncounted; of the rest at most `tries` are tested. -/
def findPrime (other : Option Nat) : Nat → Nat → Drbg → Option (Nat × Drbg)
  | 0, _, _ => none
  | k + 1, tries, g =>
    let r := g.next
    let p := if r.1 % 2 = 1 then r.1 else r.1 + 1
    let near := match other with
      | some q => decide (max p q - min p q ≤ 1 <<< 1436)
      | none => false
    if decide (p * p < 1 <<< 3071) || near then findPrime other k tries r.2 else
    if tries = 0 then none else
    let t := if Nat.gcd (p - 1) 65537 = 1 then probablePrime 4 p r.2 else (false, r.2)
    if t.1 then some (p, t.2) else findPrime other k (tries - 1) t.2

/-! ## RSA key pairs -/

structure RsaKey where
  (n d : Nat)

/-- The private exponent: the inverse of 65,537 modulo lcm(p − 1, q − 1). -/
def privateExp (l : Nat) : Nat :=
  ((List.range 65537).findSome? fun k => if (1 + k * l) % 65537 = 0 then some ((1 + k * l) / 65537) else none).getD 0

/-- The key pair of two primes. -/
def keyOf (p q : Nat) : RsaKey := { n := p * q, d := privateExp (Nat.lcm (p - 1) (q - 1)) }

/-- The key pair that a label derives from the seed (R380). A generation that fails leaves what the spec does not say: a
free pair (log 8). -/
def deriveKey (seed : BitVec 256) (label : List Byte) : RsaKey :=
  match findPrime none 65536 15360 (Drbg.start (leBytes 32 seed.toNat) label) with
  | none => { n := Config.failedKey.1, d := Config.failedKey.2 }
  | some (p, g) =>
    match findPrime (some p) 65536 30720 g with
    | none => { n := Config.failedKey.1, d := Config.failedKey.2 }
    | some (q, _) => keyOf p q

/-- The identity label of a lifecycle state (R378). -/
def idLabel (lifecycle : Nat) : List Byte :=
  match lifecycle with
  | 1 => ascii "EOHIPER-ID-MFG"
  | 2 => ascii "EOHIPER-ID-PROD"
  | _ => ascii "EOHIPER-ID-DBG"

def identityKey (F : Fuses) : RsaKey := deriveKey F.seed (idLabel F.lifecycle)
def meterPair (F : Fuses) : RsaKey := deriveKey F.seed (idLabel F.lifecycle ++ ascii "-METER")

end Sys2Proof.Machine
end

