-- ==== Sys2Proof/Machine/Power.lean ====
section
/-! DEFINITION. The power governor and its events (R25, R405-R408), the emergency brake (R445), and the thermal
levels of dies and sites (R234, R409, R410, R446). -/

namespace Sys2Proof.Machine

def setPower (s : State) (f : Power → Power) : State := { s with power := f s.power }

/-! ## What a C-die runs at -/

/-- A site of the die at level 2 of R409 or above. -/
def siteHot (s : State) (d : Fin 4) : Bool :=
  (List.finRange 8).any fun i => decide (4 ≤ (site s (fin32 (8 * d.val + i.val))).level)

/-- The ACLK in MHz that the thermal levels leave a C-die (R409). -/
def thermalAclk (s : State) (d : Fin 4) : Nat :=
  if decide (2 ≤ s.power.dieLevel.get d) || siteHot s d then 1800 else s.power.ceil.get d

/-- ACLK of a C-die in MHz (R406, R409, R445). -/
def dieAclk (s : State) (d : Fin 4) : Nat :=
  if s.pwrbrk then 1800
  else if s.marginDies.get d then (if s.power.aclk = 3600 ∧ s.power.duty = 8 then thermalAclk s d else 1800)
  else if dieIdle s d then 1800
  else min s.power.aclk (thermalAclk s d)

/-! ## EV_POWER_CAP (R408) -/

def within (now : DWord) (last : Option DWord) (ns : DWord) : Bool :=
  match last with
  | some t => decide (now - t < ns)
  | none => false

/-- Raise EV_POWER_CAP of a kind, at most once per 100 ms for each kind. -/
def capEvent (s : State) (kind : Fin 4) : State :=
  let now := s.localCount
  if within now (s.power.eventTimes.get kind) 100000000 then s else
  let s := setPower s fun P => { P with eventTimes := P.eventTimes.set kind (some now) }
  moduleEvent s 0x0402 (leBytes 1 kind.val ++ leBytes 1 s.power.duty ++ leBytes 2 s.power.aclk ++ leBytes 2 s.power.cap)

/-- ACLK and duty after a decision, with the events of what they reached. -/
def applyPower (s : State) (aclk duty : Nat) : State :=
  let P := s.power
  let now := s.localCount
  let full := aclk == 3600 && duty == 8
  let s := settleLimits (setPower s fun P =>
    { P with aclk := aclk, duty := duty, lastStep := if aclk = P.aclk then P.lastStep else now })
  let s := if P.aclk = 3600 ∧ aclk < 3600 then capEvent s 0 else s
  let s := if 1800 < P.aclk ∧ aclk = 1800 then capEvent s 1 else s
  let s := if P.duty = 8 ∧ duty < 8 then capEvent s 2 else s
  if full && (P.aclk != 3600 || P.duty != 8) then capEvent s 3 else s

/-! ## The governor (R406) -/

/-- Average over the newest n samples: their sum and how many there are. -/
def average (P : Power) (n : Nat) : Nat × Nat := ((P.inputs.take n).sum, (P.inputs.take n).length)

/-- Is the average above (below) a percentage of the limit? -/
def above (P : Power) (n percent : Nat) : Bool := let a := average P n; decide (P.cap * percent * a.2 < 100 * a.1)
def below (P : Power) (n percent : Nat) : Bool := let a := average P n; decide (100 * a.1 < P.cap * percent * a.2)

/-- P10 averages 1,000 samples and P1000 averages 100,000. -/
def governAclk (s : State) : Nat :=
  let P := s.power
  if above P 1000 100 || above P 100000 99 then max (P.aclk - 100) 1800
  else if below P 1000 94 && below P 100000 97 && decide (1000000 ≤ s.localCount - P.lastStep) then min (P.aclk + 100) 3600
  else P.aclk

def governDuty (s : State) (aclk : Nat) : Nat :=
  let P := s.power
  if aclk = 1800 ∧ above P 1000 100 then max (P.duty - 1) 4
  else if below P 1000 94 then min (P.duty + 1) 8 else P.duty

/-- While PWRBRK# is low the governor decides nothing. -/
def doGovernorEval (s : State) : State :=
  if s.pwrbrk then s else applyPower s (governAclk s) (governDuty s (governAclk s))

def execGovernorEval (s : State) : Host.Outcome State Fault Refusal := .next (doGovernorEval s)

/-- An input sample (R407): above 3,300 W every ACLK is stretched and the governor takes two steps down at once. -/
def inputSample (s : State) (w : Nat) : State :=
  let s := setPower s fun P => { P with inputs := (w :: P.inputs).take 100000, stretch := decide (3300 < w) }
  if 3300 < w ∧ !s.pwrbrk then applyPower s (max (s.power.aclk - 200) 1800) s.power.duty else s

/-! ## PWRBRK# (R445) -/

/-- Before step 1 under PERST#, which governs, the power state of bring-up obeys the pin; else the clocks are forced. -/
def doPwrbrkAssert (s : State) : State :=
  let t := { s with pwrbrk := true }
  if s.pwrbrk ∨ !s.modPwrgd then t
  else if s.boot = .fuses ∨ s.boot = .thermalHold then settleLimits { t with power := startPower t }
  else applyPower t 1800 4

def execPwrbrkAssert (s : State) : Host.Outcome State Fault Refusal := .next (doPwrbrkAssert s)

/-- The governor resumes from 1.8 GHz at duty 4. -/
def doPwrbrkDeassert (s : State) : State := { s with pwrbrk := false }

def execPwrbrkDeassert (s : State) : Host.Outcome State Fault Refusal := .next (doPwrbrkDeassert s)

/-! ## POWER_CAP_SET (R405) -/

def doPowerCapSet (s : State) : State :=
  serve s 0 7 8 anyPayload fun s b =>
    let w := fld b 0 2
    if w < 1200 ∨ 2800 < w ∨ !zeroAt b 2 6 then refuse s .descInvalid
    else accept (setPower s fun P => { P with cap := w }) (leBytes 2 w ++ zeros 6)

def execPowerCapSet (s : State) : Host.Outcome State Fault Refusal := .next (doPowerCapSet s)

/-! ## Thermal levels (R409, R410); temperatures in units of 0.25 °C -/

/-- The level after a sample: a threshold is entered when exceeded, and left 3 °C below it. Thresholds ascend. -/
def levelAt (ts : List Int) (old : Nat) (t : Int) : Nat :=
  let up := (ts.filter fun x => decide (x < t)).length
  let stay := (ts.filter fun x => decide (x - 12 < t)).length
  max up (min old stay)

def dieThresholds : List Int := [400, 440, 480]
def iDieThresholds : List Int := [400, 432, 460]

/-- Raise EV_THERMAL for a part, at most once per 100 ms. -/
def thermEvent (s : State) (part index level : Nat) (t : Int) (aclk : Nat) : State :=
  let now := s.localCount
  let key := 256 * part + index
  if within now (tabGet none s.power.thermTimes key) 100000000 then s else
  let s := setPower s fun P => { P with thermTimes := tabSet none P.thermTimes key (some now) }
  moduleEvent s 0x0401 (leBytes 1 part ++ leBytes 1 index ++ leBytes 1 level ++ zeros 1 ++
    leBytes 2 (BitVec.ofInt 16 t).toNat ++ leBytes 2 aclk)

/-- Is an event due between two levels: entering 1 or 2, or leaving the last level above 0? -/
def thermDue (old new : Nat) : Bool := (decide (old < new) && decide (new ≤ 2)) || (decide (0 < old) && new == 0)

/-- The C-die and memory rails go off: clusters, S-slices and sites lose what they hold (R410). -/
def railsOff (s : State) : State :=
  setPower { s with mem := [], undef := [], watch := [], poison := [], pageErrs := [], clusters := Vector.replicate 256 Cluster.reset,
                    sites := s.sites.map fun S => { Site.reset with level := S.level, temp := S.temp } }
    fun P => { P with rails := false }

/-- A critical trip (R410, R446): THERMTRIP# goes low, the rails go off, a C4 fault. While PERST# is low bring-up is held at
step 1 then, and a hold that PERST# has begun goes on. -/
def trip (s : State) (die : Nat) : State :=
  if s.thermtrip then s else
  let t := railsOff (faultEarly (raiseAlert { s with thermtrip := true } 1) (faultInfo 0x0D 0 die 0))
  if s.perst ∨ s.boot = .thermalHold then { t with boot := .thermalHold } else t

/-- Is a level that has reached the critical one a trip? In a hold, which PERST# began while the level stood, only one that
is entered anew is. -/
def isTrip (s : State) (old new critical : Nat) : Bool :=
  decide (new = critical) && (decide (old < critical) || s.boot != .thermalHold)

/-- The alert cause of a level of 2 or above (R447). -/
def alertLevel (s : State) (level : Nat) : State := if 2 ≤ level then raiseAlert s 0 else s

/-- The ceiling of a die (R409): 100 MHz down per 100 µs above 100 °C, 100 MHz up per 1 ms below 97 °C. -/
def stepCeiling (s : State) (d : Fin 4) (t : Int) : State :=
  let P := s.power
  let since := s.localCount - P.ceilTime.get d
  let c := P.ceil.get d
  let c' := if 400 < t ∧ (100000 ≤ since ∨ c = 3600) then max (c - 100) 1800
            else if t < 388 ∧ 1000000 ≤ since then min (c + 100) 3600 else c
  if c' = c then s else setPower s fun P => { P with ceil := P.ceil.set d c', ceilTime := P.ceilTime.set d s.localCount }

def sampleDie (s : State) (d : Fin 4) (t : Int) : State :=
  let old := s.power.dieLevel.get d
  let new := levelAt dieThresholds old t
  let s := settleLimits (stepCeiling (setPower s fun P => { P with dieLevel := P.dieLevel.set d new }) d t)
  let s := if thermDue old new then thermEvent s 0 d.val new t (dieAclk s d) else s
  let s := alertLevel s new
  if isTrip s old new 3 then trip s d.val else s

def sampleIDie (s : State) (t : Int) : State :=
  let old := s.power.iLevel
  let new := levelAt iDieThresholds old t
  let s := setPower s fun P => ioLimits { P with iLevel := new }
  let s := if thermDue old new then thermEvent s 1 0 new t s.power.aclk else s
  let s := alertLevel s new
  if isTrip s old new 3 then trip s 4 else s

def doThermalSample (x : Temps) (s : State) : State :=
  if !s.modPwrgd then s else
  let s := setPower s fun P => { P with temps := x }
  leaveHold (sampleIDie (([0, 1, 2, 3] : List (Fin 4)).foldl (fun s d => sampleDie s d (x.cdies.getD d.val 0)) s) x.iDie)

def execThermalSample (x : Temps) (s : State) : Host.Outcome State Fault Refusal := .next (doThermalSample x s)

/-! ## Sites (R234, R409) -/

/-- Thresholds 85, 95, 100, 105 and 110 °C. -/
def siteThresholds : List Int := [340, 380, 400, 420, 440]

/-- The level of R409's table: 1 from 95 °C, 2 from 105 °C. -/
def shownLevel (l : Nat) : Nat := if l = 4 then 2 else if 2 ≤ l then 1 else 0

/-- One MR4 poll: the hottest die's temperature and the interval MR4 asks for, in eighths of the nominal. -/
def doMr4Poll (m : Fin 32) (temp : Int) (mr4 : Nat) (s : State) : State :=
  if !s.modPwrgd then s else
  let old := (site s m).level
  let new := levelAt siteThresholds old temp
  let s := settleLimits (modSite s m fun S =>
    { S with temp := temp, level := new, refresh := min mr4 (if 1 ≤ new then 4 else 8) })
  let d := fin4 (m.val / 8)
  let due := (decide (old < new) && decide (2 ≤ new) && decide (new ≤ 4)) || (decide (2 ≤ old) && decide (new ≤ 1))
  let s := if due then thermEvent s 2 m.val (shownLevel new) temp (dieAclk s d) else s
  let s := if 4 ≤ new then raiseAlert s 0 else s
  leaveHold (if isTrip s old new 5 then trip s d.val else s)

def execMr4Poll (m : Fin 32) (temp : Int) (mr4 : Nat) (s : State) : Host.Outcome State Fault Refusal :=
  .next (doMr4Poll m temp mr4 s)

end Sys2Proof.Machine
end

