-- ==== Sys2Proof/Machine/Meter.lean ====
section
/-! DEFINITION. The energy meter: samples and attribution (R389-R393), requests and groups (R394, R395), records,
chains and rings (R396-R400), batches and signatures (R401, R402), METER_CONFIG (R403) and METER_READ (R404).
Energies are in µJ. -/

namespace Sys2Proof.Machine

/-! ## Activity (R390, R391) -/

/-- The command of a polder that has a queue and sequence, in flight or gone since the last sample. -/
def whoAt (s : State) (p : Fin 4) (q : Fin 16) (n : Word) : Option Who :=
  match cmdAt s p q n with
  | some c => some (whoIs p c)
  | none => ((polder s p).recent.map (·.1)).findRev? fun x => x.q == q && x.n == n

def noWeight : Weight := ⟨0, 0, 0⟩

/-- The commands that held a unit in the slot, each for its cycles; an occupancy counts for the part of the slot that it
lasted (R391, R393). -/
def usersOf (s : State) (hs : List Held) (cycles : List Nat) : List UseBy :=
  let cyc (i : Nat) := cycles.getD i 1
  let total := ((List.range hs.length).map cyc).sum
  (hs.mapIdx fun i h => (whoAt s h.p h.q h.n).map fun w =>
    ({ who := w, cycles := cyc i, occ := h.occ * 1024 * cyc i / max 1 total } : UseBy)).reduceOption

/-- The units of a cluster that were held in the slot, in the order of their first holder: those given up, then those
held still. -/
def unitsHeld (C : Cluster) : List Held := C.gone ++ packsHeld C ++ veHeld C.ve

/-- The uses of a cluster in one slot: a pack slot of s cube-rows counts s/8, the VE 1 (R393); the table builder belongs to
the commands of the pack slot that it builds for. -/
def clusterUses (s : State) (c : Fin 256) (w : Weights) : List UnitUse :=
  let held := unitsHeld (cluster s c)
  let of (u : Option Nat) := held.filter fun h => h.unit == u
  let packs := ((held.filterMap (·.unit)).eraseDups).map fun u =>
    ({ users := usersOf s (of (some u)) (w.slotCycles.getD u []), w := w.slots.getD u noWeight } : UnitUse)
  let table : UnitUse :=
    { users := (usersOf s (of (some w.tableSlot)) (w.slotCycles.getD w.tableSlot [])).map fun x => { x with occ := 0 }, w := w.table }
  packs ++ [table, { users := usersOf s (of none) w.veCycles, w := w.ve }]

/-- One 1 µs estimate of a cluster. -/
def doActivityEstimate (c : Fin 256) (w : Weights) (s : State) : State :=
  let us := clusterUses s c w
  modCluster s c fun C => { C with weights := C.weights ++ [us], gone := [] }

def execActivityEstimate (c : Fin 256) (w : Weights) (s : State) : Host.Outcome State Fault Refusal :=
  .next (doActivityEstimate c w s)

/-! ## Attribution (R390-R393) -/

/-- Energy that goes to a polder's idle record, and how much of it is shared energy. -/
def addIdle (s : State) (p : Fin 4) (e shared : Nat) : State :=
  modPolder s p fun P => { P with idleEnergy := P.idleEnergy + e, idleShared := P.idleShared + shared, openEnergy := P.openEnergy + e }

def addModule (s : State) (e : Nat) : State := modChain s 4 fun C => { C with energy := C.energy + e }

/-- Has the command been discarded since the last sample? -/
def wasDiscarded (s : State) (w : Who) : Bool := (cmdAt s w.p w.q w.n).isNone && (polder s w.p).recent.contains (w, true)

/-- Give a command direct and shared energy: its counter set, itself while it is in flight, and its request, as discarded
energy too when it has been discarded (R392). A request that is gone leaves the energy to the idle record. -/
def giveEnergy (s : State) (w : Who) (direct shared : Nat) : State :=
  let disc := if wasDiscarded s w then direct + shared else 0
  let s := countAdd s w.p w.set 13 (direct + shared)
  let s := modCmd s w.p w.q w.n fun c => { c with energy := c.energy + direct, shared := c.shared + shared }
  match tabGet none (polder s w.p).reqs w.rid.toNat with
  | none => addIdle s w.p (direct + shared) shared
  | some _ => modPolder s w.p fun P => { P with
      openEnergy := P.openEnergy + direct + shared
      reqs := tabMod none P.reqs w.rid.toNat (Option.map fun (r : Req) =>
        { r with energy := r.energy + direct, shared := r.shared + shared, discarded := r.discarded + disc }) }

/-- Part i of ten of an energy; the ten parts sum to it exactly. -/
def tenth (e i : Nat) : Nat := e * (i + 1) / 10 - e * i / 10

/-- A share of e in proportion to a weight. -/
def share (e w total : Nat) : Nat := if total = 0 then 0 else e * w / total

/-- A unit's energy divided among the commands that held it, by their cycles (R391). -/
def divideUse (u : UnitUse) (e : Nat) : List (Who × Nat) :=
  let total := (u.users.map (·.cycles)).sum
  u.users.map fun x => (x.who, share e x.cycles total)

/-- The direct energy of the commands of a domain slot: logic, S-tier and D-tier parts each by its own weight. A unit that
no command held takes no part. -/
def directOf (arr stk mem : Nat) (us : List UnitUse) : List (Who × Nat) :=
  let us := us.filter fun u => !u.users.isEmpty
  let wa := (us.map (·.w.act)).sum
  let ws := (us.map (·.w.sBytes)).sum
  let wd := (us.map (·.w.dBytes)).sum
  us.flatMap fun u => divideUse u (share arr u.w.act wa + share stk u.w.sBytes ws + share mem u.w.dBytes wd)

def giveDirect (s : State) (xs : List (Who × Nat)) : State := xs.foldl (fun s x => giveEnergy s x.1 x.2 0) s

/-- Conversion losses go to each domain in proportion to its rail energy; what division leaves goes to the I-die. -/
def withLoss (x : RailSample) (rail : Nat) : Nat :=
  let total := x.array.sum + x.stack.sum + x.memory.sum + x.iDie
  rail + share (x.inputUJ - total) rail total

/-- Uses by sluices and ports in slot i on die d. -/
def ioUses (s : State) (x : RailSample) (d i : Nat) : List UnitUse :=
  (x.io.filter fun u => u.slot == i && u.die == d).map fun u =>
    { users := usersOf s [{ unit := none, occ := 8 * u.sluices, p := u.p, q := u.q, n := u.n }] [], w := u.w }

/-- Uses by the clusters of C-die d in slot i. -/
def dieUses (s : State) (d : Fin 4) (i : Nat) : List UnitUse :=
  (List.finRange 256).flatMap fun c => if onDie d c then (cluster s c).weights.getD i [] else []

/-- A C-die whose shared energy goes to the module chain: in no open polder, or under repair or margin test. -/
def moduleDie (s : State) (d : Fin 4) : Bool :=
  dieIdle s d || s.marginDies.get d || (match polderOfDie s d with | some p => isHandling s p | none => false)

/-- A repair runs on the I-die: the energy of its domain goes to the module chain (R393). -/
def iDieRepair (s : State) : Bool := s.reports.any fun r => r.active && decide (4 ≤ r.die)

def openPolders (s : State) : List (Fin 4) := ([0, 1, 2, 3] : List (Fin 4)).filter (isOpen s)

/-- A polder's shared energy of a slot: to its requests by occupancy; with no occupancy, and for what division
leaves, to the idle record (R393, step 4). -/
def giveShared (s : State) (p : Fin 4) (e : Nat) (us : List UnitUse) : State :=
  let mine := (us.flatMap (·.users)).filter fun u => u.who.p == p
  let total := (mine.map (·.occ)).sum
  let xs := mine.map fun u => (u.who, share e u.occ total)
  let s := xs.foldl (fun s x => giveEnergy s x.1 0 x.2) s
  let left := e - (xs.map (·.2)).sum
  addIdle s p left left

/-- One C-die in one slot: the direct energy given, and what is left as shared. -/
def dieSlot (s : State) (x : RailSample) (d : Fin 4) (i : Nat) (us : List UnitUse) : State × Nat :=
  let stkAll := withLoss x (x.stack.getD d.val 0)
  let memAll := withLoss x (x.memory.getD d.val 0)
  let arr := tenth (withLoss x (x.array.getD d.val 0)) i
  let stk := tenth (stkAll - x.stackIdle.getD d.val 0) i
  let mem := tenth (memAll - x.memIdle.getD d.val 0) i
  let idle := tenth (min stkAll (x.stackIdle.getD d.val 0)) i + tenth (min memAll (x.memIdle.getD d.val 0)) i
  let xs := directOf arr stk mem us
  (giveDirect s xs, arr + stk + mem + idle - (xs.map (·.2)).sum)

/-- The I-die's domain: the input energy less what the C-dies' domains have taken. -/
def iDieEnergy (x : RailSample) : Nat :=
  x.inputUJ - ((x.array.map (withLoss x)).sum + (x.stack.map (withLoss x)).sum + (x.memory.map (withLoss x)).sum)

/-- One 1 µs slot of a sample. -/
def sampleSlot (x : RailSample) (s : State) (i : Nat) : State :=
  let us := ([0, 1, 2, 3] : List (Fin 4)).map fun d => (d, dieUses s d i ++ ioUses s x d.val i)
  let ius := ioUses s x 4 i
  -- C-dies: direct, then shared to the polder or the module chain
  let r := us.foldl (fun (a : State × List (Fin 4 × Nat)) y =>
    let b := dieSlot a.1 x y.1 i y.2
    (b.1, a.2 ++ [(y.1, b.2)])) (s, [])
  let s := r.1
  let dieShare (p : Fin 4) : Nat :=
    ((r.2.filter fun y => !moduleDie s y.1 && polderOfDie s y.1 == some p).map (·.2)).sum
  let modShare := ((r.2.filter fun y => moduleDie s y.1).map (·.2)).sum
  -- I-die: ports of polders, activity, remainder by C-die count of the open polders
  let portE (j : Fin 6) : Nat := tenth (x.ports.getD j.val 0) i
  let portsOf_ (p : Fin 4) : Nat := if iDieRepair s then 0 else ((portsOf s p).map portE).sum
  let four : List (Fin 4) := [0, 1, 2, 3]
  let allPorts := (four.map portsOf_).sum
  let e := tenth (iDieEnergy x) i
  let pot := e - allPorts - tenth x.iRest i
  let xs := directOf pot 0 0 ius
  let s := giveDirect s xs
  let rest := e - allPorts - (xs.map (·.2)).sum
  let ps := if iDieRepair s then [] else openPolders s
  let dies := (ps.map (dieCount s)).sum
  let restOf (p : Fin 4) : Nat := if ps.contains p then share rest (dieCount s p) dies else 0
  let all := us.flatMap (·.2) ++ ius
  let s := four.foldl (fun s p => giveShared s p (dieShare p + portsOf_ p + restOf p) all) s
  addModule s (modShare + (rest - (four.map restOf).sum))

/-! ## Snapshots that wait for their energy (R416) -/

/-- A snapshot after slot i: the slots up to its edge add to it, and the slot that holds the edge is divided there by the
cycles before and after it. `old` is the state before the slot was attributed. -/
def settleSnap (old s : State) (p : Fin 4) (i : Nat) (cut : DWord → Nat × Nat) (x : Snap) : Snap :=
  let e := setEnergy s p x.set - setEnergy old p x.set
  match x.slot with
  | none => x
  | some k =>
    if i < k then { x with energy := x.energy + e }
    else if i = k then { x with slot := none, energy := x.energy + share e (cut x.gen).1 ((cut x.gen).1 + (cut x.gen).2) }
    else x

/-- Every snapshot of a polder that waits: in records, in a dump, in a live read. -/
def mapSnaps (s : State) (p : Fin 4) (f : Snap → Snap) : State :=
  let s := modPolder s p fun P =>
    { P with ringDue := P.ringDue.map fun x => { x with snap := x.snap.map f },
             dump := P.dump.map fun d => { d with snaps := d.snaps.map fun y => (y.1, f y.2) } }
  modFunc s (vf p) fun F => { F with live := F.live.map fun r => { r with snaps := r.snaps.map f } }

def waitingSnaps (s : State) (p : Fin 4) : List Snap :=
  (polder s p).ringDue.filterMap (·.snap) ++ ((polder s p).dump.elim [] fun d => d.snaps.map (·.2)) ++
    ((func s (vf p)).live.elim [] (·.snaps))

/-- The edges at which the waiting snapshots were taken, by generation: two of one edge are divided alike (R417). -/
def waitingEdges (s : State) (p : Fin 4) : List DWord := ((waitingSnaps s p).map (·.gen)).eraseDups

/-- Bytes with some of them replaced from an offset on. -/
def patchBytes (bs : List Byte) (o : Nat) (x : List Byte) : List Byte := bs.take o ++ x ++ bs.drop (o + x.length)

/-- The energies of a dump that are known go to their places. -/
def patchDump (s : State) (p : Fin 4) : State :=
  match (polder s p).dump with
  | none => s
  | some d =>
    let s := (d.snaps.filter fun y => y.2.slot.isNone).foldl
      (fun s y => regionWrite s p (dumpBase (firstDie s p) + y.1) (leBytes 8 y.2.energy)) s
    modPolder s p fun P => { P with dump := some { d with snaps := d.snaps.filter fun y => y.2.slot.isSome } }

/-- A live read is answered once every energy in it is known; entry i holds its energy at 16 + 128 × i + 8 + 0x68 (R433). -/
def answerLive (s : State) (p : Fin 4) : State :=
  match (func s (vf p)).live, waitingRequest s (vf p) with
  | some r, some q =>
    if r.snaps.all fun x => x.slot.isNone then
      let bytes := (r.snaps.zipIdx).foldl (fun bs y => patchBytes bs (128 * y.2 + 128) (leBytes 8 y.1.energy)) r.bytes
      respond (modFunc s (vf p) fun F => { F with live := none }) (vf p) (reqBytes q) .ok bytes
    else s
  | _, _ => s

/-- What waited for the energies that are now known. -/
def finishSnaps (s : State) (p : Fin 4) : State := answerLive (patchDump (flushRing s p) p) p

def polders_ : List (Fin 4) := [0, 1, 2, 3]

/-- One slot attributed, and the snapshots in it; `cut` gives for a polder and an edge the cycles of the slot before and
after the edge. -/
def meterSlot (x : RailSample) (cut : Fin 4 → DWord → Nat × Nat) (s : State) (i : Nat) : State :=
  let t := sampleSlot x s i
  polders_.foldl (fun u p => mapSnaps u p (settleSnap s t p i (cut p))) t

/-- The next sample's slots begin. -/
def nextSample (s : State) : State :=
  let s := { s with clusters := s.clusters.map fun C => { C with weights := C.weights.drop 10 },
                    polders := s.polders.map fun P => { P with recent := [] } }
  polders_.foldl (fun s p => mapSnaps s p fun x => { x with slot := x.slot.map (· - 10) }) s

/-- The cycles before and after an edge in its slot, as the sample gives them in the order of the waiting edges. -/
def cutOf (x : RailSample) (s : State) (p : Fin 4) (g : DWord) : Nat × Nat :=
  (x.cuts.getD p.val []).getD ((waitingEdges s p).idxOf g) (0, 0)

/-- A 10 µs sample: the droop response of R407, then the attribution. -/
def doMeterSample (x : RailSample) (s : State) : State :=
  let t := nextSample ((List.range 10).foldl (meterSlot x (cutOf x s)) (inputSample s x.inputW))
  polders_.foldl finishSnaps t

def execMeterSample (x : RailSample) (s : State) : Host.Outcome State Fault Refusal := .next (doMeterSample x s)

/-! ## Records and chains (R396, R398, R399) -/

/-- The 64 bytes of a record; energies in mJ. -/
def meterBytes (seq kind pol flags : Nat) (id : Nat) (start stop : DWord) (cmds merged mj shared disc : Nat) : List Byte :=
  leBytes 8 seq ++ leBytes 1 kind ++ leBytes 1 pol ++ leBytes 1 flags ++ zeros 1 ++ leBytes 4 id ++
  leBytes 8 start.toNat ++ leBytes 8 stop.toNat ++ leBytes 4 cmds ++ leBytes 4 merged ++ leBytes 4 mj ++
  leBytes 4 shared ++ leBytes 4 disc ++ zeros 12

/-- Append a record: the head moves on and the record waits in the buffer; without a ring, or on chain 4, a full
buffer loses its oldest record (R400). -/
def addRecord (c : Fin 5) (C : Chain) (r : List Byte) : Chain :=
  let buf := C.buffer ++ [(C.seq, r)]
  let drop := decide (2048 < buf.length) && (C.ring.isNone || c == 4)
  { C with seq := C.seq + 1, head := digest (digestBytes C.head ++ r),
           buffer := if drop then buf.drop 1 else buf, lost := if drop then C.lost + 1 else C.lost }

/-- A record of kind 0 or 1 on a polder's chain: floors in mJ, the fraction of the total kept for the idle record. -/
def energyRecord (s : State) (p : Fin 4) (kind flags id : Nat) (start stop : DWord) (cmds merged total shared disc : Nat) :
    State :=
  let C := chain s (chainOf p)
  let fl := flags + (if 0 < disc then 1 else 0)
  let r := meterBytes C.seq kind p.val fl id start stop cmds merged (total / 1000) (shared / 1000) (disc / 1000)
  modPolder (modChain s (chainOf p) fun C => addRecord (chainOf p) C r) p fun P =>
    { P with idleFrac := P.idleFrac + total % 1000 }

/-! ## Requests (R394, R395) -/

/-- The record of a request: the energy since its previous record, or all of it; `still` is flag [1]. -/
def requestRecord (s : State) (p : Fin 4) (rid : Nat) (r : Req) (still : Bool) : State :=
  let total := r.energy + r.shared - r.reported
  let s := energyRecord s p 0 (if still then 2 else 0) rid r.start r.last r.cmds 0 total (r.shared - r.reportedShared)
    (r.discarded - r.reportedDisc)
  modPolder s p fun P => { P with reqs := tabMod none P.reqs rid (Option.map fun (r : Req) =>
    { r with reported := r.energy + r.shared, reportedShared := r.shared, reportedDisc := r.discarded, cmds := 0 }) }

/-- Merge a short request into its group, with the energy that no record of its own has carried. -/
def mergeRequest (s : State) (p : Fin 4) (rid : Nat) (r : Req) : State :=
  let g := rid / 2 ^ (chain s (chainOf p)).shift
  let total := r.energy + r.shared - r.reported
  let shared := r.shared - r.reportedShared
  let disc := r.discarded - r.reportedDisc
  modPolder s p fun P => { P with accs := tabMod none P.accs g fun a =>
    match a with
    | some a => some { a with last := r.last, cmds := a.cmds + r.cmds, merged := a.merged + 1,
                              energy := a.energy + total, shared := a.shared + shared, discarded := a.discarded + disc }
    | none => some { start := r.start, last := r.last, cmds := r.cmds, merged := 1, energy := total, shared := shared,
                     discarded := disc } }

/-- Close a request: below 1 ms it merges into its group, else its final record is written. -/
def closeRequest (s : State) (p : Fin 4) (rid : Nat) : State :=
  match tabGet none (polder s p).reqs rid with
  | none => s
  | some r =>
    let s := if r.last - r.start < 1000000 then mergeRequest s p rid r else requestRecord s p rid r false
    modPolder s p fun P => { P with reqs := tabSet none P.reqs rid none }

/-! ## Batch records (R395, R396, R401) -/

def groupRecords (s : State) (p : Fin 4) : State :=
  let s := (polder s p).accs.foldl (fun s x =>
    match x.2 with
    | some a =>
      if 0 < a.energy then energyRecord s p 1 0 x.1 a.start a.last a.cmds a.merged a.energy a.shared a.discarded else s
    | none => s) s
  modPolder s p fun P => { P with accs := [] }

/-- Requests open for 1 ms or more that have gained energy since their last record. -/
def openRecords (s : State) (p : Fin 4) : State :=
  let now := acctTime s p
  (polder s p).reqs.foldl (fun s x =>
    match x.2 with
    | some r =>
      if 1000000 ≤ now - r.start ∧ r.reported < r.energy + r.shared then requestRecord s p x.1 r true else s
    | none => s) s

/-- The idle record carries the polder's idle energy and the fractions of the records before it; its own fraction
stays for the next one. -/
def idleRecord (s : State) (p : Fin 4) : State :=
  let P := polder s p
  let e := P.idleEnergy + P.idleFrac
  if e = 0 then s else
  let now := acctTime s p
  let C := chain s (chainOf p)
  let r := meterBytes C.seq 2 p.val 0 0 P.idleStart now 0 0 (e / 1000) (P.idleShared / 1000) 0
  modPolder (modChain s (chainOf p) fun C => addRecord (chainOf p) C r) p fun P =>
    { P with idleEnergy := 0, idleShared := P.idleShared % 1000, idleFrac := e % 1000, idleStart := now }

/-- The module record of chain 4, in levee time (flag [2]); all its energy is shared energy (R393). -/
def moduleRecord (s : State) : State :=
  let C := chain s 4
  if C.energy = 0 then s else
  let now := leveeTime s
  let r := meterBytes C.seq 3 0xFF 4 0 C.periodStart now 0 0 (C.energy / 1000) (C.energy / 1000) 0
  modChain s 4 fun C => { addRecord 4 C r with energy := C.energy % 1000, periodStart := now }

/-! ## Batches (R401, R402) -/

/-- Bytes 0x000 to 0x07F of a batch statement. -/
def statementHead (s : State) (c : Fin 5) : List Byte :=
  let C := chain s c
  let nonce := if h : c.val < 4 then (if isOpen s ⟨c.val, h⟩ then (polder s ⟨c.val, h⟩).openNonce else 0) else 0
  leBytes 4 0x4D425331 ++ leBytes 2 1 ++ leBytes 1 c.val ++ zeros 1 ++ leBytes 8 s.fuses.serial.toNat ++
  leBytes 16 s.bootNonce.toNat ++ leBytes 8 C.batch ++ leBytes 8 C.first ++ leBytes 4 (C.seq - C.first) ++
  leBytes 4 C.lost ++ digestBytes C.head ++ leBytes 16 nonce.toNat ++ leBytes 8 (leveeTime s).toNat ++
  leBytes 1 C.shift ++ zeros 1 ++ leBytes 2 C.delay ++ zeros 12

/-- A PSS signature with a salt of 32 bytes from the entropy source. -/
def signWith (s : State) (k : RsaKey) (msg : List Byte) : State × List Byte :=
  (nextDraw s, pssSign k.n k.d msg (leBytes 32 (drawBits s 256).toNat))

def signMeter (s : State) (msg : List Byte) : State × List Byte := signWith s (meterPair s.fuses) msg

/-- EV_METER_BATCH: to PF0, and to the polder's function for a polder chain. -/
def batchEvent (s : State) (c : Fin 5) (head : List Byte) : State :=
  let pay := leBytes 1 c.val ++ zeros 3 ++ (head.drop 0x20).take 8 ++ (head.drop 0x30).take 4
  if h : c.val < 4 then polderEvent s ⟨c.val, h⟩ 0x0701 pay else adminEvent s 0x0701 pay

/-- Sign a statement and retain it among the last 64 of its chain. -/
def finishBatch (s : State) (c : Fin 5) (x : Nat × List Byte) : State :=
  let g := signMeter s x.2
  let s := modChain g.1 c fun C =>
    let all := C.statements ++ [(x.1, x.2 ++ g.2)]
    { C with statements := all.drop (all.length - 64) }
  batchEvent s c x.2

/-- The batch-close records of a chain. -/
def batchRecords (s : State) (c : Fin 5) : State :=
  if h : c.val < 4 then
    let p : Fin 4 := ⟨c.val, h⟩
    idleRecord (openRecords (groupRecords s p) p) p
  else moduleRecord s

/-- Close the batch: a statement when it holds a record, then the parameters of the next batch. -/
def closeBatch (s : State) (c : Fin 5) : State :=
  let s := batchRecords s c
  let C := chain s c
  if C.seq = C.first then s else
  let x := (C.batch, statementHead s c)
  let s := modChain s c fun C =>
    { C with batch := C.batch + 1, first := C.seq,
             shift := (C.nextParams.map (·.1)).getD C.shift, delay := (C.nextParams.map (·.2)).getD C.delay,
             nextParams := none }
  if s.meterKey then finishBatch s c x else modChain s c fun C => { C with unsigned := C.unsigned ++ [x] }

/-- The meter runs from power-up (R398), but not while only the boot ROM does (R331). -/
def meterRuns (s : State) : Bool := clocked s && s.boot != .recovery

/-- 1 s after the previous close (R401). -/
def doMeterBatchClose (c : Fin 5) (s : State) : State := if meterRuns s then closeBatch s c else s

def execMeterBatchClose (c : Fin 5) (s : State) : Host.Outcome State Fault Refusal := .next (doMeterBatchClose c s)

/-! ## The end of a request (R394) -/

/-- A batch that holds 4,096 records closes (R401). -/
def settleBatch (s : State) (c : Fin 5) : State :=
  if 4096 ≤ (chain s c).seq - (chain s c).first then closeBatch s c else s

def endRequest (s : State) (p : Fin 4) (rid : Nat) : State := settleBatch (closeRequest s p rid) (chainOf p)

/-- No command of the request is in flight, none waits for its re-issue, and its close delay has passed since the last
completion (R394, R395). -/
def requestOver (s : State) (p : Fin 4) (rid : Word) (r : Req) : Bool :=
  !((polder s p).inflight.any fun c => c.e.reqId == rid) && !r.cut && decide (1000000 * r.delay ≤ (acctTime s p - r.last).toNat)

def doRequestClose (p : Fin 4) (rid : Word) (s : State) : State :=
  match tabGet none (polder s p).reqs rid.toNat with
  | none => s
  | some r => if requestOver s p rid r then endRequest s p rid.toNat else s

def execRequestClose (p : Fin 4) (rid : Word) (s : State) : Host.Outcome State Fault Refusal := .next (doRequestClose p rid s)

/-- CLOSE closes every open request of the polder at once. -/
def closeRequests (s : State) (p : Fin 4) : State :=
  ((polder s p).reqs.map (·.1)).foldl (fun s rid => endRequest s p rid) s

/-- The meter key exists: batches closed before it are signed in order. -/
def doMeterKeyDerivationDone (s : State) : State :=
  if s.meterKey ∨ !s.identity then s else
  ([0, 1, 2, 3, 4] : List (Fin 5)).foldl (fun s c =>
    let xs := (chain s c).unsigned
    xs.foldl (fun s x => finishBatch s c x) (modChain s c fun C => { C with unsigned := [] }))
    { s with meterKey := true }

def execMeterKeyDerivationDone (s : State) : Host.Outcome State Fault Refusal := .next (doMeterKeyDerivationDone s)

/-! ## Delivery (R400) -/

/-- Records that have left the buffer. -/
def delivered (C : Chain) : Nat := C.seq - C.buffer.length

/-- The oldest buffered record goes to the ring while the ring has room for it. -/
def doMeterRecordDeliver (c : Fin 5) (s : State) : State :=
  match (chain s c).ring, (chain s c).buffer with
  | some (base, n), (q, r) :: rest =>
    if q < (chain s c).released + n then
      modChain (hostWrite s (base + 64 * (q % n)) r) c fun C => { C with buffer := rest }
    else s
  | _, _ => s

def execMeterRecordDeliver (c : Fin 5) (s : State) : Host.Outcome State Fault Refusal := .next (doMeterRecordDeliver c s)

/-! ## METER_CONFIG (R403) -/

/-- Chain number and the reserved bytes common to every operation. -/
def meterRsvd (b : List Byte) : Bool := decide (fld b 1 1 ≤ 4) && zeroAt b 2 2 && zeroAt b 0x11 1 && zeroAt b 0x14 12

def meterReply (s : State) (c : Fin 5) : Answer :=
  let C := chain s c
  accept s (leBytes 8 (delivered C) ++ leBytes 8 C.released ++ leBytes 4 C.buffer.length ++ zeros 4)

def serveMeter (s : State) (op : Nat) (ok : State → Fin 5 → List Byte → Bool) (act : State → Fin 5 → List Byte → Answer) :
    State :=
  serve s 0 8 32 (opIs op) fun s b =>
    let c := fin5 (fld b 1 1)
    if meterRsvd b && ok s c b then act s c b else refuse s .descInvalid

def ringOk (b : List Byte) : Bool :=
  let n := fld b 4 4
  n == 0 || (isPow2 n && decide (64 ≤ n) && decide (n ≤ 1048576) && fld b 8 8 % 4096 == 0)

def doMeterConfigSetRing (s : State) : State :=
  serveMeter s 0 (fun _ _ b => ringOk b) fun s c b =>
    let n := fld b 4 4
    meterReply (modChain s c fun C => { C with ring := if n = 0 then none else some (fld b 8 8, n) }) c

def execMeterConfigSetRing (s : State) : Host.Outcome State Fault Refusal := .next (doMeterConfigSetRing s)

def doMeterConfigRelease (s : State) : State :=
  serveMeter s 1 (fun s c b => decide ((chain s c).released + fld b 4 4 ≤ delivered (chain s c))) fun s c b =>
    meterReply (modChain s c fun C => { C with released := C.released + fld b 4 4 }) c

def execMeterConfigRelease (s : State) : Host.Outcome State Fault Refusal := .next (doMeterConfigRelease s)

def doMeterConfigSetParameters (s : State) : State :=
  serveMeter s 2 (fun _ c b => c != 4 && decide (fld b 0x10 1 ≤ 31) && decide (1 ≤ fld b 0x12 2) && decide (fld b 0x12 2 ≤ 10000))
    fun s c b => meterReply (modChain s c fun C => { C with nextParams := some (fld b 0x10 1, fld b 0x12 2) }) c

def execMeterConfigSetParameters (s : State) : Host.Outcome State Fault Refusal := .next (doMeterConfigSetParameters s)

/-- A retained statement by batch number, all ones for the latest. -/
def statementOf (C : Chain) (n : Nat) : Option (List Byte) :=
  if n = 2 ^ 64 - 1 then C.statements.getLast?.map (·.2) else (C.statements.find? fun x => x.1 == n).map (·.2)

def giveStatement (s : State) (c : Fin 5) (n : Nat) : Answer :=
  match statementOf (chain s c) n with
  | some bs => accept s bs
  | none => refuse s .descInvalid

def doMeterConfigReadStatement (s : State) : State :=
  serveMeter s 3 (fun _ _ _ => true) fun s c b => giveStatement s c (fld b 8 8)

def execMeterConfigReadStatement (s : State) : Host.Outcome State Fault Refusal := .next (doMeterConfigReadStatement s)

/-! ## METER_READ (R404) -/

def serveMeterRead (s : State) (p : Fin 4) (op : Nat) (act : State → List Byte → Answer) : State :=
  serve s (vf p) 0x10D 16 (opIs op) fun s b =>
    if zeroAt b 1 7 then act s b else refuse s .descInvalid

def doMeterReadStatement (p : Fin 4) (s : State) : State :=
  serveMeterRead s p 0 fun s b => giveStatement s (chainOf p) (fld b 8 8)

def execMeterReadStatement (p : Fin 4) (s : State) : Host.Outcome State Fault Refusal := .next (doMeterReadStatement p s)

/-- The meter key certificate (R402); before the key exists there is none to give: ACCESS_DENIED (log 24). -/
def certificate (s : State) : Answer :=
  if !s.meterKey then refuse s .accessDenied else
  let lc := s.fuses.lifecycle
  let m := leBytes 4 0x4D4B4331 ++ leBytes 2 1 ++ leBytes 1 lc ++ zeros 1 ++ leBytes 8 s.fuses.serial.toNat ++ zeros 8 ++
    beBytes 384 (meterPair s.fuses).n
  let g := signWith s (identityKey s.fuses) m
  accept g.1 (m ++ g.2)

def doMeterReadCertificate (p : Fin 4) (s : State) : State := serveMeterRead s p 1 fun s _ => certificate s

def execMeterReadCertificate (p : Fin 4) (s : State) : Host.Outcome State Fault Refusal := .next (doMeterReadCertificate p s)

def doMeterReadStatus (p : Fin 4) (s : State) : State :=
  serveMeterRead s p 2 fun s _ =>
    let C := chain s (chainOf p)
    accept s (leBytes 8 C.seq ++ leBytes 8 C.batch ++ leBytes 4 C.lost ++ zeros 4 ++ leBytes 8 ((polder s p).openEnergy / 1000))

def execMeterReadStatus (p : Fin 4) (s : State) : Host.Outcome State Fault Refusal := .next (doMeterReadStatus p s)

end Sys2Proof.Machine
end

