-- ==== Sys2Proof/Machine/Security.lean ====
section
/-! DEFINITION. MOD_INFO (R297), the layout (R371, R372), OPEN and CLOSE (R373-R376), job keys (R383), attestation
(R385, R386) and the debug unlock (R379). -/

namespace Sys2Proof.Machine

/-! ## MOD_INFO (R297) -/

def binCode (S : Site) : Nat :=
  match S.st with
  | .trained b => b
  | _ => 0xFF

def portByte (P : Port) : Nat :=
  (match P.st with | .up => 1 | .upFour => 2 | _ => 0) + 4 * P.fallback.toNat + 8 * P.spareUsed.toNat +
  16 * (match P.owner with | some p => p.val + 1 | none => 0)

def debugFlags (s : State) : Nat := s.fuses.pending.toNat + 2 * (debugActive s).toNat

def dies4 : List (Fin 4) := [0, 1, 2, 3]

def modInfo (s : State) : List Byte :=
  leBytes 2 0x4832 ++ leBytes 1 0xB0 ++ leBytes 1 (layoutCode s.layout) ++ leBytes 4 s.fwVersion.toNat ++
  leBytes 8 s.fuses.serial.toNat ++ leBytes 2 s.power.cap ++ zeros 2 ++
  (dies4.flatMap fun d => leBytes 2 (dieAclk s d)) ++ zeros 4 ++
  (dies4.flatMap fun d => leBytes 8 (16384 * shownU s d)) ++ (dies4.flatMap fun d => leBytes 4 (shownU s d)) ++
  (s.sites.toList.flatMap fun S => leBytes 1 (binCode S)) ++ (s.ports.toList.flatMap fun P => leBytes 1 (portByte P)) ++
  leBytes 1 s.hostRate ++ leBytes 1 s.hostWidth ++ leBytes 1 s.fuses.lifecycle ++ leBytes 1 (debugFlags s) ++ zeros 6

def doModInfo (s : State) : State := serve s 0 1 0 anyPayload fun s _ => accept s (modInfo s)

def execModInfo (s : State) : Host.Outcome State Fault Refusal := .next (doModInfo s)

/-! ## The layout (R371, R372) -/

def layoutOf (n : Nat) : Layout :=
  match n with
  | 1 => .whole
  | 2 => .halves
  | 3 => .quarters
  | _ => .none

/-- What a polder number keeps while its polder is closed or absent: the energy its chain has yet to record (R398). -/
def restPolder (P : Polder) (st : PState) : Polder :=
  { Polder.reset with st := st, acctOff := P.acctOff, accs := P.accs, idleEnergy := P.idleEnergy, idleShared := P.idleShared,
                      idleFrac := P.idleFrac, idleStart := P.idleStart, recent := P.recent }

def createDenied (s : State) : Bool :=
  polderExists s || s.numVfs != 4 || !s.vfEnable || s.fw.st == .staging || s.fw.st == .programming

def createOk (b : List Byte) : Bool :=
  let n := fld b 0 1
  decide (1 ≤ n) && decide (n ≤ 3) && zeroAt b 1 1 && zeroAt b 8 8 &&
  ([0, 1, 2, 3, 4, 5] : List Nat).all fun j => fld b (2 + j) 1 == 0xFF || decide (fld b (2 + j) 1 < polderCount (layoutOf n))

/-- Every polder of the layout, closed; the ports go to their owners, and so do the units of BAR0, cleared (R438). -/
def createLayout (s : State) (b : List Byte) : State :=
  let l := layoutOf (fld b 0 1)
  { s with layout := l, cvus := s.cvus.mapFinIdx fun i C _ => if i < polderCount l then Cvu.reset else C,
           polders := s.polders.mapFinIdx fun i P _ => restPolder P (if i < polderCount l then .closed else .absent),
           ports := s.ports.mapFinIdx fun j P _ =>
             { P with owner := if fld b (2 + j) 1 = 0xFF then none else some (fin4 (fld b (2 + j) 1)) } }

def doPolderCreate (s : State) : State :=
  serve s 0 2 16 anyPayload fun s b =>
    if createDenied s then refuse s .accessDenied
    else if !createOk b then refuse s .descInvalid
    else accept (createLayout s b)

def execPolderCreate (s : State) : Host.Outcome State Fault Refusal := .next (doPolderCreate s)

/-- Every polder ceases to exist; ports are released; the units of BAR0 return to PF0, cleared. -/
def destroyLayout (s : State) : State :=
  { s with layout := .none, polders := s.polders.map fun P => restPolder P .absent,
           ports := s.ports.map freePort,
           cvus := s.cvus.mapFinIdx fun i C h => if (polder s ⟨i, h⟩).st = .absent then C else Cvu.reset }

def allClosed (s : State) : Bool := s.polders.toList.all fun P => P.st == .closed || P.st == .absent

def doPolderDestroy (s : State) : State :=
  serve s 0 3 8 anyPayload fun s b =>
    if !allClosed s then refuse s .accessDenied
    else if s.layout = .none ∨ fld b 0 1 ≠ layoutCode s.layout ∨ !zeroAt b 1 7 then refuse s .descInvalid
    else accept (destroyLayout s)

def execPolderDestroy (s : State) : Host.Outcome State Fault Refusal := .next (doPolderDestroy s)

/-! ## OPEN (R373, R374, R422) -/

def ringSize (code : Nat) : Nat := if code = 0 then 2 ^ 28 else 2 ^ (23 + code)

def openFields (b : List Byte) : Bool :=
  decide (fld b 0 1 ≤ 1) && decide (fld b 1 1 < 4) && decide (fld b 2 1 ≤ 7) && zeroAt b 3 5 &&
  decide (fld b 0x28 8 < 2 ^ 48) && fld b 0x28 8 % 4096 == 0 && fld b 0x30 8 % 4096 == 0 && zeroAt b 0x38 8

/-- The polder as the payload, the draws and U make it. -/
def openedPolder (s : State) (p : Fin 4) (b : List Byte) (key seed nonce : BitVec 128) (cookie : DWord) (at_ : DWord) : Polder :=
  let mode := fld b 0 1
  let tr := ringSize (fld b 2 1)
  let applied := (b.take 8) ++ leBytes 16 key.toNat ++ leBytes 16 seed.toNat ++ (b.drop 0x28).take 24
  { restPolder (polder s p) .opened with
    mode := mode, hashKey := key, seed := seed, peerBase := fld b 0x28 8, peerLen := fld b 0x30 8, traceSize := tr,
    u := openU s (diesOf s p) mode tr, openNonce := nonce,
    openDigest := digest (applied ++ leBytes 16 nonce.toNat), acctOff := cookie - at_,
    idleStart := s.localCount + (cookie - at_), winStart := leveeTime s }

/-- Bring up every port of the polder that is not up; the levee lane of the others trains again (R274). -/
def openPorts (s : State) (p : Fin 4) : State :=
  (portsOf s p).foldl (fun s j =>
    if portUp (port s j) then trainLevee (modPort s j fun P => { P with faultsSeen := [], refused := [], landed := [] }) j
    else if (port s j).st = .training then s else trainPort s j) s

/-- The erase of the C-dies that carry no clean mark (R376). -/
def eraseUnclean (s : State) (p : Fin 4) : State :=
  (diesOf s p).foldl (fun s d => if s.clean.get d then s else eraseDie s d) s

def setDies (v : Vector Bool 4) (ds : List (Fin 4)) (x : Bool) : Vector Bool 4 := ds.foldl (fun v d => vmod v d fun _ => x) v

/-- The pages of a die whose retirement waits are retired live where the new U has returned reserve pages (R227, R228). -/
def retireDue (s : State) (d : Fin 4) : State :=
  (s.pagesDue.filter fun y => y.1 == d).foldl (fun s y =>
    if (retiredChannels s d.val).contains (y.2 / 2 ^ 21) then pageMet s d y.2 else
    match remapPage s d (y.2 / 2 ^ 21) (y.2 % 2 ^ 21) 0 with
    | some t => pageMet t d y.2
    | none => s) s

/-- The actions of R374 in their order. -/
def openAct (s : State) (p : Fin 4) (b : List Byte) (cookie at_ : DWord) : Answer :=
  let ds := diesOf s p
  let key : BitVec 128 := if (fld b 1 1) % 2 = 1 then drawBits s 128 else BitVec.ofNat 128 (fld b 8 16)
  let s1 := nextDraw s
  let seed : BitVec 128 := if (fld b 1 1) / 2 % 2 = 1 then drawBits s1 128 else BitVec.ofNat 128 (fld b 0x18 16)
  let s2 := nextDraw s1
  let nonce : BitVec 128 := drawBits s2 128
  let s3 := eraseUnclean { nextDraw s2 with marginDies := setDies s.marginDies ds false } p
  let P := openedPolder s3 p b key seed nonce cookie at_
  let s4 := modPolder s3 p fun _ => P
  let s5 := regionWrite s4 p (traceBase (firstDie s p)) (traceHeader s4 p 0)
  let s6 := settleSleep (openPorts { s5 with clean := setDies s5.clean ds false } p)
  let s6 := raiseCrossed s s6 [⟨6, (firstDie s p).val, 0⟩]
  let s6 := ds.foldl retireDue s6
  let us := P.u ++ List.replicate (4 - P.u.length) 0
  accept s6 (leBytes 16 nonce.toNat ++ leBytes 8 (16384 * P.u.sum) ++ (us.flatMap fun u => leBytes 4 u) ++ zeros 8)

/-- Does [a, a + n) lie wholly in the polder's memory, perhaps over slices that adjoin (R214, R374)? -/
def covered (s : State) (p : Fin 4) (a n : Nat) : Bool :=
  n == 0 || decide (a + n ≤ (ranges s p true).foldl (fun x r => if r.1 ≤ x ∧ x < r.1 + r.2 then r.1 + r.2 else x) a)

def doOpenPolder (p : Fin 4) (s : State) : State :=
  let r := (func s (vf p)).latched
  serve s (vf p) 0x101 64 anyPayload fun s b =>
    let ds := diesOf s p
    let us := openU s ds (fld b 0 1) (ringSize (fld b 2 1))
    if !openFields b then refuse s .descInvalid
    else if ds.any fun d => s.failedDies.get d then refuse s .spareExhausted
    else if !covered (modPolder s p fun P => { P with u := us }) p (fld b 0x28 8) (fld b 0x30 8) then
      refuse s .accessDenied
    else
      let cookie := (r.map fun r => BitVec.ofNat 64 (leVal (tabBytes r.bytes 0x18 8))).getD 0
      openAct s p b cookie ((r.map (·.time)).getD 0)

def execOpenPolder (p : Fin 4) (s : State) : Host.Outcome State Fault Refusal := .next (doOpenPolder p s)

/-! ## CLOSE (R375) -/

/-- Steps 1 to 6 of R375. -/
def closeAct (s : State) (p : Fin 4) : State :=
  let ds := diesOf s p
  let s := closeRequests (abandonAll s p) p
  let s := modPolder s p fun P => restPolder P (if P.st = .closing ∨ P.st = .faultedClosing then .shut else .closed)
  let s := ds.foldl eraseDie s
  settleSleep { s with clean := setDies s.clean ds true }

/-- Not while a discard waits for its records, which ends first; a repair that a fault began meanwhile goes on (R377). -/
def doClosePolder (p : Fin 4) (s : State) : State :=
  if (polder s p).discard.isSome then s else
  serve s (vf p) 0x102 0 anyPayload fun s _ => accept (closeAct s p)

def execClosePolder (p : Fin 4) (s : State) : Host.Outcome State Fault Refusal := .next (doClosePolder p s)

/-! ## KEY_LOAD (R382, R383) -/

def keyLabel : List Byte := ascii "ZEH-4832 KEY_LOAD"

/-- The table of R383. -/
def keyPlainOk (s : State) (p : Fin 4) (id : Nat) (m : List Byte) : Bool :=
  m.length == 80 && fld m 0 4 == 0x4A4B5931 && fld m 4 4 == id && fld m 8 8 == s.fuses.serial.toNat &&
  fld m 0x10 16 == (polder s p).openNonce.toNat && fld m 0x22 1 == p.val && zeroAt m 0x23 13

/-- What KEY_LOAD answers to its decrypted plaintext, none where the padding does not check (R383). -/
def keyAnswer (s : State) (p : Fin 4) (b : List Byte) (plain : Option (List Byte)) : Answer :=
  match plain with
  | none => refuse s .accessDenied
  | some m =>
    let key : BitVec 256 := BitVec.ofNat 256 (fld m 0x30 32)
    if !keyPlainOk s p (fld b 0 4) m ∨ (polder s p).key.map (·.key) = some key then refuse s .accessDenied
    else accept (modPolder s p fun P =>
      { P with key := some { key := key, rank := BitVec.ofNat 16 (fld m 0x20 2), id := BitVec.ofNat 32 (fld b 0 4) }, ivs := [] })
      (aes (keyBytes key) (zeros 16))

def keyAct (s : State) (p : Fin 4) (b : List Byte) : Answer :=
  let k := identityKey s.fuses
  keyAnswer s p b (oaepDecrypt k.n k.d keyLabel ((b.drop 8).take 384))

def doKeyLoad (p : Fin 4) (s : State) : State :=
  serve s (vf p) 0x103 392 anyPayload fun s b =>
    if !zeroAt b 4 4 then refuse s .descInvalid else keyAct s p b

def execKeyLoad (p : Fin 4) (s : State) : Host.Outcome State Fault Refusal := .next (doKeyLoad p s)

/-! ## ATTEST_GET (R385, R386) -/

def remapBytes (v : DWord) : List Byte := leBytes 8 v.toNat ++ leBytes 8 (~~~v).toNat

def maskOf (xs : List Bool) : Nat := (xs.mapIdx fun i x => if x then 2 ^ i else 0).sum

/-- Bytes 0x000 to 0x1FF of the report. -/
def reportHead (s : State) (p : Fin 4) (nonce : List Byte) : List Byte :=
  let P := polder s p
  let op := isOpen s p
  let ports := (List.finRange 6).map fun j => (port s j).owner == some p
  leBytes 4 0x41545331 ++ leBytes 2 1 ++ leBytes 2 896 ++ leBytes 8 s.fuses.serial.toNat ++ leBytes 2 0x4832 ++ leBytes 1 0xB0 ++
  leBytes 1 s.fuses.lifecycle ++ leBytes 1 (debugFlags s) ++ leBytes 1 (layoutCode s.layout) ++ leBytes 1 p.val ++
  leBytes 1 (((diesOf s p).map fun d => 2 ^ d.val).sum) ++ leBytes 1 (maskOf ports) ++
  leBytes 1 (if op then P.mode else 0xFF) ++ leBytes 1 (stateCode P.st) ++ leBytes 1 P.key.isSome.toNat ++
  leBytes 2 (match P.key with | some k => k.rank.toNat | none => 0) ++ zeros 2 ++
  leBytes 4 (match P.key with | some k => k.id.toNat | none => 0) ++ leBytes 4 s.fwVersion.toNat ++
  leBytes 2 s.fwSecurity.toNat ++ leBytes 2 s.fuses.floor ++ zeros 4 ++
  sha256 (beBytes 384 (identityKey s.fuses).n) ++ digestBytes s.romDigest ++
  digestBytes s.fwDigest ++ digestBytes s.cfgDigest ++ sha256 ((remapsInForce s).flatMap remapBytes) ++
  ((List.range 13).flatMap fun i => leBytes 1 (fusesUsed s i)) ++ zeros 3 ++ leBytes 4 (softInForce s).length ++
  leBytes 4 s.repairs ++ leBytes 1 (maskOf s.failedDies.toList) ++ zeros 7 ++
  leBytes 16 (if op then P.openNonce.toNat else 0) ++ (if op then digestBytes P.openDigest else zeros 32) ++ nonce ++
  leBytes 8 (leveeTime s).toNat ++ leBytes 8 s.attestSeq.toNat ++ zeros 176

def serveAttest (s : State) (p : Fin 4) (op : Nat) (act : State → List Byte → Answer) : State :=
  serve s (vf p) 0x106 48 (opIs op) fun s b =>
    if !(zeroAt b 1 3 && zeroAt b 0x28 8) then refuse s .descInvalid else act s b

def doAttestGetReport (p : Fin 4) (s : State) : State :=
  serveAttest s p 0 fun s b =>
    let m := reportHead s p ((b.drop 8).take 32)
    let g := signWith s (identityKey s.fuses) m
    accept { g.1 with attestSeq := g.1.attestSeq + 1 } (m ++ g.2)

def execAttestGetReport (p : Fin 4) (s : State) : Host.Outcome State Fault Refusal := .next (doAttestGetReport p s)

def doAttestGetChain (p : Fin 4) (s : State) : State :=
  serveAttest s p 1 fun s b =>
    let c := s.flash.chain
    let o := fld b 4 4
    if c.length < o then refuse s .descInvalid
    else
      let part := (c.drop o).take 4000
      accept s (leBytes 4 c.length ++ leBytes 4 part.length ++ part)

def execAttestGetChain (p : Fin 4) (s : State) : Host.Outcome State Fault Refusal := .next (doAttestGetChain p s)

/-! ## DEBUG_UNLOCK (R379) -/

/-- Any DEBUG_UNLOCK request ends the challenge before it. -/
def doDebugUnlockChallenge (s : State) : State :=
  serve s 0 0x0A 8 (opIs 0) fun s b =>
    if !zeroAt b 1 7 then refuse { s with challenge := none } .descInvalid
    else
      let c : BitVec 256 := drawBits s 256
      accept { nextDraw s with challenge := some c }
        (leBytes 8 s.fuses.serial.toNat ++ leBytes 1 s.fuses.lifecycle ++ leBytes 1 s.fuses.pending.toNat ++ zeros 6 ++
          leBytes 32 c.toNat)

def execDebugUnlockChallenge (s : State) : Host.Outcome State Fault Refusal := .next (doDebugUnlockChallenge s)

def unlockOk (s : State) (b : List Byte) : Bool :=
  match s.challenge with
  | none => false
  | some c =>
    let modulus := (b.drop 8).take 384
    let msg := leBytes 8 s.fuses.serial.toNat ++ leBytes 32 c.toNat ++ [3] ++ zeros 7
    !polderExists s && s.fuses.lifecycle == 2 && digest modulus == s.fuses.dbgDigest &&
    pssVerify modulus msg ((b.drop 0x188).take 384)

/-- The lifecycle fuses are blown; the debug state takes effect at the next power-up or PERST#. -/
def doDebugUnlockUnlock (s : State) : State :=
  serve s 0 0x0A 776 (opIs 1) fun s b =>
    let t := { s with challenge := none }
    if !zeroAt b 1 7 then refuse t .descInvalid
    else if unlockOk s b then accept { t with fuses := { s.fuses with pending := true } }
    else refuse t .accessDenied

def execDebugUnlockUnlock (s : State) : Host.Outcome State Fault Refusal := .next (doDebugUnlockUnlock s)

end Sys2Proof.Machine
end

