-- ==== Sys2Proof/Machine/Resets.lean ====
section
/-! DEFINITION. PERST#, the PF0 and VF resets (R333, R334), and the loss of a reference clock (R448). -/

namespace Sys2Proof.Machine

def polders4 : List (Fin 4) := [0, 1, 2, 3]

/-- Running work is discarded without records (R334). -/
def abandonEverything (s : State) : State := polders4.foldl abandonAll s

/-- PERST# is asserted: everything but fuses, flash and the sensors' levels is lost; after a critical trip bring-up
waits for the levels to be left (R446). -/
def perstAct (s : State) : State :=
  let hold := (s.thermtrip || s.boot == .thermalHold) && !levelsLeft s
  let b := unpowered (spoilImage (abandonEverything s))
  settleLimits { b with perst := true, modPwrgd := true, boot := if hold then .thermalHold else .fuses,
                        bootFlags := s.bootFlags &&& 16, power := startPower s,
                        sites := s.sites.map fun S => { Site.reset with level := S.level } }

def doPerstAssert (s : State) : State := if s.boot = .off then { s with perst := true } else perstAct s

def execPerstAssert (s : State) : Host.Outcome State Fault Refusal := .next (doPerstAssert s)

/-- PERST# is deasserted, and the host link has trained at a rate and width (R281, R318). -/
def doPerstDeassert (rate : Fin 7) (width : Fin 3) (s : State) : State :=
  if !s.perst then s else
  let s := { s with perst := false, hostRate := rate.val, hostWidth := 2 ^ width.val }
  if s.boot = .fuses then coldStart s 1 else s

def execPerstDeassert (rate : Fin 7) (width : Fin 3) (s : State) : Host.Outcome State Fault Refusal :=
  .next (doPerstDeassert rate width s)

/-- A function after its reset: its registers and queues at their reset values, its event sequence running on. -/
def resetFunc (F : Func) : Func := { Func.reset with eventSeq := F.eventSeq }

/-- What a PF0 reset drops of the firmware update (R334). -/
def resetFw (s : State) : State :=
  match s.fw.st with
  | .staging => { s with fw := idleFw s.fw }
  | .programming => { spoilImage s with fw := { idleFw s.fw with st := .failed } }
  | _ => s

/-- Every polder is destroyed, its requests closed in the meter (R394). -/
def dropPolders (s : State) : State :=
  let s := polders4.foldl closeRequests (abandonEverything s)
  { s with layout := .none, polders := s.polders.map fun P => restPolder P .absent, ports := s.ports.map freePort,
           cvus := Vector.replicate 4 Cvu.reset, clean := Vector.replicate 4 false,
           reports := s.reports.map fun r => { r with active := false } }

/-- A PF0 reset: polders destroyed, device memory undefined, event queues emptied, VFs disabled, step 5 run again in a module that was ready. -/
def pf0Act (s : State) : State :=
  let s := spoil (resetFw (dropPolders s)) 0 (5 * 2 ^ 40)
  let s := { s with funcs := s.funcs.map resetFunc, numVfs := 0, vfEnable := false, challenge := none, lastReset := 2 }
  if s.boot = .ready then releaseNow s else s

/-- Is the PCI Express link there to be reset? -/
def linkUp (s : State) : Bool := !s.perst && s.boot != .off && s.boot != .fuses && s.boot != .thermalHold

def doPf0Reset (s : State) : State := if linkUp s then pf0Act s else s

def execPf0Reset (s : State) : Host.Outcome State Fault Refusal := .next (doPf0Reset s)

/-- Loss of REFCLK takes the link down, with the effect of a PF0 reset. -/
def doRefclkLoss (s : State) : State := if linkUp s then pf0Act s else s

def execRefclkLoss (s : State) : Host.Outcome State Fault Refusal := .next (doRefclkLoss s)

/-- Loss of MREF is a C4 fault. -/
def doMrefLoss (s : State) : State := if clocked s then faultEarly s (faultInfo 0x0D 0 4 0) else s

def execMrefLoss (s : State) : Host.Outcome State Fault Refusal := .next (doMrefLoss s)

/-- The VF reset itself: the polder closed as CLOSE closes it, the function's registers and queues cleared; it ends a
debug challenge, as any reset does (R333, R379). -/
def vfAct (s : State) (p : Fin 4) : State :=
  let s := match (polder s p).st with
    | .opened | .faulted => closeAct s p
    | _ => s
  { (modFunc s (vf p) resetFunc) with challenge := none }

/-- During a repair of its polder, or while a discard waits for its records, it takes effect when the repair ends. -/
def doVfReset (p : Fin 4) (s : State) : State :=
  if !(linkUp s && s.vfEnable && decide (p.val < s.numVfs)) then s
  else if isHandling s p then modFunc s (vf p) fun F => { F with resetting := true }
  else vfAct s p

def execVfReset (p : Fin 4) (s : State) : Host.Outcome State Fault Refusal := .next (doVfReset p s)

end Sys2Proof.Machine
end

