-- ==== Sys2Proof/Machine/Recover.lean ====
section
/-! DEFINITION. FW_RECOVER (R327, R331, R332): the only message of recovery mode, an admin message of a ready module too. -/

namespace Sys2Proof.Machine

def setImage (s : State) (t : Tab Byte) : State := { s with flash := { s.flash with image := t } }

/-- Begin erases the image region. -/
def doFwRecoverBegin (s : State) : State :=
  serveFw s 5 1 false fun s b =>
    if !fwLengthOk (fld b 4 4) then refuse s .descInvalid
    else accept (setImage (setFw s fun F => { F with recBegun := true, recNext := 0, recLength := fld b 4 4 }) [])

def execFwRecoverBegin (s : State) : Host.Outcome State Fault Refusal := .next (doFwRecoverBegin s)

/-- Data goes straight into the region; offsets ascend without gaps from 0. -/
def doFwRecoverData (s : State) : State :=
  serveFw s 5 2 true fun s b =>
    let n := fld b 8 4
    if !s.fw.recBegun ∨ fld b 4 4 ≠ s.fw.recNext ∨ s.fw.recLength < s.fw.recNext + n then refuse s .descInvalid
    else accept (setImage (setFw s fun F => { F with recNext := F.recNext + n })
      (tabSplice 0xFF s.flash.image s.fw.recNext ((b.drop 16).take n)))

def execFwRecoverData (s : State) : Host.Outcome State Fault Refusal := .next (doFwRecoverData s)

/-- Bring-up from step 2 (R332). In a ready module the polders go first, as a PF0 reset drops them (log 26). -/
def rerunImage (s : State) : State :=
  verifyImage { (if s.boot = .ready then dropPolders s else s) with bootFlags := s.bootFlags ||| 16, fw := Fw.reset }

/-- Commit: the ROM re-reads the region; when it passes, bring-up goes on from step 2 with boot flag [4]. -/
def doFwRecoverCommit (s : State) : State :=
  serveFw s 5 3 false fun s _ =>
    if imageOk s.fuses s.flash.image then
      accept (rerunImage s)
    else refuse s .accessDenied

def execFwRecoverCommit (s : State) : Host.Outcome State Fault Refusal := .next (doFwRecoverCommit s)

end Sys2Proof.Machine
end

