-- ==== Sys2Proof/Machine/Repair.lean ====
section
/-! DEFINITION. Faults, repairs, margin tests: FAULT_DETECTED (R335-R337), DISCARD_RECORD_POST (R310, R338), REPAIR_DONE
(R343-R346), heartbeats and scans (R336, R355), margin tests (R352) and SPARE_REPORT (R353, R354). -/

namespace Sys2Proof.Machine

/-! ## FAULT_DETECTED -/

/-- The polder a report concerns: the first it names, or the owner of its C-die. -/
def reportPolder (s : State) (r : FaultReport) : Option (Fin 4) :=
  match r.users with
  | p :: _ => some p
  | [] => (diePolders s r.die).head?

/-- The engine of a launch that met an error: the one whose VE store the report names (kind 3 of R348), else the lowest
that runs (log 58). -/
def metBy (s : State) (p : Fin 4) (c : Cmd) (r : FaultReport) : Option (Fin 256) :=
  let cs := (launchOf s p c.q c.e.seq).filter fun k => (ve s k).mode == .running
  if r.source = 4 ∧ r.kind = 3 then
    (cs.find? fun k => k.val / 64 == r.die && physCluster s k == r.unit / 256).or cs.head?
  else cs.head?

/-- The elements of a memory instruction (R143-R145). -/
def memElems (V : Ve) (w : DWord) : List VeElem :=
  match fOp w with
  | 0x80 | 0x81 => veLineElems V w
  | 0x82 | 0x83 => indexElems V w
  | 0x84 => scaleLoads V w
  | 0x85 => scaleStores V w
  | _ => []

/-- The elements of an engine's instruction that touch the 8-byte word a report names: in the VE store or the cluster buffer
(source 0x04), or in the S-tier. -/
def metElems (V : Ve) (r : FaultReport) : List VeElem :=
  let space := if r.source = 4 then (if r.kind = 3 then 0 else 1) else 2
  let word := r.addr / 8 * 8
  if mSpace (wordAt V) = space then
    (memElems V (wordAt V)).filter fun e => decide (e.addr < word + 8) && decide (word < e.addr + e.size)
  else []

/-- The faulting lanes of cause 0x0A and the lowest such lane's address (R157); where no element touches the word, every
lane and no address (log 58). -/
def metLanes (V : Ve) (r : FaultReport) : DWord × Nat :=
  match trapElems 0x0A (metElems V r) fun _ => true with
  | some (.trap _ lanes addr) => (lanes, addr)
  | _ => (allLanes, 0)

/-- A command meets an uncorrectable error: class C1 (R129, R155, R455). -/
def failEcc (s : State) (p : Fin 4) (c : Cmd) (r : FaultReport) : State :=
  match c.body, metBy s p c r with
  | .update _, some k | .vk _, some k =>
    let x := metLanes (ve s k) r
    veTrap s p c.q c.e.seq k 0x0A (pcOf s k) (wordAt (ve s k)) x.1 x.2
  | .update u, none => failUpdate s p c.q c.e.seq .eccUncorrected u c.step
  | .vk u, none => failVk s p c.q c.e.seq u 0x0A 0xFFFF (stopReport s p c.q c.e.seq 0x0A) []
  | _, _ => failCmd s p c.q c.e.seq .eccUncorrected

def commandFault (s : State) (r : FaultReport) : State :=
  match reportPolder s r with
  | none => s
  | some p =>
    match liveCmd s p r.queue r.seq with
    | some c => failEcc s p c r
    | none => s

def infoOf (r : FaultReport) : FaultInfo := faultInfo r.source r.kind r.die r.unit

/-- A module-held polder item fails in one copy or both (R355, R356). -/
def itemFault (s : State) (r : FaultReport) : State :=
  match reportPolder s r with
  | none => s
  | some p =>
    let bit : Byte := 1#8 <<< r.item
    let s := modPolder s p fun P =>
      { P with bad0 := P.bad0 ||| bit, bad1 := if r.bothCopies then P.bad1 ||| bit else P.bad1 }
    faultC2 s [p] (infoOf r)

/-- Source 0x0C by item: 0-7 a polder item, 8 the layout, 9 a spare map, 10 trim words. -/
def heldFault (s : State) (r : FaultReport) : State :=
  if r.item < 8 then itemFault s r
  else if r.item = 8 then (if r.bothCopies then faultC4 s (infoOf r) else faultC3 s (infoOf r))
  else if r.item = 9 then (if r.die < 4 then faultC2 s (diePolders s r.die) (infoOf r) else faultC3 s (infoOf r))
  else if r.item = 10 then (if r.die < 4 then faultC2 s (diePolders s r.die) (infoOf r) else faultC4 s (infoOf r))
  else s

/-- A corrected memory error: one on the link of a channel (kind 7) counts and leaves the page alone, since the block was
right (R231); an S-tier row that is failing (kind 4) goes to a spare row (R347). -/
def correctedReport (s : State) (r : FaultReport) : State :=
  if r.source = 0x06 ∧ r.kind = 7 then bumpCorrected s 1
  else
    let s := correctedError s r.addr
    if r.source = 0x05 ∧ r.kind = 4 then spareRow s r.addr else s

/-- The link that a report on source 0x08 names (R348): a levee wire pair by its link, a UCIe module by link and module. -/
def reportLink (r : FaultReport) : Nat := if r.kind = 0xD then r.unit else r.unit / 16

/-- A memory fault: corrected, met by a command, or of the tier itself. -/
def memoryFault (s : State) (r : FaultReport) (own : Bool) : State :=
  if r.corrected then correctedReport s r
  else if r.command then commandFault (uncorrectable s r.addr) r
  else if own then
    faultC2 (if r.source = 6 ∧ r.kind = 6 ∧ r.die < 4 then pageDue s (fin4 r.die) r.unit else s) (diePolders s r.die) (infoOf r)
  else uncorrectable s r.addr

/-- The class of a detection by its source (R336). -/
def classFault (s : State) (r : FaultReport) : State :=
  match r.source with
  | 0x01 | 0x02 | 0x03 | 0x0A => faultC2 s (diePolders s r.die) (infoOf r)
  | 0x04 => if r.corrected then bumpCorrected s (if r.kind = 3 then 3 else 2) else commandFault s r
  | 0x05 => memoryFault s r false
  | 0x06 => memoryFault s r true
  | 0x07 => faultC2 s r.users (infoOf r)
  | 0x08 => if r.corrected then bumpCorrected s 4 else faultC2 s (linkUsers s (reportLink r)) (infoOf r)
  | 0x09 => if r.corrected then bumpCorrected s 5 else failPort s (fin6 (r.unit / 16))
  | 0x0B => if r.corrected then bumpCorrected s 6 else faultC3 s (infoOf r)
  | 0x0C => heldFault s r
  | 0x0D => faultC4 s (infoOf r)
  | _ => s

/-- A fault is found while the module runs: during training, where the self-test of a defaulted slot finds them too (R317),
and in a ready module; in recovery mode a rail's monitor (R442) is what is left. -/
def doFaultDetected (r : FaultReport) (s : State) : State :=
  match s.boot with
  | .ready | .training => classFault s r
  | .recovery => if r.source = 0x0D then faultEarly s (infoOf r) else s
  | _ => s

def execFaultDetected (r : FaultReport) (s : State) : Host.Outcome State Fault Refusal := .next (doFaultDetected r s)

/-! ## DISCARD_RECORD_POST (R310, R338) -/

/-- The discard record of a queue: it is held from F on. -/
def discardQueue (cls id : Nat) (p : Fin 4) (s : State) (q : Fin 16) : State :=
  let F := (queue s p q).fence
  let t := leveeTime s
  let s := putCq s p q fun ph => cqEntry F .discarded (2 + ph) 0 0 0 (BitVec.ofNat 32 (cls + 256 * id)) t
  let s := modQueue s p q fun Q => { Q with st := .held, taken := F, waiting := none }
  let s := raiseCause (raiseCause s (vf p) (16 + q.val)) (vf p) 2
  let s := sendQueueMsix s p q
  traceRecord s p 4 q.val false 0 0 0 0 (leBytes 4 F.toNat ++ leBytes 1 cls ++ zeros 3 ++ leBytes 4 id)

/-- Queues that get a record: every existing one but those in the error state, which post nothing more (R315). -/
def recordQueues (s : State) (p : Fin 4) : List (Fin 16) :=
  (List.finRange 16).filter fun q => (queue s p q).st == .running || (queue s p q).st == .held

def queueMask (qs : List (Fin 16)) : Nat := (qs.map fun q => 2 ^ q.val).sum

def doDiscardRecordPost (p : Fin 4) (s : State) : State :=
  match (polder s p).discard with
  | none => s
  | some (cls, id) =>
    let qs := recordQueues s p
    let s := toEdge s p 1
    let s := qs.foldl (discardQueue cls id p) s
    let s := polderEvent s p 0x0501 (leBytes 1 cls ++ zeros 1 ++ leBytes 2 (queueMask qs) ++ leBytes 4 id)
    let s := floodFault s p
    let now := leveeTime s
    let s := modReport s id fun r => if r.record = 0 then { r with record := now } else r
    modPolder s p fun P => { P with st := .repairing, discard := none }

def execDiscardRecordPost (p : Fin 4) (s : State) : Host.Outcome State Fault Refusal := .next (doDiscardRecordPost p s)

/-! ## REPAIR_DONE (R343-R346) -/

/-- Poison the block at an address, and retire its page (R227) unless the list of pages done names it. -/
def poisonOne (x : State × List Place) (a : Nat) : State × List Place :=
  let s := poisonBlock x.1 a
  match (ownerOf s a).bind fun p => place s p a with
  | none => (s, x.2)
  | some y =>
    let page := { y with pos := 0 }
    if x.2.contains page then (s, x.2) else (retirePage s y.die y.chan y.page, page :: x.2)

/-- Poison every block of a range (R226, R229); in the S-tier every word fails. Each page of it is retired once. -/
def poisonRange (s : State) (a n : Nat) : State :=
  let k := eccUnit a
  ((List.range ((n + k - 1) / k)).foldl (fun x i => poisonOne x (a + k * i)) (s, [])).1

/-- The retraining of the sites that the fault named; true when one runs at a lower bin than before. -/
def retrainSites (s : State) (bins : List (Fin 32 × Nat)) (id : Nat) : State × Bool :=
  bins.foldl (fun (x : State × Bool) y =>
    let old := binCode (site x.1 y.1)
    (settleSite x.1 y.1 (if y.2 ≤ 3 then some y.2 else none) id, x.2 || (decide (y.2 ≤ 3) && decide (old < y.2)))) (s, false)

/-- Ports of a repaired polder: a failed one comes up anew, the levee lanes in fallback train again (R274, R343). -/
def repairPorts (s : State) (p : Fin 4) : State :=
  (portsOf s p).foldl (fun s j =>
    if (port s j).st = .failed then trainPort s j else trainLevee s j) s

/-! ### Channels and pages (R228, R229) -/

/-- Retire a channel within a repair (R229): it needs a channel entry and room in the reserve for its copies. The Bool
says whether the channel is retired now. -/
def retireChannel (s : State) (d : Fin 4) (l id : Nat) : State × Bool :=
  if (retiredChannels s d.val).contains l then (s, true) else
  let t := makeRemap s (mkRemap 7 d.val l 0) id
  if 0 < poolRemaining s ⟨7, d.val, 0⟩ ∧ 256 * shownU s d ≤ availBlocks t d.val (regionBlocks t d) then (t, true) else (s, false)

/-- The channels with more than 64 retired pages are retired; false when one could not be. -/
def retireCrowded (s : State) (d : Fin 4) (id : Nat) : State × Bool :=
  (crowded s d.val).foldl (fun x l => let r := retireChannel x.1 d l id; (r.1, x.2 && r.2)) (s, true)

/-- The channel of the die that holds the most retired pages, the lowest of equals. -/
def busiest (s : State) (d : Fin 4) : Nat :=
  let ls := (retiredPages s d.val).map (· / 2 ^ 21)
  (List.range 256).foldl (fun a l => if ls.count a < ls.count l then l else a) 0

/-- Step 3 of R228: the pending retirement of a page. When page entries are lacking, the channel with the most retired
pages is retired first. False when the page could not be retired; a page that has an entry already keeps that. -/
def mendPage (s : State) (d : Fin 4) (u id : Nat) : State × Bool :=
  let l := u / 2 ^ 21
  let again (s : State) : State × Bool :=
    if (retiredChannels s d.val).contains l then (s, true) else
    match remapPage s d l (u % 2 ^ 21) id with
    | some t => (t, true)
    | none => (s, false)
  if freePageEntries s d.val = 0 ∧ !(retiredPages s d.val).contains u then
    let x := retireChannel s d (busiest s d) id
    if x.2 then again x.1 else (s, false)
  else again s

/-- A page whose retirement waits is retired, unless the repair has made its remap; one that cannot be waits on. -/
def mendDue (made : List DWord) (d : Fin 4) (id : Nat) (x : State × Bool) (u : Nat) : State × Bool :=
  let y := if made.any (sameUnit (mkRemap 6 d.val u 0)) then (x.1, true) else mendPage x.1 d u id
  (if y.2 then pageMet y.1 d u else y.1, x.2 && y.2)

/-- The pages of a die whose retirement waits. -/
def dueOf (s : State) (d : Fin 4) : List Nat := (s.pagesDue.filter fun y => y.1 == d).map (·.2)

/-- What a repair does to the D-tier of a C-die: the pages whose retirement waits for it, then crowded channels. -/
def mendDie (made : List DWord) (id : Nat) (x : State × Bool) (d : Fin 4) : State × Bool :=
  let y := (dueOf x.1 d).foldl (mendDue made d id) x
  let z := retireCrowded y.1 d id
  (z.1, y.2 && z.2)

/-- Both copies of an item of the polder have failed (R356). -/
def itemsLost (s : State) (p : Fin 4) : Bool := (polder s p).bad0 &&& (polder s p).bad1 != 0

/-- A soft map entry whose copy fails its complement, as the slot's soft section has it (R355); one that the section does
not hold yet is lost. -/
def rebuildEntry (b : Option Blob) (i : Nat) (c : Comp 64) : Option (Comp 64) :=
  if compAgrees c then some c else b.bind fun b => b.remaps[i]?

/-- The spare maps rebuilt from the fuses and the soft section, the trim words from the fuses (R355). -/
def rebuildMaps (s : State) : State :=
  let b := (pickSlot s.flash).map (·.2)
  { s with softRemaps := (s.softRemaps.mapIdx (rebuildEntry b)).reduceOption, trims := s.fuses.trims }

def failOne (s : State) (d : Fin 4) : State := { s with failedDies := vmod s.failedDies d fun _ => true }

/-- The C-dies of a repair without the units, or with a page that no entry can retire any more, are failed (R228, R346). -/
def failDies (s : State) (r : Repair) (ds : List (Fin 4)) : State :=
  let s := if r.die < 4 ∧ 1 ≤ r.kind ∧ r.kind ≤ 3 then failOne s (fin4 r.die) else s
  (ds.filter fun d => !(dueOf s d).isEmpty && freePageEntries s d.val == 0 && poolRemaining s ⟨7, d.val, 0⟩ == 0).foldl failOne s

/-- The polders that a repair still serves: one of its polders that has been closed since, or opened again, is none. -/
def servedPolders (s : State) (r : Repair) : List (Fin 4) :=
  r.polders.filter fun p => inRepair s p || (polder s p).st == .faulted

/-- The outcome of R346: `mended` says that every spare which the module's own tables decide on could be had. -/
def repairOutcome (s : State) (ps : List (Fin 4)) (x : RepairResult) (mended : Bool) : Nat :=
  if x.missing || !mended then 2
  else if ps.any (itemsLost s) then 3
  else if x.poisoned.isEmpty ∧ x.unfinished.isEmpty then 0 else 1

/-- EV_REPAIR_DONE (R345): an event of each polder, or of the module for class C3 and for a repair of no polder (R312). A
repair for which no record was posted has no duration. -/
def repairEvent (s : State) (r : Repair) (x : RepairResult) (spares outcome : Nat) (lower : Bool) : State :=
  let ms := if r.record = 0 then 0 else (leveeTime s - r.record).toNat / 1000000
  let flags := (!x.poisoned.isEmpty).toNat + 2 * (!x.unfinished.isEmpty).toNat + 4 * lower.toNat
  let pay := leBytes 4 r.id ++ leBytes 1 outcome ++ leBytes 1 r.cls ++ leBytes 1 (min 255 spares) ++
    leBytes 1 flags ++ leBytes 4 ms
  if r.cls = 3 ∨ r.polders.isEmpty then moduleEvent s 0x0502 pay
  else r.polders.foldl (fun s p => polderEvent s p 0x0502 pay) s

/-- The state of a polder after the repair: one under repair is open, or faulted until CLOSE; one that the CLOSE of R377 has
closed is closed; any other stays as it is. -/
def repairedState (outcome : Nat) (st : PState) : PState :=
  match st with
  | .repairing => if 2 ≤ outcome then .faulted else .opened
  | .shut => .closed
  | st => st

/-- The polder after the repair, its items restored. A deferred VF reset then follows. -/
def endPolderRepair (outcome : Nat) (s : State) (p : Fin 4) : State :=
  let s := modPolder s p fun P => { P with st := repairedState outcome P.st, bad0 := 0, bad1 := 0 }
  if (func s (vf p)).resetting then vfAct s p else s

def closeReport (r : Repair) (x : RepairResult) (spares : List DWord) (outcome : Nat) (now : DWord) : Repair :=
  { r with outcome := outcome, done := now, spares := spares, unfinished := x.unfinished, poisoned := x.poisoned,
           active := false }

/-- The discard records of every polder of the repair have been posted, and no CLOSE runs on one (R377). -/
def repairReady (s : State) (r : Repair) : Bool :=
  r.active && r.polders.all fun p => (polder s p).discard.isNone &&
    (polder s p).st != .closing && (polder s p).st != .faultedClosing

/-- The C-dies that a repair works on: those of the polders it serves, and the one the fault named. -/
def repairDies (s : State) (r : Repair) : List (Fin 4) :=
  ((servedPolders s r).flatMap (diesOf s) ++ if r.die < 4 then [fin4 r.die] else []).eraseDups

/-- The end of a repair; a C4 fault has stopped every repair (R368). -/
def doRepairDone (id : Nat) (x : RepairResult) (s : State) : State :=
  if s.boot ≠ .ready ∧ s.boot ≠ .training then s else
  match s.reports.find? fun r => r.id == id with
  | none => s
  | some r =>
    if !repairReady s r then s else
    let ps := servedPolders s r
    let ds := repairDies s r
    let s := rebuildMaps ((ps.flatMap (diesOf s)).foldl clearClusters s)
    let known := s.softRemaps.length
    let t := retrainSites (makeRemaps s x.remaps id) x.bins id
    let m := ds.foldl (mendDie x.remaps id) (t.1, true)
    let s := ps.foldl repairPorts m.1
    let s := x.poisoned.foldl (fun s y => poisonRange s y.1 y.2) s
    let spares := (s.softRemaps.drop known).map (·.val)
    let outcome := repairOutcome s ps x m.2
    let s := if outcome = 2 then failDies s r ds else s
    let now := leveeTime s
    let s := modReport { s with slotDue := true } id fun r => closeReport r x spares outcome now
    let s := repairEvent s r x spares.length outcome t.2
    ps.foldl (endPolderRepair outcome) s

def execRepairDone (id : Nat) (x : RepairResult) (s : State) : Host.Outcome State Fault Refusal := .next (doRepairDone id x s)

/-! ## Heartbeats and scans -/

/-- The core 0-4 whose work the spare core 5 does or is to do: the one a remap names, or the first that was lost. -/
def spareRole (s : State) : Option Nat :=
  (((remapsInForce s).find? fun v => rmKind v == 0xC).map rmUnit).or (s.coresLost.find? fun i => decide (i < 5))

/-- Core i stops: the core role that no core serves any more. The first loss among 0-4 goes to the spare. -/
def roleLost (s : State) (i : Nat) : Option Nat :=
  if i = 5 then spareRole s
  else if (spareRole s).isNone ∧ !s.coresLost.contains 5 then none else some i

/-- A lost core with no spare left lowers the number of dispatch cores (0-3) or management cores (4); none left of a
kind is a C4 fault (R347). A core whose loss is known, or that a remap has replaced, is not in use. -/
def loseCore (s : State) (i : Nat) : State :=
  if s.coresLost.contains i || (i != 5 && (replOf s 0xC 0 i).isSome) then s else
  let info := faultInfo 0x0B 0xC 4 i
  let t := { s with coresLost := s.coresLost ++ [i] }
  match roleLost s i with
  | none => faultC3 (raiseCrossed s t [⟨0xC, 4, 0⟩]) info
  | some k =>
    let s := if k < 4 then { t with dispatchCores := s.dispatchCores - 1 } else { t with mgmtCores := s.mgmtCores - 1 }
    if s.dispatchCores = 0 ∨ s.mgmtCores = 0 then faultC4 s info else faultC3 s info

/-- Every 100 µs: the cores whose heartbeat is missing, in core order. -/
def doKeeperHeartbeat (beats : List Bool) (s : State) : State :=
  if s.boot ≠ .ready ∧ s.boot ≠ .training then s
  else ((List.range 6).filter fun i => !beats.getD i true).foldl loseCore s

def execKeeperHeartbeat (beats : List Bool) (s : State) : Host.Outcome State Fault Refusal := .next (doKeeperHeartbeat beats s)

/-- The die of a spare map entry (R349): its C-die (kinds 1 to 8, S-tier kinds included), the C-die that a UCIe remap is
fused on, else the I-die. -/
def mapDie (v : DWord) : Nat :=
  if 1 ≤ rmKind v ∧ rmKind v ≤ 8 then rmDie v else if rmKind v = 0xB then linkDie (rmUnit v / 16) else 4

/-- The 1 ms scan of the spare maps: C2 for a C-die or S-die map, C3 for the I-die's. -/
def doSpareMapScan (s : State) : State :=
  if s.boot ≠ .ready ∧ s.boot ≠ .training then s else
  match (s.softRemaps ++ s.fuses.remaps.map (·.2)).find? fun c => !compAgrees c with
  | none => s
  | some c =>
    let d := mapDie c.val
    if d < 4 then faultC2 s (diePolders s d) (faultInfo 0x0C (rmKind c.val) d (rmUnit c.val))
    else faultC3 s (faultInfo 0x0C (rmKind c.val) 4 (rmUnit c.val))

def execSpareMapScan (s : State) : Host.Outcome State Fault Refusal := .next (doSpareMapScan s)

/-- The C-die behind a die number of R353's order; 4 for the I-die. -/
def trimDie (k : Nat) : Nat := if k ≤ 4 then k else (k - 5) / 2

/-- The 1 ms scan of the trim words: C2 for a C-die or S-die, C4 for the I-die. -/
def doTrimScan (s : State) : State :=
  if s.boot ≠ .ready ∧ s.boot ≠ .training then s else
  match s.trims.find? fun x => !compAgrees x.2 with
  | none => s
  | some x =>
    let d := trimDie x.1
    if d < 4 then faultC2 s (diePolders s d) (faultInfo 0x0C 0 d 0) else faultC4 s (faultInfo 0x0C 0 4 0)

def execTrimScan (s : State) : Host.Outcome State Fault Refusal := .next (doTrimScan s)

/-! ## Margin tests (R349, R352) -/

def startMargin (s : State) (d : Fin 4) : State := { s with marginDies := vmod s.marginDies d fun _ => true }

def doMarginTestAutoStart (d : Fin 4) (s : State) : State :=
  if s.boot = .ready ∧ dieIdle s d then startMargin s d else s

def execMarginTestAutoStart (d : Fin 4) (s : State) : Host.Outcome State Fault Refusal := .next (doMarginTestAutoStart d s)

/-- The page that a failing page serves: the retired page that it replaces, else itself (R227). -/
def servedPage (s : State) (d : Fin 4) (u : Nat) : Nat :=
  match (remapsInForce s).find? fun v => rmKind v == 6 && rmDie v == d.val && rmRepl v == u &&
      replOf s 6 d.val (rmUnit v) == some u with
  | some v => rmUnit v
  | none => u

/-- Retire a unit: a page under R227, any other by its remap. A page that is retired already serves nothing. -/
def retireUnit (s : State) (d : Fin 4) (v : DWord) : State :=
  if rmKind v = 6 then
    let u := servedPage s d (rmUnit v)
    if u = rmUnit v ∧ (retiredPages s d.val).contains u then s else retirePage s d (u / 2 ^ 21) (u % 2 ^ 21)
  else makeRemap s v 0

/-- Promote a soft remap to the fuse bank of its die while that has a free entry (R349). -/
def promote (s : State) (v : DWord) : State :=
  match fuseBank v with
  | none => s
  | some b =>
    if fusesUsed s b < 64 ∧ !(fuseRemaps s).contains v then
      { s with fuses := { s.fuses with remaps := s.fuses.remaps ++ [(b, heldComp v)] } }
    else s

/-- The soft remap that is made last for a unit. -/
def lastSoft (s : State) (v : DWord) : Option DWord := ((s.softRemaps.map (·.val)).filter (sameUnit v)).getLast?

/-- The active cluster behind a physical cluster, and a free spare cluster of the die (R3, R347). -/
def clusterFor (s : State) (d : Fin 4) (phys : Nat) : Option (Nat × Nat) :=
  let active := (List.range 64).find? fun c => physCluster s (fin256 (64 * d.val + c)) == phys
  let spare := ([64, 65] : List Nat).find? fun k => !((remapsInForce s).any fun v => rmKind v == 2 && rmDie v == d.val && rmRepl v == k)
  match active, spare with
  | some c, some k => some (c, k)
  | _, _ => none

/-- A cube or lane fails and its cluster has no spare of its kind left: a spare cluster takes the cluster's place; with none
left the unit is recorded, and the C-die is failed (R346, R352). -/
def nominalEmpty (d : Fin 4) (s : State) (v : DWord) : State :=
  let record (s : State) : State := { s with history := s.history ++ [v] }
  if rmKind v = 1 ∨ rmKind v = 3 then
    match clusterFor s d (rmUnit v / 256) with
    | some (c, k) => makeRemap s (mkRemap 2 d.val c k) 0
    | none => failOne (record s) d
  else if rmKind v = 2 then failOne (record s) d else record s

/-- A unit that fails at nominal conditions. A remap that names the spare in service says that the replaced unit has failed:
the remap is promoted (R349); one that names another spare says that the unit in service has: it is retired. -/
def nominalUnit (d : Fin 4) (s : State) (v : DWord) : State :=
  if rmKind v ≠ 6 ∧ lastSoft s v = some v then promote s v
  else if rmKind v ≠ 6 ∧ replOf s (rmKind v) (rmDie v) (rmUnit v) = some (rmRepl v) then s
  else if rmKind v = 6 ∨ 0 < poolRemaining s (poolOf s v) then retireUnit s d v
  else nominalEmpty d s v

/-- A unit in service that fails only under stress: retired while its pool keeps a spare afterwards, else recorded. -/
def stressUnit (d : Fin 4) (s : State) (v : DWord) : State :=
  if rmKind v ≠ 6 ∧ replOf s (rmKind v) (rmDie v) (rmUnit v) = some (rmRepl v) then s
  else if 2 ≤ poolRemaining s (poolOf s v) then retireUnit s d v
  else { s with history := s.history ++ [v] }

def doMarginTestDone (d : Fin 4) (x : MarginResult) (s : State) : State :=
  if s.boot ≠ .ready ∨ !(s.marginDies.get d) then s else
  let s := { s with marginDies := vmod s.marginDies d fun _ => false }
  x.stress.foldl (stressUnit d) (x.nominal.foldl (nominalUnit d) s)

def execMarginTestDone (d : Fin 4) (x : MarginResult) (s : State) : Host.Outcome State Fault Refusal :=
  .next (doMarginTestDone d x s)

/-! ## SPARE_REPORT (R353, R354) -/

/-- The pools of the summary: each kind on each die that has it. -/
def poolRows : List (Nat × Nat) :=
  (List.range 13).flatMap fun k => ((List.range 5).filter fun d => 0 < poolInstances (k + 1) d).map fun d => (k + 1, d)

def poolRow (s : State) (x : Nat × Nat) : List Byte :=
  let n := poolInstances x.1 x.2
  let used := (if x.1 = 6 then [⟨6, x.2, 0⟩] else usedPools s).filter fun y => y.kind == x.1 && y.die == x.2
  let gone := (used.map fun y => poolInitial x.1 - poolRemaining s y).sum
  leBytes 1 x.1 ++ leBytes 1 x.2 ++ leBytes 2 n ++ leBytes 4 (n * poolInitial x.1) ++
  leBytes 4 (n * poolInitial x.1 - gone) ++ leBytes 2 (used.filter (poolLow s)).length ++
  leBytes 2 (used.filter fun y => poolRemaining s y == 0).length

def spareSummary (s : State) : List Byte :=
  leBytes 4 s.repairs ++ leBytes 4 s.lastRepair ++ leBytes 1 (maskOf s.marginDies.toList) ++
  leBytes 1 (maskOf s.failedDies.toList) ++ zeros 2 ++ leBytes 4 poolRows.length ++
  ((List.range 13).flatMap fun i => leBytes 1 (fusesUsed s i)) ++ zeros 3 ++
  (s.corrected.toList.flatMap fun x => leBytes 8 x.toNat) ++ poolRows.flatMap (poolRow s)

def spareRsvd (b : List Byte) : Bool := zeroAt b 1 1 && zeroAt b 3 1 && zeroAt b 0xC 4

def serveSpare (s : State) (op : Nat) (act : State → List Byte → Answer) : State :=
  serve s 0 6 16 (opIs op) fun s b => if spareRsvd b then act s b else refuse s .descInvalid

def doSpareReportSummary (s : State) : State := serveSpare s 0 fun s _ => accept s (spareSummary s)

def execSpareReportSummary (s : State) : Host.Outcome State Fault Refusal := .next (doSpareReportSummary s)

/-- The repair report, with up to 64 poisoned ranges from an index on. -/
def repairReport (r : Repair) (first : Nat) : List Byte :=
  let ranges := (r.poisoned.drop first).take 64
  let upd := r.unfinished.take 16
  leBytes 4 r.id ++ leBytes 1 ((r.polders.map fun p => 2 ^ p.val).sum) ++ leBytes 1 r.cls ++ leBytes 1 r.outcome ++
  leBytes 1 (min 255 r.spares.length) ++ leBytes 8 r.detected.toNat ++ leBytes 8 r.record.toNat ++ leBytes 8 r.done.toNat ++
  leBytes 1 r.source ++ leBytes 1 r.kind ++ leBytes 1 (if r.die < 4 then r.die else 0xFF) ++ zeros 1 ++ leBytes 4 r.unit ++
  zeros 8 ++ padTo 64 ((r.spares.take 8).flatMap fun v => leBytes 8 v.toNat) ++ leBytes 1 upd.length ++ zeros 3 ++
  leBytes 4 r.poisoned.length ++ leBytes 4 first ++ leBytes 2 ranges.length ++ zeros 2 ++
  padTo 128 (upd.flatMap fun u => leBytes 1 u.1.val ++ leBytes 1 u.2.1.val ++ zeros 2 ++ leBytes 4 u.2.2.toNat) ++
  ranges.flatMap fun x => leBytes 8 x.1 ++ leBytes 8 x.2

def doSpareReportRepair (s : State) : State :=
  serveSpare s 1 fun s b =>
    match s.reports.find? fun r => r.id == fld b 4 4 with
    | some r => accept s (repairReport r (fld b 8 4))
    | none => refuse s .descInvalid

def execSpareReportRepair (s : State) : Host.Outcome State Fault Refusal := .next (doSpareReportRepair s)

/-- Start margin tests on the C-dies of a mask, all of them in no open polder. -/
def doSpareReportMarginTest (s : State) : State :=
  serveSpare s 2 fun s b =>
    let ds := dies4.filter fun d => (BitVec.ofNat 8 (fld b 2 1)).getLsbD d.val
    if 16 ≤ fld b 2 1 then refuse s .descInvalid
    else if ds.any fun d => !dieIdle s d then refuse s .accessDenied
    else accept (ds.foldl startMargin s)

def execSpareReportMarginTest (s : State) : Host.Outcome State Fault Refusal := .next (doSpareReportMarginTest s)

end Sys2Proof.Machine
end

