-- ==== Sys2Proof/Machine/Ring.lean ====
section
/-! DEFINITION. NOP, EVENT_SIGNAL, EVENT_WAIT (R308), MARK (R427), entries that fail R302, and the queue's time-outs
and link errors (R308, R314, R315). -/

namespace Sys2Proof.Machine

/-! ## NOP, EVENT_SIGNAL, EVENT_WAIT -/

def doNop (p : Fin 4) (q : Fin 16) (e : Entry) (s : State) : State :=
  runEntry s p q e 0x13 (fun _ => none) fun s => endCmd s p q e.seq .ok

def execNop (p : Fin 4) (q : Fin 16) (e : Entry) (s : State) : Host.Outcome State Fault Refusal := .next (doNop p q e s)

def inlEventCheck (e : Entry) : Option Status := if inlEvent e < 4096 then none else some .descInvalid

/-- The event is signalled with the completion (signalOwn): every earlier command of the queue has posted. -/
def doEventSignal (p : Fin 4) (q : Fin 16) (e : Entry) (s : State) : State :=
  runEntry s p q e 0x10 (fun _ => inlEventCheck e) fun s => endCmd s p q e.seq .ok

def execEventSignal (p : Fin 4) (q : Fin 16) (e : Entry) (s : State) : Host.Outcome State Fault Refusal :=
  .next (doEventSignal p q e s)

def doEventWait (p : Fin 4) (q : Fin 16) (e : Entry) (s : State) : State :=
  runEntry s p q e 0x11 (fun _ => inlEventCheck e) fun s =>
    if inlValue e ≤ tabGet 0 (polder s p).events (inlEvent e) then endCmd s p q e.seq .ok
    else setBody s p q e.seq (.wait (inlEvent e) (inlValue e))

def execEventWait (p : Fin 4) (q : Fin 16) (e : Entry) (s : State) : Host.Outcome State Fault Refusal :=
  .next (doEventWait p q e s)

/-- The timeout of an EVENT_WAIT that still waits (R308). -/
def doEventWaitTimeout (p : Fin 4) (q : Fin 16) (n : Word) (s : State) : State :=
  match liveCmd s p q n with
  | some c => match c.body with
    | .wait _ _ => endCmd s p q n .timeout
    | _ => s
  | none => s

def execEventWaitTimeout (p : Fin 4) (q : Fin 16) (n : Word) (s : State) : Host.Outcome State Fault Refusal :=
  .next (doEventWaitTimeout p q n s)

/-! ## MARK -/

/-- The mark record: marker ID and kind after the snapshot (R425). -/
def markRecord (s : State) (p : Fin 4) (q : Fin 16) (e : Entry) : State :=
  commandRecord s p 3 q e ((inlBytes e).take 5)

def doMark (p : Fin 4) (q : Fin 16) (e : Entry) (s : State) : State :=
  runEntry s p q e 0x0F (fun _ => if markOk e then none else some .descInvalid) fun s =>
    endCmd (markRecord s p q e) p q e.seq .ok

def execMark (p : Fin 4) (q : Fin 16) (e : Entry) (s : State) : Host.Outcome State Fault Refusal := .next (doMark p q e s)

/-! ## Entries that fail R302 -/

def doInvalidOpcodeEntry (p : Fin 4) (q : Fin 16) (e : Entry) (s : State) : State :=
  if mayTake s p q && inTurn s p q then
    let n := nextSeq (queue s p q)
    match entryStatus n e with
    | some st => endCmd (startCmd s p q (mutedEntry n e) false) p q n st
    | none => s
  else s

def execInvalidOpcodeEntry (p : Fin 4) (q : Fin 16) (e : Entry) (s : State) : Host.Outcome State Fault Refusal :=
  .next (doInvalidOpcodeEntry p q e s)

/-! ## The queue itself -/

def doCqCoalesceTimeout (p : Fin 4) (q : Fin 16) (s : State) : State :=
  if 0 < (queue s p q).unsignalled then sendQueueMsix s p q else s

def execCqCoalesceTimeout (p : Fin 4) (q : Fin 16) (s : State) : Host.Outcome State Fault Refusal :=
  .next (doCqCoalesceTimeout p q s)

/-- The bit of the AER uncorrectable error status that reports a failed access (R315; its place is that of the base
specification, log 82). -/
def aerBit : LinkError → Nat
  | .poisoned => 12
  | .timeout => 14
  | .completerAbort => 15
  | .unsupportedRequest => 20

/-- Report an error of the function through AER (R281, R315). -/
def reportAer (s : State) (f : Fin 5) (k : LinkError) : State :=
  modFunc s f fun F => { F with config := { F.config with aerUncor := F.config.aerUncor ||| (1#32 <<< aerBit k) } }

/-- A ring access failed on the link: the queue takes no further entry and posts nothing more; the error is reported
through AER (R315). -/
def doQueueLinkError (p : Fin 4) (q : RingFailure) (s : State) : State :=
  match (queue s p q.queue).st with
  | .running | .held =>
    reportAer (raiseCause (modQueue s p q.queue fun Q => { Q with st := .error }) (vf p) 4) (vf p) q.kind
  | _ => s

def execQueueLinkError (p : Fin 4) (q : RingFailure) (s : State) : Host.Outcome State Fault Refusal :=
  .next (doQueueLinkError p q s)

end Sys2Proof.Machine
end

