-- ==== Sys2Proof/Machine/Smbus.lean ====
section
/-! DEFINITION. The SMBus target (R447). What a read returns stands in `lastRead`; a read that is NACKed returns no
byte. -/

namespace Sys2Proof.Machine

/-- The interface answers from the end of fuse load. -/
def smbAnswers (s : State) : Bool := s.modPwrgd && s.boot != .off && s.boot != .fuses

/-- The Packet Error Check of SMBus: CRC-8 with the polynomial x^8 + x^2 + x + 1 (log 101). -/
def crc8 (bs : List Byte) : Byte :=
  bs.foldl (fun c b => (List.range 8).foldl (fun (c : Byte) _ => if c.getLsbD 7 then (c <<< 1) ^^^ 0x07 else c <<< 1) (c ^^^ b)) 0

/-- The module's address on the bus (R447). -/
def smbAddress : Nat := 0x58 + Config.smbAddr.toNat

/-- The Packet Error Check byte of a read of command code `code`: over the address bytes, the code, the byte count of a block
read, and the content. -/
def smbPec (code : Byte) (block : Bool) (bs : List Byte) : Byte :=
  crc8 (leBytes 1 (2 * smbAddress) ++ [code] ++ leBytes 1 (2 * smbAddress + 1) ++
    (if block then leBytes 1 bs.length else []) ++ bs)

/-- A read of a command code: the content, and the Packet Error Check that is always returned. -/
def smb (s : State) (code : Byte) (bs : List Byte) (block : Bool := false) : State :=
  { s with lastRead := if smbAnswers s then bs ++ [smbPec code block bs] else [] }

/-- Boot progress code (R327, R446). -/
def progressCode (b : Boot) : Nat :=
  match b with
  | .off | .fuses => 0x01
  | .image => 0x02
  | .config => 0x03
  | .training => 0x04
  | .ready => 0x10
  | .recovery => 0xE0
  | .offline | .thermalHold => 0xF0

def doSmbBootProgress (s : State) : State := smb s 0 (leBytes 1 (progressCode s.boot))
def execSmbBootProgress (s : State) : Host.Outcome State Fault Refusal := .next (doSmbBootProgress s)

/-- STATE.MODULE (R285); before the module is in one of its three states the value is free (log 27). -/
def doSmbModuleState (s : State) : State :=
  match s.boot with
  | .ready => smb s 1 [1]
  | .recovery => smb s 1 [2]
  | .offline => smb s 1 [3]
  | _ => smb (nextDraw s) 1 [Config.freeByte s.draws 0]
def execSmbModuleState (s : State) : Host.Outcome State Fault Refusal := .next (doSmbModuleState s)

/-- Average input power: over 1 s and a multiple of 10, or over 1 ms and unrounded in a debug state (R387). -/
def shownPower (s : State) : Nat :=
  let a := average s.power (if debugActive s then 100 else 100000)
  let w := if a.2 = 0 then 0 else a.1 / a.2
  if debugActive s then w else w / 10 * 10

def doSmbInputPower (s : State) : State := smb s 2 (leBytes 2 (shownPower s))
def execSmbInputPower (s : State) : Host.Outcome State Fault Refusal := .next (doSmbInputPower s)

def doSmbPowerLimit (s : State) : State := smb s 3 (leBytes 2 s.power.cap)
def execSmbPowerLimit (s : State) : Host.Outcome State Fault Refusal := .next (doSmbPowerLimit s)

def doSmbSerial (s : State) : State := smb s 4 (leBytes 8 s.fuses.serial.toNat) true
def execSmbSerial (s : State) : Host.Outcome State Fault Refusal := .next (doSmbSerial s)

/-- Zero in recovery mode. -/
def doSmbFwVersion (s : State) : State := smb s 5 (leBytes 4 (if s.boot = .recovery then 0 else s.fwVersion.toNat)) true
def execSmbFwVersion (s : State) : Host.Outcome State Fault Refusal := .next (doSmbFwVersion s)

def doSmbLifecycle (s : State) : State := smb s 6 (leBytes 1 s.fuses.lifecycle)
def execSmbLifecycle (s : State) : Host.Outcome State Fault Refusal := .next (doSmbLifecycle s)

/-- A temperature of 0.25 °C units in °C as a byte. -/
def degrees (t : Int) : Nat := min 255 (t / 4).toNat

def hottest (ts : List Int) : Int := ts.foldl max (ts.headD 0)

def doSmbTemperatures (s : State) : State :=
  let T := s.power.temps
  smb s 7 ([hottest T.cdies, T.iDie, hottest (s.sites.toList.map (·.temp)), T.inlet, T.outlet].flatMap
    (fun t => leBytes 1 (degrees t)) ++ zeros 3) true
def execSmbTemperatures (s : State) : Host.Outcome State Fault Refusal := .next (doSmbTemperatures s)

def doSmbAlertCause (s : State) : State := smb s 8 [s.alert]
def execSmbAlertCause (s : State) : Host.Outcome State Fault Refusal := .next (doSmbAlertCause s)

/-- Causes that are still present: a level of 2 or above, a trip, a module offline after a C4 fault. -/
def presentCauses (s : State) : List Nat :=
  (if s.power.dieLevel.toList.any (fun l => decide (2 ≤ l)) || decide (2 ≤ s.power.iLevel) ||
      s.sites.toList.any (fun S => decide (4 ≤ S.level)) then [0] else []) ++
  (if s.thermtrip then [1] else []) ++ (if s.boot = .offline then [2] else [])

/-- The Alert Response Address (0x0C, so 0x19 for a read): answered while SMB_ALERT# is low, which clears it and the causes; a cause still
present sets them again. -/
def doSmbAlertResponse (s : State) : State :=
  if smbAnswers s && s.smbAlert then
    (presentCauses s).foldl raiseAlert
      { s with lastRead := leBytes 1 smbAddress ++ [crc8 (0x19 :: leBytes 1 (2 * smbAddress))], alert := 0, smbAlert := false }
  else { s with lastRead := [] }
def execSmbAlertResponse (s : State) : Host.Outcome State Fault Refusal := .next (doSmbAlertResponse s)

end Sys2Proof.Machine
end

