-- ==== Sys2Proof/Machine/Time.lean ====
section
/-! DEFINITION. Levee time between modules (R420, R421). -/

namespace Sys2Proof.Machine

/-- Ports whose levee lane is trained and carries tokens. -/
def leveePorts (s : State) : List (Fin 6) :=
  ([0, 1, 2, 3, 4, 5] : List (Fin 6)).filter fun j => portUp (port s j) && !(port s j).fallback

def doTimeTokenSend (s : State) : State := (leveePorts s).foldl (fun s j => sendClear s j 4 (leveeTime s)) s

def execTimeTokenSend (s : State) : Host.Outcome State Fault Refusal := .next (doTimeTokenSend s)

/-- A time-step record in the trace ring of every open polder (R421, R425). -/
def timeStepRecords (s : State) (before after : DWord) : State :=
  (([0, 1, 2, 3] : List (Fin 4)).filter (isOpen s)).foldl (fun s p =>
    traceRecord s p 5 0xFF false 0 0 0 0 (leBytes 8 before.toNat ++ leBytes 8 after.toNat)) s

/-- The estimate is ahead by d > 64 ns: a step. The other neighbours are ahead by d less. -/
def timeStep (s : State) (j : Fin 6) (d : Nat) : State :=
  let before := leveeTime s
  let s := { s with correction := s.correction + BitVec.ofNat 64 d, slew := (s.slew.map (· - d)).set j 0 }
  timeStepRecords s before (leveeTime s)

def takeEstimate (s : State) (j : Fin 6) (est : DWord) : State :=
  let d := est.toNat - (leveeTime s).toNat
  if 64 < d then timeStep s j d else { s with slew := s.slew.set j d }

def doTimeTokenReceived (j : Fin 6) (est : DWord) (s : State) : State :=
  if (leveePorts s).contains j then returnCredit (takeEstimate s j est) j else s

def execTimeTokenReceived (j : Fin 6) (est : DWord) (s : State) : Host.Outcome State Fault Refusal :=
  .next (doTimeTokenReceived j est s)

/-- 5 µs have passed: while a neighbour is ahead, the correction rises by 1 ns. -/
def doTimeSlewTick (s : State) : State :=
  if s.slew.toList.any (fun d => decide (0 < d)) then
    { s with correction := s.correction + 1, slew := s.slew.map (· - 1) }
  else s

def execTimeSlewTick (s : State) : Host.Outcome State Fault Refusal := .next (doTimeSlewTick s)

end Sys2Proof.Machine
end

