-- ==== Sys2Proof/Machine/Dispatch.lean ====
section
/-! DEFINITION. What each command does: one arm per constructor, one call of its meaning. -/

namespace Sys2Proof.Machine

def exec (i : Instr) (s : State) : Host.Outcome State Fault Refusal :=
  match i with
  | .mm p q e => Sys2Proof.Machine.execMm p q e s
  | .vk p q e => Sys2Proof.Machine.execVk p q e s
  | .move p q e h => Sys2Proof.Machine.execMove p q e h s
  | .fill p q e => Sys2Proof.Machine.execFill p q e s
  | .crc p q e => Sys2Proof.Machine.execCrc p q e s
  | .bucketAdd p q e => Sys2Proof.Machine.execBucketAdd p q e s
  | .reduce p q e => Sys2Proof.Machine.execReduce p q e s
  | .gather p q e => Sys2Proof.Machine.execGather p q e s
  | .scatter p q e => Sys2Proof.Machine.execScatter p q e s
  | .update p q e => Sys2Proof.Machine.execUpdate p q e s
  | .stepCmd p q e => Sys2Proof.Machine.execStepCmd p q e s
  | .stateSave p q e => Sys2Proof.Machine.execStateSave p q e s
  | .stateLoad p q e => Sys2Proof.Machine.execStateLoad p q e s
  | .replayCheck p q e => Sys2Proof.Machine.execReplayCheck p q e s
  | .mark p q e => Sys2Proof.Machine.execMark p q e s
  | .eventSignal p q e => Sys2Proof.Machine.execEventSignal p q e s
  | .eventWait p q e => Sys2Proof.Machine.execEventWait p q e s
  | .barrier p q e => Sys2Proof.Machine.execBarrier p q e s
  | .nop p q e => Sys2Proof.Machine.execNop p q e s
  | .invalidOpcodeEntry p q e => Sys2Proof.Machine.execInvalidOpcodeEntry p q e s
  | .stepFenceReached p => Sys2Proof.Machine.execStepFenceReached p s
  | .stateSaveFenceReached p => Sys2Proof.Machine.execStateSaveFenceReached p s
  | .stateLoadFenceReached p => Sys2Proof.Machine.execStateLoadFenceReached p s
  | .mmClusterStart p q n k => Sys2Proof.Machine.execMmClusterStart p q n k s
  | .dequeRefill p q n k => Sys2Proof.Machine.execDequeRefill p q n k s
  | .tileSteal p q n k => Sys2Proof.Machine.execTileSteal p q n k s
  | .subtileDrain p q n k => Sys2Proof.Machine.execSubtileDrain p q n k s
  | .splitkCombine p q n k t => Sys2Proof.Machine.execSplitkCombine p q n k t s
  | .veRangeStart p q n => Sys2Proof.Machine.execVeRangeStart p q n s
  | .updateBlock p q n k => Sys2Proof.Machine.execUpdateBlock p q n k s
  | .commandCompletion p q => Sys2Proof.Machine.execCommandCompletion p q s
  | .veNop c => Sys2Proof.Machine.execVeNop c s
  | .veEnd c => Sys2Proof.Machine.execVeEnd c s
  | .bra c => Sys2Proof.Machine.execBra c s
  | .veLoop c => Sys2Proof.Machine.execVeLoop c s
  | .smovi c => Sys2Proof.Machine.execSmovi c s
  | .salu c => Sys2Proof.Machine.execSalu c s
  | .salui c => Sys2Proof.Machine.execSalui c s
  | .sfalu c => Sys2Proof.Machine.execSfalu c s
  | .amovi c => Sys2Proof.Machine.execAmovi c s
  | .aaddi c => Sys2Proof.Machine.execAaddi c s
  | .aadds c => Sys2Proof.Machine.execAadds c s
  | .vext c => Sys2Proof.Machine.execVext c s
  | .rdsr c => Sys2Proof.Machine.execRdsr c s
  | .fadd c => Sys2Proof.Machine.execFadd c s
  | .fsub c => Sys2Proof.Machine.execFsub c s
  | .fmul c => Sys2Proof.Machine.execFmul c s
  | .ffma c => Sys2Proof.Machine.execFfma c s
  | .fmin c => Sys2Proof.Machine.execFmin c s
  | .fmax c => Sys2Proof.Machine.execFmax c s
  | .fcmp c => Sys2Proof.Machine.execFcmp c s
  | .vsel c => Sys2Proof.Machine.execVsel c s
  | .plog c => Sys2Proof.Machine.execPlog c s
  | .iadd c => Sys2Proof.Machine.execIadd c s
  | .isub c => Sys2Proof.Machine.execIsub c s
  | .imul c => Sys2Proof.Machine.execImul c s
  | .imad c => Sys2Proof.Machine.execImad c s
  | .imin c => Sys2Proof.Machine.execImin c s
  | .imax c => Sys2Proof.Machine.execImax c s
  | .ilog c => Sys2Proof.Machine.execIlog c s
  | .ishf c => Sys2Proof.Machine.execIshf c s
  | .icmp c => Sys2Proof.Machine.execIcmp c s
  | .vmovi c => Sys2Proof.Machine.execVmovi c s
  | .vmov c => Sys2Proof.Machine.execVmov c s
  | .frcp c => Sys2Proof.Machine.execFrcp c s
  | .frsq c => Sys2Proof.Machine.execFrsq c s
  | .fexp2 c => Sys2Proof.Machine.execFexp2 c s
  | .flog2 c => Sys2Proof.Machine.execFlog2 c s
  | .ftanh c => Sys2Proof.Machine.execFtanh c s
  | .fsigm c => Sys2Proof.Machine.execFsigm c s
  | .cvtf c => Sys2Proof.Machine.execCvtf c s
  | .cvtt c => Sys2Proof.Machine.execCvtt c s
  | .cvtsr c => Sys2Proof.Machine.execCvtsr c s
  | .fscl c => Sys2Proof.Machine.execFscl c s
  | .i2f c => Sys2Proof.Machine.execI2f c s
  | .f2i c => Sys2Proof.Machine.execF2i c s
  | .rsum c => Sys2Proof.Machine.execRsum c s
  | .rmax c => Sys2Proof.Machine.execRmax c s
  | .rmin c => Sys2Proof.Machine.execRmin c s
  | .risum c => Sys2Proof.Machine.execRisum c s
  | .vperm c => Sys2Proof.Machine.execVperm c s
  | .vrot c => Sys2Proof.Machine.execVrot c s
  | .vbcl c => Sys2Proof.Machine.execVbcl c s
  | .gfeed c => Sys2Proof.Machine.execGfeed c s
  | .lbar c => Sys2Proof.Machine.execLbar c s
  | .lred c => Sys2Proof.Machine.execLred c s
  | .lbarRelease p q n => Sys2Proof.Machine.execLbarRelease p q n s
  | .ld c => Sys2Proof.Machine.execLd c s
  | .st c => Sys2Proof.Machine.execSt c s
  | .ldx c => Sys2Proof.Machine.execLdx c s
  | .stx c => Sys2Proof.Machine.execStx c s
  | .ldscl c => Sys2Proof.Machine.execLdscl c s
  | .stscl c => Sys2Proof.Machine.execStscl c s
  | .modInfo => Sys2Proof.Machine.execModInfo s
  | .polderCreate => Sys2Proof.Machine.execPolderCreate s
  | .polderDestroy => Sys2Proof.Machine.execPolderDestroy s
  | .fwWriteQuery => Sys2Proof.Machine.execFwWriteQuery s
  | .fwWriteBegin => Sys2Proof.Machine.execFwWriteBegin s
  | .fwWriteData => Sys2Proof.Machine.execFwWriteData s
  | .fwWriteCommit => Sys2Proof.Machine.execFwWriteCommit s
  | .fwWriteAbort => Sys2Proof.Machine.execFwWriteAbort s
  | .fwProgrammingDone good => Sys2Proof.Machine.execFwProgrammingDone good s
  | .fwRecoverBegin => Sys2Proof.Machine.execFwRecoverBegin s
  | .fwRecoverData => Sys2Proof.Machine.execFwRecoverData s
  | .fwRecoverCommit => Sys2Proof.Machine.execFwRecoverCommit s
  | .spareReportSummary => Sys2Proof.Machine.execSpareReportSummary s
  | .spareReportRepair => Sys2Proof.Machine.execSpareReportRepair s
  | .spareReportMarginTest => Sys2Proof.Machine.execSpareReportMarginTest s
  | .powerCapSet => Sys2Proof.Machine.execPowerCapSet s
  | .meterConfigSetRing => Sys2Proof.Machine.execMeterConfigSetRing s
  | .meterConfigRelease => Sys2Proof.Machine.execMeterConfigRelease s
  | .meterConfigSetParameters => Sys2Proof.Machine.execMeterConfigSetParameters s
  | .meterConfigReadStatement => Sys2Proof.Machine.execMeterConfigReadStatement s
  | .counterClear => Sys2Proof.Machine.execCounterClear s
  | .debugUnlockChallenge => Sys2Proof.Machine.execDebugUnlockChallenge s
  | .debugUnlockUnlock => Sys2Proof.Machine.execDebugUnlockUnlock s
  | .openPolder p => Sys2Proof.Machine.execOpenPolder p s
  | .closePolder p => Sys2Proof.Machine.execClosePolder p s
  | .keyLoad p => Sys2Proof.Machine.execKeyLoad p s
  | .queueCreate p => Sys2Proof.Machine.execQueueCreate p s
  | .queueDestroy p => Sys2Proof.Machine.execQueueDestroy p s
  | .queueRemoved p => Sys2Proof.Machine.execQueueRemoved p s
  | .attestGetReport p => Sys2Proof.Machine.execAttestGetReport p s
  | .attestGetChain p => Sys2Proof.Machine.execAttestGetChain p s
  | .gaugeConfigRing p => Sys2Proof.Machine.execGaugeConfigRing p s
  | .gaugeConfigEntries p => Sys2Proof.Machine.execGaugeConfigEntries p s
  | .govConfigLog p => Sys2Proof.Machine.execGovConfigLog p s
  | .govConfigEntries p => Sys2Proof.Machine.execGovConfigEntries p s
  | .groupConfig p => Sys2Proof.Machine.execGroupConfig p s
  | .schedConfig p => Sys2Proof.Machine.execSchedConfig p s
  | .dumpReadStatus p => Sys2Proof.Machine.execDumpReadStatus p s
  | .dumpReadCopy p => Sys2Proof.Machine.execDumpReadCopy p s
  | .dumpReadCapture p => Sys2Proof.Machine.execDumpReadCapture p s
  | .dumpReadRelease p => Sys2Proof.Machine.execDumpReadRelease p s
  | .dumpReadLiveCounters p => Sys2Proof.Machine.execDumpReadLiveCounters p s
  | .eventRead f => Sys2Proof.Machine.execEventRead f s
  | .meterReadStatement p => Sys2Proof.Machine.execMeterReadStatement p s
  | .meterReadCertificate p => Sys2Proof.Machine.execMeterReadCertificate p s
  | .meterReadStatus p => Sys2Proof.Machine.execMeterReadStatus p s
  | .unknownMessageType f => Sys2Proof.Machine.execUnknownMessageType f s
  | .sqTailWrite f q v => Sys2Proof.Machine.execSqTailWrite f q v s
  | .cqHeadWrite f q v => Sys2Proof.Machine.execCqHeadWrite f q v s
  | .timeLoRead f => Sys2Proof.Machine.execTimeLoRead f s
  | .winCommit f v => Sys2Proof.Machine.execWinCommit f v s
  | .bar2Read f off len => Sys2Proof.Machine.execBar2Read f off len s
  | .bar2Write f off data => Sys2Proof.Machine.execBar2Write f off data s
  | .cvuStart f u => Sys2Proof.Machine.execCvuStart f u s
  | .cvuFinish f u => Sys2Proof.Machine.execCvuFinish f u s
  | .cvuData8 f u v => Sys2Proof.Machine.execCvuData8 f u v s
  | .cvuData16 f u v => Sys2Proof.Machine.execCvuData16 f u v s
  | .cvuData32 f u v => Sys2Proof.Machine.execCvuData32 f u v s
  | .registerWrite f tgt v => Sys2Proof.Machine.execRegisterWrite f tgt v s
  | .powerGood => Sys2Proof.Machine.execPowerGood s
  | .siteTrainingDone m good => Sys2Proof.Machine.execSiteTrainingDone m good s
  | .portBringupDone j trained hello => Sys2Proof.Machine.execPortBringupDone j trained hello s
  | .release => Sys2Proof.Machine.execRelease s
  | .identityDerivationDone => Sys2Proof.Machine.execIdentityDerivationDone s
  | .meterKeyDerivationDone => Sys2Proof.Machine.execMeterKeyDerivationDone s
  | .configSlotRewrite => Sys2Proof.Machine.execConfigSlotRewrite s
  | .perstAssert => Sys2Proof.Machine.execPerstAssert s
  | .perstDeassert rate width => Sys2Proof.Machine.execPerstDeassert rate width s
  | .pf0Reset => Sys2Proof.Machine.execPf0Reset s
  | .vfReset p => Sys2Proof.Machine.execVfReset p s
  | .inputLoss => Sys2Proof.Machine.execInputLoss s
  | .pwrbrkAssert => Sys2Proof.Machine.execPwrbrkAssert s
  | .pwrbrkDeassert => Sys2Proof.Machine.execPwrbrkDeassert s
  | .refclkLoss => Sys2Proof.Machine.execRefclkLoss s
  | .mrefLoss => Sys2Proof.Machine.execMrefLoss s
  | .smbBootProgress => Sys2Proof.Machine.execSmbBootProgress s
  | .smbModuleState => Sys2Proof.Machine.execSmbModuleState s
  | .smbInputPower => Sys2Proof.Machine.execSmbInputPower s
  | .smbPowerLimit => Sys2Proof.Machine.execSmbPowerLimit s
  | .smbSerial => Sys2Proof.Machine.execSmbSerial s
  | .smbFwVersion => Sys2Proof.Machine.execSmbFwVersion s
  | .smbLifecycle => Sys2Proof.Machine.execSmbLifecycle s
  | .smbTemperatures => Sys2Proof.Machine.execSmbTemperatures s
  | .smbAlertCause => Sys2Proof.Machine.execSmbAlertCause s
  | .smbAlertResponse => Sys2Proof.Machine.execSmbAlertResponse s
  | .flitReceived j flit => Sys2Proof.Machine.execFlitReceived j flit s
  | .replayRequestReceived j ack => Sys2Proof.Machine.execReplayRequestReceived j ack s
  | .replayTimeout j => Sys2Proof.Machine.execReplayTimeout j s
  | .portRetrainTimeout j => Sys2Proof.Machine.execPortRetrainTimeout j s
  | .laneErrorWindow j lanes levee => Sys2Proof.Machine.execLaneErrorWindow j lanes levee s
  | .writeDataReceived j => Sys2Proof.Machine.execWriteDataReceived j s
  | .writeDoneReceived j => Sys2Proof.Machine.execWriteDoneReceived j s
  | .collectiveDataReceived j => Sys2Proof.Machine.execCollectiveDataReceived j s
  | .managementMessageReceived j => Sys2Proof.Machine.execManagementMessageReceived j s
  | .leveeArriveReceived j tok => Sys2Proof.Machine.execLeveeArriveReceived j tok s
  | .leveeReleaseReceived j tok => Sys2Proof.Machine.execLeveeReleaseReceived j tok s
  | .faultTokenReceived j tok => Sys2Proof.Machine.execFaultTokenReceived j tok s
  | .creditTokenReceived j tok => Sys2Proof.Machine.execCreditTokenReceived j tok s
  | .timeTokenSend => Sys2Proof.Machine.execTimeTokenSend s
  | .timeTokenReceived j est => Sys2Proof.Machine.execTimeTokenReceived j est s
  | .timeSlewTick => Sys2Proof.Machine.execTimeSlewTick s
  | .barrierTimeout p q n => Sys2Proof.Machine.execBarrierTimeout p q n s
  | .reduceTimeout p q n => Sys2Proof.Machine.execReduceTimeout p q n s
  | .eventWaitTimeout p q n => Sys2Proof.Machine.execEventWaitTimeout p q n s
  | .watchdogExpiry p q n => Sys2Proof.Machine.execWatchdogExpiry p q n s
  | .hangDeclared p q n freed => Sys2Proof.Machine.execHangDeclared p q n freed s
  | .cqCoalesceTimeout p q => Sys2Proof.Machine.execCqCoalesceTimeout p q s
  | .queueLinkError p q => Sys2Proof.Machine.execQueueLinkError p q s
  | .faultDetected rep => Sys2Proof.Machine.execFaultDetected rep s
  | .discardRecordPost p => Sys2Proof.Machine.execDiscardRecordPost p s
  | .repairDone id res => Sys2Proof.Machine.execRepairDone id res s
  | .keeperHeartbeat beats => Sys2Proof.Machine.execKeeperHeartbeat beats s
  | .spareMapScan => Sys2Proof.Machine.execSpareMapScan s
  | .trimScan => Sys2Proof.Machine.execTrimScan s
  | .marginTestAutoStart d => Sys2Proof.Machine.execMarginTestAutoStart d s
  | .marginTestDone d res => Sys2Proof.Machine.execMarginTestDone d res s
  | .scrub a syms => Sys2Proof.Machine.execScrub a syms s
  | .mr4Poll m temp mr4 => Sys2Proof.Machine.execMr4Poll m temp mr4 s
  | .refresh m ch => Sys2Proof.Machine.execRefresh m ch s
  | .zqCalibration m => Sys2Proof.Machine.execZqCalibration m s
  | .wckDriftTrack m => Sys2Proof.Machine.execWckDriftTrack m s
  | .channelPowerDown m ch => Sys2Proof.Machine.execChannelPowerDown m ch s
  | .siteSelfRefresh m => Sys2Proof.Machine.execSiteSelfRefresh m s
  | .imbalanceWindow p => Sys2Proof.Machine.execImbalanceWindow p s
  | .meterSample x => Sys2Proof.Machine.execMeterSample x s
  | .activityEstimate c w => Sys2Proof.Machine.execActivityEstimate c w s
  | .governorEval => Sys2Proof.Machine.execGovernorEval s
  | .thermalSample x => Sys2Proof.Machine.execThermalSample x s
  | .requestClose p rid => Sys2Proof.Machine.execRequestClose p rid s
  | .meterBatchClose ch => Sys2Proof.Machine.execMeterBatchClose ch s
  | .meterRecordDeliver ch => Sys2Proof.Machine.execMeterRecordDeliver ch s

end Sys2Proof.Machine
end

