-- ==== Sys2Proof/Machine/Registers.lean ====
section
/-! DEFINITION. What the host reads from BAR0 (R283-R290, R438). A read of these registers changes nothing but the
snapshot that a 4-byte read of TIME_LO latches (TIME_LO_READ), so the values are functions of the state. -/

namespace Sys2Proof.Machine

/-- IDENT (R285): device code, stepping, function number. -/
def identReg (f : Fin 5) : Word := 0x00B04832 ||| (BitVec.ofNat 32 f.val <<< 24)

/-- STATE.MODULE (R285): ready, recovery, offline. -/
def moduleCode (b : Boot) : Nat :=
  match b with
  | .ready => 1
  | .recovery => 2
  | .offline => 3
  | _ => 0

/-- STATE (R285): POLDER and PNUM are fields of the VFs. -/
def stateReg (s : State) (f : Fin 5) : Word :=
  let vfPart := match polderOfVf f with
    | some p => 16 * stateCode (polder s p).st + 1024 * p.val
    | none => 0
  BitVec.ofNat 32 (moduleCode s.boot + vfPart + 256 * layoutCode s.layout)

/-- MB_DOORBELL (R286, R11): the last sequence accepted, and its complement. -/
def doorbellReg (F : Func) : Word := ~~~F.doorbell ++ F.doorbell

/-- MB_STATUS (R286). -/
def mbStatusReg (F : Func) : Word :=
  bitsOf F.busy 0 ||| bitsOf F.ready 1 ||| bitsOf F.overrun 2 ||| bitsOf F.mismatch 3 ||| (F.rspSeq ++ 0#16)

/-- WIN_STATUS (R289). -/
def winStatusReg (F : Func) : Word := F.winBase.setWidth 32 ||| bitsOf F.winDenied 31

/-- Register o of a queue block (R290). -/
def queueReg (Q : Queue) (o : Nat) : Word :=
  match o with
  | 0x0 => Q.tail
  | 0x4 => Q.head
  | 0x8 => qstateReg Q
  | 0xC => Q.fence
  | _ => 0

/-- CVU_STATUS (R438). -/
def cvuStatusReg (C : Cvu) : Word :=
  bitsOf C.run 0 ||| bitsOf C.done 1 ||| bitsOf C.match_ 2 ||| bitsOf C.mismatch 3 ||| bitsOf C.seqErr 4 |||
  bitsOf C.cfgErr 5 ||| (BitVec.ofNat 32 C.queue.length <<< 16)

/-- RESULT (R438): over the bytes processed so far while RUN, final after DONE. -/
def cvuResultReg (C : Cvu) : DWord := if C.run || C.done then BitVec.ofNat 64 (cvuResult C) else 0

/-- Register o of a check-value unit (R438); write-only registers read as zero (R11). -/
def cvuReg (C : Cvu) (o : Nat) : Word :=
  match o with
  | 0x00 => C.cfg
  | 0x08 => C.init.setWidth 32
  | 0x0C => (C.init >>> 32).setWidth 32
  | 0x10 => C.fxor.setWidth 32
  | 0x14 => (C.fxor >>> 32).setWidth 32
  | 0x18 => C.exp.setWidth 32
  | 0x1C => (C.exp >>> 32).setWidth 32
  | 0x24 => cvuStatusReg C
  | 0x38 => (cvuResultReg C).setWidth 32
  | 0x3C => (cvuResultReg C >>> 32).setWidth 32
  | 0x40 => C.count
  | _ => 0

def word4 (t : Tab Byte) (o : Nat) : Word := BitVec.ofNat 32 (leVal (tabBytes t o 4))

/-- An aligned 4-byte read at offset `off` by a function that answers (R284). -/
def bar0Read4 (s : State) (f : Fin 5) (off : Nat) : Word :=
  let F := func s f
  let vfOnly (w : Word) := if f = 0 then 0 else w
  if off = 0x00 then identReg f
  else if off = 0x04 then stateReg s f
  else if off = 0x08 then s.fuses.serial.setWidth 32
  else if off = 0x0C then (s.fuses.serial >>> 32).setWidth 32
  else if off = 0x10 then doorbellReg F
  else if off = 0x14 then mbStatusReg F
  else if off = 0x20 then F.cause
  else if off = 0x24 then F.mask
  else if off = 0x40 then (leveeTime s).setWidth 32
  else if off = 0x44 then F.timeSnap
  else if off = 0x50 then vfOnly F.winLo
  else if off = 0x54 then vfOnly F.winHi
  else if off = 0x5C then vfOnly (winStatusReg F)
  else if 0x1000 ≤ off ∧ off < 0x1100 then
    match polderOfVf f with
    | some p => queueReg (queue s p (fin16 ((off - 0x1000) / 16))) (off % 16)
    | none => 0
  else if 0x10000 ≤ off ∧ off < 0x11000 then word4 F.mbReq (off - 0x10000)
  else if 0x11000 ≤ off ∧ off < 0x12000 then word4 F.mbRsp (off - 0x11000)
  else if 0x20000 ≤ off ∧ off < 0x20400 then
    let u := fin4 ((off - 0x20000) / 0x100)
    if cvuReach s f u then cvuReg (s.cvus.get u) (off % 0x100) else 0
  else if 0x30000 ≤ off ∧ off < 0x30400 then word4 F.msixTable (off - 0x30000)
  else if off = 0x38000 then F.msixPending.setWidth 32
  else if off = 0x38004 then (F.msixPending >>> 32).setWidth 32
  else 0

/-- Register pairs that an 8-byte read may name (R283). -/
def pairRead (off : Nat) : Bool :=
  pairOffset off || off == 0x08 || off == 0x40 || (decide (0x11000 ≤ off) && decide (off < 0x12000)) || off == 0x38000 ||
  (decide (0x20000 ≤ off) && decide (off < 0x20400) && off % 0x100 == 0x38)

/-- What a read of `size` bytes at BAR0 offset `off` returns: no answer from a function that is not reachable, zero for
any other size or alignment (R283). An 8-byte read of levee time samples it at one instant (R288). -/
def bar0Read (s : State) (f : Fin 5) (off size : Nat) : Option DWord :=
  if hostReach s f then
    some (if size = 4 ∧ off % 4 = 0 then (bar0Read4 s f off).setWidth 64
      else if size = 8 ∧ off % 8 = 0 ∧ pairRead off then
        if off = 0x40 then leveeTime s else bar0Read4 s f (off + 4) ++ bar0Read4 s f off
      else 0)
  else none

/-! ## Configuration space (R281, R318) -/

/-- The answer to a configuration read: a value, or Request Retry Status. -/
inductive ConfigAnswer where
  | retry
  | value (v : Word)
  deriving DecidableEq, Repr

/-- Device and vendor ID; class code and revision (R281). -/
def deviceIdReg (f : Fin 5) : Word := (if f = 0 then 0x4832#16 else 0x4833#16) ++ Config.vendorId
def classReg : Word := 0x120000#24 ++ Config.revisionId

/-- The configuration registers a host reads (R281, R282). -/
inductive ConfigItem where
  | deviceId | classCode | totalVfs | numVfs | register (r : CfgReg)
  deriving DecidableEq, Repr

def configItem (s : State) (f : Fin 5) (i : ConfigItem) : Word :=
  let C := (func s f).config
  match i with
  | .deviceId => deviceIdReg f
  | .classCode => classReg
  | .totalVfs => if f = 0 then 4 else 0
  | .numVfs => if f = 0 then BitVec.ofNat 32 s.numVfs else 0
  | .register .deviceControl => (C.mps.setWidth 32 <<< 5) ||| (C.mrrs.setWidth 32 <<< 12)
  | .register .msixControl =>
    (if C.msixEnable then 0x80000000#32 else 0) ||| (if C.msixMask then 0x40000000#32 else 0) ||| 0x3F0011#32
  | .register .powerState => if C.d3hot then 3 else 0
  | .register .aerUncorrectable => C.aerUncor
  | .register .aerCorrectable => C.aerCor

def configRead (s : State) (f : Fin 5) (i : ConfigItem) : ConfigAnswer :=
  if configReach s f then .value (configItem s f i) else .retry

end Sys2Proof.Machine
end

