-- ==== Sys2Proof/Safety.lean ====
section
/-! DEFINITION. What a good state is and what no command may do to one: the canonical form of the memories, the
predicate that reads as ones (R132), the bound of the event queues (R312), the fuses that are written once (R320). -/

namespace Sys2Proof.Machine

/-- A sparse table in canonical form: keys strictly rising, no entry at the value an unlisted key reads as. -/
abbrev Table.wf {α : Type} [DecidableEq α] (d : α) (t : Tab α) : Prop :=
  t.Pairwise (fun a b => a.1 < b.1) ∧ ∀ c ∈ t, c.2 ≠ d

/-- The canonical form of a memory: an unlisted byte reads as zero (R376, log 1). -/
abbrev Memory.wf (m : List Host.Cell) : Prop := Table.wf (0 : Byte) m

/-- The canonical form of the undefined parts of a memory: in order, apart, none empty, and no byte listed in one. -/
abbrev Stale.wf (m : List Host.Cell) (u : List (Nat × Nat × Nat)) : Prop :=
  u.Pairwise (fun a b => a.2.1 ≤ b.1) ∧ (∀ r ∈ u, r.1 < r.2.1) ∧ ∀ c ∈ m, ∀ r ∈ u, c.1 < r.1 ∨ r.2.1 ≤ c.1

/-- p0 of a vector engine reads as all ones (R132). -/
abbrev Ve.p0Ones (V : Ve) : Prop := V.p.get 0 = BitVec.allOnes 64

/-- What every step keeps. -/
structure State.Inv (s : State) : Prop where
  mem     : Memory.wf s.mem
  undef   : Stale.wf s.mem s.undef
  hostMem : Memory.wf s.hostMem
  p0      : ∀ c : Fin 256, (ve s c).p0Ones
  /-- An event queue holds at most 1,024 entries (R312). -/
  events  : ∀ f : Fin 5, (func s f).events.length ≤ 1024

/-- Fuses are programmed once: what may happen to them from one state to a later one (R320, R321, R379). -/
structure Fuses.Later (a b : Fuses) : Prop where
  serial    : b.serial = a.serial
  fwDigest  : b.fwDigest = a.fwDigest
  dbgDigest : b.dbgDigest = a.dbgDigest
  trims     : b.trims = a.trims
  seed      : b.seed = a.seed
  basePlan  : b.basePlan = a.basePlan
  remaps    : a.remaps <+: b.remaps
  floor     : a.floor ≤ b.floor
  lifecycle : b.lifecycle = a.lifecycle ∨ b.lifecycle = 3

/-- What every command's effect is, at most: the queue of commands stays, fuses are only added to, a good state stays
good. -/
structure Sound (s t : State) : Prop where
  pending : t.pending = s.pending
  fuses   : s.fuses.Later t.fuses
  inv     : s.Inv → t.Inv

/-! ## How statements speak of memory -/

/-- Device memory reads as before. -/
abbrev SameMem (s t : State) : Prop := t.mem = s.mem ∧ t.undef = s.undef

/-- Nothing of a polder changes but its traffic table and what its commands in flight have gathered. -/
def Kept (P Q : Polder) : Prop :=
  Q = { P with chanBytes := Q.chanBytes, inflight := Q.inflight } ∧ Q.inflight.map (·.e) = P.inflight.map (·.e)

/-- A command may have moved device memory with the marks of what is watched there, counters, low-power states of sites,
traffic, its own record and the count of free values; all else stays. -/
def MemFrame (u v : State) : Prop :=
  v = { u with mem := v.mem, undef := v.undef, counters := v.counters, sites := v.sites, polders := v.polders,
               draws := v.draws, watch := v.watch } ∧
  ∀ p, Kept (polder u p) (polder v p)

/-- Lines that do not touch one another. -/
def Apart (ls : List (Nat × List Byte)) : Prop :=
  ls.Pairwise fun x y => x.1 + x.2.length ≤ y.1 ∨ y.1 + y.2.length ≤ x.1

/-- Memory holds these lines and is otherwise as before. -/
def Holds (u v : State) (ls : List (Nat × List Byte)) : Prop :=
  (∀ x ∈ ls, memBytes v x.1 x.2.length = x.2) ∧
  ∀ a, (∀ x ∈ ls, a < x.1 ∨ x.1 + x.2.length ≤ a) → memByte v a = memByte u a

/-! ## How statements speak of the vector engine -/

/-- Cluster c runs a program of the command (p, q, n), and the instruction at its program counter has the op. -/
abbrev Runs (s : State) (c : Fin 256) (op : Nat) (p : Fin 4) (q : Fin 16) (n : Word) : Prop :=
  runningFor s c = some (p, q, n) ∧ fOp (wordAt (ve s c)) = op

/-- The instruction that follows in line, or the first of a loop's body at its end, is inside the program. -/
abbrev NextIn (s : State) (c : Fin 256) : Prop := (passed (ve s c) (pcOf s c)).2 < (ve s c).prog.length

/-- Only the vector engine of cluster c changes, to V up to its program counter and loop state (R151). -/
def VeNext (s t : State) (c : Fin 256) (V : Ve) : Prop :=
  ∃ lc loops pc, t = modVe s c fun _ => { V with lc := lc, loops := loops, pc := pc }

end Sys2Proof.Machine
end

