-- ==== Sys2Proof/WellFormed.lean ====
section
/-! DEFINITION. Which commands are well formed: what an outside agent can send at all (log 4). `exec` gives every
command a meaning, well formed or not; statements that need a well-formed operand say so. -/

namespace Sys2Proof

/-- The opcode that the entry of a ring command carries (R302); none for the commands no entry carries and for
INVALID_OPCODE_ENTRY. -/
def Instr.ringOpcode : Instr → Option (Nat × Entry)
  | .mm _ _ e => some (0x01, e)
  | .vk _ _ e => some (0x02, e)
  | .move _ _ e _ => some (0x03, e)
  | .fill _ _ e => some (0x04, e)
  | .crc _ _ e => some (0x05, e)
  | .bucketAdd _ _ e => some (0x06, e)
  | .reduce _ _ e => some (0x07, e)
  | .gather _ _ e => some (0x08, e)
  | .scatter _ _ e => some (0x09, e)
  | .update _ _ e => some (0x0A, e)
  | .stepCmd _ _ e => some (0x0B, e)
  | .stateSave _ _ e => some (0x0C, e)
  | .stateLoad _ _ e => some (0x0D, e)
  | .replayCheck _ _ e => some (0x0E, e)
  | .mark _ _ e => some (0x0F, e)
  | .eventSignal _ _ e => some (0x10, e)
  | .eventWait _ _ e => some (0x11, e)
  | .barrier _ _ e => some (0x12, e)
  | .nop _ _ e => some (0x13, e)
  | _ => none

/-- The entry carries the opcode of its row (R302). -/
def Instr.opcodeOk (i : Instr) : Bool :=
  match i.ringOpcode with
  | some (op, e) => e.opcode.toNat == op
  | none => true

/-- No entry whose opcode R302 names is an invalid one. -/
def Instr.invalidOk : Instr → Bool
  | .invalidOpcodeEntry _ _ e => e.opcode.toNat == 0 || decide (0x13 < e.opcode.toNat)
  | _ => true

/-- A position in a cluster range: at most 256 clusters (R115). -/
def Instr.laneOk : Instr → Bool
  | .mmClusterStart _ _ _ k => decide (k < 256)
  | .dequeRefill _ _ _ k => decide (k < 256)
  | .tileSteal _ _ _ k => decide (k < 256)
  | .subtileDrain _ _ _ k => decide (k < 256)
  | .splitkCombine _ _ _ k _ => decide (k < 256)
  | .updateBlock _ _ _ k => decide (k < 256)
  | _ => true

/-- An access inside the 16 GiB of BAR2 (R282, R291), of one byte or more. -/
def bar2Ok (off len : Nat) : Bool := decide (0 < len) && decide (off + len ≤ 2 ^ 34)

/-- The width of a host register access (R284, R438). -/
def Instr.registerOk : Instr → Bool
  | .bar2Read _ off len => bar2Ok off len
  | .bar2Write _ off data => bar2Ok off data.length
  | .cvuData8 _ _ v => decide (v.toNat < 2 ^ 8)
  | .cvuData16 _ _ v => decide (v.toNat < 2 ^ 16)
  | .registerWrite _ (.bar0 off size) v =>
      decide (0 < size) && decide (size ≤ 8) && decide (off + size ≤ 2 ^ 24) && decide (v.toNat < 2 ^ (8 * size))
  | .registerWrite _ (.sriov _) v => decide (v.toNat < 2 ^ 16)
  | .registerWrite _ (.config _) v => decide (v.toNat < 2 ^ 32)
  | _ => true

/-- A flit has 512 bytes (R267); a window counts eight data lanes and the spare (R265, R273), and training leaves
equalisation settings for each of the nine (R324). -/
def Instr.linkOk : Instr → Bool
  | .flitReceived _ f => decide (f.bytes.length = 512)
  | .laneErrorWindow _ lanes _ => decide (lanes.length = 9)
  | .portBringupDone _ x _ => decide (x.eq.length = 9)
  | _ => true

/-- The type of the token is that of the row (R276). -/
def Instr.tokenOk : Instr → Bool
  | .leveeArriveReceived _ t => t.typ == 1
  | .leveeReleaseReceived _ t => t.typ == 2
  | .faultTokenReceived _ t => t.typ == 3
  | .creditTokenReceived _ t => t.typ == 5
  | _ => true

/-- A report names one of the sources of R336, a C-die or the I-die, and one of the module-held items. -/
def FaultReport.wf (r : FaultReport) : Bool :=
  decide (0 < r.source) && decide (r.source ≤ 0x0E) && decide (r.die ≤ 4) && decide (r.item ≤ 10)

/-- Repair IDs have 24 bits and start at 1 (R344); bins are 0-3, 0xFF for a failed site (R232). -/
def Instr.repairOk : Instr → Bool
  | .faultDetected rep => rep.wf
  | .repairDone id res =>
      decide (0 < id) && decide (id < 2 ^ 24) && res.bins.all fun b => decide (b.2 ≤ 3) || b.2 == 0xFF
  | .keeperHeartbeat beats => decide (beats.length = 6)
  | _ => true

/-- A scrub reads one D-tier block (R225), whose code reports no error, a corrected symbol or an uncorrectable block
(R224); the interval that MR4 asks for is not zero (R234). -/
def Instr.memoryOk : Instr → Bool
  | .scrub a syms => decide (2 ^ 40 ≤ a) && decide (a < 5 * 2 ^ 40) && decide (a % 64 = 0) && decide (syms ≤ 2)
  | .mr4Poll _ _ mr4 => decide (0 < mr4)
  | _ => true

/-- The parts of a sample of R389: four C-dies, six ports, ten 1 µs slots. -/
def RailSample.wf (x : RailSample) : Bool :=
  decide (x.array.length = 4) && decide (x.stack.length = 4) && decide (x.memory.length = 4) &&
  decide (x.stackIdle.length = 4) && decide (x.memIdle.length = 4) && decide (x.ports.length = 6) &&
  x.io.all fun u => decide (u.slot < 10) && decide (u.die ≤ 4)

/-- A sensor sample covers the four C-dies (R389, R409). -/
def Instr.sampleOk : Instr → Bool
  | .meterSample x => x.wf
  | .thermalSample x => decide (x.cdies.length = 4)
  | _ => true

def Instr.wf (i : Instr) : Bool :=
  i.opcodeOk && i.invalidOk && i.laneOk && i.registerOk && i.linkOk && i.tokenOk && i.repairOk && i.memoryOk &&
  i.sampleOk

end Sys2Proof
end

