-- ==== Sys2Proof/Certificates/Slice0/Obligations.lean ====
section
/-! DEFINITION. The statements for the provers. Each says of a family of commands what its rules of the spec say: that
the command completes (answers a next state), what that state holds, and what it leaves as it was. -/

namespace Sys2Proof.Machine

/-! ## Rows of the vector engine by what they write -/

/-- V with the active lanes of v[d] replaced (R136). -/
def withLanes (V : Ve) (w : DWord) (d : Nat) (f : Fin 64 → Word) : Ve :=
  { V with v := V.v.set (fin32 d) (Vector.ofFn fun i => if active V w i then f i else (V.v.get (fin32 d)).get i) }

/-- The rows that compute each lane of v[d] from the sources (R134, R137, R139): cluster, op, the encodings that are
legal, the result. -/
def laneRow : Instr → Option (Fin 256 × Nat × (DWord → Bool) × (Ve → DWord → Fin 64 → Word))
  | .fadd c => some (c, 0x20, formB, fun V w i => f32add (srcA V w i) (srcB V w i))
  | .fsub c => some (c, 0x21, formB, fun V w i => f32sub (srcA V w i) (srcB V w i))
  | .fmul c => some (c, 0x22, formB, fun V w i => f32mul (srcA V w i) (srcB V w i))
  | .ffma c => some (c, 0x23, formB, fun V w i => f32fma (srcA V w i) (srcB V w i) (srcC V w i))
  | .fmin c => some (c, 0x24, formB, fun V w i => f32min (srcA V w i) (srcB V w i))
  | .fmax c => some (c, 0x25, formB, fun V w i => f32max (srcA V w i) (srcB V w i))
  | .vsel c => some (c, 0x27, fun w => formB w && decide (fC w < 8), fun V w i =>
      if (predOf V (fC w)).getLsbD i.val then srcA V w i else srcB V w i)
  | .iadd c => some (c, 0x30, formB, fun V w i => srcA V w i + srcB V w i)
  | .isub c => some (c, 0x31, formB, fun V w i => srcA V w i - srcB V w i)
  | .imul c => some (c, 0x32, formB, fun V w i => srcA V w i * srcB V w i)
  | .imad c => some (c, 0x33, formB, fun V w i => srcA V w i * srcB V w i + srcC V w i)
  | .imin c => some (c, 0x34, formB, fun V w i =>
      if (srcA V w i).toInt < (srcB V w i).toInt then srcA V w i else srcB V w i)
  | .imax c => some (c, 0x35, formB, fun V w i =>
      if (srcA V w i).toInt < (srcB V w i).toInt then srcB V w i else srcA V w i)
  | .ilog c => some (c, 0x36, fun w => formB w && decide (fMod w < 4), fun V w i =>
      let a := srcA V w i
      let b := srcB V w i
      if fMod w = 0 then a &&& b else if fMod w = 1 then a ||| b else if fMod w = 2 then a ^^^ b else a &&& ~~~b)
  | .ishf c => some (c, 0x37, fun w => formB w && decide (fMod w < 3), fun V w i =>
      let a := srcA V w i
      let k := (srcB V w i).toNat % 32
      if fMod w = 0 then a <<< k else if fMod w = 1 then a >>> k else a.sshiftRight k)
  | .vmovi c => some (c, 0x39, fun _ => true, fun _ w _ => fImm w)
  | .vmov c => some (c, 0x3A, formB, fun V w i => srcB V w i)
  | .frcp c => some (c, 0x40, formR, fun V w i => f32rcp (srcA V w i))
  | .frsq c => some (c, 0x41, formR, fun V w i => f32rsq (srcA V w i))
  | .fexp2 c => some (c, 0x42, formR, fun V w i => f32approx 0 (srcA V w i))
  | .flog2 c => some (c, 0x43, formR, fun V w i => f32approx 1 (srcA V w i))
  | .ftanh c => some (c, 0x44, formR, fun V w i => f32approx 2 (srcA V w i))
  | .fsigm c => some (c, 0x45, formR, fun V w i => f32approx 3 (srcA V w i))
  | .fscl c => some (c, 0x53, formB, fun V w i => f32scale (srcA V w i) (srcB V w i))
  | .i2f c => some (c, 0x54, formR, fun V w i => f32ofInt (srcA V w i).toInt)
  | .vperm c => some (c, 0x64, formB, fun V w i => (vreg V (fA w)).get (fin64 ((srcB V w i).toNat % 64)))
  | .vrot c => some (c, 0x65, fun w => formB w && fBsel w == 1, fun V w i =>
      (vreg V (fA w)).get (fin64 ((i.val + (sregOf V (fB w)).toNat) % 64)))
  | .vbcl c => some (c, 0x66, fun w => formB w && fBsel w == 1, fun V w _ =>
      (vreg V (fA w)).get (fin64 ((sregOf V (fB w)).toNat % 64)))
  | _ => none

/-- The rows that write one scalar register: the result, none for a reserved operation (R137, R138). -/
def scalarRow : Instr → Option (Fin 256 × Nat × (DWord → Bool) × (State → Fin 256 → DWord → Option Word))
  | .smovi c => some (c, 0x10, fun _ => true, fun _ _ w => some (fImm w))
  | .salu c => some (c, 0x11, fun w => formR w && decide (fA w < 16) && decide (fB w < 16), fun s c w =>
      saluOp (fMod w) (sregOf (ve s c) (fA w)) (sregOf (ve s c) (fB w)))
  | .salui c => some (c, 0x12, fun w => decide (fA w < 16), fun s c w =>
      saluOp (iMod w) (sregOf (ve s c) (fA w)) (fImm w))
  | .sfalu c => some (c, 0x13, fun w => formR w && decide (fA w < 16) && decide (fB w < 16), fun s c w =>
      sfaluOp (fMod w) (sregOf (ve s c) (fA w)) (sregOf (ve s c) (fB w)))
  | .vext c => some (c, 0x16, fun w => decide ((fImm w).toNat < 64), fun s c w =>
      some ((vreg (ve s c) (fA w)).get (fin64 (fImm w).toNat)))
  | .rdsr c => some (c, 0x17, fun w => decide ((fImm w).toNat < 16), fun s c w => specialValue s c (fImm w).toNat)
  | _ => none

/-- The rows that write a predicate register lane by lane (R137): op, legal encodings, the bit of a lane. -/
def predRow : Instr → Option (Fin 256 × Nat × (DWord → Bool) × (Ve → DWord → Fin 64 → Bool))
  | .fcmp c => some (c, 0x26, fun w => formB w && decide (fMod w ≤ 6), fun V w i =>
      active V w i && ((fcmpOp (fMod w)).getD fun _ _ => false) (srcA V w i) (srcB V w i))
  | .icmp c => some (c, 0x38, fun w => formB w && decide (fMod w < 16) && decide (fMod w % 8 ≤ 5), fun V w i =>
      let a := srcA V w i
      let b := srcB V w i
      let lt (x y : Word) : Bool := if 8 ≤ fMod w then decide (x.toNat < y.toNat) else decide (x.toInt < y.toInt)
      active V w i && (if fMod w % 8 = 0 then a == b else if fMod w % 8 = 1 then a != b
        else if fMod w % 8 = 2 then lt a b else if fMod w % 8 = 3 then !lt b a
        else if fMod w % 8 = 4 then lt b a else !lt a b))
  | _ => none

/-- The reductions (R147): op, the combining function, the value an inactive lane enters with. -/
def reduceRow : Instr → Option (Fin 256 × Nat × (Word → Word → Word) × Word)
  | .rsum c => some (c, 0x60, f32add, 0x80000000)
  | .rmax c => some (c, 0x61, f32max, 0xFF800000)
  | .rmin c => some (c, 0x62, f32min, 0x7F800000)
  | .risum c => some (c, 0x63, fun a b => a + b, 0)
  | _ => none

/-- Lane i of the six-level tree of R147: lanes 2i and 2i + 1 combine, level by level. -/
def laneTree (f : Word → Word → Word) (x : Nat → Word) : Nat → Nat → Word
  | 0, i => x i
  | k + 1, i => f (laneTree f x k (2 * i)) (laneTree f x k (2 * i + 1))

/-- plog by its modifier (R137). -/
def plogBits (k : Nat) (a b : DWord) : DWord :=
  if k = 0 then a &&& b else if k = 1 then a ||| b else if k = 2 then a ^^^ b else if k = 3 then a &&& ~~~b else ~~~a

end Sys2Proof.Machine

open Sys2Proof Sys2Proof.Machine

/-! ## The machine -/

/-- A step takes the command at the front of the queue (log 2). -/
def Obligations.StepRunsTheFrontCommand : Prop :=
  ∀ (c : Instr) (rest : List Instr) (s : State),
    step { s with pending := c :: rest } = exec c { s with pending := rest }

/-- An empty queue: the block idles for one TCLK tick (log 2, DESIGN CHOICE). The local count rises by one while it
runs (R420), each BAR0 check-value unit takes one byte of its oldest data write, and nothing else changes. -/
def Obligations.IdleStepOnlyTicks : Prop :=
  ∀ s : State, s.pending = [] → step s = .next
    (if s.boot = .off ∨ s.boot = .fuses ∨ s.boot = .thermalHold then s
     else { s with localCount := s.localCount + 1, cvus := s.cvus.map cvuByte })

/-- Every command of every state completes, and leaves the queue of commands as it was. That none faults or is
refused, a command whose enabling condition does not hold answering the state unchanged, is the model's choice (log
3). -/
def Obligations.EveryCommandCompletesAndLeavesTheQueue : Prop :=
  ∀ (i : Instr) (s : State), ∃ t, exec i s = .next t ∧ t.pending = s.pending

/-- The canonical form of both memories, p0 all ones (R132), event queues of at most 1,024 entries (R312): every step
keeps them. -/
def Obligations.EveryStepKeepsTheInvariant : Prop :=
  ∀ s t : State, s.Inv → step s = .next t → t.Inv

/-- The state after reset has canonical memories, p0 all ones in every vector engine and empty event queues (R132, R312):
it meets the invariant that every step keeps. -/
def Obligations.ResetMeetsTheInvariant : Prop := State.reset.Inv

/-- Fuses are written once (R320): whatever a step does, the serial number, the key digests and the trim words stay,
remap entries are only added, the security floor does not fall (R322), and the lifecycle state stays or becomes debug
(R379). -/
def Obligations.FusesAreOnlyAddedTo : Prop :=
  ∀ s t : State, step s = .next t → s.fuses.Later t.fuses

/-! ## Vector engines -/

/-- Lane instructions write the active lanes of v[d] and nothing else but the program counter. -/
def Obligations.LaneInstructionsWriteActiveLanes : Prop :=
  ∀ (i : Instr) (s : State) (c : Fin 256) (op : Nat) (legal : DWord → Bool) (f : Ve → DWord → Fin 64 → Word)
    (p : Fin 4) (q : Fin 16) (n : Word),
    laneRow i = some (c, op, legal, f) → Runs s c op p q n → legal (wordAt (ve s c)) = true → NextIn s c →
    ∃ t, exec i s = .next t ∧
      VeNext s t c (withLanes (ve s c) (wordAt (ve s c)) (fD (wordAt (ve s c))) (f (ve s c) (wordAt (ve s c))))

/-- A lane instruction, a scalar instruction, a compare or a reduction whose encoding is reserved raises cause 0x01
for all lanes at its own address (R136, R155). That the bits of mod and imm beside a selector are checked with it, as
for vext and rdsr, is the model's reading (log 18). -/
def Obligations.ReservedVectorEncodingsRaiseCauseOne : Prop :=
  ∀ (i : Instr) (s : State) (c : Fin 256) (op : Nat) (p : Fin 4) (q : Fin 16) (n : Word), Runs s c op p q n →
    ((∃ legal f, laneRow i = some (c, op, legal, f) ∧ legal (wordAt (ve s c)) = false) ∨
     (∃ legal f, scalarRow i = some (c, op, legal, f) ∧
        (legal (wordAt (ve s c)) = false ∨ plain (wordAt (ve s c)) = false ∨ 16 ≤ fD (wordAt (ve s c)) ∨
          f s c (wordAt (ve s c)) = none)) ∨
     (∃ legal f, predRow i = some (c, op, legal, f) ∧
        (legal (wordAt (ve s c)) = false ∨ fD (wordAt (ve s c)) = 0 ∨ 8 ≤ fD (wordAt (ve s c)))) ∨
     (∃ f x, reduceRow i = some (c, op, f, x) ∧ (formR (wordAt (ve s c)) = false ∨ 16 ≤ fD (wordAt (ve s c))))) →
    exec i s = .next (veTrap s p q n c 0x01 (pcOf s c) (wordAt (ve s c)) (BitVec.allOnes 64) 0)

/-- Scalar instructions write s[d], and amovi, aaddi and aadds a[d], 48 bits wide; neither writes anything else but the
program counter (R137, R138). -/
def Obligations.ScalarAndAddressInstructionsWriteOneRegister : Prop :=
  ∀ (i : Instr) (s : State) (c : Fin 256) (op : Nat) (legal : DWord → Bool) (f : State → Fin 256 → DWord → Option Word)
    (p : Fin 4) (q : Fin 16) (n : Word) (x : Word) (w : DWord), w = wordAt (ve s c) → plain w = true → NextIn s c →
    (scalarRow i = some (c, op, legal, f) → Runs s c op p q n → legal w = true → fD w < 16 → f s c w = some x →
      ∃ t, exec i s = .next t ∧ VeNext s t c (setSreg (ve s c) (fD w) x)) ∧
    (fD w < 8 →
      (Runs s c 0x14 p q n → iMod w = 0 → ∃ t, exec (.amovi c) s = .next t ∧
        VeNext s t c (setAreg (ve s c) (fD w) ((fImm w).setWidth 48))) ∧
      (Runs s c 0x14 p q n → iMod w = 1 → fA w < 8 → ∃ t, exec (.aaddi c) s = .next t ∧
        VeNext s t c (setAreg (ve s c) (fD w) ((ve s c).a.get (fin8 (fA w)) + (fImm w).signExtend 48))) ∧
      (Runs s c 0x15 p q n → formR w = true → fA w < 8 → fB w < 16 → fMod w < 8 → ∃ t, exec (.aadds c) s = .next t ∧
        VeNext s t c (setAreg (ve s c) (fD w)
          ((ve s c).a.get (fin8 (fA w)) + (((ve s c).sreg.get (fin16 (fB w))).signExtend 48 <<< fMod w)))))

/-- fcmp and icmp write p[d], each lane its comparison and an inactive lane 0; plog acts on all 64 bits whatever
the predicate field (R137). Nothing else changes but the program counter. -/
def Obligations.ComparesWriteOnePredicate : Prop :=
  ∀ (s : State) (c : Fin 256) (p : Fin 4) (q : Fin 16) (n : Word) (w : DWord), w = wordAt (ve s c) →
    0 < fD w → fD w < 8 → NextIn s c →
    (∀ (i : Instr) (op : Nat) (legal : DWord → Bool) (f : Ve → DWord → Fin 64 → Bool),
      predRow i = some (c, op, legal, f) → Runs s c op p q n → legal w = true →
      ∃ t m, exec i s = .next t ∧ (∀ k : Fin 64, m.getLsbD k.val = f (ve s c) w k) ∧
        VeNext s t c (setPred (ve s c) (fD w) m)) ∧
    (Runs s c 0x28 p q n → formR w = true → fBsel w = 0 → fMod w ≤ 4 → fA w < 8 → (fMod w = 4 ∨ fB w < 8) →
      ∃ t, exec (.plog c) s = .next t ∧
        VeNext s t c (setPred (ve s c) (fD w) (plogBits (fMod w) ((ve s c).p.get (fin8 (fA w))) ((ve s c).p.get (fin8 (fB w))))))

/-- The reductions combine the 64 lanes in a fixed balanced tree of six levels, an inactive lane as the identity, and
write s[d] (R147). -/
def Obligations.ReductionsCombineInAFixedTree : Prop :=
  ∀ (i : Instr) (s : State) (c : Fin 256) (op : Nat) (f : Word → Word → Word) (x : Word) (p : Fin 4) (q : Fin 16)
    (n : Word), reduceRow i = some (c, op, f, x) → Runs s c op p q n → formR (wordAt (ve s c)) = true →
    fD (wordAt (ve s c)) < 16 → NextIn s c →
    ∃ t, exec i s = .next t ∧
      VeNext s t c (setSreg (ve s c) (fD (wordAt (ve s c))) (laneTree f (fun k =>
        if active (ve s c) (wordAt (ve s c)) (fin64 k) then srcA (ve s c) (wordAt (ve s c)) (fin64 k) else x) 6 0))

/-! ### Auxiliaries of the statements that follow -/

def Sys2Proof.Machine.setDraws (s : State) (d : Nat) : State := { s with draws := d }

/-- A command with the active lanes added to its contribution to gauge id (R148). -/
def Sys2Proof.Machine.withFeed (V : Ve) (w : DWord) (ladder fmt id : Nat) (x : Cmd) : Cmd :=
  { x with contrib := tabMod GTot.zero x.contrib id (feedLanes V w ladder fmt (iMod w / 16 == 1)) }

/-- nop, bra and loop move the program counter by the rules of R151 and change nothing else but the loop state. A taken
branch goes to PC + sext(imm), a loop with a count starts its body, a loop without one skips it; a target outside the
program raises cause 0x04, a loop that breaks a rule of R151 cause 0x07. At the last instruction of an active loop's body
the program returns to the body's first instruction while the counter is above 1, and goes on past it otherwise, the
counter then zero and the loop over (shown on nop). -/
def Obligations.ControlInstructionsFollowTheProgram : Prop :=
  (∀ (s : State) (c : Fin 256) (p : Fin 4) (q : Fin 16) (n : Word) (w : DWord), w = wordAt (ve s c) → plain w = true →
      (Runs s c 0x00 p q n → NextIn s c → ∃ t, exec (.veNop c) s = .next t ∧ VeNext s t c (ve s c)) ∧
      (Runs s c 0x02 p q n → braCond (ve s c) w = some false → NextIn s c →
        ∃ t, exec (.bra c) s = .next t ∧ VeNext s t c (ve s c)) ∧
      (Runs s c 0x02 p q n → braCond (ve s c) w = some true → ∀ k : Nat, (k : Int) = (pcOf s c : Int) + (fImm w).toInt →
        k < (ve s c).prog.length →
        ∃ t, exec (.bra c) s = .next t ∧ VeNext s t c (ve s c) ∧ (ve t c).pc = BitVec.ofNat 12 k) ∧
      (Runs s c 0x02 p q n → braCond (ve s c) w = some true →
        (pcOf s c : Int) + (fImm w).toInt < 0 ∨ ((ve s c).prog.length : Int) ≤ (pcOf s c : Int) + (fImm w).toInt →
        exec (.bra c) s = .next (veTrap s p q n c 0x04 (pcOf s c) w (BitVec.allOnes 64) 0)) ∧
      (∀ (i : Fin 2) (count : Word) (len : Nat), Runs s c 0x03 p q n → len = (fImm w).toNat % 65536 →
        (iMod w = i.val ∧ count = fImm w >>> 16 ∨ iMod w = i.val + 2 ∧ fA w < 16 ∧ count = (ve s c).sreg.get (fin16 (fA w))) →
        (loopBad (ve s c) i len (pcOf s c + 1) (pcOf s c + len) = true →
          exec (.veLoop c) s = .next (veTrap s p q n c 0x07 (pcOf s c) w (BitVec.allOnes 64) 0)) ∧
        (loopBad (ve s c) i len (pcOf s c + 1) (pcOf s c + len) = false → count = 0 →
          (passed (ve s c) (pcOf s c + len)).2 < (ve s c).prog.length →
          ∃ t, exec (.veLoop c) s = .next t ∧ VeNext s t c (ve s c)) ∧
        (loopBad (ve s c) i len (pcOf s c + 1) (pcOf s c + len) = false → count ≠ 0 →
          ∃ t, exec (.veLoop c) s = .next t ∧ VeNext s t c (ve s c) ∧ (ve t c).lc.get i = count ∧
            (ve t c).loops.get i = some (pcOf s c + 1, pcOf s c + len)))) ∧
  (∀ (s : State) (c : Fin 256) (p : Fin 4) (q : Fin 16) (n : Word) (i : Fin 2) (first : Nat),
      Runs s c 0x00 p q n → plain (wordAt (ve s c)) = true → (ve s c).loops.get i = some (first, pcOf s c) →
      (ve s c).loops.get (1 - i) = none → first ≤ pcOf s c → pcOf s c + 1 < (ve s c).prog.length →
      (ve s c).prog.length ≤ 4096 →
      ∃ t, exec (.veNop c) s = .next t ∧
        (1 < ((ve s c).lc.get i).toNat → (ve t c).pc.toNat = first ∧ (ve t c).lc.get i = (ve s c).lc.get i - 1 ∧
          (ve t c).loops = (ve s c).loops) ∧
        (((ve s c).lc.get i).toNat ≤ 1 → (ve t c).pc.toNat = pcOf s c + 1 ∧ (ve t c).lc.get i = 0 ∧
          (ve t c).loops.get i = none))

/-- cvtf, cvtt, cvtsr and f2i write the active lanes of v[d] (R137, R140-R142); the conversions to a format count
their saturations and flushes (R63), and cvtt with a measured scale writes that scale to v[c]. A lane scale above 255
is a free value, as are the lanes of cvtt with c = d (log 19): such an instruction takes a draw. -/
def Obligations.ConversionsWriteLanesAndCount : Prop :=
  ∀ (s : State) (c : Fin 256) (p : Fin 4) (q : Fin 16) (n : Word) (w : DWord) (cmd : Cmd) (fmt mode : Nat),
    w = wordAt (ve s c) → cmdAt s p q n = some cmd → fmt = fMod w % 16 → mode = fMod w / 16 → NextIn s c →
    let V := ve s c
    let lanes (f : Fin 64 → Conv) : List Conv := ((List.finRange 64).filter (active V w)).map f
    let counted (f : Fin 64 → Conv) (d : Nat) : State :=
      setDraws (noteCounts s p q n cmd.e.ctrSet (satsOf (lanes f)) (flushesOf (lanes f)) 0) d
    (Runs s c 0x50 p q n → formB w = true → fmt ≤ 0xA → mode ≤ 1 → fmt ≠ 2 → (fmt = 0xA → mode = 0) →
      ∃ t d, exec (.cvtf c) s = .next t ∧ VeNext (setDraws s d) t c (withLanes V w (fD w) fun i =>
        decodeLane fmt (if mode = 1 then some (laneScale s.draws i (srcB V w i)) else none) (srcA V w i))) ∧
    (Runs s c 0x51 p q n → (if mode = 1 then formB w else formR w) = true → fmt ≤ 0xA → fmt ≠ 2 →
      (fmt = 0xA → mode = 0) → (2 ≤ mode → fC w ≠ fD w) →
      let f := fun i => encodeLane fmt .rne V.flush (scaleAt s.draws V w fmt mode i) (srcA V w i)
      let W := withLanes V w (fD w) fun i => BitVec.ofNat 32 (f i).code
      ∃ t d, exec (.cvtt c) s = .next t ∧ VeNext (counted f d) t c
        (if mode < 2 then W
         else withLanes W w (fC w) fun i => BitVec.ofNat 32 (measuredAt V w fmt (if mode = 2 then 32 else 16) i))) ∧
    (∀ step tid, Runs s c 0x52 p q n → streamOf s c = some (p, step, tid) → tid ≠ 0xFFFF →
      (if mode = 1 then formB w else formR w) = true → fmt ≤ 0xA → fmt ≠ 2 → mode ≤ 1 → (fmt = 0xA → mode = 0) →
      fC w < 16 →
      let f := fun i : Fin 64 => encodeLane fmt
        (.sr (srDraw (polder s p).seed step tid (V.sreg.get 0) ((V.sreg.get (fin16 (fC w))).toNat + i.val)))
        V.flush (scaleAt s.draws V w fmt mode i) (srcA V w i)
      ∃ t d, exec (.cvtsr c) s = .next t ∧
        VeNext (counted f d) t c (withLanes V w (fD w) fun i => BitVec.ofNat 32 (f i).code)) ∧
    (Runs s c 0x55 p q n → formR w = true →
      let f := fun i => intConvert 0xA .rne (f32dec (srcA V w i))
      ∃ t, exec (.f2i c) s = .next t ∧
        VeNext (counted f s.draws) t c (withLanes V w (fD w) fun i => BitVec.ofNat 32 (f i).code))

/-- gfeed adds its active lanes to a gauge's contribution of its command, kept apart until the command posts (R148,
R164), and changes no register; gauge 0xFFFF is no gauge, and a gauge that was not configured when the command started
raises cause 0x09 (R169, R296). -/
def Obligations.GfeedFeedsTheCommandsContribution : Prop :=
  ∀ (s : State) (c : Fin 256) (p : Fin 4) (q : Fin 16) (n : Word) (w : DWord) (fmt id : Nat) (cmd : Cmd),
    w = wordAt (ve s c) → cmdAt s p q n = some cmd → Runs s c 0x70 p q n → iMod w < 32 → (fImm w).toNat < 65536 → fmt = iMod w % 16 → id = (fImm w).toNat →
    fmt ≤ 0xA → fmt ≠ 2 → fmt ≠ 0xA →
    (id = 0xFFFF → NextIn s c → ∃ t, exec (.gfeed c) s = .next t ∧ VeNext s t c (ve s c)) ∧
    (id ≠ 0xFFFF → gaugeOf (seenBy (polder s p) cmd) id = none →
      exec (.gfeed c) s = .next (veTrap s p q n c 0x09 (pcOf s c) w (BitVec.allOnes 64) 0)) ∧
    (∀ g, id ≠ 0xFFFF → gaugeOf (seenBy (polder s p) cmd) id = some g → NextIn s c → ∃ t, exec (.gfeed c) s = .next t ∧
      VeNext (modCmd s p q n (withFeed (ve s c) w g.ladder fmt id)) t c (ve s c))

/-- A load whose checks pass writes each active lane of v[d] with the element at its address, zero-extended, advances
the base by the offset when post is set, and changes nothing else but what `noteLoad` counts and notes (R143, R145).
The lanes of ld lie side by side, b bits wide; ldscl gives the lanes of an entry the entry's value. -/
def Obligations.LoadsWriteActiveLanes : Prop :=
  ∀ (s : State) (c : Fin 256) (p : Fin 4) (q : Fin 16) (n : Word) (w : DWord), w = wordAt (ve s c) → NextIn s c →
    let V := ve s c
    let base := memBase V w
    let b := 4 * 2 ^ mWidth w
    let after (es : List VeElem) : State := noteLoad s c (mSpace w) es
    (Runs s c 0x80 p q n → formM w 3 false = true →
      accessTrap s p V (mSpace w) (max 1 (b / 8)) false (veLineElems V w) = none →
      ∃ t, exec (.ld c) s = .next t ∧ VeNext (after (veLineElems V w)) t c
        (postInc (withLanes (ve (after (veLineElems V w)) c) w (fD w) fun i => BitVec.ofNat 32 (readElem s c (mSpace w)
          ⟨[i], (base + i.val * b / 8) % 2 ^ 48, b == 4 && i.val % 2 == 1, b⟩)) w)) ∧
    (Runs s c 0x84 p q n → formM w 2 false = true →
      (accessTrap s p V (mSpace w) 2 false (scaleLoads V w)).isNone = true →
      (∀ e ∈ scaleLoads V w, compOk (entryValue (mWidth w)) (readElem s c (mSpace w) e)
        (readElem s c (mSpace w) e / 2 ^ (8 * entryValue (mWidth w))) = true) →
      ∃ t, exec (.ldscl c) s = .next t ∧ VeNext (after (scaleLoads V w)) t c
        (postInc (withLanes (ve (after (scaleLoads V w)) c) w (fD w) fun i =>
          let x := scaleEntry (mWidth w)
          BitVec.ofNat 32 (readElem s c (mSpace w) ⟨[i], (base + i.val / x.1 * x.2) % 2 ^ 48, false, 8 * x.2⟩ %
            2 ^ (8 * entryValue (mWidth w)))) w))

/-- The element that lane i of an ldx or stx names: base + index × element size, 4-bit elements by nibble (R144). -/
def Sys2Proof.Machine.laneElem (V : Ve) (w : DWord) (i : Fin 64) : VeElem :=
  let b := 4 * 2 ^ mWidth w
  let k := ((vreg V (fB w)).get i).toNat
  ⟨[i], (memBase V w + k * b / 8) % 2 ^ 48, b == 4 && k % 2 == 1, b⟩

/-- No other unit uses the bytes of an element (R146). -/
def Sys2Proof.Machine.Undisputed (s : State) (c : Fin 256) (space : Nat) (e : VeElem) : Prop :=
  ∀ a ∈ elemBytes [e], storeRaces s c space a = false

/-- ldx and stx address lane by lane through v[i], and of two active lanes of a stx that name one element the higher
lane's value stands (R144), where no other unit uses its bytes (R146). -/
def Obligations.IndexedAccessesAddressByLane : Prop :=
  ∀ (s : State) (c : Fin 256) (p : Fin 4) (q : Fin 16) (n : Word) (w : DWord), w = wordAt (ve s c) → NextIn s c →
    formM w 3 true = true →
    let V := ve s c
    let align := max 1 (4 * 2 ^ mWidth w / 8)
    (Runs s c 0x82 p q n → accessTrap s p V (mSpace w) align false (indexElems V w) = none →
      let u := noteLoad s c (mSpace w) (indexElems V w)
      ∃ t, exec (.ldx c) s = .next t ∧ VeNext u t c
        (postInc (withLanes (ve u c) w (fD w) fun i => BitVec.ofNat 32 (readElem s c (mSpace w) (laneElem V w i))) w)) ∧
    (Runs s c 0x83 p q n → accessTrap s p V (mSpace w) align true (indexElems V w) = none →
      ∃ t, exec (.stx c) s = .next t ∧ ∀ i : Fin 64, active V w i = true →
        (∀ j : Fin 64, i < j → active V w j = true →
          ¬ ((laneElem V w j).addr = (laneElem V w i).addr ∧ (laneElem V w j).odd = (laneElem V w i).odd)) →
        Undisputed s c (mSpace w) (laneElem V w i) → readElem t c (mSpace w) (laneElem V w i) = ((vreg V (fD w)).get i).toNat % 2 ^ (4 * 2 ^ mWidth w))

/-- The elements of a store by its row: op and elements. -/
def Sys2Proof.Machine.storeRow : Instr → Option (Fin 256 × Nat × (Ve → DWord → List VeElem) × (DWord → Bool) × (DWord → Nat))
  | .st c => some (c, 0x81, veLineElems, fun w => formM w 3 false, fun w => max 1 (4 * 2 ^ mWidth w / 8))
  | .stx c => some (c, 0x83, indexElems, fun w => formM w 3 true, fun w => max 1 (4 * 2 ^ mWidth w / 8))
  | .stscl c => some (c, 0x85, scaleStores, fun w => formM w 2 false, fun _ => 2)
  | _ => none

/-- A store whose checks pass changes no byte of any space outside the bytes of its elements, and no register but the
post-incremented base (R133, R143-R145): neither device memory, nor the VE store, nor the cluster buffer, nor host
memory, nor another cluster. Where a peer of the launch has read one of the stored bytes since its last barrier, what
that peer has computed and stored since then is undefined too (R146; how far that goes is log 78's choice): its
instruction and mode stay. st and stscl store what their rows say: st each active lane's low bits at its place in
line, stscl the low byte (or word) of an entry's first lane with its complement (R143, R145). A byte that another unit
uses with no order between the two is left undefined (R146). -/
def Obligations.StoresWriteTheirElementsAndNothingElse : Prop :=
  (∀ (i : Instr) (s : State) (c : Fin 256) (op : Nat) (elems : Ve → DWord → List VeElem) (legal : DWord → Bool)
      (align : DWord → Nat) (p : Fin 4) (q : Fin 16) (n : Word) (w : DWord), w = wordAt (ve s c) →
      storeRow i = some (c, op, elems, legal, align) → Runs s c op p q n → legal w = true → NextIn s c →
      accessTrap s p (ve s c) (mSpace w) (align w) true (elems (ve s c) w) = none →
      ∃ t, exec i s = .next t ∧
        (∀ space a, space < 3 → (space = mSpace w → ∀ e ∈ elems (ve s c) w, a < e.addr ∨ e.addr + e.size ≤ a) →
          (space = 2 → ∀ d ∈ peerReaders s c (mSpace w) (elems (ve s c) w), touches (ve s d).writes a = false) →
          spaceByte t c space a = spaceByte s c space a) ∧
        (ve t c).v = (ve s c).v ∧ (ve t c).sreg = (ve s c).sreg ∧ (ve t c).p = (ve s c).p ∧
        (ve t c).a = (postInc (ve s c) w).a ∧
        (∀ d, d ≠ c → d ∉ peerReaders s c (mSpace w) (elems (ve s c) w) → cluster t d = cluster s d) ∧
        (∀ d, d ≠ c → (ve t d).pc = (ve s d).pc ∧ (ve t d).mode = (ve s d).mode ∧ (ve t d).prog = (ve s d).prog) ∧
        (∀ p, Kept (polder s p) (polder t p)) ∧
        t = { s with clusters := t.clusters, mem := t.mem, undef := t.undef, poison := t.poison, counters := t.counters,
                     polders := t.polders, draws := t.draws, watch := t.watch }) ∧
  (∀ (s : State) (c : Fin 256) (p : Fin 4) (q : Fin 16) (n : Word) (w : DWord), w = wordAt (ve s c) → NextIn s c →
      let V := ve s c
      (Runs s c 0x81 p q n → formM w 3 false = true →
        accessTrap s p V (mSpace w) (max 1 (4 * 2 ^ mWidth w / 8)) true (veLineElems V w) = none →
        ∃ t, exec (.st c) s = .next t ∧
          (∀ i : Fin 64, active V w i = true →
            let e : VeElem := ⟨[i], (memBase V w + i.val * (4 * 2 ^ mWidth w) / 8) % 2 ^ 48,
              4 * 2 ^ mWidth w == 4 && i.val % 2 == 1, 4 * 2 ^ mWidth w⟩
            Undisputed s c (mSpace w) e → readElem t c (mSpace w) e = ((vreg V (fD w)).get i).toNat % 2 ^ (4 * 2 ^ mWidth w)) ∧
          ∀ a ∈ elemBytes (veLineElems V w), storeRaces s c (mSpace w) a = true →
            ∃ k, spaceByte t c (mSpace w) a = Config.freeByte k a) ∧
      (Runs s c 0x85 p q n → formM w 2 false = true →
        accessTrap s p V (mSpace w) 2 true (scaleStores V w) = none →
        ∃ t, exec (.stscl c) s = .next t ∧ ∀ j : Nat, j < 64 / (scaleEntry (mWidth w)).1 →
          active V w (fin64 (j * (scaleEntry (mWidth w)).1)) = true →
          (∀ a ∈ elemBytes (scaleStores V w), storeRaces s c (mSpace w) a = false) →
          spaceBytes t c (mSpace w) ((memBase V w + j * (scaleEntry (mWidth w)).2) % 2 ^ 48) (scaleEntry (mWidth w)).2 =
            withComp (entryValue (mWidth w)) ((vreg V (fD w)).get (fin64 (j * (scaleEntry (mWidth w)).1))).toNat))

/-- lbar and lred arrive: the engine waits at its barrier with its contribution, and nothing else changes; two
clusters of a launch that disagree about a barrier raise cause 0x08 (R149, R150, R155): that lbar against lred, and
lreds of different operations, disagree is the model's choice (log 39). When every cluster of a launch waits at its
barrier, all go on, and a cluster that came with lred has the same result in its register: the contributions combined
over launch positions (R149, R150). -/
def Obligations.BarriersHoldAndReleaseTheWholeLaunch : Prop :=
  (∀ (s : State) (c : Fin 256) (p : Fin 4) (q : Fin 16) (n : Word) (w : DWord), w = wordAt (ve s c) → plain w = true →
      let waiting (x : Option (Nat × Word × Fin 16)) : State :=
        modVe s c fun V => { V with mode := .atBarrier, bars := V.bars + 1, contribution := x }
      let after (i : Instr) (x : Option (Nat × Word × Fin 16)) : Prop :=
        exec i s = .next (if clashes (waiting x) c then veTrap s p q n c 0x08 (pcOf s c) w (BitVec.allOnes 64) 0
                          else waiting x)
      (Runs s c 0x71 p q n → after (.lbar c) none) ∧
      (Runs s c 0x72 p q n → formR w = true → fD w < 16 → fA w < 16 → fMod w < 4 →
        after (.lred c) (some (fMod w, (ve s c).sreg.get (fin16 (fA w)), fin16 (fD w))))) ∧
  (∀ (s : State) (p : Fin 4) (q : Fin 16) (n : Word), (liveCmd s p q n).isSome = true →
      launchOf s p q n ≠ [] → (∀ c ∈ launchOf s p q n, (ve s c).mode = .atBarrier) → (∀ c ∈ launchOf s p q n, NextIn s c) →
      ∃ t, exec (.lbarRelease p q n) s = .next t ∧
        (∀ c ∈ launchOf s p q n, (ve t c).mode = .running ∧ (ve t c).contribution = none ∧
          (ve t c).v = (ve s c).v ∧ (ve t c).a = (ve s c).a ∧ (ve t c).p = (ve s c).p ∧ (ve t c).store = (ve s c).store ∧
          (ve t c).sreg = (match (ve s c).contribution with
            | some (_, _, d) => (ve s c).sreg.set d (lredResult ((launchOf s p q n).map (ve s)))
            | none => (ve s c).sreg)) ∧
        (∀ c, c ∉ launchOf s p q n → cluster t c = cluster s c) ∧ t = { s with clusters := t.clusters })

/-- end stops a cluster of a VK launch; the command's work ends with OK, and its units are free, when every cluster of
the range has executed it (R154); end of a copy program writes its block back (R196). An exception of a VK command
fails it: the status of the cause, the cause as detail, its units free but those that still run to their next
instruction boundary, and the report in memory when the descriptor names one (R155-R157). An exception while another
cluster waits at a barrier that this one never reached is cause 0x08 (R149). -/
def Obligations.LaunchesEndWholeOrByAnException : Prop :=
  (∀ (s : State) (c : Fin 256) (p : Fin 4) (q : Fin 16) (n : Word) (cmd : Cmd) (r : VkRun),
      Runs s c 0x01 p q n → plain (wordAt (ve s c)) = true → cmdAt s p q n = some cmd → cmd.body = .vk r →
      let ended : State := modVe s c fun V => { V with mode := .ended }
      clashes ended c = false →
      ((∃ d ∈ launchOf ended p q n, (ve ended d).mode ≠ .ended) → exec (.veEnd c) s = .next ended) ∧
      ((∀ d ∈ launchOf ended p q n, (ve ended d).mode = .ended) → ∃ t, exec (.veEnd c) s = .next t ∧
        (∀ x, cmdAt t p q n = some x → x.res = some .ok) ∧ launchOf t p q n = [] ∧
        t = { s with clusters := t.clusters, polders := t.polders })) ∧
  (∀ (s : State) (c : Fin 256) (p : Fin 4) (q : Fin 16) (n : Word) (cmd : Cmd) (r : UpdRun) (k count : Nat) (o : UpdBlock),
      Runs s c 0x01 p q n → plain (wordAt (ve s c)) = true → cmdAt s p q n = some cmd → cmd.body = .update r →
      (ve s c).owner = some (p, q, n, k, count) → r.work.find? (fun x => x.1 == k) = some (k, o) →
      exec (.veEnd c) s = .next (commitBlock s p q n cmd r k c o)) ∧
  (∀ (s : State) (p : Fin 4) (q : Fin 16) (n : Word) (c : Fin 256) (cause pc : Nat) (w lanes : DWord) (addr : Nat)
      (cmd : Cmd) (r : VkRun), cmdAt s p q n = some cmd → cmd.body = .vk r →
      let x := trapCause s p q n c cause lanes addr
      let t := veTrap s p q n c cause pc w lanes addr
      (∀ y, cmdAt t p q n = some y → y.res = some (causeStatus x.1) ∧ y.detail = BitVec.ofNat 32 x.1) ∧
      (cmdAt t p q n).isSome = true ∧
      (∀ d, ownedBy (ve t d) p q n = true → (ve t d).mode = .stopping ∧ d ≠ c ∧ (ve s d).mode = .running) ∧
      ((∀ d ∈ launchOf s p q n, (ve s d).mode = .atBarrier → (ve s d).bars ≤ (ve s c).bars) → x = (cause, lanes, addr)) ∧
      ((∃ d ∈ launchOf s p q n, (ve s d).mode = .atBarrier ∧ (ve s c).bars < (ve s d).bars) → x.1 = 0x08) ∧
      (r.report ≠ 0 → s.poison = [] →
        memBytes t r.report 64 = excReport x.1 (clusterIndex s p c) pc w x.2.1 x.2.2 1))

/-! ## The host's registers -/

/-- SQ_TAIL is checked against the entries taken, a held queue takes no tail before its repair has ended and resumes
at its fence with the first one after, and CQ_HEAD is stored; a function that does not answer and PF0 change nothing
(R290, R300, R311). A link error of a queue puts it in the error state, sets QERR and reports through AER (R315; which
bit of the status is the model's choice, log 82). A cause bit is set whatever the mask; an unmasked one sends its
message on its fixed vector, or sets the vector's pending bit while the vector is masked; a queue's own message goes
out when its coalescing time ends (R287, R314). While MSI-X is not enabled a function sends no message and sets no
pending bit (the base specification's MSI-X Enable, reset clear: the model's choice, log 82). -/
def Obligations.QueueRegistersAndLinkErrors : Prop :=
  (∀ (s : State) (p : Fin 4) (q : Fin 16) (v : Word),
      let Q := queue s p q
      let refused : State := raiseCause (modQueue s p q fun Q => { Q with tailErr := true }) (vf p) 4
      (hostReach s (vf p) = true →
        (Q.st = .absent → exec (.sqTailWrite (vf p) q v) s = .next s) ∧
        ((Q.st = .running ∨ Q.st = .error) → (v - Q.taken).toNat ≤ Q.depth →
          exec (.sqTailWrite (vf p) q v) s = .next (modQueue s p q fun Q => { Q with tail := v })) ∧
        ((Q.st = .running ∨ Q.st = .error) → Q.depth < (v - Q.taken).toNat →
          exec (.sqTailWrite (vf p) q v) s = .next refused) ∧
        (Q.st = .held → (polder s p).st = .opened → (polder s p).discard = none → (v - Q.fence).toNat ≤ Q.depth →
          exec (.sqTailWrite (vf p) q v) s =
            .next (modQueue s p q fun Q => { Q with tail := v, taken := Q.fence, st := .running })) ∧
        (Q.st = .held → ((polder s p).st ≠ .opened ∨ (polder s p).discard ≠ none ∨ Q.depth < (v - Q.fence).toNat) →
          exec (.sqTailWrite (vf p) q v) s = .next refused) ∧
        (Q.st = .absent → exec (.cqHeadWrite (vf p) q v) s = .next s) ∧
        (Q.st ≠ .absent → exec (.cqHeadWrite (vf p) q v) s = .next (modQueue s p q fun Q => { Q with head := v }))) ∧
      (∀ f : Fin 5, f = 0 ∨ hostReach s f = false →
        exec (.sqTailWrite f q v) s = .next s ∧ exec (.cqHeadWrite f q v) s = .next s)) ∧
  (∀ (s : State) (p : Fin 4) (q : Fin 16) (k : LinkError),
      ((queue s p q).st = .running ∨ (queue s p q).st = .held →
        ∃ t, exec (.queueLinkError p ⟨q, k⟩) s = .next t ∧ queue t p q = { queue s p q with st := .error } ∧
          (∀ p' q', (p', q') ≠ (p, q) → queue t p' q' = queue s p' q') ∧
          (func t (vf p)).cause = (func s (vf p)).cause ||| 0x10 ∧
          (func t (vf p)).config.aerUncor = (func s (vf p)).config.aerUncor ||| (1#32 <<< aerBit k) ∧ aerBit k < 32 ∧
          ((func s (vf p)).mask.getLsbD 4 = true ∨ (func s (vf p)).config.msixEnable = false → t.msix = s.msix ∧ (func t (vf p)).msixPending = (func s (vf p)).msixPending) ∧
          ((func s (vf p)).mask.getLsbD 4 = false → (func s (vf p)).config.msixEnable = true →
            vecMasked (func s (vf p)) 1 = false → t.msix = s.msix ++ [(vf p, 1)]) ∧
          ((func s (vf p)).mask.getLsbD 4 = false → (func s (vf p)).config.msixEnable = true →
            vecMasked (func s (vf p)) 1 = true →
            t.msix = s.msix ∧ (func t (vf p)).msixPending = (func s (vf p)).msixPending ||| 2) ∧
          (∀ f, f ≠ vf p → func t f = func s f) ∧
          t = { s with polders := t.polders, funcs := t.funcs, msix := t.msix }) ∧
      ((queue s p q).st = .absent ∨ (queue s p q).st = .error → exec (.queueLinkError p ⟨q, k⟩) s = .next s)) ∧
  (∀ (s : State) (p : Fin 4) (q : Fin 16),
      let Q := queue s p q
      (Q.unsignalled = 0 ∨ (func s (vf p)).mask.getLsbD (16 + q.val) = true ∨ 64 ≤ Q.vector →
        exec (.cqCoalesceTimeout p q) s = .next s) ∧
      (0 < Q.unsignalled → (func s (vf p)).mask.getLsbD (16 + q.val) = false → Q.vector < 64 →
        ∃ t, exec (.cqCoalesceTimeout p q) s = .next t ∧ queue t p q = { Q with unsignalled := 0 } ∧
          ((func s (vf p)).config.msixEnable = false →
            t.msix = s.msix ∧ (func t (vf p)).msixPending = (func s (vf p)).msixPending) ∧
          ((func s (vf p)).config.msixEnable = true → vecMasked (func s (vf p)) Q.vector = false → t.msix = s.msix ++ [(vf p, Q.vector)]) ∧
          ((func s (vf p)).config.msixEnable = true → vecMasked (func s (vf p)) Q.vector = true →
            t.msix = s.msix ∧ (func t (vf p)).msixPending.getLsbD Q.vector = true)))

/-- A 4-byte read of TIME_LO returns the low half of levee time and latches the high half, which TIME_HI then reads; an
8-byte read returns the whole value; the two agree (R288). Nothing else changes. -/
def Obligations.TimeReadsAgree : Prop :=
  ∀ (s : State) (f : Fin 5), hostReach s f = true →
    bar0Read s f 0x40 8 = some (leveeTime s) ∧ bar0Read s f 0x40 4 = some ((leveeTime s).setWidth 32 |>.setWidth 64) ∧
    ∃ t, exec (.timeLoRead f) s = .next t ∧ leVal t.lastRead = (leveeTime s).toNat % 2 ^ 32 ∧
      bar0Read t f 0x44 4 = some (leveeTime s >>> 32) ∧
      2 ^ 32 * (func t f).timeSnap.toNat + leVal t.lastRead = (leveeTime s).toNat ∧
      t = { (modFunc s f fun F => { F with timeSnap := (func t f).timeSnap }) with lastRead := t.lastRead }

/-- COMMIT puts the staged base in force; an allowed read returns the bytes at base + offset and changes nothing; an
allowed write stores its bytes there and nowhere else; a refused access sets DENIED and WIN_DENIED, a refused read returns
all ones, and neither touches memory. An access that meets an uncorrectable error is refused too, and counted in the
polder's ECC counter (R289, R291). What a served access leaves beside its bytes is the traffic of `touch`. That an access
while the module is not ready, or whose polder is not open, is refused the same way is the model's choice (log 12). -/
def Obligations.TheWindowReachesOnlyItsPolder : Prop :=
  ∀ (s : State) (p : Fin 4) (v : Word) (off len : Nat) (data : List Byte), hostReach s (vf p) = true →
    let F := func s (vf p)
    let a := F.winBase.toNat * 2 ^ 30 + off
    let good (write : Bool) (n : Nat) : Prop :=
      s.boot = .ready ∧ isOpen s p = true ∧ off + n ≤ 2 ^ 34 ∧ accessOk s p write a n = true
    let denied (u : State) : State := raiseCause (modFunc u (vf p) fun F => { F with winDenied := true }) (vf p) 5
    let counted (n : Nat) : State := modPolder (touch s p a n) p fun P => { P with eccErrs := P.eccErrs + 1 }
    (v.getLsbD 0 = true → ∃ b, exec (.winCommit (vf p) v) s = .next (modFunc s (vf p) fun F => { F with winBase := b }) ∧
      b.toNat = F.winHi.toNat % 2 ^ 16 * 4 + F.winLo.toNat / 2 ^ 30) ∧
    (v.getLsbD 0 = false → exec (.winCommit (vf p) v) s = .next s) ∧
    (good false len → meetsBad s a len = false →
      ∃ bs, exec (.bar2Read (vf p) off len) s = .next { (touch s p a len) with lastRead := bs } ∧ bs.length = len ∧
        ∀ i (h : i < bs.length), bs[i] = memByte s (a + i)) ∧
    (good false len → meetsBad s a len = true → exec (.bar2Read (vf p) off len) s =
      .next { (denied (counted len)) with lastRead := List.replicate len 0xFF }) ∧
    (¬ good false len → exec (.bar2Read (vf p) off len) s =
      .next { (denied s) with lastRead := List.replicate len 0xFF }) ∧
    (data ≠ [] → good true data.length → mergesBad s a data.length = false →
      ∃ t, exec (.bar2Write (vf p) off data) s = .next t ∧ memBytes t a data.length = data ∧
        (∀ b, b < a ∨ a + data.length ≤ b → memByte t b = memByte s b) ∧
        (∀ p, Kept (polder s p) (polder t p)) ∧
        t = { s with mem := t.mem, undef := t.undef, poison := t.poison, sites := t.sites, polders := t.polders,
                     watch := t.watch }) ∧
    (good true data.length → mergesBad s a data.length = true →
      exec (.bar2Write (vf p) off data) s = .next (denied (counted data.length))) ∧
    (¬ good true data.length → exec (.bar2Write (vf p) off data) s = .next (denied s))

/-- A check-value unit of BAR0: START latches the staged group and clears the run, or sets CFGERR; data writes queue
in order; FINISH processes every queued byte, sets DONE, compares when told to, and reports a mismatch; with RUN
clear, data and FINISH set SEQERR (R438, R439). -/
def Obligations.CheckValueUnitsProcessEveryByte : Prop :=
  ∀ (s : State) (f : Fin 5) (u : Fin 4) (v : Word), hostReach s f = true → cvuOwner s u = f →
    let C := s.cvus.get u
    let data (i : Instr) (n : Nat) : Prop :=
      (C.run = false → exec i s = .next (modCvu s u fun C => { C with seqErr := true })) ∧
      (C.run = true → C.queue.length < 16 →
        exec i s = .next (modCvu s u fun C => { C with queue := C.queue ++ [leBytes n v.toNat] })) ∧
      (∀ b bs rest, C.run = true → C.queue = (b :: bs) :: rest → 16 ≤ C.queue.length →
        ∃ t, exec i s = .next t ∧ (t.cvus.get u).queue = rest ++ [leBytes n v.toNat] ∧
          (t.cvus.get u).count = C.count + BitVec.ofNat 32 (bs.length + 1))
    let last : DWord := C.queue.flatten.foldl
      (fun r b => BitVec.ofNat 64 (crcByte (cfgPoly C.lcfg) (cfgRefin C.lcfg) r.toNat b)) C.reg
    let result : Nat := crcResult (cfgPoly C.lcfg) (cfgRefout C.lcfg) C.lfxor.toNat last.toNat
    (cvuStartOk C = true → exec (.cvuStart f u) s = .next (modCvu s u fun C =>
      { C with lcfg := C.cfg, lfxor := C.fxor, lexp := C.exp, reg := C.init, count := 0, done := false,
               match_ := false, run := true, queue := [] })) ∧
    (cvuStartOk C = false → exec (.cvuStart f u) s = .next (modCvu s u fun C => { C with cfgErr := true })) ∧
    data (.cvuData8 f u v) 1 ∧ data (.cvuData16 f u v) 2 ∧ data (.cvuData32 f u v) 4 ∧
    (C.run = false → exec (.cvuFinish f u) s = .next (modCvu s u fun C => { C with seqErr := true })) ∧
    (C.run = true → (∀ x ∈ C.queue, x ≠ []) →
      let equal := decide (result = C.lexp.toNat)
      let t : State := modCvu s u fun C =>
        { C with reg := last, count := C.count + BitVec.ofNat 32 C.queue.flatten.length, queue := [], run := false,
                 done := true, match_ := C.match_ || (C.lcfg.getLsbD 4 && equal),
                 mismatch := C.mismatch || (C.lcfg.getLsbD 4 && !equal) }
      exec (.cvuFinish f u) s = .next (if C.lcfg.getLsbD 4 && !equal then
        cvuEvent t f (cvuMismatchPay 0 u.val 0xFF 0 result) else t))

/-- REGISTER_WRITE: a doorbell with its complement is accepted and its request copied, one that comes while BUSY sets
OVERRUN, one without its complement MISMATCH; status and cause bits clear by writing one; VF-only registers ignore PF0;
other sizes and alignments are ignored; NumVFs moves only while VF Enable is clear (R11, R282-R287, R293; log 5). A
write of a configuration register moves the function's configuration space alone (its fields are the model's, log 82); one
of the MSI-X control sends the messages that waited for their vectors too (R314, log 82). -/
def Obligations.RegisterWritesFollowTheirAccessRules : Prop :=
  ∀ (s : State) (f : Fin 5) (v : DWord), hostReach s f = true →
    let F := func s f
    let w : Word := v.setWidth 32
    let low : BitVec 16 := w.setWidth 16
    let wr (off size : Nat) : Host.Outcome State Fault Refusal := exec (.registerWrite f (.bar0 off size) v) s
    ((w >>> 16).setWidth 16 = ~~~low → F.busy = false → wr 0x10 4 = .next (modFunc s f fun F =>
      { F with doorbell := low, busy := true, latched := some { seq := low, time := s.localCount, bytes := F.mbReq } })) ∧
    ((w >>> 16).setWidth 16 = ~~~low → F.busy = true →
      wr 0x10 4 = .next (raiseCause (modFunc s f fun F => { F with overrun := true }) f 3)) ∧
    ((w >>> 16).setWidth 16 ≠ ~~~low →
      wr 0x10 4 = .next (raiseCause (modFunc s f fun F => { F with mismatch := true }) f 3)) ∧
    (∃ t, wr 0x14 4 = .next t ∧ t = modFunc s f (fun _ => func t f) ∧ (func t f).busy = F.busy ∧ (func t f).rspSeq = F.rspSeq ∧
      ((func t f).ready = true ↔ F.ready = true ∧ w.getLsbD 1 = false) ∧
      ((func t f).overrun = true ↔ F.overrun = true ∧ w.getLsbD 2 = false) ∧
      ((func t f).mismatch = true ↔ F.mismatch = true ∧ w.getLsbD 3 = false)) ∧
    wr 0x20 4 = .next (modFunc s f fun F => { F with cause := F.cause &&& ~~~w }) ∧
    wr 0x24 4 = .next (modFunc s f fun F => { F with mask := w }) ∧
    (f = 0 → ∀ off ∈ ([0x50, 0x54, 0x58, 0x5C] : List Nat), wr off 4 = .next s) ∧
    (∀ off size, ¬ (size = 4 ∧ off % 4 = 0) → ¬ (size = 8 ∧ off % 8 = 0) → wr off size = .next s) ∧
    (∀ off, 0x10000 ≤ off → off < 0x11000 → off % 4 = 0 → ∃ t, wr off 4 = .next t ∧ t = modFunc s f (fun F => { F with mbReq := (func t f).mbReq }) ∧
      bar0Read4 t f off = w ∧ ∀ o, o < off ∨ off + 4 ≤ o → tabGet 0 (func t f).mbReq o = tabGet 0 F.mbReq o) ∧
    (∀ on : Bool, exec (.registerWrite f (.sriov on) v) s = .next (if f = 0 then
      { s with vfEnable := on, numVfs := if s.vfEnable then s.numVfs else min 4 (v.toNat % 65536) } else s)) ∧
    (∀ r, r ≠ .msixControl → exec (.registerWrite f (.config r) v) s =
      .next (modFunc s f fun F => { F with config := configWrite F.config r w })) ∧
    (∃ t, exec (.registerWrite f (.config .msixControl) v) s = .next t ∧
      (func t f).config = configWrite F.config .msixControl w ∧
      (∀ k : Nat, k < 64 →
        let sent : Prop := w.getLsbD 31 = true ∧ vecMasked { F with config := configWrite F.config .msixControl w } k = false ∧
          F.msixPending.getLsbD k = true
        (sent → (func t f).msixPending.getLsbD k = false ∧ (f, k) ∈ t.msix) ∧
        (¬ sent → (func t f).msixPending.getLsbD k = F.msixPending.getLsbD k)) ∧
      (∃ new, t.msix = s.msix ++ new ∧ ∀ x ∈ new, x.1 = f ∧ F.msixPending.getLsbD x.2 = true) ∧
      t = { (modFunc s f fun F => { F with config := (func t f).config, msixPending := (func t f).msixPending }) with
              msix := t.msix }) ∧
    (∀ g off size, hostReach s g = false → exec (.registerWrite g (.bar0 off size) v) s = .next s) ∧
    (∀ g on r, configReach s g = false → exec (.registerWrite g (.sriov on) v) s = .next s ∧
      exec (.registerWrite g (.config r) v) s = .next s)

/-! ## The mailbox -/

/-- What a response leaves on function f of state s: the header of R292 with the request's type, sequence and cookie, the
status, the payload's length and both complements, then the payload; BUSY clear, READY set, RSPSEQ, the MB_RSP cause
(R293); everything else as it was. -/
def Sys2Proof.Machine.Answered (s t : State) (f : Fin 5) (bs : List Byte) (st : Status) (payload : List Byte) : Prop :=
  let G := func t f
  let R := tabBytes G.mbRsp 0 (64 + payload.length)
  fld R 0 2 = fld bs 0 2 ∧ fld R 2 2 = fld bs 2 2 ∧ fld R 8 2 = statusCode st ∧ compOk 2 (fld R 0 2) (fld R 0xC 2) = true ∧
  (payload.length < 2 ^ 32 → fld R 4 4 = payload.length ∧ compOk 4 (fld R 4 4) (fld R 0x10 4) = true) ∧
  (R.drop 0x18).take 8 = (bs.drop 0x18).take 8 ∧ R.drop 64 = payload ∧ G.rspSeq.toNat = fld bs 2 2 ∧
  t = { (modFunc s f fun F =>
    { F with mbRsp := G.mbRsp, latched := none, busy := false, ready := true, rspSeq := G.rspSeq, cause := F.cause ||| 1,
             msixPending := G.msixPending }) with msix := t.msix }

/-- A request of a type whose header passes waits on function f, with a payload of at least `len` bytes. -/
def Sys2Proof.Machine.Asks (s : State) (f : Fin 5) (typ len : Nat) (bs b : List Byte) : Prop :=
  requestOf s f typ = some bs ∧ b = reqPayload bs ∧ len ≤ b.length

/-- Orders 1 and 2 of R295: both complements agree; the length, the reserved fields, the type and the sequence are
right. -/
def Sys2Proof.Machine.headAgrees (bs : List Byte) : Bool :=
  compOk 2 (fld bs 0 2) (fld bs 0x0C 2) && compOk 4 (fld bs 4 4) (fld bs 0x10 4)
def Sys2Proof.Machine.headKnown (r : Request) : Bool :=
  let bs := reqBytes r
  decide (reqLen bs ≤ 4032) && zeroAt bs 8 4 && zeroAt bs 0x0E 2 && zeroAt bs 0x14 4 && zeroAt bs 0x20 32 &&
    typeKnown (reqType bs) && decide (fld bs 2 2 = r.seq.toNat)

/-- The header checks in their order, complement, then reserved fields and type, then function and state, and the
reserved operations; the first failure is answered and nothing of the request is applied, but that a reserved
DEBUG_UNLOCK operation ends the challenge before it (R9, R295, R379). -/
def Obligations.HeadersAreCheckedInOrder : Prop :=
  ∀ (s : State) (f : Fin 5) (r : Request), removalWaits s f = false → waitingRequest s f = some r →
    let bs := reqBytes r
    let good := headAgrees bs && headKnown r
    ∃ t, exec (.unknownMessageType f) s = .next t ∧
      (headAgrees bs = false → Answered s t f bs .complementMismatch []) ∧
      (headAgrees bs = true → headKnown r = false → Answered s t f bs .descInvalid []) ∧
      (good = true → typeAllowed s f bs = false → Answered s t f bs .accessDenied []) ∧
      (good = true → typeAllowed s f bs = true → opKnown (reqType bs) (reqPayload bs) = false →
        Answered (if reqType bs = 0x0A then { s with challenge := none } else s) t f bs .descInvalid []) ∧
      (good = true → typeAllowed s f bs = true → opKnown (reqType bs) (reqPayload bs) = true → t = s)

/-- MOD_INFO, the two reports of SPARE_REPORT, the statements and the status of METER_CONFIG and METER_READ, the
certificate chain and the status of DUMP_READ answer and change nothing, but for the channel traffic of a dump's
header (R297, R353, R354, R385, R403, R404, R431); what is not retained or not known fails with DESC_INVALID, a dump
header that meets an uncorrectable error with ECC_UNCORRECTED (R226). -/
def Obligations.ReadRequestsChangeNothing : Prop :=
  ∀ (s : State) (p : Fin 4) (bs b : List Byte),
    let C := chain s (chainOf p)
    let gives (i : Instr) (f : Fin 5) (x : Option (List Byte)) : Prop := ∃ t, exec i s = .next t ∧
      (match x with | some x => Answered s t f bs .ok x | none => Answered s t f bs .descInvalid [])
    (Asks s 0 1 0 bs b → ∃ x, gives .modInfo 0 (some x) ∧ x.length = 128 ∧ fld x 0 2 = 0x4832 ∧ fld x 2 1 = 0xB0 ∧
      fld x 3 1 = layoutCode s.layout ∧ fld x 4 4 = s.fwVersion.toNat ∧ fld x 8 8 = s.fuses.serial.toNat ∧
      (s.power.cap < 65536 → fld x 0x10 2 = s.power.cap)) ∧
    (Asks s 0 6 16 bs b → spareRsvd b = true →
      (fld b 0 1 = 0 → ∃ x, gives .spareReportSummary 0 (some x) ∧ (s.repairs < 2 ^ 32 → fld x 0 4 = s.repairs)) ∧
      (fld b 0 1 = 1 → gives .spareReportRepair 0 ((s.reports.find? fun r => r.id == fld b 4 4).map
        fun r => repairReport r (fld b 8 4)))) ∧
    (Asks s 0 8 32 bs b → fld b 0 1 = 3 → meterRsvd b = true →
      gives .meterConfigReadStatement 0 (statementOf (chain s (fin5 (fld b 1 1))) (fld b 8 8))) ∧
    (Asks s (vf p) 0x10D 16 bs b → zeroAt b 1 7 = true →
      (fld b 0 1 = 0 → gives (.meterReadStatement p) (vf p) (statementOf C (fld b 8 8))) ∧
      (fld b 0 1 = 2 → ∃ x, gives (.meterReadStatus p) (vf p) (some x) ∧ fld x 0 8 = C.seq % 2 ^ 64 ∧ fld x 8 8 = C.batch % 2 ^ 64 ∧
        fld x 16 4 = C.lost % 2 ^ 32 ∧ fld x 24 8 = (polder s p).openEnergy / 1000 % 2 ^ 64)) ∧
    (Asks s (vf p) 0x106 48 bs b → fld b 0 1 = 1 → zeroAt b 1 3 = true → zeroAt b 0x28 8 = true →
      gives (.attestGetChain p) (vf p) (if s.flash.chain.length < fld b 4 4 then none else
        some (leBytes 4 s.flash.chain.length ++ leBytes 4 (min 4000 (s.flash.chain.length - fld b 4 4)) ++
          (s.flash.chain.drop (fld b 4 4)).take 4000))) ∧
    (Asks s (vf p) 0x10B 32 bs b → fld b 0 1 = 0 → dumpRsvd b = true →
      let h := dumpBase (firstDie s p)
      ((polder s p).dump = none → gives (.dumpReadStatus p) (vf p) (some (zeros 64))) ∧
      ((polder s p).dump ≠ none → meetsBad s h 64 = false → ∃ t, exec (.dumpReadStatus p) s = .next t ∧
        Answered (touch s p h 64) t (vf p) bs .ok (memBytes s h 64)) ∧
      ((polder s p).dump ≠ none → meetsBad s h 64 = true → ∃ t, exec (.dumpReadStatus p) s = .next t ∧
        Answered s t (vf p) bs .eccUncorrected []))

/-- FW_WRITE and the end of programming: begin discards what was staged, data lands at its offset in the staging area,
a commit of an incomplete image is DESC_INVALID, one that fails R322 goes back to idle, one that passes erases the
image region and programs, after which the region holds the staged image or is invalid (R328-R330). FW_RECOVER: begin
erases the image region, data goes straight into it at ascending offsets without gaps, and a commit that passes R322
goes on with bring-up under boot flag [4], one that fails changes nothing (R331, R332). The two keep their lengths
apart: neither moves the other's state until a commit of FW_RECOVER starts the module again; that a ready module drops
its polders first is the model's choice (log 26). -/
def Obligations.FirmwareIsStagedOrRecoveredThenProgrammed : Prop :=
  (∀ (s : State) (bs b : List Byte) (good : Bool),
      let F := s.fw
      let n := fld b 8 4
      let done (i : Instr) (u : State) (st : Status) : Prop := ∃ t, exec i s = .next t ∧ Answered u t 0 bs st []
      let busy : Prop := s.layout ≠ .none ∨ F.st = .programming
      (Asks s 0 4 16 bs b → zeroAt b 1 3 = true → zeroAt b 0xC 4 = true →
        (fld b 0 1 = 0 → zeroAt b 8 4 = true → ∃ t x, exec .fwWriteQuery s = .next t ∧
          Answered { s with draws := s.draws + 1 } t 0 bs .ok x ∧ x.length = 32 ∧ fld x 0 4 = s.fwVersion.toNat ∧
          fld x 8 2 = s.fwSecurity.toNat ∧ fld x 0xC 1 = fwStateCode F.st ∧ fld x 0x18 8 = s.releaseTime.toNat) ∧
        (fld b 0 1 = 1 → zeroAt b 8 4 = true →
          (busy → done .fwWriteBegin s .accessDenied) ∧
          (¬ busy → fwLengthOk (fld b 4 4) = false → done .fwWriteBegin s .descInvalid) ∧
          (¬ busy → 1024 ≤ fld b 4 4 → fld b 4 4 ≤ 2 ^ 23 → done .fwWriteBegin
            { s with fw := { F with st := .staging, length := fld b 4 4, staged := [], written := [] } } .ok)) ∧
        (fld b 0 1 = 2 → n ≤ 4016 → 16 + n ≤ b.length →
          (F.st ≠ .staging → done .fwWriteData s .accessDenied) ∧
          (F.st = .staging → F.length < fld b 4 4 + n → done .fwWriteData s .descInvalid) ∧
          (F.st = .staging → fld b 4 4 + n ≤ F.length → n = 0 → done .fwWriteData s .ok) ∧
          (F.st = .staging → fld b 4 4 + n ≤ F.length → 0 < n → ∃ staged,
            done .fwWriteData { s with fw := { F with staged := staged, written := F.written ++ [(fld b 4 4, fld b 4 4 + n)] } } .ok ∧
            (∀ k, k < n → tabGet 0xFF staged (fld b 4 4 + k) = b.getD (16 + k) 0) ∧
            (∀ a, a < fld b 4 4 ∨ fld b 4 4 + n ≤ a → tabGet 0xFF staged a = tabGet 0xFF F.staged a))) ∧
        (fld b 0 1 = 3 → zeroAt b 8 4 = true →
          (F.st ≠ .staging → done .fwWriteCommit s .accessDenied) ∧
          (F.st = .staging → fwComplete F = false → done .fwWriteCommit s .descInvalid) ∧
          (F.st = .staging → fwComplete F = true → imageOk s.fuses F.staged = false →
            done .fwWriteCommit { s with fw := idleFw F } .accessDenied) ∧
          (F.st = .staging → fwComplete F = true → imageOk s.fuses F.staged = true →
            done .fwWriteCommit { s with fw := { F with st := .programming }, flash := { s.flash with image := [] } } .ok)) ∧
        (fld b 0 1 = 4 → zeroAt b 8 4 = true →
          (F.st = .staging → done .fwWriteAbort { s with fw := idleFw F } .ok) ∧
          (F.st ≠ .staging → done .fwWriteAbort s .accessDenied))) ∧
      (F.st = .programming → exec (.fwProgrammingDone good) s = .next (if good then
        { s with fw := { F with st := .programmed }, flash := { s.flash with image := F.staged } }
        else { s with fw := { F with st := .failed } }))) ∧
  (∀ (s : State) (bs b : List Byte),
      let F := s.fw
      let n := fld b 8 4
      let done (i : Instr) (u : State) (st : Status) : Prop := ∃ t, exec i s = .next t ∧ Answered u t 0 bs st []
      let image (u : State) (x : Tab Byte) : State := { u with flash := { u.flash with image := x } }
      Asks s 0 5 16 bs b → zeroAt b 1 3 = true → zeroAt b 0xC 4 = true →
      (fld b 0 1 = 1 → zeroAt b 8 4 = true →
        (fwLengthOk (fld b 4 4) = false → done .fwRecoverBegin s .descInvalid) ∧
        (fwLengthOk (fld b 4 4) = true → done .fwRecoverBegin
          (image { s with fw := { F with recBegun := true, recNext := 0, recLength := fld b 4 4 } } []) .ok)) ∧
      (fld b 0 1 = 2 → n ≤ 4016 → 16 + n ≤ b.length →
        (F.recBegun = false ∨ fld b 4 4 ≠ F.recNext ∨ F.recLength < F.recNext + n → done .fwRecoverData s .descInvalid) ∧
        (F.recBegun = true → fld b 4 4 = F.recNext → F.recNext + n ≤ F.recLength → ∃ x,
          done .fwRecoverData (image { s with fw := { F with recNext := F.recNext + n } } x) .ok ∧
          (∀ k, k < n → tabGet 0xFF x (F.recNext + k) = b.getD (16 + k) 0) ∧
          (∀ a, a < F.recNext ∨ F.recNext + n ≤ a → tabGet 0xFF x a = tabGet 0xFF s.flash.image a))) ∧
      (fld b 0 1 = 3 → zeroAt b 8 4 = true →
        (imageOk s.fuses s.flash.image = false → done .fwRecoverCommit s .accessDenied) ∧
        (imageOk s.fuses s.flash.image = true → ∃ u, done .fwRecoverCommit u .ok ∧ u.bootFlags.getLsbD 4 = true ∧
          u.fw = Fw.reset ∧ u.boot = .training ∧ u.fwVersion = imageVersion s.flash.image ∧ u.flash = s.flash ∧
          (s.boot = .ready → u.layout = .none ∧ ∀ p, (polder u p).st = .absent ∧ (polder u p).inflight = []))))

/-- POLDER_CREATE makes every polder of the layout, closed, and hands out the ports and the check-value units of BAR0;
POLDER_DESTROY needs every polder closed and the layout in force as its confirmation, takes them back, and a port that
no polder owns carries no traffic of one (R31, R371, R372, R438); what of its waiting traffic that drops, all of T1
and T2 and every sealed token, is the model's choice (log 89). -/
def Obligations.LayoutsAreCreatedAndDestroyedWhole : Prop :=
  ∀ (s : State) (bs b : List Byte),
    let done (i : Instr) (u : State) (st : Status) : Prop := ∃ t, exec i s = .next t ∧ Answered u t 0 bs st []
    (Asks s 0 2 16 bs b →
      (createDenied s = true → done .polderCreate s .accessDenied) ∧
      (createDenied s = false → createOk b = false → done .polderCreate s .descInvalid) ∧
      (createDenied s = false → createOk b = true → ∃ u, done .polderCreate u .ok ∧
        layoutCode u.layout = fld b 0 1 ∧
        (∀ p : Fin 4, (polder u p).st = (if p.val < polderCount u.layout then PState.closed else .absent)) ∧
        (∀ (p : Fin 4) (q : Fin 16), (queue u p q).st = .absent) ∧
        (∀ j : Fin 6, port u j = { port s j with owner := if fld b (2 + j.val) 1 = 0xFF then none
                                                          else some (fin4 (fld b (2 + j.val) 1)) }) ∧
        (∀ k : Fin 4, u.cvus.get k = if k.val < polderCount u.layout then Cvu.reset else s.cvus.get k) ∧
        u = { s with layout := u.layout, polders := u.polders, ports := u.ports, cvus := u.cvus })) ∧
    (Asks s 0 3 8 bs b →
      ((∃ p : Fin 4, (polder s p).st ≠ .closed ∧ (polder s p).st ≠ .absent) → done .polderDestroy s .accessDenied) ∧
      ((∀ p : Fin 4, (polder s p).st = .closed ∨ (polder s p).st = .absent) →
        (s.layout = .none ∨ fld b 0 1 ≠ layoutCode s.layout ∨ zeroAt b 1 7 = false → done .polderDestroy s .descInvalid) ∧
        (s.layout ≠ .none → fld b 0 1 = layoutCode s.layout → zeroAt b 1 7 = true → ∃ u, done .polderDestroy u .ok ∧
          u.layout = .none ∧ (∀ p : Fin 4, (polder u p).st = .absent) ∧
          (∀ j : Fin 6, port u j = freePort (port s j) ∧ (port u j).owner = none ∧ (port u j).wait.get 1 = [] ∧
            (port u j).wait.get 2 = [] ∧ ∀ x ∈ (port u j).tokWait, clearType x.typ = true) ∧
          (∀ k : Fin 4, u.cvus.get k = if (polder s k).st = .absent then s.cvus.get k else Cvu.reset) ∧
          u = { s with layout := u.layout, polders := u.polders, ports := u.ports, cvus := u.cvus })))

/-- Every byte of [a, a + n) lies in one of the places that polder p may write (R216). -/
def Sys2Proof.Machine.InMemory (s : State) (p : Fin 4) (a n : Nat) : Prop := ∀ k, k < n → accessOk s p true (a + k) 1 = true

/-- OPEN checks its payload in the order of R374 and applies nothing when a check fails; on success the polder opens
with no work, no queue, no key and step 0, what its uncleaned C-dies held reads as zero, every other byte but the
first block of the trace ring's header stays, no other polder changes, and the C-dies lose their clean marks. CLOSE
drops all work and queues, erases the C-dies and sets their clean marks (R374-R376). -/
def Obligations.OpenAndCloseLeaveNoTrace : Prop :=
  ∀ (s : State) (p : Fin 4) (bs b : List Byte),
    let onDies (a : Nat) (ok : Fin 4 → Bool) : Bool := (diesOf s p).any fun d => ok d &&
      ((decide (sliceBase d ≤ a) && decide (a < sliceBase d + 2 ^ 32)) || (decide (dieBase d ≤ a) && decide (a < dieBase d + 2 ^ 40)))
    let us := openU s (diesOf s p) (fld b 0 1) (ringSize (fld b 2 1))
    let window : Prop := InMemory (modPolder s p fun P => { P with u := us }) p (fld b 0x28 8) (fld b 0x30 8)
    let done (i : Instr) (u : State) (st : Status) : Prop := ∃ t, exec i s = .next t ∧ Answered u t (vf p) bs st []
    (Asks s (vf p) 0x101 64 bs b →
      (openFields b = false → done (.openPolder p) s .descInvalid) ∧
      (openFields b = true → (∃ d ∈ diesOf s p, s.failedDies.get d = true) → done (.openPolder p) s .spareExhausted) ∧
      (openFields b = true → (∀ d ∈ diesOf s p, s.failedDies.get d = false) → ¬ window →
        done (.openPolder p) s .accessDenied) ∧
      (openFields b = true → (∀ d ∈ diesOf s p, s.failedDies.get d = false) → window →
        ∃ t u x, exec (.openPolder p) s = .next t ∧ Answered u t (vf p) bs .ok x ∧
          (let P := polder u p
           P.st = .opened ∧ P.mode = fld b 0 1 ∧ P.step = 0 ∧ P.inflight = [] ∧ P.events = [] ∧ P.claims = [] ∧
           P.gauges = [] ∧ P.layers = [] ∧ P.groups = [] ∧ P.scheds = [] ∧ P.key = none ∧ P.staged = [] ∧
           (∀ q : Fin 16, (P.queues.get q).st = .absent) ∧ fld x 0 16 = P.openNonce.toNat ∧
           (fld b 1 1 = 0 → P.hashKey.toNat = fld b 8 16 ∧ P.seed.toNat = fld b 0x18 16)) ∧
          (∀ p', p' ≠ p → polder u p' = polder s p') ∧
          (∀ a, a < traceBase (firstDie s p) ∨ traceBase (firstDie s p) + 64 ≤ a →
            memByte u a = if onDies a (fun d => !s.clean.get d) then 0 else memByte s a) ∧
          (∀ d, u.clean.get d = (s.clean.get d && !(diesOf s p).contains d)) ∧ u.hostMem = s.hostMem ∧ u.fuses = s.fuses)) ∧
    (Asks s (vf p) 0x102 0 bs b → (polder s p).discard = none → (polder s p).st ≠ .closing →
      (polder s p).st ≠ .faultedClosing → ∃ u, done (.closePolder p) u .ok ∧
      (polder u p).st = .closed ∧ (polder u p).inflight = [] ∧ (polder u p).key = none ∧
      (∀ q : Fin 16, (queue u p q).st = .absent) ∧ (∀ p', p' ≠ p → polder u p' = polder s p') ∧
      (∀ a, onDies a (fun _ => true) = true → memByte u a = 0) ∧
      (∀ d, u.clean.get d = (s.clean.get d || (diesOf s p).contains d)) ∧ u.counters = s.counters ∧
      u.fuses = s.fuses) ∧
    (Asks s (vf p) 0x102 0 bs b → (polder s p).discard = none → (polder s p).st = .closing ∨ (polder s p).st = .faultedClosing →
      ∃ u, done (.closePolder p) u .ok ∧ (polder u p).st = .shut ∧ (polder u p).inflight = [] ∧
        ∀ a, onDies a (fun _ => true) = true → memByte u a = 0)

/-- KEY_LOAD and ATTEST_GET wait for the identity, and KEY_LOAD for a polder without a queue (R382, R383). KEY_LOAD
latches the key, the rank and the ID of a plaintext that passes R383 and zeroes the IV counters, and leaves the key
state as it was on any failure. A report carries the request's nonce and takes the next sequence (R386). DEBUG_UNLOCK:
any request ends the challenge before it; a challenge is drawn and returned; an unlock succeeds only without a polder,
in the production state, under a valid challenge signed by the debug authority whose digest is fused, and then only
marks the lifecycle fuses as pending (R379). The meter key's certificate is returned once that key exists (R404);
before, the request is refused with ACCESS_DENIED, which is the model's choice (log 24). -/
def Obligations.KeysReportsAndUnlocksNeedTheirProofs : Prop :=
  (∀ (s : State) (p : Fin 4) (bs b : List Byte),
      let plainText := oaepDecrypt (identityKey s.fuses).n (identityKey s.fuses).d keyLabel ((b.drop 8).take 384)
      let done (i : Instr) (u : State) (st : Status) (x : List Byte) : Prop := ∃ t, exec i s = .next t ∧ Answered u t (vf p) bs st x
      (∀ r, removalWaits s (vf p) = false → waitingRequest s (vf p) = some r → headAgrees (reqBytes r) = true → headKnown r = true →
        (reqType (reqBytes r) = 0x103 ∧ (s.identity = false ∨ ∃ q : Fin 16, (queue s p q).st ≠ .absent)) ∨
          (reqType (reqBytes r) = 0x106 ∧ s.identity = false) →
        exec (.keyLoad p) s = .next s ∧ exec (.attestGetReport p) s = .next s ∧ exec (.attestGetChain p) s = .next s ∧
        ∃ t, exec (.unknownMessageType (vf p)) s = .next t ∧ Answered s t (vf p) (reqBytes r) .accessDenied []) ∧
      (Asks s (vf p) 0x103 392 bs b →
        (zeroAt b 4 4 = false → done (.keyLoad p) s .descInvalid []) ∧
        (zeroAt b 4 4 = true →
          (plainText = none → done (.keyLoad p) s .accessDenied []) ∧
          (∀ m, plainText = some m → (keyPlainOk s p (fld b 0 4) m = false ∨
            (polder s p).key.map (·.key) = some (BitVec.ofNat 256 (fld m 0x30 32))) → done (.keyLoad p) s .accessDenied []) ∧
          (∀ m, plainText = some m → keyPlainOk s p (fld b 0 4) m = true →
            (polder s p).key.map (·.key) ≠ some (BitVec.ofNat 256 (fld m 0x30 32)) →
            done (.keyLoad p) (modPolder s p fun P =>
              { P with key := some { key := BitVec.ofNat 256 (fld m 0x30 32), rank := BitVec.ofNat 16 (fld m 0x20 2),
                                     id := BitVec.ofNat 32 (fld b 0 4) }, ivs := [] }) .ok
              (aes (keyBytes (BitVec.ofNat 256 (fld m 0x30 32))) (zeros 16))))) ∧
      (Asks s (vf p) 0x106 48 bs b → fld b 0 1 = 0 → zeroAt b 1 3 = true → zeroAt b 0x28 8 = true →
        ∃ x, done (.attestGetReport p) { s with attestSeq := s.attestSeq + 1, draws := s.draws + 1 } .ok x ∧
          fld x 0 4 = 0x41545331 ∧ fld x 8 8 = s.fuses.serial.toNat ∧ fld x 0x16 1 = p.val ∧
          fld x 0x1A 1 = stateCode (polder s p).st ∧ fld x 0x1B 1 = (polder s p).key.isSome.toNat ∧
          fld x 0x24 4 = s.fwVersion.toNat ∧ (x.drop 0x120).take 32 = (b.drop 8).take 32 ∧ fld x 0x148 8 = s.attestSeq.toNat) ∧
      (Asks s (vf p) 0x10D 16 bs b → fld b 0 1 = 1 → zeroAt b 1 7 = true →
        (s.meterKey = false → done (.meterReadCertificate p) s .accessDenied []) ∧
        (s.meterKey = true → ∃ x, done (.meterReadCertificate p) { s with draws := s.draws + 1 } .ok x ∧
          fld x 0 4 = 0x4D4B4331 ∧ fld x 8 8 = s.fuses.serial.toNat))) ∧
  (∀ (s : State) (bs b : List Byte),
      let done (i : Instr) (u : State) (st : Status) (x : List Byte) : Prop := ∃ t, exec i s = .next t ∧ Answered u t 0 bs st x
      let ended : State := { s with challenge := none }
      (Asks s 0 0x0A 8 bs b → fld b 0 1 = 0 → zeroAt b 1 7 = true →
        ∃ x, done .debugUnlockChallenge { s with challenge := some (drawBits s 256), draws := s.draws + 1 } .ok x ∧ x.length = 48 ∧
          fld x 0 8 = s.fuses.serial.toNat ∧ fld x 0x10 32 = (drawBits s 256).toNat) ∧
      (Asks s 0 0x0A 8 bs b → fld b 0 1 = 0 → zeroAt b 1 7 = false → done .debugUnlockChallenge ended .descInvalid []) ∧
      (Asks s 0 0x0A 776 bs b → fld b 0 1 = 1 → zeroAt b 1 7 = false → done .debugUnlockUnlock ended .descInvalid []) ∧
      (Asks s 0 0x0A 776 bs b → fld b 0 1 = 1 → zeroAt b 1 7 = true →
        let n := (b.drop 8).take 384
        let good : Prop := s.layout = .none ∧ s.fuses.lifecycle = 2 ∧ digest n = s.fuses.dbgDigest ∧ ∃ c, s.challenge = some c ∧
          pssVerify n (leBytes 8 s.fuses.serial.toNat ++ leBytes 32 c.toNat ++ [3] ++ zeros 7) ((b.drop 0x188).take 384) = true
        (good → done .debugUnlockUnlock { ended with fuses := { s.fuses with pending := true } } .ok []) ∧
        (¬ good → done .debugUnlockUnlock ended .accessDenied [])))

/-- QUEUE_CREATE makes a running queue with SQ_TAIL, CQ_HEAD and QFENCE at zero, or refuses a value outside its column;
QUEUE_DESTROY stops fetching at once and is answered, with the final QFENCE, only when every started command of the queue
has posted; the queue is then gone (R298, R299). -/
def Obligations.QueuesAreCreatedAndDrained : Prop :=
  ∀ (s : State) (p : Fin 4) (bs b : List Byte),
    let done (i : Instr) (u : State) (st : Status) (x : List Byte) : Prop := ∃ t, exec i s = .next t ∧ Answered u t (vf p) bs st x
    let q := fin16 (fld b 0 1)
    (Asks s (vf p) 0x104 64 bs b →
      (queueCreateOk s p b = false → done (.queueCreate p) s .descInvalid []) ∧
      (queueCreateOk s p b = true → ∃ Q : Queue, done (.queueCreate p) (modQueue s p q fun _ => Q) .ok [] ∧
        Q.st = .running ∧ Q.tail = 0 ∧ Q.head = 0 ∧ Q.fence = 0 ∧ Q.taken = 0 ∧ Q.depth = fld b 4 4 ∧ 0 < Q.depth ∧ Q.depth ≤ 65536 ∧
        Q.sqBase = fld b 8 8 ∧ Q.cqBase = fld b 0x10 8 ∧ Q.watchdog = (if fld b 0x18 4 = 0 then 10000 else fld b 0x18 4))) ∧
    (Asks s (vf p) 0x105 8 bs b → (∀ q : Fin 16, (queue s p q).destroying = false) →
      (16 ≤ fld b 0 1 ∨ zeroAt b 1 7 = false ∨ (queue s p q).st = .absent → done (.queueDestroy p) s .descInvalid []) ∧
      (fld b 0 1 < 16 → zeroAt b 1 7 = true → (queue s p q).st ≠ .absent →
        exec (.queueDestroy p) s = .next (modQueue s p q fun Q => { Q with destroying := true }))) ∧
    (∀ (r : Request) (k : Fin 16), destroyingQueue (polder s p) = some k → waitingRequest s (vf p) = some r → bs = reqBytes r →
      ((∃ c ∈ (polder s p).inflight, c.q = k) → exec (.queueRemoved p) s = .next s) ∧
      ((∀ c ∈ (polder s p).inflight, c.q ≠ k) → ∃ x, done (.queueRemoved p) (modQueue s p k fun _ => Queue.reset) .ok x ∧
        leVal x = (queue s p k).fence.toNat ∧ x.length = 4))

/-- EVENT_READ removes and returns the oldest entries and resets the lost count (R313); COUNTER_CLEAR zeroes the named
sets of an idle polder number at one edge, which advances the generation (R419); a live read takes a snapshot and
shows it, with the cycles and stalls counted up to its edge, whose number is free (R433; log 7): at once where its
energy reads zero, else, in a debug state, when the energy up to the edge is attributed (R416, R418); POWER_CAP_SET
takes a limit from 1,200 to 2,800 W and no other (R405). -/
def Obligations.AdminRequestsTakeEffectWithTheirResponse : Prop :=
  ∀ (s : State) (f : Fin 5) (p : Fin 4) (bs b : List Byte),
    let done (i : Instr) (g : Fin 5) (u : State) (st : Status) (x : List Byte) : Prop :=
      ∃ t, exec i s = .next t ∧ Answered u t g bs st x
    let E := (func s f).events
    let n := fld b 0 2
    (Asks s f 0x10C 4 bs b →
      (n = 0 ∨ 125 < n ∨ zeroAt b 2 2 = false → done (.eventRead f) f s .descInvalid []) ∧
      (1 ≤ n → n ≤ 125 → zeroAt b 2 2 = true → ∃ x,
        done (.eventRead f) f (modFunc s f fun F => { F with events := E.drop n, lost := 0 }) .ok x ∧
        fld x 0 2 = min n E.length ∧ fld x 4 4 = (func s f).lost.toNat ∧ x.drop 8 = (E.take n).flatMap eventBytes ∧
        ((∀ e ∈ E, e.payload.length = 16) → x.length = 8 + 32 * min n E.length))) ∧
    (Asks s 0 9 16 bs b →
      (4 ≤ fld b 0 1 ∨ 2 ≤ fld b 1 1 ∨ zeroAt b 2 6 = false → done .counterClear 0 s .descInvalid []) ∧
      (fld b 0 1 = p.val → fld b 1 1 < 2 → zeroAt b 2 6 = true →
        (numberIdle (polder s p) = false → done .counterClear 0 s .accessDenied []) ∧
        (numberIdle (polder s p) = true → ∃ u x, done .counterClear 0 u .ok x ∧
          (∀ k, k < 64 → counterSet u p k = if (BitVec.ofNat 64 (fld b 8 8)).getLsbD k then zeroCounters else counterSet s p k) ∧
          counterSet u p polderSet = (if fld b 1 1 = 1 then zeroCounters else counterSet s p polderSet) ∧
          (∀ p', p' ≠ p → u.counters.get p' = s.counters.get p') ∧ leVal x = (u.counters.get p).gen.toNat ∧
          (u.counters.get p).gen = (s.counters.get p).gen + 1 ∧ (∀ p', p' ≠ p → polder u p' = polder s p') ∧
          u = { s with counters := u.counters, mem := u.mem, undef := u.undef, poison := u.poison, polders := u.polders,
                       sites := u.sites, localCount := u.localCount, cvus := u.cvus, watch := u.watch }))) ∧
    (Asks s (vf p) 0x10B 32 bs b → fld b 0 1 = 4 → dumpRsvd b = true → (func s (vf p)).live = none →
      (liveRange (fld b 8 8) (fld b 0x18 4) = false → done (.dumpReadLiveCounters p) (vf p) s .descInvalid []) ∧
      (liveRange (fld b 8 8) (fld b 0x18 4) = true → ∃ u x,
        (debugActive s = false → done (.dumpReadLiveCounters p) (vf p) u .ok x) ∧
        (debugActive s = true → ∃ snaps, exec (.dumpReadLiveCounters p) s =
          .next (modFunc u (vf p) fun F => { F with live := some { bytes := x, snaps := snaps } }) ∧
            snaps.map (·.set) = (List.range (fld b 0x18 4)).map (fld b 8 8 + ·) ∧
            ∀ k ∈ snaps, k.gen = (u.counters.get p).gen) ∧
        fld x 0 8 = (u.counters.get p).gen.toNat ∧ fld x 8 8 = (leveeTime u).toNat ∧ x.length = 16 + 128 * fld b 0x18 4 ∧
        (∀ k (i : Fin 14), i ≠ 0 → i ≠ 2 → i ≠ 3 → (counterSet u p k).get i = (counterSet s p k).get i) ∧
        u = { s with counters := u.counters, draws := u.draws, localCount := u.localCount, cvus := u.cvus })) ∧
    (Asks s 0 7 8 bs b →
      (n < 1200 ∨ 2800 < n ∨ zeroAt b 2 6 = false → done .powerCapSet 0 s .descInvalid []) ∧
      (1200 ≤ n → n ≤ 2800 → zeroAt b 2 6 = true →
        done .powerCapSet 0 { s with power := { s.power with cap := n } } .ok (leBytes 2 n ++ zeros 6)))

/-- GAUGE_CONFIG and GOV_CONFIG: a ring, a log and layer entries are staged for the next STEP in the order given; a gauge
that is not configured takes effect at once; a request that fails any rule applies nothing (R167-R169, R188, R189).
GROUP_CONFIG and SCHED_CONFIG apply every entry of an accepted request at once, each ID once, and nothing of a rejected
one; other groups and schedules stay (R198, R204). -/
def Obligations.ConfigurationIsStagedOrAppliedWhole : Prop :=
  (∀ (s : State) (p : Fin 4) (bs b : List Byte),
      let done (i : Instr) (u : State) (st : Status) : Prop := ∃ t, exec i s = .next t ∧ Answered u t (vf p) bs st []
      let staged (xs : List Staged) : State := modPolder s p fun P => { P with staged := P.staged ++ xs }
      let base := addrOf b 8
      let n := fld b 0x10 4
      let shape (lo hi : Nat) : Bool := zeroAt b 2 2 && zeroAt b 4 4 && addrHiOk b 8 && zeroAt b 0x14 12 && base % 4096 == 0 &&
        pow2In n lo hi
      (Asks s (vf p) 0x107 32 bs b →
        (fld b 0 2 = 0 →
          (shape 16 65536 = false → done (.gaugeConfigRing p) s .descInvalid) ∧
          (shape 16 65536 = true → accessOk s p true base (512 * n) = false → done (.gaugeConfigRing p) s .accessDenied) ∧
          (shape 16 65536 = true → accessOk s p true base (512 * n) = true →
            done (.gaugeConfigRing p) (staged [.ring base n]) .ok)) ∧
        (fld b 0 2 = 1 → zeroAt b 4 4 = true → zeroAt b 0x14 12 = true → fld b 2 2 = 1 → 64 ≤ b.length →
          let raw := (b.drop 32).take 32
          let g := readGaugeEntry raw
          (gaugeEntryOk raw = false → done (.gaugeConfigEntries p) s .descInvalid) ∧
          (gaugeEntryOk raw = true → g.remove = true → g.scaleAddr = 0 → (polder s p).staged = [] → (polder s p).gauges.length ≤ 1024 →
            spansMeet (managedSpans (applyEntry (polder s p).gauges g)) = false →
            done (.gaugeConfigEntries p) (if (gaugeOf (polder s p) g.id).isSome then staged [.gauge g] else s)
              (if (gaugeOf (polder s p) g.id).isSome then .ok else .descInvalid)) ∧
          (gaugeEntryOk raw = true → g.remove = false → g.scaleAddr = 0 → (polder s p).staged = [] → (polder s p).gauges.length < 1024 →
            spansMeet (managedSpans (polder s p).gauges) = false → gaugeOf (polder s p) g.id = none →
            ∃ gs, done (.gaugeConfigEntries p) (modPolder s p fun P => { P with gauges := gs }) .ok ∧
              tabGet none gs g.id = some (newGauge g) ∧ ∀ k, k ≠ g.id → tabGet none gs k = tabGet none (polder s p).gauges k))) ∧
      (Asks s (vf p) 0x108 32 bs b →
        (fld b 0 2 = 0 →
          (shape 64 1048576 = false → done (.govConfigLog p) s .descInvalid) ∧
          (shape 64 1048576 = true → accessOk s p true base (64 + 16 * n) = false → done (.govConfigLog p) s .accessDenied) ∧
          (shape 64 1048576 = true → accessOk s p true base (64 + 16 * n) = true → done (.govConfigLog p) (staged [.log base n]) .ok)) ∧
        (fld b 0 2 = 1 →
          let k := fld b 2 2
          let raw := slices b 0x20 16 k
          let good := zeroAt b 4 4 && zeroAt b 0x14 12 && decide (1 ≤ k) && decide (k ≤ 250) && decide (32 + 16 * k ≤ b.length) &&
            layerEntriesOk (polder s p) (futureLayers (polder s p)) raw
          done (.govConfigEntries p) (if good then staged (raw.map fun x => .layer (readLayerEntry x)) else s)
            (if good then .ok else .descInvalid)))) ∧
  (∀ (s : State) (p : Fin 4) (bs b : List Byte),
      let done (i : Instr) (u : State) (st : Status) : Prop := ∃ t, exec i s = .next t ∧ Answered u t (vf p) bs st []
      let n := fld b 0 2
      let head (size most : Nat) : Bool := zeroAt b 2 30 && decide (1 ≤ n) && decide (n ≤ most) && decide (32 + size * n ≤ b.length)
      let entry (size k : Nat) : List Byte := (b.drop (32 + size * k)).take size
      let apart (size : Nat) : Prop := ∀ i j, i < n → j < n → i ≠ j → fld (entry size i) 0 1 ≠ fld (entry size j) 0 1
      (Asks s (vf p) 0x109 32 bs b →
        (head 48 83 = false ∨ ¬ apart 48 ∨ (∃ k, k < n ∧ groupEntryOk (polder s p) (entry 48 k) = false) →
          done (.groupConfig p) s .descInvalid) ∧
        (head 48 83 = true → apart 48 → (∀ k, k < n → groupEntryOk (polder s p) (entry 48 k) = true) →
          ∃ gs, done (.groupConfig p) (modPolder s p fun P => { P with groups := gs }) .ok ∧
            (∀ k, k < n → tabGet none gs (fld (entry 48 k) 0 1) =
              if removes (entry 48 k) then none else some (readGroup (entry 48 k))) ∧
            (∀ id, (∀ k, k < n → fld (entry 48 k) 0 1 ≠ id) → tabGet none gs id = tabGet none (polder s p).groups id))) ∧
      (Asks s (vf p) 0x10A 32 bs b →
        (head 32 125 = false ∨ ¬ apart 32 ∨ (∃ k, k < n ∧ schedEntryOk (polder s p) (entry 32 k) = false) →
          done (.schedConfig p) s .descInvalid) ∧
        (head 32 125 = true → apart 32 → (∀ k, k < n → schedEntryOk (polder s p) (entry 32 k) = true) →
          ∃ xs, done (.schedConfig p) (modPolder s p fun P => { P with scheds := xs }) .ok ∧
            (∀ k, k < n → tabGet none xs (fld (entry 32 k) 0 1) =
              if removes (entry 32 k) then none else some (readSched (entry 32 k))) ∧
            (∀ id, (∀ k, k < n → fld (entry 32 k) 0 1 ≠ id) → tabGet none xs id = tabGet none (polder s p).scheds id))))

/-- DUMP_READ: a copy moves the dump's bytes to the polder's own memory and nowhere else, or is refused, with
ECC_UNCORRECTED when it meets an uncorrectable error (R226); a capture freezes the polder and abandons its work: a
dump is held, a discard has begun, nothing is in flight (R338, R429); a release drops the held dump (R431). -/
def Obligations.DumpsAreCopiedCapturedAndReleased : Prop :=
  ∀ (s : State) (p : Fin 4) (bs b : List Byte), Asks s (vf p) 0x10B 32 bs b →
    let done (i : Instr) (u : State) (st : Status) : Prop := ∃ t, exec i s = .next t ∧ Answered u t (vf p) bs st []
    let P := polder s p
    let src := dumpBase (firstDie s p) + fld b 8 8
    let dst := fld b 0x10 8
    let n := fld b 0x18 4
    (fld b 0 1 = 1 →
      (P.st ≠ .opened ∧ P.st ≠ .faulted → done (.dumpReadCopy p) s .accessDenied) ∧
      (P.st = .opened ∨ P.st = .faulted →
        (dumpRsvd b = false ∨ P.dump = none → done (.dumpReadCopy p) s .descInvalid) ∧
        (∀ d, dumpRsvd b = true → P.dump = some d → dst % 64 ≠ 0 ∨ 2 ^ 48 ≤ dst ∨ 2 ^ 26 < n ∨ d.length < fld b 8 8 + n →
          done (.dumpReadCopy p) s .descInvalid) ∧
        (∀ d, dumpRsvd b = true → P.dump = some d → dst % 64 = 0 → dst < 2 ^ 48 → n ≤ 2 ^ 26 → fld b 8 8 + n ≤ d.length →
          (userRange s p dst n = false → done (.dumpReadCopy p) s .accessDenied) ∧
          (userRange s p dst n = true → meetsBad s src n = true → done (.dumpReadCopy p) (touch s p src n) .eccUncorrected) ∧
          (userRange s p dst n = true → s.poison = [] → ∃ u, done (.dumpReadCopy p) u .ok ∧
            memBytes u dst n = memBytes s src n ∧ (∀ a, a < dst ∨ dst + n ≤ a → memByte u a = memByte s a) ∧
            (∀ p, Kept (polder s p) (polder u p)) ∧
            u = { s with mem := u.mem, undef := u.undef, sites := u.sites, polders := u.polders, watch := u.watch })))) ∧
    (fld b 0 1 = 2 → P.st ≠ .opened → done (.dumpReadCapture p) s .accessDenied) ∧
    (fld b 0 1 = 2 → P.st = .opened → dumpRsvd b = true → ∃ u, done (.dumpReadCapture p) u .ok ∧
      (polder u p).dump.isSome = true ∧
      (P.discard = none → (polder u p).discard.isSome = true ∧ (polder u p).inflight = [])) ∧
    (fld b 0 1 = 3 → dumpRsvd b = true → done (.dumpReadRelease p) (modPolder s p fun P => { P with dump := none }) .ok)

/-- METER_CONFIG: a ring, a release up to the records written, parameters for the next batch of a polder's chain; each
answers with the counts of the chain (R403). -/
def Obligations.MeterSettingsAreChecked : Prop :=
  ∀ (s : State) (bs b : List Byte) (c : Fin 5), Asks s 0 8 32 bs b → fld b 1 1 = c.val → meterRsvd b = true →
    let C := chain s c
    let n := fld b 4 4
    let refused (i : Instr) : Prop := ∃ t, exec i s = .next t ∧ Answered s t 0 bs .descInvalid []
    let done (i : Instr) (D : Chain) : Prop := ∃ t x, exec i s = .next t ∧ Answered (modChain s c fun _ => D) t 0 bs .ok x ∧
      x.length = 24 ∧ fld x 0 8 = (D.seq - D.buffer.length) % 2 ^ 64 ∧ fld x 8 8 = D.released % 2 ^ 64 ∧
      fld x 16 4 = D.buffer.length % 2 ^ 32
    (fld b 0 1 = 0 →
      (n = 0 → done .meterConfigSetRing { C with ring := none }) ∧
      (isPow2 n = true → 64 ≤ n → n ≤ 1048576 → fld b 8 8 % 4096 = 0 →
        done .meterConfigSetRing { C with ring := some (fld b 8 8, n) }) ∧
      (n ≠ 0 → isPow2 n = false ∨ n < 64 ∨ 1048576 < n ∨ fld b 8 8 % 4096 ≠ 0 → refused .meterConfigSetRing)) ∧
    (fld b 0 1 = 1 →
      (C.released + n ≤ C.seq - C.buffer.length → done .meterConfigRelease { C with released := C.released + n }) ∧
      (C.seq - C.buffer.length < C.released + n → refused .meterConfigRelease)) ∧
    (fld b 0 1 = 2 →
      let shift := fld b 0x10 1
      let delay := fld b 0x12 2
      (c ≠ 4 → shift ≤ 31 → 1 ≤ delay → delay ≤ 10000 →
        done .meterConfigSetParameters { C with nextParams := some (shift, delay) }) ∧
      (c = 4 ∨ 31 < shift ∨ delay = 0 ∨ 10000 < delay → refused .meterConfigSetParameters))

/-! ## Ring commands -/

/-- The checks of a ring row after those of its entry, in their order (R245, R131, …). -/
def Sys2Proof.Machine.entryChecks (s : State) : Instr → Option (Fin 4 × Fin 16 × Entry × Option Status)
  | .mm p q e => some (p, q, e, mmChecks s p e)
  | .vk p q e => some (p, q, e, vkChecks s p e)
  | .move p q e _ => some (p, q, e, slChecks s p e)
  | .fill p q e => some (p, q, e, slChecks s p e)
  | .crc p q e => some (p, q, e, crcChecks s p e)
  | .bucketAdd p q e => some (p, q, e, slChecks s p e)
  | .reduce p q e => some (p, q, e, redChecks s p e)
  | .gather p q e => some (p, q, e, slChecks s p e)
  | .scatter p q e => some (p, q, e, slChecks s p e)
  | .update p q e => some (p, q, e, updChecks s p e)
  | .stepCmd p q e => some (p, q, e, stepChecks s p e)
  | .stateSave p q e => some (p, q, e, firstFail (packChecks s p false e ++ [(saveMemory s p e, .accessDenied)]))
  | .stateLoad p q e => some (p, q, e, firstFail (packChecks s p true e))
  | .replayCheck p q e => some (p, q, e, replayChecks s p e)
  | .mark p q e => some (p, q, e, if markOk e then none else some .descInvalid)
  | .eventSignal p q e => some (p, q, e, inlEventCheck e)
  | .eventWait p q e => some (p, q, e, inlEventCheck e)
  | .barrier p q e => some (p, q, e, barChecks s p e)
  | .nop p q e => some (p, q, e, none)
  | _ => none

/-- A row of the ring takes place only when its entry is at the head of a running queue whose turn it is, passes R302
and may start; it then takes the entry, opens its request, writes at most records of the trace ring, and stands in
flight in the step it started in; the first check that fails ends it with that check's status and none of its effect.
An entry whose start waits is only noted as waiting, so that the turn passes its queue over (R100, R245, R300, R302,
R304, R305, R308). -/
def Obligations.CommandStartChecksBeforeItActs : Prop :=
  ∀ (i : Instr) (s : State) (p : Fin 4) (q : Fin 16) (e : Entry) (c : Option Status) (op : Nat),
    entryChecks s i = some (p, q, e, c) → i.ringOpcode = some (op, e) →
    let u := startCmd s p q e
    let trace := traceBase (firstDie s p)
    (headOk s p q e (BitVec.ofNat 8 op) = false → exec i s = .next s) ∧
    (headOk s p q e (BitVec.ofNat 8 op) = true → mayStart s p q e = false →
      exec i s = .next (modQueue s p q fun Q => { Q with waiting := some e })) ∧
    (startOk s p q e (BitVec.ofNat 8 op) = true →
      (∀ st, c = some st → exec i s = .next (endCmd u p q e.seq st)) ∧
      queue u p q = { queue s p q with taken := (queue s p q).taken + 1, waiting := none } ∧ (polder u p).served = q ∧
      (∀ p' q', (p', q') ≠ (p, q) → queue u p' q' = queue s p' q') ∧
      (∃ x : Cmd, (polder u p).inflight = (polder s p).inflight ++ [x] ∧ x.e = e ∧ x.q = q ∧ x.res = none ∧
        x.step = (polder s p).step) ∧
      (∀ p', p' ≠ p → polder u p' = polder s p') ∧
      (∀ a, a < trace ∨ trace + (polder s p).traceSize ≤ a → memByte u a = memByte s a) ∧
      u = { s with polders := u.polders, mem := u.mem, undef := u.undef, poison := u.poison, counters := u.counters, sites := u.sites,
                   localCount := u.localCount, cvus := u.cvus, draws := u.draws, watch := u.watch })

/-- NOP and EVENT_SIGNAL end at once (that the event is signalled with the completion,
CompletionsCarryStatusAndWarnings, and not before it is the model's choice, log 13); a signal moves its counter, to
the larger value or one up, and wakes every wait that it satisfies; EVENT_WAIT ends when its counter has the value and
waits otherwise, until its timeout ends it with TIMEOUT; MARK queues one mark record, the last of those that wait for
the energy of their snapshot (R306, R308, R416, R427). An entry that fails R302 ends with the status of the first
check it fails and its flags and events unheeded. -/
def Obligations.EventsCountUpAndWakeWaits : Prop :=
  ∀ (s : State) (p : Fin 4) (q : Fin 16) (e : Entry) (n : Word),
    let u := startCmd s p q e
    let ev := inlEvent e
    let v := inlValue e
    let before := tabGet 0 (polder s p).events ev
    let after : Word := if v = 0 then before + 1 else if before < v then v else before
    (startOk s p q e 0x13 = true → exec (.nop p q e) s = .next (endCmd u p q e.seq .ok)) ∧
    (startOk s p q e 0x10 = true → ev < 4096 → exec (.eventSignal p q e) s = .next (endCmd u p q e.seq .ok)) ∧
    (let t := signal s p ev v
     tabGet 0 (polder t p).events ev = after ∧ (∀ k, k ≠ ev → tabGet 0 (polder t p).events k = tabGet 0 (polder s p).events k) ∧
      (∀ c ∈ (polder s p).inflight, ∀ w, c.body = .wait ev w → w ≤ after →
        ({ c with body := .done, res := some .ok, doneTime := leveeTime s } : Cmd) ∈ (polder t p).inflight) ∧
      (∀ c ∈ (polder s p).inflight, (∀ w, c.body = .wait ev w → after < w) → c ∈ (polder t p).inflight) ∧
      t = modPolder s p (fun P => { P with events := (polder t p).events, inflight := (polder t p).inflight })) ∧
    (startOk s p q e 0x11 = true → ev < 4096 →
      (v ≤ before → exec (.eventWait p q e) s = .next (endCmd u p q e.seq .ok)) ∧
      (before < v → exec (.eventWait p q e) s = .next (setBody u p q e.seq (.wait ev v)))) ∧
    (∀ c w x, liveCmd s p q n = some c → c.body = .wait x w →
      exec (.eventWaitTimeout p q n) s = .next (endCmd s p q n .timeout)) ∧
    (startOk s p q e 0x0F = true → markOk e = true → ∃ t, exec (.mark p q e) s = .next (endCmd t p q e.seq .ok) ∧
      (0 < traceEntries (polder s p) → nextRecord (polder t p) = nextRecord (polder s p) + 1 ∧
        ∃ r snap, (polder t p).ringDue.getLast? = some r ∧ r.snap = some snap ∧ snap.set = e.ctrSet.toNat ∧ snap.slot.isSome = true ∧
          r.bytes.length = 256 ∧ fld r.bytes 0 1 = 3 ∧ fld r.bytes 4 4 = e.seq.toNat ∧
          fld r.bytes 8 8 = (nextRecord (polder s p)).toNat ∧ (r.bytes.drop 0x98).take 5 = (inlBytes e).take 5)) ∧
    (mayTake s p q = true → inTurn s p q = true → ∃ w : Word, w = (queue s p q).taken + 1 ∧
      (∀ st, (if entryCompOk e = false then st = .complementMismatch
              else (e.seq ≠ w ∨ entryFieldsOk e = false) ∧ st = .descInvalid) →
        exec (.invalidOpcodeEntry p q e) s = .next (endCmd (startCmd s p q
          { e with flags := 0, seq := w, sigEv := 0xFFFF, waitEv := 0xFFFF,
                   ctrSet := if e.ctrSet.toNat < 64 then e.ctrSet else 0xFFFF } false) p q w st)))

/-- FILL, MOVE, GATHER and SCATTER write each line of the destination with the pattern, the source line, the
transposed line or the line an index names, and nothing else; MOVE to and from host memory likewise, and is refused
whole where the host refuses; an index not below the line count fails the command (R34, R242-R245). Shown where no
memory error stands and source and destination do not overlap, unsealed and unchecked. That bytes which a host read
does not bring count as zero, and that a copy ends here and posts later, is the model's choice (logs 65, 13). -/
def Obligations.CopiesWriteTheirLinesAndNothingElse : Prop :=
  ∀ (s : State) (p : Fin 4) (q : Fin 16) (e : Entry) (h : HostRead),
    let u := startCmd s p q e
    let d := slDesc s e
    let src (i : Nat) : List Byte := cleanLine d.sbits d.length (memBytes u (d.src + i * d.sstride) d.sbytes)
    let idx (k : Nat) : Nat := memNat u (d.index + 4 * k) 4
    let at_ (i : Nat) : Nat := d.dst + i * d.dstride
    let writes (i : Instr) (lines : Nat) (f : Nat → Option (List Byte)) : Prop := ∃ v, exec i s = .next (endCmd v p q e.seq .ok) ∧
      MemFrame u v ∧ (∀ k l, k < lines → f k = some l → memBytes v (at_ k) d.dbytes = l) ∧
      (∀ a, (∀ k, k < lines → (f k).isSome = true → a < at_ k ∨ at_ k + d.dbytes ≤ a) → memByte v a = memByte u a)
    s.poison = [] → slChecks s p e = none → d.checked = false → d.sealed_ = false →
    (startOk s p q e 0x04 = true → slEmpty d = false →
      writes (.fill p q e) d.lines fun _ => some (packLine d.dbits (List.replicate d.length (d.fill % 2 ^ d.dbits)))) ∧
    (startOk s p q e 0x03 = true → d.peer = false → slEmpty d = true → exec (.move p q e h) s =
      .next (endCmd u p q e.seq .ok)) ∧
    (startOk s p q e 0x03 = true → d.peer = false → slEmpty d = false → d.hostSrc = false → d.hostDst = false →
      areasMeet d.src d.lines d.sbytes d.sstride d.dst d.dlines d.dbytes d.dstride = false →
      writes (.move p q e h) d.dlines fun k => some (if d.transpose then
        packLine d.sbits ((List.range d.lines).map fun i => lineElem d.sbits (src i) k) else src k)) ∧
    (startOk s p q e 0x03 = true → slEmpty d = false → d.hostSrc = true → h.granted = true →
      writes (.move p q e h) d.lines fun k => some (cleanLine d.sbits d.length
        (((padTo (d.lines * d.sbytes) h.data).drop (k * d.sbytes)).take d.sbytes))) ∧
    (startOk s p q e 0x03 = true → slEmpty d = false → d.hostDst = true → h.granted = true →
      ∃ v, exec (.move p q e h) s = .next (endCmd v p q e.seq .ok) ∧ MemFrame { u with hostMem := v.hostMem } v ∧ SameMem u v ∧
        (∀ k, k < d.lines → tabBytes v.hostMem (at_ k) d.dbytes = src k) ∧
        (∀ a, (∀ k, k < d.lines → a < at_ k ∨ at_ k + d.dbytes ≤ a) → tabGet 0 v.hostMem a = tabGet 0 u.hostMem a)) ∧
    (startOk s p q e 0x03 = true → slEmpty d = false → (d.hostSrc = true ∨ d.hostDst = true) → h.granted = false →
      exec (.move p q e h) s = .next (failCmd (setAreas u p q e.seq (dstArea d)) p q e.seq .accessDenied)) ∧
    (startOk s p q e 0x08 = true → slEmpty d = false → (∀ k, k < d.icount → idx k < d.lines) →
      areasMeet d.src d.lines d.sbytes d.sstride d.dst d.dlines d.dbytes d.dstride = false →
      writes (.gather p q e) d.icount fun k => some (src (idx k))) ∧
    (startOk s p q e 0x09 = true → slEmpty d = false → (∀ k, k < d.icount → idx k < d.lines) →
      (∀ k l, k < d.icount → l < d.icount → idx k = idx l → k = l) →
      areasMeet d.src d.icount d.sbytes d.sstride d.dst d.lines d.dbytes d.dstride = false →
      writes (.scatter p q e) d.lines fun i => ((List.range d.icount).find? fun k => idx k == i).map src) ∧
    (startOk s p q e 0x08 = true → slEmpty d = false → (∃ k, k < d.icount ∧ d.lines ≤ idx k) → ∃ v,
      exec (.gather p q e) s = .next (failCmd v p q e.seq .descInvalid) ∧ MemFrame u v ∧ SameMem u v)

/-- BUCKET_ADD writes each element as the product with the multiplier plus the addend, rounded once to FP32 and then
to the bucket format, and nothing else (R254). CRC writes the eight bytes of its result, over every byte of its lines
in order, and reports a result that differs from the expected one when told to compare (R434-R437); a checked copy
writes its lines and the same result over its source (R244). A sealed copy to the host writes the records of its
stream and takes an IV for each; one from the host ends OK when every record verifies and ACCESS_DENIED otherwise, and
writes nothing outside its lines (R248-R250). A copy to a peer is sent, and waits for its confirmation (R252, R253).
-/
def Obligations.ResultsOfBucketsChecksSealsAndPeerCopies : Prop :=
  ∀ (s : State) (p : Fin 4) (q : Fin 16) (e : Entry) (h : HostRead), s.poison = [] →
    let u := startCmd s p q e
    let d := slDesc s e
    let bs := memBytes s e.desc.toNat 64
    let c := readCheck bs 0x20
    let line (k : Nat) : List Byte := memBytes u (d.src + k * d.sstride) d.sbytes
    let add (k : Nat) : List Byte := if d.addend = 0 then [] else memBytes u (d.addend + k * d.dstride) d.dbytes
    let out (k : Nat) : List Conv := (List.range d.length).map fun i =>
      bucketElem d.dstFmt (decodeElem d.srcFmt (lineElem d.sbits (line k) i)) (f32dec d.mult)
        (if d.addend = 0 then .zero else decodeElem d.dstFmt (lineElem d.dbits (add k) i))
    let value (c : CheckCfg) (bytes : List Byte) : Nat :=
      crcResult c.poly (c.flags / 2 % 2 == 1) c.fxor (bytes.foldl (crcByte c.poly (c.flags % 2 == 1)) c.init)
    let res := value c ((List.range (crcLines bs)).flatMap fun k => memBytes u (addrOf bs 0 + k * crcStride bs) (crcBytesPer bs))
    let at_ (k : Nat) : Nat := d.dst + k * d.dstride
    let chunks := (d.lines * d.sbytes + 65535) / 65536
    let copies := startOk s p q e 0x03 = true ∧ slChecks s p e = none ∧ slEmpty d = false
    (startOk s p q e 0x06 = true → slChecks s p e = none → slEmpty d = false →
      areasMeet d.src d.lines d.sbytes d.sstride d.dst d.lines d.dbytes d.dstride = false →
      ∃ v, exec (.bucketAdd p q e) s = .next (endCmd v p q e.seq .ok) ∧ MemFrame u v ∧
        (∀ k, k < d.lines → memBytes v (d.dst + k * d.dstride) d.dbytes = packLine d.dbits ((out k).map (·.code))) ∧
        (∀ a, (∀ k, k < d.lines → a < d.dst + k * d.dstride ∨ d.dst + k * d.dstride + d.dbytes ≤ a) →
          memByte v a = memByte u a)) ∧
    (startOk s p q e 0x05 = true → crcChecks s p e = none → ∃ v unit, exec (.crc p q e) s = .next (endCmd
        (if c.flags / 4 % 2 == 1 && res != c.exp then polderEvent v p 0x0601 (cvuMismatchPay 1 unit q.val e.seq res) else v)
        p q e.seq .ok) ∧
      MemFrame { u with sluiceCvu := v.sluiceCvu } v ∧ memBytes v (addrOf bs 0x18) 8 = leBytes 8 res ∧
      (∀ a, a < addrOf bs 0x18 ∨ addrOf bs 0x18 + 8 ≤ a → memByte v a = memByte u a)) ∧
    (copies → d.checked = true → d.sealed_ = false → d.peer = false → d.hostSrc = false → d.hostDst = false → d.transpose = false →
      areasMeet d.src d.lines d.sbytes d.sstride d.dst d.lines d.dbytes d.dstride = false →
      (∀ k, k < d.lines → at_ k + d.dbytes ≤ d.result ∨ d.result + 8 ≤ at_ k) → ∃ v, exec (.move p q e h) s = .next v ∧
        (cmdAt v p q e.seq).map (·.res) = some (some .ok) ∧
        memBytes v d.result 8 = leBytes 8 (value d.check ((List.range d.lines).flatMap line)) ∧
        (∀ k, k < d.lines → memBytes v (at_ k) d.dbytes = cleanLine d.sbits d.length (line k)) ∧
        (∀ a, (a < d.result ∨ d.result + 8 ≤ a) → (∀ k, k < d.lines → a < at_ k ∨ at_ k + d.dbytes ≤ a) → memByte v a = memByte u a)) ∧
    (∀ k, copies → d.checked = false → d.sealed_ = true → h.granted = true → (polder s p).key = some k →
      (d.hostDst = true → ∃ v, exec (.move p q e h) s = .next (endCmd v p q e.seq .ok) ∧ SameMem u v ∧
        v.hostMem = tabSplice 0 u.hostMem d.dst (sealChunks chunks (keyBytes k.key) k.rank (ivCounter u p 0xFF 0) d.src d.sstride d.sbytes 0
          ((List.range d.lines).flatMap fun i => cleanLine d.sbits d.length (line i))) ∧
        ivCounter v p 0xFF 0 = ivCounter u p 0xFF 0 + BitVec.ofNat 64 chunks) ∧
      (d.hostSrc = true →
        let good := (openChunks chunks (keyBytes k.key) d.dst d.dstride d.dbytes 0 (d.lines * d.sbytes) h.data).2
        ∃ v, exec (.move p q e h) s = .next (endCmd v p q e.seq (if good then .ok else .accessDenied)) ∧
          ∀ a, (∀ k, k < d.lines → a < at_ k ∨ at_ k + d.dbytes ≤ a) → memByte v a = memByte u a)) ∧
    (copies → d.checked = false → d.peer = true →
      let j := fin6 d.portNo
      let id := writeId u p j
      ∃ v, exec (.move p q e h) s = .next v ∧ SameMem u v ∧ (polder v p).remoteOut = (polder u p).remoteOut ++ [(id, q, e.seq)] ∧
        (cmdAt v p q e.seq).map (·.body) = some (.remote id) ∧ ∀ i, i ≠ j → port v i = port u i)

/-- The completion of the oldest command of a queue, once its work has ended: OK_WARN exactly when its warning word is
nonzero, OK exactly when it is zero, any other status with the warning bits gathered so far; the entry goes to slot j
mod (D + 1) with its phase and the time at which the completion was decided; QFENCE takes its sequence; an
EVENT_SIGNAL signals its event, and a command with a signal event that one; the command leaves (R16, R303, R305, R307,
R308). Shown where no memory error stands and its watchdog has not expired (R428). That an EVENT_SIGNAL signals only
here is the model's choice (log 13). -/
def Obligations.CompletionsCarryStatusAndWarnings : Prop :=
  ∀ (s : State) (p : Fin 4) (q : Fin 16) (c : Cmd) (st : Status) (rest : List Cmd),
    s.boot = .ready → s.poison = [] → (polder s p).st = .opened → (polder s p).discard = none → (queue s p q).st ≠ .error →
    (polder s p).inflight.filter (fun x => x.q = q) = c :: rest → c.res = some st →
    c.expired = false →
    let Q := queue s p q
    let shown : Status := if st = .ok ∨ st = .okWarn then (if c.warn = 0 then .ok else .okWarn) else st
    let slot := Q.cqBase + 32 * (Q.posted % (Q.depth + 1))
    ∃ t, exec (.commandCompletion p q) s = .next t ∧
      tabBytes t.hostMem slot 4 = leBytes 4 c.e.seq.toNat ∧ tabBytes t.hostMem (slot + 4) 1 = leBytes 1 (statusCode shown) ∧
      tabBytes t.hostMem (slot + 5) 1 = leBytes 1 (if Q.posted / (Q.depth + 1) % 2 = 0 then 1 else 0) ∧
      tabBytes t.hostMem (slot + 6) 2 = leBytes 2 c.warn.toNat ∧ tabBytes t.hostMem (slot + 8) 4 = leBytes 4 c.e.reqId.toNat ∧
      tabBytes t.hostMem (slot + 16) 4 = leBytes 4 c.detail.toNat ∧
      tabBytes t.hostMem (slot + 24) 8 = leBytes 8 c.doneTime.toNat ∧
      (∀ a, a < slot ∨ slot + 32 ≤ a → tabGet 0 t.hostMem a = tabGet 0 s.hostMem a) ∧
      (queue t p q).fence = c.e.seq ∧ (queue t p q).posted = Q.posted + 1 ∧ (queue t p q).taken = Q.taken ∧
      (∀ x ∈ (polder t p).inflight, ¬ (x.q = q ∧ x.e.seq = c.e.seq)) ∧
      (∀ k, tabGet 0 (polder t p).events k =
        let x := tabGet 0 (polder s p).events k
        let y := if c.valid = true ∧ c.e.opcode = 0x10 ∧ (st = .ok ∨ st = .okWarn) ∧ k = inlEvent c.e then signalled x (inlValue c.e) else x
        if flagSignal c.e = true ∧ k = c.e.sigEv.toNat then signalled y c.e.sigVal else y) ∧
      (func t (vf p)).cause.getLsbD (16 + q.val) = true ∧ (∀ p', p' ≠ p → polder t p' = polder s p')

/-! ## Matrix commands -/

/-- The lines of C, and of lo for a pair, that the sums of a sub-tile become through the epilogue (R34, R59, R64). -/
def Sys2Proof.Machine.drainLines (s : State) (r : MmRun) (is js : Nat × Nat) (accs : List Acc) : List (Nat × List Byte) :=
  let rows : List (List OutElem) := (rowsOf (js.2 - js.1) (is.2 - is.1) accs).mapIdx fun i row => row.mapIdx fun j acc =>
    outElem r (outScale s r (is.1 + i) (js.1 + j)) (finishAcc s r (is.1 + i) (js.1 + j) acc).1
      (finishAcc s r (is.1 + i) (js.1 + j) acc).2 acc.accf
  outLines r r.d.c.addr is.1 js.1 (rows.map fun row => row.map (·.conv.code)) ++
    (if r.d.pairEn then outLines r (pairLo r.d r.fc) is.1 js.1 (rows.map fun row => row.map (·.lo)) else [])

/-- The same for every sub-tile of a tile, from its sums one after another. -/
def Sys2Proof.Machine.tileLines (s : State) (r : MmRun) : List ((Nat × Nat) × (Nat × Nat)) → List Acc → List (Nat × List Byte)
  | [], _ => []
  | x :: rest, accs =>
    let k := (x.1.2 - x.1.1) * (x.2.2 - x.2.1)
    drainLines s r x.1 x.2 (accs.take k) ++ tileLines s r rest (accs.drop k)

/-- What a tile engine may have moved: memory, counters, traffic, its command's record, slots, banks and tables, and
the count of free values; no vector engine, no queue, no other polder's registers. -/
def Sys2Proof.Machine.TileFrame (u v : State) : Prop :=
  v = { u with mem := v.mem, undef := v.undef, counters := v.counters, sites := v.sites, polders := v.polders, clusters := v.clusters,
               draws := v.draws, watch := v.watch } ∧
  (∀ p, Kept (polder u p) (polder v p)) ∧ ∀ c, ve v c = ve u c

/-- MM without output ends at once, else its items lie each in the block of exactly one lane, and its inputs are
watched from then on; a lane takes its slot and its first items; a refill deals up to 64; an idle lane steals the last
item of its first victim (R95, R100, R115, R116, R118, R119, R125). That a deque is filled when the command starts on
its cluster is the model's reading (log 75). -/
def Obligations.MatrixCommandsDealTheirItemsToLanes : Prop :=
  ∀ (s : State) (p : Fin 4) (q : Fin 16) (e : Entry) (n : Word) (k : Nat),
    let u := startCmd s p q e
    let d := readLayer s e.desc.toNat
    let r0 := mmRun u p d
    let l0 := latchLayer u p d
    let run := setAreas (setBody (watchInputs l0 p q e.seq r0) p q e.seq (.mm r0)) p q e.seq (mmAreas r0 ++ overlapAreas r0)
    (startOk s p q e 0x01 = true → mmChecks s p e = none →
      (d.empty = true → exec (.mm p q e) s = .next (endCmd l0 p q e.seq .ok)) ∧
      (d.empty = false → exec (.mm p q e) s = .next (if d.k = 0 then addWarn run p q e.seq wKZero else run)) ∧
      (0 < clusterCount u p d.base d.count → ∀ i, i < r0.items → ∃ c l, (c, l) ∈ r0.lanes ∧ l.next ≤ i ∧ i < l.stop ∧
        ∀ c' l', (c', l') ∈ r0.lanes → l'.next ≤ i → i < l'.stop → c' = c)) ∧
    (∀ cm r l, liveMm s p q n = some (cm, r) → laneAt r k = some l →
      let cl := mmCluster s p r.d k
      let more := min (64 - l.deque.length) (l.stop - l.next)
      let filled : MmLane := { l with deque := l.deque ++ upTo l.next (l.next + more), next := l.next + more }
      (l.started = false → slotFree (cluster s cl) r.d.slot r.d.slotSize = true → (r.lanes.any fun x => waiting x.2) = true →
        ∃ v, exec (.mmClusterStart p q n k) s = .next v ∧
          v = { setBody s p q n (.mm (setLane r k { filled with started := true })) with clusters := v.clusters, draws := v.draws } ∧
          (∀ c, c ≠ cl → cluster v c = cluster s c) ∧ ve v cl = ve s cl ∧
          (cluster v cl).slots = (cluster s cl).slots ++ [(r.d.slot, r.d.slotSize, p, q, n)]) ∧
      ((l.started = true ∨ slotFree (cluster s cl) r.d.slot r.d.slotSize = false ∨ (r.lanes.any fun x => waiting x.2) = false) →
        exec (.mmClusterStart p q n k) s = .next s) ∧
      (l.started = true → l.deque.length ≤ 16 → l.next < l.stop → ∃ v, exec (.dequeRefill p q n k) s = .next v ∧
        v = { setBody s p q n (.mm (setLane r k filled)) with clusters := v.clusters } ∧
        ∀ c, cluster v c = { cluster s c with tables := (cluster v c).tables }) ∧
      (∀ w lw item rest, l.started = true → idleLane l = true → (victimOrder s p r k).find? (hasItem r) = some w → laneAt r w = some lw →
        lw.deque = rest ++ [item] → ∃ v, exec (.tileSteal p q n k) s = .next v ∧
          v = { setBody s p q n (.mm (setLane (setLane r w { lw with deque := rest }) k { l with deque := [item] })) with
                counters := (countAdd (countAdd s p cm.e.ctrSet 11 1) p cm.e.ctrSet 12 1).counters, clusters := v.clusters } ∧
          ∀ c, ve v c = ve s c))

/-- A drained sub-tile goes into the partial of its item, which its place in scratch holds in a form of the module's
own, or through the epilogue into C and lo and nothing else; the ranges of a tile combine by the tree; an operand that
fails a check fails the command; the last item ends it with OK (R34, R59, R64, R77, R78, R117, R120, R121). Drains are
shown where no memory error stands, for targets that R68 lists; the end where C meets no input and no input has
changed, so that C stays as written (R100, R104). -/
def Obligations.MatrixCommandsDrainIntoTheirOutput : Prop :=
  ∀ (s : State) (p : Fin 4) (q : Fin 16) (n : Word) (k t : Nat),
    (∀ cm r l i l' is js, s.poison = [] → liveMm s p q n = some (cm, r) → (laneAt r k).filter (·.started) = some l →
      takeItem l = some (i, l') → (r.subTiles (i / r.p))[l'.sub]? = some (is, js) →
      let accs := accumulate s (mmCluster s p r.d k) l'.bank r (i / r.p) is js (r.range i)
      let nl := nextSub l' i (r.subTiles (i / r.p)).length
      let r1 := setLane r k nl
      let r2 : MmRun := if nl.item = none then { r1 with finished := r1.finished ++ [(i, k)] } else r1
      (∀ st, operandStatus s r is js (r.range i) = some st → exec (.subtileDrain p q n k) s = .next (failCmd s p q n st)) ∧
      (operandStatus s r is js (r.range i) = none → 1 < r.p → r.combined.length < tileCount r.d →
        ∃ v, exec (.subtileDrain p q n k) s = .next v ∧ TileFrame s v ∧
          (∀ a, (∀ x ∈ partialSpans r i is js, a < x.1 ∨ x.1 + x.2 ≤ a) → memByte v a = memByte s a) ∧
          (cmdAt v p q n).map (·.body) = some (.mm (keepSums r2 i accs))) ∧
      (operandStatus s r is js (r.range i) = none → epiStatus s r is js = none → r.p = 1 → r.measure = false →
        (r.d.g2 = false ∨ g2Target r.fc = true) → Apart (drainLines s r is js accs) →
        (r.finished.length + 1 < r.items → ∃ v, exec (.subtileDrain p q n k) s = .next v ∧ TileFrame s v ∧
          Holds s v (drainLines s r is js accs) ∧ (cmdAt v p q n).map (·.body) = some (.mm r2)) ∧
        (r.finished.length + 1 = r.items → nl.item = none → r.changed = false → overlapAreas r = [] →
          (∀ w ∈ s.watch, w.p = p → w.q = q → w.n = n → w.changed = false ∧ ∀ x ∈ drainLines s r is js accs, ∀ a, x.1 ≤ a →
            a < x.1 + x.2.length → w.areas.any (inArea · a) = false) →
          ∃ v, exec (.subtileDrain p q n k) s = .next v ∧ Holds s v (drainLines s r is js accs) ∧
            (cmdAt v p q n).map (·.res) = some (some .ok)))) ∧
    (∀ cm r, s.poison = [] → liveMm s p q n = some (cm, r) → 1 < r.p → t < tileCount r.d → tileReady r t = true → finisher r t = some k →
      r.combined.contains t = false → r.combined.length + 1 < tileCount r.d → r.measure = false → r.d.g2 = false →
      r.d.biasEn = false → r.d.scaleEn = false → rowScaled r.d.a.smode = false → rowScaled r.d.b.smode = false →
      blockScaled r.d.c.smode = false → Apart (tileLines s r (r.subTiles t) (tileSums r t)) →
      ∃ v, exec (.splitkCombine p q n k t) s = .next v ∧ TileFrame s v ∧
        Holds s v (tileLines s r (r.subTiles t) (tileSums r t)) ∧
        (cmdAt v p q n).map (·.body) = some (.mm { r with combined := r.combined ++ [t] }))

/-! ## Vector launches and updates -/

/-- A launch that R152 refuses ends with the cause's status and its report, an empty program ends OK, any other waits
for its range, its program read (traffic of the channels: R235, R238); VE_RANGE_START gives every cluster of a free
range the launch's registers and instruction 0 and leaves every other cluster alone; while the range is not free
nothing changes (R132, R152, R153, R194). -/
def Obligations.LaunchesStartTheirWholeRangeTogether : Prop :=
  ∀ (s : State) (p : Fin 4) (q : Fin 16) (e : Entry) (n : Word),
    let u := startCmd s p q e
    let bs := memBytes s e.desc.toNat 256
    let r := readVk u p bs
    (startOk s p q e 0x02 = true → vkChecks s p e = none → s.poison = [] →
      (∀ i w cause, launchFault r.prog = some (i, w, cause) → ∃ v, exec (.vk p q e) s = .next v ∧ MemFrame u v ∧
        (polder v p).inflight = (polder (setDetail (endCmd u p q e.seq (if cause = 0x0C then .srDenied else .descInvalid))
          p q e.seq cause) p).inflight ∧
        Holds u v (if r.report = 0 then [] else [(r.report, excReport cause 0xFFFF i w 0 0 0)])) ∧
      (r.prog = [] → exec (.vk p q e) s = .next (endCmd u p q e.seq .ok)) ∧
      (launchFault r.prog = none → r.prog ≠ [] → exec (.vk p q e) s = .next (setAreas
        (setBody (touch u p (addrOf bs 0) (8 * r.prog.length)) p q e.seq (.vk r)) p q e.seq (reportArea r.report 64)))) ∧
    (∀ c x, liveCmd s p q n = some c → waitsFor c = some x →
      let cs := rangeClusters s p x.1 x.2
      (rangeFree s p c x = false → exec (.veRangeStart p q n) s = .next s) ∧
      (∀ v, rangeFree s p c x = true → c.body = .vk v → ∃ t, exec (.veRangeStart p q n) s = .next t ∧
        t = { setBody s p q n (.vk { v with started := true }) with clusters := t.clusters, draws := t.draws } ∧
        (∀ k, k ∉ cs → cluster t k = cluster s k) ∧
        (∀ i k, cs[i]? = some k → (ve t k).mode = .running ∧ (ve t k).owner = some (p, q, n, i, v.count) ∧ (ve t k).prog = v.prog ∧
          (ve t k).pc = 0 ∧ (ve t k).p.get 0 = BitVec.allOnes 64 ∧ (∀ j, j ≠ 0 → (ve t k).p.get j = 0) ∧
          (∀ j l, ((ve t k).v.get j).get l = 0) ∧ (∀ j, (ve t k).sreg.get j = v.scalars.getD j.val 0) ∧
          (∀ j, (ve t k).a.get j = v.addrs.getD j.val 0) ∧ (ve t k).bars = 0 ∧ (ve t k).flush = v.flush)) ∧
      (∀ v, rangeFree s p c x = true → c.body = .update v → v.complete = false → ∃ t, exec (.veRangeStart p q n) s = .next t ∧
        t = { setBody s p q n (.update { v with started := true }) with clusters := t.clusters } ∧
        (∀ k, k ∉ cs → cluster t k = cluster s k) ∧
        (∀ i k, cs[i]? = some k → (ve t k).mode = .idle ∧ (ve t k).owner = some (p, q, n, i, v.count) ∧ (ve t k).update = true)))

/-- UPDATE over no elements ends OK; one that fails R193 ends with that status and one that names a claimed domain
without sharing it with DOMAIN_REUSE, neither claiming; else its domains are claimed, its constants fixed and every
block tagged with this step is skipped. A block's rule, quantisation and rounding become its stores, its tag entry
among them, then it counts as committed; with a copy program that runs first (R193, R195, R196, R199-R203, R205,
R207-R209). -/
def Obligations.UpdatesClaimComputeAndCommitBlocks : Prop :=
  ∀ (s : State) (p : Fin 4) (q : Fin 16) (e : Entry) (n : Word) (k : Nat),
    let u := startCmd s p q e
    let bs := memBytes s e.desc.toNat 256
    (∀ g, startOk s p q e 0x0A = true → updChecks s p e = none → updGroup (polder s p) bs = some g →
      let r := updRead u p bs g
      (r.elems = 0 → exec (.update p q e) s = .next (endCmd u p q e.seq .ok)) ∧
      (∀ st, r.elems ≠ 0 → updChecks2 u p r = some st → exec (.update p q e) s = .next (endCmd u p q e.seq st)) ∧
      (r.elems ≠ 0 → updChecks2 u p r = none →
        (flagShare e = false → (∃ x ∈ updIds r, x ∈ (polder s p).claims) →
          exec (.update p q e) s = .next (endCmd u p q e.seq .domainReuse)) ∧
        ((updIds r).Nodup → (flagShare e = true ∨ ∀ x ∈ updIds r, x ∉ (polder s p).claims) →
          let r' : UpdRun := { r with
            lr := f32mul g.baseLr (phiOf (polder u p) g (polder u p).step)
            fclip := clipFactor u r
            e := if g.policy ≠ 1 then 0 else if memNat u r.cell 4 = (polder u p).step.toNat then cellInt u (r.cell + 0x10)
                 else cellInt u (r.cell + 8)
            skipAll := normSkips u r
            skipped := (List.range r.blocks).filterMap fun b =>
              if tagAt u r b = (polder u p).step.toNat then some (b, tagAmax u r b) else none }
          exec (.update p q e) s = .next (modCmd (noteUpdReads (modPolder u p fun P => { P with
              claims := P.claims ++ (updIds r).filter fun x => !P.claims.contains x }) p e.ctrSet r') p q e.seq fun c =>
            { c with body := .update r', claims := (updIds r).filter (fun x => !(polder s p).claims.contains x),
                     areas := reportArea r.report 64, res := if normSkips u r then some .ok else c.res,
                     doneTime := if normSkips u r then leveeTime u else c.doneTime })))) ∧
    (∀ c r b x, s.poison = [] → liveCmd s p q n = some c → c.body = .update r → r.started = true → k < r.count →
      let cl := (rangeClusters s p r.base r.count).getD k 0
      ownedBy (ve s cl) p q n = true → (ve s cl).mode = .idle → r.nextBlock k = some b → (stageBlock s p c.e.ctrSet r b).2 = some x →
      let o := computeBlock (polder s p).seed c.step r b x
      let r' : UpdRun := { r with committed := r.committed ++ [(b, o.out.amax)], nonfinite := r.nonfinite + o.out.nonfinite,
                                  work := r.work.filter fun y => y.1 ≠ k, copied := r.copied ++ (ve s cl).areas,
                                  copiedBuf := r.copiedBuf ++ (ve s cl).bufAreas.map fun y => (k, y) }
      (r.prog = [] → r'.complete = false → Apart o.out.stores → ∃ v, exec (.updateBlock p q n k) s = .next v ∧ Holds s v o.out.stores ∧
        v = { s with mem := v.mem, undef := v.undef, counters := v.counters, sites := v.sites, polders := v.polders, clusters := v.clusters,
                     watch := v.watch } ∧
        (∀ p, Kept (polder s p) (polder v p)) ∧ (cmdAt v p q n).map (·.body) = some (.update r') ∧
        (∀ c, c ≠ cl → cluster v c = cluster s c) ∧ ve v cl = { ve s cl with areas := [], bufAreas := [] }) ∧
      (r.prog ≠ [] → ∃ v, exec (.updateBlock p q n k) s = .next v ∧ v.mem = s.mem ∧
        (cmdAt v p q n).map (·.body) = some (.update { r with work := r.work ++ [(k, o.out)] }) ∧
        (∀ c, c ≠ cl → cluster v c = cluster s c) ∧ (ve v cl).mode = .running ∧ (ve v cl).pc = 0 ∧ (ve v cl).owner = (ve s cl).owner ∧
        (ve v cl).sreg.get 0 = BitVec.ofNat 32 b ∧ (ve v cl).sreg.get 1 = BitVec.ofNat 32 (r.blockLen b) ∧
        (ve v cl).sreg.get 2 = BitVec.ofNat 32 (b * r.bs)))

/-! ## Steps, saves and loads -/

/-- STEP of the step that is open ends at once, of the next one waits for its fence; there it closes the step once its
tables agree and its writes can be stored, and fails without a trace of itself where they do not (R171-R175, R226).
That a STEP whose writes a poisoned block would refuse leaves all as it was is the model's choice (log 81). -/
def Obligations.StepsCloseAtTheirFence : Prop :=
  ∀ (s : State) (p : Fin 4) (q : Fin 16) (e : Entry) (c : Cmd) (staged : Nat),
    let u := startCmd s p q e
    let P := polder s p
    let alone := P.inflight = [c] ∧ c.res = none ∧ P.st = .opened ∧ P.discard = none ∧ c.body = .step staged
    let agree := tablesReadable s P = true ∧ managedAgree s P = true
    (startOk s p q e 0x0B = true → stepChecks s p e = none → exec (.stepCmd p q e) s = .next
      (if BitVec.ofNat 32 (memNat u e.desc.toNat 4) = P.step then endCmd u p q e.seq .ok
       else setBody u p q e.seq (.step P.staged.length))) ∧
    (alone → governorBad P = false → agree → (closeStep s p c.e.ctrSet staged).2.2 = true → ∃ t, exec (.stepFenceReached p) s = .next t ∧
      (polder t p).step = P.step + 1 ∧ (polder t p).claims = [] ∧ (polder t p).staged = P.staged.drop staged ∧
      (P.staged = [] → ∀ id g, tabGet none (polder t p).gauges id = some g → g.tot = GTot.zero) ∧
      (polder t p).inflight.map (fun x => (x.e, x.res)) = [(c.e, some .ok)] ∧ (polder t p).queues = P.queues ∧
      (∀ p', p' ≠ p → polder t p' = polder s p') ∧ t.clusters = s.clusters ∧ t.fuses = s.fuses ∧ t.hostMem = s.hostMem ∧
      (P.staged = [] → P.gRing = none → P.log = none → managed P = [] → SameMem s t)) ∧
    (alone → governorBad P = false → agree → (closeStep s p c.e.ctrSet staged).2.2 = false →
      exec (.stepFenceReached p) s = .next (endCmd s p c.q c.e.seq .eccUncorrected)) ∧
    (alone → governorBad P = false → (tablesReadable s P && managedAgree s P) = false →
      exec (.stepFenceReached p) s = .next (endCmd s p c.q c.e.seq
        (if tablesReadable s P = false then .eccUncorrected else .complementMismatch))) ∧
    (alone → governorBad P = true →
      exec (.stepFenceReached p) s = .next (faultC2 s [p] (faultInfo 0x0C 0 (firstDie s p).val 0)))

/-- STATE_SAVE and STATE_LOAD wait for their fences and there write the pack, or the tables and items of a pack that
matches, with the step, the seed and the origin it names; REPLAY_CHECK compares a recorded with a replayed value and
reports both (R357-R367, R453, R454). Where the spec gives a section's entries no places, the bytes of the pack are
the model's choice (log 44). -/
def Obligations.SavesLoadsAndReplayChecksReportWhatTheyHold : Prop :=
  ∀ (s : State) (p : Fin 4) (q : Fin 16) (e : Entry) (c : Cmd),
    let u := startCmd s p q e
    let P := polder s p
    let alone := P.inflight = [c] ∧ c.res = none ∧ P.st = .opened ∧ P.discard = none
    let saved (d items : List Byte) := packBytes s p (packFlag d 0) (packSections s p d items)
    (startOk s p q e 0x0C = true → firstFail (packChecks s p false e ++ [(saveMemory s p e, .accessDenied)]) = none →
      exec (.stateSave p q e) s = .next (setBody u p q e.seq (.save (packDesc s e) (packList s e)))) ∧
    (startOk s p q e 0x0D = true → firstFail (packChecks s p true e) = none →
      exec (.stateLoad p q e) s = .next (setBody u p q e.seq (.load (packDesc s e) (packList s e)))) ∧
    (∀ d items, alone → s.poison = [] → c.body = .save d items → packLength (packSections s p d items) ≤ fld d 8 4 →
      saveComps s P (packItems items (fld d 0x0E 2)) = true →
      ∃ t, exec (.stateSaveFenceReached p) s = .next t ∧ Holds s t [(addrOf d 0, saved d items)] ∧ MemFrame s t ∧
        (polder t p).inflight.map (fun x => (x.e, x.res)) = [(c.e, some .ok)]) ∧
    (∀ d items k, alone → s.poison = [] → c.body = .load d items → accessOk s p false (addrOf d 0) 128 = true →
      let len := memNat s (addrOf d 0 + 8) 4
      let ws := loadWrites P d (packItems items (fld d 0x0E 2)) k
      accessOk s p false (addrOf d 0) len = true → readPack (memBytes s (addrOf d 0) len) len = some k →
      (BitVec.ofNat 32 (fld k.head 0x14 4) ≠ k.step → exec (.stateLoadFenceReached p) s = .next (endCmd s p c.q c.e.seq .restoreRngSkew)) ∧
      (BitVec.ofNat 32 (fld k.head 0x14 4) = k.step → packMatches P (packItems items (fld d 0x0E 2)) k = true →
        (ws.all fun x => accessOk s p true x.1 x.2.length) = true → Apart ws →
        ∃ t, exec (.stateLoadFenceReached p) s = .next t ∧ Holds s t ws ∧ (polder t p).step = k.step ∧
          (polder t p).seed = BitVec.ofNat 128 (fld k.head 0x28 16) ∧ (polder t p).claims = [] ∧ (polder t p).loaded = true ∧
          (polder t p).origin = some (fld k.head 0xE 1) ∧
          (polder t p).defaulted = (if k.scaleHistory = false ∧ managed P ≠ [] then some k.step else none) ∧
          (polder t p).inflight.map (fun x => (x.e, x.res)) = [(c.e, some .ok)] ∧ (polder t p).queues = P.queues ∧
          (∀ p', p' ≠ p → polder t p' = polder s p') ∧ t.clusters = s.clusters ∧ t.hostMem = s.hostMem)) ∧
    (startOk s p q e 0x0E = true → replayChecks s p e = none → s.poison = [] →
      let d := memBytes s e.desc.toNat 64
      let x := replayValue u d 0
      let y := replayValue u d 8
      let exact := replayExact (polder u p) (dieCount u p) (fld d 0x11 1)
      let j := replayJudge u.draws exact d x y
      ∃ t, exec (.replayCheck p q e) s = .next (endCmd t p q e.seq (if j.1 then .ok else .replayMismatch)) ∧
        (exact = true → (j.1 = true ↔ x = y)) ∧ MemFrame u t ∧
        (addrOf d 0x20 ≠ 0 → memBytes t (addrOf d 0x20) 24 = leBytes 1 (if exact then 1 else 2) ++ leBytes 1 j.1.toNat ++ zeros 2 ++
          leBytes 4 P.step.toNat ++ leBytes 4 x.1.toNat ++ leBytes 4 x.2.toNat ++ leBytes 4 y.1.toNat ++ leBytes 4 y.2.toNat) ∧
        ∀ a, addrOf d 0x20 = 0 ∨ a < addrOf d 0x20 ∨ addrOf d 0x20 + 32 ≤ a → memByte t a = memByte u a)

/-! ## Collectives and timeouts -/

/-- BARRIER and REDUCE wait for every child, combine in port order and pass the value up, or at the root write the
result and remember it; a commit cell that holds the tag and step ends a REDUCE without a second exchange; alone, a
REDUCE writes the rounded bits of its own source and the commit cell (R256-R262, R277, R278). -/
def Obligations.CollectivesCombineWhatEveryChildSends : Prop :=
  ∀ (s : State) (p : Fin 4) (q : Fin 16) (e : Entry),
    let u := startCmd s p q e
    let d := memBytes s e.desc.toNat 64
    let b := readBar u d
    let u1 := noteAccess (setAreas (setBody u p q e.seq (.barrier b)) p q e.seq [flatArea b.result 8]) p e.ctrSet (addrOf d 0x10) 8
    let stored := storedRelease (polder u p) (portSet b.parent b.kids) b.id
    let result (v : DWord) : Prop := ∃ t, exec (.barrier p q e) s = .next (endCmd t p q e.seq .ok) ∧
      memNat t b.result 4 = v.toNat % 2 ^ 32 ∧ (b.op = 0 ∨ b.op = 5 → memNat t b.result 8 = v.toNat) ∧
      ∀ a, a < b.result ∨ b.result + 8 ≤ a → memByte t a = memByte u a
    (startOk s p q e 0x12 = true → barChecks s p e = none → s.poison = [] →
      (∀ v, stored = some v → result v) ∧
      (stored = none → childArrivals (polder u p) b.id b.kids anyPayloadOk = none → exec (.barrier p q e) s = .next u1) ∧
      (∀ vs, stored = none → childArrivals (polder u p) b.id b.kids anyPayloadOk = some vs →
        (b.parent = 0xFF → result (vs.foldl (barrierOp b.op) b.own)) ∧
        (b.parent ≠ 0xFF → exec (.barrier p q e) s = .next (setBody (sendArrival u1 p b.parent b.op
          b.id (vs.foldl (barrierOp b.op) b.own)) p q e.seq (.barrier { b with sent := true }))))) ∧
    (∀ c, startOk s p q e 0x07 = true → redChecks s p e = none → s.poison = [] → cmdAt u p q e.seq = some c →
      let d := readRed (memBytes s e.desc.toNat 128)
      let r : RedRun := { d with attempt := tabGet 0 (polder u p).attempts d.tag.toNat }
      let uc := noteAccess u p e.ctrSet r.commit 16
      let u2 := setAreas uc p q e.seq (redAreas r)
      let elem (i : Nat) : List Byte := if r.mode = 1 then memBytes u (r.src + i * r.size) r.size else
        leBytes r.size (convertElem r.fmt .rne false false
          (f32dec (f32enc (decodeElem r.fmt (memNat u (r.src + i * r.size) r.size))))).code
      (∀ st, r.mode = 3 → partialChecks u r c.step = some st → exec (.reduce p q e) s = .next (endCmd u p q e.seq st)) ∧
      (∀ vs, r.mode = 3 → partialChecks u r c.step = none → r.parent = 0xFF →
        childArrivals (polder u p) r.tag r.kids anyPayloadOk = some vs → ∃ t, exec (.reduce p q e) s = .next (endCmd t p q e.seq .ok) ∧
          let x := pairNorm (wordPair (vs.foldl (barrierOp 5) (pairWord (partialSum u r))))
          Holds u t [(r.normCell, leBytes 4 x.1.toNat ++ leBytes 4 x.2.toNat ++ withComp 4 c.step.toNat)]) ∧
      (r.mode ≠ 3 → committed u r c.step = true → exec (.reduce p q e) s = .next (endCmd (if r.parent = 0xFF then uc
        else sendArrival uc p r.parent 0 r.tag (closingMark ||| attemptWord r.attempt)) p q e.seq .ok)) ∧
      (r.mode ≠ 3 → committed u r c.step = false → childArrivals (polder u p) r.tag r.kids startOf = none →
        exec (.reduce p q e) s = .next (setBody u2 p q e.seq (.reduce r))) ∧
      (∀ vs, r.mode ≠ 3 → committed u r c.step = false → childArrivals (polder u p) r.tag r.kids startOf = some vs → r.parent ≠ 0xFF →
        exec (.reduce p q e) s = .next (setBody (sendArrival (dropArrivals u2 p r.tag startOf) p r.parent 0 r.tag
          (attemptWord r.attempt)) p q e.seq (.reduce { r with sent := true }))) ∧
      (r.mode < 3 → bucketFields r = true → committed u r c.step = false → r.parent = 0xFF → r.kids = 0 → r.dims = [] → r.norm = false →
        (r.commit + 16 ≤ r.dst ∨ r.dst + r.elems * r.size ≤ r.commit) → ∃ t, exec (.reduce p q e) s =
          .next (setAreas (endCmd t p q e.seq .ok) p q e.seq []) ∧ memBytes t r.commit 16 = withComp 4 r.tag.toNat ++ withComp 4 c.step.toNat ∧
          (∀ i, i < r.elems → memBytes t (r.dst + i * r.size) r.size = elem i) ∧
          ∀ a, (a < r.dst ∨ r.dst + r.elems * r.size ≤ a) → (a < r.commit ∨ r.commit + 16 ≤ a) →
            memByte t a = memByte u a))

/-- A timeout ends BARRIER or REDUCE and discards the ID's arrivals (R263, R278). A watched command is stopped,
finished or not until its completion is posted, then fails with TIMEOUT once its units are free, or its polder hangs
and is captured and discarded (R428, R429). -/
def Obligations.TimeoutsEndCommandsAndHangsAreCaptured : Prop :=
  ∀ (s : State) (p : Fin 4) (q : Fin 16) (n : Word),
    (∀ c r, liveCmd s p q n = some c → c.body = .barrier r →
      exec (.barrierTimeout p q n) s = .next (failCmd (modPolder s p fun P => { P with
        timedOut := P.timedOut ++ [r.id], arrivals := P.arrivals.filter fun a => a.1 != r.id }) p q n .timeout)) ∧
    (∀ c r, liveCmd s p q n = some c → c.body = .reduce r →
      exec (.reduceTimeout p q n) s = .next (failCmd (modPolder s p fun P => { P with
        timedOut := P.timedOut ++ [r.tag], arrivals := P.arrivals.filter fun a => a.1 != r.tag }) p q n .timeout)) ∧
    (liveCmd s p q n = none → exec (.barrierTimeout p q n) s = .next s ∧ exec (.reduceTimeout p q n) s = .next s) ∧
    (isRunning s p = false ∨ cmdAt s p q n = none → exec (.watchdogExpiry p q n) s = .next s) ∧
    (∀ c, isRunning s p = true → cmdAt s p q n = some c → exec (.watchdogExpiry p q n) s =
      .next (if watched (polder s p) c then modCmd s p q n fun c => { c with expired := true } else s)) ∧
    (∀ c, isRunning s p = true → cmdAt s p q n = some c → c.expired = true →
      (∃ t, exec (.hangDeclared p q n true) s = .next t ∧ (cmdAt t p q n).map (·.res) = some (some .timeout) ∧
        (∀ p', p' ≠ p → polder t p' = polder s p')) ∧
      (closeRuns s p = false → ∃ t, exec (.hangDeclared p q n false) s = .next t ∧ (polder t p).discard = some (2, nextRepair s) ∧
        (polder t p).inflight = [] ∧ (∀ d, (polder s p).dump = some d → (polder t p).dump = some { d with later := d.later + 1 }) ∧
        ((polder s p).dump = none → ∃ k xs, (polder t p).dump = some { length := k, later := 0, snaps := xs })))

/-! ## Peer links and levee time -/

/-- A damaged flit, or a data flit out of sequence, is discarded with one replay request; a good one is acknowledged,
and a data flit's body goes to the stream of its class, each once and in order. Every unacked flit is replayed; the
32nd replay without progress retrains, a retrain that does not come up fails the port. A lane that fails is switched
at an agreed flit: to the spare, then four lanes carry on, then the port fails; the levee lane falls back onto the
data lanes (R267-R274). How the switch message names the sequence, and that the levee lane fails by the criteria of a
data lane, is the model's choice (log 10). -/
def Obligations.LinksReplayFlitsAndReplaceLanes : Prop :=
  ∀ (s : State) (j : Fin 6) (x : RxFlit) (ack : BitVec 12) (lanes : List LaneCount) (levee : LaneCount) (tok : Token),
    let P := port s j
    let h := fld x.bytes 0 8
    let good := x.fecOk && x.bytes.length == 512 && leBytes 8 (crc64 (x.bytes.take 504)) == x.bytes.drop 504 &&
      (h % 16 != 1 || BitVec.ofNat 12 (h / 256) == P.rxNext)
    let fails (i : Nat) : Bool := (laneWindow (P.badWins.getD i 0) (if i = 9 then levee else lanes.getD i ⟨0, 0, 0⟩)).2
    let only (l : Nat) : Prop := fails l = true ∧ ∀ i, i < 10 → i ≠ l → fails i = false
    let words := ((lanes.take 9).map (·.words)).sum + levee.words
    let counted (ws : List Nat) : State :=
      modPort { s with corrected := vmod s.corrected 5 (· + BitVec.ofNat 64 words) } j fun P => { P with badWins := ws }
    let replayed (P : Port) : Port := { P with txFlits := P.txFlits ++ P.replay, stalls := P.stalls + 1, st := if 32 ≤ P.stalls + 1 then .retraining else P.st }
    (portUp P = true →
      (good = false → exec (.flitReceived j x) s =
        .next (settleSwitches (modPort s j fun P => if P.replayAsked then P else sendBare { P with replayAsked := true } 2) j)) ∧
      (good = true → ∃ t, exec (.flitReceived j x) s = .next (settleSwitches t j) ∧ t = { s with ports := t.ports } ∧
        (∀ i, i ≠ j → port t i = port s i) ∧ (port t j).st = P.st ∧ (port t j).replayAsked = false ∧
        (port t j).switchAt = P.switchAt ∧
        (h % 16 = 1 → (port t j).rxNext = P.rxNext + 1 ∧
          (port t j).streams = vmod P.streams (fin4 (h / 16 % 4)) (· ++ (x.bytes.drop 8).take 496)) ∧
        (h % 16 ≠ 1 → (port t j).rxNext = P.rxNext ∧ (port t j).streams = P.streams)) ∧
      exec (.replayRequestReceived j ack) s = .next (modPort s j fun P => replayed (takeAck P ack)) ∧
      (P.replay ≠ [] → exec (.replayTimeout j) s = .next (modPort s j replayed)) ∧
      (P.replay = [] → exec (.replayTimeout j) s = .next s) ∧
      ((∀ i, i < 10 → fails i = false) → ∃ ws, exec (.laneErrorWindow j lanes levee) s = .next (counted ws)) ∧
      (∀ l, l < 9 → only l → P.badLanes.contains l = false → ∃ ws,
        exec (.laneErrorWindow j lanes levee) s = .next (switchLane (counted ws) j l)) ∧
      (∀ l, l < 9 → P.badLanes.contains l = false → P.switchAt = [] → hasData P 3 = false → 0 < P.credits.get 3 → P.replay.length < 1024 →
        let t := switchLane s j l
        (P.st = .up → (port t j).badLanes = P.badLanes ++ [l] ∧ (port t j).spareUsed = true ∧ (port t j).switchAt = [] ∧
          (port t j).st = (if P.spareUsed then .upFour else .up)) ∧ (P.st = .upFour → (port t j).st = .failed)) ∧
      (only 9 → ∃ t, exec (.laneErrorWindow j lanes levee) s = .next t ∧ (port t j).fallback = true ∧ (port t j).st = P.st) ∧
      (tok.typ = 5 → clearOk tok = false → exec (.creditTokenReceived j tok) s = .next s) ∧
      (tok.typ = 5 → clearOk tok = true →
        let c := P.credits.get 0 + tok.payload.toNat % 65
        let m := min 64 (min P.tokWait.length c)
        exec (.creditTokenReceived j tok) s = .next (modPort s j fun P =>
          { P with tokWait := P.tokWait.drop m, txTokens := P.txTokens ++ P.tokWait.take m, credits := P.credits.set 0 (c - m) }))) ∧
    (portUp P = false → exec (.flitReceived j x) s = .next s ∧ exec (.replayRequestReceived j ack) s = .next s ∧
      exec (.replayTimeout j) s = .next s ∧ exec (.laneErrorWindow j lanes levee) s = .next s ∧
      exec (.creditTokenReceived j tok) s = .next s) ∧
    (P.st = .retraining → ∃ t, exec (.portRetrainTimeout j) s = .next t ∧ (port t j).st = .failed ∧
      ∀ p, P.owner = some p → isRunning s p = true → closeRuns s p = false → (polder t p).discard = some (2, nextRepair s)) ∧
    (P.st ≠ .retraining → exec (.portRetrainTimeout j) s = .next s)

/-- Time tokens go out on every trained levee lane with a credit; a neighbour that is ahead by more than 64 ns steps
the time to its estimate, one that is less ahead is caught up by 1 ns every 5 µs; the local count never moves and the
time never runs back (R420, R421). -/
def Obligations.LeveeTimeStepsAndSlewsNeverBack : Prop :=
  ∀ (s : State) (j : Fin 6) (est : DWord),
    let ahead := est.toNat - (leveeTime s).toNat
    let credit : Token := clearToken { typ := 5, hop := 0, op := 0, rank := 0, id := 0, payload := 1, iv := 0, tag := 0 }
    (∃ t, exec .timeTokenSend s = .next t ∧ t = { s with ports := t.ports } ∧
      (∀ i, i ∉ leveePorts s → port t i = port s i) ∧
      (∀ i, i ∈ leveePorts s → 0 < (port s i).credits.get 0 → (port t i).txTokens = (port s i).txTokens ++
        [clearToken { typ := 4, hop := 0, op := 0, rank := 0, id := 0, payload := leveeTime s, iv := 0, tag := 0 }])) ∧
    (j ∉ leveePorts s → exec (.timeTokenReceived j est) s = .next s) ∧
    (j ∈ leveePorts s → ahead ≤ 64 → exec (.timeTokenReceived j est) s =
      .next (modPort { s with slew := s.slew.set j ahead } j fun P => { P with txTokens := P.txTokens ++ [credit] })) ∧
    (j ∈ leveePorts s → 64 < ahead → ∃ t, exec (.timeTokenReceived j est) s = .next t ∧ leveeTime t = est ∧
      t.localCount = s.localCount ∧ t.slew = (s.slew.map (· - ahead)).set j 0) ∧
    ((∃ i : Fin 6, 0 < s.slew.get i) → exec .timeSlewTick s =
      .next { s with correction := s.correction + 1, slew := s.slew.map (· - 1) }) ∧
    ((∀ i : Fin 6, s.slew.get i = 0) → exec .timeSlewTick s = .next s)

/-! ## Messages and tokens -/

/-- A write-data message lands in the peer window and nowhere else, or is refused whole; a done message signals its
event, its confirmation ends the MOVE; collective data of a tag not yet started waits, that of an expired one is
dropped, that of the running attempt is added to the sums or stored; a message that does not authenticate acts on
nothing and retrains the link; on a port of no polder every data message is refused (R252, R253, R259, R263, R264,
R266, R268, R273, R274). The forms of refusal, confirmation and lane-switch messages on the wire, and that an
unauthentic message of a write refuses that write, are the model's choice (log 10); so is that a refused write's done
message signals nothing (log 48). -/
def Obligations.MessagesActOnlyWhenAuthentic : Prop :=
  ∀ (s : State) (j : Fin 6) (p : Fin 4) (m : Msg) (rest : List Byte) (bs : List Byte),
    portUp (port s j) = true →
    let P := polder s p
    let kept (t : State) : Prop := SameMem s t ∧ (polder t p).inflight = P.inflight ∧ (polder t p).events = P.events
    let bad (i : Instr) (cls : Fin 4) (kind : Nat) : Prop := headMsg (port s j) cls = some (m, rest) → m.kind = kind →
      openMsg s p j cls m = none → ∃ t, exec i s = .next t ∧ (polder t p).inflight = P.inflight ∧ (polder t p).events = P.events ∧
        (port t j).st = .retraining ∧ ((kind = 1 → ∀ x ∈ (port s j).landed, x.1 ≠ m.id) → SameMem s t) ∧
        (kind = 1 → (port t j).refused = (port s j).refused ++ [m.id])
    let took (cls : Fin 4) : State := bumpIv (popMsg s j cls rest) p (rxChannel j) cls
    let ended (t : State) (q : Fin 16) (n : Word) (st : Status) : Prop := (cmdAt t p q n).map (·.res) = some (some st)
    let isTree (c : Cmd) : Bool := match c.body with | .reduce r => r.tag == m.id && r.mode != 3 | _ => false
    ((port s j).owner = some p →
      bad (.writeDataReceived j) 2 1 ∧ bad (.writeDoneReceived j) 2 2 ∧ bad (.collectiveDataReceived j) 1 3 ∧
      (headMsg (port s j) 2 = some (m, rest) → m.kind = 1 → openMsg s p j 2 m = some bs →
        (inPeerWindow P m.addr bs.length = true → s.poison = [] → ∃ t, exec (.writeDataReceived j) s = .next t ∧
          Holds s t [(m.addr, bs)] ∧ (polder t p).inflight = P.inflight ∧ t.hostMem = s.hostMem ∧
          (port t j).landed = (port s j).landed ++ [(m.id, m.addr, bs.length)]) ∧
        (inPeerWindow P m.addr bs.length = false → (∀ x ∈ (port s j).landed, x.1 ≠ m.id) → ∃ t,
          exec (.writeDataReceived j) s = .next t ∧ kept t ∧ (port t j).refused = (port s j).refused ++ [m.id])) ∧
      (headMsg (port s j) 2 = some (m, rest) → m.kind = 2 → openMsg s p j 2 m = some bs →
        (m.flags ≠ 1 → m.id ∉ (port s j).refused → fld bs 0 2 < 4096 → ∃ t, exec (.writeDoneReceived j) s = .next t ∧ SameMem s t ∧
          tabGet 0 (polder t p).events (fld bs 0 2) = tabGet 0 P.events (fld bs 0 2) + 1) ∧
        (m.flags ≠ 1 → m.id ∈ (port s j).refused ∨ 4096 ≤ fld bs 0 2 → ∃ t, exec (.writeDoneReceived j) s = .next t ∧ kept t) ∧
        (∀ w q n c, m.flags = 1 → P.remoteOut.find? (fun x => x.1 == m.id) = some (w, q, n) → liveCmd s p q n = some c →
          ∃ t, exec (.writeDoneReceived j) s = .next t ∧ SameMem s t ∧ ended t q n .ok)) ∧
      (headMsg (port s j) 1 = some (m, rest) → m.kind = 3 → openMsg s p j 1 m = some bs →
        (P.timedOut.contains m.id = true → exec (.collectiveDataReceived j) s = .next (took 1)) ∧
        (P.timedOut.contains m.id = false → (∀ c ∈ liveCmds P, ∀ r, c.body = .reduce r → r.tag ≠ m.id) →
          exec (.collectiveDataReceived j) s = .next s) ∧
        (∀ c r h d, P.timedOut.contains m.id = false → (liveCmds P).find? isTree = some c → c.body = .reduce r → r.phase = .exchange →
          m.attempt = r.attempt → stageFor r j m.addr = some (h, d) →
          let xs := (List.range (bs.length / 4)).map fun i => (BitVec.ofNat 32 (fld bs (4 * i) 4) : Word)
          (isSum r h d m.addr = true → scatterReady r h d = false → exec (.collectiveDataReceived j) s = .next s) ∧
          (isSum r h d m.addr = true → scatterReady r h d = true → ∃ u, exec (.collectiveDataReceived j) s =
            .next (redKick u p c (note (addSums r m.addr xs) (stageOf h d false) m.addr xs.length)) ∧ SameMem s u) ∧
          (isSum r h d m.addr = false → s.poison = [] → ∃ u, exec (.collectiveDataReceived j) s =
            .next (redKick u p c (note r (stageOf h d true) m.addr (bs.length / r.size))) ∧ Holds s u [(r.dst + m.addr * r.size, bs)]))) ∧
      (∀ w q n c, headMsg (port s j) 3 = some (m, rest) → m.kind = 4 → m.flags = 2 → fld m.payload 4 1 ≠ 3 →
        P.remoteOut.find? (fun x => x.1 == BitVec.ofNat 32 (fld m.payload 0 4)) = some (w, q, n) → liveCmd s p q n = some c → ∃ t,
          exec (.managementMessageReceived j) s = .next t ∧ ended t q n .accessDenied)) ∧
    ((port s j).owner = none →
      (headMsg (port s j) 2 = some (m, rest) → m.kind = 1 → exec (.writeDataReceived j) s = .next (refuseWrite (popMsg s j 2 rest) j m)) ∧
      (headMsg (port s j) 2 = some (m, rest) → m.kind = 2 → exec (.writeDoneReceived j) s = .next (refuseWrite (popMsg s j 2 rest) j m)) ∧
      (headMsg (port s j) 1 = some (m, rest) → m.kind = 3 → exec (.collectiveDataReceived j) s = .next (refuseMsg (popMsg s j 1 rest) j m))) ∧
    (headMsg (port s j) 3 = some (m, rest) →
      (m.kind = 4 → m.flags = 1 → exec (.managementMessageReceived j) s = .next (if fld m.payload 0 2 = 0x4832 then popMsg s j 3 rest
        else modPort (popMsg s j 3 rest) j idlePort)) ∧
      (m.kind = 4 → m.flags = 3 → (port s j).st = .up → (port s j).switchAt = [] →
        let l := fld m.payload 0 1
        let n : BitVec 12 := BitVec.ofNat 12 (fld m.payload 2 2)
        (2048 ≤ ((port s j).rxNext - n).toNat → ∃ t, exec (.managementMessageReceived j) s = .next t ∧
          (port t j).switchAt = [(false, l, n)] ∧ (port t j).badLanes = (port s j).badLanes) ∧
        (((port s j).rxNext - n).toNat < 2048 → (port s j).badLanes.contains l = false → ∃ t,
          exec (.managementMessageReceived j) s = .next t ∧ (port t j).badLanes = (port s j).badLanes ++ [l])) ∧
      (m.kind = 5 → exec (.managementMessageReceived j) s = .next (fallbackToken (popMsg s j 3 rest) j (tokenOf m.payload))))

/-- A levee token acts only when its tag is good, and its credit goes back either way. Arrivals are kept, answered
from memory or combined, a release hands its value down or commits a REDUCE, a fault token is forwarded once and
starts every REDUCE anew (R262, R263, R276-R278). That a token that does not authenticate is dropped with its credit
returned, how attempts and the closing barrier are marked and how a flood is known again is the model's choice (log
10). -/
def Obligations.LeveeTokensCombineReleaseAndAbandon : Prop :=
  ∀ (s : State) (j : Fin 6) (p : Fin 4) (tok : Token) (v : DWord),
    portUp (port s j) = true →
    let P := polder s p
    let paid (t : State) : State := returnCredit t j
    let ended (t : State) (q : Fin 16) (n : Word) (st : Status) : Prop := (cmdAt t p q n).map (·.res) = some (some st)
    (tok.typ = 1 → sealedToken s j tok = none → exec (.leveeArriveReceived j tok) s = .next (paid s)) ∧
    (tok.typ = 2 → sealedToken s j tok = none → exec (.leveeReleaseReceived j tok) s = .next (paid s)) ∧
    (tok.typ = 3 → sealedToken s j tok = none → exec (.faultTokenReceived j tok) s = .next (paid s)) ∧
    (sealedToken s j tok = some (p, v) →
      (tok.typ = 1 → P.timedOut.contains tok.id = true → exec (.leveeArriveReceived j tok) s = .next (paid s)) ∧
      (tok.typ = 1 → P.timedOut.contains tok.id = false → hasTree P tok.id = false → exec (.leveeArriveReceived j tok) s = .next (paid
        (match rememberedFor P tok.id j with
         | some x => sendToken s p j 2 0 tok.op tok.id x
         | none => modPolder s p fun P => { P with arrivals := P.arrivals ++ [(tok.id, j.val, v)] }))) ∧
      (∀ c b vs, tok.typ = 1 → P.timedOut.contains tok.id = false → liveCmds P = [c] → c.body = .barrier b → b.id = tok.id →
        b.sent = false → b.parent = 0xFF → s.poison = [] → childArrivals { P with arrivals := P.arrivals ++ [(tok.id, j.val, v)] } b.id
          b.kids anyPayloadOk = some vs → ∃ t, exec (.leveeArriveReceived j tok) s = .next t ∧ ended t c.q c.e.seq .ok ∧
          memNat t b.result 4 = (vs.foldl (barrierOp b.op) b.own).toNat % 2 ^ 32) ∧
      (tok.typ = 2 → hasTree P tok.id = false → exec (.leveeReleaseReceived j tok) s = .next (paid s)) ∧
      (∀ c b, tok.typ = 2 → liveCmds P = [c] → c.body = .barrier b → b.id = tok.id → b.sent = true → b.parent = j.val → s.poison = [] →
        ∃ t, exec (.leveeReleaseReceived j tok) s = .next t ∧ ended t c.q c.e.seq .ok ∧ memNat t b.result 4 = v.toNat % 2 ^ 32 ∧
          (b.op = 0 ∨ b.op = 5 → memNat t b.result 8 = v.toNat)) ∧
      (∀ c r, tok.typ = 2 → liveCmds P = [c] → c.body = .reduce r → r.tag = tok.id → r.parent = j.val → r.phase = .closing →
        closingOf r.attempt v = true → s.poison = [] → ∃ t, exec (.leveeReleaseReceived j tok) s = .next t ∧
          ended t c.q c.e.seq .ok ∧ Holds s t [(r.commit, withComp 4 r.tag.toNat ++ withComp 4 c.step.toNat)]) ∧
      (tok.typ = 3 → (16 ≤ tok.hop.toNat ∨ faultKnown s p v = true) → exec (.faultTokenReceived j tok) s = .next (paid s)) ∧
      (tok.typ = 3 → tok.hop.toNat < 16 → faultKnown s p v = false → ∃ t, exec (.faultTokenReceived j tok) s = .next t ∧
        (port t j).faultsSeen = (port s j).faultsSeen ++ [v] ∧
        (∀ c r, liveCmds P = [c] → c.body = .reduce r → r.mode ≠ 3 → childPorts r.kids ≠ [] →
          (cmdAt t p c.q c.e.seq).map (·.body) = some (.reduce { r with phase := .start, got := [], sent := false }))))

/-! ## Bring-up and resets -/

/-- What bring-up from fuse load makes of the module: a bank that disagrees takes it offline, an image that fails R322
leads to recovery, an accepted one to training, with the slot's plans and remaps or the fused plan and a self-test;
everything but fuses, flash, pins and the host is at its reset value (R317, R320-R322, R325, R326, R334). That memory
without contents lists nothing, and so reads as zero, is the model's choice (log 66). -/
def Sys2Proof.Machine.BroughtUp (s t : State) (lastReset : Nat) : Prop :=
  (fusesAgree s.fuses = false → t.boot = .offline ∧ t.alert.getLsbD 2 = true) ∧
  (fusesAgree s.fuses = true → imageOk s.fuses s.flash.image = false → t.boot = .recovery) ∧
  (fusesAgree s.fuses = true → imageOk s.fuses s.flash.image = true → t.boot = .training ∧ (∀ j, (port t j).st = .training) ∧
    (∀ m, (site t m).st = .untrained ∧ (site t m).trying = 0) ∧ t.fwVersion = imageVersion s.flash.image ∧ t.power.locked = true ∧
    (∀ a b, pickSlot s.flash = some (a, b) → t.slotUsed = some a ∧ t.softRemaps = b.remaps ∧ t.plan = b.plan) ∧
    (pickSlot s.flash = none → t.slotUsed = none ∧ t.softRemaps = [] ∧ t.plan = fusedPlan s.fuses ∧ t.selfTest = true)) ∧
  t.lastReset = lastReset ∧ t.modPwrgd = true ∧ t.mem = [] ∧ t.undef = [] ∧ t.polders = State.reset.polders ∧
  t.funcs = State.reset.funcs ∧ t.layout = .none ∧ t.flash = s.flash ∧ t.hostMem = s.hostMem ∧
  t.fuses.lifecycle = (if s.fuses.pending then 3 else s.fuses.lifecycle) ∧
  ∀ c, (chain t c).seq = 0 ∧ (chain t c).head = chainStart t.fuses.serial t.bootNonce c.val

/-- POWER_GOOD brings the module up; sites train from the fastest bin down, a failed one retires its channels; a port
comes up only towards a ZEH-4832; release opens the mailbox; the keys appear once derived; a slot rewrite takes the
slot that is not the newest, with the voltages that use has refined (R229, R232, R266, R274, R317, R324-R326, R380,
R402). The model's choices: memory lists nothing after power-on (log 66), the bytes of a blob (logs 25, 86), a release
that ends the self-test (log 88), a rewrite while the module is offline (log 53). -/
def Obligations.BringUpLoadsTrainsAndReleases : Prop :=
  ∀ (s : State) (m : Fin 32) (j : Fin 6) (x : PortTraining) (hello : Hello) (good : Bool),
    let S := site s m
    let P := port s j
    let ok := x.data && hello.device == 0x4832
    let heldBy (bs : List Byte) (plan : ClockPlan) (g : Word) : Prop := bs = blobBytes (newBlob { s with plan := plan } g)
    (s.boot = .off → ∃ t, exec .powerGood s = .next t ∧ BroughtUp s t 0) ∧
    (s.boot ≠ .off → exec .powerGood s = .next s) ∧
    (s.boot = .training → S.st = .untrained →
      (∃ t, exec (.siteTrainingDone m true) s = .next t ∧ (site t m).st = .trained S.trying ∧ ∀ i, i ≠ m → site t i = site s i) ∧
      (S.trying < 3 → exec (.siteTrainingDone m false) s = .next (modSite s m fun S => { S with trying := S.trying + 1 })) ∧
      (3 ≤ S.trying → ∃ t, exec (.siteTrainingDone m false) s = .next t ∧ (site t m).st = .failed ∧
        ∀ c ∈ siteChannels m, c ∈ retiredChannels t (siteDie m).val)) ∧
    (s.boot ≠ .training ∨ S.st ≠ .untrained → exec (.siteTrainingDone m good) s = .next s) ∧
    (P.st = .training ∨ P.st = .retraining → ok = true → ∃ t, exec (.portBringupDone j x hello) s = .next t ∧
      (port t j).st = upStatus P ∧ (port t j).eq = x.eq ∧ (x.levee = false → (port t j).fallback = true) ∧
      t.slotDue = (s.slotDue || P.eq != x.eq) ∧ ∀ i, i ≠ j → port t i = port s i) ∧
    (P.st = .training → ok = false → exec (.portBringupDone j x hello) s = .next (modPort s j idlePort)) ∧
    (P.st = .retraining → ok = false → exec (.portBringupDone j x hello) s = .next s) ∧
    (portUp P = true → exec (.portBringupDone j x hello) s = .next (if P.leveeTraining then
      modPort s j fun P => { P with leveeTraining := false, fallback := P.fallback && !x.levee } else s)) ∧
    (s.boot = .training → trainingEnded s = true → ∃ t, exec .release s = .next t ∧ t.boot = .ready ∧ t.releaseTime = leveeTime s ∧
      t.polders = s.polders ∧ t.selfTest = false ∧ (s.slotUsed ≠ none → t.flash = s.flash) ∧
      (s.slotUsed = none → pickSlot s.flash = none → heldBy t.flash.slotA s.plan 1) ∧
      ∀ i, (site t i).deepSleep = (dieIdle s (siteDie i) && siteTrained (site s i))) ∧
    (s.boot ≠ .training ∨ trainingEnded s = false → exec .release s = .next s) ∧
    exec .identityDerivationDone s = .next (if clocked s then { s with identity := true } else s) ∧
    (s.identity = true → s.meterKey = false → ∃ t, exec .meterKeyDerivationDone s = .next t ∧ t.meterKey = true ∧
      ∀ c, (chain t c).unsigned = [] ∧ (chain t c).seq = (chain s c).seq ∧ (chain t c).batch = (chain s c).batch) ∧
    (s.identity = false ∨ s.meterKey = true → exec .meterKeyDerivationDone s = .next s) ∧
    (s.boot = .ready ∨ s.boot = .offline → s.slotDue = true → ∃ t, exec .configSlotRewrite s = .next t ∧
      t = { s with flash := t.flash, slotDue := false, plan := t.plan, draws := t.draws } ∧ t.plan.fclk = s.plan.fclk ∧
      t.plan.dclk = s.plan.dclk ∧ (s.boot = .offline → t.plan = s.plan) ∧
      (s.boot = .ready → ∀ v ∈ t.plan.volts.flatten, 650 ≤ v ∧ v ≤ 850) ∧
      (∀ b, pickSlot s.flash = some (true, b) → t.flash.slotA = s.flash.slotA ∧ heldBy t.flash.slotB t.plan (b.gen + 1)) ∧
      (∀ b, pickSlot s.flash = some (false, b) → t.flash.slotB = s.flash.slotB ∧ heldBy t.flash.slotA t.plan (b.gen + 1)) ∧
      (pickSlot s.flash = none → heldBy t.flash.slotA t.plan 1)) ∧
    (s.slotDue = false ∨ (s.boot ≠ .ready ∧ s.boot ≠ .offline) → exec .configSlotRewrite s = .next s)

/-- PERST#, a loss of input, a PF0 reset, a loss of REFCLK, a VF reset and a loss of MREF leave what their rules say:
fuses and flash always stay, but an image region that was being programmed is invalid; a PF0 reset leaves device
memory undefined (R318, R330, R333, R334, R368, R442, R446, R448). That memory lists nothing afterwards, and so reads
as zero, is the model's choice (log 66), and that a loss of input keeps the pins and what the host holds (log 54). -/
def Obligations.ResetsLeaveWhatTheirRulesSay : Prop :=
  ∀ (s : State) (p : Fin 4) (rate : Fin 7) (width : Fin 3),
    let image : Tab Byte := if s.fw.st = .programming then [] else s.flash.image
    let untouched (t : State) : Prop := t.fuses = s.fuses ∧ t.flash = { s.flash with image := image } ∧ t.mem = [] ∧ t.undef = [] ∧
      t.polders = State.reset.polders ∧ t.funcs = State.reset.funcs
    (s.boot = .off → exec .perstAssert s = .next { s with perst := true }) ∧
    (s.boot ≠ .off → ∃ t, exec .perstAssert s = .next t ∧ untouched t ∧ t.perst = true ∧ t.boot =
      (if (s.thermtrip || s.boot == .thermalHold) && !levelsLeft s then .thermalHold else .fuses)) ∧
    (s.perst = false → exec (.perstDeassert rate width) s = .next s) ∧
    (s.perst = true → s.boot ≠ .fuses → exec (.perstDeassert rate width) s =
      .next { s with perst := false, hostRate := rate.val, hostWidth := 2 ^ width.val }) ∧
    (s.perst = true → s.boot = .fuses → ∃ t, exec (.perstDeassert rate width) s = .next t ∧ BroughtUp s t 1 ∧ t.perst = false ∧
      t.hostRate = rate.val ∧ t.hostWidth = 2 ^ width.val) ∧
    (linkUp s = true → ∃ t, exec .pf0Reset s = .next t ∧ exec .refclkLoss s = .next t ∧ t.layout = .none ∧ t.numVfs = 0 ∧
      t.vfEnable = false ∧ t.challenge = none ∧ t.lastReset = 2 ∧ t.boot = s.boot ∧ t.fuses = s.fuses ∧
      (∃ k, ∀ a, a < 5 * 2 ^ 40 → memByte t a = Config.freeByte k a) ∧
      (∀ p, (polder t p).st = .absent ∧ (polder t p).inflight = [] ∧ (polder t p).key = none) ∧ (∀ i, (port t i).owner = none) ∧
      (∀ f, (func t f).busy = false ∧ (func t f).latched = none ∧ (s.boot ≠ .ready → (func t f).events = []))) ∧
    (linkUp s = false → exec .pf0Reset s = .next s ∧ exec .refclkLoss s = .next s) ∧
    ((linkUp s && s.vfEnable && decide (p.val < s.numVfs)) = false → exec (.vfReset p) s = .next s) ∧
    ((linkUp s && s.vfEnable && decide (p.val < s.numVfs)) = true →
      (isHandling s p = true → exec (.vfReset p) s = .next (modFunc s (vf p) fun F => { F with resetting := true })) ∧
      (isHandling s p = false → ∃ t, exec (.vfReset p) s = .next t ∧ t.challenge = none ∧
        func t (vf p) = { Func.reset with eventSeq := (func t (vf p)).eventSeq } ∧
        (polder t p).st = (if (polder s p).st = .opened ∨ (polder s p).st = .faulted then .closed else (polder s p).st) ∧
        ∀ p', p' ≠ p → polder t p' = polder s p')) ∧
    (∃ t, exec .inputLoss s = .next t ∧ untouched t ∧ t.boot = .off ∧ t.modPwrgd = false ∧ t.hostMem = s.hostMem ∧
      t.hostRate = State.reset.hostRate ∧ t.hostWidth = State.reset.hostWidth) ∧
    (clocked s = true → ∃ t, exec .mrefLoss s = .next t ∧ t.boot = .offline ∧ t.hostMem = s.hostMem ∧ t.fuses = s.fuses ∧
      t.alert.getLsbD 2 = true ∧ (∀ p, (polder t p).inflight = []) ∧ ∀ i, (port t i).st = .down) ∧
    (clocked s = false → exec .mrefLoss s = .next s)

/-! ## SMBus -/

/-- Each read of R447 returns the bytes of its row and changes nothing else, from fuse load on; before, or without
power, the target does not answer. The alert response clears SMB_ALERT# and the causes that have passed (R327, R387,
R446, R447). STATE.MODULE before the module has a state is the model's free value (log 27); the Packet Error Check
that ends every read is SMBus's CRC-8 (log 101). -/
def Obligations.SmbusReadsAnswerFromFuseLoadOn : Prop :=
  ∀ s : State,
    let T := s.power.temps
    let gives (i : Instr) (code : Byte) (bs : List Byte) (block : Bool := false) : Prop :=
      exec i s = .next { s with lastRead := if smbAnswers s then bs ++ [smbPec code block bs] else [] }
    (smbAnswers s = true ↔ s.modPwrgd = true ∧ s.boot ≠ .off ∧ s.boot ≠ .fuses) ∧
    gives .smbBootProgress 0 [match s.boot with
      | .off | .fuses => 0x01 | .image => 0x02 | .config => 0x03 | .training => 0x04 | .ready => 0x10 | .recovery => 0xE0
      | .offline | .thermalHold => 0xF0] ∧
    (s.boot = .ready → gives .smbModuleState 1 [1]) ∧ (s.boot = .recovery → gives .smbModuleState 1 [2]) ∧
    (s.boot = .offline → gives .smbModuleState 1 [3]) ∧
    (s.boot ≠ .ready → s.boot ≠ .recovery → s.boot ≠ .offline → exec .smbModuleState s =
      .next { s with draws := s.draws + 1, lastRead := if smbAnswers s then
        [Config.freeByte s.draws 0, smbPec 1 false [Config.freeByte s.draws 0]] else [] }) ∧
    (∃ w, gives .smbInputPower 2 (leBytes 2 w) ∧ (debugActive s = false → w % 10 = 0) ∧
      (s.power.inputs = [] → w = 0)) ∧
    gives .smbPowerLimit 3 (leBytes 2 s.power.cap) ∧ gives .smbSerial 4 (leBytes 8 s.fuses.serial.toNat) true ∧
    gives .smbFwVersion 5 (leBytes 4 (if s.boot = .recovery then 0 else s.fwVersion.toNat)) true ∧
    gives .smbLifecycle 6 (leBytes 1 s.fuses.lifecycle) ∧
    (∃ a b : Byte, gives .smbTemperatures 7 [a, BitVec.ofNat 8 (degrees T.iDie), b, BitVec.ofNat 8 (degrees T.inlet),
      BitVec.ofNat 8 (degrees T.outlet), 0, 0, 0] true ∧
      (∀ x ∈ T.cdies, degrees x ≤ a.toNat) ∧ ∀ i, degrees (site s i).temp ≤ b.toNat) ∧
    gives .smbAlertCause 8 [s.alert] ∧
    (smbAnswers s = false ∨ s.smbAlert = false → exec .smbAlertResponse s = .next { s with lastRead := [] }) ∧
    (smbAnswers s = true → s.smbAlert = true → ∃ t, exec .smbAlertResponse s = .next t ∧
      t = { s with lastRead := t.lastRead, alert := t.alert, smbAlert := t.smbAlert } ∧
      t.lastRead.take 1 = leBytes 1 (0x58 + Config.smbAddr.toNat) ∧ t.lastRead.drop 1 = [crc8 (0x19 :: leBytes 1 (2 * (0x58 + Config.smbAddr.toNat)))] ∧
      (∀ k, k < 8 → (t.alert.getLsbD k = true ↔ k ∈ presentCauses s)) ∧ (t.smbAlert = true ↔ presentCauses s ≠ []))

/-! ## Faults and repair -/

/-- A detection acts by its class: C0 counts, C1 fails its command, C2 discards the polder concerned and no other, C3
every running one, C4 stops the module. The discard records hold every queue at its fence; a repair reopens its
polders or leaves them faulted, and its report says how it ended (R224, R310, R335-R338, R343-R346, R353, R356, R368).
-/
def Obligations.FaultsActByTheirClass : Prop :=
  ∀ (s : State) (r : FaultReport) (p : Fin 4) (x : RepairResult),
    let detect (t : State) : Prop := exec (.faultDetected r) s = .next t
    let running (s : State) : Bool := s.boot == .ready || s.boot == .training
    let taken (t : State) (p : Fin 4) (cls : Nat) : Prop :=
      (polder t p).discard = some (cls, nextRepair s) ∧ (polder t p).inflight = []
    (running s = false → (s.boot ≠ .recovery ∨ r.source ≠ 0x0D) → detect s) ∧
    (s.boot = .recovery → r.source = 0x0D → ∃ t, detect t ∧ t.boot = .offline ∧ t.alert.getLsbD 2 = true) ∧
    (running s = true →
      (((r.source ∈ [0x01, 0x02, 0x03, 0x0A] ∧ diePolders s r.die = [p]) ∨ (r.source = 0x07 ∧ r.users = [p]) ∨
          (r.source = 0x06 ∧ r.corrected = false ∧ r.command = false ∧ diePolders s r.die = [p]) ∨
          (r.source = 0x08 ∧ r.corrected = false ∧ linkUsers s (reportLink r) = [p])) → isRunning s p = true → closeRuns s p = false →
        ∃ t, detect t ∧ taken t p 2 ∧ t.lastRepair = nextRepair s ∧ t.repairs = s.repairs + 1 ∧
          ∀ p', p' ≠ p → polder t p' = polder s p') ∧
      (r.source = 0x0C → r.item < 8 → reportPolder s r = some p → isRunning s p = true → closeRuns s p = false →
        ∃ t, detect t ∧ taken t p 2 ∧ (polder t p).bad0 = (polder s p).bad0 ||| (1#8 <<< r.item) ∧
          (polder t p).bad1 = (if r.bothCopies then (polder s p).bad1 ||| (1#8 <<< r.item) else (polder s p).bad1)) ∧
      (r.source = 0x0B → r.corrected = false → c3Base s = none → ∃ t, detect t ∧
        (∀ p, isRunning s p = true → closeRuns s p = false → taken t p 3) ∧ t.repairs = s.repairs + 1) ∧
      (r.source = 0x0D → ∃ t, detect t ∧ t.boot = .offline ∧ t.hostMem = s.hostMem ∧ (∀ p, (polder t p).inflight = []) ∧
        ∀ i, (port t i).st = .down) ∧
      (r.source = 0x04 → r.corrected = true → detect (bumpCorrected s (if r.kind = 3 then 3 else 2))) ∧
      (r.source = 0x08 → r.corrected = true → detect (bumpCorrected s 4)) ∧
      (r.source = 0x09 → r.corrected = true → detect (bumpCorrected s 5)) ∧
      (r.source = 0x0B → r.corrected = true → detect (bumpCorrected s 6)) ∧
      (r.source = 0x05 → r.corrected = true → r.kind ≠ 4 → r.addr < 2 ^ 40 → detect (bumpCorrected s 0)) ∧
      (r.source = 0x06 → r.corrected = true → r.kind = 7 → detect (bumpCorrected s 1)) ∧
      (r.source = 0x09 → r.corrected = false → ∃ t, detect t ∧ (port t (fin6 (r.unit / 16))).st = .failed) ∧
      (∀ c, r.source = 0x04 → r.corrected = false → reportPolder s r = some p → liveCmd s p r.queue r.seq = some c →
        (∀ k, metBy s p c r = some k → ((∃ b, c.body = .vk b) ∨ ∃ b, c.body = .update b) →
          detect (veTrap s p c.q c.e.seq k 0x0A (pcOf s k) (wordAt (ve s k)) (metLanes (ve s k) r).1 (metLanes (ve s k) r).2)) ∧
        ((∀ k, metBy s p c r = some k → strandsOthers s p c.q c.e.seq k = false) →
          ∃ t, detect t ∧ (cmdAt t p r.queue r.seq).map (·.res) = some (some .eccUncorrected))) ∧
      ((r.source = 0x05 ∨ r.source = 0x06) → r.corrected = false → r.command = true → r.addr < 2 ^ 40 → isBad s r.addr = false →
        reportPolder s r = some p → liveCmd s p r.queue r.seq = none → detect (poisonBlock s r.addr))) ∧
    (∀ cls id, (polder s p).discard = some (cls, id) → ∃ t, exec (.discardRecordPost p) s = .next t ∧
      (polder t p).st = .repairing ∧ (polder t p).discard = none ∧ (∀ p', p' ≠ p → polder t p' = polder s p') ∧
      (∀ q, (queue s p q).st = .running ∨ (queue s p q).st = .held → (queue t p q).st = .held ∧
        (queue t p q).taken = (queue s p q).fence ∧ (queue t p q).fence = (queue s p q).fence ∧
        (queue t p q).posted = (queue s p q).posted + 1) ∧
      (∀ q, (queue s p q).st = .absent ∨ (queue s p q).st = .error → queue t p q = queue s p q) ∧
      (∀ q, recordQueues s p = [q] →
        let Q := queue s p q
        let slot := Q.cqBase + 32 * (Q.posted % (Q.depth + 1))
        tabBytes t.hostMem slot 6 = leBytes 4 Q.fence.toNat ++ [0x10, if Q.posted / (Q.depth + 1) % 2 = 0 then 3 else 2] ∧
        tabBytes t.hostMem (slot + 16) 4 = leBytes 4 (cls + 256 * id))) ∧
    ((polder s p).discard = none → exec (.discardRecordPost p) s = .next s) ∧
    (∀ id R, running s = true → s.reports.find? (fun R => R.id == id) = some R → repairReady s R = true → R.polders.Nodup →
      (∀ p ∈ R.polders, (func s (vf p)).resetting = false) →
      let outcome := repairOutcome s (servedPolders s R) x
      ∃ t mended, exec (.repairDone id x) s = .next t ∧ t.slotDue = true ∧
        (∀ p ∈ servedPolders s R, (polder t p).bad0 = 0 ∧ ((polder s p).st = .shut → (polder t p).st = .closed) ∧
          ((polder s p).st = .repairing → (polder t p).st = (if 2 ≤ outcome mended then .faulted else .opened))) ∧
        (x.poisoned = [] → ∀ p, p ∉ servedPolders s R → (polder t p).st = (polder s p).st) ∧
        (x.missing = true → R.die < 4 → 1 ≤ R.kind → R.kind ≤ 3 → t.failedDies.get (fin4 R.die) = true) ∧
        ((∀ d, dueOf s d = []) → x.remaps = [] → x.bins = [] → (∀ c ∈ s.softRemaps, compAgrees c = true) → (∀ d, crowded s d = []) →
          mended = true) ∧
        (x.poisoned = [] → ∃ R' ∈ t.reports, R'.id = id ∧ R'.active = false ∧ R'.done = leveeTime s ∧
          R'.outcome = outcome mended)) ∧
    (∀ id, (running s = false ∨ ∀ R, s.reports.find? (fun R => R.id == id) = some R → repairReady s R = false) →
      exec (.repairDone id x) s = .next s)

/-- The heartbeat takes a silent core out of service: the spare core replaces it, then the number of cores falls, and
none left of a kind stops the module. The scans raise the class of what they find; margin tests run on idle C-dies
alone; a scrub counts or poisons (R225, R336, R347, R352, R355). -/
def Obligations.KeeperScansAndTestsWhatItServes : Prop :=
  ∀ (s : State) (d : Fin 4) (mt : MarginResult) (beats : List Bool) (a syms : Nat) (bs b : List Byte),
    let running : Bool := s.boot == .ready || s.boot == .training
    let trimmed (c : DWord) : State :=
      if mapDie c < 4 then faultC2 s (diePolders s (mapDie c)) (faultInfo 0x0C (rmKind c) (mapDie c) (rmUnit c))
      else faultC3 s (faultInfo 0x0C (rmKind c) 4 (rmUnit c))
    ((running = false ∨ ∀ i, i < 6 → beats.getD i true = true) → exec (.keeperHeartbeat beats) s = .next s) ∧
    (∀ i, running = true → i < 6 → beats.getD i true = false → (∀ k, k < 6 → k ≠ i → beats.getD k true = true) →
      let lost : State := { s with coresLost := s.coresLost ++ [i] }
      let known := i ∈ s.coresLost ∨ (i ≠ 5 ∧ (replOf s 0xC 0 i).isSome = true)
      (known → exec (.keeperHeartbeat beats) s = .next s) ∧
      (¬ known → i ≠ 5 → spareRole s = none → 5 ∉ s.coresLost → exec (.keeperHeartbeat beats) s =
        .next (faultC3 (raiseCrossed s lost [⟨0xC, 4, 0⟩]) (faultInfo 0x0B 0xC 4 i))) ∧
      (∀ k, ¬ known → roleLost s i = some k → ∃ t, exec (.keeperHeartbeat beats) s = .next t ∧ t.coresLost = lost.coresLost ∧
        t.dispatchCores = (if k < 4 then s.dispatchCores - 1 else s.dispatchCores) ∧
        t.mgmtCores = (if k < 4 then s.mgmtCores else s.mgmtCores - 1) ∧
        (t.dispatchCores = 0 ∨ t.mgmtCores = 0 → t.boot = .offline) ∧
        (0 < t.dispatchCores → 0 < t.mgmtCores → c3Base s = none → t.boot = s.boot ∧ t.repairs = s.repairs + 1))) ∧
    ((running = false ∨ ∀ c ∈ s.softRemaps ++ s.fuses.remaps.map (·.2), compAgrees c = true) → exec .spareMapScan s = .next s) ∧
    (∀ c, running = true → (s.softRemaps ++ s.fuses.remaps.map (·.2)).find? (fun c => !compAgrees c) = some c →
      exec .spareMapScan s = .next (trimmed c.val)) ∧
    ((running = false ∨ ∀ y ∈ s.trims, compAgrees y.2 = true) → exec .trimScan s = .next s) ∧
    (∀ y, running = true → s.trims.find? (fun y => !compAgrees y.2) = some y → exec .trimScan s = .next
      (if trimDie y.1 < 4 then faultC2 s (diePolders s (trimDie y.1)) (faultInfo 0x0C 0 (trimDie y.1) 0)
       else faultC4 s (faultInfo 0x0C 0 4 0))) ∧
    exec (.marginTestAutoStart d) s = .next (if s.boot = .ready ∧ dieIdle s d = true then
      { s with marginDies := s.marginDies.set d true } else s) ∧
    ((s.boot ≠ .ready ∨ s.marginDies.get d = false) → exec (.marginTestDone d mt) s = .next s) ∧
    (s.boot = .ready → s.marginDies.get d = true → ∃ t, exec (.marginTestDone d mt) s = .next t ∧
      t.marginDies = s.marginDies.set d false ∧
      (mt.nominal = [] → mt.stress = [] → t = { s with marginDies := s.marginDies.set d false }) ∧
      (∀ v b, mt.nominal = [v] → mt.stress = [] → rmKind v ≠ 6 → lastSoft s v = some v → fuseBank v = some b → fusesUsed s b < 64 →
        v ∉ fuseRemaps s → t.fuses.remaps = s.fuses.remaps ++ [(b, heldComp v)] ∧ t.softRemaps = s.softRemaps) ∧
      (∀ v, mt.nominal = [] → mt.stress = [v] → (remapsInForce s).any (sameUnit v) = false → poolRemaining s (poolOf s v) < 2 →
        t = { s with marginDies := s.marginDies.set d false, history := s.history ++ [v] })) ∧
    (Asks s 0 6 16 bs b → fld b 0 1 = 2 → spareRsvd b = true →
      let asked (d : Fin 4) : Bool := (BitVec.ofNat 8 (fld b 2 1)).getLsbD d.val
      (16 ≤ fld b 2 1 → ∃ t, exec .spareReportMarginTest s = .next t ∧ Answered s t 0 bs .descInvalid []) ∧
      (fld b 2 1 < 16 → (∃ d, asked d = true ∧ dieIdle s d = false) →
        ∃ t, exec .spareReportMarginTest s = .next t ∧ Answered s t 0 bs .accessDenied []) ∧
      (fld b 2 1 < 16 → (∀ d, asked d = true → dieIdle s d = true) → ∃ t, exec .spareReportMarginTest s = .next t ∧
        Answered { s with marginDies := Vector.ofFn fun d => asked d || s.marginDies.get d } t 0 bs .ok [])) ∧
    ((a < 2 ^ 40 ∨ 5 * 2 ^ 40 ≤ a ∨ syms = 0 ∨ isBad s a = true) → exec (.scrub a syms) s = .next s) ∧
    (2 ^ 40 ≤ a → a < 5 * 2 ^ 40 → isBad s a = false →
      (syms = 1 → ∃ t, exec (.scrub a 1) s = .next t ∧ t.corrected = vmod s.corrected 1 (· + 1)) ∧
      (2 ≤ syms → exec (.scrub a syms) s = .next (uncorrectable s a)) ∧
      (2 ≤ syms → (∀ p, ∀ y ∈ (polder s p).inflight, y.res = none) → ∃ t, exec (.scrub a syms) s = .next t ∧ isBad t a = true))

/-! ## Upkeep, power and meter -/

/-- Refresh, calibration and drift tracking reach trained sites that are awake; low power is entered only where R235
allows it, with an all-bank refresh and the masks of the segments that hold nothing; an imbalance window starts the
traffic count anew and tells of the first set of channels that is skewed (R231, R235, R238). Which segments a mask
leaves out is the model's choice (log 87). -/
def Obligations.UpkeepReachesTheSitesThatAreAwake : Prop :=
  ∀ (s : State) (m ch : Fin 32) (p : Fin 4),
    let S := site s m
    let P := polder s p
    exec (.refresh m ch) s = .next (if siteAwake S then modSite s m fun S =>
      { S with refreshes := S.refreshes + 1, powerDown := S.powerDown.filter (· ≠ ch.val) } else s) ∧
    exec (.zqCalibration m) s = .next (if siteTrained S then modSite s m fun S => { S with zqs := S.zqs + 1, zqTemp := S.temp } else s) ∧
    exec (.wckDriftTrack m) s = .next (if siteAwake S then modSite s m fun S => { S with wcks := S.wcks + 1 } else s) ∧
    exec (.channelPowerDown m ch) s = .next (if siteAwake S && !S.powerDown.contains ch.val then
      modSite s m fun S => { S with powerDown := S.powerDown ++ [ch.val] } else s) ∧
    (siteAwake S = true → dieIdle s (siteDie m) = false → ∃ t, exec (.siteSelfRefresh m) s = .next t ∧
      site t m = { S with selfRefresh := true, allBank := S.allBank + 1, pasr := (site t m).pasr } ∧
      (site t m).pasr.length = 32 ∧ t = { s with sites := t.sites } ∧ ∀ i, i ≠ m → site t i = site s i) ∧
    (siteAwake S = false ∨ dieIdle s (siteDie m) = true → exec (.siteSelfRefresh m) s = .next s) ∧
    (isOpen s p = false → exec (.imbalanceWindow p) s = .next s) ∧
    (isOpen s p = true → ∃ t, exec (.imbalanceWindow p) s = .next t ∧
      polder t p = { P with winStart := P.winStart + 100000000, chanBytes := [] } ∧
      t = { s with polders := t.polders, funcs := t.funcs, msix := t.msix } ∧
      ((∀ ds ∈ channelSets s p, skewed s P ds = none) → t.funcs = s.funcs) ∧
      ((∃ ds ∈ channelSets s p, skewed s P ds ≠ none) → (func t 0).events.getLast?.map (·.code) = some 0x0201))

/-- The governor moves ACLK and duty by R406, the brake forces both down, sensors set levels by R409 and the limits of
the sites with them, a critical one trips: the rails go off and the module stops (R24, R234, R405-R410, R445, R446).
That memory lists nothing after a trip (log 66), how the averages are taken before enough samples exist (log 49) and
that a level is left exactly 3 °C below its threshold (log 50) are the model's choices. -/
def Obligations.PowerFollowsTheLimitsAndTheSensors : Prop :=
  ∀ (s : State) (m : Fin 32) (mr4 : Nat) (temp : Int) (ts : Temps),
    let S := site s m
    let up := above s.power 1000 100 || above s.power 100000 99
    let down := below s.power 1000 94 && below s.power 100000 97 && decide (1000000 ≤ s.localCount - s.power.lastStep)
    let aclk := if up then max (s.power.aclk - 100) 1800 else if down then min (s.power.aclk + 100) 3600 else s.power.aclk
    let duty := if aclk = 1800 ∧ above s.power 1000 100 = true then max (s.power.duty - 1) 4
      else if below s.power 1000 94 then min (s.power.duty + 1) 8 else s.power.duty
    let l := levelAt siteThresholds S.level temp
    let stopped : Boot := if s.perst then .thermalHold else .offline
    let limited (t : State) (i : Fin 32) : Prop :=
      (site t i).limit = min (siteLimit (site t i).level) (if dieDuty t (siteDie i) = 4 then 50 else 100)
    let sameSite (t : State) (i : Fin 32) : Prop := site t i = { site s i with limit := (site t i).limit }
    (s.boot ≠ .thermalHold → s.modPwrgd = true →
      (l ≠ 5 ∨ s.thermtrip = true → ∃ t, exec (.mr4Poll m temp mr4) s = .next t ∧ (site t m).temp = temp ∧ (site t m).level = l ∧
        (site t m).refresh = min mr4 (if 1 ≤ l then 4 else 8) ∧ (∀ i, limited t i) ∧ ∀ i, i ≠ m → sameSite t i) ∧
      (l = 5 → s.thermtrip = false → ∃ t, exec (.mr4Poll m temp mr4) s = .next t ∧ t.thermtrip = true ∧ t.boot = stopped ∧
        (site t m).level = 5 ∧ t.power.rails = false ∧ t.mem = [] ∧ ∀ i, (site t i).st = .untrained)) ∧
    (s.boot = .thermalHold → s.modPwrgd = true → l = 5 → S.level < 5 → s.thermtrip = false → ∃ t, exec (.mr4Poll m temp mr4) s = .next t ∧
      t.thermtrip = true ∧ t.boot = .thermalHold) ∧
    (s.modPwrgd = false → exec (.mr4Poll m temp mr4) s = .next s ∧ exec (.thermalSample ts) s = .next s) ∧
    (s.modPwrgd = true → ∃ t, exec (.thermalSample ts) s = .next t ∧ t.power.temps = ts ∧
      (∀ d : Fin 4, t.power.dieLevel.get d = levelAt dieThresholds (s.power.dieLevel.get d) (ts.cdies.getD d.val 0)) ∧
      t.power.iLevel = levelAt iDieThresholds s.power.iLevel ts.iDie ∧
      t.power.iSluices = (if 1 ≤ t.power.iLevel then 50 else 100) ∧ t.power.flitSlots = (if 2 ≤ t.power.iLevel then 50 else 100) ∧
      (s.thermtrip = false → s.boot ≠ .thermalHold → (t.power.iLevel = 3 ∨ ∃ d : Fin 4, t.power.dieLevel.get d = 3) →
        t.thermtrip = true ∧ t.boot = stopped ∧ t.power.rails = false ∧ t.mem = [])) ∧
    (s.pwrbrk = true → exec .governorEval s = .next s) ∧
    (s.pwrbrk = false → ∃ t, exec .governorEval s = .next t ∧ t.power.aclk = aclk ∧ t.power.duty = duty ∧
      t.power.cap = s.power.cap ∧ t.polders = s.polders ∧ ∀ i, limited t i ∧ sameSite t i) ∧
    ((s.pwrbrk = true ∨ s.modPwrgd = false) → exec .pwrbrkAssert s = .next { s with pwrbrk := true }) ∧
    (s.pwrbrk = false → s.modPwrgd = true → ∃ t, exec .pwrbrkAssert s = .next t ∧ t.pwrbrk = true ∧
      t.power.aclk = 1800 ∧ t.power.duty = 4 ∧ t.polders = s.polders ∧ ∀ i, (site t i).limit ≤ 50 ∧ sameSite t i) ∧
    exec .pwrbrkDeassert s = .next { s with pwrbrk := false }

/-- Samples settle the slots of the estimates, with the trace records and live reads that wait for them, and answer a
droop; a request whose commands have ended closes, after its delay, into its group or a record; a batch closes with a
statement, at once when it holds 4,096 records; a record goes to its ring slot while there is room (R390, R391,
R394-R396, R398-R402, R407, R416). -/
def Obligations.TheMeterClosesRequestsAndBatches : Prop :=
  ∀ (s : State) (p : Fin 4) (x : RailSample) (c : Fin 256) (w : Weights) (rid : Word) (k : Fin 5),
    let P := polder s p
    let C := chain s k
    let G := chain s (chainOf p)
    let after (slot : Option Nat) : Option Nat := slot.bind fun i => if i < 10 then none else some (i - 10)
    (∃ t, exec (.meterSample x) s = .next t ∧ (∀ c, (cluster t c).weights = (cluster s c).weights.drop 10 ∧ ve t c = ve s c) ∧
      t.power.inputs = (x.inputW :: s.power.inputs).take 100000 ∧ t.power.stretch = decide (3300 < x.inputW) ∧
      (∀ p, (polder t p).recent = [] ∧ ((polder t p).ringDue.map fun y => y.snap.map (·.slot)) =
        (((polder s p).ringDue.map fun y => y.snap.map fun z => after z.slot).dropWhile fun o => o.all (·.isNone)) ∧
        (∀ r q, (func s (vf p)).live = some r → waitingRequest s (vf p) = some q → (∀ z ∈ r.snaps, after z.slot = none) →
          (func t (vf p)).live = none ∧ (func t (vf p)).busy = false ∧ (func t (vf p)).ready = true)) ∧
      ((∀ p, (polder s p).ringDue = [] ∧ (∀ d, (polder s p).dump = some d → d.snaps = [])) → SameMem s t) ∧
      (3300 < x.inputW → s.pwrbrk = false → t.power.aclk = max (s.power.aclk - 200) 1800) ∧
      (x.inputW ≤ 3300 ∨ s.pwrbrk = true → t.power.aclk = s.power.aclk)) ∧
    exec (.activityEstimate c w) s = .next (modCluster s c fun C => { C with weights := C.weights ++ [clusterUses s c w], gone := [] }) ∧
    (tabGet none P.reqs rid.toNat = none → exec (.requestClose p rid) s = .next s) ∧
    (∀ r, tabGet none P.reqs rid.toNat = some r →
      ((∃ y ∈ P.inflight, y.e.reqId = rid) ∨ r.cut = true ∨ (acctTime s p - r.last).toNat < 1000000 * r.delay →
        exec (.requestClose p rid) s = .next s) ∧
      ((∀ y ∈ P.inflight, y.e.reqId ≠ rid) → r.cut = false → 1000000 * r.delay ≤ (acctTime s p - r.last).toNat →
        ∃ t, exec (.requestClose p rid) s = .next t ∧ tabGet none (polder t p).reqs rid.toNat = none ∧ (polder t p).inflight = P.inflight ∧
        (r.last - r.start < 1000000 → G.seq - G.first < 4096 → t.chains = s.chains) ∧
        (1000000 ≤ r.last - r.start → G.seq - G.first < 4095 → (chain t (chainOf p)).seq = G.seq + 1 ∧
          (chain t (chainOf p)).batch = G.batch ∧ (polder t p).accs = P.accs) ∧
        (1000000 ≤ r.last - r.start → 4095 ≤ G.seq - G.first → (chain t (chainOf p)).batch = G.batch + 1 ∧
          (chain t (chainOf p)).first = (chain t (chainOf p)).seq))) ∧
    (meterRuns s = false → exec (.meterBatchClose k) s = .next s) ∧
    (meterRuns s = true →
      let u := batchRecords s k
      let D := chain u k
      (D.seq = D.first → exec (.meterBatchClose k) s = .next u) ∧
      (D.seq ≠ D.first → ∃ t, exec (.meterBatchClose k) s = .next t ∧ (chain t k).batch = D.batch + 1 ∧ (chain t k).first = D.seq ∧
        (chain t k).seq = D.seq ∧ (chain t k).head = D.head ∧ (chain t k).nextParams = none ∧
        (s.meterKey = false → (chain t k).unsigned = D.unsigned ++ [(D.batch, statementHead u k)]) ∧
        (s.meterKey = true → ((chain t k).statements.getLast?.map fun y => (y.1, y.2.take 128)) =
          some (D.batch, (statementHead u k).take 128)))) ∧
    (∀ base n i r rest, C.ring = some (base, n) → C.buffer = (i, r) :: rest →
      exec (.meterRecordDeliver k) s = .next (if i < C.released + n then
        modChain (hostWrite s (base + 64 * (i % n)) r) k fun C => { C with buffer := rest } else s)) ∧
    (C.ring = none ∨ C.buffer = [] → exec (.meterRecordDeliver k) s = .next s)
end

