-- ==== Sys2Proof/Laws/State.lean ====
section
/-! SUPPORT. What each update leaves of each field of the state: one lemma per field per update, so that no proof
unfolds an update; and what the unit it acts on becomes. -/

namespace Sys2Proof.Machine

variable (s : State)

theorem get_vmod {α : Type} {n : Nat} (xs : Vector α n) (i j : Fin n) (f : α → α) :
    (vmod xs i f).get j = if j = i then f (xs.get i) else xs.get j := by
  simp only [vmod, Vector.get_eq_getElem, Vector.getElem_set]
  by_cases h : j = i
  · subst h; simp
  · have : ¬ (i : Nat) = (j : Nat) := fun e => h (Fin.ext e.symm)
    simp [h, this]

@[simp] theorem get_vmod_self {α : Type} {n : Nat} (xs : Vector α n) (i : Fin n) (f : α → α) :
    (vmod xs i f).get i = f (xs.get i) := by simp [get_vmod]

theorem get_vmod_ne {α : Type} {n : Nat} (xs : Vector α n) {i j : Fin n} (f : α → α) (h : j ≠ i) :
    (vmod xs i f).get j = xs.get j := by simp [get_vmod, h]

/-! ## modPolder -/

@[simp] theorem modPolder_boot (p : Fin 4) (f : Polder → Polder) : (modPolder s p f).boot = s.boot := rfl
@[simp] theorem modPolder_perst (p : Fin 4) (f : Polder → Polder) : (modPolder s p f).perst = s.perst := rfl
@[simp] theorem modPolder_pwrbrk (p : Fin 4) (f : Polder → Polder) : (modPolder s p f).pwrbrk = s.pwrbrk := rfl
@[simp] theorem modPolder_thermtrip (p : Fin 4) (f : Polder → Polder) : (modPolder s p f).thermtrip = s.thermtrip := rfl
@[simp] theorem modPolder_modPwrgd (p : Fin 4) (f : Polder → Polder) : (modPolder s p f).modPwrgd = s.modPwrgd := rfl
@[simp] theorem modPolder_smbAlert (p : Fin 4) (f : Polder → Polder) : (modPolder s p f).smbAlert = s.smbAlert := rfl
@[simp] theorem modPolder_alert (p : Fin 4) (f : Polder → Polder) : (modPolder s p f).alert = s.alert := rfl
@[simp] theorem modPolder_lastReset (p : Fin 4) (f : Polder → Polder) : (modPolder s p f).lastReset = s.lastReset := rfl
@[simp] theorem modPolder_hostRate (p : Fin 4) (f : Polder → Polder) : (modPolder s p f).hostRate = s.hostRate := rfl
@[simp] theorem modPolder_hostWidth (p : Fin 4) (f : Polder → Polder) : (modPolder s p f).hostWidth = s.hostWidth := rfl
@[simp] theorem modPolder_bootFlags (p : Fin 4) (f : Polder → Polder) : (modPolder s p f).bootFlags = s.bootFlags := rfl
@[simp] theorem modPolder_slotGen (p : Fin 4) (f : Polder → Polder) : (modPolder s p f).slotGen = s.slotGen := rfl
@[simp] theorem modPolder_slotUsed (p : Fin 4) (f : Polder → Polder) : (modPolder s p f).slotUsed = s.slotUsed := rfl
@[simp] theorem modPolder_slotDue (p : Fin 4) (f : Polder → Polder) : (modPolder s p f).slotDue = s.slotDue := rfl
@[simp] theorem modPolder_selfTest (p : Fin 4) (f : Polder → Polder) : (modPolder s p f).selfTest = s.selfTest := rfl
@[simp] theorem modPolder_plan (p : Fin 4) (f : Polder → Polder) : (modPolder s p f).plan = s.plan := rfl
@[simp] theorem modPolder_releaseTime (p : Fin 4) (f : Polder → Polder) : (modPolder s p f).releaseTime = s.releaseTime := rfl
@[simp] theorem modPolder_localCount (p : Fin 4) (f : Polder → Polder) : (modPolder s p f).localCount = s.localCount := rfl
@[simp] theorem modPolder_correction (p : Fin 4) (f : Polder → Polder) : (modPolder s p f).correction = s.correction := rfl
@[simp] theorem modPolder_slew (p : Fin 4) (f : Polder → Polder) : (modPolder s p f).slew = s.slew := rfl
@[simp] theorem modPolder_bootNonce (p : Fin 4) (f : Polder → Polder) : (modPolder s p f).bootNonce = s.bootNonce := rfl
@[simp] theorem modPolder_draws (p : Fin 4) (f : Polder → Polder) : (modPolder s p f).draws = s.draws := rfl
@[simp] theorem modPolder_lastRead (p : Fin 4) (f : Polder → Polder) : (modPolder s p f).lastRead = s.lastRead := rfl
@[simp] theorem modPolder_fuses (p : Fin 4) (f : Polder → Polder) : (modPolder s p f).fuses = s.fuses := rfl
@[simp] theorem modPolder_flash (p : Fin 4) (f : Polder → Polder) : (modPolder s p f).flash = s.flash := rfl
@[simp] theorem modPolder_fw (p : Fin 4) (f : Polder → Polder) : (modPolder s p f).fw = s.fw := rfl
@[simp] theorem modPolder_fwVersion (p : Fin 4) (f : Polder → Polder) : (modPolder s p f).fwVersion = s.fwVersion := rfl
@[simp] theorem modPolder_fwSecurity (p : Fin 4) (f : Polder → Polder) : (modPolder s p f).fwSecurity = s.fwSecurity := rfl
@[simp] theorem modPolder_romDigest (p : Fin 4) (f : Polder → Polder) : (modPolder s p f).romDigest = s.romDigest := rfl
@[simp] theorem modPolder_fwDigest (p : Fin 4) (f : Polder → Polder) : (modPolder s p f).fwDigest = s.fwDigest := rfl
@[simp] theorem modPolder_cfgDigest (p : Fin 4) (f : Polder → Polder) : (modPolder s p f).cfgDigest = s.cfgDigest := rfl
@[simp] theorem modPolder_layout (p : Fin 4) (f : Polder → Polder) : (modPolder s p f).layout = s.layout := rfl
@[simp] theorem modPolder_numVfs (p : Fin 4) (f : Polder → Polder) : (modPolder s p f).numVfs = s.numVfs := rfl
@[simp] theorem modPolder_vfEnable (p : Fin 4) (f : Polder → Polder) : (modPolder s p f).vfEnable = s.vfEnable := rfl
@[simp] theorem modPolder_softRemaps (p : Fin 4) (f : Polder → Polder) : (modPolder s p f).softRemaps = s.softRemaps := rfl
@[simp] theorem modPolder_trims (p : Fin 4) (f : Polder → Polder) : (modPolder s p f).trims = s.trims := rfl
@[simp] theorem modPolder_history (p : Fin 4) (f : Polder → Polder) : (modPolder s p f).history = s.history := rfl
@[simp] theorem modPolder_failedDies (p : Fin 4) (f : Polder → Polder) : (modPolder s p f).failedDies = s.failedDies := rfl
@[simp] theorem modPolder_marginDies (p : Fin 4) (f : Polder → Polder) : (modPolder s p f).marginDies = s.marginDies := rfl
@[simp] theorem modPolder_clean (p : Fin 4) (f : Polder → Polder) : (modPolder s p f).clean = s.clean := rfl
@[simp] theorem modPolder_repairs (p : Fin 4) (f : Polder → Polder) : (modPolder s p f).repairs = s.repairs := rfl
@[simp] theorem modPolder_lastRepair (p : Fin 4) (f : Polder → Polder) : (modPolder s p f).lastRepair = s.lastRepair := rfl
@[simp] theorem modPolder_reports (p : Fin 4) (f : Polder → Polder) : (modPolder s p f).reports = s.reports := rfl
@[simp] theorem modPolder_corrected (p : Fin 4) (f : Polder → Polder) : (modPolder s p f).corrected = s.corrected := rfl
@[simp] theorem modPolder_dispatchCores (p : Fin 4) (f : Polder → Polder) : (modPolder s p f).dispatchCores = s.dispatchCores := rfl
@[simp] theorem modPolder_mgmtCores (p : Fin 4) (f : Polder → Polder) : (modPolder s p f).mgmtCores = s.mgmtCores := rfl
@[simp] theorem modPolder_coresLost (p : Fin 4) (f : Polder → Polder) : (modPolder s p f).coresLost = s.coresLost := rfl
@[simp] theorem modPolder_identity (p : Fin 4) (f : Polder → Polder) : (modPolder s p f).identity = s.identity := rfl
@[simp] theorem modPolder_meterKey (p : Fin 4) (f : Polder → Polder) : (modPolder s p f).meterKey = s.meterKey := rfl
@[simp] theorem modPolder_challenge (p : Fin 4) (f : Polder → Polder) : (modPolder s p f).challenge = s.challenge := rfl
@[simp] theorem modPolder_attestSeq (p : Fin 4) (f : Polder → Polder) : (modPolder s p f).attestSeq = s.attestSeq := rfl
@[simp] theorem modPolder_funcs (p : Fin 4) (f : Polder → Polder) : (modPolder s p f).funcs = s.funcs := rfl
@[simp] theorem modPolder_cvus (p : Fin 4) (f : Polder → Polder) : (modPolder s p f).cvus = s.cvus := rfl
@[simp] theorem modPolder_clusters (p : Fin 4) (f : Polder → Polder) : (modPolder s p f).clusters = s.clusters := rfl
@[simp] theorem modPolder_mem (p : Fin 4) (f : Polder → Polder) : (modPolder s p f).mem = s.mem := rfl
@[simp] theorem modPolder_undef (p : Fin 4) (f : Polder → Polder) : (modPolder s p f).undef = s.undef := rfl
@[simp] theorem modPolder_watch (p : Fin 4) (f : Polder → Polder) : (modPolder s p f).watch = s.watch := rfl
@[simp] theorem modPolder_hostMem (p : Fin 4) (f : Polder → Polder) : (modPolder s p f).hostMem = s.hostMem := rfl
@[simp] theorem modPolder_msix (p : Fin 4) (f : Polder → Polder) : (modPolder s p f).msix = s.msix := rfl
@[simp] theorem modPolder_poison (p : Fin 4) (f : Polder → Polder) : (modPolder s p f).poison = s.poison := rfl
@[simp] theorem modPolder_pageErrs (p : Fin 4) (f : Polder → Polder) : (modPolder s p f).pageErrs = s.pageErrs := rfl
@[simp] theorem modPolder_pagesDue (p : Fin 4) (f : Polder → Polder) : (modPolder s p f).pagesDue = s.pagesDue := rfl
@[simp] theorem modPolder_sluiceCvu (p : Fin 4) (f : Polder → Polder) : (modPolder s p f).sluiceCvu = s.sluiceCvu := rfl
@[simp] theorem modPolder_sites (p : Fin 4) (f : Polder → Polder) : (modPolder s p f).sites = s.sites := rfl
@[simp] theorem modPolder_ports (p : Fin 4) (f : Polder → Polder) : (modPolder s p f).ports = s.ports := rfl
@[simp] theorem modPolder_counters (p : Fin 4) (f : Polder → Polder) : (modPolder s p f).counters = s.counters := rfl
@[simp] theorem modPolder_chains (p : Fin 4) (f : Polder → Polder) : (modPolder s p f).chains = s.chains := rfl
@[simp] theorem modPolder_power (p : Fin 4) (f : Polder → Polder) : (modPolder s p f).power = s.power := rfl
@[simp] theorem modPolder_pending (p : Fin 4) (f : Polder → Polder) : (modPolder s p f).pending = s.pending := rfl
@[simp] theorem func_modPolder (p : Fin 4) (f : Polder → Polder) (x : Fin 5) : func (modPolder s p f) x = func s x := rfl
@[simp] theorem cluster_modPolder (p : Fin 4) (f : Polder → Polder) (x : Fin 256) : cluster (modPolder s p f) x = cluster s x := rfl
@[simp] theorem ve_modPolder (p : Fin 4) (f : Polder → Polder) (x : Fin 256) : ve (modPolder s p f) x = ve s x := rfl
@[simp] theorem port_modPolder (p : Fin 4) (f : Polder → Polder) (x : Fin 6) : port (modPolder s p f) x = port s x := rfl
@[simp] theorem site_modPolder (p : Fin 4) (f : Polder → Polder) (x : Fin 32) : site (modPolder s p f) x = site s x := rfl
@[simp] theorem chain_modPolder (p : Fin 4) (f : Polder → Polder) (x : Fin 5) : chain (modPolder s p f) x = chain s x := rfl

/-! ## modQueue -/

@[simp] theorem modQueue_boot (p : Fin 4) (q : Fin 16) (f : Queue → Queue) : (modQueue s p q f).boot = s.boot := rfl
@[simp] theorem modQueue_perst (p : Fin 4) (q : Fin 16) (f : Queue → Queue) : (modQueue s p q f).perst = s.perst := rfl
@[simp] theorem modQueue_pwrbrk (p : Fin 4) (q : Fin 16) (f : Queue → Queue) : (modQueue s p q f).pwrbrk = s.pwrbrk := rfl
@[simp] theorem modQueue_thermtrip (p : Fin 4) (q : Fin 16) (f : Queue → Queue) : (modQueue s p q f).thermtrip = s.thermtrip := rfl
@[simp] theorem modQueue_modPwrgd (p : Fin 4) (q : Fin 16) (f : Queue → Queue) : (modQueue s p q f).modPwrgd = s.modPwrgd := rfl
@[simp] theorem modQueue_smbAlert (p : Fin 4) (q : Fin 16) (f : Queue → Queue) : (modQueue s p q f).smbAlert = s.smbAlert := rfl
@[simp] theorem modQueue_alert (p : Fin 4) (q : Fin 16) (f : Queue → Queue) : (modQueue s p q f).alert = s.alert := rfl
@[simp] theorem modQueue_lastReset (p : Fin 4) (q : Fin 16) (f : Queue → Queue) : (modQueue s p q f).lastReset = s.lastReset := rfl
@[simp] theorem modQueue_hostRate (p : Fin 4) (q : Fin 16) (f : Queue → Queue) : (modQueue s p q f).hostRate = s.hostRate := rfl
@[simp] theorem modQueue_hostWidth (p : Fin 4) (q : Fin 16) (f : Queue → Queue) : (modQueue s p q f).hostWidth = s.hostWidth := rfl
@[simp] theorem modQueue_bootFlags (p : Fin 4) (q : Fin 16) (f : Queue → Queue) : (modQueue s p q f).bootFlags = s.bootFlags := rfl
@[simp] theorem modQueue_slotGen (p : Fin 4) (q : Fin 16) (f : Queue → Queue) : (modQueue s p q f).slotGen = s.slotGen := rfl
@[simp] theorem modQueue_slotUsed (p : Fin 4) (q : Fin 16) (f : Queue → Queue) : (modQueue s p q f).slotUsed = s.slotUsed := rfl
@[simp] theorem modQueue_slotDue (p : Fin 4) (q : Fin 16) (f : Queue → Queue) : (modQueue s p q f).slotDue = s.slotDue := rfl
@[simp] theorem modQueue_selfTest (p : Fin 4) (q : Fin 16) (f : Queue → Queue) : (modQueue s p q f).selfTest = s.selfTest := rfl
@[simp] theorem modQueue_plan (p : Fin 4) (q : Fin 16) (f : Queue → Queue) : (modQueue s p q f).plan = s.plan := rfl
@[simp] theorem modQueue_releaseTime (p : Fin 4) (q : Fin 16) (f : Queue → Queue) : (modQueue s p q f).releaseTime = s.releaseTime := rfl
@[simp] theorem modQueue_localCount (p : Fin 4) (q : Fin 16) (f : Queue → Queue) : (modQueue s p q f).localCount = s.localCount := rfl
@[simp] theorem modQueue_correction (p : Fin 4) (q : Fin 16) (f : Queue → Queue) : (modQueue s p q f).correction = s.correction := rfl
@[simp] theorem modQueue_slew (p : Fin 4) (q : Fin 16) (f : Queue → Queue) : (modQueue s p q f).slew = s.slew := rfl
@[simp] theorem modQueue_bootNonce (p : Fin 4) (q : Fin 16) (f : Queue → Queue) : (modQueue s p q f).bootNonce = s.bootNonce := rfl
@[simp] theorem modQueue_draws (p : Fin 4) (q : Fin 16) (f : Queue → Queue) : (modQueue s p q f).draws = s.draws := rfl
@[simp] theorem modQueue_lastRead (p : Fin 4) (q : Fin 16) (f : Queue → Queue) : (modQueue s p q f).lastRead = s.lastRead := rfl
@[simp] theorem modQueue_fuses (p : Fin 4) (q : Fin 16) (f : Queue → Queue) : (modQueue s p q f).fuses = s.fuses := rfl
@[simp] theorem modQueue_flash (p : Fin 4) (q : Fin 16) (f : Queue → Queue) : (modQueue s p q f).flash = s.flash := rfl
@[simp] theorem modQueue_fw (p : Fin 4) (q : Fin 16) (f : Queue → Queue) : (modQueue s p q f).fw = s.fw := rfl
@[simp] theorem modQueue_fwVersion (p : Fin 4) (q : Fin 16) (f : Queue → Queue) : (modQueue s p q f).fwVersion = s.fwVersion := rfl
@[simp] theorem modQueue_fwSecurity (p : Fin 4) (q : Fin 16) (f : Queue → Queue) : (modQueue s p q f).fwSecurity = s.fwSecurity := rfl
@[simp] theorem modQueue_romDigest (p : Fin 4) (q : Fin 16) (f : Queue → Queue) : (modQueue s p q f).romDigest = s.romDigest := rfl
@[simp] theorem modQueue_fwDigest (p : Fin 4) (q : Fin 16) (f : Queue → Queue) : (modQueue s p q f).fwDigest = s.fwDigest := rfl
@[simp] theorem modQueue_cfgDigest (p : Fin 4) (q : Fin 16) (f : Queue → Queue) : (modQueue s p q f).cfgDigest = s.cfgDigest := rfl
@[simp] theorem modQueue_layout (p : Fin 4) (q : Fin 16) (f : Queue → Queue) : (modQueue s p q f).layout = s.layout := rfl
@[simp] theorem modQueue_numVfs (p : Fin 4) (q : Fin 16) (f : Queue → Queue) : (modQueue s p q f).numVfs = s.numVfs := rfl
@[simp] theorem modQueue_vfEnable (p : Fin 4) (q : Fin 16) (f : Queue → Queue) : (modQueue s p q f).vfEnable = s.vfEnable := rfl
@[simp] theorem modQueue_softRemaps (p : Fin 4) (q : Fin 16) (f : Queue → Queue) : (modQueue s p q f).softRemaps = s.softRemaps := rfl
@[simp] theorem modQueue_trims (p : Fin 4) (q : Fin 16) (f : Queue → Queue) : (modQueue s p q f).trims = s.trims := rfl
@[simp] theorem modQueue_history (p : Fin 4) (q : Fin 16) (f : Queue → Queue) : (modQueue s p q f).history = s.history := rfl
@[simp] theorem modQueue_failedDies (p : Fin 4) (q : Fin 16) (f : Queue → Queue) : (modQueue s p q f).failedDies = s.failedDies := rfl
@[simp] theorem modQueue_marginDies (p : Fin 4) (q : Fin 16) (f : Queue → Queue) : (modQueue s p q f).marginDies = s.marginDies := rfl
@[simp] theorem modQueue_clean (p : Fin 4) (q : Fin 16) (f : Queue → Queue) : (modQueue s p q f).clean = s.clean := rfl
@[simp] theorem modQueue_repairs (p : Fin 4) (q : Fin 16) (f : Queue → Queue) : (modQueue s p q f).repairs = s.repairs := rfl
@[simp] theorem modQueue_lastRepair (p : Fin 4) (q : Fin 16) (f : Queue → Queue) : (modQueue s p q f).lastRepair = s.lastRepair := rfl
@[simp] theorem modQueue_reports (p : Fin 4) (q : Fin 16) (f : Queue → Queue) : (modQueue s p q f).reports = s.reports := rfl
@[simp] theorem modQueue_corrected (p : Fin 4) (q : Fin 16) (f : Queue → Queue) : (modQueue s p q f).corrected = s.corrected := rfl
@[simp] theorem modQueue_dispatchCores (p : Fin 4) (q : Fin 16) (f : Queue → Queue) : (modQueue s p q f).dispatchCores = s.dispatchCores := rfl
@[simp] theorem modQueue_mgmtCores (p : Fin 4) (q : Fin 16) (f : Queue → Queue) : (modQueue s p q f).mgmtCores = s.mgmtCores := rfl
@[simp] theorem modQueue_coresLost (p : Fin 4) (q : Fin 16) (f : Queue → Queue) : (modQueue s p q f).coresLost = s.coresLost := rfl
@[simp] theorem modQueue_identity (p : Fin 4) (q : Fin 16) (f : Queue → Queue) : (modQueue s p q f).identity = s.identity := rfl
@[simp] theorem modQueue_meterKey (p : Fin 4) (q : Fin 16) (f : Queue → Queue) : (modQueue s p q f).meterKey = s.meterKey := rfl
@[simp] theorem modQueue_challenge (p : Fin 4) (q : Fin 16) (f : Queue → Queue) : (modQueue s p q f).challenge = s.challenge := rfl
@[simp] theorem modQueue_attestSeq (p : Fin 4) (q : Fin 16) (f : Queue → Queue) : (modQueue s p q f).attestSeq = s.attestSeq := rfl
@[simp] theorem modQueue_funcs (p : Fin 4) (q : Fin 16) (f : Queue → Queue) : (modQueue s p q f).funcs = s.funcs := rfl
@[simp] theorem modQueue_cvus (p : Fin 4) (q : Fin 16) (f : Queue → Queue) : (modQueue s p q f).cvus = s.cvus := rfl
@[simp] theorem modQueue_clusters (p : Fin 4) (q : Fin 16) (f : Queue → Queue) : (modQueue s p q f).clusters = s.clusters := rfl
@[simp] theorem modQueue_mem (p : Fin 4) (q : Fin 16) (f : Queue → Queue) : (modQueue s p q f).mem = s.mem := rfl
@[simp] theorem modQueue_undef (p : Fin 4) (q : Fin 16) (f : Queue → Queue) : (modQueue s p q f).undef = s.undef := rfl
@[simp] theorem modQueue_watch (p : Fin 4) (q : Fin 16) (f : Queue → Queue) : (modQueue s p q f).watch = s.watch := rfl
@[simp] theorem modQueue_hostMem (p : Fin 4) (q : Fin 16) (f : Queue → Queue) : (modQueue s p q f).hostMem = s.hostMem := rfl
@[simp] theorem modQueue_msix (p : Fin 4) (q : Fin 16) (f : Queue → Queue) : (modQueue s p q f).msix = s.msix := rfl
@[simp] theorem modQueue_poison (p : Fin 4) (q : Fin 16) (f : Queue → Queue) : (modQueue s p q f).poison = s.poison := rfl
@[simp] theorem modQueue_pageErrs (p : Fin 4) (q : Fin 16) (f : Queue → Queue) : (modQueue s p q f).pageErrs = s.pageErrs := rfl
@[simp] theorem modQueue_pagesDue (p : Fin 4) (q : Fin 16) (f : Queue → Queue) : (modQueue s p q f).pagesDue = s.pagesDue := rfl
@[simp] theorem modQueue_sluiceCvu (p : Fin 4) (q : Fin 16) (f : Queue → Queue) : (modQueue s p q f).sluiceCvu = s.sluiceCvu := rfl
@[simp] theorem modQueue_sites (p : Fin 4) (q : Fin 16) (f : Queue → Queue) : (modQueue s p q f).sites = s.sites := rfl
@[simp] theorem modQueue_ports (p : Fin 4) (q : Fin 16) (f : Queue → Queue) : (modQueue s p q f).ports = s.ports := rfl
@[simp] theorem modQueue_counters (p : Fin 4) (q : Fin 16) (f : Queue → Queue) : (modQueue s p q f).counters = s.counters := rfl
@[simp] theorem modQueue_chains (p : Fin 4) (q : Fin 16) (f : Queue → Queue) : (modQueue s p q f).chains = s.chains := rfl
@[simp] theorem modQueue_power (p : Fin 4) (q : Fin 16) (f : Queue → Queue) : (modQueue s p q f).power = s.power := rfl
@[simp] theorem modQueue_pending (p : Fin 4) (q : Fin 16) (f : Queue → Queue) : (modQueue s p q f).pending = s.pending := rfl
@[simp] theorem func_modQueue (p : Fin 4) (q : Fin 16) (f : Queue → Queue) (x : Fin 5) : func (modQueue s p q f) x = func s x := rfl
@[simp] theorem cluster_modQueue (p : Fin 4) (q : Fin 16) (f : Queue → Queue) (x : Fin 256) : cluster (modQueue s p q f) x = cluster s x := rfl
@[simp] theorem ve_modQueue (p : Fin 4) (q : Fin 16) (f : Queue → Queue) (x : Fin 256) : ve (modQueue s p q f) x = ve s x := rfl
@[simp] theorem port_modQueue (p : Fin 4) (q : Fin 16) (f : Queue → Queue) (x : Fin 6) : port (modQueue s p q f) x = port s x := rfl
@[simp] theorem site_modQueue (p : Fin 4) (q : Fin 16) (f : Queue → Queue) (x : Fin 32) : site (modQueue s p q f) x = site s x := rfl
@[simp] theorem chain_modQueue (p : Fin 4) (q : Fin 16) (f : Queue → Queue) (x : Fin 5) : chain (modQueue s p q f) x = chain s x := rfl

/-! ## modCmd -/

@[simp] theorem modCmd_boot (p : Fin 4) (q : Fin 16) (n : Word) (f : Cmd → Cmd) : (modCmd s p q n f).boot = s.boot := rfl
@[simp] theorem modCmd_perst (p : Fin 4) (q : Fin 16) (n : Word) (f : Cmd → Cmd) : (modCmd s p q n f).perst = s.perst := rfl
@[simp] theorem modCmd_pwrbrk (p : Fin 4) (q : Fin 16) (n : Word) (f : Cmd → Cmd) : (modCmd s p q n f).pwrbrk = s.pwrbrk := rfl
@[simp] theorem modCmd_thermtrip (p : Fin 4) (q : Fin 16) (n : Word) (f : Cmd → Cmd) : (modCmd s p q n f).thermtrip = s.thermtrip := rfl
@[simp] theorem modCmd_modPwrgd (p : Fin 4) (q : Fin 16) (n : Word) (f : Cmd → Cmd) : (modCmd s p q n f).modPwrgd = s.modPwrgd := rfl
@[simp] theorem modCmd_smbAlert (p : Fin 4) (q : Fin 16) (n : Word) (f : Cmd → Cmd) : (modCmd s p q n f).smbAlert = s.smbAlert := rfl
@[simp] theorem modCmd_alert (p : Fin 4) (q : Fin 16) (n : Word) (f : Cmd → Cmd) : (modCmd s p q n f).alert = s.alert := rfl
@[simp] theorem modCmd_lastReset (p : Fin 4) (q : Fin 16) (n : Word) (f : Cmd → Cmd) : (modCmd s p q n f).lastReset = s.lastReset := rfl
@[simp] theorem modCmd_hostRate (p : Fin 4) (q : Fin 16) (n : Word) (f : Cmd → Cmd) : (modCmd s p q n f).hostRate = s.hostRate := rfl
@[simp] theorem modCmd_hostWidth (p : Fin 4) (q : Fin 16) (n : Word) (f : Cmd → Cmd) : (modCmd s p q n f).hostWidth = s.hostWidth := rfl
@[simp] theorem modCmd_bootFlags (p : Fin 4) (q : Fin 16) (n : Word) (f : Cmd → Cmd) : (modCmd s p q n f).bootFlags = s.bootFlags := rfl
@[simp] theorem modCmd_slotGen (p : Fin 4) (q : Fin 16) (n : Word) (f : Cmd → Cmd) : (modCmd s p q n f).slotGen = s.slotGen := rfl
@[simp] theorem modCmd_slotUsed (p : Fin 4) (q : Fin 16) (n : Word) (f : Cmd → Cmd) : (modCmd s p q n f).slotUsed = s.slotUsed := rfl
@[simp] theorem modCmd_slotDue (p : Fin 4) (q : Fin 16) (n : Word) (f : Cmd → Cmd) : (modCmd s p q n f).slotDue = s.slotDue := rfl
@[simp] theorem modCmd_selfTest (p : Fin 4) (q : Fin 16) (n : Word) (f : Cmd → Cmd) : (modCmd s p q n f).selfTest = s.selfTest := rfl
@[simp] theorem modCmd_plan (p : Fin 4) (q : Fin 16) (n : Word) (f : Cmd → Cmd) : (modCmd s p q n f).plan = s.plan := rfl
@[simp] theorem modCmd_releaseTime (p : Fin 4) (q : Fin 16) (n : Word) (f : Cmd → Cmd) : (modCmd s p q n f).releaseTime = s.releaseTime := rfl
@[simp] theorem modCmd_localCount (p : Fin 4) (q : Fin 16) (n : Word) (f : Cmd → Cmd) : (modCmd s p q n f).localCount = s.localCount := rfl
@[simp] theorem modCmd_correction (p : Fin 4) (q : Fin 16) (n : Word) (f : Cmd → Cmd) : (modCmd s p q n f).correction = s.correction := rfl
@[simp] theorem modCmd_slew (p : Fin 4) (q : Fin 16) (n : Word) (f : Cmd → Cmd) : (modCmd s p q n f).slew = s.slew := rfl
@[simp] theorem modCmd_bootNonce (p : Fin 4) (q : Fin 16) (n : Word) (f : Cmd → Cmd) : (modCmd s p q n f).bootNonce = s.bootNonce := rfl
@[simp] theorem modCmd_draws (p : Fin 4) (q : Fin 16) (n : Word) (f : Cmd → Cmd) : (modCmd s p q n f).draws = s.draws := rfl
@[simp] theorem modCmd_lastRead (p : Fin 4) (q : Fin 16) (n : Word) (f : Cmd → Cmd) : (modCmd s p q n f).lastRead = s.lastRead := rfl
@[simp] theorem modCmd_fuses (p : Fin 4) (q : Fin 16) (n : Word) (f : Cmd → Cmd) : (modCmd s p q n f).fuses = s.fuses := rfl
@[simp] theorem modCmd_flash (p : Fin 4) (q : Fin 16) (n : Word) (f : Cmd → Cmd) : (modCmd s p q n f).flash = s.flash := rfl
@[simp] theorem modCmd_fw (p : Fin 4) (q : Fin 16) (n : Word) (f : Cmd → Cmd) : (modCmd s p q n f).fw = s.fw := rfl
@[simp] theorem modCmd_fwVersion (p : Fin 4) (q : Fin 16) (n : Word) (f : Cmd → Cmd) : (modCmd s p q n f).fwVersion = s.fwVersion := rfl
@[simp] theorem modCmd_fwSecurity (p : Fin 4) (q : Fin 16) (n : Word) (f : Cmd → Cmd) : (modCmd s p q n f).fwSecurity = s.fwSecurity := rfl
@[simp] theorem modCmd_romDigest (p : Fin 4) (q : Fin 16) (n : Word) (f : Cmd → Cmd) : (modCmd s p q n f).romDigest = s.romDigest := rfl
@[simp] theorem modCmd_fwDigest (p : Fin 4) (q : Fin 16) (n : Word) (f : Cmd → Cmd) : (modCmd s p q n f).fwDigest = s.fwDigest := rfl
@[simp] theorem modCmd_cfgDigest (p : Fin 4) (q : Fin 16) (n : Word) (f : Cmd → Cmd) : (modCmd s p q n f).cfgDigest = s.cfgDigest := rfl
@[simp] theorem modCmd_layout (p : Fin 4) (q : Fin 16) (n : Word) (f : Cmd → Cmd) : (modCmd s p q n f).layout = s.layout := rfl
@[simp] theorem modCmd_numVfs (p : Fin 4) (q : Fin 16) (n : Word) (f : Cmd → Cmd) : (modCmd s p q n f).numVfs = s.numVfs := rfl
@[simp] theorem modCmd_vfEnable (p : Fin 4) (q : Fin 16) (n : Word) (f : Cmd → Cmd) : (modCmd s p q n f).vfEnable = s.vfEnable := rfl
@[simp] theorem modCmd_softRemaps (p : Fin 4) (q : Fin 16) (n : Word) (f : Cmd → Cmd) : (modCmd s p q n f).softRemaps = s.softRemaps := rfl
@[simp] theorem modCmd_trims (p : Fin 4) (q : Fin 16) (n : Word) (f : Cmd → Cmd) : (modCmd s p q n f).trims = s.trims := rfl
@[simp] theorem modCmd_history (p : Fin 4) (q : Fin 16) (n : Word) (f : Cmd → Cmd) : (modCmd s p q n f).history = s.history := rfl
@[simp] theorem modCmd_failedDies (p : Fin 4) (q : Fin 16) (n : Word) (f : Cmd → Cmd) : (modCmd s p q n f).failedDies = s.failedDies := rfl
@[simp] theorem modCmd_marginDies (p : Fin 4) (q : Fin 16) (n : Word) (f : Cmd → Cmd) : (modCmd s p q n f).marginDies = s.marginDies := rfl
@[simp] theorem modCmd_clean (p : Fin 4) (q : Fin 16) (n : Word) (f : Cmd → Cmd) : (modCmd s p q n f).clean = s.clean := rfl
@[simp] theorem modCmd_repairs (p : Fin 4) (q : Fin 16) (n : Word) (f : Cmd → Cmd) : (modCmd s p q n f).repairs = s.repairs := rfl
@[simp] theorem modCmd_lastRepair (p : Fin 4) (q : Fin 16) (n : Word) (f : Cmd → Cmd) : (modCmd s p q n f).lastRepair = s.lastRepair := rfl
@[simp] theorem modCmd_reports (p : Fin 4) (q : Fin 16) (n : Word) (f : Cmd → Cmd) : (modCmd s p q n f).reports = s.reports := rfl
@[simp] theorem modCmd_corrected (p : Fin 4) (q : Fin 16) (n : Word) (f : Cmd → Cmd) : (modCmd s p q n f).corrected = s.corrected := rfl
@[simp] theorem modCmd_dispatchCores (p : Fin 4) (q : Fin 16) (n : Word) (f : Cmd → Cmd) : (modCmd s p q n f).dispatchCores = s.dispatchCores := rfl
@[simp] theorem modCmd_mgmtCores (p : Fin 4) (q : Fin 16) (n : Word) (f : Cmd → Cmd) : (modCmd s p q n f).mgmtCores = s.mgmtCores := rfl
@[simp] theorem modCmd_coresLost (p : Fin 4) (q : Fin 16) (n : Word) (f : Cmd → Cmd) : (modCmd s p q n f).coresLost = s.coresLost := rfl
@[simp] theorem modCmd_identity (p : Fin 4) (q : Fin 16) (n : Word) (f : Cmd → Cmd) : (modCmd s p q n f).identity = s.identity := rfl
@[simp] theorem modCmd_meterKey (p : Fin 4) (q : Fin 16) (n : Word) (f : Cmd → Cmd) : (modCmd s p q n f).meterKey = s.meterKey := rfl
@[simp] theorem modCmd_challenge (p : Fin 4) (q : Fin 16) (n : Word) (f : Cmd → Cmd) : (modCmd s p q n f).challenge = s.challenge := rfl
@[simp] theorem modCmd_attestSeq (p : Fin 4) (q : Fin 16) (n : Word) (f : Cmd → Cmd) : (modCmd s p q n f).attestSeq = s.attestSeq := rfl
@[simp] theorem modCmd_funcs (p : Fin 4) (q : Fin 16) (n : Word) (f : Cmd → Cmd) : (modCmd s p q n f).funcs = s.funcs := rfl
@[simp] theorem modCmd_cvus (p : Fin 4) (q : Fin 16) (n : Word) (f : Cmd → Cmd) : (modCmd s p q n f).cvus = s.cvus := rfl
@[simp] theorem modCmd_clusters (p : Fin 4) (q : Fin 16) (n : Word) (f : Cmd → Cmd) : (modCmd s p q n f).clusters = s.clusters := rfl
@[simp] theorem modCmd_mem (p : Fin 4) (q : Fin 16) (n : Word) (f : Cmd → Cmd) : (modCmd s p q n f).mem = s.mem := rfl
@[simp] theorem modCmd_undef (p : Fin 4) (q : Fin 16) (n : Word) (f : Cmd → Cmd) : (modCmd s p q n f).undef = s.undef := rfl
@[simp] theorem modCmd_watch (p : Fin 4) (q : Fin 16) (n : Word) (f : Cmd → Cmd) : (modCmd s p q n f).watch = s.watch := rfl
@[simp] theorem modCmd_hostMem (p : Fin 4) (q : Fin 16) (n : Word) (f : Cmd → Cmd) : (modCmd s p q n f).hostMem = s.hostMem := rfl
@[simp] theorem modCmd_msix (p : Fin 4) (q : Fin 16) (n : Word) (f : Cmd → Cmd) : (modCmd s p q n f).msix = s.msix := rfl
@[simp] theorem modCmd_poison (p : Fin 4) (q : Fin 16) (n : Word) (f : Cmd → Cmd) : (modCmd s p q n f).poison = s.poison := rfl
@[simp] theorem modCmd_pageErrs (p : Fin 4) (q : Fin 16) (n : Word) (f : Cmd → Cmd) : (modCmd s p q n f).pageErrs = s.pageErrs := rfl
@[simp] theorem modCmd_pagesDue (p : Fin 4) (q : Fin 16) (n : Word) (f : Cmd → Cmd) : (modCmd s p q n f).pagesDue = s.pagesDue := rfl
@[simp] theorem modCmd_sluiceCvu (p : Fin 4) (q : Fin 16) (n : Word) (f : Cmd → Cmd) : (modCmd s p q n f).sluiceCvu = s.sluiceCvu := rfl
@[simp] theorem modCmd_sites (p : Fin 4) (q : Fin 16) (n : Word) (f : Cmd → Cmd) : (modCmd s p q n f).sites = s.sites := rfl
@[simp] theorem modCmd_ports (p : Fin 4) (q : Fin 16) (n : Word) (f : Cmd → Cmd) : (modCmd s p q n f).ports = s.ports := rfl
@[simp] theorem modCmd_counters (p : Fin 4) (q : Fin 16) (n : Word) (f : Cmd → Cmd) : (modCmd s p q n f).counters = s.counters := rfl
@[simp] theorem modCmd_chains (p : Fin 4) (q : Fin 16) (n : Word) (f : Cmd → Cmd) : (modCmd s p q n f).chains = s.chains := rfl
@[simp] theorem modCmd_power (p : Fin 4) (q : Fin 16) (n : Word) (f : Cmd → Cmd) : (modCmd s p q n f).power = s.power := rfl
@[simp] theorem modCmd_pending (p : Fin 4) (q : Fin 16) (n : Word) (f : Cmd → Cmd) : (modCmd s p q n f).pending = s.pending := rfl
@[simp] theorem func_modCmd (p : Fin 4) (q : Fin 16) (n : Word) (f : Cmd → Cmd) (x : Fin 5) : func (modCmd s p q n f) x = func s x := rfl
@[simp] theorem cluster_modCmd (p : Fin 4) (q : Fin 16) (n : Word) (f : Cmd → Cmd) (x : Fin 256) : cluster (modCmd s p q n f) x = cluster s x := rfl
@[simp] theorem ve_modCmd (p : Fin 4) (q : Fin 16) (n : Word) (f : Cmd → Cmd) (x : Fin 256) : ve (modCmd s p q n f) x = ve s x := rfl
@[simp] theorem port_modCmd (p : Fin 4) (q : Fin 16) (n : Word) (f : Cmd → Cmd) (x : Fin 6) : port (modCmd s p q n f) x = port s x := rfl
@[simp] theorem site_modCmd (p : Fin 4) (q : Fin 16) (n : Word) (f : Cmd → Cmd) (x : Fin 32) : site (modCmd s p q n f) x = site s x := rfl
@[simp] theorem chain_modCmd (p : Fin 4) (q : Fin 16) (n : Word) (f : Cmd → Cmd) (x : Fin 5) : chain (modCmd s p q n f) x = chain s x := rfl

/-! ## modFunc -/

@[simp] theorem modFunc_boot (i : Fin 5) (f : Func → Func) : (modFunc s i f).boot = s.boot := rfl
@[simp] theorem modFunc_perst (i : Fin 5) (f : Func → Func) : (modFunc s i f).perst = s.perst := rfl
@[simp] theorem modFunc_pwrbrk (i : Fin 5) (f : Func → Func) : (modFunc s i f).pwrbrk = s.pwrbrk := rfl
@[simp] theorem modFunc_thermtrip (i : Fin 5) (f : Func → Func) : (modFunc s i f).thermtrip = s.thermtrip := rfl
@[simp] theorem modFunc_modPwrgd (i : Fin 5) (f : Func → Func) : (modFunc s i f).modPwrgd = s.modPwrgd := rfl
@[simp] theorem modFunc_smbAlert (i : Fin 5) (f : Func → Func) : (modFunc s i f).smbAlert = s.smbAlert := rfl
@[simp] theorem modFunc_alert (i : Fin 5) (f : Func → Func) : (modFunc s i f).alert = s.alert := rfl
@[simp] theorem modFunc_lastReset (i : Fin 5) (f : Func → Func) : (modFunc s i f).lastReset = s.lastReset := rfl
@[simp] theorem modFunc_hostRate (i : Fin 5) (f : Func → Func) : (modFunc s i f).hostRate = s.hostRate := rfl
@[simp] theorem modFunc_hostWidth (i : Fin 5) (f : Func → Func) : (modFunc s i f).hostWidth = s.hostWidth := rfl
@[simp] theorem modFunc_bootFlags (i : Fin 5) (f : Func → Func) : (modFunc s i f).bootFlags = s.bootFlags := rfl
@[simp] theorem modFunc_slotGen (i : Fin 5) (f : Func → Func) : (modFunc s i f).slotGen = s.slotGen := rfl
@[simp] theorem modFunc_slotUsed (i : Fin 5) (f : Func → Func) : (modFunc s i f).slotUsed = s.slotUsed := rfl
@[simp] theorem modFunc_slotDue (i : Fin 5) (f : Func → Func) : (modFunc s i f).slotDue = s.slotDue := rfl
@[simp] theorem modFunc_selfTest (i : Fin 5) (f : Func → Func) : (modFunc s i f).selfTest = s.selfTest := rfl
@[simp] theorem modFunc_plan (i : Fin 5) (f : Func → Func) : (modFunc s i f).plan = s.plan := rfl
@[simp] theorem modFunc_releaseTime (i : Fin 5) (f : Func → Func) : (modFunc s i f).releaseTime = s.releaseTime := rfl
@[simp] theorem modFunc_localCount (i : Fin 5) (f : Func → Func) : (modFunc s i f).localCount = s.localCount := rfl
@[simp] theorem modFunc_correction (i : Fin 5) (f : Func → Func) : (modFunc s i f).correction = s.correction := rfl
@[simp] theorem modFunc_slew (i : Fin 5) (f : Func → Func) : (modFunc s i f).slew = s.slew := rfl
@[simp] theorem modFunc_bootNonce (i : Fin 5) (f : Func → Func) : (modFunc s i f).bootNonce = s.bootNonce := rfl
@[simp] theorem modFunc_draws (i : Fin 5) (f : Func → Func) : (modFunc s i f).draws = s.draws := rfl
@[simp] theorem modFunc_lastRead (i : Fin 5) (f : Func → Func) : (modFunc s i f).lastRead = s.lastRead := rfl
@[simp] theorem modFunc_fuses (i : Fin 5) (f : Func → Func) : (modFunc s i f).fuses = s.fuses := rfl
@[simp] theorem modFunc_flash (i : Fin 5) (f : Func → Func) : (modFunc s i f).flash = s.flash := rfl
@[simp] theorem modFunc_fw (i : Fin 5) (f : Func → Func) : (modFunc s i f).fw = s.fw := rfl
@[simp] theorem modFunc_fwVersion (i : Fin 5) (f : Func → Func) : (modFunc s i f).fwVersion = s.fwVersion := rfl
@[simp] theorem modFunc_fwSecurity (i : Fin 5) (f : Func → Func) : (modFunc s i f).fwSecurity = s.fwSecurity := rfl
@[simp] theorem modFunc_romDigest (i : Fin 5) (f : Func → Func) : (modFunc s i f).romDigest = s.romDigest := rfl
@[simp] theorem modFunc_fwDigest (i : Fin 5) (f : Func → Func) : (modFunc s i f).fwDigest = s.fwDigest := rfl
@[simp] theorem modFunc_cfgDigest (i : Fin 5) (f : Func → Func) : (modFunc s i f).cfgDigest = s.cfgDigest := rfl
@[simp] theorem modFunc_layout (i : Fin 5) (f : Func → Func) : (modFunc s i f).layout = s.layout := rfl
@[simp] theorem modFunc_numVfs (i : Fin 5) (f : Func → Func) : (modFunc s i f).numVfs = s.numVfs := rfl
@[simp] theorem modFunc_vfEnable (i : Fin 5) (f : Func → Func) : (modFunc s i f).vfEnable = s.vfEnable := rfl
@[simp] theorem modFunc_softRemaps (i : Fin 5) (f : Func → Func) : (modFunc s i f).softRemaps = s.softRemaps := rfl
@[simp] theorem modFunc_trims (i : Fin 5) (f : Func → Func) : (modFunc s i f).trims = s.trims := rfl
@[simp] theorem modFunc_history (i : Fin 5) (f : Func → Func) : (modFunc s i f).history = s.history := rfl
@[simp] theorem modFunc_failedDies (i : Fin 5) (f : Func → Func) : (modFunc s i f).failedDies = s.failedDies := rfl
@[simp] theorem modFunc_marginDies (i : Fin 5) (f : Func → Func) : (modFunc s i f).marginDies = s.marginDies := rfl
@[simp] theorem modFunc_clean (i : Fin 5) (f : Func → Func) : (modFunc s i f).clean = s.clean := rfl
@[simp] theorem modFunc_repairs (i : Fin 5) (f : Func → Func) : (modFunc s i f).repairs = s.repairs := rfl
@[simp] theorem modFunc_lastRepair (i : Fin 5) (f : Func → Func) : (modFunc s i f).lastRepair = s.lastRepair := rfl
@[simp] theorem modFunc_reports (i : Fin 5) (f : Func → Func) : (modFunc s i f).reports = s.reports := rfl
@[simp] theorem modFunc_corrected (i : Fin 5) (f : Func → Func) : (modFunc s i f).corrected = s.corrected := rfl
@[simp] theorem modFunc_dispatchCores (i : Fin 5) (f : Func → Func) : (modFunc s i f).dispatchCores = s.dispatchCores := rfl
@[simp] theorem modFunc_mgmtCores (i : Fin 5) (f : Func → Func) : (modFunc s i f).mgmtCores = s.mgmtCores := rfl
@[simp] theorem modFunc_coresLost (i : Fin 5) (f : Func → Func) : (modFunc s i f).coresLost = s.coresLost := rfl
@[simp] theorem modFunc_identity (i : Fin 5) (f : Func → Func) : (modFunc s i f).identity = s.identity := rfl
@[simp] theorem modFunc_meterKey (i : Fin 5) (f : Func → Func) : (modFunc s i f).meterKey = s.meterKey := rfl
@[simp] theorem modFunc_challenge (i : Fin 5) (f : Func → Func) : (modFunc s i f).challenge = s.challenge := rfl
@[simp] theorem modFunc_attestSeq (i : Fin 5) (f : Func → Func) : (modFunc s i f).attestSeq = s.attestSeq := rfl
@[simp] theorem modFunc_cvus (i : Fin 5) (f : Func → Func) : (modFunc s i f).cvus = s.cvus := rfl
@[simp] theorem modFunc_polders (i : Fin 5) (f : Func → Func) : (modFunc s i f).polders = s.polders := rfl
@[simp] theorem modFunc_clusters (i : Fin 5) (f : Func → Func) : (modFunc s i f).clusters = s.clusters := rfl
@[simp] theorem modFunc_mem (i : Fin 5) (f : Func → Func) : (modFunc s i f).mem = s.mem := rfl
@[simp] theorem modFunc_undef (i : Fin 5) (f : Func → Func) : (modFunc s i f).undef = s.undef := rfl
@[simp] theorem modFunc_watch (i : Fin 5) (f : Func → Func) : (modFunc s i f).watch = s.watch := rfl
@[simp] theorem modFunc_hostMem (i : Fin 5) (f : Func → Func) : (modFunc s i f).hostMem = s.hostMem := rfl
@[simp] theorem modFunc_msix (i : Fin 5) (f : Func → Func) : (modFunc s i f).msix = s.msix := rfl
@[simp] theorem modFunc_poison (i : Fin 5) (f : Func → Func) : (modFunc s i f).poison = s.poison := rfl
@[simp] theorem modFunc_pageErrs (i : Fin 5) (f : Func → Func) : (modFunc s i f).pageErrs = s.pageErrs := rfl
@[simp] theorem modFunc_pagesDue (i : Fin 5) (f : Func → Func) : (modFunc s i f).pagesDue = s.pagesDue := rfl
@[simp] theorem modFunc_sluiceCvu (i : Fin 5) (f : Func → Func) : (modFunc s i f).sluiceCvu = s.sluiceCvu := rfl
@[simp] theorem modFunc_sites (i : Fin 5) (f : Func → Func) : (modFunc s i f).sites = s.sites := rfl
@[simp] theorem modFunc_ports (i : Fin 5) (f : Func → Func) : (modFunc s i f).ports = s.ports := rfl
@[simp] theorem modFunc_counters (i : Fin 5) (f : Func → Func) : (modFunc s i f).counters = s.counters := rfl
@[simp] theorem modFunc_chains (i : Fin 5) (f : Func → Func) : (modFunc s i f).chains = s.chains := rfl
@[simp] theorem modFunc_power (i : Fin 5) (f : Func → Func) : (modFunc s i f).power = s.power := rfl
@[simp] theorem modFunc_pending (i : Fin 5) (f : Func → Func) : (modFunc s i f).pending = s.pending := rfl
@[simp] theorem polder_modFunc (i : Fin 5) (f : Func → Func) (x : Fin 4) : polder (modFunc s i f) x = polder s x := rfl
@[simp] theorem cluster_modFunc (i : Fin 5) (f : Func → Func) (x : Fin 256) : cluster (modFunc s i f) x = cluster s x := rfl
@[simp] theorem ve_modFunc (i : Fin 5) (f : Func → Func) (x : Fin 256) : ve (modFunc s i f) x = ve s x := rfl
@[simp] theorem port_modFunc (i : Fin 5) (f : Func → Func) (x : Fin 6) : port (modFunc s i f) x = port s x := rfl
@[simp] theorem site_modFunc (i : Fin 5) (f : Func → Func) (x : Fin 32) : site (modFunc s i f) x = site s x := rfl
@[simp] theorem chain_modFunc (i : Fin 5) (f : Func → Func) (x : Fin 5) : chain (modFunc s i f) x = chain s x := rfl
@[simp] theorem queue_modFunc (i : Fin 5) (f : Func → Func) (x : Fin 4) (y : Fin 16) : queue (modFunc s i f) x y = queue s x y := rfl
@[simp] theorem cmdAt_modFunc (i : Fin 5) (f : Func → Func) (x : Fin 4) (y : Fin 16) (z : Word) : cmdAt (modFunc s i f) x y z = cmdAt s x y z := rfl

/-! ## modCluster -/

@[simp] theorem modCluster_boot (c : Fin 256) (f : Cluster → Cluster) : (modCluster s c f).boot = s.boot := rfl
@[simp] theorem modCluster_perst (c : Fin 256) (f : Cluster → Cluster) : (modCluster s c f).perst = s.perst := rfl
@[simp] theorem modCluster_pwrbrk (c : Fin 256) (f : Cluster → Cluster) : (modCluster s c f).pwrbrk = s.pwrbrk := rfl
@[simp] theorem modCluster_thermtrip (c : Fin 256) (f : Cluster → Cluster) : (modCluster s c f).thermtrip = s.thermtrip := rfl
@[simp] theorem modCluster_modPwrgd (c : Fin 256) (f : Cluster → Cluster) : (modCluster s c f).modPwrgd = s.modPwrgd := rfl
@[simp] theorem modCluster_smbAlert (c : Fin 256) (f : Cluster → Cluster) : (modCluster s c f).smbAlert = s.smbAlert := rfl
@[simp] theorem modCluster_alert (c : Fin 256) (f : Cluster → Cluster) : (modCluster s c f).alert = s.alert := rfl
@[simp] theorem modCluster_lastReset (c : Fin 256) (f : Cluster → Cluster) : (modCluster s c f).lastReset = s.lastReset := rfl
@[simp] theorem modCluster_hostRate (c : Fin 256) (f : Cluster → Cluster) : (modCluster s c f).hostRate = s.hostRate := rfl
@[simp] theorem modCluster_hostWidth (c : Fin 256) (f : Cluster → Cluster) : (modCluster s c f).hostWidth = s.hostWidth := rfl
@[simp] theorem modCluster_bootFlags (c : Fin 256) (f : Cluster → Cluster) : (modCluster s c f).bootFlags = s.bootFlags := rfl
@[simp] theorem modCluster_slotGen (c : Fin 256) (f : Cluster → Cluster) : (modCluster s c f).slotGen = s.slotGen := rfl
@[simp] theorem modCluster_slotUsed (c : Fin 256) (f : Cluster → Cluster) : (modCluster s c f).slotUsed = s.slotUsed := rfl
@[simp] theorem modCluster_slotDue (c : Fin 256) (f : Cluster → Cluster) : (modCluster s c f).slotDue = s.slotDue := rfl
@[simp] theorem modCluster_selfTest (c : Fin 256) (f : Cluster → Cluster) : (modCluster s c f).selfTest = s.selfTest := rfl
@[simp] theorem modCluster_plan (c : Fin 256) (f : Cluster → Cluster) : (modCluster s c f).plan = s.plan := rfl
@[simp] theorem modCluster_releaseTime (c : Fin 256) (f : Cluster → Cluster) : (modCluster s c f).releaseTime = s.releaseTime := rfl
@[simp] theorem modCluster_localCount (c : Fin 256) (f : Cluster → Cluster) : (modCluster s c f).localCount = s.localCount := rfl
@[simp] theorem modCluster_correction (c : Fin 256) (f : Cluster → Cluster) : (modCluster s c f).correction = s.correction := rfl
@[simp] theorem modCluster_slew (c : Fin 256) (f : Cluster → Cluster) : (modCluster s c f).slew = s.slew := rfl
@[simp] theorem modCluster_bootNonce (c : Fin 256) (f : Cluster → Cluster) : (modCluster s c f).bootNonce = s.bootNonce := rfl
@[simp] theorem modCluster_draws (c : Fin 256) (f : Cluster → Cluster) : (modCluster s c f).draws = s.draws := rfl
@[simp] theorem modCluster_lastRead (c : Fin 256) (f : Cluster → Cluster) : (modCluster s c f).lastRead = s.lastRead := rfl
@[simp] theorem modCluster_fuses (c : Fin 256) (f : Cluster → Cluster) : (modCluster s c f).fuses = s.fuses := rfl
@[simp] theorem modCluster_flash (c : Fin 256) (f : Cluster → Cluster) : (modCluster s c f).flash = s.flash := rfl
@[simp] theorem modCluster_fw (c : Fin 256) (f : Cluster → Cluster) : (modCluster s c f).fw = s.fw := rfl
@[simp] theorem modCluster_fwVersion (c : Fin 256) (f : Cluster → Cluster) : (modCluster s c f).fwVersion = s.fwVersion := rfl
@[simp] theorem modCluster_fwSecurity (c : Fin 256) (f : Cluster → Cluster) : (modCluster s c f).fwSecurity = s.fwSecurity := rfl
@[simp] theorem modCluster_romDigest (c : Fin 256) (f : Cluster → Cluster) : (modCluster s c f).romDigest = s.romDigest := rfl
@[simp] theorem modCluster_fwDigest (c : Fin 256) (f : Cluster → Cluster) : (modCluster s c f).fwDigest = s.fwDigest := rfl
@[simp] theorem modCluster_cfgDigest (c : Fin 256) (f : Cluster → Cluster) : (modCluster s c f).cfgDigest = s.cfgDigest := rfl
@[simp] theorem modCluster_layout (c : Fin 256) (f : Cluster → Cluster) : (modCluster s c f).layout = s.layout := rfl
@[simp] theorem modCluster_numVfs (c : Fin 256) (f : Cluster → Cluster) : (modCluster s c f).numVfs = s.numVfs := rfl
@[simp] theorem modCluster_vfEnable (c : Fin 256) (f : Cluster → Cluster) : (modCluster s c f).vfEnable = s.vfEnable := rfl
@[simp] theorem modCluster_softRemaps (c : Fin 256) (f : Cluster → Cluster) : (modCluster s c f).softRemaps = s.softRemaps := rfl
@[simp] theorem modCluster_trims (c : Fin 256) (f : Cluster → Cluster) : (modCluster s c f).trims = s.trims := rfl
@[simp] theorem modCluster_history (c : Fin 256) (f : Cluster → Cluster) : (modCluster s c f).history = s.history := rfl
@[simp] theorem modCluster_failedDies (c : Fin 256) (f : Cluster → Cluster) : (modCluster s c f).failedDies = s.failedDies := rfl
@[simp] theorem modCluster_marginDies (c : Fin 256) (f : Cluster → Cluster) : (modCluster s c f).marginDies = s.marginDies := rfl
@[simp] theorem modCluster_clean (c : Fin 256) (f : Cluster → Cluster) : (modCluster s c f).clean = s.clean := rfl
@[simp] theorem modCluster_repairs (c : Fin 256) (f : Cluster → Cluster) : (modCluster s c f).repairs = s.repairs := rfl
@[simp] theorem modCluster_lastRepair (c : Fin 256) (f : Cluster → Cluster) : (modCluster s c f).lastRepair = s.lastRepair := rfl
@[simp] theorem modCluster_reports (c : Fin 256) (f : Cluster → Cluster) : (modCluster s c f).reports = s.reports := rfl
@[simp] theorem modCluster_corrected (c : Fin 256) (f : Cluster → Cluster) : (modCluster s c f).corrected = s.corrected := rfl
@[simp] theorem modCluster_dispatchCores (c : Fin 256) (f : Cluster → Cluster) : (modCluster s c f).dispatchCores = s.dispatchCores := rfl
@[simp] theorem modCluster_mgmtCores (c : Fin 256) (f : Cluster → Cluster) : (modCluster s c f).mgmtCores = s.mgmtCores := rfl
@[simp] theorem modCluster_coresLost (c : Fin 256) (f : Cluster → Cluster) : (modCluster s c f).coresLost = s.coresLost := rfl
@[simp] theorem modCluster_identity (c : Fin 256) (f : Cluster → Cluster) : (modCluster s c f).identity = s.identity := rfl
@[simp] theorem modCluster_meterKey (c : Fin 256) (f : Cluster → Cluster) : (modCluster s c f).meterKey = s.meterKey := rfl
@[simp] theorem modCluster_challenge (c : Fin 256) (f : Cluster → Cluster) : (modCluster s c f).challenge = s.challenge := rfl
@[simp] theorem modCluster_attestSeq (c : Fin 256) (f : Cluster → Cluster) : (modCluster s c f).attestSeq = s.attestSeq := rfl
@[simp] theorem modCluster_funcs (c : Fin 256) (f : Cluster → Cluster) : (modCluster s c f).funcs = s.funcs := rfl
@[simp] theorem modCluster_cvus (c : Fin 256) (f : Cluster → Cluster) : (modCluster s c f).cvus = s.cvus := rfl
@[simp] theorem modCluster_polders (c : Fin 256) (f : Cluster → Cluster) : (modCluster s c f).polders = s.polders := rfl
@[simp] theorem modCluster_mem (c : Fin 256) (f : Cluster → Cluster) : (modCluster s c f).mem = s.mem := rfl
@[simp] theorem modCluster_undef (c : Fin 256) (f : Cluster → Cluster) : (modCluster s c f).undef = s.undef := rfl
@[simp] theorem modCluster_watch (c : Fin 256) (f : Cluster → Cluster) : (modCluster s c f).watch = s.watch := rfl
@[simp] theorem modCluster_hostMem (c : Fin 256) (f : Cluster → Cluster) : (modCluster s c f).hostMem = s.hostMem := rfl
@[simp] theorem modCluster_msix (c : Fin 256) (f : Cluster → Cluster) : (modCluster s c f).msix = s.msix := rfl
@[simp] theorem modCluster_poison (c : Fin 256) (f : Cluster → Cluster) : (modCluster s c f).poison = s.poison := rfl
@[simp] theorem modCluster_pageErrs (c : Fin 256) (f : Cluster → Cluster) : (modCluster s c f).pageErrs = s.pageErrs := rfl
@[simp] theorem modCluster_pagesDue (c : Fin 256) (f : Cluster → Cluster) : (modCluster s c f).pagesDue = s.pagesDue := rfl
@[simp] theorem modCluster_sluiceCvu (c : Fin 256) (f : Cluster → Cluster) : (modCluster s c f).sluiceCvu = s.sluiceCvu := rfl
@[simp] theorem modCluster_sites (c : Fin 256) (f : Cluster → Cluster) : (modCluster s c f).sites = s.sites := rfl
@[simp] theorem modCluster_ports (c : Fin 256) (f : Cluster → Cluster) : (modCluster s c f).ports = s.ports := rfl
@[simp] theorem modCluster_counters (c : Fin 256) (f : Cluster → Cluster) : (modCluster s c f).counters = s.counters := rfl
@[simp] theorem modCluster_chains (c : Fin 256) (f : Cluster → Cluster) : (modCluster s c f).chains = s.chains := rfl
@[simp] theorem modCluster_power (c : Fin 256) (f : Cluster → Cluster) : (modCluster s c f).power = s.power := rfl
@[simp] theorem modCluster_pending (c : Fin 256) (f : Cluster → Cluster) : (modCluster s c f).pending = s.pending := rfl
@[simp] theorem polder_modCluster (c : Fin 256) (f : Cluster → Cluster) (x : Fin 4) : polder (modCluster s c f) x = polder s x := rfl
@[simp] theorem func_modCluster (c : Fin 256) (f : Cluster → Cluster) (x : Fin 5) : func (modCluster s c f) x = func s x := rfl
@[simp] theorem port_modCluster (c : Fin 256) (f : Cluster → Cluster) (x : Fin 6) : port (modCluster s c f) x = port s x := rfl
@[simp] theorem site_modCluster (c : Fin 256) (f : Cluster → Cluster) (x : Fin 32) : site (modCluster s c f) x = site s x := rfl
@[simp] theorem chain_modCluster (c : Fin 256) (f : Cluster → Cluster) (x : Fin 5) : chain (modCluster s c f) x = chain s x := rfl
@[simp] theorem queue_modCluster (c : Fin 256) (f : Cluster → Cluster) (x : Fin 4) (y : Fin 16) : queue (modCluster s c f) x y = queue s x y := rfl
@[simp] theorem cmdAt_modCluster (c : Fin 256) (f : Cluster → Cluster) (x : Fin 4) (y : Fin 16) (z : Word) : cmdAt (modCluster s c f) x y z = cmdAt s x y z := rfl

/-! ## modVe -/

@[simp] theorem modVe_boot (c : Fin 256) (f : Ve → Ve) : (modVe s c f).boot = s.boot := rfl
@[simp] theorem modVe_perst (c : Fin 256) (f : Ve → Ve) : (modVe s c f).perst = s.perst := rfl
@[simp] theorem modVe_pwrbrk (c : Fin 256) (f : Ve → Ve) : (modVe s c f).pwrbrk = s.pwrbrk := rfl
@[simp] theorem modVe_thermtrip (c : Fin 256) (f : Ve → Ve) : (modVe s c f).thermtrip = s.thermtrip := rfl
@[simp] theorem modVe_modPwrgd (c : Fin 256) (f : Ve → Ve) : (modVe s c f).modPwrgd = s.modPwrgd := rfl
@[simp] theorem modVe_smbAlert (c : Fin 256) (f : Ve → Ve) : (modVe s c f).smbAlert = s.smbAlert := rfl
@[simp] theorem modVe_alert (c : Fin 256) (f : Ve → Ve) : (modVe s c f).alert = s.alert := rfl
@[simp] theorem modVe_lastReset (c : Fin 256) (f : Ve → Ve) : (modVe s c f).lastReset = s.lastReset := rfl
@[simp] theorem modVe_hostRate (c : Fin 256) (f : Ve → Ve) : (modVe s c f).hostRate = s.hostRate := rfl
@[simp] theorem modVe_hostWidth (c : Fin 256) (f : Ve → Ve) : (modVe s c f).hostWidth = s.hostWidth := rfl
@[simp] theorem modVe_bootFlags (c : Fin 256) (f : Ve → Ve) : (modVe s c f).bootFlags = s.bootFlags := rfl
@[simp] theorem modVe_slotGen (c : Fin 256) (f : Ve → Ve) : (modVe s c f).slotGen = s.slotGen := rfl
@[simp] theorem modVe_slotUsed (c : Fin 256) (f : Ve → Ve) : (modVe s c f).slotUsed = s.slotUsed := rfl
@[simp] theorem modVe_slotDue (c : Fin 256) (f : Ve → Ve) : (modVe s c f).slotDue = s.slotDue := rfl
@[simp] theorem modVe_selfTest (c : Fin 256) (f : Ve → Ve) : (modVe s c f).selfTest = s.selfTest := rfl
@[simp] theorem modVe_plan (c : Fin 256) (f : Ve → Ve) : (modVe s c f).plan = s.plan := rfl
@[simp] theorem modVe_releaseTime (c : Fin 256) (f : Ve → Ve) : (modVe s c f).releaseTime = s.releaseTime := rfl
@[simp] theorem modVe_localCount (c : Fin 256) (f : Ve → Ve) : (modVe s c f).localCount = s.localCount := rfl
@[simp] theorem modVe_correction (c : Fin 256) (f : Ve → Ve) : (modVe s c f).correction = s.correction := rfl
@[simp] theorem modVe_slew (c : Fin 256) (f : Ve → Ve) : (modVe s c f).slew = s.slew := rfl
@[simp] theorem modVe_bootNonce (c : Fin 256) (f : Ve → Ve) : (modVe s c f).bootNonce = s.bootNonce := rfl
@[simp] theorem modVe_draws (c : Fin 256) (f : Ve → Ve) : (modVe s c f).draws = s.draws := rfl
@[simp] theorem modVe_lastRead (c : Fin 256) (f : Ve → Ve) : (modVe s c f).lastRead = s.lastRead := rfl
@[simp] theorem modVe_fuses (c : Fin 256) (f : Ve → Ve) : (modVe s c f).fuses = s.fuses := rfl
@[simp] theorem modVe_flash (c : Fin 256) (f : Ve → Ve) : (modVe s c f).flash = s.flash := rfl
@[simp] theorem modVe_fw (c : Fin 256) (f : Ve → Ve) : (modVe s c f).fw = s.fw := rfl
@[simp] theorem modVe_fwVersion (c : Fin 256) (f : Ve → Ve) : (modVe s c f).fwVersion = s.fwVersion := rfl
@[simp] theorem modVe_fwSecurity (c : Fin 256) (f : Ve → Ve) : (modVe s c f).fwSecurity = s.fwSecurity := rfl
@[simp] theorem modVe_romDigest (c : Fin 256) (f : Ve → Ve) : (modVe s c f).romDigest = s.romDigest := rfl
@[simp] theorem modVe_fwDigest (c : Fin 256) (f : Ve → Ve) : (modVe s c f).fwDigest = s.fwDigest := rfl
@[simp] theorem modVe_cfgDigest (c : Fin 256) (f : Ve → Ve) : (modVe s c f).cfgDigest = s.cfgDigest := rfl
@[simp] theorem modVe_layout (c : Fin 256) (f : Ve → Ve) : (modVe s c f).layout = s.layout := rfl
@[simp] theorem modVe_numVfs (c : Fin 256) (f : Ve → Ve) : (modVe s c f).numVfs = s.numVfs := rfl
@[simp] theorem modVe_vfEnable (c : Fin 256) (f : Ve → Ve) : (modVe s c f).vfEnable = s.vfEnable := rfl
@[simp] theorem modVe_softRemaps (c : Fin 256) (f : Ve → Ve) : (modVe s c f).softRemaps = s.softRemaps := rfl
@[simp] theorem modVe_trims (c : Fin 256) (f : Ve → Ve) : (modVe s c f).trims = s.trims := rfl
@[simp] theorem modVe_history (c : Fin 256) (f : Ve → Ve) : (modVe s c f).history = s.history := rfl
@[simp] theorem modVe_failedDies (c : Fin 256) (f : Ve → Ve) : (modVe s c f).failedDies = s.failedDies := rfl
@[simp] theorem modVe_marginDies (c : Fin 256) (f : Ve → Ve) : (modVe s c f).marginDies = s.marginDies := rfl
@[simp] theorem modVe_clean (c : Fin 256) (f : Ve → Ve) : (modVe s c f).clean = s.clean := rfl
@[simp] theorem modVe_repairs (c : Fin 256) (f : Ve → Ve) : (modVe s c f).repairs = s.repairs := rfl
@[simp] theorem modVe_lastRepair (c : Fin 256) (f : Ve → Ve) : (modVe s c f).lastRepair = s.lastRepair := rfl
@[simp] theorem modVe_reports (c : Fin 256) (f : Ve → Ve) : (modVe s c f).reports = s.reports := rfl
@[simp] theorem modVe_corrected (c : Fin 256) (f : Ve → Ve) : (modVe s c f).corrected = s.corrected := rfl
@[simp] theorem modVe_dispatchCores (c : Fin 256) (f : Ve → Ve) : (modVe s c f).dispatchCores = s.dispatchCores := rfl
@[simp] theorem modVe_mgmtCores (c : Fin 256) (f : Ve → Ve) : (modVe s c f).mgmtCores = s.mgmtCores := rfl
@[simp] theorem modVe_coresLost (c : Fin 256) (f : Ve → Ve) : (modVe s c f).coresLost = s.coresLost := rfl
@[simp] theorem modVe_identity (c : Fin 256) (f : Ve → Ve) : (modVe s c f).identity = s.identity := rfl
@[simp] theorem modVe_meterKey (c : Fin 256) (f : Ve → Ve) : (modVe s c f).meterKey = s.meterKey := rfl
@[simp] theorem modVe_challenge (c : Fin 256) (f : Ve → Ve) : (modVe s c f).challenge = s.challenge := rfl
@[simp] theorem modVe_attestSeq (c : Fin 256) (f : Ve → Ve) : (modVe s c f).attestSeq = s.attestSeq := rfl
@[simp] theorem modVe_funcs (c : Fin 256) (f : Ve → Ve) : (modVe s c f).funcs = s.funcs := rfl
@[simp] theorem modVe_cvus (c : Fin 256) (f : Ve → Ve) : (modVe s c f).cvus = s.cvus := rfl
@[simp] theorem modVe_polders (c : Fin 256) (f : Ve → Ve) : (modVe s c f).polders = s.polders := rfl
@[simp] theorem modVe_mem (c : Fin 256) (f : Ve → Ve) : (modVe s c f).mem = s.mem := rfl
@[simp] theorem modVe_undef (c : Fin 256) (f : Ve → Ve) : (modVe s c f).undef = s.undef := rfl
@[simp] theorem modVe_watch (c : Fin 256) (f : Ve → Ve) : (modVe s c f).watch = s.watch := rfl
@[simp] theorem modVe_hostMem (c : Fin 256) (f : Ve → Ve) : (modVe s c f).hostMem = s.hostMem := rfl
@[simp] theorem modVe_msix (c : Fin 256) (f : Ve → Ve) : (modVe s c f).msix = s.msix := rfl
@[simp] theorem modVe_poison (c : Fin 256) (f : Ve → Ve) : (modVe s c f).poison = s.poison := rfl
@[simp] theorem modVe_pageErrs (c : Fin 256) (f : Ve → Ve) : (modVe s c f).pageErrs = s.pageErrs := rfl
@[simp] theorem modVe_pagesDue (c : Fin 256) (f : Ve → Ve) : (modVe s c f).pagesDue = s.pagesDue := rfl
@[simp] theorem modVe_sluiceCvu (c : Fin 256) (f : Ve → Ve) : (modVe s c f).sluiceCvu = s.sluiceCvu := rfl
@[simp] theorem modVe_sites (c : Fin 256) (f : Ve → Ve) : (modVe s c f).sites = s.sites := rfl
@[simp] theorem modVe_ports (c : Fin 256) (f : Ve → Ve) : (modVe s c f).ports = s.ports := rfl
@[simp] theorem modVe_counters (c : Fin 256) (f : Ve → Ve) : (modVe s c f).counters = s.counters := rfl
@[simp] theorem modVe_chains (c : Fin 256) (f : Ve → Ve) : (modVe s c f).chains = s.chains := rfl
@[simp] theorem modVe_power (c : Fin 256) (f : Ve → Ve) : (modVe s c f).power = s.power := rfl
@[simp] theorem modVe_pending (c : Fin 256) (f : Ve → Ve) : (modVe s c f).pending = s.pending := rfl
@[simp] theorem polder_modVe (c : Fin 256) (f : Ve → Ve) (x : Fin 4) : polder (modVe s c f) x = polder s x := rfl
@[simp] theorem func_modVe (c : Fin 256) (f : Ve → Ve) (x : Fin 5) : func (modVe s c f) x = func s x := rfl
@[simp] theorem port_modVe (c : Fin 256) (f : Ve → Ve) (x : Fin 6) : port (modVe s c f) x = port s x := rfl
@[simp] theorem site_modVe (c : Fin 256) (f : Ve → Ve) (x : Fin 32) : site (modVe s c f) x = site s x := rfl
@[simp] theorem chain_modVe (c : Fin 256) (f : Ve → Ve) (x : Fin 5) : chain (modVe s c f) x = chain s x := rfl
@[simp] theorem queue_modVe (c : Fin 256) (f : Ve → Ve) (x : Fin 4) (y : Fin 16) : queue (modVe s c f) x y = queue s x y := rfl
@[simp] theorem cmdAt_modVe (c : Fin 256) (f : Ve → Ve) (x : Fin 4) (y : Fin 16) (z : Word) : cmdAt (modVe s c f) x y z = cmdAt s x y z := rfl

/-! ## modPort -/

@[simp] theorem modPort_boot (j : Fin 6) (f : Port → Port) : (modPort s j f).boot = s.boot := rfl
@[simp] theorem modPort_perst (j : Fin 6) (f : Port → Port) : (modPort s j f).perst = s.perst := rfl
@[simp] theorem modPort_pwrbrk (j : Fin 6) (f : Port → Port) : (modPort s j f).pwrbrk = s.pwrbrk := rfl
@[simp] theorem modPort_thermtrip (j : Fin 6) (f : Port → Port) : (modPort s j f).thermtrip = s.thermtrip := rfl
@[simp] theorem modPort_modPwrgd (j : Fin 6) (f : Port → Port) : (modPort s j f).modPwrgd = s.modPwrgd := rfl
@[simp] theorem modPort_smbAlert (j : Fin 6) (f : Port → Port) : (modPort s j f).smbAlert = s.smbAlert := rfl
@[simp] theorem modPort_alert (j : Fin 6) (f : Port → Port) : (modPort s j f).alert = s.alert := rfl
@[simp] theorem modPort_lastReset (j : Fin 6) (f : Port → Port) : (modPort s j f).lastReset = s.lastReset := rfl
@[simp] theorem modPort_hostRate (j : Fin 6) (f : Port → Port) : (modPort s j f).hostRate = s.hostRate := rfl
@[simp] theorem modPort_hostWidth (j : Fin 6) (f : Port → Port) : (modPort s j f).hostWidth = s.hostWidth := rfl
@[simp] theorem modPort_bootFlags (j : Fin 6) (f : Port → Port) : (modPort s j f).bootFlags = s.bootFlags := rfl
@[simp] theorem modPort_slotGen (j : Fin 6) (f : Port → Port) : (modPort s j f).slotGen = s.slotGen := rfl
@[simp] theorem modPort_slotUsed (j : Fin 6) (f : Port → Port) : (modPort s j f).slotUsed = s.slotUsed := rfl
@[simp] theorem modPort_slotDue (j : Fin 6) (f : Port → Port) : (modPort s j f).slotDue = s.slotDue := rfl
@[simp] theorem modPort_selfTest (j : Fin 6) (f : Port → Port) : (modPort s j f).selfTest = s.selfTest := rfl
@[simp] theorem modPort_plan (j : Fin 6) (f : Port → Port) : (modPort s j f).plan = s.plan := rfl
@[simp] theorem modPort_releaseTime (j : Fin 6) (f : Port → Port) : (modPort s j f).releaseTime = s.releaseTime := rfl
@[simp] theorem modPort_localCount (j : Fin 6) (f : Port → Port) : (modPort s j f).localCount = s.localCount := rfl
@[simp] theorem modPort_correction (j : Fin 6) (f : Port → Port) : (modPort s j f).correction = s.correction := rfl
@[simp] theorem modPort_slew (j : Fin 6) (f : Port → Port) : (modPort s j f).slew = s.slew := rfl
@[simp] theorem modPort_bootNonce (j : Fin 6) (f : Port → Port) : (modPort s j f).bootNonce = s.bootNonce := rfl
@[simp] theorem modPort_draws (j : Fin 6) (f : Port → Port) : (modPort s j f).draws = s.draws := rfl
@[simp] theorem modPort_lastRead (j : Fin 6) (f : Port → Port) : (modPort s j f).lastRead = s.lastRead := rfl
@[simp] theorem modPort_fuses (j : Fin 6) (f : Port → Port) : (modPort s j f).fuses = s.fuses := rfl
@[simp] theorem modPort_flash (j : Fin 6) (f : Port → Port) : (modPort s j f).flash = s.flash := rfl
@[simp] theorem modPort_fw (j : Fin 6) (f : Port → Port) : (modPort s j f).fw = s.fw := rfl
@[simp] theorem modPort_fwVersion (j : Fin 6) (f : Port → Port) : (modPort s j f).fwVersion = s.fwVersion := rfl
@[simp] theorem modPort_fwSecurity (j : Fin 6) (f : Port → Port) : (modPort s j f).fwSecurity = s.fwSecurity := rfl
@[simp] theorem modPort_romDigest (j : Fin 6) (f : Port → Port) : (modPort s j f).romDigest = s.romDigest := rfl
@[simp] theorem modPort_fwDigest (j : Fin 6) (f : Port → Port) : (modPort s j f).fwDigest = s.fwDigest := rfl
@[simp] theorem modPort_cfgDigest (j : Fin 6) (f : Port → Port) : (modPort s j f).cfgDigest = s.cfgDigest := rfl
@[simp] theorem modPort_layout (j : Fin 6) (f : Port → Port) : (modPort s j f).layout = s.layout := rfl
@[simp] theorem modPort_numVfs (j : Fin 6) (f : Port → Port) : (modPort s j f).numVfs = s.numVfs := rfl
@[simp] theorem modPort_vfEnable (j : Fin 6) (f : Port → Port) : (modPort s j f).vfEnable = s.vfEnable := rfl
@[simp] theorem modPort_softRemaps (j : Fin 6) (f : Port → Port) : (modPort s j f).softRemaps = s.softRemaps := rfl
@[simp] theorem modPort_trims (j : Fin 6) (f : Port → Port) : (modPort s j f).trims = s.trims := rfl
@[simp] theorem modPort_history (j : Fin 6) (f : Port → Port) : (modPort s j f).history = s.history := rfl
@[simp] theorem modPort_failedDies (j : Fin 6) (f : Port → Port) : (modPort s j f).failedDies = s.failedDies := rfl
@[simp] theorem modPort_marginDies (j : Fin 6) (f : Port → Port) : (modPort s j f).marginDies = s.marginDies := rfl
@[simp] theorem modPort_clean (j : Fin 6) (f : Port → Port) : (modPort s j f).clean = s.clean := rfl
@[simp] theorem modPort_repairs (j : Fin 6) (f : Port → Port) : (modPort s j f).repairs = s.repairs := rfl
@[simp] theorem modPort_lastRepair (j : Fin 6) (f : Port → Port) : (modPort s j f).lastRepair = s.lastRepair := rfl
@[simp] theorem modPort_reports (j : Fin 6) (f : Port → Port) : (modPort s j f).reports = s.reports := rfl
@[simp] theorem modPort_corrected (j : Fin 6) (f : Port → Port) : (modPort s j f).corrected = s.corrected := rfl
@[simp] theorem modPort_dispatchCores (j : Fin 6) (f : Port → Port) : (modPort s j f).dispatchCores = s.dispatchCores := rfl
@[simp] theorem modPort_mgmtCores (j : Fin 6) (f : Port → Port) : (modPort s j f).mgmtCores = s.mgmtCores := rfl
@[simp] theorem modPort_coresLost (j : Fin 6) (f : Port → Port) : (modPort s j f).coresLost = s.coresLost := rfl
@[simp] theorem modPort_identity (j : Fin 6) (f : Port → Port) : (modPort s j f).identity = s.identity := rfl
@[simp] theorem modPort_meterKey (j : Fin 6) (f : Port → Port) : (modPort s j f).meterKey = s.meterKey := rfl
@[simp] theorem modPort_challenge (j : Fin 6) (f : Port → Port) : (modPort s j f).challenge = s.challenge := rfl
@[simp] theorem modPort_attestSeq (j : Fin 6) (f : Port → Port) : (modPort s j f).attestSeq = s.attestSeq := rfl
@[simp] theorem modPort_funcs (j : Fin 6) (f : Port → Port) : (modPort s j f).funcs = s.funcs := rfl
@[simp] theorem modPort_cvus (j : Fin 6) (f : Port → Port) : (modPort s j f).cvus = s.cvus := rfl
@[simp] theorem modPort_polders (j : Fin 6) (f : Port → Port) : (modPort s j f).polders = s.polders := rfl
@[simp] theorem modPort_clusters (j : Fin 6) (f : Port → Port) : (modPort s j f).clusters = s.clusters := rfl
@[simp] theorem modPort_mem (j : Fin 6) (f : Port → Port) : (modPort s j f).mem = s.mem := rfl
@[simp] theorem modPort_undef (j : Fin 6) (f : Port → Port) : (modPort s j f).undef = s.undef := rfl
@[simp] theorem modPort_watch (j : Fin 6) (f : Port → Port) : (modPort s j f).watch = s.watch := rfl
@[simp] theorem modPort_hostMem (j : Fin 6) (f : Port → Port) : (modPort s j f).hostMem = s.hostMem := rfl
@[simp] theorem modPort_msix (j : Fin 6) (f : Port → Port) : (modPort s j f).msix = s.msix := rfl
@[simp] theorem modPort_poison (j : Fin 6) (f : Port → Port) : (modPort s j f).poison = s.poison := rfl
@[simp] theorem modPort_pageErrs (j : Fin 6) (f : Port → Port) : (modPort s j f).pageErrs = s.pageErrs := rfl
@[simp] theorem modPort_pagesDue (j : Fin 6) (f : Port → Port) : (modPort s j f).pagesDue = s.pagesDue := rfl
@[simp] theorem modPort_sluiceCvu (j : Fin 6) (f : Port → Port) : (modPort s j f).sluiceCvu = s.sluiceCvu := rfl
@[simp] theorem modPort_sites (j : Fin 6) (f : Port → Port) : (modPort s j f).sites = s.sites := rfl
@[simp] theorem modPort_counters (j : Fin 6) (f : Port → Port) : (modPort s j f).counters = s.counters := rfl
@[simp] theorem modPort_chains (j : Fin 6) (f : Port → Port) : (modPort s j f).chains = s.chains := rfl
@[simp] theorem modPort_power (j : Fin 6) (f : Port → Port) : (modPort s j f).power = s.power := rfl
@[simp] theorem modPort_pending (j : Fin 6) (f : Port → Port) : (modPort s j f).pending = s.pending := rfl
@[simp] theorem polder_modPort (j : Fin 6) (f : Port → Port) (x : Fin 4) : polder (modPort s j f) x = polder s x := rfl
@[simp] theorem func_modPort (j : Fin 6) (f : Port → Port) (x : Fin 5) : func (modPort s j f) x = func s x := rfl
@[simp] theorem cluster_modPort (j : Fin 6) (f : Port → Port) (x : Fin 256) : cluster (modPort s j f) x = cluster s x := rfl
@[simp] theorem ve_modPort (j : Fin 6) (f : Port → Port) (x : Fin 256) : ve (modPort s j f) x = ve s x := rfl
@[simp] theorem site_modPort (j : Fin 6) (f : Port → Port) (x : Fin 32) : site (modPort s j f) x = site s x := rfl
@[simp] theorem chain_modPort (j : Fin 6) (f : Port → Port) (x : Fin 5) : chain (modPort s j f) x = chain s x := rfl
@[simp] theorem queue_modPort (j : Fin 6) (f : Port → Port) (x : Fin 4) (y : Fin 16) : queue (modPort s j f) x y = queue s x y := rfl
@[simp] theorem cmdAt_modPort (j : Fin 6) (f : Port → Port) (x : Fin 4) (y : Fin 16) (z : Word) : cmdAt (modPort s j f) x y z = cmdAt s x y z := rfl

/-! ## modSite -/

@[simp] theorem modSite_boot (m : Fin 32) (f : Site → Site) : (modSite s m f).boot = s.boot := rfl
@[simp] theorem modSite_perst (m : Fin 32) (f : Site → Site) : (modSite s m f).perst = s.perst := rfl
@[simp] theorem modSite_pwrbrk (m : Fin 32) (f : Site → Site) : (modSite s m f).pwrbrk = s.pwrbrk := rfl
@[simp] theorem modSite_thermtrip (m : Fin 32) (f : Site → Site) : (modSite s m f).thermtrip = s.thermtrip := rfl
@[simp] theorem modSite_modPwrgd (m : Fin 32) (f : Site → Site) : (modSite s m f).modPwrgd = s.modPwrgd := rfl
@[simp] theorem modSite_smbAlert (m : Fin 32) (f : Site → Site) : (modSite s m f).smbAlert = s.smbAlert := rfl
@[simp] theorem modSite_alert (m : Fin 32) (f : Site → Site) : (modSite s m f).alert = s.alert := rfl
@[simp] theorem modSite_lastReset (m : Fin 32) (f : Site → Site) : (modSite s m f).lastReset = s.lastReset := rfl
@[simp] theorem modSite_hostRate (m : Fin 32) (f : Site → Site) : (modSite s m f).hostRate = s.hostRate := rfl
@[simp] theorem modSite_hostWidth (m : Fin 32) (f : Site → Site) : (modSite s m f).hostWidth = s.hostWidth := rfl
@[simp] theorem modSite_bootFlags (m : Fin 32) (f : Site → Site) : (modSite s m f).bootFlags = s.bootFlags := rfl
@[simp] theorem modSite_slotGen (m : Fin 32) (f : Site → Site) : (modSite s m f).slotGen = s.slotGen := rfl
@[simp] theorem modSite_slotUsed (m : Fin 32) (f : Site → Site) : (modSite s m f).slotUsed = s.slotUsed := rfl
@[simp] theorem modSite_slotDue (m : Fin 32) (f : Site → Site) : (modSite s m f).slotDue = s.slotDue := rfl
@[simp] theorem modSite_selfTest (m : Fin 32) (f : Site → Site) : (modSite s m f).selfTest = s.selfTest := rfl
@[simp] theorem modSite_plan (m : Fin 32) (f : Site → Site) : (modSite s m f).plan = s.plan := rfl
@[simp] theorem modSite_releaseTime (m : Fin 32) (f : Site → Site) : (modSite s m f).releaseTime = s.releaseTime := rfl
@[simp] theorem modSite_localCount (m : Fin 32) (f : Site → Site) : (modSite s m f).localCount = s.localCount := rfl
@[simp] theorem modSite_correction (m : Fin 32) (f : Site → Site) : (modSite s m f).correction = s.correction := rfl
@[simp] theorem modSite_slew (m : Fin 32) (f : Site → Site) : (modSite s m f).slew = s.slew := rfl
@[simp] theorem modSite_bootNonce (m : Fin 32) (f : Site → Site) : (modSite s m f).bootNonce = s.bootNonce := rfl
@[simp] theorem modSite_draws (m : Fin 32) (f : Site → Site) : (modSite s m f).draws = s.draws := rfl
@[simp] theorem modSite_lastRead (m : Fin 32) (f : Site → Site) : (modSite s m f).lastRead = s.lastRead := rfl
@[simp] theorem modSite_fuses (m : Fin 32) (f : Site → Site) : (modSite s m f).fuses = s.fuses := rfl
@[simp] theorem modSite_flash (m : Fin 32) (f : Site → Site) : (modSite s m f).flash = s.flash := rfl
@[simp] theorem modSite_fw (m : Fin 32) (f : Site → Site) : (modSite s m f).fw = s.fw := rfl
@[simp] theorem modSite_fwVersion (m : Fin 32) (f : Site → Site) : (modSite s m f).fwVersion = s.fwVersion := rfl
@[simp] theorem modSite_fwSecurity (m : Fin 32) (f : Site → Site) : (modSite s m f).fwSecurity = s.fwSecurity := rfl
@[simp] theorem modSite_romDigest (m : Fin 32) (f : Site → Site) : (modSite s m f).romDigest = s.romDigest := rfl
@[simp] theorem modSite_fwDigest (m : Fin 32) (f : Site → Site) : (modSite s m f).fwDigest = s.fwDigest := rfl
@[simp] theorem modSite_cfgDigest (m : Fin 32) (f : Site → Site) : (modSite s m f).cfgDigest = s.cfgDigest := rfl
@[simp] theorem modSite_layout (m : Fin 32) (f : Site → Site) : (modSite s m f).layout = s.layout := rfl
@[simp] theorem modSite_numVfs (m : Fin 32) (f : Site → Site) : (modSite s m f).numVfs = s.numVfs := rfl
@[simp] theorem modSite_vfEnable (m : Fin 32) (f : Site → Site) : (modSite s m f).vfEnable = s.vfEnable := rfl
@[simp] theorem modSite_softRemaps (m : Fin 32) (f : Site → Site) : (modSite s m f).softRemaps = s.softRemaps := rfl
@[simp] theorem modSite_trims (m : Fin 32) (f : Site → Site) : (modSite s m f).trims = s.trims := rfl
@[simp] theorem modSite_history (m : Fin 32) (f : Site → Site) : (modSite s m f).history = s.history := rfl
@[simp] theorem modSite_failedDies (m : Fin 32) (f : Site → Site) : (modSite s m f).failedDies = s.failedDies := rfl
@[simp] theorem modSite_marginDies (m : Fin 32) (f : Site → Site) : (modSite s m f).marginDies = s.marginDies := rfl
@[simp] theorem modSite_clean (m : Fin 32) (f : Site → Site) : (modSite s m f).clean = s.clean := rfl
@[simp] theorem modSite_repairs (m : Fin 32) (f : Site → Site) : (modSite s m f).repairs = s.repairs := rfl
@[simp] theorem modSite_lastRepair (m : Fin 32) (f : Site → Site) : (modSite s m f).lastRepair = s.lastRepair := rfl
@[simp] theorem modSite_reports (m : Fin 32) (f : Site → Site) : (modSite s m f).reports = s.reports := rfl
@[simp] theorem modSite_corrected (m : Fin 32) (f : Site → Site) : (modSite s m f).corrected = s.corrected := rfl
@[simp] theorem modSite_dispatchCores (m : Fin 32) (f : Site → Site) : (modSite s m f).dispatchCores = s.dispatchCores := rfl
@[simp] theorem modSite_mgmtCores (m : Fin 32) (f : Site → Site) : (modSite s m f).mgmtCores = s.mgmtCores := rfl
@[simp] theorem modSite_coresLost (m : Fin 32) (f : Site → Site) : (modSite s m f).coresLost = s.coresLost := rfl
@[simp] theorem modSite_identity (m : Fin 32) (f : Site → Site) : (modSite s m f).identity = s.identity := rfl
@[simp] theorem modSite_meterKey (m : Fin 32) (f : Site → Site) : (modSite s m f).meterKey = s.meterKey := rfl
@[simp] theorem modSite_challenge (m : Fin 32) (f : Site → Site) : (modSite s m f).challenge = s.challenge := rfl
@[simp] theorem modSite_attestSeq (m : Fin 32) (f : Site → Site) : (modSite s m f).attestSeq = s.attestSeq := rfl
@[simp] theorem modSite_funcs (m : Fin 32) (f : Site → Site) : (modSite s m f).funcs = s.funcs := rfl
@[simp] theorem modSite_cvus (m : Fin 32) (f : Site → Site) : (modSite s m f).cvus = s.cvus := rfl
@[simp] theorem modSite_polders (m : Fin 32) (f : Site → Site) : (modSite s m f).polders = s.polders := rfl
@[simp] theorem modSite_clusters (m : Fin 32) (f : Site → Site) : (modSite s m f).clusters = s.clusters := rfl
@[simp] theorem modSite_mem (m : Fin 32) (f : Site → Site) : (modSite s m f).mem = s.mem := rfl
@[simp] theorem modSite_undef (m : Fin 32) (f : Site → Site) : (modSite s m f).undef = s.undef := rfl
@[simp] theorem modSite_watch (m : Fin 32) (f : Site → Site) : (modSite s m f).watch = s.watch := rfl
@[simp] theorem modSite_hostMem (m : Fin 32) (f : Site → Site) : (modSite s m f).hostMem = s.hostMem := rfl
@[simp] theorem modSite_msix (m : Fin 32) (f : Site → Site) : (modSite s m f).msix = s.msix := rfl
@[simp] theorem modSite_poison (m : Fin 32) (f : Site → Site) : (modSite s m f).poison = s.poison := rfl
@[simp] theorem modSite_pageErrs (m : Fin 32) (f : Site → Site) : (modSite s m f).pageErrs = s.pageErrs := rfl
@[simp] theorem modSite_pagesDue (m : Fin 32) (f : Site → Site) : (modSite s m f).pagesDue = s.pagesDue := rfl
@[simp] theorem modSite_sluiceCvu (m : Fin 32) (f : Site → Site) : (modSite s m f).sluiceCvu = s.sluiceCvu := rfl
@[simp] theorem modSite_ports (m : Fin 32) (f : Site → Site) : (modSite s m f).ports = s.ports := rfl
@[simp] theorem modSite_counters (m : Fin 32) (f : Site → Site) : (modSite s m f).counters = s.counters := rfl
@[simp] theorem modSite_chains (m : Fin 32) (f : Site → Site) : (modSite s m f).chains = s.chains := rfl
@[simp] theorem modSite_power (m : Fin 32) (f : Site → Site) : (modSite s m f).power = s.power := rfl
@[simp] theorem modSite_pending (m : Fin 32) (f : Site → Site) : (modSite s m f).pending = s.pending := rfl
@[simp] theorem polder_modSite (m : Fin 32) (f : Site → Site) (x : Fin 4) : polder (modSite s m f) x = polder s x := rfl
@[simp] theorem func_modSite (m : Fin 32) (f : Site → Site) (x : Fin 5) : func (modSite s m f) x = func s x := rfl
@[simp] theorem cluster_modSite (m : Fin 32) (f : Site → Site) (x : Fin 256) : cluster (modSite s m f) x = cluster s x := rfl
@[simp] theorem ve_modSite (m : Fin 32) (f : Site → Site) (x : Fin 256) : ve (modSite s m f) x = ve s x := rfl
@[simp] theorem port_modSite (m : Fin 32) (f : Site → Site) (x : Fin 6) : port (modSite s m f) x = port s x := rfl
@[simp] theorem chain_modSite (m : Fin 32) (f : Site → Site) (x : Fin 5) : chain (modSite s m f) x = chain s x := rfl
@[simp] theorem queue_modSite (m : Fin 32) (f : Site → Site) (x : Fin 4) (y : Fin 16) : queue (modSite s m f) x y = queue s x y := rfl
@[simp] theorem cmdAt_modSite (m : Fin 32) (f : Site → Site) (x : Fin 4) (y : Fin 16) (z : Word) : cmdAt (modSite s m f) x y z = cmdAt s x y z := rfl

/-! ## modChain -/

@[simp] theorem modChain_boot (i : Fin 5) (f : Chain → Chain) : (modChain s i f).boot = s.boot := rfl
@[simp] theorem modChain_perst (i : Fin 5) (f : Chain → Chain) : (modChain s i f).perst = s.perst := rfl
@[simp] theorem modChain_pwrbrk (i : Fin 5) (f : Chain → Chain) : (modChain s i f).pwrbrk = s.pwrbrk := rfl
@[simp] theorem modChain_thermtrip (i : Fin 5) (f : Chain → Chain) : (modChain s i f).thermtrip = s.thermtrip := rfl
@[simp] theorem modChain_modPwrgd (i : Fin 5) (f : Chain → Chain) : (modChain s i f).modPwrgd = s.modPwrgd := rfl
@[simp] theorem modChain_smbAlert (i : Fin 5) (f : Chain → Chain) : (modChain s i f).smbAlert = s.smbAlert := rfl
@[simp] theorem modChain_alert (i : Fin 5) (f : Chain → Chain) : (modChain s i f).alert = s.alert := rfl
@[simp] theorem modChain_lastReset (i : Fin 5) (f : Chain → Chain) : (modChain s i f).lastReset = s.lastReset := rfl
@[simp] theorem modChain_hostRate (i : Fin 5) (f : Chain → Chain) : (modChain s i f).hostRate = s.hostRate := rfl
@[simp] theorem modChain_hostWidth (i : Fin 5) (f : Chain → Chain) : (modChain s i f).hostWidth = s.hostWidth := rfl
@[simp] theorem modChain_bootFlags (i : Fin 5) (f : Chain → Chain) : (modChain s i f).bootFlags = s.bootFlags := rfl
@[simp] theorem modChain_slotGen (i : Fin 5) (f : Chain → Chain) : (modChain s i f).slotGen = s.slotGen := rfl
@[simp] theorem modChain_slotUsed (i : Fin 5) (f : Chain → Chain) : (modChain s i f).slotUsed = s.slotUsed := rfl
@[simp] theorem modChain_slotDue (i : Fin 5) (f : Chain → Chain) : (modChain s i f).slotDue = s.slotDue := rfl
@[simp] theorem modChain_selfTest (i : Fin 5) (f : Chain → Chain) : (modChain s i f).selfTest = s.selfTest := rfl
@[simp] theorem modChain_plan (i : Fin 5) (f : Chain → Chain) : (modChain s i f).plan = s.plan := rfl
@[simp] theorem modChain_releaseTime (i : Fin 5) (f : Chain → Chain) : (modChain s i f).releaseTime = s.releaseTime := rfl
@[simp] theorem modChain_localCount (i : Fin 5) (f : Chain → Chain) : (modChain s i f).localCount = s.localCount := rfl
@[simp] theorem modChain_correction (i : Fin 5) (f : Chain → Chain) : (modChain s i f).correction = s.correction := rfl
@[simp] theorem modChain_slew (i : Fin 5) (f : Chain → Chain) : (modChain s i f).slew = s.slew := rfl
@[simp] theorem modChain_bootNonce (i : Fin 5) (f : Chain → Chain) : (modChain s i f).bootNonce = s.bootNonce := rfl
@[simp] theorem modChain_draws (i : Fin 5) (f : Chain → Chain) : (modChain s i f).draws = s.draws := rfl
@[simp] theorem modChain_lastRead (i : Fin 5) (f : Chain → Chain) : (modChain s i f).lastRead = s.lastRead := rfl
@[simp] theorem modChain_fuses (i : Fin 5) (f : Chain → Chain) : (modChain s i f).fuses = s.fuses := rfl
@[simp] theorem modChain_flash (i : Fin 5) (f : Chain → Chain) : (modChain s i f).flash = s.flash := rfl
@[simp] theorem modChain_fw (i : Fin 5) (f : Chain → Chain) : (modChain s i f).fw = s.fw := rfl
@[simp] theorem modChain_fwVersion (i : Fin 5) (f : Chain → Chain) : (modChain s i f).fwVersion = s.fwVersion := rfl
@[simp] theorem modChain_fwSecurity (i : Fin 5) (f : Chain → Chain) : (modChain s i f).fwSecurity = s.fwSecurity := rfl
@[simp] theorem modChain_romDigest (i : Fin 5) (f : Chain → Chain) : (modChain s i f).romDigest = s.romDigest := rfl
@[simp] theorem modChain_fwDigest (i : Fin 5) (f : Chain → Chain) : (modChain s i f).fwDigest = s.fwDigest := rfl
@[simp] theorem modChain_cfgDigest (i : Fin 5) (f : Chain → Chain) : (modChain s i f).cfgDigest = s.cfgDigest := rfl
@[simp] theorem modChain_layout (i : Fin 5) (f : Chain → Chain) : (modChain s i f).layout = s.layout := rfl
@[simp] theorem modChain_numVfs (i : Fin 5) (f : Chain → Chain) : (modChain s i f).numVfs = s.numVfs := rfl
@[simp] theorem modChain_vfEnable (i : Fin 5) (f : Chain → Chain) : (modChain s i f).vfEnable = s.vfEnable := rfl
@[simp] theorem modChain_softRemaps (i : Fin 5) (f : Chain → Chain) : (modChain s i f).softRemaps = s.softRemaps := rfl
@[simp] theorem modChain_trims (i : Fin 5) (f : Chain → Chain) : (modChain s i f).trims = s.trims := rfl
@[simp] theorem modChain_history (i : Fin 5) (f : Chain → Chain) : (modChain s i f).history = s.history := rfl
@[simp] theorem modChain_failedDies (i : Fin 5) (f : Chain → Chain) : (modChain s i f).failedDies = s.failedDies := rfl
@[simp] theorem modChain_marginDies (i : Fin 5) (f : Chain → Chain) : (modChain s i f).marginDies = s.marginDies := rfl
@[simp] theorem modChain_clean (i : Fin 5) (f : Chain → Chain) : (modChain s i f).clean = s.clean := rfl
@[simp] theorem modChain_repairs (i : Fin 5) (f : Chain → Chain) : (modChain s i f).repairs = s.repairs := rfl
@[simp] theorem modChain_lastRepair (i : Fin 5) (f : Chain → Chain) : (modChain s i f).lastRepair = s.lastRepair := rfl
@[simp] theorem modChain_reports (i : Fin 5) (f : Chain → Chain) : (modChain s i f).reports = s.reports := rfl
@[simp] theorem modChain_corrected (i : Fin 5) (f : Chain → Chain) : (modChain s i f).corrected = s.corrected := rfl
@[simp] theorem modChain_dispatchCores (i : Fin 5) (f : Chain → Chain) : (modChain s i f).dispatchCores = s.dispatchCores := rfl
@[simp] theorem modChain_mgmtCores (i : Fin 5) (f : Chain → Chain) : (modChain s i f).mgmtCores = s.mgmtCores := rfl
@[simp] theorem modChain_coresLost (i : Fin 5) (f : Chain → Chain) : (modChain s i f).coresLost = s.coresLost := rfl
@[simp] theorem modChain_identity (i : Fin 5) (f : Chain → Chain) : (modChain s i f).identity = s.identity := rfl
@[simp] theorem modChain_meterKey (i : Fin 5) (f : Chain → Chain) : (modChain s i f).meterKey = s.meterKey := rfl
@[simp] theorem modChain_challenge (i : Fin 5) (f : Chain → Chain) : (modChain s i f).challenge = s.challenge := rfl
@[simp] theorem modChain_attestSeq (i : Fin 5) (f : Chain → Chain) : (modChain s i f).attestSeq = s.attestSeq := rfl
@[simp] theorem modChain_funcs (i : Fin 5) (f : Chain → Chain) : (modChain s i f).funcs = s.funcs := rfl
@[simp] theorem modChain_cvus (i : Fin 5) (f : Chain → Chain) : (modChain s i f).cvus = s.cvus := rfl
@[simp] theorem modChain_polders (i : Fin 5) (f : Chain → Chain) : (modChain s i f).polders = s.polders := rfl
@[simp] theorem modChain_clusters (i : Fin 5) (f : Chain → Chain) : (modChain s i f).clusters = s.clusters := rfl
@[simp] theorem modChain_mem (i : Fin 5) (f : Chain → Chain) : (modChain s i f).mem = s.mem := rfl
@[simp] theorem modChain_undef (i : Fin 5) (f : Chain → Chain) : (modChain s i f).undef = s.undef := rfl
@[simp] theorem modChain_watch (i : Fin 5) (f : Chain → Chain) : (modChain s i f).watch = s.watch := rfl
@[simp] theorem modChain_hostMem (i : Fin 5) (f : Chain → Chain) : (modChain s i f).hostMem = s.hostMem := rfl
@[simp] theorem modChain_msix (i : Fin 5) (f : Chain → Chain) : (modChain s i f).msix = s.msix := rfl
@[simp] theorem modChain_poison (i : Fin 5) (f : Chain → Chain) : (modChain s i f).poison = s.poison := rfl
@[simp] theorem modChain_pageErrs (i : Fin 5) (f : Chain → Chain) : (modChain s i f).pageErrs = s.pageErrs := rfl
@[simp] theorem modChain_pagesDue (i : Fin 5) (f : Chain → Chain) : (modChain s i f).pagesDue = s.pagesDue := rfl
@[simp] theorem modChain_sluiceCvu (i : Fin 5) (f : Chain → Chain) : (modChain s i f).sluiceCvu = s.sluiceCvu := rfl
@[simp] theorem modChain_sites (i : Fin 5) (f : Chain → Chain) : (modChain s i f).sites = s.sites := rfl
@[simp] theorem modChain_ports (i : Fin 5) (f : Chain → Chain) : (modChain s i f).ports = s.ports := rfl
@[simp] theorem modChain_counters (i : Fin 5) (f : Chain → Chain) : (modChain s i f).counters = s.counters := rfl
@[simp] theorem modChain_power (i : Fin 5) (f : Chain → Chain) : (modChain s i f).power = s.power := rfl
@[simp] theorem modChain_pending (i : Fin 5) (f : Chain → Chain) : (modChain s i f).pending = s.pending := rfl
@[simp] theorem polder_modChain (i : Fin 5) (f : Chain → Chain) (x : Fin 4) : polder (modChain s i f) x = polder s x := rfl
@[simp] theorem func_modChain (i : Fin 5) (f : Chain → Chain) (x : Fin 5) : func (modChain s i f) x = func s x := rfl
@[simp] theorem cluster_modChain (i : Fin 5) (f : Chain → Chain) (x : Fin 256) : cluster (modChain s i f) x = cluster s x := rfl
@[simp] theorem ve_modChain (i : Fin 5) (f : Chain → Chain) (x : Fin 256) : ve (modChain s i f) x = ve s x := rfl
@[simp] theorem port_modChain (i : Fin 5) (f : Chain → Chain) (x : Fin 6) : port (modChain s i f) x = port s x := rfl
@[simp] theorem site_modChain (i : Fin 5) (f : Chain → Chain) (x : Fin 32) : site (modChain s i f) x = site s x := rfl
@[simp] theorem queue_modChain (i : Fin 5) (f : Chain → Chain) (x : Fin 4) (y : Fin 16) : queue (modChain s i f) x y = queue s x y := rfl
@[simp] theorem cmdAt_modChain (i : Fin 5) (f : Chain → Chain) (x : Fin 4) (y : Fin 16) (z : Word) : cmdAt (modChain s i f) x y z = cmdAt s x y z := rfl

/-! ## modCvu -/

@[simp] theorem modCvu_boot (u : Fin 4) (f : Cvu → Cvu) : (modCvu s u f).boot = s.boot := rfl
@[simp] theorem modCvu_perst (u : Fin 4) (f : Cvu → Cvu) : (modCvu s u f).perst = s.perst := rfl
@[simp] theorem modCvu_pwrbrk (u : Fin 4) (f : Cvu → Cvu) : (modCvu s u f).pwrbrk = s.pwrbrk := rfl
@[simp] theorem modCvu_thermtrip (u : Fin 4) (f : Cvu → Cvu) : (modCvu s u f).thermtrip = s.thermtrip := rfl
@[simp] theorem modCvu_modPwrgd (u : Fin 4) (f : Cvu → Cvu) : (modCvu s u f).modPwrgd = s.modPwrgd := rfl
@[simp] theorem modCvu_smbAlert (u : Fin 4) (f : Cvu → Cvu) : (modCvu s u f).smbAlert = s.smbAlert := rfl
@[simp] theorem modCvu_alert (u : Fin 4) (f : Cvu → Cvu) : (modCvu s u f).alert = s.alert := rfl
@[simp] theorem modCvu_lastReset (u : Fin 4) (f : Cvu → Cvu) : (modCvu s u f).lastReset = s.lastReset := rfl
@[simp] theorem modCvu_hostRate (u : Fin 4) (f : Cvu → Cvu) : (modCvu s u f).hostRate = s.hostRate := rfl
@[simp] theorem modCvu_hostWidth (u : Fin 4) (f : Cvu → Cvu) : (modCvu s u f).hostWidth = s.hostWidth := rfl
@[simp] theorem modCvu_bootFlags (u : Fin 4) (f : Cvu → Cvu) : (modCvu s u f).bootFlags = s.bootFlags := rfl
@[simp] theorem modCvu_slotGen (u : Fin 4) (f : Cvu → Cvu) : (modCvu s u f).slotGen = s.slotGen := rfl
@[simp] theorem modCvu_slotUsed (u : Fin 4) (f : Cvu → Cvu) : (modCvu s u f).slotUsed = s.slotUsed := rfl
@[simp] theorem modCvu_slotDue (u : Fin 4) (f : Cvu → Cvu) : (modCvu s u f).slotDue = s.slotDue := rfl
@[simp] theorem modCvu_selfTest (u : Fin 4) (f : Cvu → Cvu) : (modCvu s u f).selfTest = s.selfTest := rfl
@[simp] theorem modCvu_plan (u : Fin 4) (f : Cvu → Cvu) : (modCvu s u f).plan = s.plan := rfl
@[simp] theorem modCvu_releaseTime (u : Fin 4) (f : Cvu → Cvu) : (modCvu s u f).releaseTime = s.releaseTime := rfl
@[simp] theorem modCvu_localCount (u : Fin 4) (f : Cvu → Cvu) : (modCvu s u f).localCount = s.localCount := rfl
@[simp] theorem modCvu_correction (u : Fin 4) (f : Cvu → Cvu) : (modCvu s u f).correction = s.correction := rfl
@[simp] theorem modCvu_slew (u : Fin 4) (f : Cvu → Cvu) : (modCvu s u f).slew = s.slew := rfl
@[simp] theorem modCvu_bootNonce (u : Fin 4) (f : Cvu → Cvu) : (modCvu s u f).bootNonce = s.bootNonce := rfl
@[simp] theorem modCvu_draws (u : Fin 4) (f : Cvu → Cvu) : (modCvu s u f).draws = s.draws := rfl
@[simp] theorem modCvu_lastRead (u : Fin 4) (f : Cvu → Cvu) : (modCvu s u f).lastRead = s.lastRead := rfl
@[simp] theorem modCvu_fuses (u : Fin 4) (f : Cvu → Cvu) : (modCvu s u f).fuses = s.fuses := rfl
@[simp] theorem modCvu_flash (u : Fin 4) (f : Cvu → Cvu) : (modCvu s u f).flash = s.flash := rfl
@[simp] theorem modCvu_fw (u : Fin 4) (f : Cvu → Cvu) : (modCvu s u f).fw = s.fw := rfl
@[simp] theorem modCvu_fwVersion (u : Fin 4) (f : Cvu → Cvu) : (modCvu s u f).fwVersion = s.fwVersion := rfl
@[simp] theorem modCvu_fwSecurity (u : Fin 4) (f : Cvu → Cvu) : (modCvu s u f).fwSecurity = s.fwSecurity := rfl
@[simp] theorem modCvu_romDigest (u : Fin 4) (f : Cvu → Cvu) : (modCvu s u f).romDigest = s.romDigest := rfl
@[simp] theorem modCvu_fwDigest (u : Fin 4) (f : Cvu → Cvu) : (modCvu s u f).fwDigest = s.fwDigest := rfl
@[simp] theorem modCvu_cfgDigest (u : Fin 4) (f : Cvu → Cvu) : (modCvu s u f).cfgDigest = s.cfgDigest := rfl
@[simp] theorem modCvu_layout (u : Fin 4) (f : Cvu → Cvu) : (modCvu s u f).layout = s.layout := rfl
@[simp] theorem modCvu_numVfs (u : Fin 4) (f : Cvu → Cvu) : (modCvu s u f).numVfs = s.numVfs := rfl
@[simp] theorem modCvu_vfEnable (u : Fin 4) (f : Cvu → Cvu) : (modCvu s u f).vfEnable = s.vfEnable := rfl
@[simp] theorem modCvu_softRemaps (u : Fin 4) (f : Cvu → Cvu) : (modCvu s u f).softRemaps = s.softRemaps := rfl
@[simp] theorem modCvu_trims (u : Fin 4) (f : Cvu → Cvu) : (modCvu s u f).trims = s.trims := rfl
@[simp] theorem modCvu_history (u : Fin 4) (f : Cvu → Cvu) : (modCvu s u f).history = s.history := rfl
@[simp] theorem modCvu_failedDies (u : Fin 4) (f : Cvu → Cvu) : (modCvu s u f).failedDies = s.failedDies := rfl
@[simp] theorem modCvu_marginDies (u : Fin 4) (f : Cvu → Cvu) : (modCvu s u f).marginDies = s.marginDies := rfl
@[simp] theorem modCvu_clean (u : Fin 4) (f : Cvu → Cvu) : (modCvu s u f).clean = s.clean := rfl
@[simp] theorem modCvu_repairs (u : Fin 4) (f : Cvu → Cvu) : (modCvu s u f).repairs = s.repairs := rfl
@[simp] theorem modCvu_lastRepair (u : Fin 4) (f : Cvu → Cvu) : (modCvu s u f).lastRepair = s.lastRepair := rfl
@[simp] theorem modCvu_reports (u : Fin 4) (f : Cvu → Cvu) : (modCvu s u f).reports = s.reports := rfl
@[simp] theorem modCvu_corrected (u : Fin 4) (f : Cvu → Cvu) : (modCvu s u f).corrected = s.corrected := rfl
@[simp] theorem modCvu_dispatchCores (u : Fin 4) (f : Cvu → Cvu) : (modCvu s u f).dispatchCores = s.dispatchCores := rfl
@[simp] theorem modCvu_mgmtCores (u : Fin 4) (f : Cvu → Cvu) : (modCvu s u f).mgmtCores = s.mgmtCores := rfl
@[simp] theorem modCvu_coresLost (u : Fin 4) (f : Cvu → Cvu) : (modCvu s u f).coresLost = s.coresLost := rfl
@[simp] theorem modCvu_identity (u : Fin 4) (f : Cvu → Cvu) : (modCvu s u f).identity = s.identity := rfl
@[simp] theorem modCvu_meterKey (u : Fin 4) (f : Cvu → Cvu) : (modCvu s u f).meterKey = s.meterKey := rfl
@[simp] theorem modCvu_challenge (u : Fin 4) (f : Cvu → Cvu) : (modCvu s u f).challenge = s.challenge := rfl
@[simp] theorem modCvu_attestSeq (u : Fin 4) (f : Cvu → Cvu) : (modCvu s u f).attestSeq = s.attestSeq := rfl
@[simp] theorem modCvu_funcs (u : Fin 4) (f : Cvu → Cvu) : (modCvu s u f).funcs = s.funcs := rfl
@[simp] theorem modCvu_polders (u : Fin 4) (f : Cvu → Cvu) : (modCvu s u f).polders = s.polders := rfl
@[simp] theorem modCvu_clusters (u : Fin 4) (f : Cvu → Cvu) : (modCvu s u f).clusters = s.clusters := rfl
@[simp] theorem modCvu_mem (u : Fin 4) (f : Cvu → Cvu) : (modCvu s u f).mem = s.mem := rfl
@[simp] theorem modCvu_undef (u : Fin 4) (f : Cvu → Cvu) : (modCvu s u f).undef = s.undef := rfl
@[simp] theorem modCvu_watch (u : Fin 4) (f : Cvu → Cvu) : (modCvu s u f).watch = s.watch := rfl
@[simp] theorem modCvu_hostMem (u : Fin 4) (f : Cvu → Cvu) : (modCvu s u f).hostMem = s.hostMem := rfl
@[simp] theorem modCvu_msix (u : Fin 4) (f : Cvu → Cvu) : (modCvu s u f).msix = s.msix := rfl
@[simp] theorem modCvu_poison (u : Fin 4) (f : Cvu → Cvu) : (modCvu s u f).poison = s.poison := rfl
@[simp] theorem modCvu_pageErrs (u : Fin 4) (f : Cvu → Cvu) : (modCvu s u f).pageErrs = s.pageErrs := rfl
@[simp] theorem modCvu_pagesDue (u : Fin 4) (f : Cvu → Cvu) : (modCvu s u f).pagesDue = s.pagesDue := rfl
@[simp] theorem modCvu_sluiceCvu (u : Fin 4) (f : Cvu → Cvu) : (modCvu s u f).sluiceCvu = s.sluiceCvu := rfl
@[simp] theorem modCvu_sites (u : Fin 4) (f : Cvu → Cvu) : (modCvu s u f).sites = s.sites := rfl
@[simp] theorem modCvu_ports (u : Fin 4) (f : Cvu → Cvu) : (modCvu s u f).ports = s.ports := rfl
@[simp] theorem modCvu_counters (u : Fin 4) (f : Cvu → Cvu) : (modCvu s u f).counters = s.counters := rfl
@[simp] theorem modCvu_chains (u : Fin 4) (f : Cvu → Cvu) : (modCvu s u f).chains = s.chains := rfl
@[simp] theorem modCvu_power (u : Fin 4) (f : Cvu → Cvu) : (modCvu s u f).power = s.power := rfl
@[simp] theorem modCvu_pending (u : Fin 4) (f : Cvu → Cvu) : (modCvu s u f).pending = s.pending := rfl
@[simp] theorem polder_modCvu (u : Fin 4) (f : Cvu → Cvu) (x : Fin 4) : polder (modCvu s u f) x = polder s x := rfl
@[simp] theorem func_modCvu (u : Fin 4) (f : Cvu → Cvu) (x : Fin 5) : func (modCvu s u f) x = func s x := rfl
@[simp] theorem cluster_modCvu (u : Fin 4) (f : Cvu → Cvu) (x : Fin 256) : cluster (modCvu s u f) x = cluster s x := rfl
@[simp] theorem ve_modCvu (u : Fin 4) (f : Cvu → Cvu) (x : Fin 256) : ve (modCvu s u f) x = ve s x := rfl
@[simp] theorem port_modCvu (u : Fin 4) (f : Cvu → Cvu) (x : Fin 6) : port (modCvu s u f) x = port s x := rfl
@[simp] theorem site_modCvu (u : Fin 4) (f : Cvu → Cvu) (x : Fin 32) : site (modCvu s u f) x = site s x := rfl
@[simp] theorem chain_modCvu (u : Fin 4) (f : Cvu → Cvu) (x : Fin 5) : chain (modCvu s u f) x = chain s x := rfl
@[simp] theorem queue_modCvu (u : Fin 4) (f : Cvu → Cvu) (x : Fin 4) (y : Fin 16) : queue (modCvu s u f) x y = queue s x y := rfl
@[simp] theorem cmdAt_modCvu (u : Fin 4) (f : Cvu → Cvu) (x : Fin 4) (y : Fin 16) (z : Word) : cmdAt (modCvu s u f) x y z = cmdAt s x y z := rfl

/-! ## skipDraws -/

@[simp] theorem skipDraws_boot (n : Nat) : (skipDraws s n).boot = s.boot := rfl
@[simp] theorem skipDraws_perst (n : Nat) : (skipDraws s n).perst = s.perst := rfl
@[simp] theorem skipDraws_pwrbrk (n : Nat) : (skipDraws s n).pwrbrk = s.pwrbrk := rfl
@[simp] theorem skipDraws_thermtrip (n : Nat) : (skipDraws s n).thermtrip = s.thermtrip := rfl
@[simp] theorem skipDraws_modPwrgd (n : Nat) : (skipDraws s n).modPwrgd = s.modPwrgd := rfl
@[simp] theorem skipDraws_smbAlert (n : Nat) : (skipDraws s n).smbAlert = s.smbAlert := rfl
@[simp] theorem skipDraws_alert (n : Nat) : (skipDraws s n).alert = s.alert := rfl
@[simp] theorem skipDraws_lastReset (n : Nat) : (skipDraws s n).lastReset = s.lastReset := rfl
@[simp] theorem skipDraws_hostRate (n : Nat) : (skipDraws s n).hostRate = s.hostRate := rfl
@[simp] theorem skipDraws_hostWidth (n : Nat) : (skipDraws s n).hostWidth = s.hostWidth := rfl
@[simp] theorem skipDraws_bootFlags (n : Nat) : (skipDraws s n).bootFlags = s.bootFlags := rfl
@[simp] theorem skipDraws_slotGen (n : Nat) : (skipDraws s n).slotGen = s.slotGen := rfl
@[simp] theorem skipDraws_slotUsed (n : Nat) : (skipDraws s n).slotUsed = s.slotUsed := rfl
@[simp] theorem skipDraws_slotDue (n : Nat) : (skipDraws s n).slotDue = s.slotDue := rfl
@[simp] theorem skipDraws_selfTest (n : Nat) : (skipDraws s n).selfTest = s.selfTest := rfl
@[simp] theorem skipDraws_plan (n : Nat) : (skipDraws s n).plan = s.plan := rfl
@[simp] theorem skipDraws_releaseTime (n : Nat) : (skipDraws s n).releaseTime = s.releaseTime := rfl
@[simp] theorem skipDraws_localCount (n : Nat) : (skipDraws s n).localCount = s.localCount := rfl
@[simp] theorem skipDraws_correction (n : Nat) : (skipDraws s n).correction = s.correction := rfl
@[simp] theorem skipDraws_slew (n : Nat) : (skipDraws s n).slew = s.slew := rfl
@[simp] theorem skipDraws_bootNonce (n : Nat) : (skipDraws s n).bootNonce = s.bootNonce := rfl
@[simp] theorem skipDraws_lastRead (n : Nat) : (skipDraws s n).lastRead = s.lastRead := rfl
@[simp] theorem skipDraws_fuses (n : Nat) : (skipDraws s n).fuses = s.fuses := rfl
@[simp] theorem skipDraws_flash (n : Nat) : (skipDraws s n).flash = s.flash := rfl
@[simp] theorem skipDraws_fw (n : Nat) : (skipDraws s n).fw = s.fw := rfl
@[simp] theorem skipDraws_fwVersion (n : Nat) : (skipDraws s n).fwVersion = s.fwVersion := rfl
@[simp] theorem skipDraws_fwSecurity (n : Nat) : (skipDraws s n).fwSecurity = s.fwSecurity := rfl
@[simp] theorem skipDraws_romDigest (n : Nat) : (skipDraws s n).romDigest = s.romDigest := rfl
@[simp] theorem skipDraws_fwDigest (n : Nat) : (skipDraws s n).fwDigest = s.fwDigest := rfl
@[simp] theorem skipDraws_cfgDigest (n : Nat) : (skipDraws s n).cfgDigest = s.cfgDigest := rfl
@[simp] theorem skipDraws_layout (n : Nat) : (skipDraws s n).layout = s.layout := rfl
@[simp] theorem skipDraws_numVfs (n : Nat) : (skipDraws s n).numVfs = s.numVfs := rfl
@[simp] theorem skipDraws_vfEnable (n : Nat) : (skipDraws s n).vfEnable = s.vfEnable := rfl
@[simp] theorem skipDraws_softRemaps (n : Nat) : (skipDraws s n).softRemaps = s.softRemaps := rfl
@[simp] theorem skipDraws_trims (n : Nat) : (skipDraws s n).trims = s.trims := rfl
@[simp] theorem skipDraws_history (n : Nat) : (skipDraws s n).history = s.history := rfl
@[simp] theorem skipDraws_failedDies (n : Nat) : (skipDraws s n).failedDies = s.failedDies := rfl
@[simp] theorem skipDraws_marginDies (n : Nat) : (skipDraws s n).marginDies = s.marginDies := rfl
@[simp] theorem skipDraws_clean (n : Nat) : (skipDraws s n).clean = s.clean := rfl
@[simp] theorem skipDraws_repairs (n : Nat) : (skipDraws s n).repairs = s.repairs := rfl
@[simp] theorem skipDraws_lastRepair (n : Nat) : (skipDraws s n).lastRepair = s.lastRepair := rfl
@[simp] theorem skipDraws_reports (n : Nat) : (skipDraws s n).reports = s.reports := rfl
@[simp] theorem skipDraws_corrected (n : Nat) : (skipDraws s n).corrected = s.corrected := rfl
@[simp] theorem skipDraws_dispatchCores (n : Nat) : (skipDraws s n).dispatchCores = s.dispatchCores := rfl
@[simp] theorem skipDraws_mgmtCores (n : Nat) : (skipDraws s n).mgmtCores = s.mgmtCores := rfl
@[simp] theorem skipDraws_coresLost (n : Nat) : (skipDraws s n).coresLost = s.coresLost := rfl
@[simp] theorem skipDraws_identity (n : Nat) : (skipDraws s n).identity = s.identity := rfl
@[simp] theorem skipDraws_meterKey (n : Nat) : (skipDraws s n).meterKey = s.meterKey := rfl
@[simp] theorem skipDraws_challenge (n : Nat) : (skipDraws s n).challenge = s.challenge := rfl
@[simp] theorem skipDraws_attestSeq (n : Nat) : (skipDraws s n).attestSeq = s.attestSeq := rfl
@[simp] theorem skipDraws_funcs (n : Nat) : (skipDraws s n).funcs = s.funcs := rfl
@[simp] theorem skipDraws_cvus (n : Nat) : (skipDraws s n).cvus = s.cvus := rfl
@[simp] theorem skipDraws_polders (n : Nat) : (skipDraws s n).polders = s.polders := rfl
@[simp] theorem skipDraws_clusters (n : Nat) : (skipDraws s n).clusters = s.clusters := rfl
@[simp] theorem skipDraws_mem (n : Nat) : (skipDraws s n).mem = s.mem := rfl
@[simp] theorem skipDraws_undef (n : Nat) : (skipDraws s n).undef = s.undef := rfl
@[simp] theorem skipDraws_watch (n : Nat) : (skipDraws s n).watch = s.watch := rfl
@[simp] theorem skipDraws_hostMem (n : Nat) : (skipDraws s n).hostMem = s.hostMem := rfl
@[simp] theorem skipDraws_msix (n : Nat) : (skipDraws s n).msix = s.msix := rfl
@[simp] theorem skipDraws_poison (n : Nat) : (skipDraws s n).poison = s.poison := rfl
@[simp] theorem skipDraws_pageErrs (n : Nat) : (skipDraws s n).pageErrs = s.pageErrs := rfl
@[simp] theorem skipDraws_pagesDue (n : Nat) : (skipDraws s n).pagesDue = s.pagesDue := rfl
@[simp] theorem skipDraws_sluiceCvu (n : Nat) : (skipDraws s n).sluiceCvu = s.sluiceCvu := rfl
@[simp] theorem skipDraws_sites (n : Nat) : (skipDraws s n).sites = s.sites := rfl
@[simp] theorem skipDraws_ports (n : Nat) : (skipDraws s n).ports = s.ports := rfl
@[simp] theorem skipDraws_counters (n : Nat) : (skipDraws s n).counters = s.counters := rfl
@[simp] theorem skipDraws_chains (n : Nat) : (skipDraws s n).chains = s.chains := rfl
@[simp] theorem skipDraws_power (n : Nat) : (skipDraws s n).power = s.power := rfl
@[simp] theorem skipDraws_pending (n : Nat) : (skipDraws s n).pending = s.pending := rfl
@[simp] theorem polder_skipDraws (n : Nat) (x : Fin 4) : polder (skipDraws s n) x = polder s x := rfl
@[simp] theorem func_skipDraws (n : Nat) (x : Fin 5) : func (skipDraws s n) x = func s x := rfl
@[simp] theorem cluster_skipDraws (n : Nat) (x : Fin 256) : cluster (skipDraws s n) x = cluster s x := rfl
@[simp] theorem ve_skipDraws (n : Nat) (x : Fin 256) : ve (skipDraws s n) x = ve s x := rfl
@[simp] theorem port_skipDraws (n : Nat) (x : Fin 6) : port (skipDraws s n) x = port s x := rfl
@[simp] theorem site_skipDraws (n : Nat) (x : Fin 32) : site (skipDraws s n) x = site s x := rfl
@[simp] theorem chain_skipDraws (n : Nat) (x : Fin 5) : chain (skipDraws s n) x = chain s x := rfl
@[simp] theorem queue_skipDraws (n : Nat) (x : Fin 4) (y : Fin 16) : queue (skipDraws s n) x y = queue s x y := rfl
@[simp] theorem cmdAt_skipDraws (n : Nat) (x : Fin 4) (y : Fin 16) (z : Word) : cmdAt (skipDraws s n) x y z = cmdAt s x y z := rfl

/-! ## nextDraw -/

@[simp] theorem nextDraw_boot : (nextDraw s).boot = s.boot := rfl
@[simp] theorem nextDraw_perst : (nextDraw s).perst = s.perst := rfl
@[simp] theorem nextDraw_pwrbrk : (nextDraw s).pwrbrk = s.pwrbrk := rfl
@[simp] theorem nextDraw_thermtrip : (nextDraw s).thermtrip = s.thermtrip := rfl
@[simp] theorem nextDraw_modPwrgd : (nextDraw s).modPwrgd = s.modPwrgd := rfl
@[simp] theorem nextDraw_smbAlert : (nextDraw s).smbAlert = s.smbAlert := rfl
@[simp] theorem nextDraw_alert : (nextDraw s).alert = s.alert := rfl
@[simp] theorem nextDraw_lastReset : (nextDraw s).lastReset = s.lastReset := rfl
@[simp] theorem nextDraw_hostRate : (nextDraw s).hostRate = s.hostRate := rfl
@[simp] theorem nextDraw_hostWidth : (nextDraw s).hostWidth = s.hostWidth := rfl
@[simp] theorem nextDraw_bootFlags : (nextDraw s).bootFlags = s.bootFlags := rfl
@[simp] theorem nextDraw_slotGen : (nextDraw s).slotGen = s.slotGen := rfl
@[simp] theorem nextDraw_slotUsed : (nextDraw s).slotUsed = s.slotUsed := rfl
@[simp] theorem nextDraw_slotDue : (nextDraw s).slotDue = s.slotDue := rfl
@[simp] theorem nextDraw_selfTest : (nextDraw s).selfTest = s.selfTest := rfl
@[simp] theorem nextDraw_plan : (nextDraw s).plan = s.plan := rfl
@[simp] theorem nextDraw_releaseTime : (nextDraw s).releaseTime = s.releaseTime := rfl
@[simp] theorem nextDraw_localCount : (nextDraw s).localCount = s.localCount := rfl
@[simp] theorem nextDraw_correction : (nextDraw s).correction = s.correction := rfl
@[simp] theorem nextDraw_slew : (nextDraw s).slew = s.slew := rfl
@[simp] theorem nextDraw_bootNonce : (nextDraw s).bootNonce = s.bootNonce := rfl
@[simp] theorem nextDraw_lastRead : (nextDraw s).lastRead = s.lastRead := rfl
@[simp] theorem nextDraw_fuses : (nextDraw s).fuses = s.fuses := rfl
@[simp] theorem nextDraw_flash : (nextDraw s).flash = s.flash := rfl
@[simp] theorem nextDraw_fw : (nextDraw s).fw = s.fw := rfl
@[simp] theorem nextDraw_fwVersion : (nextDraw s).fwVersion = s.fwVersion := rfl
@[simp] theorem nextDraw_fwSecurity : (nextDraw s).fwSecurity = s.fwSecurity := rfl
@[simp] theorem nextDraw_romDigest : (nextDraw s).romDigest = s.romDigest := rfl
@[simp] theorem nextDraw_fwDigest : (nextDraw s).fwDigest = s.fwDigest := rfl
@[simp] theorem nextDraw_cfgDigest : (nextDraw s).cfgDigest = s.cfgDigest := rfl
@[simp] theorem nextDraw_layout : (nextDraw s).layout = s.layout := rfl
@[simp] theorem nextDraw_numVfs : (nextDraw s).numVfs = s.numVfs := rfl
@[simp] theorem nextDraw_vfEnable : (nextDraw s).vfEnable = s.vfEnable := rfl
@[simp] theorem nextDraw_softRemaps : (nextDraw s).softRemaps = s.softRemaps := rfl
@[simp] theorem nextDraw_trims : (nextDraw s).trims = s.trims := rfl
@[simp] theorem nextDraw_history : (nextDraw s).history = s.history := rfl
@[simp] theorem nextDraw_failedDies : (nextDraw s).failedDies = s.failedDies := rfl
@[simp] theorem nextDraw_marginDies : (nextDraw s).marginDies = s.marginDies := rfl
@[simp] theorem nextDraw_clean : (nextDraw s).clean = s.clean := rfl
@[simp] theorem nextDraw_repairs : (nextDraw s).repairs = s.repairs := rfl
@[simp] theorem nextDraw_lastRepair : (nextDraw s).lastRepair = s.lastRepair := rfl
@[simp] theorem nextDraw_reports : (nextDraw s).reports = s.reports := rfl
@[simp] theorem nextDraw_corrected : (nextDraw s).corrected = s.corrected := rfl
@[simp] theorem nextDraw_dispatchCores : (nextDraw s).dispatchCores = s.dispatchCores := rfl
@[simp] theorem nextDraw_mgmtCores : (nextDraw s).mgmtCores = s.mgmtCores := rfl
@[simp] theorem nextDraw_coresLost : (nextDraw s).coresLost = s.coresLost := rfl
@[simp] theorem nextDraw_identity : (nextDraw s).identity = s.identity := rfl
@[simp] theorem nextDraw_meterKey : (nextDraw s).meterKey = s.meterKey := rfl
@[simp] theorem nextDraw_challenge : (nextDraw s).challenge = s.challenge := rfl
@[simp] theorem nextDraw_attestSeq : (nextDraw s).attestSeq = s.attestSeq := rfl
@[simp] theorem nextDraw_funcs : (nextDraw s).funcs = s.funcs := rfl
@[simp] theorem nextDraw_cvus : (nextDraw s).cvus = s.cvus := rfl
@[simp] theorem nextDraw_polders : (nextDraw s).polders = s.polders := rfl
@[simp] theorem nextDraw_clusters : (nextDraw s).clusters = s.clusters := rfl
@[simp] theorem nextDraw_mem : (nextDraw s).mem = s.mem := rfl
@[simp] theorem nextDraw_undef : (nextDraw s).undef = s.undef := rfl
@[simp] theorem nextDraw_watch : (nextDraw s).watch = s.watch := rfl
@[simp] theorem nextDraw_hostMem : (nextDraw s).hostMem = s.hostMem := rfl
@[simp] theorem nextDraw_msix : (nextDraw s).msix = s.msix := rfl
@[simp] theorem nextDraw_poison : (nextDraw s).poison = s.poison := rfl
@[simp] theorem nextDraw_pageErrs : (nextDraw s).pageErrs = s.pageErrs := rfl
@[simp] theorem nextDraw_pagesDue : (nextDraw s).pagesDue = s.pagesDue := rfl
@[simp] theorem nextDraw_sluiceCvu : (nextDraw s).sluiceCvu = s.sluiceCvu := rfl
@[simp] theorem nextDraw_sites : (nextDraw s).sites = s.sites := rfl
@[simp] theorem nextDraw_ports : (nextDraw s).ports = s.ports := rfl
@[simp] theorem nextDraw_counters : (nextDraw s).counters = s.counters := rfl
@[simp] theorem nextDraw_chains : (nextDraw s).chains = s.chains := rfl
@[simp] theorem nextDraw_power : (nextDraw s).power = s.power := rfl
@[simp] theorem nextDraw_pending : (nextDraw s).pending = s.pending := rfl
@[simp] theorem polder_nextDraw (x : Fin 4) : polder (nextDraw s) x = polder s x := rfl
@[simp] theorem func_nextDraw (x : Fin 5) : func (nextDraw s) x = func s x := rfl
@[simp] theorem cluster_nextDraw (x : Fin 256) : cluster (nextDraw s) x = cluster s x := rfl
@[simp] theorem ve_nextDraw (x : Fin 256) : ve (nextDraw s) x = ve s x := rfl
@[simp] theorem port_nextDraw (x : Fin 6) : port (nextDraw s) x = port s x := rfl
@[simp] theorem site_nextDraw (x : Fin 32) : site (nextDraw s) x = site s x := rfl
@[simp] theorem chain_nextDraw (x : Fin 5) : chain (nextDraw s) x = chain s x := rfl
@[simp] theorem queue_nextDraw (x : Fin 4) (y : Fin 16) : queue (nextDraw s) x y = queue s x y := rfl
@[simp] theorem cmdAt_nextDraw (x : Fin 4) (y : Fin 16) (z : Word) : cmdAt (nextDraw s) x y z = cmdAt s x y z := rfl

/-! ## memPut -/

@[simp] theorem memPut_boot (a : Nat) (bs : List Byte) : (memPut s a bs).boot = s.boot := rfl
@[simp] theorem memPut_perst (a : Nat) (bs : List Byte) : (memPut s a bs).perst = s.perst := rfl
@[simp] theorem memPut_pwrbrk (a : Nat) (bs : List Byte) : (memPut s a bs).pwrbrk = s.pwrbrk := rfl
@[simp] theorem memPut_thermtrip (a : Nat) (bs : List Byte) : (memPut s a bs).thermtrip = s.thermtrip := rfl
@[simp] theorem memPut_modPwrgd (a : Nat) (bs : List Byte) : (memPut s a bs).modPwrgd = s.modPwrgd := rfl
@[simp] theorem memPut_smbAlert (a : Nat) (bs : List Byte) : (memPut s a bs).smbAlert = s.smbAlert := rfl
@[simp] theorem memPut_alert (a : Nat) (bs : List Byte) : (memPut s a bs).alert = s.alert := rfl
@[simp] theorem memPut_lastReset (a : Nat) (bs : List Byte) : (memPut s a bs).lastReset = s.lastReset := rfl
@[simp] theorem memPut_hostRate (a : Nat) (bs : List Byte) : (memPut s a bs).hostRate = s.hostRate := rfl
@[simp] theorem memPut_hostWidth (a : Nat) (bs : List Byte) : (memPut s a bs).hostWidth = s.hostWidth := rfl
@[simp] theorem memPut_bootFlags (a : Nat) (bs : List Byte) : (memPut s a bs).bootFlags = s.bootFlags := rfl
@[simp] theorem memPut_slotGen (a : Nat) (bs : List Byte) : (memPut s a bs).slotGen = s.slotGen := rfl
@[simp] theorem memPut_slotUsed (a : Nat) (bs : List Byte) : (memPut s a bs).slotUsed = s.slotUsed := rfl
@[simp] theorem memPut_slotDue (a : Nat) (bs : List Byte) : (memPut s a bs).slotDue = s.slotDue := rfl
@[simp] theorem memPut_selfTest (a : Nat) (bs : List Byte) : (memPut s a bs).selfTest = s.selfTest := rfl
@[simp] theorem memPut_plan (a : Nat) (bs : List Byte) : (memPut s a bs).plan = s.plan := rfl
@[simp] theorem memPut_releaseTime (a : Nat) (bs : List Byte) : (memPut s a bs).releaseTime = s.releaseTime := rfl
@[simp] theorem memPut_localCount (a : Nat) (bs : List Byte) : (memPut s a bs).localCount = s.localCount := rfl
@[simp] theorem memPut_correction (a : Nat) (bs : List Byte) : (memPut s a bs).correction = s.correction := rfl
@[simp] theorem memPut_slew (a : Nat) (bs : List Byte) : (memPut s a bs).slew = s.slew := rfl
@[simp] theorem memPut_bootNonce (a : Nat) (bs : List Byte) : (memPut s a bs).bootNonce = s.bootNonce := rfl
@[simp] theorem memPut_draws (a : Nat) (bs : List Byte) : (memPut s a bs).draws = s.draws := rfl
@[simp] theorem memPut_lastRead (a : Nat) (bs : List Byte) : (memPut s a bs).lastRead = s.lastRead := rfl
@[simp] theorem memPut_fuses (a : Nat) (bs : List Byte) : (memPut s a bs).fuses = s.fuses := rfl
@[simp] theorem memPut_flash (a : Nat) (bs : List Byte) : (memPut s a bs).flash = s.flash := rfl
@[simp] theorem memPut_fw (a : Nat) (bs : List Byte) : (memPut s a bs).fw = s.fw := rfl
@[simp] theorem memPut_fwVersion (a : Nat) (bs : List Byte) : (memPut s a bs).fwVersion = s.fwVersion := rfl
@[simp] theorem memPut_fwSecurity (a : Nat) (bs : List Byte) : (memPut s a bs).fwSecurity = s.fwSecurity := rfl
@[simp] theorem memPut_romDigest (a : Nat) (bs : List Byte) : (memPut s a bs).romDigest = s.romDigest := rfl
@[simp] theorem memPut_fwDigest (a : Nat) (bs : List Byte) : (memPut s a bs).fwDigest = s.fwDigest := rfl
@[simp] theorem memPut_cfgDigest (a : Nat) (bs : List Byte) : (memPut s a bs).cfgDigest = s.cfgDigest := rfl
@[simp] theorem memPut_layout (a : Nat) (bs : List Byte) : (memPut s a bs).layout = s.layout := rfl
@[simp] theorem memPut_numVfs (a : Nat) (bs : List Byte) : (memPut s a bs).numVfs = s.numVfs := rfl
@[simp] theorem memPut_vfEnable (a : Nat) (bs : List Byte) : (memPut s a bs).vfEnable = s.vfEnable := rfl
@[simp] theorem memPut_softRemaps (a : Nat) (bs : List Byte) : (memPut s a bs).softRemaps = s.softRemaps := rfl
@[simp] theorem memPut_trims (a : Nat) (bs : List Byte) : (memPut s a bs).trims = s.trims := rfl
@[simp] theorem memPut_history (a : Nat) (bs : List Byte) : (memPut s a bs).history = s.history := rfl
@[simp] theorem memPut_failedDies (a : Nat) (bs : List Byte) : (memPut s a bs).failedDies = s.failedDies := rfl
@[simp] theorem memPut_marginDies (a : Nat) (bs : List Byte) : (memPut s a bs).marginDies = s.marginDies := rfl
@[simp] theorem memPut_clean (a : Nat) (bs : List Byte) : (memPut s a bs).clean = s.clean := rfl
@[simp] theorem memPut_repairs (a : Nat) (bs : List Byte) : (memPut s a bs).repairs = s.repairs := rfl
@[simp] theorem memPut_lastRepair (a : Nat) (bs : List Byte) : (memPut s a bs).lastRepair = s.lastRepair := rfl
@[simp] theorem memPut_reports (a : Nat) (bs : List Byte) : (memPut s a bs).reports = s.reports := rfl
@[simp] theorem memPut_corrected (a : Nat) (bs : List Byte) : (memPut s a bs).corrected = s.corrected := rfl
@[simp] theorem memPut_dispatchCores (a : Nat) (bs : List Byte) : (memPut s a bs).dispatchCores = s.dispatchCores := rfl
@[simp] theorem memPut_mgmtCores (a : Nat) (bs : List Byte) : (memPut s a bs).mgmtCores = s.mgmtCores := rfl
@[simp] theorem memPut_coresLost (a : Nat) (bs : List Byte) : (memPut s a bs).coresLost = s.coresLost := rfl
@[simp] theorem memPut_identity (a : Nat) (bs : List Byte) : (memPut s a bs).identity = s.identity := rfl
@[simp] theorem memPut_meterKey (a : Nat) (bs : List Byte) : (memPut s a bs).meterKey = s.meterKey := rfl
@[simp] theorem memPut_challenge (a : Nat) (bs : List Byte) : (memPut s a bs).challenge = s.challenge := rfl
@[simp] theorem memPut_attestSeq (a : Nat) (bs : List Byte) : (memPut s a bs).attestSeq = s.attestSeq := rfl
@[simp] theorem memPut_funcs (a : Nat) (bs : List Byte) : (memPut s a bs).funcs = s.funcs := rfl
@[simp] theorem memPut_cvus (a : Nat) (bs : List Byte) : (memPut s a bs).cvus = s.cvus := rfl
@[simp] theorem memPut_polders (a : Nat) (bs : List Byte) : (memPut s a bs).polders = s.polders := rfl
@[simp] theorem memPut_clusters (a : Nat) (bs : List Byte) : (memPut s a bs).clusters = s.clusters := rfl
@[simp] theorem memPut_hostMem (a : Nat) (bs : List Byte) : (memPut s a bs).hostMem = s.hostMem := rfl
@[simp] theorem memPut_msix (a : Nat) (bs : List Byte) : (memPut s a bs).msix = s.msix := rfl
@[simp] theorem memPut_poison (a : Nat) (bs : List Byte) : (memPut s a bs).poison = s.poison := rfl
@[simp] theorem memPut_pageErrs (a : Nat) (bs : List Byte) : (memPut s a bs).pageErrs = s.pageErrs := rfl
@[simp] theorem memPut_pagesDue (a : Nat) (bs : List Byte) : (memPut s a bs).pagesDue = s.pagesDue := rfl
@[simp] theorem memPut_sluiceCvu (a : Nat) (bs : List Byte) : (memPut s a bs).sluiceCvu = s.sluiceCvu := rfl
@[simp] theorem memPut_sites (a : Nat) (bs : List Byte) : (memPut s a bs).sites = s.sites := rfl
@[simp] theorem memPut_ports (a : Nat) (bs : List Byte) : (memPut s a bs).ports = s.ports := rfl
@[simp] theorem memPut_counters (a : Nat) (bs : List Byte) : (memPut s a bs).counters = s.counters := rfl
@[simp] theorem memPut_chains (a : Nat) (bs : List Byte) : (memPut s a bs).chains = s.chains := rfl
@[simp] theorem memPut_power (a : Nat) (bs : List Byte) : (memPut s a bs).power = s.power := rfl
@[simp] theorem memPut_pending (a : Nat) (bs : List Byte) : (memPut s a bs).pending = s.pending := rfl
@[simp] theorem polder_memPut (a : Nat) (bs : List Byte) (x : Fin 4) : polder (memPut s a bs) x = polder s x := rfl
@[simp] theorem func_memPut (a : Nat) (bs : List Byte) (x : Fin 5) : func (memPut s a bs) x = func s x := rfl
@[simp] theorem cluster_memPut (a : Nat) (bs : List Byte) (x : Fin 256) : cluster (memPut s a bs) x = cluster s x := rfl
@[simp] theorem ve_memPut (a : Nat) (bs : List Byte) (x : Fin 256) : ve (memPut s a bs) x = ve s x := rfl
@[simp] theorem port_memPut (a : Nat) (bs : List Byte) (x : Fin 6) : port (memPut s a bs) x = port s x := rfl
@[simp] theorem site_memPut (a : Nat) (bs : List Byte) (x : Fin 32) : site (memPut s a bs) x = site s x := rfl
@[simp] theorem chain_memPut (a : Nat) (bs : List Byte) (x : Fin 5) : chain (memPut s a bs) x = chain s x := rfl
@[simp] theorem queue_memPut (a : Nat) (bs : List Byte) (x : Fin 4) (y : Fin 16) : queue (memPut s a bs) x y = queue s x y := rfl
@[simp] theorem cmdAt_memPut (a : Nat) (bs : List Byte) (x : Fin 4) (y : Fin 16) (z : Word) : cmdAt (memPut s a bs) x y z = cmdAt s x y z := rfl

/-! ## hostWrite -/

@[simp] theorem hostWrite_boot (a : Nat) (bs : List Byte) : (hostWrite s a bs).boot = s.boot := rfl
@[simp] theorem hostWrite_perst (a : Nat) (bs : List Byte) : (hostWrite s a bs).perst = s.perst := rfl
@[simp] theorem hostWrite_pwrbrk (a : Nat) (bs : List Byte) : (hostWrite s a bs).pwrbrk = s.pwrbrk := rfl
@[simp] theorem hostWrite_thermtrip (a : Nat) (bs : List Byte) : (hostWrite s a bs).thermtrip = s.thermtrip := rfl
@[simp] theorem hostWrite_modPwrgd (a : Nat) (bs : List Byte) : (hostWrite s a bs).modPwrgd = s.modPwrgd := rfl
@[simp] theorem hostWrite_smbAlert (a : Nat) (bs : List Byte) : (hostWrite s a bs).smbAlert = s.smbAlert := rfl
@[simp] theorem hostWrite_alert (a : Nat) (bs : List Byte) : (hostWrite s a bs).alert = s.alert := rfl
@[simp] theorem hostWrite_lastReset (a : Nat) (bs : List Byte) : (hostWrite s a bs).lastReset = s.lastReset := rfl
@[simp] theorem hostWrite_hostRate (a : Nat) (bs : List Byte) : (hostWrite s a bs).hostRate = s.hostRate := rfl
@[simp] theorem hostWrite_hostWidth (a : Nat) (bs : List Byte) : (hostWrite s a bs).hostWidth = s.hostWidth := rfl
@[simp] theorem hostWrite_bootFlags (a : Nat) (bs : List Byte) : (hostWrite s a bs).bootFlags = s.bootFlags := rfl
@[simp] theorem hostWrite_slotGen (a : Nat) (bs : List Byte) : (hostWrite s a bs).slotGen = s.slotGen := rfl
@[simp] theorem hostWrite_slotUsed (a : Nat) (bs : List Byte) : (hostWrite s a bs).slotUsed = s.slotUsed := rfl
@[simp] theorem hostWrite_slotDue (a : Nat) (bs : List Byte) : (hostWrite s a bs).slotDue = s.slotDue := rfl
@[simp] theorem hostWrite_selfTest (a : Nat) (bs : List Byte) : (hostWrite s a bs).selfTest = s.selfTest := rfl
@[simp] theorem hostWrite_plan (a : Nat) (bs : List Byte) : (hostWrite s a bs).plan = s.plan := rfl
@[simp] theorem hostWrite_releaseTime (a : Nat) (bs : List Byte) : (hostWrite s a bs).releaseTime = s.releaseTime := rfl
@[simp] theorem hostWrite_localCount (a : Nat) (bs : List Byte) : (hostWrite s a bs).localCount = s.localCount := rfl
@[simp] theorem hostWrite_correction (a : Nat) (bs : List Byte) : (hostWrite s a bs).correction = s.correction := rfl
@[simp] theorem hostWrite_slew (a : Nat) (bs : List Byte) : (hostWrite s a bs).slew = s.slew := rfl
@[simp] theorem hostWrite_bootNonce (a : Nat) (bs : List Byte) : (hostWrite s a bs).bootNonce = s.bootNonce := rfl
@[simp] theorem hostWrite_draws (a : Nat) (bs : List Byte) : (hostWrite s a bs).draws = s.draws := rfl
@[simp] theorem hostWrite_lastRead (a : Nat) (bs : List Byte) : (hostWrite s a bs).lastRead = s.lastRead := rfl
@[simp] theorem hostWrite_fuses (a : Nat) (bs : List Byte) : (hostWrite s a bs).fuses = s.fuses := rfl
@[simp] theorem hostWrite_flash (a : Nat) (bs : List Byte) : (hostWrite s a bs).flash = s.flash := rfl
@[simp] theorem hostWrite_fw (a : Nat) (bs : List Byte) : (hostWrite s a bs).fw = s.fw := rfl
@[simp] theorem hostWrite_fwVersion (a : Nat) (bs : List Byte) : (hostWrite s a bs).fwVersion = s.fwVersion := rfl
@[simp] theorem hostWrite_fwSecurity (a : Nat) (bs : List Byte) : (hostWrite s a bs).fwSecurity = s.fwSecurity := rfl
@[simp] theorem hostWrite_romDigest (a : Nat) (bs : List Byte) : (hostWrite s a bs).romDigest = s.romDigest := rfl
@[simp] theorem hostWrite_fwDigest (a : Nat) (bs : List Byte) : (hostWrite s a bs).fwDigest = s.fwDigest := rfl
@[simp] theorem hostWrite_cfgDigest (a : Nat) (bs : List Byte) : (hostWrite s a bs).cfgDigest = s.cfgDigest := rfl
@[simp] theorem hostWrite_layout (a : Nat) (bs : List Byte) : (hostWrite s a bs).layout = s.layout := rfl
@[simp] theorem hostWrite_numVfs (a : Nat) (bs : List Byte) : (hostWrite s a bs).numVfs = s.numVfs := rfl
@[simp] theorem hostWrite_vfEnable (a : Nat) (bs : List Byte) : (hostWrite s a bs).vfEnable = s.vfEnable := rfl
@[simp] theorem hostWrite_softRemaps (a : Nat) (bs : List Byte) : (hostWrite s a bs).softRemaps = s.softRemaps := rfl
@[simp] theorem hostWrite_trims (a : Nat) (bs : List Byte) : (hostWrite s a bs).trims = s.trims := rfl
@[simp] theorem hostWrite_history (a : Nat) (bs : List Byte) : (hostWrite s a bs).history = s.history := rfl
@[simp] theorem hostWrite_failedDies (a : Nat) (bs : List Byte) : (hostWrite s a bs).failedDies = s.failedDies := rfl
@[simp] theorem hostWrite_marginDies (a : Nat) (bs : List Byte) : (hostWrite s a bs).marginDies = s.marginDies := rfl
@[simp] theorem hostWrite_clean (a : Nat) (bs : List Byte) : (hostWrite s a bs).clean = s.clean := rfl
@[simp] theorem hostWrite_repairs (a : Nat) (bs : List Byte) : (hostWrite s a bs).repairs = s.repairs := rfl
@[simp] theorem hostWrite_lastRepair (a : Nat) (bs : List Byte) : (hostWrite s a bs).lastRepair = s.lastRepair := rfl
@[simp] theorem hostWrite_reports (a : Nat) (bs : List Byte) : (hostWrite s a bs).reports = s.reports := rfl
@[simp] theorem hostWrite_corrected (a : Nat) (bs : List Byte) : (hostWrite s a bs).corrected = s.corrected := rfl
@[simp] theorem hostWrite_dispatchCores (a : Nat) (bs : List Byte) : (hostWrite s a bs).dispatchCores = s.dispatchCores := rfl
@[simp] theorem hostWrite_mgmtCores (a : Nat) (bs : List Byte) : (hostWrite s a bs).mgmtCores = s.mgmtCores := rfl
@[simp] theorem hostWrite_coresLost (a : Nat) (bs : List Byte) : (hostWrite s a bs).coresLost = s.coresLost := rfl
@[simp] theorem hostWrite_identity (a : Nat) (bs : List Byte) : (hostWrite s a bs).identity = s.identity := rfl
@[simp] theorem hostWrite_meterKey (a : Nat) (bs : List Byte) : (hostWrite s a bs).meterKey = s.meterKey := rfl
@[simp] theorem hostWrite_challenge (a : Nat) (bs : List Byte) : (hostWrite s a bs).challenge = s.challenge := rfl
@[simp] theorem hostWrite_attestSeq (a : Nat) (bs : List Byte) : (hostWrite s a bs).attestSeq = s.attestSeq := rfl
@[simp] theorem hostWrite_funcs (a : Nat) (bs : List Byte) : (hostWrite s a bs).funcs = s.funcs := rfl
@[simp] theorem hostWrite_cvus (a : Nat) (bs : List Byte) : (hostWrite s a bs).cvus = s.cvus := rfl
@[simp] theorem hostWrite_polders (a : Nat) (bs : List Byte) : (hostWrite s a bs).polders = s.polders := rfl
@[simp] theorem hostWrite_clusters (a : Nat) (bs : List Byte) : (hostWrite s a bs).clusters = s.clusters := rfl
@[simp] theorem hostWrite_mem (a : Nat) (bs : List Byte) : (hostWrite s a bs).mem = s.mem := rfl
@[simp] theorem hostWrite_undef (a : Nat) (bs : List Byte) : (hostWrite s a bs).undef = s.undef := rfl
@[simp] theorem hostWrite_watch (a : Nat) (bs : List Byte) : (hostWrite s a bs).watch = s.watch := rfl
@[simp] theorem hostWrite_msix (a : Nat) (bs : List Byte) : (hostWrite s a bs).msix = s.msix := rfl
@[simp] theorem hostWrite_poison (a : Nat) (bs : List Byte) : (hostWrite s a bs).poison = s.poison := rfl
@[simp] theorem hostWrite_pageErrs (a : Nat) (bs : List Byte) : (hostWrite s a bs).pageErrs = s.pageErrs := rfl
@[simp] theorem hostWrite_pagesDue (a : Nat) (bs : List Byte) : (hostWrite s a bs).pagesDue = s.pagesDue := rfl
@[simp] theorem hostWrite_sluiceCvu (a : Nat) (bs : List Byte) : (hostWrite s a bs).sluiceCvu = s.sluiceCvu := rfl
@[simp] theorem hostWrite_sites (a : Nat) (bs : List Byte) : (hostWrite s a bs).sites = s.sites := rfl
@[simp] theorem hostWrite_ports (a : Nat) (bs : List Byte) : (hostWrite s a bs).ports = s.ports := rfl
@[simp] theorem hostWrite_counters (a : Nat) (bs : List Byte) : (hostWrite s a bs).counters = s.counters := rfl
@[simp] theorem hostWrite_chains (a : Nat) (bs : List Byte) : (hostWrite s a bs).chains = s.chains := rfl
@[simp] theorem hostWrite_power (a : Nat) (bs : List Byte) : (hostWrite s a bs).power = s.power := rfl
@[simp] theorem hostWrite_pending (a : Nat) (bs : List Byte) : (hostWrite s a bs).pending = s.pending := rfl
@[simp] theorem polder_hostWrite (a : Nat) (bs : List Byte) (x : Fin 4) : polder (hostWrite s a bs) x = polder s x := rfl
@[simp] theorem func_hostWrite (a : Nat) (bs : List Byte) (x : Fin 5) : func (hostWrite s a bs) x = func s x := rfl
@[simp] theorem cluster_hostWrite (a : Nat) (bs : List Byte) (x : Fin 256) : cluster (hostWrite s a bs) x = cluster s x := rfl
@[simp] theorem ve_hostWrite (a : Nat) (bs : List Byte) (x : Fin 256) : ve (hostWrite s a bs) x = ve s x := rfl
@[simp] theorem port_hostWrite (a : Nat) (bs : List Byte) (x : Fin 6) : port (hostWrite s a bs) x = port s x := rfl
@[simp] theorem site_hostWrite (a : Nat) (bs : List Byte) (x : Fin 32) : site (hostWrite s a bs) x = site s x := rfl
@[simp] theorem chain_hostWrite (a : Nat) (bs : List Byte) (x : Fin 5) : chain (hostWrite s a bs) x = chain s x := rfl
@[simp] theorem queue_hostWrite (a : Nat) (bs : List Byte) (x : Fin 4) (y : Fin 16) : queue (hostWrite s a bs) x y = queue s x y := rfl
@[simp] theorem cmdAt_hostWrite (a : Nat) (bs : List Byte) (x : Fin 4) (y : Fin 16) (z : Word) : cmdAt (hostWrite s a bs) x y z = cmdAt s x y z := rfl

/-! ## The unit an update acts on -/

theorem polder_modPolder (p x : Fin 4) (f : Polder → Polder) :
    polder (modPolder s p f) x = if x = p then f (polder s p) else polder s x := get_vmod ..
@[simp] theorem polder_modPolder_self (p : Fin 4) (f : Polder → Polder) : polder (modPolder s p f) p = f (polder s p) :=
  get_vmod_self ..
theorem func_modFunc (i x : Fin 5) (f : Func → Func) :
    func (modFunc s i f) x = if x = i then f (func s i) else func s x := get_vmod ..
@[simp] theorem func_modFunc_self (i : Fin 5) (f : Func → Func) : func (modFunc s i f) i = f (func s i) :=
  get_vmod_self ..
theorem cluster_modCluster (c x : Fin 256) (f : Cluster → Cluster) :
    cluster (modCluster s c f) x = if x = c then f (cluster s c) else cluster s x := get_vmod ..
@[simp] theorem cluster_modCluster_self (c : Fin 256) (f : Cluster → Cluster) :
    cluster (modCluster s c f) c = f (cluster s c) := get_vmod_self ..
theorem port_modPort (j x : Fin 6) (f : Port → Port) :
    port (modPort s j f) x = if x = j then f (port s j) else port s x := get_vmod ..
@[simp] theorem port_modPort_self (j : Fin 6) (f : Port → Port) : port (modPort s j f) j = f (port s j) :=
  get_vmod_self ..
theorem site_modSite (m x : Fin 32) (f : Site → Site) :
    site (modSite s m f) x = if x = m then f (site s m) else site s x := get_vmod ..
@[simp] theorem site_modSite_self (m : Fin 32) (f : Site → Site) : site (modSite s m f) m = f (site s m) :=
  get_vmod_self ..
theorem chain_modChain (i x : Fin 5) (f : Chain → Chain) :
    chain (modChain s i f) x = if x = i then f (chain s i) else chain s x := get_vmod ..
@[simp] theorem chain_modChain_self (i : Fin 5) (f : Chain → Chain) : chain (modChain s i f) i = f (chain s i) :=
  get_vmod_self ..
theorem cvus_modCvu (u x : Fin 4) (f : Cvu → Cvu) :
    (modCvu s u f).cvus.get x = if x = u then f (s.cvus.get u) else s.cvus.get x := get_vmod ..
@[simp] theorem cvus_modCvu_self (u : Fin 4) (f : Cvu → Cvu) : (modCvu s u f).cvus.get u = f (s.cvus.get u) :=
  get_vmod_self ..
theorem ve_modVe (c x : Fin 256) (f : Ve → Ve) : ve (modVe s c f) x = if x = c then f (ve s c) else ve s x := by
  simp only [ve, modVe, cluster_modCluster]; split <;> simp_all
@[simp] theorem ve_modVe_self (c : Fin 256) (f : Ve → Ve) : ve (modVe s c f) c = f (ve s c) := by simp [ve_modVe]
theorem queue_modQueue (p x : Fin 4) (q y : Fin 16) (f : Queue → Queue) :
    queue (modQueue s p q f) x y = if x = p ∧ y = q then f (queue s p q) else queue s x y := by
  simp only [queue, modQueue, polder_modPolder]
  by_cases h : x = p
  · subst h; by_cases hy : y = q <;> simp [get_vmod, hy]
  · simp [h]
@[simp] theorem queue_modQueue_self (p : Fin 4) (q : Fin 16) (f : Queue → Queue) :
    queue (modQueue s p q f) p q = f (queue s p q) := by simp [queue_modQueue]

@[simp] theorem mem_memPut (a : Nat) (bs : List Byte) : (memPut s a bs).mem = tabSplice 0 s.mem a bs := rfl
@[simp] theorem hostMem_hostWrite (a : Nat) (bs : List Byte) :
    (hostWrite s a bs).hostMem = tabSplice 0 s.hostMem a bs := rfl
@[simp] theorem undef_memPut (a : Nat) (bs : List Byte) :
    (memPut s a bs).undef = cutStale s.undef a (a + bs.length) := rfl
@[simp] theorem draws_skipDraws (n : Nat) : (skipDraws s n).draws = s.draws + n := rfl
@[simp] theorem draws_nextDraw : (nextDraw s).draws = s.draws + 1 := rfl

end Sys2Proof.Machine
end

