-- ==== Sys2Proof/Laws/Table.lean ====
section
/-! SUPPORT. What a splice, an erase and a read do to a sparse table and to its undefined parts: the canonical form is
kept, a read after a write gives the value written, every other key reads as before. -/

namespace Sys2Proof.Machine

variable {α : Type} [DecidableEq α] {d : α}

theorem mem_tabRow (k : Nat) (vs : List α) (c : Nat × α) (h : c ∈ tabRow d k vs) :
    k ≤ c.1 ∧ c.1 < k + vs.length ∧ c.2 ≠ d := by
  induction vs generalizing k with
  | nil => simp [tabRow] at h
  | cons v vs ih =>
    simp only [tabRow] at h
    split at h
    · have := ih (k + 1) h
      simp only [List.length_cons]; exact ⟨by omega, by omega, this.2.2⟩
    · rcases List.mem_cons.1 h with rfl | h
      · simpa using ‹¬ v = d›
      · have := ih (k + 1) h
        simp only [List.length_cons]; exact ⟨by omega, by omega, this.2.2⟩

theorem tabRow_pairwise (k : Nat) (vs : List α) : (tabRow d k vs).Pairwise fun a b => a.1 < b.1 := by
  induction vs generalizing k with
  | nil => simp [tabRow]
  | cons v vs ih =>
    simp only [tabRow]
    split
    · exact ih _
    · refine List.Pairwise.cons (fun c hc => ?_) (ih _)
      have := mem_tabRow _ _ _ hc; omega

theorem tabSplice_wf {t : Tab α} (h : Table.wf d t) (k : Nat) (vs : List α) : Table.wf d (tabSplice d t k vs) := by
  obtain ⟨hp, hd⟩ := h
  refine ⟨?_, ?_⟩
  · simp only [tabSplice]
    refine List.pairwise_append.2 ⟨hp.filter _, List.pairwise_append.2 ⟨tabRow_pairwise _ _, hp.filter _, ?_⟩, ?_⟩
    · intro a ha b hb
      have := mem_tabRow _ _ _ ha
      simp only [List.mem_filter, decide_eq_true_eq] at hb; omega
    · intro a ha b hb
      simp only [List.mem_filter, decide_eq_true_eq] at ha
      rcases List.mem_append.1 hb with hb | hb
      · have := mem_tabRow _ _ _ hb; omega
      · simp only [List.mem_filter, decide_eq_true_eq] at hb; omega
  · intro c hc
    simp only [tabSplice, List.mem_append, List.mem_filter] at hc
    rcases hc with hc | hc | hc
    · exact hd c hc.1
    · exact (mem_tabRow _ _ _ hc).2.2
    · exact hd c hc.1

theorem tabErase_wf {t : Tab α} (h : Table.wf d t) (lo hi : Nat) : Table.wf d (tabErase t lo hi) :=
  ⟨h.1.filter _, fun c hc => h.2 c (List.mem_filter.1 hc).1⟩

theorem tabSet_wf {t : Tab α} (h : Table.wf d t) (k : Nat) (v : α) : Table.wf d (tabSet d t k v) := tabSplice_wf h k [v]

omit [DecidableEq α] in
/-- What is kept of a key in a part of a table. -/
theorem tabGet_append (t u : Tab α) (k : Nat) :
    tabGet d (t ++ u) k = if t.any (fun c => c.1 == k) then tabGet d t k else tabGet d u k := by
  simp only [tabGet, List.find?_append]
  induction t with
  | nil => simp
  | cons c t ih =>
    by_cases hc : (c.1 == k) = true
    · simp [hc]
    · simp only [List.find?_cons, hc, List.any_cons, Bool.false_or]; exact ih

omit [DecidableEq α] in
theorem tabGet_filter (t : Tab α) (f : Nat → Bool) (k : Nat) :
    tabGet d (t.filter fun c => f c.1) k = if f k then tabGet d t k else d := by
  induction t with
  | nil => simp [tabGet]
  | cons c t ih =>
    simp only [tabGet] at ih ⊢
    by_cases hk : c.1 = k
    · by_cases hf : f k = true
      · simp [hk, hf]
      · simp only [List.filter_cons, hk, hf]; simpa [hf] using ih
    · rw [List.find?_cons_of_neg (by simpa using hk), ← ih, List.filter_cons]
      by_cases hf : f c.1 = true
      · rw [if_pos hf, List.find?_cons_of_neg (by simpa using hk)]
      · rw [if_neg hf]

omit [DecidableEq α] in
theorem tabGet_none {t : Tab α} {k : Nat} (h : ∀ c ∈ t, c.1 ≠ k) : tabGet d t k = d := by
  simp only [tabGet]
  rw [List.find?_eq_none.2 (fun c hc => by simpa using h c hc)]

theorem tabGet_tabRow (k : Nat) (vs : List α) (a : Nat) :
    tabGet d (tabRow d k vs) a = if k ≤ a then vs.getD (a - k) d else d := by
  induction vs generalizing k with
  | nil => simp [tabRow, tabGet]
  | cons v vs ih =>
    simp only [tabRow]
    by_cases hak : a = k
    · subst hak
      split
      · next hv => rw [ih]; simp [hv]
      · simp [tabGet]
    · have hka : ¬ k = a := fun h => hak h.symm
      have key : (if k + 1 ≤ a then vs.getD (a - (k + 1)) d else d) = if k ≤ a then (v :: vs).getD (a - k) d else d := by
        by_cases hle : k ≤ a
        · have h1 : k + 1 ≤ a := by omega
          obtain ⟨m, rfl⟩ : ∃ m, a = k + 1 + m := ⟨a - (k + 1), by omega⟩
          simp [h1, hle, show k + 1 + m - k = m + 1 by omega]
        · simp [hle, show ¬ k + 1 ≤ a by omega]
      split
      · rw [ih, key]
      · have : tabGet d ((k, v) :: tabRow d (k + 1) vs) a = tabGet d (tabRow d (k + 1) vs) a := by simp [tabGet, hka]
        rw [this, ih, key]

/-- A read after a write: inside the written keys the value written, elsewhere what was there. -/
theorem tabGet_tabSplice (t : Tab α) (k : Nat) (vs : List α) (a : Nat) :
    tabGet d (tabSplice d t k vs) a = if k ≤ a ∧ a < k + vs.length then vs.getD (a - k) d else tabGet d t a := by
  simp only [tabSplice, tabGet_append, tabGet_filter t (fun i => decide (i < k)),
    tabGet_filter t (fun i => decide (k + vs.length ≤ i)), tabGet_tabRow]
  by_cases h1 : a < k
  · by_cases hany : (t.filter fun c => decide (c.1 < k)).any (fun c => c.1 == a) = true
    · simp [hany, h1, show ¬ k ≤ a by omega]
    · have hn : tabGet d t a = d := by
        refine tabGet_none fun c hc hca => hany ?_
        simp only [List.any_eq_true, List.mem_filter, decide_eq_true_eq, beq_iff_eq]
        exact ⟨c, ⟨hc, by omega⟩, hca⟩
      have hrow : (tabRow d k vs).any (fun c => c.1 == a) = false := by
        simp only [List.any_eq_false, beq_iff_eq]
        intro c hc hca; have := mem_tabRow _ _ _ hc; omega
      simp [hany, hrow, hn, show ¬ k ≤ a by omega, show ¬ k + vs.length ≤ a by omega]
  · have hany : (t.filter fun c => decide (c.1 < k)).any (fun c => c.1 == a) = false := by
      simp only [List.any_eq_false, List.mem_filter, decide_eq_true_eq, beq_iff_eq]
      intro c hc hca; omega
    simp only [hany, Bool.false_eq_true, if_false]
    by_cases h2 : k + vs.length ≤ a
    · have hrow : (tabRow d k vs).any (fun c => c.1 == a) = false := by
        simp only [List.any_eq_false, beq_iff_eq]
        intro c hc hca; have := mem_tabRow _ _ _ hc; omega
      simp [hrow, h2, show ¬ (k ≤ a ∧ a < k + vs.length) by omega]
    · have hin : k ≤ a ∧ a < k + vs.length := by omega
      simp only [hin, and_self, if_true, h2, decide_false, Bool.false_eq_true, if_false]
      split
      · rfl
      · next hrow =>
        by_contra hne
        have hget : tabGet d (tabRow d k vs) a = vs.getD (a - k) d := by simp [tabGet_tabRow, hin.1]
        have : tabGet d (tabRow d k vs) a = d := by
          refine tabGet_none fun c hc hca => hrow ?_
          simp only [List.any_eq_true, beq_iff_eq]
          exact ⟨c, hc, hca⟩
        exact hne (this.symm.trans hget)

theorem tabGet_tabSet (t : Tab α) (k : Nat) (v : α) (a : Nat) :
    tabGet d (tabSet d t k v) a = if a = k then v else tabGet d t a := by
  simp only [tabSet, tabGet_tabSplice, List.length_cons, List.length_nil]
  by_cases h : a = k
  · simp [h]
  · simp only [h, if_false]
    rw [if_neg (by simp; omega)]

omit [DecidableEq α] in
/-- An erase: the range reads as the default, everything else as before. -/
theorem tabGet_tabErase (t : Tab α) (lo hi a : Nat) :
    tabGet d (tabErase t lo hi) a = if lo ≤ a ∧ a < hi then d else tabGet d t a := by
  simp only [tabErase, tabGet_filter t (fun i => decide (i < lo) || decide (hi ≤ i))]
  by_cases h : lo ≤ a ∧ a < hi
  · simp [h, show ¬ a < lo by omega, show ¬ hi ≤ a by omega]
  · have : a < lo ∨ hi ≤ a := by omega
    simp [h, this]

/-- Splicing in exactly what is read back: the bytes of a range after a write of that range. -/
theorem tabBytes_tabSplice (t : Tab Byte) (a : Nat) (bs : List Byte) : tabBytes (tabSplice 0 t a bs) a bs.length = bs := by
  apply List.ext_getElem
  · simp [tabBytes]
  · intro i h1 h2
    simp only [tabBytes, List.getElem_map, List.getElem_range, tabGet_tabSplice]
    simp [h2]


/-! ## Undefined parts -/

variable {u : List (Nat × Nat × Nat)}

theorem mem_cutStale {a b : Nat} (h : a < b) {r : Nat × Nat × Nat} (hr : r ∈ cutStale u a b) :
    ∃ r₀ ∈ u, r₀.1 ≤ r.1 ∧ r.2.1 ≤ r₀.2.1 ∧ r.1 < r.2.1 ∧ (r.2.1 ≤ a ∨ b ≤ r.1) := by
  simp only [cutStale, if_neg (Nat.not_le.2 h), List.mem_flatMap] at hr
  obtain ⟨r₀, h₀, hr⟩ := hr
  refine ⟨r₀, h₀, ?_⟩
  simp only [List.mem_filter, List.mem_cons, List.not_mem_nil, or_false, decide_eq_true_eq] at hr
  obtain ⟨rfl | rfl, h⟩ := hr <;> dsimp only at h ⊢ <;> omega

theorem cutStale_pairwise (h : u.Pairwise fun a b => a.2.1 ≤ b.1) (a b : Nat) :
    (cutStale u a b).Pairwise fun a b => a.2.1 ≤ b.1 := by
  unfold cutStale
  split
  · exact h
  next hab =>
    refine List.pairwise_flatMap.2 ⟨fun r _ => .filter _ ?_, h.imp fun {x y} hxy => ?_⟩
    · simp only [List.pairwise_cons, List.mem_singleton, forall_eq, List.not_mem_nil, false_implies, implies_true,
        List.Pairwise.nil, and_true]
      omega
    · simp only [List.mem_filter, List.mem_cons, List.not_mem_nil, or_false, decide_eq_true_eq]
      rintro _ ⟨rfl | rfl, hx⟩ _ ⟨rfl | rfl, hy⟩ <;> dsimp only at hx hy ⊢ <;> omega

theorem cutStale_nonempty (h : ∀ r ∈ u, r.1 < r.2.1) (a b : Nat) : ∀ r ∈ cutStale u a b, r.1 < r.2.1 := fun r hr => by
  by_cases hab : a < b
  · obtain ⟨_, _, _, _, h, _⟩ := mem_cutStale hab hr; exact h
  · rw [cutStale, if_pos (Nat.not_lt.1 hab)] at hr; exact h r hr

/-- A piece of what was undefined before. -/
theorem cutStale_inside {a b : Nat} {r : Nat × Nat × Nat} (hr : r ∈ cutStale u a b) :
    ∃ r₀ ∈ u, r₀.1 ≤ r.1 ∧ r.2.1 ≤ r₀.2.1 := by
  by_cases hab : a < b
  · obtain ⟨r₀, h, h1, h2, _⟩ := mem_cutStale hab hr; exact ⟨r₀, h, h1, h2⟩
  · rw [cutStale, if_pos (Nat.not_lt.1 hab)] at hr; exact ⟨r, hr, Nat.le_refl _, Nat.le_refl _⟩

theorem mem_tabSplice {α : Type} [DecidableEq α] {d : α} {t : Tab α} {k : Nat} {vs : List α} {c : Nat × α}
    (h : c ∈ tabSplice d t k vs) : (c ∈ t ∧ (c.1 < k ∨ k + vs.length ≤ c.1)) ∨ (k ≤ c.1 ∧ c.1 < k + vs.length) := by
  simp only [tabSplice, List.mem_append, List.mem_filter, decide_eq_true_eq] at h
  rcases h with h | h | h
  · exact .inl ⟨h.1, .inl h.2⟩
  · exact .inr ⟨(mem_tabRow _ _ _ h).1, (mem_tabRow _ _ _ h).2.1⟩
  · exact .inl ⟨h.1, .inr h.2⟩

/-- A write keeps the canonical form of the undefined parts. -/
theorem splice_stale {t : Tab Byte} (h : Stale.wf t u) (a : Nat) (bs : List Byte) :
    Stale.wf (tabSplice 0 t a bs) (cutStale u a (a + bs.length)) := by
  refine ⟨cutStale_pairwise h.1 .., cutStale_nonempty h.2.1 _ _, fun c hc r hr => ?_⟩
  rcases mem_tabSplice hc with ⟨hc, _⟩ | hc
  · obtain ⟨r₀, h₀, h1, h2⟩ := cutStale_inside hr
    rcases h.2.2 c hc r₀ h₀ with h | h <;> omega
  · obtain ⟨_, _, _, _, _, h⟩ := mem_cutStale (by omega) hr
    omega

/-- So does an erase. -/
theorem erase_stale {t : Tab Byte} (h : Stale.wf t u) (a b : Nat) : Stale.wf (tabErase t a b) (cutStale u a b) := by
  refine ⟨cutStale_pairwise h.1 .., cutStale_nonempty h.2.1 _ _, fun c hc r hr => ?_⟩
  obtain ⟨r₀, h₀, h1, h2⟩ := cutStale_inside hr
  rcases h.2.2 c (List.mem_filter.1 hc).1 r₀ h₀ with h | h <;> omega

/-- And leaving a range undefined. -/
theorem add_stale {t : Tab Byte} (h : Stale.wf t u) (a b n : Nat) :
    Stale.wf (tabErase t a b) (addStale u a b n) := by
  unfold addStale
  split
  next hb =>
    refine ⟨h.1, h.2.1, fun c hc => h.2.2 c (List.mem_filter.1 hc).1⟩
  next hb =>
    have hab : a < b := by omega
    obtain ⟨k1, k2, k3⟩ := erase_stale h a b
    have hc : ∀ r ∈ cutStale u a b, r.2.1 ≤ a ∨ b ≤ r.1 := fun r hr => by
      obtain ⟨_, _, _, _, _, h⟩ := mem_cutStale hab hr; exact h
    dsimp only
    refine ⟨List.pairwise_append.2 ⟨k1.filter _, List.Pairwise.cons ?_ (k1.filter _), ?_⟩, ?_, ?_⟩
    · intro r hr
      simp only [List.mem_filter, decide_eq_true_eq] at hr
      have := hc r hr.1; have := k2 r hr.1; dsimp only; omega
    · intro r hr x hx
      simp only [List.mem_filter, decide_eq_true_eq, List.mem_cons] at hr hx
      have h1 := hc r hr.1; have h2 := k2 r hr.1
      rcases hx with rfl | hx
      · dsimp only; omega
      · omega
    · intro r hr
      simp only [List.mem_append, List.mem_cons, List.mem_filter] at hr
      rcases hr with hr | rfl | hr
      · exact k2 r hr.1
      · exact hab
      · exact k2 r hr.1
    · intro c hm r hr
      simp only [List.mem_append, List.mem_cons, List.mem_filter] at hr
      rcases hr with hr | rfl | hr
      · exact k3 c hm r hr.1
      · have := (List.mem_filter.1 hm).2
        simp only [Bool.or_eq_true, decide_eq_true_eq] at this; exact this
      · exact k3 c hm r hr.1

/-- Does the undefined part cover the address? -/
abbrev covers (x : Nat) (r : Nat × Nat × Nat) : Bool := decide (r.1 ≤ x) && decide (x < r.2.1)

theorem staleByte_covers (t : Tab Byte) (x : Nat) :
    staleByte t u x = match (u.find? (covers x)).map (·.2.2) with
      | some n => Config.freeByte n x
      | none => tabGet 0 t x := by
  simp only [staleByte, covers]; cases u.find? _ <;> rfl

theorem find_piece (lo hi n x : Nat) :
    ([(lo, hi, n)].filter fun y : Nat × Nat × Nat => decide (y.1 < y.2.1)).find? (covers x) =
      if lo ≤ x ∧ x < hi then some (lo, hi, n) else none := by
  by_cases h : lo < hi
  · by_cases k : lo ≤ x ∧ x < hi <;> simp [h, covers, k]
  · rw [if_neg (by omega)]; simp [h]

theorem find_cutStale (a b x : Nat) : ((cutStale u a b).find? (covers x)).map (·.2.2) =
    if a ≤ x ∧ x < b then none else (u.find? (covers x)).map (·.2.2) := by
  unfold cutStale
  split
  next h => rw [if_neg (by omega)]
  next h =>
    induction u with
    | nil => simp
    | cons r u ih =>
      obtain ⟨r1, r2, n⟩ := r
      rw [List.flatMap_cons, List.find?_append, List.find?_cons]
      rw [show [(r1, min r2 a, n), (max r1 b, r2, n)] = [(r1, min r2 a, n)] ++ [(max r1 b, r2, n)] from rfl,
        List.filter_append, List.find?_append, find_piece, find_piece]
      by_cases h1 : r1 ≤ x ∧ x < r2
      · by_cases h2 : x < a
        · rw [if_pos (by omega), if_neg (by omega)]; simp [covers, h1]; omega
        · by_cases h3 : b ≤ x
          · rw [if_neg (by omega), if_pos (by omega), if_neg (by omega)]; simp [covers, h1]
          · rw [if_neg (by omega), if_neg (by omega), if_pos (by omega)]
            simp only [Option.none_or]; rw [ih, if_pos (by omega)]
      · rw [if_neg (by omega), if_neg (by omega)]
        have : covers x (r1, r2, n) = false := by simp only [covers, Bool.and_eq_false_iff, decide_eq_false_iff_not]; omega
        simpa only [this, Option.none_or] using ih

/-- A byte after a write: the byte written, every other as before. -/
theorem staleByte_splice (t : Tab Byte) (a : Nat) (bs : List Byte) (x : Nat) :
    staleByte (tabSplice 0 t a bs) (cutStale u a (a + bs.length)) x =
      if a ≤ x ∧ x < a + bs.length then bs.getD (x - a) 0 else staleByte t u x := by
  rw [staleByte_covers, find_cutStale, tabGet_tabSplice]
  by_cases h : a ≤ x ∧ x < a + bs.length <;> simp [h, staleByte_covers]

theorem staleByte_erase (t : Tab Byte) (a b x : Nat) :
    staleByte (tabErase t a b) (cutStale u a b) x = if a ≤ x ∧ x < b then 0 else staleByte t u x := by
  rw [staleByte_covers, find_cutStale, tabGet_tabErase]
  by_cases h : a ≤ x ∧ x < b <;> simp [h, staleByte_covers]

theorem staleByte_add (t : Tab Byte) (a b n x : Nat) :
    staleByte (tabErase t a b) (addStale u a b n) x = if a ≤ x ∧ x < b then Config.freeByte n x else staleByte t u x := by
  unfold addStale
  split
  next hb =>
    rw [if_neg (by omega), staleByte_covers, staleByte_covers, tabGet_tabErase, if_neg (by omega)]
  next hb =>
    have hc : ∀ r ∈ cutStale u a b, r.1 < r.2.1 ∧ (r.2.1 ≤ a ∨ b ≤ r.1) := fun r hr => by
      obtain ⟨_, _, _, _, h⟩ := mem_cutStale (by omega) hr; exact h
    have key := find_cutStale (u := u) a b x
    dsimp only
    rw [staleByte_covers, List.find?_append, List.find?_cons, tabGet_tabErase]
    by_cases hx : a ≤ x ∧ x < b
    · have h1 : ((cutStale u a b).filter fun r => decide (r.1 < a)).find? (covers x) = none := by
        simp only [List.find?_eq_none, List.mem_filter, decide_eq_true_eq, covers, Bool.and_eq_true]
        rintro r ⟨hr, hr'⟩ hx'
        have := hc r hr; omega
      simp [h1, covers, hx]
    · rw [if_neg hx] at key
      have h2 : covers x (a, b, n) = false := by
        simp only [covers, Bool.and_eq_false_iff, decide_eq_false_iff_not]; omega
      have h3 : (((cutStale u a b).filter fun r => decide (r.1 < a)).find? (covers x)).or
          (((cutStale u a b).filter fun r => decide (a ≤ r.1)).find? (covers x)) = (cutStale u a b).find? (covers x) := by
        by_cases hl : x < a
        · have : ((cutStale u a b).filter fun r => decide (a ≤ r.1)).find? (covers x) = none := by
            simp only [List.find?_eq_none, List.mem_filter, decide_eq_true_eq, covers, Bool.and_eq_true]; omega
          rw [this, Option.or_none, List.find?_filter]
          congr 1; funext r
          simp only [covers, Bool.decide_and, Bool.decide_eq_true]
          by_cases hr : r.1 ≤ x
          · simp [hr, show r.1 < a by omega]
          · simp [hr]
        · have : ((cutStale u a b).filter fun r => decide (r.1 < a)).find? (covers x) = none := by
            simp only [List.find?_eq_none, List.mem_filter, decide_eq_true_eq, covers, Bool.and_eq_true]
            rintro r ⟨hr, hr'⟩ hx'
            have := hc r hr; omega
          rw [this, Option.none_or]
          refine (List.find?_filter ..).trans (List.find?_congr ?_)
          intro r hr
          have := hc r hr
          by_cases k : covers x r
          · simp only [covers, Bool.and_eq_true, decide_eq_true_eq] at k
            simp [show a ≤ r.1 by omega]
          · simp [k]
      simp only [h2, h3]
      rw [key, staleByte_covers, if_neg hx, if_neg hx]

end Sys2Proof.Machine
end

