-- ==== Sys2Proof/Laws/Memory.lean ====
section
/-! SUPPORT. Every memory operation: it keeps the canonical form, and what reads see after it. -/

namespace Sys2Proof.Machine

variable {s : State}

theorem reset_mem_wf : Memory.wf State.reset.mem ∧ Memory.wf State.reset.hostMem := by decide

theorem reset_undef_wf : Stale.wf State.reset.mem State.reset.undef := by decide

/-! ## Canonical form -/

theorem memPut_wf (h : Memory.wf s.mem) (a : Nat) (bs : List Byte) : Memory.wf (memPut s a bs).mem := tabSplice_wf h ..

theorem memPut_undef (h : Stale.wf s.mem s.undef) (a : Nat) (bs : List Byte) :
    Stale.wf (memPut s a bs).mem (memPut s a bs).undef := splice_stale h ..

theorem hostWrite_wf (h : Memory.wf s.hostMem) (a : Nat) (bs : List Byte) : Memory.wf (hostWrite s a bs).hostMem :=
  tabSplice_wf h ..

theorem eraseRange_wf (h : Memory.wf s.mem) (a n : Nat) : Memory.wf (eraseRange s a n).mem := tabErase_wf h ..

theorem eraseRange_undef (h : Stale.wf s.mem s.undef) (a n : Nat) :
    Stale.wf (eraseRange s a n).mem (eraseRange s a n).undef := erase_stale h ..

theorem spoil_wf (h : Memory.wf s.mem) (a n : Nat) : Memory.wf (spoil s a n).mem := tabErase_wf h ..

theorem spoil_undef (h : Stale.wf s.mem s.undef) (a n : Nat) : Stale.wf (spoil s a n).mem (spoil s a n).undef :=
  add_stale h ..

theorem spoilHost_wf (h : Memory.wf s.hostMem) (a n : Nat) : Memory.wf (spoilHost s a n).hostMem := hostWrite_wf h ..

theorem memWrite_wf (h : Memory.wf s.mem) (a : Nat) (bs : List Byte) : Memory.wf (memWrite s a bs).1.mem := by
  simp only [memWrite]
  split_ifs <;> first | exact h | exact tabSplice_wf h ..

theorem memWrite_undef (h : Stale.wf s.mem s.undef) (a : Nat) (bs : List Byte) :
    Stale.wf (memWrite s a bs).1.mem (memWrite s a bs).1.undef := by
  simp only [memWrite]
  split_ifs <;> first | exact h | exact splice_stale h ..

/-! ## What a read of one byte sees -/

theorem byte_memPut (a : Nat) (bs : List Byte) (x : Nat) :
    memByte (memPut s a bs) x = if a ≤ x ∧ x < a + bs.length then bs.getD (x - a) 0 else memByte s x :=
  staleByte_splice ..

theorem byte_eraseRange (a n x : Nat) :
    memByte (eraseRange s a n) x = if a ≤ x ∧ x < a + n then 0 else memByte s x := staleByte_erase ..

/-- A free value, and nothing else, in a spoilt range. -/
theorem byte_spoil (a n x : Nat) :
    memByte (spoil s a n) x = if a ≤ x ∧ x < a + n then Config.freeByte s.draws x else memByte s x := staleByte_add ..

theorem byte_hostWrite (a : Nat) (bs : List Byte) (x : Nat) :
    tabGet 0 (hostWrite s a bs).hostMem x =
      if a ≤ x ∧ x < a + bs.length then bs.getD (x - a) 0 else tabGet 0 s.hostMem x := tabGet_tabSplice ..

/-- A write, whatever the error state of its granules, touches no byte outside its range (R220, R226). -/
theorem byte_memWrite_outside (a : Nat) (bs : List Byte) {x : Nat} (h : x < a ∨ a + bs.length ≤ x) :
    memByte (memWrite s a bs).1 x = memByte s x := by
  have hg : a ≤ granule a + eccUnit a := by
    simp only [granule, eccUnit]; split <;> omega
  have hh : granule (a + bs.length - 1) ≤ a + bs.length := by
    simp only [granule, eccUnit]; split <;> omega
  simp only [memWrite]
  split_ifs <;> first
    | rfl
    | (rw [byte_memPut, if_neg]
       · rfl
       · simp only [List.length_take, List.length_drop]
         omega)

/-- A write that meets no bad granule stores every byte. -/
theorem memWrite_clean (a : Nat) (bs : List Byte) (h0 : blocked s a bs.length a = false)
    (h1 : blocked s a bs.length (a + bs.length - 1) = false) (hn : bs ≠ []) :
    (memWrite s a bs).1.mem = tabSplice 0 s.mem a bs ∧ (memWrite s a bs).2 = true := by
  simp only [memWrite, h0, h1]
  have hn : ¬ bs.length = 0 := fun h => hn (List.eq_nil_of_length_eq_zero h)
  have hlt : a < a + bs.length := by omega
  simp [hn, hlt, memPut]

end Sys2Proof.Machine
end

