-- ==== Sys2Proof/Laws/Sound.lean ====
section
/-! SUPPORT. `Sound`: what every command does at most (Safety.lean). It chains, and each basic update of the state has
it. The lemmas run forward, from `Sound s₀ s` to `Sound s₀ (f s)`, so that a
proof about a meaning follows its text. -/

namespace Sys2Proof.Machine

theorem Fuses.Later.refl (a : Fuses) : a.Later a :=
  ⟨rfl, rfl, rfl, rfl, rfl, rfl, List.prefix_rfl, Nat.le_refl _, .inl rfl⟩

theorem Fuses.Later.trans {a b c : Fuses} (h : a.Later b) (k : b.Later c) : a.Later c :=
  { serial := k.serial.trans h.serial, fwDigest := k.fwDigest.trans h.fwDigest,
    dbgDigest := k.dbgDigest.trans h.dbgDigest, trims := k.trims.trans h.trims, seed := k.seed.trans h.seed,
    basePlan := k.basePlan.trans h.basePlan, remaps := h.remaps.trans k.remaps, floor := h.floor.trans k.floor,
    lifecycle := k.lifecycle.elim (fun e => e ▸ h.lifecycle) .inr }

theorem Sound.refl (s : State) : Sound s s := ⟨rfl, .refl _, id⟩

theorem Sound.trans {s t u : State} (h : Sound s t) (k : Sound t u) : Sound s u :=
  ⟨k.pending.trans h.pending, h.fuses.trans k.fuses, fun i => k.inv (h.inv i)⟩

variable {s₀ s t : State}

/-- An update of anything but memories, clusters, functions, fuses and the queue. -/
theorem Sound.same (h : Sound s₀ s) (h1 : t.pending = s.pending) (h2 : t.fuses = s.fuses) (h3 : t.mem = s.mem)
    (h4 : t.hostMem = s.hostMem) (h5 : t.clusters = s.clusters) (h6 : t.funcs = s.funcs) (h7 : t.undef = s.undef) :
      Sound s₀ t :=
  h.trans ⟨h1, h2 ▸ .refl _, fun i =>
    { mem := h3 ▸ i.mem, undef := h3 ▸ h7 ▸ i.undef, hostMem := h4 ▸ i.hostMem,
      p0 := by simpa [ve, cluster, h5] using i.p0,
      events := by simpa [func, h6] using i.events }⟩

/-- The same for a state written as a record. -/
theorem Sound.set (h : Sound s₀ s) {x0 x1 x2 x3 x4 x5 x6 x7 x8 x9 x10 x11 x12 x13 x14 x15 x16 x17 x18 x19 x20 x21
    x22 x23 x24 x25 x26 x27 x28 x29 x30 x31 x32 x33 x34 x35 x36 x37 x38 x39 x40 x41 x42 x43 x44 x45 x46 x47 x48 x49
    x50 x51 x52 x53 x54 x55 x56 x57 x58 x59 x60 x61 x62 x63 x64 x65 x66 x67 x68 x69} (h1 : x69 = s.pending) (h2 :
    x23 = s.fuses)
    (h3 : x55 = s.mem) (h4 : x58 = s.hostMem) (h5 : x54 = s.clusters) (h6 : x51 = s.funcs) (h7 : x56 = s.undef) :
    Sound s₀ ⟨x0, x1, x2, x3, x4, x5, x6, x7, x8, x9, x10, x11, x12, x13, x14, x15, x16, x17, x18, x19, x20, x21,
      x22, x23, x24, x25, x26, x27, x28, x29, x30, x31, x32, x33, x34, x35, x36, x37, x38, x39, x40, x41, x42, x43,
      x44, x45, x46, x47, x48, x49, x50, x51, x52, x53, x54, x55, x56, x57, x58, x59, x60, x61, x62, x63, x64, x65,
      x66, x67, x68, x69⟩ := h.same h1 h2 h3 h4 h5 h6 h7

theorem modPolder_sound (h : Sound s₀ s) {p : Fin 4} {f : Polder → Polder} :
    Sound s₀ (modPolder s p f) := h.same rfl rfl rfl rfl rfl rfl rfl
theorem modQueue_sound (h : Sound s₀ s) {p : Fin 4} {q : Fin 16} {f : Queue → Queue} :
    Sound s₀ (modQueue s p q f) := h.same rfl rfl rfl rfl rfl rfl rfl
theorem modCmd_sound (h : Sound s₀ s) {p : Fin 4} {q : Fin 16} {n : Word} {f : Cmd → Cmd} :
    Sound s₀ (modCmd s p q n f) := h.same rfl rfl rfl rfl rfl rfl rfl
theorem modPort_sound (h : Sound s₀ s) {j : Fin 6} {f : Port → Port} :
    Sound s₀ (modPort s j f) := h.same rfl rfl rfl rfl rfl rfl rfl
theorem modSite_sound (h : Sound s₀ s) {m : Fin 32} {f : Site → Site} :
    Sound s₀ (modSite s m f) := h.same rfl rfl rfl rfl rfl rfl rfl
theorem modChain_sound (h : Sound s₀ s) {i : Fin 5} {f : Chain → Chain} :
    Sound s₀ (modChain s i f) := h.same rfl rfl rfl rfl rfl rfl rfl
theorem modCvu_sound (h : Sound s₀ s) {u : Fin 4} {f : Cvu → Cvu} :
    Sound s₀ (modCvu s u f) := h.same rfl rfl rfl rfl rfl rfl rfl
theorem skipDraws_sound (h : Sound s₀ s) {n : Nat} :
    Sound s₀ (skipDraws s n) := h.same rfl rfl rfl rfl rfl rfl rfl
theorem nextDraw_sound (h : Sound s₀ s) :
    Sound s₀ (nextDraw s) := h.same rfl rfl rfl rfl rfl rfl rfl

theorem memPut_sound (h : Sound s₀ s) {a : Nat} {bs : List Byte} : Sound s₀ (memPut s a bs) :=
  h.trans ⟨rfl, .refl _, fun i =>
    { mem := memPut_wf i.mem .., undef := memPut_undef i.undef .., hostMem := i.hostMem,
      p0 := i.p0, events := i.events }⟩

theorem spoil_sound (h : Sound s₀ s) {a n : Nat} : Sound s₀ (spoil s a n) :=
  h.trans ⟨rfl, .refl _, fun i =>
    { mem := spoil_wf i.mem .., undef := spoil_undef i.undef .., hostMem := i.hostMem, p0 := i.p0, events :=
      i.events }⟩

theorem hostWrite_sound (h : Sound s₀ s) {a : Nat} {bs : List Byte} : Sound s₀ (hostWrite s a bs) :=
  h.trans ⟨rfl, .refl _, fun i =>
    { mem := i.mem, undef := i.undef, hostMem := hostWrite_wf i.hostMem .., p0 := i.p0, events := i.events }⟩

theorem eraseRange_sound (h : Sound s₀ s) {a n : Nat} : Sound s₀ (eraseRange s a n) :=
  h.trans ⟨rfl, .refl _, fun i =>
    { mem := eraseRange_wf i.mem .., undef := eraseRange_undef i.undef .., hostMem := i.hostMem,
      p0 := i.p0, events := i.events }⟩

theorem modFunc_sound (h : Sound s₀ s) {f : Fin 5} {g : Func → Func}
    (hg : ∀ F, F.events.length ≤ 1024 → (g F).events.length ≤ 1024) : Sound s₀ (modFunc s f g) :=
  h.trans ⟨rfl, .refl _, fun i =>
    { mem := i.mem, undef := i.undef, hostMem := i.hostMem, p0 := i.p0,
      events := fun x => by rw [func_modFunc]; split <;> [exact hg _ (i.events _); exact i.events _] }⟩

/-- Clusters after which p0 of every vector engine that read as ones still does. -/
theorem clusters_sound (h : Sound s₀ s) {cs : Vector Cluster 256}
    (hc : ∀ i : Fin 256, (s.clusters.get i).ve.p0Ones → (cs.get i).ve.p0Ones) :
    Sound s₀ { s with clusters := cs } :=
  h.trans ⟨rfl, .refl _, fun i =>
    { mem := i.mem, undef := i.undef, hostMem := i.hostMem, p0 := fun x => hc x (i.p0 x), events := i.events }⟩

theorem modCluster_sound (h : Sound s₀ s) {c : Fin 256} {f : Cluster → Cluster}
    (hf : ∀ C, C.ve.p0Ones → (f C).ve.p0Ones) : Sound s₀ (modCluster s c f) :=
  clusters_sound h fun i hi => by rw [get_vmod]; split <;> [(subst_vars; exact hf _ hi); exact hi]

theorem modVe_sound (h : Sound s₀ s) {c : Fin 256} {f : Ve → Ve} (hf : ∀ V, V.p0Ones → (f V).p0Ones) :
    Sound s₀ (modVe s c f) := modCluster_sound h fun C => hf C.ve

theorem mapClusters_sound (h : Sound s₀ s) {f : Cluster → Cluster} (hf : ∀ C, C.ve.p0Ones → (f C).ve.p0Ones) :
    Sound s₀ { s with clusters := s.clusters.map f } :=
  clusters_sound h fun i hi => by simpa [Vector.get_eq_getElem] using hf _ hi

/-- A fold of sound steps is sound. -/
theorem foldl_sound {α : Type} {f : State → α → State} (hf : ∀ s x, Sound s₀ s → Sound s₀ (f s x)) (h : Sound s₀ s)
    {xs : List α} : Sound s₀ (xs.foldl f s) := by
  induction xs generalizing s with
  | nil => exact h
  | cons x xs ih => exact ih (hf _ _ h)

/-- A fold that carries more than the state. -/
theorem foldl_fst_sound {α β : Type} {f : State × β → α → State × β} {x : State × β}
    (hf : ∀ x a, Sound s₀ x.1 → Sound s₀ (f x a).1) (h : Sound s₀ x.1) {xs : List α} : Sound s₀ (xs.foldl f x).1 := by
  induction xs generalizing x with
  | nil => exact h
  | cons a xs ih => exact ih (hf _ _ h)

theorem Ve.reset_p0 : Ve.reset.p0Ones := by decide

end Sys2Proof.Machine
end

