-- ==== Sys2Proof/Laws/SoundOps.lean ====
section
/-! SUPPORT. `Sound` of the shared operations: memory, events, queues, spares, faults, the host interface and the
mailbox, and of the commands that stand in those files. -/

namespace Sys2Proof.Machine

variable {s₀ s t : State}

theorem memWrite_sound (hs : Sound s₀ s) {a : Nat} {bs : List Byte} : Sound s₀ (memWrite s a bs).1 := by
  unfold memWrite
  try dsimp only
  repeat' first
    | with_reducible assumption
    | (with_reducible first | apply memPut_sound)
    | fail_if_no_progress with_reducible refine Sound.set ?_ rfl rfl rfl rfl rfl rfl rfl
    | split

theorem memWrites_sound (hs : Sound s₀ s) {ws : List (Nat × List Byte)} : Sound s₀ (memWrites s ws).1 := by
  unfold memWrites
  try dsimp only
  repeat' first
    | with_reducible assumption
    | (with_reducible first | apply memWrite_sound | apply foldl_sound | apply foldl_fst_sound)
    | intro s x hx

theorem spoilLines_sound (hs : Sound s₀ s) {a : Nat} {lines : Nat} {bytes : Nat} {stride : Nat} :
    Sound s₀ (spoilLines s a lines bytes stride) := by
  unfold spoilLines
  try dsimp only
  repeat' first
    | with_reducible assumption
    | (with_reducible first | apply spoil_sound | apply foldl_sound)
    | intro s x hx

theorem poisonBlock_sound (hs : Sound s₀ s) {a : Nat} : Sound s₀ (poisonBlock s a) := by
  unfold poisonBlock
  try dsimp only
  repeat' first
    | with_reducible assumption
    | fail_if_no_progress with_reducible refine Sound.set ?_ rfl rfl rfl rfl rfl rfl rfl

theorem clearClusters_sound (h : Sound s₀ s) {d : Fin 4} : Sound s₀ (clearClusters s d) :=
  clusters_sound h fun i hi => by
    simp only [Vector.get_eq_getElem, Vector.getElem_mapFinIdx]
    split <;> [exact Ve.reset_p0; exact hi]

theorem eraseDie_sound (hs : Sound s₀ s) {d : Fin 4} : Sound s₀ (eraseDie s d) := by
  unfold eraseDie
  repeat' first
    | with_reducible assumption
    | (with_reducible first | apply clearClusters_sound | apply eraseRange_sound)

theorem sendMsix_sound (hs : Sound s₀ s) {f : Fin 5} {v : Nat} : Sound s₀ (sendMsix s f v) := by
  unfold sendMsix
  try dsimp only
  repeat' first
    | with_reducible assumption
    | (with_reducible first | apply modFunc_sound)
    | fail_if_no_progress with_reducible refine Sound.set ?_ rfl rfl rfl rfl rfl rfl rfl
    | exact fun _ hx => hx
    | split

theorem raiseCause_sound (hs : Sound s₀ s) {f : Fin 5} {bit : Nat} : Sound s₀ (raiseCause s f bit) := by
  unfold raiseCause
  try dsimp only
  repeat' first
    | with_reducible assumption
    | (with_reducible first | apply modFunc_sound | apply sendMsix_sound)
    | fail_if_no_progress with_reducible refine Sound.set ?_ rfl rfl rfl rfl rfl rfl rfl
    | exact fun _ hx => hx
    | split

theorem queueEvent_sound (h : Sound s₀ s) {f : Fin 5} {code : BitVec 16} {polderNo : Byte} {payload : List Byte} :
    Sound s₀ (queueEvent s f code polderNo payload) :=
  raiseCause_sound (modFunc_sound h fun F hF => by
    dsimp only
    split <;> simp_all <;> omega)

theorem polderEvent_sound (hs : Sound s₀ s) {p : Fin 4} {code : Nat} {payload : List Byte} :
    Sound s₀ (polderEvent s p code payload) := by
  unfold polderEvent
  try dsimp only
  repeat' first
    | with_reducible assumption
    | (with_reducible first | apply queueEvent_sound)

theorem moduleEvent_sound (hs : Sound s₀ s) {code : Nat} {payload : List Byte} :
    Sound s₀ (moduleEvent s code payload) := by
  unfold moduleEvent
  try dsimp only
  repeat' first
    | with_reducible assumption
    | (with_reducible first | apply queueEvent_sound | apply foldl_sound)
    | intro s x hx
    | intro s hx
    | split

theorem adminEvent_sound (hs : Sound s₀ s) {code : Nat} {payload : List Byte} :
    Sound s₀ (adminEvent s code payload) := by
  unfold adminEvent
  repeat' first
    | with_reducible assumption
    | (with_reducible first | apply queueEvent_sound)

theorem signal_sound (hs : Sound s₀ s) {p : Fin 4} {ev : Nat} {v : Word} : Sound s₀ (signal s p ev v) := by
  unfold signal
  try dsimp only
  repeat' first
    | with_reducible assumption
    | (with_reducible first | apply modPolder_sound)

theorem countAdd_sound (hs : Sound s₀ s) {p : Fin 4} {set : BitVec 16} {i : Fin 14} {n : Nat} :
    Sound s₀ (countAdd s p set i n) := by
  unfold countAdd
  try dsimp only
  repeat' first
    | with_reducible assumption
    | fail_if_no_progress with_reducible refine Sound.set ?_ rfl rfl rfl rfl rfl rfl rfl

theorem tick_sound (hs : Sound s₀ s) : Sound s₀ (tick s) := by
  unfold tick
  try dsimp only
  repeat' first
    | with_reducible assumption
    | fail_if_no_progress with_reducible refine Sound.set ?_ rfl rfl rfl rfl rfl rfl rfl
    | split

theorem countTimed_sound (hs : Sound s₀ s) {p : Fin 4} {set : BitVec 16} : Sound s₀ (countTimed s p set) := by
  unfold countTimed
  try dsimp only
  repeat' first
    | with_reducible assumption
    | (with_reducible first | apply nextDraw_sound | apply countAdd_sound)

theorem toEdge_sound (hs : Sound s₀ s) {p : Fin 4} {k : Nat} : Sound s₀ (toEdge s p k) := by
  unfold toEdge
  try dsimp only
  repeat' first
    | with_reducible assumption
    | (with_reducible first | apply tick_sound)
    | split

theorem snapEdge_sound (hs : Sound s₀ s) {p : Fin 4} {k : Nat} : Sound s₀ (snapEdge s p k) := by
  unfold snapEdge
  try dsimp only
  repeat' first
    | with_reducible assumption
    | fail_if_no_progress with_reducible refine Sound.set ?_ rfl rfl rfl rfl rfl rfl rfl

theorem takeSnap_sound (hs : Sound s₀ s) {p : Fin 4} {k : Nat} : Sound s₀ (takeSnap s p k) := by
  unfold takeSnap
  try dsimp only
  repeat' first
    | with_reducible assumption
    | (with_reducible first
        | apply toEdge_sound | apply snapEdge_sound | apply countTimed_sound | apply foldl_sound)
    | intro s x hx
    | intro s hx
    | split

theorem touchBlocks_sound (h : Sound s₀ s) {k : Nat} {p : Fin 4} {a n : Nat} : Sound s₀ (touchBlocks k s p a n) := by
  induction k generalizing s a n with
  | zero => exact h
  | succ k ih =>
    simp only [touchBlocks]
    split
    · exact h
    · split
      · exact ih h
      · exact ih (modSite_sound (modPolder_sound h))

theorem touch_sound (hs : Sound s₀ s) {p : Fin 4} {a : Nat} {n : Nat} : Sound s₀ (touch s p a n) := by
  unfold touch
  repeat' first
    | with_reducible assumption
    | (with_reducible first | apply touchBlocks_sound)
    | split

theorem regionWrite_sound (hs : Sound s₀ s) {p : Fin 4} {a : Nat} {bs : List Byte} :
    Sound s₀ (regionWrite s p a bs) := by
  unfold regionWrite
  try dsimp only
  repeat' first
    | with_reducible assumption
    | (with_reducible first | apply touch_sound | apply memWrite_sound)

theorem noteAccess_sound (hs : Sound s₀ s) {p : Fin 4} {set : BitVec 16} {a : Nat} {n : Nat} :
    Sound s₀ (noteAccess s p set a n) := by
  unfold noteAccess
  repeat' first
    | with_reducible assumption
    | (with_reducible first | apply countAdd_sound | apply touch_sound)
    | split

theorem unitRead_sound (hs : Sound s₀ s) {p : Fin 4} {set : BitVec 16} {a : Nat} {n : Nat} :
    Sound s₀ (unitRead s p set a n).1 := by
  unfold unitRead
  repeat' first
    | with_reducible assumption
    | (with_reducible first | apply noteAccess_sound)

theorem unitWrite_sound (hs : Sound s₀ s) {p : Fin 4} {set : BitVec 16} {a : Nat} {bs : List Byte} :
    Sound s₀ (unitWrite s p set a bs).1 := by
  unfold unitWrite
  try dsimp only
  repeat' first
    | with_reducible assumption
    | (with_reducible first | apply memWrite_sound | apply noteAccess_sound)

theorem unitWrites_sound (hs : Sound s₀ s) {p : Fin 4} {set : BitVec 16} {ws : List (Nat × List Byte)} :
    Sound s₀ (unitWrites s p set ws).1 := by
  unfold unitWrites
  try dsimp only
  repeat' first
    | with_reducible assumption
    | (with_reducible first | apply unitWrite_sound | apply foldl_sound | apply foldl_fst_sound)
    | intro s x hx

theorem noteSpans_sound (hs : Sound s₀ s) {p : Fin 4} {set : BitVec 16} {xs : List (Nat × Nat)} :
    Sound s₀ (noteSpans s p set xs) := by
  unfold noteSpans
  try dsimp only
  repeat' first
    | with_reducible assumption
    | (with_reducible first | apply noteAccess_sound | apply foldl_sound | apply foldl_fst_sound)
    | intro s x hx

theorem writeRing_sound (hs : Sound s₀ s) {p : Fin 4} {bytes : List Byte} : Sound s₀ (writeRing s p bytes) := by
  unfold writeRing
  try dsimp only
  repeat' first
    | with_reducible assumption
    | (with_reducible first | apply regionWrite_sound | apply modPolder_sound)

theorem flushRing_sound (hs : Sound s₀ s) {p : Fin 4} : Sound s₀ (flushRing s p) := by
  unfold flushRing
  try dsimp only
  repeat' first
    | with_reducible assumption
    | (with_reducible first | apply writeRing_sound | apply modPolder_sound | apply foldl_sound)
    | fail_if_no_progress with_reducible refine Sound.set ?_ rfl rfl rfl rfl rfl rfl rfl
    | intro s x hx

theorem traceRecord_sound (hs : Sound s₀ s) {p : Fin 4} {typ : Nat} {qb : Nat} {rounded : Bool} {op : Nat} {seq :
     Word} {rid : Word} {set : Nat} {body : List Byte} {snap : Option Snap} :
    Sound s₀ (traceRecord s p typ qb rounded op seq rid set body snap) := by
  unfold traceRecord
  try dsimp only
  repeat' first
    | with_reducible assumption
    | (with_reducible first | apply flushRing_sound | apply modPolder_sound)
    | fail_if_no_progress with_reducible refine Sound.set ?_ rfl rfl rfl rfl rfl rfl rfl
    | split

theorem requestStart_sound (hs : Sound s₀ s) {p : Fin 4} {rid : Word} : Sound s₀ (requestStart s p rid) := by
  unfold requestStart
  try dsimp only
  repeat' first
    | with_reducible assumption
    | (with_reducible first | apply modPolder_sound)

theorem requestPosted_sound (hs : Sound s₀ s) {p : Fin 4} {rid : Word} : Sound s₀ (requestPosted s p rid) := by
  unfold requestPosted
  try dsimp only
  repeat' first
    | with_reducible assumption
    | (with_reducible first | apply modPolder_sound)

theorem noteLeft_sound (hs : Sound s₀ s) {p : Fin 4} {c : Cmd} {discarded : Bool} :
    Sound s₀ (noteLeft s p c discarded) := by
  unfold noteLeft
  try dsimp only
  repeat' first
    | with_reducible assumption
    | (with_reducible first | apply modPolder_sound)

theorem requestDiscarded_sound (hs : Sound s₀ s) {p : Fin 4} {c : Cmd} : Sound s₀ (requestDiscarded s p c) := by
  unfold requestDiscarded
  try dsimp only
  repeat' first
    | with_reducible assumption
    | (with_reducible first | apply modPolder_sound | apply noteLeft_sound)

theorem commandRecord_sound (hs : Sound s₀ s) {p : Fin 4} {typ : Nat} {q : Fin 16} {e : Entry} {rest : List Byte} :
    Sound s₀ (commandRecord s p typ q e rest) := by
  unfold commandRecord
  try dsimp only
  repeat' first
    | with_reducible assumption
    | (with_reducible first | apply traceRecord_sound)

theorem readDesc_sound (hs : Sound s₀ s) {p : Fin 4} {e : Entry} : Sound s₀ (readDesc s p e) := by
  unfold readDesc
  repeat' first
    | with_reducible assumption
    | (with_reducible first | apply touch_sound)
    | split

theorem startCmd_sound (hs : Sound s₀ s) {p : Fin 4} {q : Fin 16} {e : Entry} {valid : Bool} :
    Sound s₀ (startCmd s p q e valid) := by
  unfold startCmd
  try dsimp only
  repeat' first
    | with_reducible assumption
    | (with_reducible first
        | apply takeSnap_sound | apply readDesc_sound | apply commandRecord_sound | apply requestStart_sound
        | apply modQueue_sound | apply modPolder_sound)
    | fail_if_no_progress with_reducible refine Sound.set ?_ rfl rfl rfl rfl rfl rfl rfl
    | split

theorem setResult_sound (hs : Sound s₀ s) {p : Fin 4} {q : Fin 16} {n : Word} {st : Status} :
    Sound s₀ (setResult s p q n st) := by
  unfold setResult
  try dsimp only
  repeat' first
    | with_reducible assumption
    | (with_reducible first | apply modCmd_sound)

theorem endCmd_sound (hs : Sound s₀ s) {p : Fin 4} {q : Fin 16} {n : Word} {st : Status} :
    Sound s₀ (endCmd s p q n st) := by
  unfold endCmd
  try dsimp only
  repeat' first
    | with_reducible assumption
    | (with_reducible first | apply modCmd_sound)

theorem setBody_sound (hs : Sound s₀ s) {p : Fin 4} {q : Fin 16} {n : Word} {b : Body} :
    Sound s₀ (setBody s p q n b) := by
  unfold setBody
  try dsimp only
  repeat' first
    | with_reducible assumption
    | (with_reducible first | apply modCmd_sound)

theorem setAreas_sound (hs : Sound s₀ s) {p : Fin 4} {q : Fin 16} {n : Word} {as : List Area} :
    Sound s₀ (setAreas s p q n as) := by
  unfold setAreas
  try dsimp only
  repeat' first
    | with_reducible assumption
    | (with_reducible first | apply modCmd_sound)

theorem addWarn_sound (hs : Sound s₀ s) {p : Fin 4} {q : Fin 16} {n : Word} {w : BitVec 16} :
    Sound s₀ (addWarn s p q n w) := by
  unfold addWarn
  try dsimp only
  repeat' first
    | with_reducible assumption
    | (with_reducible first | apply modCmd_sound)

theorem spoilHost_sound (hs : Sound s₀ s) {a : Nat} {n : Nat} : Sound s₀ (spoilHost s a n) := by
  unfold spoilHost
  try dsimp only
  repeat' first
    | with_reducible assumption
    | (with_reducible first | apply nextDraw_sound | apply hostWrite_sound)

theorem spoilArea_sound (hs : Sound s₀ s) {r : Area} : Sound s₀ (spoilArea s r) := by
  unfold spoilArea
  try dsimp only
  repeat' first
    | with_reducible assumption
    | (with_reducible first | apply spoilHost_sound | apply spoil_sound | apply foldl_sound)
    | intro s x hx
    | intro s hx
    | split

theorem spoilAreas_sound (hs : Sound s₀ s) {rs : List Area} : Sound s₀ (spoilAreas s rs) := by
  unfold spoilAreas
  repeat' first
    | with_reducible assumption
    | (with_reducible first | apply spoilArea_sound | apply foldl_sound)
    | intro s x hx

theorem releaseUnits_sound (h : Sound s₀ s) {p : Fin 4} {q : Fin 16} {n : Word} : Sound s₀ (releaseUnits s p q n) :=
  mapClusters_sound h fun C hC => by dsimp only; split <;> exact hC

theorem staleBuffer_sound (hs : Sound s₀ s) {c : Fin 256} {a : Nat} {n : Nat} : Sound s₀ (staleBuffer s c a n) := by
  unfold staleBuffer
  try dsimp only
  repeat' first
    | with_reducible assumption
    | (with_reducible first | apply nextDraw_sound | apply modCluster_sound)
    | fail_if_no_progress with_reducible refine Sound.set ?_ rfl rfl rfl rfl rfl rfl rfl
    | exact fun _ hx => hx

theorem staleAround_sound (hs : Sound s₀ s) {c : Fin 256} {keep : List (Nat × Nat)} :
    Sound s₀ (staleAround s c keep) := by
  unfold staleAround
  try dsimp only
  repeat' first
    | with_reducible assumption
    | (with_reducible first | apply staleBuffer_sound | apply foldl_sound | apply foldl_fst_sound)
    | intro s x hx

theorem spoilSlices_sound (hs : Sound s₀ s) {p : Fin 4} {keep : List (Nat × Nat)} :
    Sound s₀ (spoilSlices s p keep) := by
  unfold spoilSlices
  try dsimp only
  repeat' first
    | with_reducible assumption
    | (with_reducible first | apply spoil_sound | apply foldl_sound | apply foldl_fst_sound)
    | intro s x hx

theorem spoilCopies_sound (hs : Sound s₀ s) {p : Fin 4} {q : Fin 16} {n : Word} {r : UpdRun} :
    Sound s₀ (spoilCopies s p q n r) := by
  unfold spoilCopies
  try dsimp only
  repeat' first
    | with_reducible assumption
    | (with_reducible first
        | apply spoil_sound | apply spoilSlices_sound | apply staleAround_sound | apply staleBuffer_sound
        | apply foldl_sound | apply foldl_fst_sound)
    | intro s x hx
    | intro s hx
    | split

theorem spoilPrograms_sound (hs : Sound s₀ s) {p : Fin 4} {c : Cmd} : Sound s₀ (spoilPrograms s p c) := by
  unfold spoilPrograms
  try dsimp only
  repeat' first
    | with_reducible assumption
    | (with_reducible first
        | apply staleAround_sound | apply spoilSlices_sound | apply spoilCopies_sound | apply foldl_sound)
    | intro s x hx
    | split

theorem failCmd_sound (hs : Sound s₀ s) {p : Fin 4} {q : Fin 16} {n : Word} {st : Status} :
    Sound s₀ (failCmd s p q n st) := by
  unfold failCmd
  try dsimp only
  repeat' first
    | with_reducible assumption
    | (with_reducible first
        | apply releaseUnits_sound | apply spoilPrograms_sound | apply spoilAreas_sound
        | apply modPolder_sound | apply modCmd_sound | apply endCmd_sound)
    | fail_if_no_progress with_reducible refine Sound.set ?_ rfl rfl rfl rfl rfl rfl rfl
    | split

theorem abandonAll_sound (hs : Sound s₀ s) {p : Fin 4} : Sound s₀ (abandonAll s p) := by
  unfold abandonAll
  try dsimp only
  repeat' first
    | with_reducible assumption
    | (with_reducible first
        | apply requestDiscarded_sound | apply spoilAreas_sound | apply releaseUnits_sound
        | apply spoilPrograms_sound | apply modPolder_sound | apply foldl_sound)
    | fail_if_no_progress with_reducible refine Sound.set ?_ rfl rfl rfl rfl rfl rfl rfl
    | intro s x hx

theorem putCq_sound (hs : Sound s₀ s) {p : Fin 4} {q : Fin 16} {f : Nat → List Byte} : Sound s₀ (putCq s p q f) := by
  unfold putCq
  try dsimp only
  repeat' first
    | with_reducible assumption
    | (with_reducible first | apply hostWrite_sound | apply modQueue_sound)

theorem sendQueueMsix_sound (hs : Sound s₀ s) {p : Fin 4} {q : Fin 16} : Sound s₀ (sendQueueMsix s p q) := by
  unfold sendQueueMsix
  try dsimp only
  repeat' first
    | with_reducible assumption
    | (with_reducible first | apply modQueue_sound | apply sendMsix_sound)
    | fail_if_no_progress with_reducible refine Sound.set ?_ rfl rfl rfl rfl rfl rfl rfl
    | split

theorem notePosted_sound (hs : Sound s₀ s) {p : Fin 4} {q : Fin 16} : Sound s₀ (notePosted s p q) := by
  unfold notePosted
  try dsimp only
  repeat' first
    | with_reducible assumption
    | (with_reducible first | apply raiseCause_sound | apply modQueue_sound | apply sendQueueMsix_sound)
    | fail_if_no_progress with_reducible refine Sound.set ?_ rfl rfl rfl rfl rfl rfl rfl
    | split

theorem endRecord_sound (hs : Sound s₀ s) {p : Fin 4} {c : Cmd} {st : Status} : Sound s₀ (endRecord s p c st) := by
  unfold endRecord
  repeat' first
    | with_reducible assumption
    | (with_reducible first | apply commandRecord_sound | apply takeSnap_sound)
    | split

theorem orSpill_sound (hs : Sound s₀ s) {p : Fin 4} {set : BitVec 16} {a : Nat} {bits : Byte} :
    Sound s₀ (orSpill s p set a bits) := by
  unfold orSpill
  try dsimp only
  repeat' first
    | with_reducible assumption
    | (with_reducible first | apply unitWrite_sound)

theorem mergeSpill_sound (hs : Sound s₀ s) {p : Fin 4} {set : BitVec 16} {spill : Tab Byte} :
    Sound s₀ (mergeSpill s p set spill) := by
  unfold mergeSpill
  try dsimp only
  repeat' first
    | with_reducible assumption
    | (with_reducible first | apply orSpill_sound | apply foldl_sound | apply foldl_fst_sound)
    | intro s x hx

theorem mergeCmd_sound (hs : Sound s₀ s) {p : Fin 4} {c : Cmd} : Sound s₀ (mergeCmd s p c) := by
  unfold mergeCmd
  try dsimp only
  repeat' first
    | with_reducible assumption
    | (with_reducible first | apply mergeSpill_sound | apply modPolder_sound)

theorem reportCmd_sound (hs : Sound s₀ s) {p : Fin 4} {c : Cmd} {st : Status} : Sound s₀ (reportCmd s p c st) := by
  unfold reportCmd
  try dsimp only
  repeat' first
    | with_reducible assumption
    | (with_reducible first
        | apply putCq_sound | apply modQueue_sound | apply notePosted_sound | apply signal_sound)
    | fail_if_no_progress with_reducible refine Sound.set ?_ rfl rfl rfl rfl rfl rfl rfl
    | split

theorem signalOwn_sound (hs : Sound s₀ s) {p : Fin 4} {c : Cmd} {st : Status} : Sound s₀ (signalOwn s p c st) := by
  unfold signalOwn
  repeat' first
    | with_reducible assumption
    | (with_reducible first | apply signal_sound)
    | split

theorem postCompletion_sound (hs : Sound s₀ s) {p : Fin 4} {c : Cmd} {res : Status} :
    Sound s₀ (postCompletion s p c res) := by
  unfold postCompletion
  try dsimp only
  repeat' first
    | with_reducible assumption
    | (with_reducible first
        | apply releaseUnits_sound | apply mergeCmd_sound | apply endRecord_sound | apply signalOwn_sound
        | apply reportCmd_sound | apply noteLeft_sound | apply requestPosted_sound | apply modPolder_sound)
    | fail_if_no_progress with_reducible refine Sound.set ?_ rfl rfl rfl rfl rfl rfl rfl
    | split

theorem noteWaiting_sound (hs : Sound s₀ s) {p : Fin 4} {q : Fin 16} {e : Entry} :
    Sound s₀ (noteWaiting s p q e) := by
  unfold noteWaiting
  try dsimp only
  repeat' first
    | with_reducible assumption
    | (with_reducible first | apply modQueue_sound)

theorem runEntry_sound (h : Sound s₀ s) {p : Fin 4} {q : Fin 16} {e : Entry} {op : Byte}
    {checks : State → Option Status} {act : State → State} (hact : ∀ s, Sound s₀ s → Sound s₀ (act s)) :
    Sound s₀ (runEntry s p q e op checks act) := by
  unfold runEntry
  split
  · split
    · exact endCmd_sound (startCmd_sound h)
    · exact hact _ (startCmd_sound h)
  · split
    · exact modQueue_sound h
    · exact h

theorem raiseLow_sound (hs : Sound s₀ s) {x : Pool} : Sound s₀ (raiseLow s x) := by
  unfold raiseLow
  repeat' first
    | with_reducible assumption
    | (with_reducible first | apply moduleEvent_sound)

theorem spareUsedEvent_sound (hs : Sound s₀ s) {v : DWord} {repair : Nat} : Sound s₀ (spareUsedEvent s v repair) := by
  unfold spareUsedEvent
  try dsimp only
  repeat' first
    | with_reducible assumption
    | (with_reducible first | apply polderEvent_sound | apply moduleEvent_sound)
    | split

theorem raiseCrossed_sound {old : State} (hs : Sound s₀ s) {xs : List Pool} : Sound s₀ (raiseCrossed old s xs) :=
  foldl_sound (fun _ _ h => raiseLow_sound h) hs

theorem makeRemap_sound (hs : Sound s₀ s) {v : DWord} {repair : Nat} : Sound s₀ (makeRemap s v repair) := by
  unfold makeRemap
  try dsimp only
  repeat' first
    | with_reducible assumption
    | (with_reducible first | apply raiseCrossed_sound | apply spareUsedEvent_sound)
    | fail_if_no_progress with_reducible refine Sound.set ?_ rfl rfl rfl rfl rfl rfl rfl

theorem makeRemaps_sound (hs : Sound s₀ s) {vs : List DWord} {repair : Nat} : Sound s₀ (makeRemaps s vs repair) := by
  unfold makeRemaps
  try dsimp only
  repeat' first
    | with_reducible assumption
    | (with_reducible first | apply makeRemap_sound | apply foldl_sound)
    | intro s x hx

theorem bumpIv_sound (hs : Sound s₀ s) {p : Fin 4} {chan : Nat} {cls : Nat} : Sound s₀ (bumpIv s p chan cls) := by
  unfold bumpIv
  try dsimp only
  repeat' first
    | with_reducible assumption
    | (with_reducible first | apply modPolder_sound)

theorem flush_sound (hs : Sound s₀ s) {j : Fin 6} : Sound s₀ (flush s j) := by
  unfold flush
  repeat' first
    | with_reducible assumption
    | (with_reducible first | apply modPort_sound)

theorem queueSealed_sound (hs : Sound s₀ s) {p : Fin 4} {j : Fin 6} {kind : Nat} {flags : Nat} {id : Word} {addr :
     Nat} {attempt : Nat} {payload : List Byte} :
    Sound s₀ (queueSealed s p j kind flags id addr attempt payload) := by
  unfold queueSealed
  try dsimp only
  repeat' first
    | with_reducible assumption
    | (with_reducible first | apply bumpIv_sound | apply modPort_sound)
    | split

theorem sendSealed_sound (hs : Sound s₀ s) {p : Fin 4} {j : Fin 6} {kind : Nat} {flags : Nat} {id : Word} {addr :
     Nat} {attempt : Nat} {payload : List Byte} :
    Sound s₀ (sendSealed s p j kind flags id addr attempt payload) := by
  unfold sendSealed
  repeat' first
    | with_reducible assumption
    | (with_reducible first | apply flush_sound | apply queueSealed_sound)

theorem sendPlain_sound (hs : Sound s₀ s) {j : Fin 6} {kind : Nat} {flags : Nat} {payload : List Byte} :
    Sound s₀ (sendPlain s j kind flags payload) := by
  unfold sendPlain
  try dsimp only
  repeat' first
    | with_reducible assumption
    | (with_reducible first | apply flush_sound | apply modPort_sound)

theorem putToken_sound (hs : Sound s₀ s) {j : Fin 6} {t : Token} : Sound s₀ (putToken s j t) := by
  unfold putToken
  try dsimp only
  repeat' first
    | with_reducible assumption
    | (with_reducible first | apply flush_sound | apply modPort_sound)
    | fail_if_no_progress with_reducible refine Sound.set ?_ rfl rfl rfl rfl rfl rfl rfl
    | split

theorem sendToken_sound (hs : Sound s₀ s) {p : Fin 4} {j : Fin 6} {typ : Nat} {hop : BitVec 5} {op : BitVec 3} {id :
     Word} {payload : DWord} :
    Sound s₀ (sendToken s p j typ hop op id payload) := by
  unfold sendToken
  try dsimp only
  repeat' first
    | with_reducible assumption
    | (with_reducible first | apply bumpIv_sound | apply putToken_sound)
    | split

theorem sendClear_sound (hs : Sound s₀ s) {j : Fin 6} {typ : Nat} {payload : DWord} :
    Sound s₀ (sendClear s j typ payload) := by
  unfold sendClear
  repeat' first
    | with_reducible assumption
    | (with_reducible first | apply putToken_sound)

theorem floodFault_sound (hs : Sound s₀ s) {p : Fin 4} : Sound s₀ (floodFault s p) := by
  unfold floodFault
  try dsimp only
  repeat' first
    | with_reducible assumption
    | (with_reducible first | apply bumpIv_sound | apply sendToken_sound | apply foldl_sound)
    | intro s x hx

theorem modReport_sound (hs : Sound s₀ s) {id : Nat} {f : Repair → Repair} : Sound s₀ (modReport s id f) := by
  unfold modReport
  try dsimp only
  repeat' first
    | with_reducible assumption
    | fail_if_no_progress with_reducible refine Sound.set ?_ rfl rfl rfl rfl rfl rfl rfl

theorem beginRepair_sound (hs : Sound s₀ s) {cls : Nat} {ps : List (Fin 4)} {i : FaultInfo} :
    Sound s₀ (beginRepair s cls ps i) := by
  unfold beginRepair
  try dsimp only
  repeat' first
    | with_reducible assumption
    | fail_if_no_progress with_reducible refine Sound.set ?_ rfl rfl rfl rfl rfl rfl rfl

theorem postFinal_sound (hs : Sound s₀ s) {p : Fin 4} : Sound s₀ (postFinal s p) := by
  unfold postFinal
  try dsimp only
  repeat' first
    | with_reducible assumption
    | (with_reducible first | apply postCompletion_sound)
    | split

theorem beginDiscard_sound (hs : Sound s₀ s) {cls : Nat} {id : Nat} {p : Fin 4} :
    Sound s₀ (beginDiscard s cls id p) := by
  unfold beginDiscard
  try dsimp only
  repeat' first
    | with_reducible assumption
    | (with_reducible first | apply modPolder_sound | apply abandonAll_sound | apply postFinal_sound)

theorem takePolder_sound (hs : Sound s₀ s) {cls : Nat} {id : Nat} {p : Fin 4} : Sound s₀ (takePolder cls id s p) := by
  unfold takePolder
  try dsimp only
  repeat' first
    | with_reducible assumption
    | (with_reducible first | apply modPolder_sound | apply beginDiscard_sound)
    | fail_if_no_progress with_reducible refine Sound.set ?_ rfl rfl rfl rfl rfl rfl rfl
    | split

theorem faultC2_sound (hs : Sound s₀ s) {ps : List (Fin 4)} {i : FaultInfo} : Sound s₀ (faultC2 s ps i) := by
  unfold faultC2
  try dsimp only
  repeat' first
    | with_reducible assumption
    | (with_reducible first | apply beginRepair_sound | apply takePolder_sound | apply foldl_sound)
    | intro s x hx
    | intro s hx
    | split

theorem mergeRepairs_sound (hs : Sound s₀ s) {id : Nat} : Sound s₀ (mergeRepairs s id) := by
  unfold mergeRepairs
  try dsimp only
  repeat' first
    | with_reducible assumption
    | fail_if_no_progress with_reducible refine Sound.set ?_ rfl rfl rfl rfl rfl rfl rfl

theorem faultC3_sound (hs : Sound s₀ s) {i : FaultInfo} : Sound s₀ (faultC3 s i) := by
  unfold faultC3
  try dsimp only
  repeat' first
    | with_reducible assumption
    | (with_reducible first
        | apply mergeRepairs_sound | apply beginRepair_sound | apply takePolder_sound | apply modReport_sound
        | apply foldl_sound)
    | fail_if_no_progress with_reducible refine Sound.set ?_ rfl rfl rfl rfl rfl rfl rfl
    | intro s x hx
    | intro s hx
    | split

theorem raiseAlert_sound (hs : Sound s₀ s) {bit : Nat} : Sound s₀ (raiseAlert s bit) := by
  unfold raiseAlert
  try dsimp only
  repeat' first
    | with_reducible assumption
    | fail_if_no_progress with_reducible refine Sound.set ?_ rfl rfl rfl rfl rfl rfl rfl

theorem lastTokens_sound (hs : Sound s₀ s) : Sound s₀ (lastTokens s) := by
  unfold lastTokens
  try dsimp only
  repeat' first
    | with_reducible assumption
    | (with_reducible first | apply floodFault_sound | apply foldl_sound)
    | intro s x hx

theorem faultC4_sound (h : Sound s₀ s) {i : FaultInfo} : Sound s₀ (faultC4 s i) :=
  (mapClusters_sound (f := fun C => { C with slots := [], ve := { C.ve with mode := .idle, owner := none } })
    (raiseAlert_sound (bit := 2) (lastTokens_sound h)) fun _ hC => hC).same rfl rfl rfl rfl rfl rfl rfl

theorem pageDue_sound (hs : Sound s₀ s) {d : Fin 4} {u : Nat} : Sound s₀ (pageDue s d u) := by
  unfold pageDue
  try dsimp only
  repeat' first
    | with_reducible assumption
    | fail_if_no_progress with_reducible refine Sound.set ?_ rfl rfl rfl rfl rfl rfl rfl

theorem pageMet_sound (hs : Sound s₀ s) {d : Fin 4} {u : Nat} : Sound s₀ (pageMet s d u) := by
  unfold pageMet
  try dsimp only
  repeat' first
    | with_reducible assumption
    | fail_if_no_progress with_reducible refine Sound.set ?_ rfl rfl rfl rfl rfl rfl rfl

theorem remapPage_sound (hs : Sound s₀ s) {d : Fin 4} {l g repair : Nat} {u : State}
    (h : remapPage s d l g repair = some u) : Sound s₀ u := by
  simp only [remapPage] at h
  split at h
  · cases h
  · obtain ⟨r, _, rfl⟩ := Option.map_eq_some_iff.1 h; exact makeRemap_sound hs

theorem retirePage_sound (hs : Sound s₀ s) {d : Fin 4} {l g : Nat} : Sound s₀ (retirePage s d l g) := by
  unfold retirePage
  split
  · exact hs
  · split
    · exact faultC2_sound (pageDue_sound hs)
    · next h =>
      have k := pageMet_sound (remapPage_sound hs h) (d := d) (u := l * 2 ^ 21 + g)
      dsimp only
      split
      · exact faultC2_sound k
      · exact k

theorem retireAt_sound (hs : Sound s₀ s) {p : Fin 4} {a : Nat} : Sound s₀ (retireAt s p a) := by
  unfold retireAt
  try dsimp only
  repeat' first
    | with_reducible assumption
    | (with_reducible first | apply retirePage_sound)
    | split

theorem bumpCorrected_sound (hs : Sound s₀ s) {i : Fin 8} : Sound s₀ (bumpCorrected s i) := by
  unfold bumpCorrected
  try dsimp only
  repeat' first
    | with_reducible assumption
    | fail_if_no_progress with_reducible refine Sound.set ?_ rfl rfl rfl rfl rfl rfl rfl

theorem uncorrectable_sound (hs : Sound s₀ s) {a : Nat} : Sound s₀ (uncorrectable s a) := by
  unfold uncorrectable
  try dsimp only
  repeat' first
    | with_reducible assumption
    | (with_reducible first | apply poisonBlock_sound | apply retireAt_sound)
    | split

theorem spareRow_sound (hs : Sound s₀ s) {a : Nat} : Sound s₀ (spareRow s a) := by
  unfold spareRow
  try dsimp only
  repeat' first
    | with_reducible assumption
    | (with_reducible first | apply makeRemap_sound)
    | split

theorem correctedError_sound (hs : Sound s₀ s) {a : Nat} : Sound s₀ (correctedError s a) := by
  unfold correctedError
  try dsimp only
  repeat' first
    | with_reducible assumption
    | (with_reducible first | apply bumpCorrected_sound | apply retirePage_sound)
    | fail_if_no_progress with_reducible refine Sound.set ?_ rfl rfl rfl rfl rfl rfl rfl
    | split

theorem refuseTail_sound (hs : Sound s₀ s) {p : Fin 4} {q : Fin 16} : Sound s₀ (refuseTail s p q) := by
  unfold refuseTail
  try dsimp only
  repeat' first
    | with_reducible assumption
    | (with_reducible first | apply raiseCause_sound | apply modQueue_sound)

theorem tailWrite_sound (hs : Sound s₀ s) {p : Fin 4} {q : Fin 16} {v : Word} : Sound s₀ (tailWrite s p q v) := by
  unfold tailWrite
  try dsimp only
  repeat' first
    | with_reducible assumption
    | (with_reducible first | apply refuseTail_sound | apply modQueue_sound)
    | fail_if_no_progress with_reducible refine Sound.set ?_ rfl rfl rfl rfl rfl rfl rfl
    | split

theorem doSqTailWrite_sound (hs : Sound s₀ s) {f : Fin 5} {q : Fin 16} {v : Word} :
    Sound s₀ (doSqTailWrite f q v s) := by
  unfold doSqTailWrite
  try dsimp only
  repeat' first
    | with_reducible assumption
    | (with_reducible first | apply tailWrite_sound)
    | split

theorem headWrite_sound (hs : Sound s₀ s) {p : Fin 4} {q : Fin 16} {v : Word} : Sound s₀ (headWrite s p q v) := by
  unfold headWrite
  try dsimp only
  repeat' first
    | with_reducible assumption
    | (with_reducible first | apply modQueue_sound)
    | fail_if_no_progress with_reducible refine Sound.set ?_ rfl rfl rfl rfl rfl rfl rfl
    | split

theorem doCqHeadWrite_sound (hs : Sound s₀ s) {f : Fin 5} {q : Fin 16} {v : Word} :
    Sound s₀ (doCqHeadWrite f q v s) := by
  unfold doCqHeadWrite
  try dsimp only
  repeat' first
    | with_reducible assumption
    | (with_reducible first | apply headWrite_sound)
    | split

theorem doTimeLoRead_sound (hs : Sound s₀ s) {f : Fin 5} : Sound s₀ (doTimeLoRead f s) := by
  unfold doTimeLoRead
  try dsimp only
  repeat' first
    | with_reducible assumption
    | (with_reducible first | apply modFunc_sound)
    | fail_if_no_progress with_reducible refine Sound.set ?_ rfl rfl rfl rfl rfl rfl rfl
    | exact fun _ hx => hx
    | split

theorem doWinCommit_sound (hs : Sound s₀ s) {f : Fin 5} {v : Word} : Sound s₀ (doWinCommit f v s) := by
  unfold doWinCommit
  try dsimp only
  repeat' first
    | with_reducible assumption
    | (with_reducible first | apply modFunc_sound)
    | fail_if_no_progress with_reducible refine Sound.set ?_ rfl rfl rfl rfl rfl rfl rfl
    | exact fun _ hx => hx
    | split

theorem denyWin_sound (hs : Sound s₀ s) {f : Fin 5} : Sound s₀ (denyWin s f) := by
  unfold denyWin
  try dsimp only
  repeat' first
    | with_reducible assumption
    | (with_reducible first | apply raiseCause_sound | apply modFunc_sound)
    | fail_if_no_progress with_reducible refine Sound.set ?_ rfl rfl rfl rfl rfl rfl rfl
    | exact fun _ hx => hx

theorem denyEcc_sound (hs : Sound s₀ s) {f : Fin 5} {p : Fin 4} : Sound s₀ (denyEcc s f p) := by
  unfold denyEcc
  try dsimp only
  repeat' first
    | with_reducible assumption
    | (with_reducible first | apply denyWin_sound | apply modPolder_sound)

theorem allOnes_sound (hs : Sound s₀ s) {len : Nat} : Sound s₀ (allOnes len s) := by
  unfold allOnes
  try dsimp only
  repeat' first
    | with_reducible assumption
    | fail_if_no_progress with_reducible refine Sound.set ?_ rfl rfl rfl rfl rfl rfl rfl

theorem doBar2Read_sound (hs : Sound s₀ s) {f : Fin 5} {off : Nat} {len : Nat} :
    Sound s₀ (doBar2Read f off len s) := by
  unfold doBar2Read
  try dsimp only
  repeat' first
    | with_reducible assumption
    | (with_reducible first
        | apply allOnes_sound | apply denyWin_sound | apply touch_sound | apply denyEcc_sound)
    | fail_if_no_progress with_reducible refine Sound.set ?_ rfl rfl rfl rfl rfl rfl rfl
    | split

theorem doBar2Write_sound (hs : Sound s₀ s) {f : Fin 5} {off : Nat} {data : List Byte} :
    Sound s₀ (doBar2Write f off data s) := by
  unfold doBar2Write
  try dsimp only
  repeat' first
    | with_reducible assumption
    | (with_reducible first
        | apply denyWin_sound | apply denyEcc_sound | apply touch_sound | apply memWrite_sound)
    | split

theorem cvuEvent_sound (hs : Sound s₀ s) {f : Fin 5} {pay : List Byte} : Sound s₀ (cvuEvent s f pay) := by
  unfold cvuEvent
  try dsimp only
  repeat' first
    | with_reducible assumption
    | (with_reducible first | apply polderEvent_sound | apply adminEvent_sound)
    | split

theorem doCvuStart_sound (hs : Sound s₀ s) {f : Fin 5} {u : Fin 4} : Sound s₀ (doCvuStart f u s) := by
  unfold doCvuStart
  repeat' first
    | with_reducible assumption
    | (with_reducible first | apply modCvu_sound)
    | split

theorem doCvuFinish_sound (hs : Sound s₀ s) {f : Fin 5} {u : Fin 4} : Sound s₀ (doCvuFinish f u s) := by
  unfold doCvuFinish
  try dsimp only
  repeat' first
    | with_reducible assumption
    | (with_reducible first | apply modCvu_sound | apply cvuEvent_sound)
    | fail_if_no_progress with_reducible refine Sound.set ?_ rfl rfl rfl rfl rfl rfl rfl
    | split

theorem cvuData_sound (hs : Sound s₀ s) {f : Fin 5} {u : Fin 4} {n : Nat} {v : Word} :
    Sound s₀ (cvuData f u n v s) := by
  unfold cvuData
  try dsimp only
  repeat' first
    | with_reducible assumption
    | (with_reducible first | apply modCvu_sound)
    | split

theorem cvuWrite_sound (hs : Sound s₀ s) {f : Fin 5} {u : Fin 4} {o : Nat} {v : Word} :
    Sound s₀ (cvuWrite f u o v s) := by
  unfold cvuWrite
  try dsimp only
  repeat' first
    | with_reducible assumption
    | (with_reducible first
        | apply modCvu_sound | apply doCvuStart_sound | apply doCvuFinish_sound | apply cvuData_sound)
    | fail_if_no_progress with_reducible refine Sound.set ?_ rfl rfl rfl rfl rfl rfl rfl
    | split

theorem doorbellWrite_sound (hs : Sound s₀ s) {f : Fin 5} {v : Word} : Sound s₀ (doorbellWrite f v s) := by
  unfold doorbellWrite
  try dsimp only
  repeat' first
    | with_reducible assumption
    | (with_reducible first | apply raiseCause_sound | apply modFunc_sound)
    | fail_if_no_progress with_reducible refine Sound.set ?_ rfl rfl rfl rfl rfl rfl rfl
    | exact fun _ hx => hx
    | split

theorem sendPending_sound (hs : Sound s₀ s) {f : Fin 5} {k : Nat} : Sound s₀ (sendPending s f k) := by
  unfold sendPending
  try dsimp only
  repeat' first
    | with_reducible assumption
    | (with_reducible first | apply sendMsix_sound | apply modFunc_sound)
    | fail_if_no_progress with_reducible refine Sound.set ?_ rfl rfl rfl rfl rfl rfl rfl
    | exact fun _ hx => hx
    | split

theorem msixWrite_sound (hs : Sound s₀ s) {f : Fin 5} {o : Nat} {v : Word} : Sound s₀ (msixWrite f o v s) := by
  unfold msixWrite
  try dsimp only
  repeat' first
    | with_reducible assumption
    | (with_reducible first | apply sendPending_sound | apply modFunc_sound)
    | fail_if_no_progress with_reducible refine Sound.set ?_ rfl rfl rfl rfl rfl rfl rfl
    | exact fun _ hx => hx

theorem queueBlockWrite_sound (hs : Sound s₀ s) {f : Fin 5} {q : Fin 16} {o : Nat} {v : Word} :
    Sound s₀ (queueBlockWrite f q o v s) := by
  unfold queueBlockWrite
  try dsimp only
  repeat' first
    | with_reducible assumption
    | (with_reducible first | apply doSqTailWrite_sound | apply doCqHeadWrite_sound | apply modQueue_sound)
    | fail_if_no_progress with_reducible refine Sound.set ?_ rfl rfl rfl rfl rfl rfl rfl
    | split

theorem vfOnly_sound (hs : Sound s₀ s) {f : Fin 5} {g : Func → Func} (hg : ∀ F, (g F).events = F.events) :
    Sound s₀ (if f = 0 then s else modFunc s f g) := by
  split
  · exact hs
  · exact modFunc_sound hs fun F hF => by rw [hg]; exact hF

theorem bar0Write4_sound (hs : Sound s₀ s) {f : Fin 5} {off : Nat} {v : Word} : Sound s₀ (bar0Write4 f off v s) := by
  unfold bar0Write4
  dsimp only
  by_cases h0 : off = 0x10
  · simp only [h0, if_true]; exact doorbellWrite_sound hs
  rw [if_neg h0]
  by_cases h1 : off = 0x14
  · rw [if_pos h1]; exact modFunc_sound hs fun _ hx => hx
  rw [if_neg h1]
  by_cases h2 : off = 0x20
  · rw [if_pos h2]; exact modFunc_sound hs fun _ hx => hx
  rw [if_neg h2]
  by_cases h3 : off = 0x24
  · rw [if_pos h3]; exact modFunc_sound hs fun _ hx => hx
  rw [if_neg h3]
  by_cases h4 : off = 0x50
  · rw [if_pos h4]; exact vfOnly_sound hs fun _ => rfl
  rw [if_neg h4]
  by_cases h5 : off = 0x54
  · rw [if_pos h5]; exact vfOnly_sound hs fun _ => rfl
  rw [if_neg h5]
  by_cases h6 : off = 0x58
  · rw [if_pos h6]; exact doWinCommit_sound hs
  rw [if_neg h6]
  by_cases h7 : off = 0x5C
  · rw [if_pos h7]; exact vfOnly_sound hs fun _ => rfl
  rw [if_neg h7]
  split
  · exact queueBlockWrite_sound hs
  split
  · exact modFunc_sound hs fun _ hx => hx
  split
  · exact cvuWrite_sound hs
  split
  · exact msixWrite_sound hs
  · exact hs

theorem bar0Write_sound (hs : Sound s₀ s) {f : Fin 5} {off : Nat} {size : Nat} {v : DWord} :
    Sound s₀ (bar0Write f off size v s) := by
  unfold bar0Write
  repeat' first
    | with_reducible assumption
    | (with_reducible first | apply bar0Write4_sound)
    | split

theorem sriovWrite_sound (hs : Sound s₀ s) {enable : Bool} {v : DWord} : Sound s₀ (sriovWrite enable v s) := by
  unfold sriovWrite
  try dsimp only
  repeat' first
    | with_reducible assumption
    | fail_if_no_progress with_reducible refine Sound.set ?_ rfl rfl rfl rfl rfl rfl rfl

theorem doRegisterWrite_sound (hs : Sound s₀ s) {f : Fin 5} {tgt : RegTarget} {v : DWord} :
    Sound s₀ (doRegisterWrite f tgt v s) := by
  unfold doRegisterWrite
  try dsimp only
  repeat' first
    | with_reducible assumption
    | (with_reducible first
        | apply bar0Write_sound | apply sriovWrite_sound | apply modFunc_sound | apply sendPending_sound
        | apply foldl_sound)
    | fail_if_no_progress with_reducible refine Sound.set ?_ rfl rfl rfl rfl rfl rfl rfl
    | exact fun _ hx => hx
    | intro s x hx
    | intro s hx
    | split

theorem respond_sound (hs : Sound s₀ s) {f : Fin 5} {bs : List Byte} {st : Status} {payload : List Byte} :
    Sound s₀ (respond s f bs st payload) := by
  unfold respond
  try dsimp only
  repeat' first
    | with_reducible assumption
    | (with_reducible first | apply modFunc_sound | apply raiseCause_sound)
    | fail_if_no_progress with_reducible refine Sound.set ?_ rfl rfl rfl rfl rfl rfl rfl
    | exact fun _ hx => hx

theorem refuse_sound (h : Sound s₀ s) {st : Status} : Sound s₀ (refuse s st).1 := h

theorem accept_sound (h : Sound s₀ s) {payload : List Byte} : Sound s₀ (accept s payload).1 := h

theorem endChallenge_sound (hs : Sound s₀ s) {typ : Nat} : Sound s₀ (endChallenge s typ) := by
  unfold endChallenge
  try dsimp only
  repeat' first
    | with_reducible assumption
    | fail_if_no_progress with_reducible refine Sound.set ?_ rfl rfl rfl rfl rfl rfl rfl
    | split

theorem serve_sound (hs : Sound s₀ s) {f : Fin 5} {typ : Nat} {len : Nat} {pick : List Byte → Bool} {act : State →
     List Byte → Answer} (hact : ∀ s b0, Sound s₀ s → Sound s₀ (act s b0).1) :
    Sound s₀ (serve s f typ len pick act) := by
  unfold serve
  try dsimp only
  repeat' first
    | with_reducible assumption
    | (with_reducible first | apply respond_sound | apply endChallenge_sound)
    | apply hact
    | split

theorem doUnknownMessageType_sound (hs : Sound s₀ s) {f : Fin 5} : Sound s₀ (doUnknownMessageType f s) := by
  unfold doUnknownMessageType
  try dsimp only
  repeat' first
    | with_reducible assumption
    | (with_reducible first | apply respond_sound | apply endChallenge_sound)
    | split

theorem doQueueCreate_sound (hs : Sound s₀ s) {p : Fin 4} : Sound s₀ (doQueueCreate p s) := by
  unfold doQueueCreate
  try dsimp only
  repeat' first
    | with_reducible assumption
    | (with_reducible first | apply serve_sound | apply accept_sound | apply modQueue_sound | apply refuse_sound)
    | intro s b hx
    | intro s hx
    | split

theorem doQueueDestroy_sound (hs : Sound s₀ s) {p : Fin 4} : Sound s₀ (doQueueDestroy p s) := by
  unfold doQueueDestroy
  try dsimp only
  repeat' first
    | with_reducible assumption
    | (with_reducible first | apply respond_sound | apply modQueue_sound)
    | fail_if_no_progress with_reducible refine Sound.set ?_ rfl rfl rfl rfl rfl rfl rfl
    | split

theorem doQueueRemoved_sound (hs : Sound s₀ s) {p : Fin 4} : Sound s₀ (doQueueRemoved p s) := by
  unfold doQueueRemoved
  try dsimp only
  repeat' first
    | with_reducible assumption
    | (with_reducible first | apply respond_sound | apply modQueue_sound)
    | split

theorem doEventRead_sound (hs : Sound s₀ s) {f : Fin 5} : Sound s₀ (doEventRead f s) := by
  unfold doEventRead
  refine serve_sound hs fun s b hx => ?_
  dsimp only
  split
  · exact refuse_sound hx
  · exact accept_sound (modFunc_sound hx fun F hF => by simp only [List.length_drop]; omega)

theorem clearSets_sound (hs : Sound s₀ s) {p : Fin 4} {mask : DWord} {pol : Bool} :
    Sound s₀ (clearSets s p mask pol) := by
  unfold clearSets
  try dsimp only
  repeat' first
    | with_reducible assumption
    | (with_reducible first | apply snapEdge_sound | apply tick_sound)
    | fail_if_no_progress with_reducible refine Sound.set ?_ rfl rfl rfl rfl rfl rfl rfl
    | split

theorem doCounterClear_sound (hs : Sound s₀ s) : Sound s₀ (doCounterClear s) := by
  unfold doCounterClear
  try dsimp only
  repeat' first
    | with_reducible assumption
    | (with_reducible first
        | apply serve_sound | apply refuse_sound | apply clearSets_sound | apply traceRecord_sound
        | apply accept_sound)
    | intro s b hx
    | intro s hx
    | split

theorem readLines_sound (hs : Sound s₀ s) {p : Fin 4} {set : BitVec 16} {a stride bytes : Nat} {is : List Nat} :
    Sound s₀ (readLines s p set a stride bytes is).1 := by
  induction is generalizing s with
  | nil => exact hs
  | cons i is ih => exact ih (unitRead_sound hs)

theorem writeLines_sound (hs : Sound s₀ s) {p : Fin 4} {set : BitVec 16} {a stride : Nat}
    {ls : List (Nat × List Byte)} : Sound s₀ (writeLines s p set a stride ls).1 := by
  induction ls generalizing s with
  | nil => exact hs
  | cons x ls ih => exact ih (unitWrite_sound hs)

theorem noteCounts_sound (hs : Sound s₀ s) {p : Fin 4} {q : Fin 16} {n : Word} {set : BitVec 16} {sats : Nat}
     {flushes : Nat} {accf : Nat} :
    Sound s₀ (noteCounts s p q n set sats flushes accf) := by
  unfold noteCounts
  repeat' first
    | with_reducible assumption
    | (with_reducible first | apply addWarn_sound | apply countAdd_sound)

end Sys2Proof.Machine
end

