-- ==== Sys2Proof/Laws/SoundUnits.lean ====
section
/-! SUPPORT. `Sound` of the sluices, collectives, ports, upkeep, bring-up, firmware, the gauges, the governor and the
tile engines. -/

namespace Sys2Proof.Machine

variable {s₀ s t : State}

theorem runCheck_sound (hs : Sound s₀ s) {p : Fin 4} {q : Fin 16} {n : Word} {set : BitVec 16} {c : CheckCfg} {host
     : Bool} {srcA : Nat} {at_ : Nat} {source : Nat} {bs : List Byte} :
    Sound s₀ (runCheck s p q n set c host srcA at_ source bs).1 := by
  unfold runCheck
  try dsimp only
  repeat' first
    | with_reducible assumption
    | (with_reducible first
        | apply nextDraw_sound | apply unitWrite_sound | apply polderEvent_sound | apply foldl_sound
        | apply foldl_fst_sound)
    | fail_if_no_progress with_reducible refine Sound.set ?_ rfl rfl rfl rfl rfl rfl rfl
    | intro s x hx
    | split

theorem copyCheck_sound (hs : Sound s₀ s) {p : Fin 4} {q : Fin 16} {e : Entry} {d : SlDesc} {src : List (List Byte)}
     :
    Sound s₀ (copyCheck s p q e d src).1 := by
  unfold copyCheck
  repeat' first
    | with_reducible assumption
    | (with_reducible first | apply runCheck_sound)
    | split

theorem endCopy_sound (hs : Sound s₀ s) {p : Fin 4} {q : Fin 16} {e : Entry} {d : SlDesc} {src : List (List Byte)}
     {ok : Bool} :
    Sound s₀ (endCopy s p q e d src ok) := by
  unfold endCopy
  try dsimp only
  repeat' first
    | with_reducible assumption
    | (with_reducible first | apply failCmd_sound | apply copyCheck_sound | apply endCmd_sound)
    | split

theorem putLines_sound (hs : Sound s₀ s) {p : Fin 4} {q : Fin 16} {e : Entry} {d : SlDesc} {ls : List (Nat × List
     Byte)} {src : List (List Byte)} :
    Sound s₀ (putLines s p q e d ls src) := by
  unfold putLines
  try dsimp only
  repeat' first
    | with_reducible assumption
    | (with_reducible first
        | apply endCopy_sound | apply hostWrite_sound | apply writeLines_sound | apply spoilAreas_sound
        | apply foldl_sound | apply foldl_fst_sound)
    | intro s x hx
    | intro s hx
    | split

theorem moveSealed_sound (hs : Sound s₀ s) {p : Fin 4} {q : Fin 16} {e : Entry} {d : SlDesc} {h : HostRead} {k :
     JobKey} :
    Sound s₀ (moveSealed s p q e d h k) := by
  unfold moveSealed
  try dsimp only
  repeat' first
    | with_reducible assumption
    | (with_reducible first
        | apply writeLines_sound | apply endCmd_sound | apply spoilAreas_sound | apply endCopy_sound
        | apply readLines_sound | apply failCmd_sound | apply hostWrite_sound | apply modPolder_sound)
    | fail_if_no_progress with_reducible refine Sound.set ?_ rfl rfl rfl rfl rfl rfl rfl
    | split

theorem queueLine_sound (hs : Sound s₀ s) {k : Nat} {p : Fin 4} {j : Fin 6} {id : Word} {a : Nat} {bs : List Byte} :
    Sound s₀ (queueLine k s p j id a bs) := by
  induction k generalizing s a bs with
  | zero => exact hs
  | succ k ih =>
    simp only [queueLine]
    split
    · exact hs
    · exact ih (queueSealed_sound hs)

theorem movePeer_sound (hs : Sound s₀ s) {p : Fin 4} {q : Fin 16} {e : Entry} {d : SlDesc} {ls : List (List Byte)} :
    Sound s₀ (movePeer s p q e d ls) := by
  unfold movePeer
  try dsimp only
  repeat' first
    | with_reducible assumption
    | (with_reducible first
        | apply queueLine_sound | apply sendSealed_sound | apply countAdd_sound | apply modPolder_sound
        | apply setBody_sound | apply foldl_sound | apply foldl_fst_sound)
    | fail_if_no_progress with_reducible refine Sound.set ?_ rfl rfl rfl rfl rfl rfl rfl
    | intro s x hx

theorem moveAct_sound (hs : Sound s₀ s) {p : Fin 4} {q : Fin 16} {e : Entry} {d : SlDesc} {h : HostRead} :
    Sound s₀ (moveAct s p q e d h) := by
  unfold moveAct
  try dsimp only
  repeat' first
    | with_reducible assumption
    | (with_reducible first
        | apply endCmd_sound | apply setAreas_sound | apply failCmd_sound | apply moveSealed_sound
        | apply readLines_sound | apply copyCheck_sound | apply movePeer_sound | apply putLines_sound)
    | split

theorem doMove_sound (hs : Sound s₀ s) {p : Fin 4} {q : Fin 16} {e : Entry} {h : HostRead} :
    Sound s₀ (doMove p q e h s) := by
  unfold doMove
  try dsimp only
  repeat' first
    | with_reducible assumption
    | (with_reducible first | apply runEntry_sound | apply moveAct_sound)
    | intro s hx

theorem fillAct_sound (hs : Sound s₀ s) {p : Fin 4} {q : Fin 16} {e : Entry} {d : SlDesc} :
    Sound s₀ (fillAct s p q e d) := by
  unfold fillAct
  try dsimp only
  repeat' first
    | with_reducible assumption
    | (with_reducible first | apply endCmd_sound | apply setAreas_sound | apply putLines_sound)
    | split

theorem doFill_sound (hs : Sound s₀ s) {p : Fin 4} {q : Fin 16} {e : Entry} : Sound s₀ (doFill p q e s) := by
  unfold doFill
  try dsimp only
  repeat' first
    | with_reducible assumption
    | (with_reducible first | apply runEntry_sound | apply fillAct_sound)
    | intro s hx

theorem readIndices_sound (hs : Sound s₀ s) {p : Fin 4} {set : BitVec 16} {d : SlDesc} :
    Sound s₀ (readIndices s p set d).1 := by
  unfold readIndices
  try dsimp only
  repeat' first
    | with_reducible assumption
    | (with_reducible first | apply unitRead_sound)

theorem indexedAct_sound (hs : Sound s₀ s) {p : Fin 4} {q : Fin 16} {e : Entry} {d : SlDesc} :
    Sound s₀ (indexedAct s p q e d) := by
  unfold indexedAct
  try dsimp only
  repeat' first
    | with_reducible assumption
    | (with_reducible first
        | apply endCmd_sound | apply setAreas_sound | apply readIndices_sound | apply failCmd_sound
        | apply readLines_sound | apply putLines_sound)
    | split

theorem doGather_sound (hs : Sound s₀ s) {p : Fin 4} {q : Fin 16} {e : Entry} : Sound s₀ (doGather p q e s) := by
  unfold doGather
  try dsimp only
  repeat' first
    | with_reducible assumption
    | (with_reducible first | apply runEntry_sound | apply indexedAct_sound)
    | intro s hx

theorem doScatter_sound (hs : Sound s₀ s) {p : Fin 4} {q : Fin 16} {e : Entry} : Sound s₀ (doScatter p q e s) := by
  unfold doScatter
  try dsimp only
  repeat' first
    | with_reducible assumption
    | (with_reducible first | apply runEntry_sound | apply indexedAct_sound)
    | intro s hx

theorem bucketAct_sound (hs : Sound s₀ s) {p : Fin 4} {q : Fin 16} {e : Entry} {d : SlDesc} :
    Sound s₀ (bucketAct s p q e d) := by
  unfold bucketAct
  try dsimp only
  repeat' first
    | with_reducible assumption
    | (with_reducible first
        | apply endCmd_sound | apply setAreas_sound | apply readLines_sound | apply noteCounts_sound
        | apply putLines_sound | apply failCmd_sound)
    | split

theorem doBucketAdd_sound (hs : Sound s₀ s) {p : Fin 4} {q : Fin 16} {e : Entry} :
    Sound s₀ (doBucketAdd p q e s) := by
  unfold doBucketAdd
  try dsimp only
  repeat' first
    | with_reducible assumption
    | (with_reducible first | apply runEntry_sound | apply bucketAct_sound)
    | intro s hx

theorem crcAct_sound (hs : Sound s₀ s) {p : Fin 4} {q : Fin 16} {e : Entry} {bs : List Byte} :
    Sound s₀ (crcAct s p q e bs) := by
  unfold crcAct
  try dsimp only
  repeat' first
    | with_reducible assumption
    | (with_reducible first
        | apply setAreas_sound | apply readLines_sound | apply failCmd_sound | apply runCheck_sound
        | apply endCmd_sound)
    | split

theorem doCrc_sound (hs : Sound s₀ s) {p : Fin 4} {q : Fin 16} {e : Entry} : Sound s₀ (doCrc p q e s) := by
  unfold doCrc
  try dsimp only
  repeat' first
    | with_reducible assumption
    | (with_reducible first | apply runEntry_sound | apply crcAct_sound)
    | intro s hx

theorem dropArrivals_sound (hs : Sound s₀ s) {p : Fin 4} {id : Word} {ok : DWord → Bool} :
    Sound s₀ (dropArrivals s p id ok) := by
  unfold dropArrivals
  try dsimp only
  repeat' first
    | with_reducible assumption
    | (with_reducible first | apply modPolder_sound)

theorem releaseKids_sound (hs : Sound s₀ s) {p : Fin 4} {kids : BitVec 6} {op : Nat} {id : Word} {v : DWord} :
    Sound s₀ (releaseKids s p kids op id v) := by
  unfold releaseKids
  try dsimp only
  repeat' first
    | with_reducible assumption
    | (with_reducible first | apply sendToken_sound | apply foldl_sound)
    | intro s x hx

theorem sendArrival_sound (hs : Sound s₀ s) {p : Fin 4} {parent : Nat} {op : Nat} {id : Word} {v : DWord} :
    Sound s₀ (sendArrival s p parent op id v) := by
  unfold sendArrival
  repeat' first
    | with_reducible assumption
    | (with_reducible first | apply sendToken_sound)

theorem barResult_sound (hs : Sound s₀ s) {p : Fin 4} {c : Cmd} {r : BarRun} {v : DWord} :
    Sound s₀ (barResult s p c r v) := by
  unfold barResult
  try dsimp only
  repeat' first
    | with_reducible assumption
    | (with_reducible first | apply unitWrite_sound | apply endCmd_sound | apply failCmd_sound)
    | split

theorem barRelease_sound (hs : Sound s₀ s) {p : Fin 4} {c : Cmd} {r : BarRun} {v : DWord} :
    Sound s₀ (barRelease s p c r v) := by
  unfold barRelease
  try dsimp only
  repeat' first
    | with_reducible assumption
    | (with_reducible first
        | apply modPolder_sound | apply dropArrivals_sound | apply barResult_sound | apply releaseKids_sound)

theorem barAdvance_sound (hs : Sound s₀ s) {p : Fin 4} {c : Cmd} {r : BarRun} : Sound s₀ (barAdvance s p c r) := by
  unfold barAdvance
  try dsimp only
  repeat' first
    | with_reducible assumption
    | (with_reducible first
        | apply barRelease_sound | apply setBody_sound | apply sendArrival_sound | apply foldl_sound)
    | fail_if_no_progress with_reducible refine Sound.set ?_ rfl rfl rfl rfl rfl rfl rfl
    | intro s x hx
    | split

theorem doBarrier_sound (hs : Sound s₀ s) {p : Fin 4} {q : Fin 16} {e : Entry} : Sound s₀ (doBarrier p q e s) := by
  unfold doBarrier
  try dsimp only
  repeat' first
    | with_reducible assumption
    | (with_reducible first
        | apply runEntry_sound | apply noteAccess_sound | apply setAreas_sound | apply setBody_sound
        | apply barResult_sound | apply barAdvance_sound)
    | intro s hx
    | split

theorem queuePiece_sound (hs : Sound s₀ s) {p : Fin 4} {c : Cmd} {r : RedRun} {j : Fin 6} {o : Nat} {payload : List
     Byte} :
    Sound s₀ (queuePiece s p c r j o payload) := by
  unfold queuePiece
  repeat' first
    | with_reducible assumption
    | (with_reducible first | apply countAdd_sound | apply queueSealed_sound)

theorem sendSums_sound (hs : Sound s₀ s) {p : Fin 4} {c : Cmd} {r : RedRun} {h : Nat} {d : Nat} {lo : Nat} {hi :
     Nat} :
    Sound s₀ (sendSums s p c r h d lo hi) := by
  unfold sendSums
  try dsimp only
  repeat' first
    | with_reducible assumption
    | (with_reducible first
        | apply flush_sound | apply queuePiece_sound | apply foldl_sound | apply foldl_fst_sound)
    | intro s x hx

theorem sendBits_sound (hs : Sound s₀ s) {p : Fin 4} {c : Cmd} {r : RedRun} {h : Nat} {d : Nat} {lo : Nat} {hi :
     Nat} :
    Sound s₀ (sendBits s p c r h d lo hi) := by
  unfold sendBits
  try dsimp only
  repeat' first
    | with_reducible assumption
    | (with_reducible first
        | apply flush_sound | apply queuePiece_sound | apply foldl_sound | apply foldl_fst_sound)
    | intro s x hx

theorem writeOwned_sound (hs : Sound s₀ s) {p : Fin 4} {c : Cmd} {r : RedRun} {h : Nat} :
    Sound s₀ (writeOwned s p c r h).1 := by
  unfold writeOwned
  try dsimp only
  repeat' first
    | with_reducible assumption
    | (with_reducible first | apply unitRead_sound | apply unitWrite_sound | apply noteCounts_sound)
    | split

theorem kickHalf_sound (hs : Sound s₀ s) {p : Fin 4} {c : Cmd} {r : RedRun} {h : Nat} :
    Sound s₀ (kickHalf s p c r h).1 := by
  unfold kickHalf
  try dsimp only
  repeat' first
    | with_reducible assumption
    | (with_reducible first
        | apply sendSums_sound | apply writeOwned_sound | apply sendBits_sound | apply foldl_sound
        | apply foldl_fst_sound)
    | intro s x hx
    | split

theorem setRed_sound (hs : Sound s₀ s) {p : Fin 4} {c : Cmd} {r : RedRun} : Sound s₀ (setRed s p c r) := by
  unfold setRed
  repeat' first
    | with_reducible assumption
    | (with_reducible first | apply setBody_sound)

theorem writePartial_sound (hs : Sound s₀ s) {p : Fin 4} {c : Cmd} {r : RedRun} :
    Sound s₀ (writePartial s p c r).1 := by
  unfold writePartial
  try dsimp only
  repeat' first
    | with_reducible assumption
    | (with_reducible first | apply unitWrite_sound)
    | split

theorem redCommit_sound (hs : Sound s₀ s) {p : Fin 4} {c : Cmd} {r : RedRun} : Sound s₀ (redCommit s p c r) := by
  unfold redCommit
  try dsimp only
  repeat' first
    | with_reducible assumption
    | (with_reducible first
        | apply releaseKids_sound | apply unitWrite_sound | apply setAreas_sound | apply endCmd_sound
        | apply failCmd_sound)
    | split

theorem closeAdvance_sound (hs : Sound s₀ s) {p : Fin 4} {c : Cmd} {r : RedRun} :
    Sound s₀ (closeAdvance s p c r) := by
  unfold closeAdvance
  try dsimp only
  repeat' first
    | with_reducible assumption
    | (with_reducible first
        | apply setRed_sound | apply dropArrivals_sound | apply redCommit_sound | apply sendArrival_sound)
    | fail_if_no_progress with_reducible refine Sound.set ?_ rfl rfl rfl rfl rfl rfl rfl
    | split

theorem redKick_sound (hs : Sound s₀ s) {p : Fin 4} {c : Cmd} {r : RedRun} : Sound s₀ (redKick s p c r) := by
  unfold redKick
  try dsimp only
  repeat' first
    | with_reducible assumption
    | (with_reducible first
        | apply kickHalf_sound | apply failCmd_sound | apply writePartial_sound | apply closeAdvance_sound
        | apply setRed_sound | apply foldl_sound | apply foldl_fst_sound)
    | fail_if_no_progress with_reducible refine Sound.set ?_ rfl rfl rfl rfl rfl rfl rfl
    | intro s x hx
    | split

theorem redBegin_sound (hs : Sound s₀ s) {p : Fin 4} {c : Cmd} {r : RedRun} {attempt : Nat} :
    Sound s₀ (redBegin s p c r attempt) := by
  unfold redBegin
  try dsimp only
  repeat' first
    | with_reducible assumption
    | (with_reducible first
        | apply modPolder_sound | apply releaseKids_sound | apply redKick_sound | apply unitRead_sound
        | apply failCmd_sound)
    | fail_if_no_progress with_reducible refine Sound.set ?_ rfl rfl rfl rfl rfl rfl rfl
    | split

theorem finalRelease_sound (hs : Sound s₀ s) {p : Fin 4} {c : Cmd} {r : RedRun} {v : DWord} :
    Sound s₀ (finalRelease s p c r v) := by
  unfold finalRelease
  try dsimp only
  repeat' first
    | with_reducible assumption
    | (with_reducible first
        | apply releaseKids_sound | apply dropArrivals_sound | apply unitWrite_sound | apply endCmd_sound
        | apply failCmd_sound)
    | split

theorem finalAdvance_sound (hs : Sound s₀ s) {p : Fin 4} {c : Cmd} {r : RedRun} :
    Sound s₀ (finalAdvance s p c r) := by
  unfold finalAdvance
  try dsimp only
  repeat' first
    | with_reducible assumption
    | (with_reducible first
        | apply setRed_sound | apply finalRelease_sound | apply sendArrival_sound | apply foldl_sound)
    | fail_if_no_progress with_reducible refine Sound.set ?_ rfl rfl rfl rfl rfl rfl rfl
    | intro s x hx
    | split

theorem startAdvance_sound (hs : Sound s₀ s) {p : Fin 4} {c : Cmd} {r : RedRun} :
    Sound s₀ (startAdvance s p c r) := by
  unfold startAdvance
  try dsimp only
  repeat' first
    | with_reducible assumption
    | (with_reducible first
        | apply setRed_sound | apply dropArrivals_sound | apply redBegin_sound | apply sendArrival_sound)
    | fail_if_no_progress with_reducible refine Sound.set ?_ rfl rfl rfl rfl rfl rfl rfl
    | split

theorem redAdvance_sound (hs : Sound s₀ s) {p : Fin 4} {c : Cmd} {r : RedRun} : Sound s₀ (redAdvance s p c r) := by
  unfold redAdvance
  try dsimp only
  repeat' first
    | with_reducible assumption
    | (with_reducible first | apply startAdvance_sound | apply closeAdvance_sound | apply finalAdvance_sound)
    | split

theorem doReduce_sound (hs : Sound s₀ s) {p : Fin 4} {q : Fin 16} {e : Entry} : Sound s₀ (doReduce p q e s) := by
  unfold doReduce
  try dsimp only
  repeat' first
    | with_reducible assumption
    | (with_reducible first
        | apply runEntry_sound | apply endCmd_sound | apply noteAccess_sound | apply setAreas_sound
        | apply finalAdvance_sound | apply sendArrival_sound | apply startAdvance_sound)
    | fail_if_no_progress with_reducible refine Sound.set ?_ rfl rfl rfl rfl rfl rfl rfl
    | intro s hx
    | split

theorem treeAdvance_sound (hs : Sound s₀ s) {p : Fin 4} {id : Word} : Sound s₀ (treeAdvance s p id) := by
  unfold treeAdvance
  try dsimp only
  repeat' first
    | with_reducible assumption
    | (with_reducible first | apply barAdvance_sound | apply redAdvance_sound | apply foldl_sound)
    | intro s x hx
    | intro s hx
    | split

theorem takeArrival_sound (hs : Sound s₀ s) {p : Fin 4} {j : Fin 6} {op : BitVec 3} {id : Word} {v : DWord} :
    Sound s₀ (takeArrival s p j op id v) := by
  unfold takeArrival
  try dsimp only
  repeat' first
    | with_reducible assumption
    | (with_reducible first | apply sendToken_sound | apply treeAdvance_sound | apply modPolder_sound)
    | fail_if_no_progress with_reducible refine Sound.set ?_ rfl rfl rfl rfl rfl rfl rfl
    | split

theorem releaseTo_sound (hs : Sound s₀ s) {p : Fin 4} {j : Fin 6} {v : DWord} {c : Cmd} :
    Sound s₀ (releaseTo s p j v c) := by
  unfold releaseTo
  try dsimp only
  repeat' first
    | with_reducible assumption
    | (with_reducible first
        | apply barRelease_sound | apply finalRelease_sound | apply redCommit_sound | apply redBegin_sound)
    | split

theorem takeRelease_sound (hs : Sound s₀ s) {p : Fin 4} {j : Fin 6} {id : Word} {v : DWord} :
    Sound s₀ (takeRelease s p j id v) := by
  unfold takeRelease
  try dsimp only
  repeat' first
    | with_reducible assumption
    | (with_reducible first | apply releaseTo_sound | apply foldl_sound)
    | intro s x hx
    | intro s hx
    | split

theorem abandonAttempts_sound (hs : Sound s₀ s) {p : Fin 4} : Sound s₀ (abandonAttempts s p) := by
  unfold abandonAttempts
  try dsimp only
  repeat' first
    | with_reducible assumption
    | (with_reducible first | apply dropArrivals_sound | apply startAdvance_sound | apply foldl_sound)
    | fail_if_no_progress with_reducible refine Sound.set ?_ rfl rfl rfl rfl rfl rfl rfl
    | intro s x hx
    | intro s hx
    | split

theorem collect_sound (hs : Sound s₀ s) {p : Fin 4} {c : Cmd} {r : RedRun} {j : Fin 6} {o : Nat}
    {payload : List Byte} {u : State} (h : collect s p c r j o payload = .take u) : Sound s₀ u := by
  unfold collect at h
  dsimp only at h
  repeat' split at h
  all_goals cases h
  all_goals
    repeat' first
      | with_reducible assumption
      | (with_reducible first
          | apply redKick_sound | apply sendSums_sound | apply countAdd_sound | apply unitWrite_sound
          | apply sendBits_sound | apply failCmd_sound)
      | split

theorem takeCollective_sound (hs : Sound s₀ s) {p : Fin 4} {j : Fin 6} {tag : Word} {attempt o : Nat}
    {payload : List Byte} {u : State} (h : takeCollective s p j tag attempt o payload = .take u) : Sound s₀ u := by
  unfold takeCollective at h
  dsimp only at h
  repeat' split at h
  all_goals first
    | exact collect_sound hs h
    | cases h

theorem doBarrierTimeout_sound (hs : Sound s₀ s) {p : Fin 4} {q : Fin 16} {n : Word} :
    Sound s₀ (doBarrierTimeout p q n s) := by
  unfold doBarrierTimeout
  try dsimp only
  repeat' first
    | with_reducible assumption
    | (with_reducible first | apply failCmd_sound | apply modPolder_sound)
    | split

theorem doReduceTimeout_sound (hs : Sound s₀ s) {p : Fin 4} {q : Fin 16} {n : Word} :
    Sound s₀ (doReduceTimeout p q n s) := by
  unfold doReduceTimeout
  try dsimp only
  repeat' first
    | with_reducible assumption
    | (with_reducible first | apply failCmd_sound | apply modPolder_sound)
    | split

theorem trainPort_sound (hs : Sound s₀ s) {j : Fin 6} : Sound s₀ (trainPort s j) := by
  unfold trainPort
  try dsimp only
  repeat' first
    | with_reducible assumption
    | (with_reducible first | apply modPort_sound)

theorem fallBack_sound (hs : Sound s₀ s) {j : Fin 6} : Sound s₀ (fallBack s j) := by
  unfold fallBack
  try dsimp only
  repeat' first
    | with_reducible assumption
    | (with_reducible first | apply putToken_sound | apply modPort_sound | apply foldl_sound)
    | fail_if_no_progress with_reducible refine Sound.set ?_ rfl rfl rfl rfl rfl rfl rfl
    | intro s x hx
    | intro s hx
    | split

theorem trainLevee_sound (hs : Sound s₀ s) {j : Fin 6} : Sound s₀ (trainLevee s j) := by
  unfold trainLevee
  try dsimp only
  repeat' first
    | with_reducible assumption
    | (with_reducible first | apply modPort_sound)

theorem comeUp_sound (hs : Sound s₀ s) {j : Fin 6} {x : PortTraining} : Sound s₀ (comeUp s j x) := by
  unfold comeUp
  try dsimp only
  repeat' first
    | with_reducible assumption
    | (with_reducible first | apply modPort_sound | apply sendPlain_sound | apply fallBack_sound)
    | fail_if_no_progress with_reducible refine Sound.set ?_ rfl rfl rfl rfl rfl rfl rfl
    | split

theorem doPortBringupDone_sound (hs : Sound s₀ s) {j : Fin 6} {x : PortTraining} {hello : Hello} :
    Sound s₀ (doPortBringupDone j x hello s) := by
  unfold doPortBringupDone
  try dsimp only
  repeat' first
    | with_reducible assumption
    | (with_reducible first | apply comeUp_sound | apply modPort_sound)
    | fail_if_no_progress with_reducible refine Sound.set ?_ rfl rfl rfl rfl rfl rfl rfl
    | split

theorem failPort_sound (hs : Sound s₀ s) {j : Fin 6} : Sound s₀ (failPort s j) := by
  unfold failPort
  try dsimp only
  repeat' first
    | with_reducible assumption
    | (with_reducible first | apply faultC2_sound | apply modPort_sound)

theorem doPortRetrainTimeout_sound (hs : Sound s₀ s) {j : Fin 6} : Sound s₀ (doPortRetrainTimeout j s) := by
  unfold doPortRetrainTimeout
  repeat' first
    | with_reducible assumption
    | (with_reducible first | apply failPort_sound)
    | split

theorem doReplayRequestReceived_sound (hs : Sound s₀ s) {j : Fin 6} {ack : BitVec 12} :
    Sound s₀ (doReplayRequestReceived j ack s) := by
  unfold doReplayRequestReceived
  try dsimp only
  repeat' first
    | with_reducible assumption
    | (with_reducible first | apply modPort_sound)
    | split

theorem doReplayTimeout_sound (hs : Sound s₀ s) {j : Fin 6} : Sound s₀ (doReplayTimeout j s) := by
  unfold doReplayTimeout
  repeat' first
    | with_reducible assumption
    | (with_reducible first | apply modPort_sound)
    | split

theorem loseLane_sound (hs : Sound s₀ s) {j : Fin 6} {l : Nat} : Sound s₀ (loseLane s j l) := by
  unfold loseLane
  try dsimp only
  repeat' first
    | with_reducible assumption
    | (with_reducible first | apply failPort_sound | apply modPort_sound | apply makeRemap_sound)
    | fail_if_no_progress with_reducible refine Sound.set ?_ rfl rfl rfl rfl rfl rfl rfl
    | split

theorem settleSwitches_sound (hs : Sound s₀ s) {j : Fin 6} : Sound s₀ (settleSwitches s j) := by
  unfold settleSwitches
  try dsimp only
  repeat' first
    | with_reducible assumption
    | (with_reducible first
        | apply loseLane_sound | apply modPort_sound | apply foldl_sound | apply foldl_fst_sound)
    | fail_if_no_progress with_reducible refine Sound.set ?_ rfl rfl rfl rfl rfl rfl rfl
    | intro s x hx

theorem switchLane_sound (hs : Sound s₀ s) {j : Fin 6} {l : Nat} : Sound s₀ (switchLane s j l) := by
  unfold switchLane
  try dsimp only
  repeat' first
    | with_reducible assumption
    | (with_reducible first | apply modPort_sound | apply settleSwitches_sound | apply flush_sound)

theorem doFlitReceived_sound (hs : Sound s₀ s) {j : Fin 6} {x : RxFlit} : Sound s₀ (doFlitReceived j x s) := by
  unfold doFlitReceived
  try dsimp only
  repeat' first
    | with_reducible assumption
    | (with_reducible first | apply settleSwitches_sound | apply modPort_sound)
    | split

theorem doLaneErrorWindow_sound (hs : Sound s₀ s) {j : Fin 6} {lanes : List LaneCount} {levee : LaneCount} :
    Sound s₀ (doLaneErrorWindow j lanes levee s) := by
  unfold doLaneErrorWindow
  try dsimp only
  repeat' first
    | with_reducible assumption
    | (with_reducible first
        | apply modPort_sound | apply switchLane_sound | apply fallBack_sound | apply foldl_sound
        | apply foldl_fst_sound)
    | fail_if_no_progress with_reducible refine Sound.set ?_ rfl rfl rfl rfl rfl rfl rfl
    | intro s x hx
    | intro s hx
    | split

theorem popMsg_sound (hs : Sound s₀ s) {j : Fin 6} {cls : Fin 4} {rest : List Byte} :
    Sound s₀ (popMsg s j cls rest) := by
  unfold popMsg
  try dsimp only
  repeat' first
    | with_reducible assumption
    | (with_reducible first | apply modPort_sound)

theorem refuseMsg_sound (hs : Sound s₀ s) {j : Fin 6} {m : Msg} : Sound s₀ (refuseMsg s j m) := by
  unfold refuseMsg
  repeat' first
    | with_reducible assumption
    | (with_reducible first | apply sendPlain_sound)

theorem refuseWrite_sound (hs : Sound s₀ s) {j : Fin 6} {m : Msg} : Sound s₀ (refuseWrite s j m) := by
  unfold refuseWrite
  try dsimp only
  repeat' first
    | with_reducible assumption
    | (with_reducible first
        | apply spoil_sound | apply refuseMsg_sound | apply modPort_sound | apply refused_sound
        | apply foldl_sound | apply foldl_fst_sound)
    | fail_if_no_progress with_reducible refine Sound.set ?_ rfl rfl rfl rfl rfl rfl rfl
    | intro s x hx

theorem badMsg_sound (hs : Sound s₀ s) {j : Fin 6} {m : Msg} : Sound s₀ (badMsg s j m) := by
  unfold badMsg
  try dsimp only
  repeat' first
    | with_reducible assumption
    | (with_reducible first | apply modPort_sound | apply refuseWrite_sound | apply refuseMsg_sound)
    | fail_if_no_progress with_reducible refine Sound.set ?_ rfl rfl rfl rfl rfl rfl rfl
    | split

theorem landWrite_sound (hs : Sound s₀ s) {p : Fin 4} {j : Fin 6} {m : Msg} {bs : List Byte} :
    Sound s₀ (landWrite s p j m bs) := by
  unfold landWrite
  try dsimp only
  repeat' first
    | with_reducible assumption
    | (with_reducible first
        | apply refuseWrite_sound | apply memWrite_sound | apply modPort_sound | apply touch_sound)
    | fail_if_no_progress with_reducible refine Sound.set ?_ rfl rfl rfl rfl rfl rfl rfl
    | split

theorem doWriteDataReceived_sound (hs : Sound s₀ s) {j : Fin 6} : Sound s₀ (doWriteDataReceived j s) := by
  unfold doWriteDataReceived
  try dsimp only
  repeat' first
    | with_reducible assumption
    | (with_reducible first
        | apply popMsg_sound | apply refuseWrite_sound | apply badMsg_sound | apply bumpIv_sound
        | apply landWrite_sound)
    | split

theorem confirmWrite_sound (hs : Sound s₀ s) {p : Fin 4} {j : Fin 6} {m : Msg} {bs : List Byte} :
    Sound s₀ (confirmWrite s p j m bs) := by
  unfold confirmWrite
  try dsimp only
  repeat' first
    | with_reducible assumption
    | (with_reducible first
        | apply refused_sound | apply modPort_sound | apply sendSealed_sound | apply signal_sound)
    | fail_if_no_progress with_reducible refine Sound.set ?_ rfl rfl rfl rfl rfl rfl rfl
    | split

theorem endRemote_sound (hs : Sound s₀ s) {p : Fin 4} {id : Word} {st : Status} : Sound s₀ (endRemote s p id st) := by
  unfold endRemote
  try dsimp only
  repeat' first
    | with_reducible assumption
    | (with_reducible first
        | apply modPolder_sound | apply endCmd_sound | apply countAdd_sound | apply failCmd_sound)
    | fail_if_no_progress with_reducible refine Sound.set ?_ rfl rfl rfl rfl rfl rfl rfl
    | split

theorem doWriteDoneReceived_sound (hs : Sound s₀ s) {j : Fin 6} : Sound s₀ (doWriteDoneReceived j s) := by
  unfold doWriteDoneReceived
  try dsimp only
  repeat' first
    | with_reducible assumption
    | (with_reducible first
        | apply popMsg_sound | apply refuseWrite_sound | apply badMsg_sound | apply bumpIv_sound
        | apply endRemote_sound | apply confirmWrite_sound)
    | split

theorem doCollectiveDataReceived_sound (hs : Sound s₀ s) {j : Fin 6} : Sound s₀ (doCollectiveDataReceived j s) := by
  unfold doCollectiveDataReceived
  try dsimp only
  repeat' first
    | with_reducible assumption
    | (with_reducible first
        | apply popMsg_sound | apply refuseMsg_sound | apply badMsg_sound | apply bumpIv_sound)
    | (refine takeCollective_sound ?_ (by assumption))
    | split

theorem returnCredit_sound (hs : Sound s₀ s) {j : Fin 6} : Sound s₀ (returnCredit s j) := by
  unfold returnCredit
  try dsimp only
  repeat' first
    | with_reducible assumption
    | (with_reducible first | apply modPort_sound)
    | fail_if_no_progress with_reducible refine Sound.set ?_ rfl rfl rfl rfl rfl rfl rfl
    | split

theorem arriveToken_sound (hs : Sound s₀ s) {j : Fin 6} {t : Token} : Sound s₀ (arriveToken s j t) := by
  unfold arriveToken
  try dsimp only
  repeat' first
    | with_reducible assumption
    | (with_reducible first | apply takeArrival_sound)
    | split

theorem releaseToken_sound (hs : Sound s₀ s) {j : Fin 6} {t : Token} : Sound s₀ (releaseToken s j t) := by
  unfold releaseToken
  try dsimp only
  repeat' first
    | with_reducible assumption
    | (with_reducible first | apply takeRelease_sound)
    | split

theorem faultToken_sound (hs : Sound s₀ s) {j : Fin 6} {t : Token} : Sound s₀ (faultToken s j t) := by
  unfold faultToken
  try dsimp only
  repeat' first
    | with_reducible assumption
    | (with_reducible first
        | apply modPort_sound | apply sendToken_sound | apply abandonAttempts_sound | apply foldl_sound)
    | fail_if_no_progress with_reducible refine Sound.set ?_ rfl rfl rfl rfl rfl rfl rfl
    | intro s x hx
    | intro s hx
    | split

theorem creditToken_sound (hs : Sound s₀ s) {j : Fin 6} {t : Token} : Sound s₀ (creditToken s j t) := by
  unfold creditToken
  try dsimp only
  repeat' first
    | with_reducible assumption
    | (with_reducible first | apply modPort_sound)
    | fail_if_no_progress with_reducible refine Sound.set ?_ rfl rfl rfl rfl rfl rfl rfl
    | split

theorem onLevee_sound (hs : Sound s₀ s) {j : Fin 6} {t : Token} {typ : Byte} {act : State → State} (hact : ∀ s,
     Sound s₀ s → Sound s₀ (act s)) :
    Sound s₀ (onLevee s j t typ act) := by
  unfold onLevee
  repeat' first
    | with_reducible assumption
    | (with_reducible first | apply returnCredit_sound)
    | apply hact
    | intro s hx
    | split

theorem doLeveeArriveReceived_sound (hs : Sound s₀ s) {j : Fin 6} {t : Token} :
    Sound s₀ (doLeveeArriveReceived j t s) := by
  unfold doLeveeArriveReceived
  try dsimp only
  repeat' first
    | with_reducible assumption
    | (with_reducible first | apply onLevee_sound | apply arriveToken_sound)
    | intro s hx

theorem doLeveeReleaseReceived_sound (hs : Sound s₀ s) {j : Fin 6} {t : Token} :
    Sound s₀ (doLeveeReleaseReceived j t s) := by
  unfold doLeveeReleaseReceived
  try dsimp only
  repeat' first
    | with_reducible assumption
    | (with_reducible first | apply onLevee_sound | apply releaseToken_sound)
    | intro s hx

theorem doFaultTokenReceived_sound (hs : Sound s₀ s) {j : Fin 6} {t : Token} :
    Sound s₀ (doFaultTokenReceived j t s) := by
  unfold doFaultTokenReceived
  try dsimp only
  repeat' first
    | with_reducible assumption
    | (with_reducible first | apply onLevee_sound | apply faultToken_sound)
    | intro s hx

theorem doCreditTokenReceived_sound (hs : Sound s₀ s) {j : Fin 6} {t : Token} :
    Sound s₀ (doCreditTokenReceived j t s) := by
  unfold doCreditTokenReceived
  repeat' first
    | with_reducible assumption
    | (with_reducible first | apply creditToken_sound)
    | split

theorem fallbackToken_sound (hs : Sound s₀ s) {j : Fin 6} {t : Token} : Sound s₀ (fallbackToken s j t) := by
  unfold fallbackToken
  repeat' first
    | with_reducible assumption
    | (with_reducible first
        | apply arriveToken_sound | apply releaseToken_sound | apply faultToken_sound
        | apply creditToken_sound)
    | split

theorem refused_sound (hs : Sound s₀ s) {j : Fin 6} {id : Word} {kind : Nat} : Sound s₀ (refused s j id kind) := by
  unfold refused
  try dsimp only
  repeat' first
    | with_reducible assumption
    | (with_reducible first | apply endRemote_sound | apply failCmd_sound)
    | split

theorem manage_sound (hs : Sound s₀ s) {j : Fin 6} {m : Msg} : Sound s₀ (manage s j m) := by
  unfold manage
  try dsimp only
  repeat' first
    | with_reducible assumption
    | (with_reducible first
        | apply fallbackToken_sound | apply modPort_sound | apply refused_sound | apply settleSwitches_sound)
    | fail_if_no_progress with_reducible refine Sound.set ?_ rfl rfl rfl rfl rfl rfl rfl
    | split

theorem doManagementMessageReceived_sound (hs : Sound s₀ s) {j : Fin 6} :
    Sound s₀ (doManagementMessageReceived j s) := by
  unfold doManagementMessageReceived
  try dsimp only
  repeat' first
    | with_reducible assumption
    | (with_reducible first | apply manage_sound | apply popMsg_sound)
    | split

theorem binFallback_sound (hs : Sound s₀ s) {m : Fin 32} {bin : Nat} {repair : Nat} :
    Sound s₀ (binFallback s m bin repair) := by
  unfold binFallback
  repeat' first
    | with_reducible assumption
    | (with_reducible first | apply spareUsedEvent_sound)

theorem retireSite_sound (hs : Sound s₀ s) {m : Fin 32} {repair : Nat} : Sound s₀ (retireSite s m repair) := by
  unfold retireSite
  try dsimp only
  repeat' first
    | with_reducible assumption
    | (with_reducible first | apply makeRemaps_sound)

theorem trainSite_sound (hs : Sound s₀ s) {m : Fin 32} {b : Nat} : Sound s₀ (trainSite s m b) := by
  unfold trainSite
  try dsimp only
  repeat' first
    | with_reducible assumption
    | (with_reducible first | apply nextDraw_sound | apply modSite_sound)
    | fail_if_no_progress with_reducible refine Sound.set ?_ rfl rfl rfl rfl rfl rfl rfl

theorem settleSite_sound (hs : Sound s₀ s) {m : Fin 32} {bin : Option Nat} {repair : Nat} :
    Sound s₀ (settleSite s m bin repair) := by
  unfold settleSite
  try dsimp only
  repeat' first
    | with_reducible assumption
    | (with_reducible first
        | apply trainSite_sound | apply binFallback_sound | apply retireSite_sound | apply modSite_sound)
    | fail_if_no_progress with_reducible refine Sound.set ?_ rfl rfl rfl rfl rfl rfl rfl
    | split

theorem doSiteTrainingDone_sound (hs : Sound s₀ s) {m : Fin 32} {good : Bool} :
    Sound s₀ (doSiteTrainingDone m good s) := by
  unfold doSiteTrainingDone
  try dsimp only
  repeat' first
    | with_reducible assumption
    | (with_reducible first | apply settleSite_sound | apply modSite_sound)
    | fail_if_no_progress with_reducible refine Sound.set ?_ rfl rfl rfl rfl rfl rfl rfl
    | split

theorem doRefresh_sound (hs : Sound s₀ s) {m : Fin 32} {ch : Fin 32} : Sound s₀ (doRefresh m ch s) := by
  unfold doRefresh
  try dsimp only
  repeat' first
    | with_reducible assumption
    | (with_reducible first | apply modSite_sound)
    | fail_if_no_progress with_reducible refine Sound.set ?_ rfl rfl rfl rfl rfl rfl rfl
    | split

theorem doZqCalibration_sound (hs : Sound s₀ s) {m : Fin 32} : Sound s₀ (doZqCalibration m s) := by
  unfold doZqCalibration
  try dsimp only
  repeat' first
    | with_reducible assumption
    | (with_reducible first | apply modSite_sound)
    | fail_if_no_progress with_reducible refine Sound.set ?_ rfl rfl rfl rfl rfl rfl rfl
    | split

theorem doWckDriftTrack_sound (hs : Sound s₀ s) {m : Fin 32} : Sound s₀ (doWckDriftTrack m s) := by
  unfold doWckDriftTrack
  try dsimp only
  repeat' first
    | with_reducible assumption
    | (with_reducible first | apply modSite_sound)
    | fail_if_no_progress with_reducible refine Sound.set ?_ rfl rfl rfl rfl rfl rfl rfl
    | split

theorem doChannelPowerDown_sound (hs : Sound s₀ s) {m : Fin 32} {ch : Fin 32} :
    Sound s₀ (doChannelPowerDown m ch s) := by
  unfold doChannelPowerDown
  try dsimp only
  repeat' first
    | with_reducible assumption
    | (with_reducible first | apply modSite_sound)
    | fail_if_no_progress with_reducible refine Sound.set ?_ rfl rfl rfl rfl rfl rfl rfl
    | split

theorem doSiteSelfRefresh_sound (hs : Sound s₀ s) {m : Fin 32} : Sound s₀ (doSiteSelfRefresh m s) := by
  unfold doSiteSelfRefresh
  try dsimp only
  repeat' first
    | with_reducible assumption
    | (with_reducible first | apply modSite_sound)
    | fail_if_no_progress with_reducible refine Sound.set ?_ rfl rfl rfl rfl rfl rfl rfl
    | split

theorem settleSleep_sound (hs : Sound s₀ s) : Sound s₀ (settleSleep s) := by
  unfold settleSleep
  try dsimp only
  repeat' first
    | with_reducible assumption
    | fail_if_no_progress with_reducible refine Sound.set ?_ rfl rfl rfl rfl rfl rfl rfl

theorem doScrub_sound (hs : Sound s₀ s) {a : Nat} {syms : Nat} : Sound s₀ (doScrub a syms s) := by
  unfold doScrub
  repeat' first
    | with_reducible assumption
    | (with_reducible first | apply correctedError_sound | apply uncorrectable_sound)
    | split

theorem doImbalanceWindow_sound (hs : Sound s₀ s) {p : Fin 4} : Sound s₀ (doImbalanceWindow p s) := by
  unfold doImbalanceWindow
  try dsimp only
  repeat' first
    | with_reducible assumption
    | (with_reducible first | apply polderEvent_sound | apply modPolder_sound)
    | fail_if_no_progress with_reducible refine Sound.set ?_ rfl rfl rfl rfl rfl rfl rfl
    | split

theorem runImage_sound (h : Sound s₀ s) : Sound s₀ (runImage s) := by
  refine h.trans ⟨rfl, ?_, fun i => ⟨i.mem, i.undef, i.hostMem, i.p0, i.events⟩⟩
  simp only [runImage]
  split
  · next hr =>
    simp only [Bool.and_eq_true, decide_eq_true_eq] at hr
    exact ⟨rfl, rfl, rfl, rfl, rfl, rfl, List.prefix_rfl, Nat.le_of_lt hr.2, .inl rfl⟩
  · exact .refl _

theorem applySlot_sound (hs : Sound s₀ s) : Sound s₀ (applySlot s) := by
  unfold applySlot
  try dsimp only
  repeat' first
    | with_reducible assumption
    | fail_if_no_progress with_reducible refine Sound.set ?_ rfl rfl rfl rfl rfl rfl rfl
    | split

theorem rewriteSlot_sound (hs : Sound s₀ s) : Sound s₀ (rewriteSlot s) := by
  unfold rewriteSlot
  try dsimp only
  repeat' first
    | with_reducible assumption
    | fail_if_no_progress with_reducible refine Sound.set ?_ rfl rfl rfl rfl rfl rfl rfl
    | split

theorem defaultSlot_sound (hs : Sound s₀ s) : Sound s₀ (defaultSlot s) := by
  unfold defaultSlot
  try dsimp only
  repeat' first
    | with_reducible assumption
    | (with_reducible first | apply rewriteSlot_sound)
    | fail_if_no_progress with_reducible refine Sound.set ?_ rfl rfl rfl rfl rfl rfl rfl
    | split

theorem refinePlan_sound (hs : Sound s₀ s) : Sound s₀ (refinePlan s) := by
  unfold refinePlan
  try dsimp only
  repeat' first
    | with_reducible assumption
    | (with_reducible first | apply nextDraw_sound)
    | fail_if_no_progress with_reducible refine Sound.set ?_ rfl rfl rfl rfl rfl rfl rfl

theorem doConfigSlotRewrite_sound (hs : Sound s₀ s) : Sound s₀ (doConfigSlotRewrite s) := by
  unfold doConfigSlotRewrite
  repeat' first
    | with_reducible assumption
    | (with_reducible first | apply rewriteSlot_sound | apply refinePlan_sound)
    | split

theorem unpowered_sound (h : Sound s₀ s) : Sound s₀ (unpowered s) :=
  h.trans ⟨rfl, .refl _, fun i =>
    { mem := reset_mem_wf.1, undef := reset_undef_wf, hostMem := i.hostMem,
      p0 := fun c => by
        have : (Vector.replicate 256 Cluster.reset).get c = Cluster.reset := by simp [Vector.get_eq_getElem]
        simp only [ve, cluster, unpowered, State.reset, this]; exact Ve.reset_p0
      events := fun f => by
        have : (Vector.replicate 5 Func.reset).get f = Func.reset := by simp [Vector.get_eq_getElem]
        simp only [func, unpowered, State.reset, this]; decide }⟩

theorem settleLimits_sound (hs : Sound s₀ s) : Sound s₀ (settleLimits s) := by
  unfold settleLimits
  try dsimp only
  repeat' first
    | with_reducible assumption
    | fail_if_no_progress with_reducible refine Sound.set ?_ rfl rfl rfl rfl rfl rfl rfl

theorem applyCaches_sound (hs : Sound s₀ s) : Sound s₀ (applyCaches s) := by
  unfold applyCaches
  try dsimp only
  repeat' first
    | with_reducible assumption
    | fail_if_no_progress with_reducible refine Sound.set ?_ rfl rfl rfl rfl rfl rfl rfl
    | split

theorem beginTraining_sound (hs : Sound s₀ s) : Sound s₀ (beginTraining s) := by
  unfold beginTraining
  try dsimp only
  repeat' first
    | with_reducible assumption
    | (with_reducible first
        | apply applySlot_sound | apply trainPort_sound | apply applyCaches_sound | apply settleLimits_sound
        | apply foldl_sound)
    | fail_if_no_progress with_reducible refine Sound.set ?_ rfl rfl rfl rfl rfl rfl rfl
    | intro s x hx

theorem verifyImage_sound (hs : Sound s₀ s) : Sound s₀ (verifyImage s) := by
  unfold verifyImage
  try dsimp only
  repeat' first
    | with_reducible assumption
    | (with_reducible first | apply beginTraining_sound | apply runImage_sound)
    | fail_if_no_progress with_reducible refine Sound.set ?_ rfl rfl rfl rfl rfl rfl rfl
    | split

theorem faultEarly_sound (hs : Sound s₀ s) {i : FaultInfo} : Sound s₀ (faultEarly s i) := by
  unfold faultEarly
  try dsimp only
  repeat' first
    | with_reducible assumption
    | (with_reducible first | apply faultC4_sound | apply applyCaches_sound | apply applySlot_sound)
    | split

/-- A fuse record that goes on. -/
theorem fuses_sound (h : Sound s₀ s) (h1 : t.pending = s.pending) (h2 : s.fuses.Later t.fuses) (h3 : t.mem = s.mem)
    (h4 : t.hostMem = s.hostMem) (h5 : t.clusters = s.clusters) (h6 : t.funcs = s.funcs) (h7 : t.undef = s.undef) :
    Sound s₀ t :=
  h.trans ⟨h1, h2, fun i =>
    { mem := h3 ▸ i.mem, undef := h3 ▸ h7 ▸ i.undef, hostMem := h4 ▸ i.hostMem, p0 := by simpa [ve, cluster, h5] using i.p0,
      events := by simpa [func, h6] using i.events }⟩

theorem pending_later (F : Fuses) :
    F.Later (if F.pending then { F with lifecycle := 3, pending := false } else F) := by
  split
  · exact ⟨rfl, rfl, rfl, rfl, rfl, rfl, List.prefix_rfl, Nat.le_refl _, .inr rfl⟩
  · exact .refl _

theorem loadFuses_sound (hs : Sound s₀ s) : Sound s₀ (loadFuses s) := by
  unfold loadFuses
  extract_lets F nonce s1 s2 s3 s4
  have k : Sound s₀ s4 := fuses_sound (s := s) hs rfl (pending_later s.fuses) rfl rfl rfl rfl rfl
  split
  · exact k
  · exact faultEarly_sound k

theorem coldStart_sound (hs : Sound s₀ s) {lastReset : Nat} : Sound s₀ (coldStart s lastReset) := by
  unfold coldStart
  try dsimp only
  repeat' first
    | with_reducible assumption
    | (with_reducible first
        | apply unpowered_sound | apply loadFuses_sound | apply settleLimits_sound | apply verifyImage_sound)
    | fail_if_no_progress with_reducible refine Sound.set ?_ rfl rfl rfl rfl rfl rfl rfl
    | split

theorem lowEvents_sound (hs : Sound s₀ s) : Sound s₀ (lowEvents s) := by
  unfold lowEvents
  repeat' first
    | with_reducible assumption
    | (with_reducible first | apply raiseLow_sound | apply foldl_sound)
    | intro s x hx

theorem releaseNow_sound (hs : Sound s₀ s) : Sound s₀ (releaseNow s) := by
  unfold releaseNow
  try dsimp only
  repeat' first
    | with_reducible assumption
    | (with_reducible first | apply lowEvents_sound | apply settleSleep_sound)
    | fail_if_no_progress with_reducible refine Sound.set ?_ rfl rfl rfl rfl rfl rfl rfl

theorem doRelease_sound (hs : Sound s₀ s) : Sound s₀ (doRelease s) := by
  unfold doRelease
  try dsimp only
  repeat' first
    | with_reducible assumption
    | (with_reducible first | apply releaseNow_sound | apply defaultSlot_sound)
    | fail_if_no_progress with_reducible refine Sound.set ?_ rfl rfl rfl rfl rfl rfl rfl
    | split

theorem spoilImage_sound (hs : Sound s₀ s) : Sound s₀ (spoilImage s) := by
  unfold spoilImage
  try dsimp only
  repeat' first
    | with_reducible assumption
    | fail_if_no_progress with_reducible refine Sound.set ?_ rfl rfl rfl rfl rfl rfl rfl
    | split

theorem doPowerGood_sound (hs : Sound s₀ s) : Sound s₀ (doPowerGood s) := by
  unfold doPowerGood
  repeat' first
    | with_reducible assumption
    | (with_reducible first | apply coldStart_sound)
    | split

theorem doInputLoss_sound (hs : Sound s₀ s) : Sound s₀ (doInputLoss s) := by
  unfold doInputLoss
  repeat' first
    | with_reducible assumption
    | (with_reducible first | apply unpowered_sound | apply spoilImage_sound)

theorem leaveHold_sound (hs : Sound s₀ s) : Sound s₀ (leaveHold s) := by
  unfold leaveHold
  try dsimp only
  repeat' first
    | with_reducible assumption
    | (with_reducible first | apply coldStart_sound)
    | fail_if_no_progress with_reducible refine Sound.set ?_ rfl rfl rfl rfl rfl rfl rfl
    | split

theorem doIdentityDerivationDone_sound (hs : Sound s₀ s) : Sound s₀ (doIdentityDerivationDone s) := by
  unfold doIdentityDerivationDone
  try dsimp only
  repeat' first
    | with_reducible assumption
    | fail_if_no_progress with_reducible refine Sound.set ?_ rfl rfl rfl rfl rfl rfl rfl
    | split

theorem setFw_sound (hs : Sound s₀ s) {f : Fw → Fw} : Sound s₀ (setFw s f) := by
  unfold setFw
  try dsimp only
  repeat' first
    | with_reducible assumption
    | fail_if_no_progress with_reducible refine Sound.set ?_ rfl rfl rfl rfl rfl rfl rfl

theorem serveFw_sound (hs : Sound s₀ s) {typ : Nat} {op : Nat} {isData : Bool} {act : State → List Byte → Answer}
     (hact : ∀ s b0, Sound s₀ s → Sound s₀ (act s b0).1) :
    Sound s₀ (serveFw s typ op isData act) := by
  unfold serveFw
  try dsimp only
  repeat' first
    | with_reducible assumption
    | (with_reducible first | apply serve_sound | apply refuse_sound)
    | apply hact
    | intro s b hx
    | intro s hx
    | split

theorem doFwWriteQuery_sound (hs : Sound s₀ s) : Sound s₀ (doFwWriteQuery s) := by
  unfold doFwWriteQuery
  try dsimp only
  repeat' first
    | with_reducible assumption
    | (with_reducible first | apply serveFw_sound | apply accept_sound | apply nextDraw_sound)
    | intro s b hx

theorem doFwWriteBegin_sound (hs : Sound s₀ s) : Sound s₀ (doFwWriteBegin s) := by
  unfold doFwWriteBegin
  try dsimp only
  repeat' first
    | with_reducible assumption
    | (with_reducible first | apply serveFw_sound | apply refuse_sound | apply accept_sound | apply setFw_sound)
    | fail_if_no_progress with_reducible refine Sound.set ?_ rfl rfl rfl rfl rfl rfl rfl
    | intro s b hx
    | intro s hx
    | split

theorem doFwWriteData_sound (hs : Sound s₀ s) : Sound s₀ (doFwWriteData s) := by
  unfold doFwWriteData
  try dsimp only
  repeat' first
    | with_reducible assumption
    | (with_reducible first | apply serveFw_sound | apply refuse_sound | apply accept_sound | apply setFw_sound)
    | intro s b hx
    | intro s hx
    | split

theorem doFwWriteCommit_sound (hs : Sound s₀ s) : Sound s₀ (doFwWriteCommit s) := by
  unfold doFwWriteCommit
  try dsimp only
  repeat' first
    | with_reducible assumption
    | (with_reducible first | apply serveFw_sound | apply refuse_sound | apply accept_sound | apply setFw_sound)
    | fail_if_no_progress with_reducible refine Sound.set ?_ rfl rfl rfl rfl rfl rfl rfl
    | intro s b hx
    | intro s hx
    | split

theorem doFwWriteAbort_sound (hs : Sound s₀ s) : Sound s₀ (doFwWriteAbort s) := by
  unfold doFwWriteAbort
  try dsimp only
  repeat' first
    | with_reducible assumption
    | (with_reducible first | apply serveFw_sound | apply accept_sound | apply setFw_sound | apply refuse_sound)
    | intro s b hx
    | intro s hx
    | split

theorem doFwProgrammingDone_sound (hs : Sound s₀ s) {good : Bool} : Sound s₀ (doFwProgrammingDone good s) := by
  unfold doFwProgrammingDone
  try dsimp only
  repeat' first
    | with_reducible assumption
    | (with_reducible first | apply setFw_sound)
    | fail_if_no_progress with_reducible refine Sound.set ?_ rfl rfl rfl rfl rfl rfl rfl
    | split

theorem clearStates_sound (hs : Sound s₀ s) {a : Nat} {n : Nat} : Sound s₀ (clearStates s a n).1 := by
  unfold clearStates
  try dsimp only
  repeat' first
    | with_reducible assumption
    | (with_reducible first | apply memWrite_sound)

theorem clearTable_sound (hs : Sound s₀ s) {p : Fin 4} {g : Gauge} : Sound s₀ (clearTable s p g).1 := by
  unfold clearTable
  try dsimp only
  repeat' first
    | with_reducible assumption
    | (with_reducible first | apply clearStates_sound | apply touch_sound)
    | split

theorem putGauge_sound (hs : Sound s₀ s) {p : Fin 4} {g : GaugeEntry} : Sound s₀ (putGauge s p g).1 := by
  unfold putGauge
  try dsimp only
  repeat' first
    | with_reducible assumption
    | (with_reducible first | apply modPolder_sound | apply clearTable_sound)
    | fail_if_no_progress with_reducible refine Sound.set ?_ rfl rfl rfl rfl rfl rfl rfl
    | split

theorem takeGauge_sound (hs : Sound s₀ s) {p : Fin 4} {g : GaugeEntry} : Sound s₀ (takeGauge s p g) := by
  unfold takeGauge
  try dsimp only
  repeat' first
    | with_reducible assumption
    | (with_reducible first | apply putGauge_sound | apply modPolder_sound)
    | fail_if_no_progress with_reducible refine Sound.set ?_ rfl rfl rfl rfl rfl rfl rfl
    | split

theorem doGaugeConfigRing_sound (hs : Sound s₀ s) {p : Fin 4} : Sound s₀ (doGaugeConfigRing p s) := by
  unfold doGaugeConfigRing
  try dsimp only
  repeat' first
    | with_reducible assumption
    | (with_reducible first
        | apply serve_sound | apply refuse_sound | apply accept_sound | apply modPolder_sound)
    | fail_if_no_progress with_reducible refine Sound.set ?_ rfl rfl rfl rfl rfl rfl rfl
    | intro s b hx
    | intro s hx
    | split

theorem doGaugeConfigEntries_sound (hs : Sound s₀ s) {p : Fin 4} : Sound s₀ (doGaugeConfigEntries p s) := by
  unfold doGaugeConfigEntries
  try dsimp only
  repeat' first
    | with_reducible assumption
    | (with_reducible first
        | apply serve_sound | apply refuse_sound | apply accept_sound | apply takeGauge_sound
        | apply foldl_sound)
    | intro s x hx
    | intro s b hx
    | intro s hx
    | split

theorem doGovConfigLog_sound (hs : Sound s₀ s) {p : Fin 4} : Sound s₀ (doGovConfigLog p s) := by
  unfold doGovConfigLog
  try dsimp only
  repeat' first
    | with_reducible assumption
    | (with_reducible first
        | apply serve_sound | apply refuse_sound | apply accept_sound | apply modPolder_sound)
    | fail_if_no_progress with_reducible refine Sound.set ?_ rfl rfl rfl rfl rfl rfl rfl
    | intro s b hx
    | intro s hx
    | split

theorem doGovConfigEntries_sound (hs : Sound s₀ s) {p : Fin 4} : Sound s₀ (doGovConfigEntries p s) := by
  unfold doGovConfigEntries
  try dsimp only
  repeat' first
    | with_reducible assumption
    | (with_reducible first
        | apply serve_sound | apply accept_sound | apply modPolder_sound | apply refuse_sound)
    | fail_if_no_progress with_reducible refine Sound.set ?_ rfl rfl rfl rfl rfl rfl rfl
    | intro s b hx
    | intro s hx
    | split

theorem doStepCmd_sound (hs : Sound s₀ s) {p : Fin 4} {q : Fin 16} {e : Entry} : Sound s₀ (doStepCmd p q e s) := by
  unfold doStepCmd
  try dsimp only
  repeat' first
    | with_reducible assumption
    | (with_reducible first | apply runEntry_sound | apply endCmd_sound | apply setBody_sound)
    | intro s hx
    | split

theorem spillOne_sound {still : Bool} {p : Fin 4} {set : BitVec 16} {g : Gauge} {x : State × SpillInfo} {i : Nat}
    (hs : Sound s₀ x.1) : Sound s₀ (spillOne still p set g x i).1 := by
  unfold spillOne
  dsimp only
  repeat' first
    | with_reducible assumption
    | (with_reducible first | apply noteAccess_sound | apply memPut_sound)
    | split

theorem spillGauge_sound (hs : Sound s₀ s) {p : Fin 4} {set : BitVec 16} {still : Bool} {g : Gauge} :
    Sound s₀ (spillGauge s p set still g).1 := by
  unfold spillGauge
  split
  · exact hs
  · exact foldl_fst_sound (fun _ _ hx => spillOne_sound hx) (noteSpans_sound hs)

theorem spillAll_sound (hs : Sound s₀ s) {p : Fin 4} {set : BitVec 16} {still : Bool} {gs : List (Nat × Gauge)} :
    Sound s₀ (spillAll s p set still gs).1 := by
  induction gs generalizing s with
  | nil => exact hs
  | cons x gs ih => exact ih (spillGauge_sound hs)

theorem silentEvents_sound (hs : Sound s₀ s) {p : Fin 4} {n : Word} {gs : List (Nat × Gauge)} :
    Sound s₀ (silentEvents s p n gs) := by
  unfold silentEvents
  try dsimp only
  repeat' first
    | with_reducible assumption
    | (with_reducible first | apply polderEvent_sound | apply foldl_sound | apply foldl_fst_sound)
    | intro s x hx
    | intro s hx
    | split

theorem writeRecords_sound (hs : Sound s₀ s) {p : Fin 4} {set : BitVec 16} {n : Word} {t : DWord} {info : Tab
     SpillInfo} {gs : List (Nat × Gauge)} :
    Sound s₀ (writeRecords s p set n t info gs) := by
  unfold writeRecords
  try dsimp only
  repeat' first
    | with_reducible assumption
    | (with_reducible first
        | apply unitWrite_sound | apply modPolder_sound | apply foldl_sound | apply foldl_fst_sound)
    | fail_if_no_progress with_reducible refine Sound.set ?_ rfl rfl rfl rfl rfl rfl rfl
    | intro s x hx
    | intro s hx
    | split

theorem writeLog_sound (hs : Sound s₀ s) {p : Fin 4} {set : BitVec 16} {ls : List WidthLog} :
    Sound s₀ (writeLog s p set ls).1 := by
  unfold writeLog
  try dsimp only
  repeat' first
    | with_reducible assumption
    | (with_reducible first | apply unitWrites_sound | apply modPolder_sound)
    | fail_if_no_progress with_reducible refine Sound.set ?_ rfl rfl rfl rfl rfl rfl rfl
    | split

theorem applyStaged_sound (hs : Sound s₀ s) {p : Fin 4} {c : Staged} : Sound s₀ (applyStaged s p c).1 := by
  unfold applyStaged
  try dsimp only
  repeat' first
    | with_reducible assumption
    | (with_reducible first | apply modPolder_sound | apply putGauge_sound)
    | fail_if_no_progress with_reducible refine Sound.set ?_ rfl rfl rfl rfl rfl rfl rfl
    | split

theorem applyAll_sound (hs : Sound s₀ s) {p : Fin 4} {cs : List Staged} : Sound s₀ (applyAll s p cs).1 := by
  induction cs generalizing s with
  | nil => exact hs
  | cons c cs ih => exact ih (applyStaged_sound hs)

theorem closeStep_sound (hs : Sound s₀ s) {p : Fin 4} {set : BitVec 16} {staged : Nat} :
    Sound s₀ (closeStep s p set staged).1 := by
  unfold closeStep
  try dsimp only
  repeat' first
    | with_reducible assumption
    | (with_reducible first
        | apply spillAll_sound | apply modPolder_sound | apply silentEvents_sound | apply writeRecords_sound
        | apply writeLog_sound | apply applyAll_sound)

theorem finishFence_sound (hs : Sound s₀ s) {p : Fin 4} {q : Fin 16} {n : Word} : Sound s₀ (finishFence s p q n) := by
  unfold finishFence
  repeat' first
    | with_reducible assumption
    | (with_reducible first | apply setResult_sound)

theorem doStepFenceReached_sound (hs : Sound s₀ s) {p : Fin 4} : Sound s₀ (doStepFenceReached p s) := by
  unfold doStepFenceReached
  try dsimp only
  repeat' first
    | with_reducible assumption
    | (with_reducible first
        | apply faultC2_sound | apply endCmd_sound | apply closeStep_sound | apply finishFence_sound
        | apply addWarn_sound)
    | split

theorem watchInputs_sound (hs : Sound s₀ s) {p : Fin 4} {q : Fin 16} {n : Word} {r : MmRun} :
    Sound s₀ (watchInputs s p q n r) := by
  unfold watchInputs
  try dsimp only
  repeat' first
    | with_reducible assumption
    | fail_if_no_progress with_reducible refine Sound.set ?_ rfl rfl rfl rfl rfl rfl rfl

theorem latchLayer_sound (hs : Sound s₀ s) {p : Fin 4} {d : MmDesc} : Sound s₀ (latchLayer s p d) := by
  unfold latchLayer
  try dsimp only
  repeat' first
    | with_reducible assumption
    | (with_reducible first | apply modPolder_sound)
    | fail_if_no_progress with_reducible refine Sound.set ?_ rfl rfl rfl rfl rfl rfl rfl
    | split

theorem doMm_sound (hs : Sound s₀ s) {p : Fin 4} {q : Fin 16} {e : Entry} : Sound s₀ (doMm p q e s) := by
  unfold doMm
  try dsimp only
  repeat' first
    | with_reducible assumption
    | (with_reducible first
        | apply runEntry_sound | apply latchLayer_sound | apply endCmd_sound | apply watchInputs_sound
        | apply setAreas_sound | apply setBody_sound | apply addWarn_sound)
    | intro s hx
    | split

theorem settleSlots_sound (hs : Sound s₀ s) {p : Fin 4} {q : Fin 16} {n : Word} {r : MmRun} :
    Sound s₀ (settleSlots s p q n r) := by
  unfold settleSlots
  try dsimp only
  repeat' first
    | with_reducible assumption
    | (with_reducible first | apply modCluster_sound | apply foldl_sound | apply foldl_fst_sound)
    | exact fun _ hx => hx
    | intro s x hx
    | intro s hx
    | split

theorem buildTables_sound (hs : Sound s₀ s) {c : Fin 256} {r : MmRun} {b : Bool} {shape : Nat × Nat} {js : Nat ×
     Nat} :
    Sound s₀ (buildTables s c r b shape js) := by
  unfold buildTables
  try dsimp only
  repeat' first
    | with_reducible assumption
    | (with_reducible first | apply modCluster_sound | apply foldl_sound | apply foldl_fst_sound)
    | fail_if_no_progress with_reducible refine Sound.set ?_ rfl rfl rfl rfl rfl rfl rfl
    | exact fun _ hx => hx
    | intro s x hx
    | intro s hx
    | split

theorem buildNext_sound (hs : Sound s₀ s) {c : Fin 256} {r : MmRun} {l : MmLane} : Sound s₀ (buildNext s c r l) := by
  unfold buildNext
  try dsimp only
  repeat' first
    | with_reducible assumption
    | (with_reducible first | apply buildTables_sound)
    | split

theorem landSums_sound (hs : Sound s₀ s) {c : Fin 256} {r : MmRun} {b : Bool} {shape : Nat × Nat} {rows : Nat} {cols
     : Nat} {accs : List Acc} :
    Sound s₀ (landSums s c r b shape rows cols accs) := by
  unfold landSums
  try dsimp only
  repeat' first
    | with_reducible assumption
    | (with_reducible first | apply modCluster_sound | apply foldl_sound | apply foldl_fst_sound)
    | fail_if_no_progress with_reducible refine Sound.set ?_ rfl rfl rfl rfl rfl rfl rfl
    | exact fun _ hx => hx

theorem landDigits_sound (hs : Sound s₀ s) {c : Fin 256} {r : MmRun} {shape : Nat × Nat} {as : List (List Nat)} {bs
     : List (List Nat)} :
    Sound s₀ (landDigits s c r shape as bs) := by
  unfold landDigits
  try dsimp only
  repeat' first
    | with_reducible assumption
    | (with_reducible first | apply modCluster_sound | apply foldl_sound | apply foldl_fst_sound)
    | fail_if_no_progress with_reducible refine Sound.set ?_ rfl rfl rfl rfl rfl rfl rfl
    | exact fun _ hx => hx

theorem stageBuffer_sound (hs : Sound s₀ s) {c : Fin 256} {o : Nat} {sz : Nat} : Sound s₀ (stageBuffer s c o sz) := by
  unfold stageBuffer
  try dsimp only
  repeat' first
    | with_reducible assumption
    | (with_reducible first | apply nextDraw_sound | apply modCluster_sound)
    | fail_if_no_progress with_reducible refine Sound.set ?_ rfl rfl rfl rfl rfl rfl rfl
    | exact fun _ hx => hx

theorem doMmClusterStart_sound (hs : Sound s₀ s) {p : Fin 4} {q : Fin 16} {n : Word} {k : Nat} :
    Sound s₀ (doMmClusterStart p q n k s) := by
  unfold doMmClusterStart
  try dsimp only
  repeat' first
    | with_reducible assumption
    | (with_reducible first
        | apply modCluster_sound | apply buildNext_sound | apply stageBuffer_sound | apply setBody_sound)
    | fail_if_no_progress with_reducible refine Sound.set ?_ rfl rfl rfl rfl rfl rfl rfl
    | exact fun _ hx => hx
    | split

theorem doDequeRefill_sound (hs : Sound s₀ s) {p : Fin 4} {q : Fin 16} {n : Word} {k : Nat} :
    Sound s₀ (doDequeRefill p q n k s) := by
  unfold doDequeRefill
  try dsimp only
  repeat' first
    | with_reducible assumption
    | (with_reducible first | apply buildNext_sound | apply setBody_sound)
    | split

theorem doTileSteal_sound (hs : Sound s₀ s) {p : Fin 4} {q : Fin 16} {n : Word} {k : Nat} :
    Sound s₀ (doTileSteal p q n k s) := by
  unfold doTileSteal
  try dsimp only
  repeat' first
    | with_reducible assumption
    | (with_reducible first
        | apply countAdd_sound | apply buildNext_sound | apply settleSlots_sound | apply setBody_sound)
    | fail_if_no_progress with_reducible refine Sound.set ?_ rfl rfl rfl rfl rfl rfl rfl
    | split

theorem writeAll_sound (hs : Sound s₀ s) {p : Fin 4} {set : BitVec 16} {xs : List (Nat × List Byte)} :
    Sound s₀ (writeAll s p set xs).1 := by
  unfold writeAll
  try dsimp only
  repeat' first
    | with_reducible assumption
    | (with_reducible first | apply unitWrite_sound | apply foldl_sound | apply foldl_fst_sound)
    | intro s x hx

theorem emit_sound (hs : Sound s₀ s) {p : Fin 4} {q : Fin 16} {n : Word} {r : MmRun} {i0 : Nat} {j0 : Nat} {rows :
     List (List OutElem)} :
    Sound s₀ (emit s p q n r i0 j0 rows).1 := by
  unfold emit
  try dsimp only
  repeat' first
    | with_reducible assumption
    | (with_reducible first
        | apply writeAll_sound | apply spoil_sound | apply noteCounts_sound | apply flush_sound
        | apply modCmd_sound | apply foldl_sound | apply foldl_fst_sound)
    | fail_if_no_progress with_reducible refine Sound.set ?_ rfl rfl rfl rfl rfl rfl rfl
    | intro s x hx
    | intro s hx
    | split

theorem countEpi_sound (hs : Sound s₀ s) {p : Fin 4} {set : BitVec 16} {r : MmRun} {is : Nat × Nat} {js : Nat × Nat}
     :
    Sound s₀ (countEpi s p set r is js) := by
  unfold countEpi
  try dsimp only
  repeat' first
    | with_reducible assumption
    | (with_reducible first | apply noteAccess_sound | apply foldl_sound | apply foldl_fst_sound)
    | intro s x hx

theorem drainEpilogue_sound (hs : Sound s₀ s) {p : Fin 4} {q : Fin 16} {n : Word} {r : MmRun} {is : Nat × Nat} {js :
     Nat × Nat} {accs : List Acc} :
    Sound s₀ (drainEpilogue s p q n r is js accs).1 := by
  unfold drainEpilogue
  try dsimp only
  repeat' first
    | with_reducible assumption
    | (with_reducible first | apply emit_sound | apply countEpi_sound)

theorem emitMeasured_sound (hs : Sound s₀ s) {p : Fin 4} {q : Fin 16} {n : Word} {r : MmRun} {sums : Tab Acc} {i :
     Nat} :
    Sound s₀ (emitMeasured s p q n r sums i).1 := by
  unfold emitMeasured
  try dsimp only
  repeat' first
    | with_reducible assumption
    | (with_reducible first | apply unitWrite_sound | apply countEpi_sound | apply emit_sound)

theorem spoilOverlap_sound (hs : Sound s₀ s) {r : MmRun} : Sound s₀ (spoilOverlap s r) := by
  unfold spoilOverlap
  try dsimp only
  repeat' first
    | with_reducible assumption
    | (with_reducible first | apply spoilAreas_sound)
    | split

theorem spoilChanged_sound (hs : Sound s₀ s) {p : Fin 4} {q : Fin 16} {n : Word} {r : MmRun} :
    Sound s₀ (spoilChanged s p q n r) := by
  unfold spoilChanged
  repeat' first
    | with_reducible assumption
    | (with_reducible first | apply spoilAreas_sound)
    | split

theorem finishMm_sound (hs : Sound s₀ s) {p : Fin 4} {q : Fin 16} {n : Word} {r : MmRun} :
    Sound s₀ (finishMm s p q n r) := by
  unfold finishMm
  try dsimp only
  repeat' first
    | with_reducible assumption
    | (with_reducible first
        | apply spoil_sound | apply endCmd_sound | apply releaseUnits_sound | apply spoilChanged_sound
        | apply spoilOverlap_sound)
    | split

theorem measureAll_sound (hs : Sound s₀ s) {p : Fin 4} {q : Fin 16} {n : Word} {r : MmRun} :
    Sound s₀ (measureAll s p q n r).1 := by
  unfold measureAll
  try dsimp only
  repeat' first
    | with_reducible assumption
    | (with_reducible first | apply emitMeasured_sound | apply foldl_sound | apply foldl_fst_sound)
    | intro s x hx

theorem mmAdvance_sound (hs : Sound s₀ s) {p : Fin 4} {q : Fin 16} {n : Word} {r : MmRun} :
    Sound s₀ (mmAdvance s p q n r) := by
  unfold mmAdvance
  try dsimp only
  repeat' first
    | with_reducible assumption
    | (with_reducible first
        | apply settleSlots_sound | apply setBody_sound | apply finishMm_sound | apply failCmd_sound
        | apply measureAll_sound)
    | split

theorem countPanels_sound (hs : Sound s₀ s) {p : Fin 4} {set : BitVec 16} {r : MmRun} {t : Nat} {ks : Nat × Nat} :
    Sound s₀ (countPanels s p set r t ks) := by
  unfold countPanels
  try dsimp only
  repeat' first
    | with_reducible assumption
    | (with_reducible first | apply noteAccess_sound | apply foldl_sound | apply foldl_fst_sound)
    | intro s x hx

theorem countCells_sound (hs : Sound s₀ s) {p : Fin 4} {set : BitVec 16} {c : Fin 256} {r : MmRun} {shape : Nat ×
     Nat} {is : Nat × Nat} {js : Nat × Nat} {ks : Nat × Nat} :
    Sound s₀ (countCells s p set c r shape is js ks) := by
  unfold countCells
  try dsimp only
  repeat' first
    | with_reducible assumption
    | (with_reducible first | apply countAdd_sound | apply landDigits_sound)
    | split

theorem writePartials_sound (hs : Sound s₀ s) {p : Fin 4} {set : BitVec 16} {xs : List (Nat × Nat)} :
    Sound s₀ (writePartials s p set xs).1 := by
  unfold writePartials
  try dsimp only
  repeat' first
    | with_reducible assumption
    | (with_reducible first
        | apply unitWrite_sound | apply nextDraw_sound | apply foldl_sound | apply foldl_fst_sound)
    | intro s x hx

theorem keepSub_sound (hs : Sound s₀ s) {p : Fin 4} {q : Fin 16} {n : Word} {cm : Cmd} {r : MmRun} {i : Nat} {is :
     Nat × Nat} {js : Nat × Nat} {accs : List Acc} :
    Sound s₀ (keepSub s p q n cm r i is js accs) := by
  unfold keepSub
  try dsimp only
  repeat' first
    | with_reducible assumption
    | (with_reducible first | apply writePartials_sound | apply mmAdvance_sound | apply failCmd_sound)
    | split

theorem drainSub_sound (hs : Sound s₀ s) {p : Fin 4} {q : Fin 16} {n : Word} {cm : Cmd} {r : MmRun} {k : Nat} {i :
     Nat} {l : MmLane} {is : Nat × Nat} {js : Nat × Nat} :
    Sound s₀ (drainSub s p q n cm r k i l is js) := by
  unfold drainSub
  try dsimp only
  repeat' first
    | with_reducible assumption
    | (with_reducible first
        | apply failCmd_sound | apply countPanels_sound | apply countCells_sound | apply noteCounts_sound
        | apply landSums_sound | apply buildNext_sound | apply keepSub_sound | apply drainEpilogue_sound
        | apply mmAdvance_sound)
    | fail_if_no_progress with_reducible refine Sound.set ?_ rfl rfl rfl rfl rfl rfl rfl
    | split

theorem doSubtileDrain_sound (hs : Sound s₀ s) {p : Fin 4} {q : Fin 16} {n : Word} {k : Nat} :
    Sound s₀ (doSubtileDrain p q n k s) := by
  unfold doSubtileDrain
  try dsimp only
  repeat' first
    | with_reducible assumption
    | (with_reducible first | apply drainSub_sound)
    | split

theorem drainTile_sound (hs : Sound s₀ s) {p : Fin 4} {q : Fin 16} {n : Word} {r : MmRun}
    {xs : List ((Nat × Nat) × (Nat × Nat))} {accs : List Acc} : Sound s₀ (drainTile s p q n r xs accs).1 := by
  induction xs generalizing s accs with
  | nil => exact hs
  | cons x xs ih =>
    simp only [drainTile]
    split
    · exact hs
    · split
      · exact ih (drainEpilogue_sound hs)
      · exact drainEpilogue_sound hs

theorem doSplitkCombine_sound (hs : Sound s₀ s) {p : Fin 4} {q : Fin 16} {n : Word} {k : Nat} {t : Nat} :
    Sound s₀ (doSplitkCombine p q n k t s) := by
  unfold doSplitkCombine
  try dsimp only
  repeat' first
    | with_reducible assumption
    | (with_reducible first
        | apply noteAccess_sound | apply failCmd_sound | apply mmAdvance_sound | apply drainTile_sound
        | apply foldl_sound | apply foldl_fst_sound)
    | fail_if_no_progress with_reducible refine Sound.set ?_ rfl rfl rfl rfl rfl rfl rfl
    | intro s x hx
    | intro s hx
    | split

theorem doGroupConfig_sound (hs : Sound s₀ s) {p : Fin 4} : Sound s₀ (doGroupConfig p s) := by
  unfold doGroupConfig
  try dsimp only
  repeat' first
    | with_reducible assumption
    | (with_reducible first
        | apply serve_sound | apply accept_sound | apply modPolder_sound | apply refuse_sound
        | apply foldl_sound)
    | intro s x hx
    | intro s b hx
    | intro s hx
    | split

theorem doSchedConfig_sound (hs : Sound s₀ s) {p : Fin 4} : Sound s₀ (doSchedConfig p s) := by
  unfold doSchedConfig
  try dsimp only
  repeat' first
    | with_reducible assumption
    | (with_reducible first
        | apply serve_sound | apply accept_sound | apply modPolder_sound | apply refuse_sound
        | apply foldl_sound)
    | intro s x hx
    | intro s b hx
    | intro s hx
    | split

end Sys2Proof.Machine
end

