-- ==== Sys2Proof/Laws/SoundVe.lean ====
section
/-! SUPPORT. `Sound` of the vector engines and of UPDATE: p0 stays all ones whatever a program does. -/

namespace Sys2Proof.Machine

variable {s₀ s t : State}

theorem writeUpdReport_sound (hs : Sound s₀ s) {p : Fin 4} {set : BitVec 16} {r : UpdRun} {n : Word} :
    Sound s₀ (writeUpdReport s p set r n) := by
  unfold writeUpdReport
  try dsimp only
  repeat' first
    | with_reducible assumption
    | (with_reducible first | apply unitWrite_sound)
    | split

theorem writeUpdCell_sound (hs : Sound s₀ s) {p : Fin 4} {set : BitVec 16} {r : UpdRun} {n : Word} :
    Sound s₀ (writeUpdCell s p set r n) := by
  unfold writeUpdCell
  try dsimp only
  repeat' first
    | with_reducible assumption
    | (with_reducible first | apply unitWrite_sound | apply spoil_sound | apply modPolder_sound)
    | fail_if_no_progress with_reducible refine Sound.set ?_ rfl rfl rfl rfl rfl rfl rfl
    | split

theorem failUpdate_sound (hs : Sound s₀ s) {p : Fin 4} {q : Fin 16} {n : Word} {st : Status} {r : UpdRun} {step :
     Word} :
    Sound s₀ (failUpdate s p q n st r step) := by
  unfold failUpdate
  repeat' first
    | with_reducible assumption
    | (with_reducible first | apply writeUpdReport_sound | apply failCmd_sound)

theorem setDetail_sound (hs : Sound s₀ s) {p : Fin 4} {q : Fin 16} {n : Word} {v : Nat} :
    Sound s₀ (setDetail s p q n v) := by
  unfold setDetail
  try dsimp only
  repeat' first
    | with_reducible assumption
    | (with_reducible first | apply modCmd_sound)

theorem putReport_sound (hs : Sound s₀ s) {p : Fin 4} {a : Nat} {rep : List Byte} :
    Sound s₀ (putReport s p a rep) := by
  unfold putReport
  repeat' first
    | with_reducible assumption
    | (with_reducible first | apply regionWrite_sound)
    | split

theorem failVk_sound (hs : Sound s₀ s) {p : Fin 4} {q : Fin 16} {n : Word} {r : VkRun} {cause : Nat} {low : Nat}
     {rep : List Byte} {others : List (Fin 256)} :
    Sound s₀ (failVk s p q n r cause low rep others) := by
  unfold failVk
  try dsimp only
  repeat' first
    | with_reducible assumption
    | (with_reducible first
        | apply setDetail_sound | apply failCmd_sound | apply setBody_sound | apply modVe_sound
        | apply putReport_sound | apply foldl_sound | apply foldl_fst_sound)
    | fail_if_no_progress with_reducible refine Sound.set ?_ rfl rfl rfl rfl rfl rfl rfl
    | exact fun _ hx => hx
    | intro s x hx

theorem failCopy_sound (hs : Sound s₀ s) {p : Fin 4} {q : Fin 16} {n : Word} {r : UpdRun} {step : Word} {cause :
     Nat} {rep : List Byte} :
    Sound s₀ (failCopy s p q n r step cause rep) := by
  unfold failCopy
  try dsimp only
  repeat' first
    | with_reducible assumption
    | (with_reducible first | apply setDetail_sound | apply failUpdate_sound | apply putReport_sound)

theorem veTrap_sound (hs : Sound s₀ s) {p : Fin 4} {q : Fin 16} {n : Word} {c : Fin 256} {cause : Nat} {pc : Nat} {w
     : DWord} {lanes : DWord} {addr : Nat} :
    Sound s₀ (veTrap s p q n c cause pc w lanes addr) := by
  unfold veTrap
  try dsimp only
  repeat' first
    | with_reducible assumption
    | (with_reducible first | apply failVk_sound | apply failCopy_sound)
    | split

theorem stopVe_sound (hs : Sound s₀ s) {c : Fin 256} : Sound s₀ (stopVe s c) := by
  unfold stopVe
  repeat' first
    | with_reducible assumption
    | (with_reducible first | apply modCluster_sound)
    | exact fun _ hx => hx

theorem joinTrap_sound (hs : Sound s₀ s) {p : Fin 4} {q : Fin 16} {n : Word} {r : VkRun} {c : Fin 256} {cause : Nat}
     {w : DWord} {lanes : DWord} {addr : Nat} :
    Sound s₀ (joinTrap s p q n r c cause w lanes addr) := by
  unfold joinTrap
  try dsimp only
  repeat' first
    | with_reducible assumption
    | (with_reducible first
        | apply setBody_sound | apply stopVe_sound | apply putReport_sound | apply modCmd_sound)
    | fail_if_no_progress with_reducible refine Sound.set ?_ rfl rfl rfl rfl rfl rfl rfl
    | split

/-! ## The vector engine -/

/-- An update of a vector engine that keeps p0 where it was good. -/
theorem modVe_at_sound (hs : Sound s₀ s) {c : Fin 256} {f : Ve → Ve} (hf : (ve s c).p0Ones → (f (ve s c)).p0Ones) :
    Sound s₀ (modVe s c f) :=
  clusters_sound hs fun i hi => by rw [get_vmod]; split <;> [(subst_vars; exact hf hi); exact hi]

theorem loopEdge_p (i : Fin 2) (last : Nat) (x : Ve × Option Nat) : (loopEdge i last x).1.p = x.1.p := by
  unfold loopEdge; repeat' split
  all_goals rfl

theorem passed_p (V : Ve) (last : Nat) : (passed V last).1.p = V.p := by
  simp only [passed, loopEdge_p]

theorem leaveLoop_p (t : Nat) (i : Fin 2) (V : Ve) : (leaveLoop t i V).p = V.p := by
  unfold leaveLoop; repeat' split
  all_goals rfl

theorem flowed_p (V : Ve) (f : Flow) : (flowed V f).1.p = V.p := by
  cases f <;> simp only [flowed, passed_p, leaveLoop_p]

theorem fetchAt_sound (hs : Sound s₀ s) {p : Fin 4} {q : Fin 16} {n : Word} {c : Fin 256} {f : Flow} :
    Sound s₀ (fetchAt s p q n c f) := by
  unfold fetchAt
  have hp := flowed_p (ve s c) f
  split
  · exact hs
  · next V pc e =>
    rw [e] at hp
    have hV : (ve s c).p0Ones → V.p0Ones := fun h => by rw [Ve.p0Ones, hp]; exact h
    split
    · exact modVe_at_sound hs hV
    · exact veTrap_sound (modVe_at_sound hs hV)

/-- What an instruction makes of the state is sound; an exception changes nothing itself. -/
def VeOut.Keeps (s₀ : State) : VeOut → Prop
  | .ok s _ => Sound s₀ s
  | .trap .. => True

theorem goOn_keeps (hs : Sound s₀ s) {c : Fin 256} : (goOn s c).Keeps s₀ := hs
theorem trapOf_keeps {k : Nat} : (trapOf k).Keeps s₀ := trivial

theorem setLanes_p {V : Ve} {w : DWord} {k : Nat} {f : Fin 64 → Word} : (setLanes V w k f).p = V.p := rfl
theorem setSreg_p {V : Ve} {k : Nat} {x : Word} : (setSreg V k x).p = V.p := rfl
theorem setAreg_p {V : Ve} {k : Nat} {x : BitVec 48} : (setAreg V k x).p = V.p := rfl
theorem postInc_p {V : Ve} {w : DWord} : (postInc V w).p = V.p := by unfold postInc; split <;> rfl

/-- A write of a predicate other than p0. -/
theorem setPred_p0 {V : Ve} {k : Nat} {x : DWord} (h1 : 1 ≤ k) (h2 : k < 8) (h : V.p0Ones) : (setPred V k x).p0Ones := by
  have hk : ¬ (fin8 k : Nat) = ((0 : Fin 8) : Nat) := by
    simp only [fin8, ofNatFin, Nat.mod_eq_of_lt h2]; exact Nat.ne_of_gt h1
  simp only [Ve.p0Ones, setPred, Vector.get_eq_getElem, Vector.getElem_set] at h ⊢
  rw [if_neg hk]; exact h

theorem veOnly_keeps {legal : Ve → DWord → Bool} {f : Ve → DWord → Ve}
    (hf : ∀ V w, legal V w = true → V.p0Ones → (f V w).p0Ones) (hs : Sound s₀ s) {c : Fin 256} {w : DWord} :
    (veOnly legal f s c w).Keeps s₀ := by
  unfold veOnly
  split
  · next h => exact goOn_keeps (modVe_at_sound hs fun hp => hf _ _ h hp)
  · exact trapOf_keeps

theorem lastRow_sound (hs : Sound s₀ s) {op : Nat} {sub : DWord → Bool} {act : VeOp} {c : Fin 256} :
    Sound s₀ (lastRow op sub act c s) := by
  unfold lastRow
  try dsimp only
  repeat' first
    | with_reducible assumption
    | (with_reducible first | apply stopVe_sound | apply joinTrap_sound)
    | split

theorem veRow_sound (hs : Sound s₀ s) {op : Nat} {sub : DWord → Bool} {act : VeOp} {c : Fin 256}
    (hact : ∀ s c w, Sound s₀ s → (act s c w).Keeps s₀) : Sound s₀ (veRow op sub act c s) := by
  unfold veRow
  split
  · exact lastRow_sound hs
  dsimp only
  split
  · next w _ =>
    have k := hact s c (wordAt (ve s c)) hs
    split
    · next h => rw [h] at k; exact fetchAt_sound k
    · exact veTrap_sound hs
  · exact hs

/-! ### Scalar, address and control instructions -/

theorem putScalar_keeps (hs : Sound s₀ s) {c : Fin 256} {w : DWord} {x : Option Word} :
    (putScalar s c w x).Keeps s₀ := by
  unfold putScalar; split
  · exact goOn_keeps (modVe_sound hs fun _ h => by exact h)
  · exact trapOf_keeps

theorem doVeNop_keeps (hs : Sound s₀ s) {c : Fin 256} {w : DWord} : (doVeNop s c w).Keeps s₀ := by
  unfold doVeNop; split <;> [exact goOn_keeps hs; exact trapOf_keeps]

theorem doBra_keeps (hs : Sound s₀ s) {c : Fin 256} {w : DWord} : (doBra s c w).Keeps s₀ := by
  unfold doBra; dsimp only
  repeat' split
  all_goals first | exact trapOf_keeps | exact hs | exact goOn_keeps hs

theorem doLoop_keeps (hs : Sound s₀ s) {c : Fin 256} {w : DWord} : (doLoop s c w).Keeps s₀ := by
  unfold doLoop; dsimp only
  repeat' split
  all_goals first | exact trapOf_keeps | exact hs | exact goOn_keeps (modVe_sound hs fun _ h => by exact h)

theorem doSmovi_keeps (hs : Sound s₀ s) {c : Fin 256} {w : DWord} : (doSmovi s c w).Keeps s₀ := by
  unfold doSmovi; split <;> [exact putScalar_keeps hs; exact trapOf_keeps]
theorem doSalu_keeps (hs : Sound s₀ s) {c : Fin 256} {w : DWord} : (doSalu s c w).Keeps s₀ := by
  unfold doSalu; split <;> [exact putScalar_keeps hs; exact trapOf_keeps]
theorem doSalui_keeps (hs : Sound s₀ s) {c : Fin 256} {w : DWord} : (doSalui s c w).Keeps s₀ := by
  unfold doSalui; split <;> [exact putScalar_keeps hs; exact trapOf_keeps]
theorem doSfalu_keeps (hs : Sound s₀ s) {c : Fin 256} {w : DWord} : (doSfalu s c w).Keeps s₀ := by
  unfold doSfalu; split <;> [exact putScalar_keeps hs; exact trapOf_keeps]
theorem doVext_keeps (hs : Sound s₀ s) {c : Fin 256} {w : DWord} : (doVext s c w).Keeps s₀ := by
  unfold doVext; split <;> [exact putScalar_keeps hs; exact trapOf_keeps]
theorem doRdsr_keeps (hs : Sound s₀ s) {c : Fin 256} {w : DWord} : (doRdsr s c w).Keeps s₀ := by
  unfold doRdsr; split <;> [exact putScalar_keeps hs; exact trapOf_keeps]
theorem doAmovi_keeps (hs : Sound s₀ s) {c : Fin 256} {w : DWord} : (doAmovi s c w).Keeps s₀ :=
  veOnly_keeps (fun _ _ _ h => by exact h) hs
theorem doAaddi_keeps (hs : Sound s₀ s) {c : Fin 256} {w : DWord} : (doAaddi s c w).Keeps s₀ :=
  veOnly_keeps (fun _ _ _ h => by exact h) hs
theorem doAadds_keeps (hs : Sound s₀ s) {c : Fin 256} {w : DWord} : (doAadds s c w).Keeps s₀ :=
  veOnly_keeps (fun _ _ _ h => by exact h) hs

/-! ### Lane instructions -/

theorem laneOp_keeps {f : Ve → DWord → Fin 64 → Word} (hs : Sound s₀ s) {c : Fin 256} {w : DWord} :
    (laneOp f s c w).Keeps s₀ := veOnly_keeps (fun _ _ _ h => by exact h) hs
theorem op1_keeps {f : Word → Word} (hs : Sound s₀ s) {c : Fin 256} {w : DWord} : (op1 f s c w).Keeps s₀ :=
  veOnly_keeps (fun _ _ _ h => by exact h) hs
theorem op2_keeps {f : Word → Word → Word} (hs : Sound s₀ s) {c : Fin 256} {w : DWord} : (op2 f s c w).Keeps s₀ :=
  laneOp_keeps hs
theorem op3_keeps {f : Word → Word → Word → Word} (hs : Sound s₀ s) {c : Fin 256} {w : DWord} :
    (op3 f s c w).Keeps s₀ := laneOp_keeps hs
theorem laneModOp_keeps {f : Nat → Option (Word → Word → Word)} (hs : Sound s₀ s) {c : Fin 256} {w : DWord} :
    (laneModOp f s c w).Keeps s₀ := veOnly_keeps (fun _ _ _ h => by exact h) hs
theorem doVmovi_keeps (hs : Sound s₀ s) {c : Fin 256} {w : DWord} : (doVmovi s c w).Keeps s₀ :=
  veOnly_keeps (fun _ _ _ h => by exact h) hs
theorem doVsel_keeps (hs : Sound s₀ s) {c : Fin 256} {w : DWord} : (doVsel s c w).Keeps s₀ :=
  veOnly_keeps (fun _ _ _ h => by exact h) hs
theorem doVrot_keeps (hs : Sound s₀ s) {c : Fin 256} {w : DWord} : (doVrot s c w).Keeps s₀ :=
  veOnly_keeps (fun _ _ _ h => by exact h) hs
theorem doVbcl_keeps (hs : Sound s₀ s) {c : Fin 256} {w : DWord} : (doVbcl s c w).Keeps s₀ :=
  veOnly_keeps (fun _ _ _ h => by exact h) hs
theorem reduceOp_keeps {f : Word → Word → Word} {x : Word} (hs : Sound s₀ s) {c : Fin 256} {w : DWord} :
    (reduceOp f x s c w).Keeps s₀ := veOnly_keeps (fun _ _ _ h => by exact h) hs

theorem compareOp_keeps {f : Nat → Option (Word → Word → Bool)} (hs : Sound s₀ s) {c : Fin 256} {w : DWord} :
    (compareOp f s c w).Keeps s₀ :=
  veOnly_keeps (fun V w hl h => by
    simp only [Bool.and_eq_true, decide_eq_true_eq] at hl
    exact setPred_p0 hl.1.2 hl.2 h) hs
theorem doPlog_keeps (hs : Sound s₀ s) {c : Fin 256} {w : DWord} : (doPlog s c w).Keeps s₀ :=
  veOnly_keeps (fun V w hl h => by
    simp only [Bool.and_eq_true, decide_eq_true_eq] at hl
    exact setPred_p0 hl.1.1.1.2 hl.1.1.2 h) hs

theorem convertLanes_sound (hs : Sound s₀ s) {c : Fin 256} {w : DWord} {f : Fin 64 → Conv} :
    Sound s₀ (convertLanes s c w f) := by
  unfold convertLanes
  try dsimp only
  repeat' first
    | with_reducible assumption
    | (with_reducible first | apply modVe_sound | apply noteCounts_sound)
    | exact fun _ hx => hx
    | split

theorem putScales_sound (hs : Sound s₀ s) {c : Fin 256} {w : DWord} {f : Fin 64 → Nat} :
    Sound s₀ (putScales s c w f) := by
  unfold putScales
  try dsimp only
  repeat' first
    | with_reducible assumption
    | (with_reducible first | apply nextDraw_sound | apply modVe_sound)
    | exact fun _ hx => hx
    | split

theorem spaceWrite_sound (hs : Sound s₀ s) {c : Fin 256} {space : Nat} {a : Nat} {bs : List Byte} :
    Sound s₀ (spaceWrite s c space a bs) := by
  unfold spaceWrite
  try dsimp only
  repeat' first
    | with_reducible assumption
    | (with_reducible first | apply modVe_sound | apply modCluster_sound | apply memPut_sound)
    | fail_if_no_progress with_reducible refine Sound.set ?_ rfl rfl rfl rfl rfl rfl rfl
    | exact fun _ hx => hx
    | split

theorem writeElem_sound (hs : Sound s₀ s) {c : Fin 256} {space : Nat} {e : VeElem} {x : Nat} :
    Sound s₀ (writeElem s c space e x) := by
  unfold writeElem
  try dsimp only
  repeat' first
    | with_reducible assumption
    | (with_reducible first | apply spaceWrite_sound)
    | split

theorem spoilByte_sound (hs : Sound s₀ s) {c : Fin 256} {space : Nat} {a : Nat} :
    Sound s₀ (spoilByte s c space a) := by
  unfold spoilByte
  try dsimp only
  repeat' first
    | with_reducible assumption
    | (with_reducible first | apply nextDraw_sound | apply modCluster_sound | apply spoil_sound)
    | fail_if_no_progress with_reducible refine Sound.set ?_ rfl rfl rfl rfl rfl rfl rfl
    | exact fun _ hx => hx
    | split

theorem taintVe_sound (hs : Sound s₀ s) {c : Fin 256} : Sound s₀ (taintVe s c) := by
  unfold taintVe
  try dsimp only
  repeat' first
    | with_reducible assumption
    | (with_reducible first
        | apply spoil_sound | apply staleAround_sound | apply skipDraws_sound | apply modVe_sound
        | apply foldl_sound | apply foldl_fst_sound)
    | exact fun _ hx => hx
    | intro s x hx
    | intro s hx
    | split

theorem markMm_sound (hs : Sound s₀ s) {c : Fin 256} {space : Nat} {bytes : List Nat} :
    Sound s₀ (markMm s c space bytes) := by
  unfold markMm
  try dsimp only
  repeat' first
    | with_reducible assumption
    | (with_reducible first | apply setBody_sound | apply foldl_sound | apply foldl_fst_sound)
    | fail_if_no_progress with_reducible refine Sound.set ?_ rfl rfl rfl rfl rfl rfl rfl
    | intro s x hx
    | intro s hx
    | split

theorem noteVeBytes_sound (hs : Sound s₀ s) {c : Fin 256} {space : Nat} {es : List VeElem} :
    Sound s₀ (noteVeBytes s c space es) := by
  unfold noteVeBytes
  try dsimp only
  repeat' first
    | with_reducible assumption
    | (with_reducible first | apply countAdd_sound)
    | split

theorem noteLoad_sound (hs : Sound s₀ s) {c : Fin 256} {space : Nat} {es : List VeElem} :
    Sound s₀ (noteLoad s c space es) := by
  unfold noteLoad
  try dsimp only
  repeat' first
    | with_reducible assumption
    | (with_reducible first
        | apply noteVeBytes_sound | apply modVe_sound | apply spoilByte_sound | apply nextDraw_sound
        | apply markMm_sound | apply foldl_sound)
    | fail_if_no_progress with_reducible refine Sound.set ?_ rfl rfl rfl rfl rfl rfl rfl
    | exact fun _ hx => hx
    | intro s x hx
    | intro s hx
    | split

theorem storeElems_sound (hs : Sound s₀ s) {c : Fin 256} {space : Nat} {xs : List (VeElem × Nat)} :
    Sound s₀ (storeElems s c space xs) := by
  unfold storeElems
  try dsimp only
  repeat' first
    | with_reducible assumption
    | (with_reducible first
        | apply noteVeBytes_sound | apply writeElem_sound | apply markMm_sound | apply spoilByte_sound
        | apply modVe_sound | apply taintVe_sound | apply foldl_sound | apply foldl_fst_sound)
    | fail_if_no_progress with_reducible refine Sound.set ?_ rfl rfl rfl rfl rfl rfl rfl
    | exact fun _ hx => hx
    | intro s x hx
    | intro s hx
    | split

theorem doVk_sound (hs : Sound s₀ s) {p : Fin 4} {q : Fin 16} {e : Entry} : Sound s₀ (doVk p q e s) := by
  unfold doVk
  try dsimp only
  repeat' first
    | with_reducible assumption
    | (with_reducible first
        | apply runEntry_sound | apply touch_sound | apply setDetail_sound | apply endCmd_sound
        | apply putReport_sound | apply setAreas_sound | apply setBody_sound)
    | intro s hx
    | split

/-! ### Conversions -/

theorem doCvtf_keeps (hs : Sound s₀ s) {c : Fin 256} {w : DWord} : (doCvtf s c w).Keeps s₀ := by
  unfold doCvtf; dsimp only
  repeat' split
  all_goals first
    | exact trapOf_keeps
    | exact goOn_keeps (nextDraw_sound (modVe_sound hs fun _ h => by exact h))
    | exact goOn_keeps (modVe_sound hs fun _ h => by exact h)

theorem doCvtt_keeps (hs : Sound s₀ s) {c : Fin 256} {w : DWord} : (doCvtt s c w).Keeps s₀ := by
  unfold doCvtt; dsimp only
  repeat' first
    | (with_reducible first | assumption | apply trapOf_keeps | apply goOn_keeps | apply nextDraw_sound | apply putScales_sound | apply convertLanes_sound)
    | split

theorem doCvtsr_keeps (hs : Sound s₀ s) {c : Fin 256} {w : DWord} : (doCvtsr s c w).Keeps s₀ := by
  unfold doCvtsr; dsimp only
  repeat' first
    | (with_reducible first | assumption | apply trapOf_keeps | apply goOn_keeps | apply nextDraw_sound | apply convertLanes_sound)
    | split

theorem doF2i_keeps (hs : Sound s₀ s) {c : Fin 256} {w : DWord} : (doF2i s c w).Keeps s₀ := by
  unfold doF2i; split <;> [exact goOn_keeps (convertLanes_sound hs); exact trapOf_keeps]

theorem doGfeed_keeps (hs : Sound s₀ s) {c : Fin 256} {w : DWord} : (doGfeed s c w).Keeps s₀ := by
  unfold doGfeed; dsimp only
  repeat' split
  all_goals first | exact trapOf_keeps | exact goOn_keeps hs | exact goOn_keeps (modCmd_sound hs)

/-! ### Loads and stores -/

theorem trapElems_keeps {k : Nat} {es : List VeElem} {bad : VeElem → Bool} {t : VeOut}
    (h : trapElems k es bad = some t) : t.Keeps s₀ := by
  unfold trapElems at h; split at h
  · cases h
  · injection h with h; subst h; trivial

theorem or_keeps {a b : Option VeOut} (ha : ∀ t, a = some t → t.Keeps s₀) (hb : ∀ t, b = some t → t.Keeps s₀)
    {t : VeOut} (h : a.or b = some t) : t.Keeps s₀ := by
  cases a with
  | none => exact hb _ (by simpa using h)
  | some x => exact ha _ (by simpa using h)

theorem ite_keeps {P : Prop} [Decidable P] {a : Option VeOut} (ha : ∀ t, a = some t → t.Keeps s₀) {t : VeOut}
    (h : (if P then a else none) = some t) : t.Keeps s₀ := by
  split at h
  · exact ha _ h
  · cases h

theorem accessTrap_keeps {p : Fin 4} {V : Ve} {space align : Nat} {store : Bool} {es : List VeElem} {t : VeOut}
    (h : accessTrap s p V space align store es = some t) : t.Keeps s₀ :=
  or_keeps (fun _ => trapElems_keeps) (fun _ => or_keeps (fun _ => trapElems_keeps) (fun _ =>
    or_keeps (fun _ => trapElems_keeps) (fun _ => or_keeps (fun _ => ite_keeps fun _ => trapElems_keeps)
      (fun _ => ite_keeps fun _ => trapElems_keeps)))) h

theorem loadWith_keeps {elems : Ve → DWord → List VeElem} {ix : Bool} (hs : Sound s₀ s) {c : Fin 256} {w : DWord} :
    (loadWith elems ix s c w).Keeps s₀ := by
  unfold loadWith; dsimp only
  split
  · exact trapOf_keeps
  split
  · next h => exact accessTrap_keeps h
  · exact goOn_keeps (modVe_sound (noteLoad_sound hs) fun V h => by rw [Ve.p0Ones, postInc_p]; exact h)

theorem storeWith_keeps {elems : Ve → DWord → List VeElem} {ix : Bool} (hs : Sound s₀ s) {c : Fin 256} {w : DWord} :
    (storeWith elems ix s c w).Keeps s₀ := by
  unfold storeWith; dsimp only
  split
  · exact trapOf_keeps
  split
  · next h => exact accessTrap_keeps h
  · exact goOn_keeps (modVe_sound (storeElems_sound hs) fun V h => by rw [Ve.p0Ones, postInc_p]; exact h)

theorem doLdscl_keeps (hs : Sound s₀ s) {c : Fin 256} {w : DWord} : (doLdscl s c w).Keeps s₀ := by
  unfold doLdscl; dsimp only
  split
  · exact trapOf_keeps
  split
  · next h => exact or_keeps (fun _ => accessTrap_keeps) (fun _ => trapElems_keeps) h
  · exact goOn_keeps (modVe_sound (noteLoad_sound hs) fun V h => by rw [Ve.p0Ones, postInc_p]; exact h)

theorem doStscl_keeps (hs : Sound s₀ s) {c : Fin 256} {w : DWord} : (doStscl s c w).Keeps s₀ := by
  unfold doStscl; dsimp only
  split
  · exact trapOf_keeps
  split
  · next h => exact accessTrap_keeps h
  · exact goOn_keeps (modVe_sound (storeElems_sound hs) fun V h => by rw [Ve.p0Ones, postInc_p]; exact h)

/-! ### Launches -/

theorem placeVes_sound (hs : Sound s₀ s) {cs : List (Fin 256)} {f : Nat → Ve} (hf : ∀ i, (f i).p0Ones) :
    Sound s₀ (placeVes s cs f) := foldl_sound (fun _ x hx => modVe_sound hx fun _ _ => hf x.2) hs

theorem finishUpdate_sound (hs : Sound s₀ s) {p : Fin 4} {q : Fin 16} {n : Word} {r : UpdRun} :
    Sound s₀ (finishUpdate s p q n r) := by
  unfold finishUpdate
  repeat' first
    | with_reducible assumption
    | (with_reducible first | apply setResult_sound | apply setBody_sound | apply releaseUnits_sound)
    | split

theorem doVeRangeStart_sound (hs : Sound s₀ s) {p : Fin 4} {q : Fin 16} {n : Word} :
    Sound s₀ (doVeRangeStart p q n s) := by
  unfold doVeRangeStart
  dsimp only
  repeat' first
    | with_reducible assumption
    | (with_reducible first
        | apply skipDraws_sound | apply placeVes_sound | apply setBody_sound | apply finishUpdate_sound)
    | exact fun _ => Ve.reset_p0
    | split

theorem releaseVe_p {x : Word} {V : Ve} : (releaseVe x V).p = V.p := by unfold releaseVe; dsimp only; split <;> rfl

theorem doLbarRelease_sound (hs : Sound s₀ s) {p : Fin 4} {q : Fin 16} {n : Word} :
    Sound s₀ (doLbarRelease p q n s) := by
  unfold doLbarRelease
  repeat' first
    | with_reducible assumption
    | (with_reducible first | apply foldl_sound | apply fetchAt_sound | apply modVe_sound)
    | intro s x hx
    | (intro V h; rw [Ve.p0Ones, releaseVe_p]; exact h)
    | split
    | dsimp only

theorem arrive_keeps (hs : Sound s₀ s) {c : Fin 256} {x : Option (Nat × Word × Fin 16)} : (arrive s c x).Keeps s₀ := by
  unfold arrive; dsimp only
  split
  · exact trapOf_keeps
  · exact modVe_sound hs fun _ h => h

theorem doLbar_keeps (hs : Sound s₀ s) {c : Fin 256} {w : DWord} : (doLbar s c w).Keeps s₀ := by
  unfold doLbar; split <;> [exact arrive_keeps hs; exact trapOf_keeps]
theorem doLred_keeps (hs : Sound s₀ s) {c : Fin 256} {w : DWord} : (doLred s c w).Keeps s₀ := by
  unfold doLred; split <;> [exact arrive_keeps hs; exact trapOf_keeps]

theorem noteUpdReads_sound (hs : Sound s₀ s) {p : Fin 4} {set : BitVec 16} {r : UpdRun} :
    Sound s₀ (noteUpdReads s p set r) := by
  unfold noteUpdReads
  try dsimp only
  repeat' first
    | with_reducible assumption
    | (with_reducible first | apply touch_sound | apply noteAccess_sound)
    | split

theorem doUpdate_sound (hs : Sound s₀ s) {p : Fin 4} {q : Fin 16} {e : Entry} : Sound s₀ (doUpdate p q e s) := by
  unfold doUpdate
  try dsimp only
  repeat' first
    | with_reducible assumption
    | (with_reducible first
        | apply runEntry_sound | apply endCmd_sound | apply modPolder_sound | apply noteUpdReads_sound
        | apply modCmd_sound | apply setResult_sound)
    | fail_if_no_progress with_reducible refine Sound.set ?_ rfl rfl rfl rfl rfl rfl rfl
    | intro s hx
    | split

theorem stageArray_sound (hs : Sound s₀ s) {p : Fin 4} {set : BitVec 16} {r : UpdRun} {b : Nat} {base : Nat} {fmt :
     Nat} :
    Sound s₀ (stageArray s p set r b base fmt).1 := by
  unfold stageArray
  try dsimp only
  repeat' first
    | with_reducible assumption
    | (with_reducible first | apply unitRead_sound)

theorem stageBlock_sound (hs : Sound s₀ s) {p : Fin 4} {set : BitVec 16} {r : UpdRun} {b : Nat} :
    Sound s₀ (stageBlock s p set r b).1 := by
  unfold stageBlock
  try dsimp only
  repeat' first
    | with_reducible assumption
    | (with_reducible first | apply stageArray_sound)
    | split

theorem applyStores_sound (hs : Sound s₀ s) {p : Fin 4} {set : BitVec 16} {xs : List (Nat × List Byte)} :
    Sound s₀ (applyStores s p set xs) := by
  unfold applyStores
  try dsimp only
  repeat' first
    | with_reducible assumption
    | (with_reducible first | apply unitWrite_sound | apply foldl_sound | apply foldl_fst_sound)
    | intro s x hx

theorem commitBlock_sound (hs : Sound s₀ s) {p : Fin 4} {q : Fin 16} {n : Word} {c : Cmd} {r : UpdRun} {k : Nat} {cl
     : Fin 256} {u : UpdBlock} :
    Sound s₀ (commitBlock s p q n c r k cl u) := by
  unfold commitBlock
  try dsimp only
  repeat' first
    | with_reducible assumption
    | (with_reducible first
        | apply failUpdate_sound | apply applyStores_sound | apply modVe_sound | apply finishUpdate_sound)
    | fail_if_no_progress with_reducible refine Sound.set ?_ rfl rfl rfl rfl rfl rfl rfl
    | exact fun _ hx => hx
    | split

theorem startCopy_p0 {r : UpdRun} {draw b : Nat} {o : BlockOut} {V : Ve} : (startCopy r draw b o V).p0Ones := Ve.reset_p0

theorem doUpdateBlock_sound (hs : Sound s₀ s) {p : Fin 4} {q : Fin 16} {n : Word} {k : Nat} :
    Sound s₀ (doUpdateBlock p q n k s) := by
  unfold doUpdateBlock
  try dsimp only
  repeat' first
    | with_reducible assumption
    | (with_reducible first
        | apply stageBlock_sound | apply failUpdate_sound | apply noteCounts_sound | apply commitBlock_sound
        | apply setBody_sound | apply nextDraw_sound | apply modVe_sound)
    | fail_if_no_progress with_reducible refine Sound.set ?_ rfl rfl rfl rfl rfl rfl rfl
    | exact fun _ hx => hx
    | exact fun _ _ => startCopy_p0
    | split

theorem launchEnded_sound (hs : Sound s₀ s) {p : Fin 4} {q : Fin 16} {n : Word} : Sound s₀ (launchEnded s p q n) := by
  unfold launchEnded
  try dsimp only
  repeat' first
    | with_reducible assumption
    | (with_reducible first | apply setResult_sound | apply releaseUnits_sound)
    | split

theorem beforePosting_sound (hs : Sound s₀ s) {p : Fin 4} {c : Cmd} {st : Status} :
    Sound s₀ (beforePosting s p c st).1 := by
  unfold beforePosting
  try dsimp only
  repeat' first
    | with_reducible assumption
    | (with_reducible first
        | apply failUpdate_sound | apply failCmd_sound | apply writeUpdCell_sound
        | apply writeUpdReport_sound)
    | split

theorem doCommandCompletion_sound (hs : Sound s₀ s) {p : Fin 4} {q : Fin 16} :
    Sound s₀ (doCommandCompletion p q s) := by
  unfold doCommandCompletion
  try dsimp only
  repeat' first
    | with_reducible assumption
    | (with_reducible first | apply beforePosting_sound | apply postCompletion_sound)
    | split

end Sys2Proof.Machine
end

