-- ==== Sys2Proof/Laws/SoundModule.lean ====
section
/-! SUPPORT. `Sound` of the state pack, hang handling, power, the meter, security, resets, repair, the plain ring
commands, SMBus and time. -/

namespace Sys2Proof.Machine

variable {s₀ s t : State}

theorem doStateSave_sound (hs : Sound s₀ s) {p : Fin 4} {q : Fin 16} {e : Entry} :
    Sound s₀ (doStateSave p q e s) := by
  unfold doStateSave
  try dsimp only
  repeat' first
    | with_reducible assumption
    | (with_reducible first | apply runEntry_sound | apply setBody_sound)
    | intro s hx

theorem doStateLoad_sound (hs : Sound s₀ s) {p : Fin 4} {q : Fin 16} {e : Entry} :
    Sound s₀ (doStateLoad p q e s) := by
  unfold doStateLoad
  try dsimp only
  repeat' first
    | with_reducible assumption
    | (with_reducible first | apply runEntry_sound | apply setBody_sound)
    | intro s hx

theorem saveAtFence_sound (hs : Sound s₀ s) {p : Fin 4} {c : Cmd} {d : List Byte} {items : List Byte} :
    Sound s₀ (saveAtFence s p c d items) := by
  unfold saveAtFence
  try dsimp only
  repeat' first
    | with_reducible assumption
    | (with_reducible first
        | apply endCmd_sound | apply noteSpans_sound | apply unitWrite_sound | apply setAreas_sound
        | apply failCmd_sound)
    | split

theorem doStateSaveFenceReached_sound (hs : Sound s₀ s) {p : Fin 4} : Sound s₀ (doStateSaveFenceReached p s) := by
  unfold doStateSaveFenceReached
  try dsimp only
  repeat' first
    | with_reducible assumption
    | (with_reducible first | apply saveAtFence_sound)
    | split

theorem loadAtFence_sound (hs : Sound s₀ s) {p : Fin 4} {c : Cmd} {d : List Byte} {items : List Byte} :
    Sound s₀ (loadAtFence s p c d items) := by
  unfold loadAtFence
  try dsimp only
  repeat' first
    | with_reducible assumption
    | (with_reducible first
        | apply endCmd_sound | apply unitWrites_sound | apply noteAccess_sound | apply modPolder_sound
        | apply finishFence_sound | apply addWarn_sound)
    | split

theorem doStateLoadFenceReached_sound (hs : Sound s₀ s) {p : Fin 4} : Sound s₀ (doStateLoadFenceReached p s) := by
  unfold doStateLoadFenceReached
  try dsimp only
  repeat' first
    | with_reducible assumption
    | (with_reducible first | apply loadAtFence_sound)
    | split

theorem doReplayCheck_sound (hs : Sound s₀ s) {p : Fin 4} {q : Fin 16} {e : Entry} :
    Sound s₀ (doReplayCheck p q e s) := by
  unfold doReplayCheck
  try dsimp only
  repeat' first
    | with_reducible assumption
    | (with_reducible first
        | apply runEntry_sound | apply noteSpans_sound | apply nextDraw_sound | apply setAreas_sound
        | apply unitWrite_sound | apply endCmd_sound)
    | intro s hx
    | split

theorem laterTrigger_sound (hs : Sound s₀ s) {p : Fin 4} {d : Dump} : Sound s₀ (laterTrigger s p d) := by
  unfold laterTrigger
  try dsimp only
  repeat' first
    | with_reducible assumption
    | (with_reducible first | apply regionWrite_sound | apply modPolder_sound)

theorem writeDump_sound (hs : Sound s₀ s) {p : Fin 4} {reason : Nat} {qb : Nat} {n : Word} {repair : Nat} :
    Sound s₀ (writeDump s p reason qb n repair) := by
  unfold writeDump
  try dsimp only
  repeat' first
    | with_reducible assumption
    | (with_reducible first
        | apply nextDraw_sound | apply regionWrite_sound | apply modPolder_sound | apply traceRecord_sound
        | apply polderEvent_sound)

theorem capture_sound (hs : Sound s₀ s) {p : Fin 4} {reason : Nat} {qb : Nat} {n : Word} :
    Sound s₀ (capture s p reason qb n) := by
  unfold capture
  try dsimp only
  repeat' first
    | with_reducible assumption
    | (with_reducible first
        | apply laterTrigger_sound | apply writeDump_sound | apply takeSnap_sound | apply faultC2_sound)
    | split

theorem doWatchdogExpiry_sound (hs : Sound s₀ s) {p : Fin 4} {q : Fin 16} {n : Word} :
    Sound s₀ (doWatchdogExpiry p q n s) := by
  unfold doWatchdogExpiry
  try dsimp only
  repeat' first
    | with_reducible assumption
    | (with_reducible first | apply modCmd_sound)
    | fail_if_no_progress with_reducible refine Sound.set ?_ rfl rfl rfl rfl rfl rfl rfl
    | split

theorem timeOut_sound (hs : Sound s₀ s) {p : Fin 4} {c : Cmd} : Sound s₀ (timeOut s p c) := by
  unfold timeOut
  try dsimp only
  repeat' first
    | with_reducible assumption
    | (with_reducible first
        | apply modCmd_sound | apply failUpdate_sound | apply failCopy_sound | apply failVk_sound
        | apply failCmd_sound)
    | fail_if_no_progress with_reducible refine Sound.set ?_ rfl rfl rfl rfl rfl rfl rfl
    | split

theorem doHangDeclared_sound (hs : Sound s₀ s) {p : Fin 4} {q : Fin 16} {n : Word} {freed : Bool} :
    Sound s₀ (doHangDeclared p q n freed s) := by
  unfold doHangDeclared
  try dsimp only
  repeat' first
    | with_reducible assumption
    | (with_reducible first | apply timeOut_sound | apply capture_sound)
    | split

theorem serveDump_sound (hs : Sound s₀ s) {p : Fin 4} {op : Nat} {act : State → List Byte → Answer} (hact : ∀ s b0,
     Sound s₀ s → Sound s₀ (act s b0).1) :
    Sound s₀ (serveDump s p op act) := by
  unfold serveDump
  try dsimp only
  repeat' first
    | with_reducible assumption
    | (with_reducible first | apply serve_sound | apply refuse_sound)
    | apply hact
    | intro s b hx
    | intro s hx
    | split

theorem doDumpReadStatus_sound (hs : Sound s₀ s) {p : Fin 4} : Sound s₀ (doDumpReadStatus p s) := by
  unfold doDumpReadStatus
  try dsimp only
  repeat' first
    | with_reducible assumption
    | (with_reducible first
        | apply serveDump_sound | apply accept_sound | apply touch_sound | apply refuse_sound)
    | intro s b hx
    | intro s hx
    | split

theorem dumpCopy_sound (hs : Sound s₀ s) {p : Fin 4} {b : List Byte} : Sound s₀ (dumpCopy s p b).1 := by
  unfold dumpCopy
  try dsimp only
  repeat' first
    | with_reducible assumption
    | (with_reducible first | apply refuse_sound | apply touch_sound | apply memWrite_sound)
    | split

theorem doDumpReadCopy_sound (hs : Sound s₀ s) {p : Fin 4} : Sound s₀ (doDumpReadCopy p s) := by
  unfold doDumpReadCopy
  try dsimp only
  repeat' first
    | with_reducible assumption
    | (with_reducible first | apply serve_sound | apply refuse_sound | apply dumpCopy_sound)
    | intro s b hx
    | intro s hx
    | split

theorem doDumpReadCapture_sound (hs : Sound s₀ s) {p : Fin 4} : Sound s₀ (doDumpReadCapture p s) := by
  unfold doDumpReadCapture
  try dsimp only
  repeat' first
    | with_reducible assumption
    | (with_reducible first | apply serve_sound | apply refuse_sound | apply accept_sound | apply capture_sound)
    | intro s b hx
    | intro s hx
    | split

theorem doDumpReadRelease_sound (hs : Sound s₀ s) {p : Fin 4} : Sound s₀ (doDumpReadRelease p s) := by
  unfold doDumpReadRelease
  try dsimp only
  repeat' first
    | with_reducible assumption
    | (with_reducible first | apply serveDump_sound | apply accept_sound | apply modPolder_sound)
    | fail_if_no_progress with_reducible refine Sound.set ?_ rfl rfl rfl rfl rfl rfl rfl
    | intro s b hx

theorem doDumpReadLiveCounters_sound (hs : Sound s₀ s) {p : Fin 4} : Sound s₀ (doDumpReadLiveCounters p s) := by
  unfold doDumpReadLiveCounters
  try dsimp only
  repeat' first
    | with_reducible assumption
    | (with_reducible first | apply respond_sound | apply takeSnap_sound | apply modFunc_sound)
    | fail_if_no_progress with_reducible refine Sound.set ?_ rfl rfl rfl rfl rfl rfl rfl
    | exact fun _ hx => hx
    | split

theorem setPower_sound (hs : Sound s₀ s) {f : Power → Power} : Sound s₀ (setPower s f) := by
  unfold setPower
  try dsimp only
  repeat' first
    | with_reducible assumption
    | fail_if_no_progress with_reducible refine Sound.set ?_ rfl rfl rfl rfl rfl rfl rfl

theorem capEvent_sound (hs : Sound s₀ s) {kind : Fin 4} : Sound s₀ (capEvent s kind) := by
  unfold capEvent
  try dsimp only
  repeat' first
    | with_reducible assumption
    | (with_reducible first | apply setPower_sound | apply moduleEvent_sound)
    | fail_if_no_progress with_reducible refine Sound.set ?_ rfl rfl rfl rfl rfl rfl rfl
    | split

theorem applyPower_sound (hs : Sound s₀ s) {aclk : Nat} {duty : Nat} : Sound s₀ (applyPower s aclk duty) := by
  unfold applyPower
  try dsimp only
  repeat' first
    | with_reducible assumption
    | (with_reducible first | apply settleLimits_sound | apply setPower_sound | apply capEvent_sound)
    | fail_if_no_progress with_reducible refine Sound.set ?_ rfl rfl rfl rfl rfl rfl rfl
    | split

theorem doGovernorEval_sound (hs : Sound s₀ s) : Sound s₀ (doGovernorEval s) := by
  unfold doGovernorEval
  repeat' first
    | with_reducible assumption
    | (with_reducible first | apply applyPower_sound)
    | split

theorem inputSample_sound (hs : Sound s₀ s) {w : Nat} : Sound s₀ (inputSample s w) := by
  unfold inputSample
  try dsimp only
  repeat' first
    | with_reducible assumption
    | (with_reducible first | apply setPower_sound | apply applyPower_sound)
    | fail_if_no_progress with_reducible refine Sound.set ?_ rfl rfl rfl rfl rfl rfl rfl
    | split

theorem doPwrbrkAssert_sound (hs : Sound s₀ s) : Sound s₀ (doPwrbrkAssert s) := by
  unfold doPwrbrkAssert
  try dsimp only
  repeat' first
    | with_reducible assumption
    | (with_reducible first | apply settleLimits_sound | apply applyPower_sound)
    | fail_if_no_progress with_reducible refine Sound.set ?_ rfl rfl rfl rfl rfl rfl rfl
    | split

theorem doPwrbrkDeassert_sound (hs : Sound s₀ s) : Sound s₀ (doPwrbrkDeassert s) := by
  unfold doPwrbrkDeassert
  try dsimp only
  repeat' first
    | with_reducible assumption
    | fail_if_no_progress with_reducible refine Sound.set ?_ rfl rfl rfl rfl rfl rfl rfl

theorem doPowerCapSet_sound (hs : Sound s₀ s) : Sound s₀ (doPowerCapSet s) := by
  unfold doPowerCapSet
  try dsimp only
  repeat' first
    | with_reducible assumption
    | (with_reducible first | apply serve_sound | apply refuse_sound | apply accept_sound | apply setPower_sound)
    | fail_if_no_progress with_reducible refine Sound.set ?_ rfl rfl rfl rfl rfl rfl rfl
    | intro s b hx
    | intro s hx
    | split

theorem thermEvent_sound (hs : Sound s₀ s) {part : Nat} {index : Nat} {level : Nat} {t : Int} {aclk : Nat} :
    Sound s₀ (thermEvent s part index level t aclk) := by
  unfold thermEvent
  try dsimp only
  repeat' first
    | with_reducible assumption
    | (with_reducible first | apply setPower_sound | apply moduleEvent_sound)
    | fail_if_no_progress with_reducible refine Sound.set ?_ rfl rfl rfl rfl rfl rfl rfl
    | split

theorem railsOff_sound (hs : Sound s₀ s) : Sound s₀ (railsOff s) :=
  hs.trans ⟨rfl, .refl _, fun i =>
    { mem := reset_mem_wf.1, undef := reset_undef_wf, hostMem := i.hostMem, events := i.events
      p0 := fun c => by
        have : (Vector.replicate 256 Cluster.reset).get c = Cluster.reset := by simp [Vector.get_eq_getElem]
        simp only [ve, cluster, railsOff, setPower, this]; exact Ve.reset_p0 }⟩

theorem trip_sound (hs : Sound s₀ s) {die : Nat} : Sound s₀ (trip s die) := by
  unfold trip
  try dsimp only
  repeat' first
    | with_reducible assumption
    | (with_reducible first | apply railsOff_sound | apply faultEarly_sound | apply raiseAlert_sound)
    | fail_if_no_progress with_reducible refine Sound.set ?_ rfl rfl rfl rfl rfl rfl rfl
    | split

theorem alertLevel_sound (hs : Sound s₀ s) {level : Nat} : Sound s₀ (alertLevel s level) := by
  unfold alertLevel
  repeat' first
    | with_reducible assumption
    | (with_reducible first | apply raiseAlert_sound)
    | split

theorem stepCeiling_sound (hs : Sound s₀ s) {d : Fin 4} {t : Int} : Sound s₀ (stepCeiling s d t) := by
  unfold stepCeiling
  try dsimp only
  repeat' first
    | with_reducible assumption
    | (with_reducible first | apply setPower_sound)
    | fail_if_no_progress with_reducible refine Sound.set ?_ rfl rfl rfl rfl rfl rfl rfl
    | split

theorem sampleDie_sound (hs : Sound s₀ s) {d : Fin 4} {t : Int} : Sound s₀ (sampleDie s d t) := by
  unfold sampleDie
  try dsimp only
  repeat' first
    | with_reducible assumption
    | (with_reducible first
        | apply settleLimits_sound | apply stepCeiling_sound | apply setPower_sound | apply thermEvent_sound
        | apply alertLevel_sound | apply trip_sound)
    | fail_if_no_progress with_reducible refine Sound.set ?_ rfl rfl rfl rfl rfl rfl rfl
    | split

theorem sampleIDie_sound (hs : Sound s₀ s) {t : Int} : Sound s₀ (sampleIDie s t) := by
  unfold sampleIDie
  try dsimp only
  repeat' first
    | with_reducible assumption
    | (with_reducible first
        | apply setPower_sound | apply thermEvent_sound | apply alertLevel_sound | apply trip_sound)
    | fail_if_no_progress with_reducible refine Sound.set ?_ rfl rfl rfl rfl rfl rfl rfl
    | split

theorem doThermalSample_sound (hs : Sound s₀ s) {x : Temps} : Sound s₀ (doThermalSample x s) := by
  unfold doThermalSample
  try dsimp only
  repeat' first
    | with_reducible assumption
    | (with_reducible first
        | apply setPower_sound | apply leaveHold_sound | apply sampleIDie_sound | apply sampleDie_sound
        | apply foldl_sound)
    | fail_if_no_progress with_reducible refine Sound.set ?_ rfl rfl rfl rfl rfl rfl rfl
    | intro s x hx
    | intro s hx
    | split

theorem doMr4Poll_sound (hs : Sound s₀ s) {m : Fin 32} {temp : Int} {mr4 : Nat} :
    Sound s₀ (doMr4Poll m temp mr4 s) := by
  unfold doMr4Poll
  try dsimp only
  repeat' first
    | with_reducible assumption
    | (with_reducible first
        | apply settleLimits_sound | apply modSite_sound | apply thermEvent_sound | apply raiseAlert_sound
        | apply leaveHold_sound | apply trip_sound)
    | fail_if_no_progress with_reducible refine Sound.set ?_ rfl rfl rfl rfl rfl rfl rfl
    | split

theorem doActivityEstimate_sound (hs : Sound s₀ s) {c : Fin 256} {w : Weights} :
    Sound s₀ (doActivityEstimate c w s) := modCluster_sound hs fun _ hx => hx

theorem addIdle_sound (hs : Sound s₀ s) {p : Fin 4} {e : Nat} {shared : Nat} : Sound s₀ (addIdle s p e shared) := by
  unfold addIdle
  try dsimp only
  repeat' first
    | with_reducible assumption
    | (with_reducible first | apply modPolder_sound)

theorem addModule_sound (hs : Sound s₀ s) {e : Nat} : Sound s₀ (addModule s e) := by
  unfold addModule
  try dsimp only
  repeat' first
    | with_reducible assumption
    | (with_reducible first | apply modChain_sound)

theorem giveEnergy_sound (hs : Sound s₀ s) {w : Who} {direct : Nat} {shared : Nat} :
    Sound s₀ (giveEnergy s w direct shared) := by
  unfold giveEnergy
  try dsimp only
  repeat' first
    | with_reducible assumption
    | (with_reducible first
        | apply countAdd_sound | apply modCmd_sound | apply addIdle_sound | apply modPolder_sound)
    | fail_if_no_progress with_reducible refine Sound.set ?_ rfl rfl rfl rfl rfl rfl rfl
    | split

theorem giveDirect_sound (hs : Sound s₀ s) {xs : List (Who × Nat)} : Sound s₀ (giveDirect s xs) := by
  unfold giveDirect
  try dsimp only
  repeat' first
    | with_reducible assumption
    | (with_reducible first | apply giveEnergy_sound | apply foldl_sound | apply foldl_fst_sound)
    | intro s x hx

theorem giveShared_sound (hs : Sound s₀ s) {p : Fin 4} {e : Nat} {us : List UnitUse} :
    Sound s₀ (giveShared s p e us) := by
  unfold giveShared
  try dsimp only
  repeat' first
    | with_reducible assumption
    | (with_reducible first
        | apply giveEnergy_sound | apply addIdle_sound | apply foldl_sound | apply foldl_fst_sound)
    | intro s x hx

theorem dieSlot_sound (hs : Sound s₀ s) {x : RailSample} {d : Fin 4} {i : Nat} {us : List UnitUse} :
    Sound s₀ (dieSlot s x d i us).1 := by
  unfold dieSlot
  try dsimp only
  repeat' first
    | with_reducible assumption
    | (with_reducible first | apply giveDirect_sound)

theorem sampleSlot_sound (hs : Sound s₀ s) {x : RailSample} {i : Nat} : Sound s₀ (sampleSlot x s i) := by
  unfold sampleSlot
  try dsimp only
  repeat' first
    | with_reducible assumption
    | (with_reducible first
        | apply dieSlot_sound | apply giveDirect_sound | apply giveShared_sound | apply addModule_sound
        | apply foldl_sound | apply foldl_fst_sound)
    | intro s x hx

theorem mapSnaps_sound (hs : Sound s₀ s) {p : Fin 4} {f : Snap → Snap} : Sound s₀ (mapSnaps s p f) :=
  modFunc_sound (modPolder_sound hs) fun _ hx => hx

theorem patchDump_sound (hs : Sound s₀ s) {p : Fin 4} : Sound s₀ (patchDump s p) := by
  unfold patchDump
  try dsimp only
  repeat' first
    | with_reducible assumption
    | (with_reducible first
        | apply regionWrite_sound | apply modPolder_sound | apply foldl_sound | apply foldl_fst_sound)
    | fail_if_no_progress with_reducible refine Sound.set ?_ rfl rfl rfl rfl rfl rfl rfl
    | intro s x hx
    | intro s hx
    | split

theorem answerLive_sound (hs : Sound s₀ s) {p : Fin 4} : Sound s₀ (answerLive s p) := by
  unfold answerLive
  try dsimp only
  repeat' first
    | with_reducible assumption
    | (with_reducible first
        | apply respond_sound | apply modFunc_sound | apply foldl_sound | apply foldl_fst_sound)
    | fail_if_no_progress with_reducible refine Sound.set ?_ rfl rfl rfl rfl rfl rfl rfl
    | exact fun _ hx => hx
    | intro s x hx
    | split

theorem finishSnaps_sound (hs : Sound s₀ s) {p : Fin 4} : Sound s₀ (finishSnaps s p) := by
  unfold finishSnaps
  repeat' first
    | with_reducible assumption
    | (with_reducible first | apply answerLive_sound | apply patchDump_sound | apply flushRing_sound)

theorem meterSlot_sound (hs : Sound s₀ s) {x : RailSample} {cut : Fin 4 → DWord → Nat × Nat} {i : Nat} :
    Sound s₀ (meterSlot x cut s i) :=
  foldl_sound (fun _ _ hx => mapSnaps_sound hx) (sampleSlot_sound hs)

theorem nextSample_sound (hs : Sound s₀ s) : Sound s₀ (nextSample s) := by
  refine foldl_sound (fun _ _ hx => mapSnaps_sound hx) ?_
  exact (mapClusters_sound (f := fun C => { C with weights := C.weights.drop 10 }) hs fun _ hx => hx).same
    rfl rfl rfl rfl rfl rfl rfl

theorem doMeterSample_sound (hs : Sound s₀ s) {x : RailSample} : Sound s₀ (doMeterSample x s) :=
  foldl_sound (fun _ _ hx => finishSnaps_sound hx)
    (nextSample_sound (foldl_sound (fun _ _ hx => meterSlot_sound hx) (inputSample_sound hs)))

theorem energyRecord_sound (hs : Sound s₀ s) {p : Fin 4} {kind : Nat} {flags : Nat} {id : Nat} {start : DWord} {stop
     : DWord} {cmds : Nat} {merged : Nat} {total : Nat} {shared : Nat} {disc : Nat} :
    Sound s₀ (energyRecord s p kind flags id start stop cmds merged total shared disc) := by
  unfold energyRecord
  try dsimp only
  repeat' first
    | with_reducible assumption
    | (with_reducible first | apply modPolder_sound | apply modChain_sound)

theorem requestRecord_sound (hs : Sound s₀ s) {p : Fin 4} {rid : Nat} {r : Req} {still : Bool} :
    Sound s₀ (requestRecord s p rid r still) := by
  unfold requestRecord
  try dsimp only
  repeat' first
    | with_reducible assumption
    | (with_reducible first | apply energyRecord_sound | apply modPolder_sound)

theorem mergeRequest_sound (hs : Sound s₀ s) {p : Fin 4} {rid : Nat} {r : Req} :
    Sound s₀ (mergeRequest s p rid r) := by
  unfold mergeRequest
  try dsimp only
  repeat' first
    | with_reducible assumption
    | (with_reducible first | apply modPolder_sound)

theorem closeRequest_sound (hs : Sound s₀ s) {p : Fin 4} {rid : Nat} : Sound s₀ (closeRequest s p rid) := by
  unfold closeRequest
  try dsimp only
  repeat' first
    | with_reducible assumption
    | (with_reducible first | apply mergeRequest_sound | apply requestRecord_sound | apply modPolder_sound)
    | fail_if_no_progress with_reducible refine Sound.set ?_ rfl rfl rfl rfl rfl rfl rfl
    | split

theorem groupRecords_sound (hs : Sound s₀ s) {p : Fin 4} : Sound s₀ (groupRecords s p) := by
  unfold groupRecords
  try dsimp only
  repeat' first
    | with_reducible assumption
    | (with_reducible first
        | apply energyRecord_sound | apply modPolder_sound | apply foldl_sound | apply foldl_fst_sound)
    | fail_if_no_progress with_reducible refine Sound.set ?_ rfl rfl rfl rfl rfl rfl rfl
    | intro s x hx
    | intro s hx
    | split

theorem openRecords_sound (hs : Sound s₀ s) {p : Fin 4} : Sound s₀ (openRecords s p) := by
  unfold openRecords
  try dsimp only
  repeat' first
    | with_reducible assumption
    | (with_reducible first | apply requestRecord_sound | apply foldl_sound | apply foldl_fst_sound)
    | intro s x hx
    | intro s hx
    | split

theorem idleRecord_sound (hs : Sound s₀ s) {p : Fin 4} : Sound s₀ (idleRecord s p) := by
  unfold idleRecord
  try dsimp only
  repeat' first
    | with_reducible assumption
    | (with_reducible first | apply modPolder_sound | apply modChain_sound)
    | fail_if_no_progress with_reducible refine Sound.set ?_ rfl rfl rfl rfl rfl rfl rfl
    | split

theorem moduleRecord_sound (hs : Sound s₀ s) : Sound s₀ (moduleRecord s) := by
  unfold moduleRecord
  try dsimp only
  repeat' first
    | with_reducible assumption
    | (with_reducible first | apply modChain_sound)
    | fail_if_no_progress with_reducible refine Sound.set ?_ rfl rfl rfl rfl rfl rfl rfl
    | split

theorem signWith_sound (hs : Sound s₀ s) {k : RsaKey} {msg : List Byte} : Sound s₀ (signWith s k msg).1 := by
  unfold signWith
  repeat' first
    | with_reducible assumption
    | (with_reducible first | apply nextDraw_sound)

theorem signMeter_sound (hs : Sound s₀ s) {msg : List Byte} : Sound s₀ (signMeter s msg).1 := by
  unfold signMeter
  repeat' first
    | with_reducible assumption
    | (with_reducible first | apply signWith_sound)

theorem batchEvent_sound (hs : Sound s₀ s) {c : Fin 5} {head : List Byte} : Sound s₀ (batchEvent s c head) := by
  unfold batchEvent
  try dsimp only
  repeat' first
    | with_reducible assumption
    | (with_reducible first | apply polderEvent_sound | apply adminEvent_sound)
    | split

theorem finishBatch_sound (hs : Sound s₀ s) {c : Fin 5} {x : Nat × List Byte} : Sound s₀ (finishBatch s c x) := by
  unfold finishBatch
  try dsimp only
  repeat' first
    | with_reducible assumption
    | (with_reducible first | apply signMeter_sound | apply modChain_sound | apply batchEvent_sound)

theorem batchRecords_sound (hs : Sound s₀ s) {c : Fin 5} : Sound s₀ (batchRecords s c) := by
  unfold batchRecords
  try dsimp only
  repeat' first
    | with_reducible assumption
    | (with_reducible first
        | apply idleRecord_sound | apply openRecords_sound | apply groupRecords_sound
        | apply moduleRecord_sound)
    | split

theorem closeBatch_sound (hs : Sound s₀ s) {c : Fin 5} : Sound s₀ (closeBatch s c) := by
  unfold closeBatch
  try dsimp only
  repeat' first
    | with_reducible assumption
    | (with_reducible first | apply batchRecords_sound | apply modChain_sound | apply finishBatch_sound)
    | fail_if_no_progress with_reducible refine Sound.set ?_ rfl rfl rfl rfl rfl rfl rfl
    | split

theorem doMeterBatchClose_sound (hs : Sound s₀ s) {c : Fin 5} : Sound s₀ (doMeterBatchClose c s) := by
  unfold doMeterBatchClose
  repeat' first
    | with_reducible assumption
    | (with_reducible first | apply closeBatch_sound)
    | split

theorem settleBatch_sound (hs : Sound s₀ s) {c : Fin 5} : Sound s₀ (settleBatch s c) := by
  unfold settleBatch
  repeat' first
    | with_reducible assumption
    | (with_reducible first | apply closeBatch_sound)
    | split

theorem endRequest_sound (hs : Sound s₀ s) {p : Fin 4} {rid : Nat} : Sound s₀ (endRequest s p rid) := by
  unfold endRequest
  repeat' first
    | with_reducible assumption
    | (with_reducible first | apply settleBatch_sound | apply closeRequest_sound)

theorem doRequestClose_sound (hs : Sound s₀ s) {p : Fin 4} {rid : Word} : Sound s₀ (doRequestClose p rid s) := by
  unfold doRequestClose
  try dsimp only
  repeat' first
    | with_reducible assumption
    | (with_reducible first | apply endRequest_sound)
    | split

theorem closeRequests_sound (hs : Sound s₀ s) {p : Fin 4} : Sound s₀ (closeRequests s p) := by
  unfold closeRequests
  try dsimp only
  repeat' first
    | with_reducible assumption
    | (with_reducible first | apply endRequest_sound | apply foldl_sound | apply foldl_fst_sound)
    | intro s x hx

theorem doMeterKeyDerivationDone_sound (hs : Sound s₀ s) : Sound s₀ (doMeterKeyDerivationDone s) := by
  unfold doMeterKeyDerivationDone
  try dsimp only
  repeat' first
    | with_reducible assumption
    | (with_reducible first | apply finishBatch_sound | apply modChain_sound | apply foldl_sound)
    | fail_if_no_progress with_reducible refine Sound.set ?_ rfl rfl rfl rfl rfl rfl rfl
    | intro s x hx
    | intro s hx
    | split

theorem doMeterRecordDeliver_sound (hs : Sound s₀ s) {c : Fin 5} : Sound s₀ (doMeterRecordDeliver c s) := by
  unfold doMeterRecordDeliver
  try dsimp only
  repeat' first
    | with_reducible assumption
    | (with_reducible first | apply modChain_sound | apply hostWrite_sound)
    | fail_if_no_progress with_reducible refine Sound.set ?_ rfl rfl rfl rfl rfl rfl rfl
    | split

theorem meterReply_sound (hs : Sound s₀ s) {c : Fin 5} : Sound s₀ (meterReply s c).1 := by
  unfold meterReply
  try dsimp only
  repeat' first
    | with_reducible assumption
    | (with_reducible first | apply accept_sound)

theorem serveMeter_sound (hs : Sound s₀ s) {op : Nat} {ok : State → Fin 5 → List Byte → Bool} {act : State → Fin 5 →
     List Byte → Answer} (hact : ∀ s b0 b1, Sound s₀ s → Sound s₀ (act s b0 b1).1) :
    Sound s₀ (serveMeter s op ok act) := by
  unfold serveMeter
  try dsimp only
  repeat' first
    | with_reducible assumption
    | (with_reducible first | apply serve_sound | apply refuse_sound)
    | apply hact
    | intro s b hx
    | intro s hx
    | split

theorem doMeterConfigSetRing_sound (hs : Sound s₀ s) : Sound s₀ (doMeterConfigSetRing s) := by
  unfold doMeterConfigSetRing
  try dsimp only
  repeat' first
    | with_reducible assumption
    | (with_reducible first | apply serveMeter_sound | apply meterReply_sound | apply modChain_sound)
    | fail_if_no_progress with_reducible refine Sound.set ?_ rfl rfl rfl rfl rfl rfl rfl
    | intro s b c hx

theorem doMeterConfigRelease_sound (hs : Sound s₀ s) : Sound s₀ (doMeterConfigRelease s) := by
  unfold doMeterConfigRelease
  try dsimp only
  repeat' first
    | with_reducible assumption
    | (with_reducible first | apply serveMeter_sound | apply meterReply_sound | apply modChain_sound)
    | fail_if_no_progress with_reducible refine Sound.set ?_ rfl rfl rfl rfl rfl rfl rfl
    | intro s b c hx

theorem doMeterConfigSetParameters_sound (hs : Sound s₀ s) : Sound s₀ (doMeterConfigSetParameters s) := by
  unfold doMeterConfigSetParameters
  try dsimp only
  repeat' first
    | with_reducible assumption
    | (with_reducible first | apply serveMeter_sound | apply meterReply_sound | apply modChain_sound)
    | fail_if_no_progress with_reducible refine Sound.set ?_ rfl rfl rfl rfl rfl rfl rfl
    | intro s b c hx

theorem giveStatement_sound (hs : Sound s₀ s) {c : Fin 5} {n : Nat} : Sound s₀ (giveStatement s c n).1 := by
  unfold giveStatement
  try dsimp only
  repeat' first
    | with_reducible assumption
    | (with_reducible first | apply accept_sound | apply refuse_sound)
    | split

theorem doMeterConfigReadStatement_sound (hs : Sound s₀ s) : Sound s₀ (doMeterConfigReadStatement s) := by
  unfold doMeterConfigReadStatement
  try dsimp only
  repeat' first
    | with_reducible assumption
    | (with_reducible first | apply serveMeter_sound | apply giveStatement_sound)
    | intro s b c hx

theorem serveMeterRead_sound (hs : Sound s₀ s) {p : Fin 4} {op : Nat} {act : State → List Byte → Answer} (hact : ∀ s
     b0, Sound s₀ s → Sound s₀ (act s b0).1) :
    Sound s₀ (serveMeterRead s p op act) := by
  unfold serveMeterRead
  try dsimp only
  repeat' first
    | with_reducible assumption
    | (with_reducible first | apply serve_sound | apply refuse_sound)
    | apply hact
    | intro s b hx
    | intro s hx
    | split

theorem doMeterReadStatement_sound (hs : Sound s₀ s) {p : Fin 4} : Sound s₀ (doMeterReadStatement p s) := by
  unfold doMeterReadStatement
  try dsimp only
  repeat' first
    | with_reducible assumption
    | (with_reducible first | apply serveMeterRead_sound | apply giveStatement_sound)
    | intro s b hx

theorem certificate_sound (hs : Sound s₀ s) : Sound s₀ (certificate s).1 := by
  unfold certificate
  try dsimp only
  repeat' first
    | with_reducible assumption
    | (with_reducible first | apply refuse_sound | apply signWith_sound | apply accept_sound)
    | split

theorem doMeterReadCertificate_sound (hs : Sound s₀ s) {p : Fin 4} : Sound s₀ (doMeterReadCertificate p s) := by
  unfold doMeterReadCertificate
  try dsimp only
  repeat' first
    | with_reducible assumption
    | (with_reducible first | apply serveMeterRead_sound | apply certificate_sound)
    | intro s b hx

theorem doMeterReadStatus_sound (hs : Sound s₀ s) {p : Fin 4} : Sound s₀ (doMeterReadStatus p s) := by
  unfold doMeterReadStatus
  try dsimp only
  repeat' first
    | with_reducible assumption
    | (with_reducible first | apply serveMeterRead_sound | apply accept_sound)
    | intro s b hx

theorem doModInfo_sound (hs : Sound s₀ s) : Sound s₀ (doModInfo s) := by
  unfold doModInfo
  try dsimp only
  repeat' first
    | with_reducible assumption
    | (with_reducible first | apply serve_sound | apply accept_sound)
    | intro s b hx

theorem createLayout_sound (hs : Sound s₀ s) {b : List Byte} : Sound s₀ (createLayout s b) := by
  unfold createLayout
  try dsimp only
  repeat' first
    | with_reducible assumption
    | fail_if_no_progress with_reducible refine Sound.set ?_ rfl rfl rfl rfl rfl rfl rfl

theorem doPolderCreate_sound (hs : Sound s₀ s) : Sound s₀ (doPolderCreate s) := by
  unfold doPolderCreate
  try dsimp only
  repeat' first
    | with_reducible assumption
    | (with_reducible first
        | apply serve_sound | apply refuse_sound | apply accept_sound | apply createLayout_sound)
    | intro s b hx
    | intro s hx
    | split

theorem destroyLayout_sound (hs : Sound s₀ s) : Sound s₀ (destroyLayout s) := by
  unfold destroyLayout
  try dsimp only
  repeat' first
    | with_reducible assumption
    | fail_if_no_progress with_reducible refine Sound.set ?_ rfl rfl rfl rfl rfl rfl rfl

theorem doPolderDestroy_sound (hs : Sound s₀ s) : Sound s₀ (doPolderDestroy s) := by
  unfold doPolderDestroy
  try dsimp only
  repeat' first
    | with_reducible assumption
    | (with_reducible first
        | apply serve_sound | apply refuse_sound | apply accept_sound | apply destroyLayout_sound)
    | intro s b hx
    | intro s hx
    | split

theorem openPorts_sound (hs : Sound s₀ s) {p : Fin 4} : Sound s₀ (openPorts s p) := by
  unfold openPorts
  try dsimp only
  repeat' first
    | with_reducible assumption
    | (with_reducible first
        | apply trainLevee_sound | apply modPort_sound | apply refused_sound | apply trainPort_sound
        | apply foldl_sound)
    | fail_if_no_progress with_reducible refine Sound.set ?_ rfl rfl rfl rfl rfl rfl rfl
    | intro s x hx
    | intro s hx
    | split

theorem eraseUnclean_sound (hs : Sound s₀ s) {p : Fin 4} : Sound s₀ (eraseUnclean s p) := by
  unfold eraseUnclean
  try dsimp only
  repeat' first
    | with_reducible assumption
    | (with_reducible first | apply eraseDie_sound | apply foldl_sound)
    | intro s x hx
    | intro s hx
    | split

theorem retireDue_sound (hs : Sound s₀ s) {d : Fin 4} : Sound s₀ (retireDue s d) := by
  refine foldl_sound (fun _ _ hx => ?_) hs
  split
  · exact pageMet_sound hx
  · split
    · next h => exact pageMet_sound (remapPage_sound hx h)
    · exact hx

theorem openAct_sound (hs : Sound s₀ s) {p : Fin 4} {b : List Byte} {cookie : DWord} {at_ : DWord} :
    Sound s₀ (openAct s p b cookie at_).1 := by
  unfold openAct
  try dsimp only
  repeat' first
    | with_reducible assumption
    | (with_reducible first
        | apply nextDraw_sound | apply eraseUnclean_sound | apply modPolder_sound | apply regionWrite_sound
        | apply settleSleep_sound | apply openPorts_sound | apply raiseCrossed_sound | apply retireDue_sound
        | apply accept_sound | apply foldl_sound)
    | fail_if_no_progress with_reducible refine Sound.set ?_ rfl rfl rfl rfl rfl rfl rfl
    | intro s x hx

theorem doOpenPolder_sound (hs : Sound s₀ s) {p : Fin 4} : Sound s₀ (doOpenPolder p s) := by
  unfold doOpenPolder
  try dsimp only
  repeat' first
    | with_reducible assumption
    | (with_reducible first
        | apply serve_sound | apply refuse_sound | apply modPolder_sound | apply openAct_sound)
    | fail_if_no_progress with_reducible refine Sound.set ?_ rfl rfl rfl rfl rfl rfl rfl
    | intro s b hx
    | intro s hx
    | split

theorem closeAct_sound (hs : Sound s₀ s) {p : Fin 4} : Sound s₀ (closeAct s p) := by
  unfold closeAct
  try dsimp only
  repeat' first
    | with_reducible assumption
    | (with_reducible first
        | apply closeRequests_sound | apply abandonAll_sound | apply modPolder_sound | apply eraseDie_sound
        | apply settleSleep_sound | apply foldl_sound)
    | fail_if_no_progress with_reducible refine Sound.set ?_ rfl rfl rfl rfl rfl rfl rfl
    | intro s x hx

theorem doClosePolder_sound (hs : Sound s₀ s) {p : Fin 4} : Sound s₀ (doClosePolder p s) := by
  unfold doClosePolder
  try dsimp only
  repeat' first
    | with_reducible assumption
    | (with_reducible first | apply serve_sound | apply accept_sound | apply closeAct_sound)
    | intro s b hx
    | intro s hx
    | split

theorem keyAnswer_sound (hs : Sound s₀ s) {p : Fin 4} {b : List Byte} {plain : Option (List Byte)} :
    Sound s₀ (keyAnswer s p b plain).1 := by
  unfold keyAnswer
  try dsimp only
  repeat' first
    | with_reducible assumption
    | (with_reducible first | apply refuse_sound | apply accept_sound | apply modPolder_sound)
    | fail_if_no_progress with_reducible refine Sound.set ?_ rfl rfl rfl rfl rfl rfl rfl
    | split

theorem keyAct_sound (hs : Sound s₀ s) {p : Fin 4} {b : List Byte} : Sound s₀ (keyAct s p b).1 := by
  unfold keyAct
  exact keyAnswer_sound hs

theorem doKeyLoad_sound (hs : Sound s₀ s) {p : Fin 4} : Sound s₀ (doKeyLoad p s) := by
  unfold doKeyLoad
  try dsimp only
  repeat' first
    | with_reducible assumption
    | (with_reducible first | apply serve_sound | apply refuse_sound | apply keyAct_sound)
    | intro s b hx
    | intro s hx
    | split

theorem serveAttest_sound (hs : Sound s₀ s) {p : Fin 4} {op : Nat} {act : State → List Byte → Answer} (hact : ∀ s
     b0, Sound s₀ s → Sound s₀ (act s b0).1) :
    Sound s₀ (serveAttest s p op act) := by
  unfold serveAttest
  try dsimp only
  repeat' first
    | with_reducible assumption
    | (with_reducible first | apply serve_sound | apply refuse_sound)
    | apply hact
    | intro s b hx
    | intro s hx
    | split

theorem doAttestGetReport_sound (hs : Sound s₀ s) {p : Fin 4} : Sound s₀ (doAttestGetReport p s) := by
  unfold doAttestGetReport
  try dsimp only
  repeat' first
    | with_reducible assumption
    | (with_reducible first | apply serveAttest_sound | apply signWith_sound | apply accept_sound)
    | fail_if_no_progress with_reducible refine Sound.set ?_ rfl rfl rfl rfl rfl rfl rfl
    | intro s b hx

theorem doAttestGetChain_sound (hs : Sound s₀ s) {p : Fin 4} : Sound s₀ (doAttestGetChain p s) := by
  unfold doAttestGetChain
  try dsimp only
  repeat' first
    | with_reducible assumption
    | (with_reducible first | apply serveAttest_sound | apply refuse_sound | apply accept_sound)
    | intro s b hx
    | intro s hx
    | split

theorem doDebugUnlockChallenge_sound (hs : Sound s₀ s) : Sound s₀ (doDebugUnlockChallenge s) := by
  unfold doDebugUnlockChallenge
  try dsimp only
  repeat' first
    | with_reducible assumption
    | (with_reducible first | apply serve_sound | apply refuse_sound | apply accept_sound | apply nextDraw_sound)
    | fail_if_no_progress with_reducible refine Sound.set ?_ rfl rfl rfl rfl rfl rfl rfl
    | intro s b hx
    | intro s hx
    | split

theorem doDebugUnlockUnlock_sound (hs : Sound s₀ s) : Sound s₀ (doDebugUnlockUnlock s) := by
  unfold doDebugUnlockUnlock
  refine serve_sound hs fun s b hx => ?_
  dsimp only
  have k : Sound s₀ { s with challenge := none } := hx.same rfl rfl rfl rfl rfl rfl rfl
  split
  · exact refuse_sound k
  split
  · refine accept_sound ?_
    refine fuses_sound hx rfl ?_ rfl rfl rfl rfl rfl
    exact ⟨rfl, rfl, rfl, rfl, rfl, rfl, List.prefix_rfl, Nat.le_refl _, .inl rfl⟩
  · exact refuse_sound k

theorem abandonEverything_sound (hs : Sound s₀ s) : Sound s₀ (abandonEverything s) := by
  unfold abandonEverything
  repeat' first
    | with_reducible assumption
    | (with_reducible first | apply abandonAll_sound | apply foldl_sound)
    | intro s x hx

theorem perstAct_sound (hs : Sound s₀ s) : Sound s₀ (perstAct s) := by
  unfold perstAct
  try dsimp only
  repeat' first
    | with_reducible assumption
    | (with_reducible first
        | apply unpowered_sound | apply spoilImage_sound | apply abandonEverything_sound
        | apply settleLimits_sound)
    | fail_if_no_progress with_reducible refine Sound.set ?_ rfl rfl rfl rfl rfl rfl rfl

theorem doPerstAssert_sound (hs : Sound s₀ s) : Sound s₀ (doPerstAssert s) := by
  unfold doPerstAssert
  try dsimp only
  repeat' first
    | with_reducible assumption
    | (with_reducible first | apply perstAct_sound)
    | fail_if_no_progress with_reducible refine Sound.set ?_ rfl rfl rfl rfl rfl rfl rfl
    | split

theorem doPerstDeassert_sound (hs : Sound s₀ s) {rate : Fin 7} {width : Fin 3} :
    Sound s₀ (doPerstDeassert rate width s) := by
  unfold doPerstDeassert
  try dsimp only
  repeat' first
    | with_reducible assumption
    | (with_reducible first | apply coldStart_sound)
    | fail_if_no_progress with_reducible refine Sound.set ?_ rfl rfl rfl rfl rfl rfl rfl
    | split

theorem resetFw_sound (hs : Sound s₀ s) : Sound s₀ (resetFw s) := by
  unfold resetFw
  try dsimp only
  repeat' first
    | with_reducible assumption
    | (with_reducible first | apply spoilImage_sound)
    | fail_if_no_progress with_reducible refine Sound.set ?_ rfl rfl rfl rfl rfl rfl rfl
    | split

theorem dropPolders_sound (hs : Sound s₀ s) : Sound s₀ (dropPolders s) := by
  unfold dropPolders
  try dsimp only
  repeat' first
    | with_reducible assumption
    | (with_reducible first | apply closeRequests_sound | apply abandonEverything_sound | apply foldl_sound)
    | fail_if_no_progress with_reducible refine Sound.set ?_ rfl rfl rfl rfl rfl rfl rfl
    | intro s x hx

theorem resetFuncs_sound (hs : Sound s₀ s) : Sound s₀ { s with funcs := s.funcs.map resetFunc } :=
  hs.trans ⟨rfl, .refl _, fun i =>
    { mem := i.mem, undef := i.undef, hostMem := i.hostMem, p0 := i.p0,
      events := fun f => by
        simp only [func, Vector.get_eq_getElem, Vector.getElem_map, resetFunc, Func.reset]; decide }⟩

theorem pf0Act_sound (hs : Sound s₀ s) : Sound s₀ (pf0Act s) := by
  unfold pf0Act
  have h1 : Sound s₀ (spoil (resetFw (dropPolders s)) 0 (5 * 2 ^ 40)) := spoil_sound (resetFw_sound (dropPolders_sound hs))
  generalize spoil (resetFw (dropPolders s)) 0 (5 * 2 ^ 40) = t at h1
  have h2 : Sound s₀ { t with funcs := t.funcs.map resetFunc, numVfs := 0, vfEnable := false, challenge := none,
                              lastReset := 2 } := (resetFuncs_sound h1).same rfl rfl rfl rfl rfl rfl rfl
  dsimp only
  split
  · exact releaseNow_sound h2
  · exact h2

theorem doPf0Reset_sound (hs : Sound s₀ s) : Sound s₀ (doPf0Reset s) := by
  unfold doPf0Reset
  repeat' first
    | with_reducible assumption
    | (with_reducible first | apply pf0Act_sound)
    | split

theorem doRefclkLoss_sound (hs : Sound s₀ s) : Sound s₀ (doRefclkLoss s) := by
  unfold doRefclkLoss
  repeat' first
    | with_reducible assumption
    | (with_reducible first | apply pf0Act_sound)
    | split

theorem doMrefLoss_sound (hs : Sound s₀ s) : Sound s₀ (doMrefLoss s) := by
  unfold doMrefLoss
  repeat' first
    | with_reducible assumption
    | (with_reducible first | apply faultEarly_sound)
    | split

theorem vfAct_sound (hs : Sound s₀ s) {p : Fin 4} : Sound s₀ (vfAct s p) := by
  unfold vfAct
  extract_lets t
  have ht : Sound s₀ t := by
    simp only [t]; split <;> first | exact closeAct_sound hs | exact hs
  refine Sound.set ?_ rfl rfl rfl rfl rfl rfl rfl
  exact modFunc_sound ht fun F _ => by simp [resetFunc, Func.reset]

theorem doVfReset_sound (hs : Sound s₀ s) {p : Fin 4} : Sound s₀ (doVfReset p s) := by
  unfold doVfReset
  try dsimp only
  repeat' first
    | with_reducible assumption
    | (with_reducible first | apply modFunc_sound | apply vfAct_sound)
    | fail_if_no_progress with_reducible refine Sound.set ?_ rfl rfl rfl rfl rfl rfl rfl
    | exact fun _ hx => hx
    | split

theorem setImage_sound (hs : Sound s₀ s) {t : Tab Byte} : Sound s₀ (setImage s t) := by
  unfold setImage
  try dsimp only
  repeat' first
    | with_reducible assumption
    | fail_if_no_progress with_reducible refine Sound.set ?_ rfl rfl rfl rfl rfl rfl rfl

theorem doFwRecoverBegin_sound (hs : Sound s₀ s) : Sound s₀ (doFwRecoverBegin s) := by
  unfold doFwRecoverBegin
  try dsimp only
  repeat' first
    | with_reducible assumption
    | (with_reducible first
        | apply serveFw_sound | apply refuse_sound | apply accept_sound | apply setImage_sound
        | apply setFw_sound)
    | fail_if_no_progress with_reducible refine Sound.set ?_ rfl rfl rfl rfl rfl rfl rfl
    | intro s b hx
    | intro s hx
    | split

theorem doFwRecoverData_sound (hs : Sound s₀ s) : Sound s₀ (doFwRecoverData s) := by
  unfold doFwRecoverData
  try dsimp only
  repeat' first
    | with_reducible assumption
    | (with_reducible first
        | apply serveFw_sound | apply refuse_sound | apply accept_sound | apply setImage_sound
        | apply setFw_sound)
    | fail_if_no_progress with_reducible refine Sound.set ?_ rfl rfl rfl rfl rfl rfl rfl
    | intro s b hx
    | intro s hx
    | split

theorem rerunImage_sound (hs : Sound s₀ s) : Sound s₀ (rerunImage s) := by
  unfold rerunImage
  try dsimp only
  repeat' first
    | with_reducible assumption
    | (with_reducible first | apply verifyImage_sound | apply dropPolders_sound)
    | fail_if_no_progress with_reducible refine Sound.set ?_ rfl rfl rfl rfl rfl rfl rfl
    | split

theorem doFwRecoverCommit_sound (hs : Sound s₀ s) : Sound s₀ (doFwRecoverCommit s) := by
  unfold doFwRecoverCommit
  try dsimp only
  repeat' first
    | with_reducible assumption
    | (with_reducible first
        | apply serveFw_sound | apply accept_sound | apply rerunImage_sound | apply refuse_sound)
    | intro s b hx
    | intro s hx
    | split

theorem failEcc_sound (hs : Sound s₀ s) {p : Fin 4} {c : Cmd} {r : FaultReport} : Sound s₀ (failEcc s p c r) := by
  unfold failEcc
  try dsimp only
  repeat' first
    | with_reducible assumption
    | (with_reducible first
        | apply veTrap_sound | apply failUpdate_sound | apply failVk_sound | apply failCmd_sound)
    | split

theorem commandFault_sound (hs : Sound s₀ s) {r : FaultReport} : Sound s₀ (commandFault s r) := by
  unfold commandFault
  try dsimp only
  repeat' first
    | with_reducible assumption
    | (with_reducible first | apply failEcc_sound)
    | split

theorem itemFault_sound (hs : Sound s₀ s) {r : FaultReport} : Sound s₀ (itemFault s r) := by
  unfold itemFault
  try dsimp only
  repeat' first
    | with_reducible assumption
    | (with_reducible first | apply modPolder_sound | apply faultC2_sound)
    | fail_if_no_progress with_reducible refine Sound.set ?_ rfl rfl rfl rfl rfl rfl rfl
    | split

theorem heldFault_sound (hs : Sound s₀ s) {r : FaultReport} : Sound s₀ (heldFault s r) := by
  unfold heldFault
  repeat' first
    | with_reducible assumption
    | (with_reducible first
        | apply itemFault_sound | apply faultC4_sound | apply faultC3_sound | apply faultC2_sound)
    | split

theorem correctedReport_sound (hs : Sound s₀ s) {r : FaultReport} : Sound s₀ (correctedReport s r) := by
  unfold correctedReport
  try dsimp only
  repeat' first
    | with_reducible assumption
    | (with_reducible first | apply bumpCorrected_sound | apply correctedError_sound | apply spareRow_sound)
    | split

theorem memoryFault_sound (hs : Sound s₀ s) {r : FaultReport} {own : Bool} : Sound s₀ (memoryFault s r own) := by
  unfold memoryFault
  repeat' first
    | with_reducible assumption
    | (with_reducible first
        | apply correctedReport_sound | apply commandFault_sound | apply uncorrectable_sound
        | apply faultC2_sound | apply pageDue_sound)
    | split

theorem classFault_sound (hs : Sound s₀ s) {r : FaultReport} : Sound s₀ (classFault s r) := by
  unfold classFault
  try dsimp only
  repeat' first
    | with_reducible assumption
    | (with_reducible first
        | apply faultC2_sound | apply bumpCorrected_sound | apply commandFault_sound
        | apply memoryFault_sound | apply failPort_sound | apply faultC3_sound | apply heldFault_sound
        | apply faultC4_sound)
    | split

theorem doFaultDetected_sound (hs : Sound s₀ s) {r : FaultReport} : Sound s₀ (doFaultDetected r s) := by
  unfold doFaultDetected
  try dsimp only
  repeat' first
    | with_reducible assumption
    | (with_reducible first | apply classFault_sound | apply faultEarly_sound)
    | split

theorem discardQueue_sound (hs : Sound s₀ s) {cls : Nat} {id : Nat} {p : Fin 4} {q : Fin 16} :
    Sound s₀ (discardQueue cls id p s q) := by
  unfold discardQueue
  try dsimp only
  repeat' first
    | with_reducible assumption
    | (with_reducible first
        | apply putCq_sound | apply modQueue_sound | apply raiseCause_sound | apply sendQueueMsix_sound
        | apply traceRecord_sound)

theorem doDiscardRecordPost_sound (hs : Sound s₀ s) {p : Fin 4} : Sound s₀ (doDiscardRecordPost p s) := by
  unfold doDiscardRecordPost
  try dsimp only
  repeat' first
    | with_reducible assumption
    | (with_reducible first
        | apply toEdge_sound | apply discardQueue_sound | apply polderEvent_sound | apply floodFault_sound
        | apply modReport_sound | apply modPolder_sound | apply foldl_sound)
    | fail_if_no_progress with_reducible refine Sound.set ?_ rfl rfl rfl rfl rfl rfl rfl
    | intro s x hx
    | split

theorem poisonOne_sound {x : State × List Place} (hs : Sound s₀ x.1) {a : Nat} : Sound s₀ (poisonOne x a).1 := by
  unfold poisonOne
  dsimp only
  split
  · exact poisonBlock_sound hs
  · split
    · exact poisonBlock_sound hs
    · exact retirePage_sound (poisonBlock_sound hs)

theorem poisonRange_sound (hs : Sound s₀ s) {a n : Nat} : Sound s₀ (poisonRange s a n) :=
  foldl_fst_sound (fun _ _ hx => poisonOne_sound hx) hs

theorem retrainSites_sound (hs : Sound s₀ s) {bins : List (Fin 32 × Nat)} {id : Nat} :
    Sound s₀ (retrainSites s bins id).1 := by
  unfold retrainSites
  try dsimp only
  repeat' first
    | with_reducible assumption
    | (with_reducible first | apply settleSite_sound | apply foldl_sound | apply foldl_fst_sound)
    | intro s x hx

theorem repairPorts_sound (hs : Sound s₀ s) {p : Fin 4} : Sound s₀ (repairPorts s p) := by
  unfold repairPorts
  try dsimp only
  repeat' first
    | with_reducible assumption
    | (with_reducible first | apply trainPort_sound | apply trainLevee_sound | apply foldl_sound)
    | intro s x hx
    | intro s hx
    | split

theorem retireChannel_sound (hs : Sound s₀ s) {d : Fin 4} {l : Nat} {id : Nat} :
    Sound s₀ (retireChannel s d l id).1 := by
  unfold retireChannel
  try dsimp only
  repeat' first
    | with_reducible assumption
    | (with_reducible first | apply makeRemap_sound)
    | split

theorem retireCrowded_sound (hs : Sound s₀ s) {d : Fin 4} {id : Nat} : Sound s₀ (retireCrowded s d id).1 := by
  unfold retireCrowded
  try dsimp only
  repeat' first
    | with_reducible assumption
    | (with_reducible first | apply retireChannel_sound | apply foldl_sound | apply foldl_fst_sound)
    | intro s x hx

theorem mendPage_sound (hs : Sound s₀ s) {d : Fin 4} {u id : Nat} : Sound s₀ (mendPage s d u id).1 := by
  unfold mendPage
  dsimp only
  split
  · have k := retireChannel_sound hs (d := d) (l := busiest s d) (id := id)
    split
    · split
      · exact k
      · split
        · next h => exact remapPage_sound k h
        · exact k
    · exact hs
  · split
    · exact hs
    · split
      · next h => exact remapPage_sound hs h
      · exact hs

theorem mendDue_sound {made : List DWord} {d : Fin 4} {id : Nat} {x : State × Bool} (hs : Sound s₀ x.1) {u : Nat} :
    Sound s₀ (mendDue made d id x u).1 := by
  unfold mendDue
  have k := mendPage_sound hs (d := d) (u := u) (id := id)
  generalize mendPage x.1 d u id = y at k
  by_cases hm : made.any (sameUnit (mkRemap 6 d.val u 0)) = true
  · rw [if_pos hm]; exact pageMet_sound hs
  · rw [if_neg hm]
    by_cases hy : y.2 = true
    · simp only [hy, if_true]; exact pageMet_sound k
    · simp only [hy, if_neg]; exact k

theorem mendDie_sound {made : List DWord} {id : Nat} {x : State × Bool} (hs : Sound s₀ x.1) {d : Fin 4} :
    Sound s₀ (mendDie made id x d).1 :=
  retireCrowded_sound (foldl_fst_sound (fun _ _ hx => mendDue_sound hx) hs)

theorem rebuildMaps_sound (hs : Sound s₀ s) : Sound s₀ (rebuildMaps s) := by
  unfold rebuildMaps
  try dsimp only
  repeat' first
    | with_reducible assumption
    | fail_if_no_progress with_reducible refine Sound.set ?_ rfl rfl rfl rfl rfl rfl rfl

theorem failOne_sound (hs : Sound s₀ s) {d : Fin 4} : Sound s₀ (failOne s d) := by
  unfold failOne
  try dsimp only
  repeat' first
    | with_reducible assumption
    | fail_if_no_progress with_reducible refine Sound.set ?_ rfl rfl rfl rfl rfl rfl rfl

theorem failDies_sound (hs : Sound s₀ s) {r : Repair} {ds : List (Fin 4)} : Sound s₀ (failDies s r ds) := by
  unfold failDies
  try dsimp only
  repeat' first
    | with_reducible assumption
    | (with_reducible first | apply failOne_sound | apply foldl_sound)
    | intro s x hx
    | split

theorem repairEvent_sound (hs : Sound s₀ s) {r : Repair} {x : RepairResult} {spares : Nat} {outcome : Nat} {lower :
     Bool} :
    Sound s₀ (repairEvent s r x spares outcome lower) := by
  unfold repairEvent
  try dsimp only
  repeat' first
    | with_reducible assumption
    | (with_reducible first | apply moduleEvent_sound | apply polderEvent_sound | apply foldl_sound)
    | intro s x hx
    | intro s hx
    | split

theorem endPolderRepair_sound (hs : Sound s₀ s) {outcome : Nat} {p : Fin 4} :
    Sound s₀ (endPolderRepair outcome s p) := by
  unfold endPolderRepair
  try dsimp only
  repeat' first
    | with_reducible assumption
    | (with_reducible first | apply modPolder_sound | apply vfAct_sound)
    | fail_if_no_progress with_reducible refine Sound.set ?_ rfl rfl rfl rfl rfl rfl rfl
    | split

theorem doRepairDone_sound (hs : Sound s₀ s) {id : Nat} {x : RepairResult} : Sound s₀ (doRepairDone id x s) := by
  unfold doRepairDone
  try dsimp only
  repeat' first
    | with_reducible assumption
    | (with_reducible first
        | apply rebuildMaps_sound | apply clearClusters_sound | apply retrainSites_sound
        | apply makeRemaps_sound | apply mendDie_sound | apply repairPorts_sound | apply poisonRange_sound
        | apply failDies_sound | apply modReport_sound | apply repairEvent_sound
        | apply endPolderRepair_sound | apply foldl_sound | apply foldl_fst_sound)
    | fail_if_no_progress with_reducible refine Sound.set ?_ rfl rfl rfl rfl rfl rfl rfl
    | intro s x hx
    | intro s hx
    | split

theorem loseCore_sound (hs : Sound s₀ s) {i : Nat} : Sound s₀ (loseCore s i) := by
  unfold loseCore
  try dsimp only
  repeat' first
    | with_reducible assumption
    | (with_reducible first | apply faultC3_sound | apply raiseCrossed_sound | apply faultC4_sound)
    | fail_if_no_progress with_reducible refine Sound.set ?_ rfl rfl rfl rfl rfl rfl rfl
    | split

theorem doKeeperHeartbeat_sound (hs : Sound s₀ s) {beats : List Bool} : Sound s₀ (doKeeperHeartbeat beats s) := by
  unfold doKeeperHeartbeat
  try dsimp only
  repeat' first
    | with_reducible assumption
    | (with_reducible first | apply loseCore_sound | apply foldl_sound)
    | intro s x hx
    | split

theorem doSpareMapScan_sound (hs : Sound s₀ s) : Sound s₀ (doSpareMapScan s) := by
  unfold doSpareMapScan
  try dsimp only
  repeat' first
    | with_reducible assumption
    | (with_reducible first | apply faultC2_sound | apply faultC3_sound)
    | split

theorem doTrimScan_sound (hs : Sound s₀ s) : Sound s₀ (doTrimScan s) := by
  unfold doTrimScan
  try dsimp only
  repeat' first
    | with_reducible assumption
    | (with_reducible first | apply faultC2_sound | apply faultC4_sound)
    | split

theorem startMargin_sound (hs : Sound s₀ s) {d : Fin 4} : Sound s₀ (startMargin s d) := by
  unfold startMargin
  try dsimp only
  repeat' first
    | with_reducible assumption
    | fail_if_no_progress with_reducible refine Sound.set ?_ rfl rfl rfl rfl rfl rfl rfl

theorem doMarginTestAutoStart_sound (hs : Sound s₀ s) {d : Fin 4} : Sound s₀ (doMarginTestAutoStart d s) := by
  unfold doMarginTestAutoStart
  repeat' first
    | with_reducible assumption
    | (with_reducible first | apply startMargin_sound)
    | split

theorem retireUnit_sound (hs : Sound s₀ s) {d : Fin 4} {v : DWord} : Sound s₀ (retireUnit s d v) := by
  unfold retireUnit
  try dsimp only
  repeat' first
    | with_reducible assumption
    | (with_reducible first | apply retirePage_sound | apply makeRemap_sound)
    | split

theorem promote_sound (hs : Sound s₀ s) {v : DWord} : Sound s₀ (promote s v) := by
  unfold promote
  split
  · exact hs
  split
  · refine fuses_sound hs rfl ?_ rfl rfl rfl rfl rfl
    exact ⟨rfl, rfl, rfl, rfl, rfl, rfl, List.prefix_append .., Nat.le_refl _, .inl rfl⟩
  · exact hs

theorem nominalEmpty_sound (hs : Sound s₀ s) {d : Fin 4} {v : DWord} : Sound s₀ (nominalEmpty d s v) := by
  unfold nominalEmpty
  try dsimp only
  repeat' first
    | with_reducible assumption
    | (with_reducible first | apply makeRemap_sound | apply failOne_sound)
    | fail_if_no_progress with_reducible refine Sound.set ?_ rfl rfl rfl rfl rfl rfl rfl
    | split

theorem nominalUnit_sound (hs : Sound s₀ s) {d : Fin 4} {v : DWord} : Sound s₀ (nominalUnit d s v) := by
  unfold nominalUnit
  repeat' first
    | with_reducible assumption
    | (with_reducible first | apply promote_sound | apply retireUnit_sound | apply nominalEmpty_sound)
    | split

theorem stressUnit_sound (hs : Sound s₀ s) {d : Fin 4} {v : DWord} : Sound s₀ (stressUnit d s v) := by
  unfold stressUnit
  try dsimp only
  repeat' first
    | with_reducible assumption
    | (with_reducible first | apply retireUnit_sound)
    | fail_if_no_progress with_reducible refine Sound.set ?_ rfl rfl rfl rfl rfl rfl rfl
    | split

theorem doMarginTestDone_sound (hs : Sound s₀ s) {d : Fin 4} {x : MarginResult} :
    Sound s₀ (doMarginTestDone d x s) := by
  unfold doMarginTestDone
  try dsimp only
  repeat' first
    | with_reducible assumption
    | (with_reducible first | apply stressUnit_sound | apply nominalUnit_sound | apply foldl_sound)
    | fail_if_no_progress with_reducible refine Sound.set ?_ rfl rfl rfl rfl rfl rfl rfl
    | intro s x hx
    | split

theorem serveSpare_sound (hs : Sound s₀ s) {op : Nat} {act : State → List Byte → Answer} (hact : ∀ s b0, Sound s₀ s
     → Sound s₀ (act s b0).1) :
    Sound s₀ (serveSpare s op act) := by
  unfold serveSpare
  try dsimp only
  repeat' first
    | with_reducible assumption
    | (with_reducible first | apply serve_sound | apply refuse_sound)
    | apply hact
    | intro s b hx
    | intro s hx
    | split

theorem doSpareReportSummary_sound (hs : Sound s₀ s) : Sound s₀ (doSpareReportSummary s) := by
  unfold doSpareReportSummary
  try dsimp only
  repeat' first
    | with_reducible assumption
    | (with_reducible first | apply serveSpare_sound | apply accept_sound)
    | intro s b hx

theorem doSpareReportRepair_sound (hs : Sound s₀ s) : Sound s₀ (doSpareReportRepair s) := by
  unfold doSpareReportRepair
  try dsimp only
  repeat' first
    | with_reducible assumption
    | (with_reducible first | apply serveSpare_sound | apply accept_sound | apply refuse_sound)
    | intro s b hx
    | intro s hx
    | split

theorem doSpareReportMarginTest_sound (hs : Sound s₀ s) : Sound s₀ (doSpareReportMarginTest s) := by
  unfold doSpareReportMarginTest
  try dsimp only
  repeat' first
    | with_reducible assumption
    | (with_reducible first
        | apply serveSpare_sound | apply refuse_sound | apply accept_sound | apply startMargin_sound
        | apply foldl_sound)
    | intro s x hx
    | intro s b hx
    | intro s hx
    | split

theorem doNop_sound (hs : Sound s₀ s) {p : Fin 4} {q : Fin 16} {e : Entry} : Sound s₀ (doNop p q e s) := by
  unfold doNop
  try dsimp only
  repeat' first
    | with_reducible assumption
    | (with_reducible first | apply runEntry_sound | apply endCmd_sound)
    | intro s hx

theorem doEventSignal_sound (hs : Sound s₀ s) {p : Fin 4} {q : Fin 16} {e : Entry} :
    Sound s₀ (doEventSignal p q e s) := by
  unfold doEventSignal
  try dsimp only
  repeat' first
    | with_reducible assumption
    | (with_reducible first | apply runEntry_sound | apply endCmd_sound)
    | intro s hx

theorem doEventWait_sound (hs : Sound s₀ s) {p : Fin 4} {q : Fin 16} {e : Entry} :
    Sound s₀ (doEventWait p q e s) := by
  unfold doEventWait
  try dsimp only
  repeat' first
    | with_reducible assumption
    | (with_reducible first | apply runEntry_sound | apply endCmd_sound | apply setBody_sound)
    | intro s hx
    | split

theorem doEventWaitTimeout_sound (hs : Sound s₀ s) {p : Fin 4} {q : Fin 16} {n : Word} :
    Sound s₀ (doEventWaitTimeout p q n s) := by
  unfold doEventWaitTimeout
  try dsimp only
  repeat' first
    | with_reducible assumption
    | (with_reducible first | apply endCmd_sound)
    | split

theorem markRecord_sound (hs : Sound s₀ s) {p : Fin 4} {q : Fin 16} {e : Entry} : Sound s₀ (markRecord s p q e) := by
  unfold markRecord
  repeat' first
    | with_reducible assumption
    | (with_reducible first | apply commandRecord_sound)

theorem doMark_sound (hs : Sound s₀ s) {p : Fin 4} {q : Fin 16} {e : Entry} : Sound s₀ (doMark p q e s) := by
  unfold doMark
  try dsimp only
  repeat' first
    | with_reducible assumption
    | (with_reducible first | apply runEntry_sound | apply endCmd_sound | apply markRecord_sound)
    | intro s hx

theorem doInvalidOpcodeEntry_sound (hs : Sound s₀ s) {p : Fin 4} {q : Fin 16} {e : Entry} :
    Sound s₀ (doInvalidOpcodeEntry p q e s) := by
  unfold doInvalidOpcodeEntry
  try dsimp only
  repeat' first
    | with_reducible assumption
    | (with_reducible first | apply endCmd_sound | apply startCmd_sound)
    | split

theorem doCqCoalesceTimeout_sound (hs : Sound s₀ s) {p : Fin 4} {q : Fin 16} :
    Sound s₀ (doCqCoalesceTimeout p q s) := by
  unfold doCqCoalesceTimeout
  repeat' first
    | with_reducible assumption
    | (with_reducible first | apply sendQueueMsix_sound)
    | split

theorem reportAer_sound (hs : Sound s₀ s) {f : Fin 5} {k : LinkError} : Sound s₀ (reportAer s f k) := by
  unfold reportAer
  try dsimp only
  repeat' first
    | with_reducible assumption
    | (with_reducible first | apply modFunc_sound)
    | fail_if_no_progress with_reducible refine Sound.set ?_ rfl rfl rfl rfl rfl rfl rfl
    | exact fun _ hx => hx

theorem doQueueLinkError_sound (hs : Sound s₀ s) {p : Fin 4} {q : RingFailure} :
    Sound s₀ (doQueueLinkError p q s) := by
  unfold doQueueLinkError
  try dsimp only
  repeat' first
    | with_reducible assumption
    | (with_reducible first | apply reportAer_sound | apply raiseCause_sound | apply modQueue_sound)
    | fail_if_no_progress with_reducible refine Sound.set ?_ rfl rfl rfl rfl rfl rfl rfl
    | split

theorem smb_sound (hs : Sound s₀ s) {code : Byte} {bs : List Byte} {block : Bool} :
    Sound s₀ (smb s code bs block) := by
  unfold smb
  try dsimp only
  repeat' first
    | with_reducible assumption
    | fail_if_no_progress with_reducible refine Sound.set ?_ rfl rfl rfl rfl rfl rfl rfl

theorem doSmbBootProgress_sound (hs : Sound s₀ s) : Sound s₀ (doSmbBootProgress s) := by
  unfold doSmbBootProgress
  repeat' first
    | with_reducible assumption
    | (with_reducible first | apply smb_sound)

theorem doSmbModuleState_sound (hs : Sound s₀ s) : Sound s₀ (doSmbModuleState s) := by
  unfold doSmbModuleState
  try dsimp only
  repeat' first
    | with_reducible assumption
    | (with_reducible first | apply smb_sound | apply nextDraw_sound)
    | split

theorem doSmbInputPower_sound (hs : Sound s₀ s) : Sound s₀ (doSmbInputPower s) := by
  unfold doSmbInputPower
  repeat' first
    | with_reducible assumption
    | (with_reducible first | apply smb_sound)

theorem doSmbPowerLimit_sound (hs : Sound s₀ s) : Sound s₀ (doSmbPowerLimit s) := by
  unfold doSmbPowerLimit
  repeat' first
    | with_reducible assumption
    | (with_reducible first | apply smb_sound)

theorem doSmbSerial_sound (hs : Sound s₀ s) : Sound s₀ (doSmbSerial s) := by
  unfold doSmbSerial
  repeat' first
    | with_reducible assumption
    | (with_reducible first | apply smb_sound)

theorem doSmbFwVersion_sound (hs : Sound s₀ s) : Sound s₀ (doSmbFwVersion s) := by
  unfold doSmbFwVersion
  repeat' first
    | with_reducible assumption
    | (with_reducible first | apply smb_sound)

theorem doSmbLifecycle_sound (hs : Sound s₀ s) : Sound s₀ (doSmbLifecycle s) := by
  unfold doSmbLifecycle
  repeat' first
    | with_reducible assumption
    | (with_reducible first | apply smb_sound)

theorem doSmbTemperatures_sound (hs : Sound s₀ s) : Sound s₀ (doSmbTemperatures s) := by
  unfold doSmbTemperatures
  try dsimp only
  repeat' first
    | with_reducible assumption
    | (with_reducible first | apply smb_sound)

theorem doSmbAlertCause_sound (hs : Sound s₀ s) : Sound s₀ (doSmbAlertCause s) := by
  unfold doSmbAlertCause
  repeat' first
    | with_reducible assumption
    | (with_reducible first | apply smb_sound)

theorem doSmbAlertResponse_sound (hs : Sound s₀ s) : Sound s₀ (doSmbAlertResponse s) := by
  unfold doSmbAlertResponse
  try dsimp only
  repeat' first
    | with_reducible assumption
    | (with_reducible first | apply raiseAlert_sound | apply foldl_sound)
    | fail_if_no_progress with_reducible refine Sound.set ?_ rfl rfl rfl rfl rfl rfl rfl
    | intro s x hx
    | split

theorem doTimeTokenSend_sound (hs : Sound s₀ s) : Sound s₀ (doTimeTokenSend s) := by
  unfold doTimeTokenSend
  try dsimp only
  repeat' first
    | with_reducible assumption
    | (with_reducible first | apply sendClear_sound | apply foldl_sound)
    | intro s x hx

theorem timeStepRecords_sound (hs : Sound s₀ s) {before : DWord} {after : DWord} :
    Sound s₀ (timeStepRecords s before after) := by
  unfold timeStepRecords
  try dsimp only
  repeat' first
    | with_reducible assumption
    | (with_reducible first | apply traceRecord_sound | apply foldl_sound)
    | intro s x hx

theorem timeStep_sound (hs : Sound s₀ s) {j : Fin 6} {d : Nat} : Sound s₀ (timeStep s j d) := by
  unfold timeStep
  try dsimp only
  repeat' first
    | with_reducible assumption
    | (with_reducible first | apply timeStepRecords_sound)
    | fail_if_no_progress with_reducible refine Sound.set ?_ rfl rfl rfl rfl rfl rfl rfl

theorem takeEstimate_sound (hs : Sound s₀ s) {j : Fin 6} {est : DWord} : Sound s₀ (takeEstimate s j est) := by
  unfold takeEstimate
  try dsimp only
  repeat' first
    | with_reducible assumption
    | (with_reducible first | apply timeStep_sound)
    | fail_if_no_progress with_reducible refine Sound.set ?_ rfl rfl rfl rfl rfl rfl rfl
    | split

theorem doTimeTokenReceived_sound (hs : Sound s₀ s) {j : Fin 6} {est : DWord} :
    Sound s₀ (doTimeTokenReceived j est s) := by
  unfold doTimeTokenReceived
  repeat' first
    | with_reducible assumption
    | (with_reducible first | apply returnCredit_sound | apply takeEstimate_sound)
    | split

theorem doTimeSlewTick_sound (hs : Sound s₀ s) : Sound s₀ (doTimeSlewTick s) := by
  unfold doTimeSlewTick
  try dsimp only
  repeat' first
    | with_reducible assumption
    | fail_if_no_progress with_reducible refine Sound.set ?_ rfl rfl rfl rfl rfl rfl rfl
    | split

end Sys2Proof.Machine
end

