-- ==== Sys2Proof/Laws/Ve.lean ====
section
/-! SUPPORT. The frame of a vector engine row, once for all rows: an instruction that goes on after changing only the
engine's registers leaves nothing else changed but the program counter and the loop state. -/

namespace Sys2Proof.Machine

variable {s : State} {c : Fin 256}

/-- A loop edge looks at the loop state only, and changes nothing else. -/
theorem loopEdge_with (V W : Ve) (i : Fin 2) (last : Nat) (lc : Vector Word 2) (loops : Vector (Option (Nat × Nat)) 2)
    (o : Option Nat) :
    loopEdge i last ({ W with lc := lc, loops := loops }, o) =
      ({ W with lc := (loopEdge i last ({ V with lc := lc, loops := loops }, o)).1.lc,
                loops := (loopEdge i last ({ V with lc := lc, loops := loops }, o)).1.loops },
       (loopEdge i last ({ V with lc := lc, loops := loops }, o)).2) := by
  cases o with
  | some t => rfl
  | none =>
    simp only [loopEdge]
    cases loops.get i with
    | none => rfl
    | some x => dsimp only; split_ifs <;> rfl

theorem passed_with (V W : Ve) (last : Nat) (lc : Vector Word 2) (loops : Vector (Option (Nat × Nat)) 2) :
    passed { W with lc := lc, loops := loops } last =
      ({ W with lc := (passed { V with lc := lc, loops := loops } last).1.lc,
                loops := (passed { V with lc := lc, loops := loops } last).1.loops },
       (passed { V with lc := lc, loops := loops } last).2) := by
  have hi : innerLoop { W with lc := lc, loops := loops } = innerLoop { V with lc := lc, loops := loops } := rfl
  simp only [passed]
  rw [hi, loopEdge_with V W]
  generalize innerLoop { V with lc := lc, loops := loops } = i
  generalize hr : loopEdge i last ({ V with lc := lc, loops := loops }, none) = r
  obtain ⟨R, o⟩ := r
  have hR : R = { V with lc := R.lc, loops := R.loops } := by
    have := loopEdge_with V V i last lc loops none
    rw [hr] at this
    exact congrArg Prod.fst this
  rw [loopEdge_with V W, ← hR]

/-- What the fetch after an instruction does when the next one is inside the program. -/
theorem fetchAt_in {p : Fin 4} {q : Fin 16} {n : Word} {V : Ve} (h1 : V.lc = (ve s c).lc) (h2 : V.loops = (ve s c).loops)
    (h3 : V.prog = (ve s c).prog) (h : NextIn s c) :
    fetchAt (modVe s c fun _ => V) p q n c (.past (pcOf s c)) =
      modVe s c fun _ => { V with lc := (passed (ve s c) (pcOf s c)).1.lc,
                                  loops := (passed (ve s c) (pcOf s c)).1.loops,
                                  pc := BitVec.ofNat 12 (passed (ve s c) (pcOf s c)).2 } := by
  have hp := passed_with (ve s c) V (pcOf s c) (ve s c).lc (ve s c).loops
  have hV : V = { V with lc := (ve s c).lc, loops := (ve s c).loops } := by rw [← h1, ← h2]
  simp only [fetchAt, ve_modVe_self, flowed]
  rw [hV, hp]
  have hlt : (passed (ve s c) (pcOf s c)).2 < V.prog.length := by rw [h3]; exact h
  simp only [show ({ ve s c with lc := (ve s c).lc, loops := (ve s c).loops } : Ve) = ve s c from rfl, if_pos hlt]
  simp only [modVe, modCluster, vmod]
  congr 1
  simp [Vector.set_set, Vector.get_eq_getElem]

/-- A row whose instruction goes on with only the registers changed. -/
theorem veRow_next {op : Nat} {act : VeOp} {p : Fin 4} {q : Fin 16} {n : Word} {sub : DWord → Bool} {V : Ve}
    (hr : Runs s c op p q n) (hs : sub (wordAt (ve s c)) = true)
    (ha : act s c (wordAt (ve s c)) = goOn (modVe s c fun _ => V) c) (h0 : V.pc = (ve s c).pc)
    (h1 : V.lc = (ve s c).lc) (h2 : V.loops = (ve s c).loops) (h3 : V.prog = (ve s c).prog) (h : NextIn s c) :
    VeNext s (veRow op sub act c s) c V := by
  have hpc : pcOf (modVe s c fun _ => V) c = pcOf s c := by simp [pcOf, h0]
  have k : veRow op sub act c s = fetchAt (modVe s c fun _ => V) p q n c (.past (pcOf s c)) := by
    simp only [veRow, hr.1, hr.2, hs, and_self, if_true, ha, goOn, hpc]
  exact ⟨_, _, _, k.trans (fetchAt_in h1 h2 h3 h)⟩

/-- An instruction that changes only the engine's registers, legally encoded. -/
theorem veOnly_next {op : Nat} {legal : Ve → DWord → Bool} {f : Ve → DWord → Ve} {p : Fin 4} {q : Fin 16} {n : Word}
    {sub : DWord → Bool} (hr : Runs s c op p q n) (hs : sub (wordAt (ve s c)) = true)
    (hl : legal (ve s c) (wordAt (ve s c)) = true) (h0 : ∀ V w, (f V w).pc = V.pc) (h1 : ∀ V w, (f V w).lc = V.lc)
    (h2 : ∀ V w, (f V w).loops = V.loops) (h3 : ∀ V w, (f V w).prog = V.prog) (h : NextIn s c) :
    VeNext s (veRow op sub (veOnly legal f) c s) c (f (ve s c) (wordAt (ve s c))) :=
  veRow_next hr hs (by simp only [veOnly, hl, if_true]; rfl) (h0 ..) (h1 ..) (h2 ..) (h3 ..) h

/-- A row whose instruction raises an exception. -/
theorem veRow_trap {op : Nat} {act : VeOp} {p : Fin 4} {q : Fin 16} {n : Word} {sub : DWord → Bool} {k : Nat}
    {lanes : DWord} {addr : Nat} (hr : Runs s c op p q n) (hs : sub (wordAt (ve s c)) = true)
    (ha : act s c (wordAt (ve s c)) = .trap k lanes addr) :
    veRow op sub act c s = veTrap s p q n c k (pcOf s c) (wordAt (ve s c)) lanes addr := by
  simp only [veRow, hr.1, hr.2, hs, and_self, if_true, ha]

/-- A row of another op, or of an engine that runs no program, does not take place (log 3). -/
theorem veRow_none {op : Nat} {act : VeOp} {sub : DWord → Bool}
    (h : (runningFor s c = none ∧ stoppingFor s c = none) ∨ fOp (wordAt (ve s c)) ≠ op) :
    veRow op sub act c s = s := by
  rcases h with ⟨h, h'⟩ | h
  · simp [veRow, h, lastRow, h']
  · unfold veRow lastRow
    repeat' split
    all_goals first | rfl | simp_all

end Sys2Proof.Machine
end

