-- ==== Sys2Proof/Tests/Slice0.lean ====
section
/-! SUPPORT. Tests: ill-formed terms that WellFormed refuses, for every statement a concrete state and operands that
meet its hypotheses, and small tests of single commands with values worked out from the spec. -/

set_option maxRecDepth 100000
set_option Elab.async false

namespace Sys2Proof.Tests

open Sys2Proof Sys2Proof.Machine

/-! ## Small states -/

/-- A queue of four entries that runs, with one entry announced. -/
def q0 : Queue := { Queue.reset with st := .running, vector := 2, depth := 4, cqBase := 0x1000, tail := 1 }

/-- A gauge as GAUGE_CONFIG leaves it. -/
def g0 : Gauge :=
  { gradient := false, wdOff := false, ladder := 0, bpl := 0, bs := 0, scaleAddr := 0, stateAddr := 0, lines := 0,
    tot := GTot.zero, win := [], streak := 0 }

/-- A polder over the whole array, open. -/
def p0 : Polder :=
  { Polder.reset with st := .opened, traceSize := 8192, u := [1024, 1024, 1024, 1024], queues := Polder.reset.queues.set 0 q0, gauges := [(5, some g0)] }

/-- A ready module with that polder. -/
def s0 : State :=
  { State.reset with boot := .ready, perst := false, modPwrgd := true, vfEnable := true, numVfs := 4, layout := .whole, bootFlags := 0x80, polders := State.reset.polders.set 0 p0 }

/-- A ring entry of an opcode with its complement. -/
def ent (op desc : Nat) : Entry :=
  { opcode := BitVec.ofNat 8 op, flags := 0, comp := BitVec.ofNat 16 (0xFF00 + (255 - op)), seq := 1, reqId := 7,
    ctrSet := 3, gaugeId := 0xFFFF, desc := BitVec.ofNat 64 desc, sigEv := 0xFFFF, waitEv := 0xFFFF, sigVal := 0,
    waitVal := 0, rsvd := 0, inl := 0 }

/-- A command in flight on queue 0. -/
def cmd0 (op : Nat) (b : Body) : Cmd :=
  { q := 0, e := ent op 0x1000, valid := true, body := b, warn := 0, res := none, detail := 0, step := 0, known := [5], desc := [], contrib := [],
    spill := [], startRec := 0, claims := [], areas := [], energy := 0, shared := 0, expired := false, doneTime := 0, held := false }

/-- s0 with commands in flight, the entries taken. -/
def busy (cs : List Cmd) : State := modPolder s0 0 fun P => { P with inflight := cs, queues := P.queues.set 0 { q0 with taken := 1 } }

def vk0 (prog : List DWord) : VkRun :=
  { base := 0, count := 1, report := 0x10000000000, flush := false, prog := prog, scalars := [], addrs := [], started := true, raised := 0, low := 0 }

/-- Cluster 0 runs a program for a VK command; f sets its registers. -/
def veOn (prog : List DWord) (f : Ve → Ve) : State :=
  modVe (busy [cmd0 2 (.vk (vk0 prog))]) 0 fun _ =>
    f { Ve.reset with prog := prog, mode := .running, owner := some (0, 0, 1, 0, 1) }

def nextOf (o : Host.Outcome State Fault Refusal) : State :=
  match o with
  | .next t => t
  | _ => State.reset

/-! ## Instruction words of R135 -/

def wR (op d a b c bsel m : Nat) : DWord :=
  BitVec.ofNat 64 (op * 2 ^ 56 + d * 2 ^ 47 + a * 2 ^ 42 + b * 2 ^ 37 + c * 2 ^ 32 + bsel * 2 ^ 30 + m * 2 ^ 24)
def wI (op d a m imm : Nat) : DWord :=
  BitVec.ofNat 64 (op * 2 ^ 56 + d * 2 ^ 47 + a * 2 ^ 42 + m * 2 ^ 32 + imm)
def wM (op d x space b width post off : Nat) : DWord :=
  BitVec.ofNat 64 (op * 2 ^ 56 + d * 2 ^ 47 + x * 2 ^ 44 + space * 2 ^ 42 + b * 2 ^ 37 + width * 2 ^ 32 + post * 2 ^ 31 + off)

/-! ## WellFormed refuses -/

theorem test_wf_opcode : (Instr.nop 0 0 (ent 0x12 0)).wf = false ∧ (Instr.nop 0 0 (ent 0x13 0)).wf = true := by decide +kernel
theorem test_wf_invalid_entry : (Instr.invalidOpcodeEntry 0 0 (ent 0x13 0)).wf = false ∧
    (Instr.invalidOpcodeEntry 0 0 (ent 0x14 0)).wf = true ∧ (Instr.invalidOpcodeEntry 0 0 (ent 0 0)).wf = true := by decide +kernel
theorem test_wf_lane : (Instr.tileSteal 0 0 1 256).wf = false ∧ (Instr.tileSteal 0 0 1 255).wf = true := by decide +kernel
theorem test_wf_register : (Instr.bar2Read 1 (2 ^ 34 - 4) 8).wf = false ∧ (Instr.bar2Read 1 (2 ^ 34 - 8) 8).wf = true ∧
    (Instr.cvuData8 0 0 0x100).wf = false := by decide +kernel
theorem test_wf_link : (Instr.flitReceived 0 ⟨true, List.replicate 511 0⟩).wf = false ∧
    (Instr.flitReceived 0 ⟨true, List.replicate 512 0⟩).wf = true := by decide +kernel
def tok (typ : Byte) : Token := { typ := typ, hop := 1, op := 0, rank := 0, id := 0, payload := 0, iv := 0, tag := 0 }
theorem test_wf_token : (Instr.leveeArriveReceived 0 (tok 2)).wf = false ∧ (Instr.leveeArriveReceived 0 (tok 1)).wf = true := by decide +kernel
theorem test_wf_repair : (Instr.keeperHeartbeat [true]).wf = false ∧
    (Instr.repairDone 0 ⟨[], false, [], [], []⟩).wf = false ∧ (Instr.repairDone 1 ⟨[], false, [], [], [(0, 4)]⟩).wf = false ∧
    (Instr.repairDone 1 ⟨[], false, [], [], [(0, 3)]⟩).wf = true := by decide +kernel
theorem test_wf_memory : (Instr.scrub 64 0).wf = false ∧ (Instr.scrub (2 ^ 40) 2).wf = true ∧ (Instr.mr4Poll 0 0 0).wf = false := by
  decide +kernel
theorem test_wf_sample : (Instr.thermalSample ⟨[], 0, 0, 0⟩).wf = false ∧ (Instr.thermalSample ⟨[0, 0, 0, 0], 0, 0, 0⟩).wf = true := by
  decide +kernel

/-! ## The machine (statements 2, 4-6; reset meets Inv) -/

theorem witness_queue_empty : s0.pending = [] ∧ State.reset.pending = [] := by decide +kernel
theorem witness_invariant : Memory.wf State.reset.mem ∧ Memory.wf State.reset.hostMem ∧
    (∀ c : Fin 256, (ve State.reset c).p0Ones) ∧ (∀ f : Fin 5, (func State.reset f).events.length ≤ 1024) := by decide +kernel
theorem witness_step : step { s0 with pending := [.timeLoRead 0] } = .next (nextOf (step { s0 with pending := [.timeLoRead 0] })) := rfl

/-! ## Vector engine -/

/-- One word for each row of laneRow, with boundary fields; the program goes on behind it. -/
def laneWords : List (Instr × DWord) :=
  [(.fadd 0, wR 0x20 31 31 31 0 0 0), (.fsub 0, wR 0x21 0 1 15 0 1 0), (.fmul 0, wR 0x22 1 2 3 0 0 0), (.ffma 0, wR 0x23 1 2 3 31 0 0),
   (.fmin 0, wR 0x24 1 2 3 0 0 0), (.fmax 0, wR 0x25 1 2 3 0 0 0), (.vsel 0, wR 0x27 1 2 3 7 0 0), (.iadd 0, wR 0x30 1 2 3 0 0 0),
   (.isub 0, wR 0x31 1 2 3 0 0 0), (.imul 0, wR 0x32 1 2 3 0 0 0), (.imad 0, wR 0x33 1 2 3 4 0 0), (.imin 0, wR 0x34 1 2 3 0 0 0),
   (.imax 0, wR 0x35 1 2 3 0 0 0), (.ilog 0, wR 0x36 1 2 3 0 0 3), (.ishf 0, wR 0x37 1 2 3 0 0 2), (.vmovi 0, wI 0x39 1 0 0 0xFFFFFFFF),
   (.vmov 0, wR 0x3A 1 0 3 0 0 0), (.frcp 0, wR 0x40 1 2 0 0 0 0), (.frsq 0, wR 0x41 1 2 0 0 0 0), (.fexp2 0, wR 0x42 1 2 0 0 0 0),
   (.flog2 0, wR 0x43 1 2 0 0 0 0), (.ftanh 0, wR 0x44 1 2 0 0 0 0), (.fsigm 0, wR 0x45 1 2 0 0 0 0), (.fscl 0, wR 0x53 1 2 3 0 0 0),
   (.i2f 0, wR 0x54 1 2 0 0 0 0), (.vperm 0, wR 0x64 1 2 3 0 0 0), (.vrot 0, wR 0x65 1 2 3 0 1 0), (.vbcl 0, wR 0x66 1 2 15 0 1 0)]

theorem witness_lane_rows : ∀ x ∈ laneWords,
    (laneRow x.1).map (fun r => (r.1, r.2.1, r.2.2.1 x.2)) = some (0, fOp x.2, true) ∧
    runningFor (veOn [x.2, 0] id) 0 = some (0, 0, 1) ∧ wordAt (ve (veOn [x.2, 0] id) 0) = x.2 ∧
    NextIn (veOn [x.2, 0] id) 0 := by decide +kernel

/-- Words with a reserved encoding, one for each kind of row of the statement. -/
theorem witness_reserved_lane : Runs (veOn [wR 0x27 1 2 3 8 0 0] id) 0 0x27 0 0 1 ∧
    (laneRow (.vsel 0)).map (fun r => (r.1, r.2.1, r.2.2.1 (wR 0x27 1 2 3 8 0 0))) = some (0, 0x27, false) := by decide +kernel
theorem witness_reserved_scalar : Runs (veOn [wI 0x10 16 0 0 5] id) 0 0x10 0 0 1 ∧
    (scalarRow (.smovi 0)).map (fun r => (r.1, r.2.1)) = some (0, 0x10) ∧ 16 ≤ fD (wI 0x10 16 0 0 5) ∧
    (scalarRow (.rdsr 0)).map (fun r => r.2.2.1 (wI 0x17 1 0 0 16)) = some false ∧
    Runs (veOn [wI 0x17 1 0 0 16] id) 0 0x17 0 0 1 := by decide +kernel
theorem witness_reserved_predicate : Runs (veOn [wR 0x26 0 2 3 0 0 0] id) 0 0x26 0 0 1 ∧
    (predRow (.fcmp 0)).map (fun r => (r.1, r.2.1)) = some (0, 0x26) ∧ fD (wR 0x26 0 2 3 0 0 0) = 0 ∧
    Runs (veOn [wR 0x38 8 2 3 0 0 0] id) 0 0x38 0 0 1 ∧ 8 ≤ fD (wR 0x38 8 2 3 0 0 0) := by decide +kernel
theorem witness_reserved_reduction : Runs (veOn [wR 0x60 16 2 0 0 0 0] id) 0 0x60 0 0 1 ∧
    (reduceRow (.rsum 0)).map (fun r => (r.1, r.2.1)) = some (0, 0x60) ∧ 16 ≤ fD (wR 0x60 16 2 0 0 0 0) := by decide +kernel

/-- One word for each row of scalarRow. -/
def scalarWords : List (Instr × DWord) :=
  [(.smovi 0, wI 0x10 15 0 0 0xFFFFFFFF), (.salu 0, wR 0x11 1 15 15 0 0 0), (.salui 0, wI 0x12 1 2 0 5), (.sfalu 0, wR 0x13 1 2 3 0 0 4),
   (.vext 0, wI 0x16 0 31 0 63), (.rdsr 0, wI 0x17 0 0 0 0)]

theorem witness_scalar_rows : ∀ x ∈ scalarWords,
    (scalarRow x.1).map (fun r => (r.1, r.2.1, r.2.2.1 x.2, (r.2.2.2 (veOn [x.2, 0] id) 0 x.2).isSome)) = some (0, fOp x.2, true, true) ∧
    runningFor (veOn [x.2, 0] id) 0 = some (0, 0, 1) ∧ wordAt (ve (veOn [x.2, 0] id) 0) = x.2 ∧
    plain x.2 = true ∧ fD x.2 < 16 ∧ NextIn (veOn [x.2, 0] id) 0 := by decide +kernel

theorem witness_address_rows :
    ([wI 0x14 7 0 0 0xFFFFFFFF, wI 0x14 0 7 1 0xFFFFFFFF, wR 0x15 7 7 15 0 0 7].Forall fun w => 
      runningFor (veOn [w, 0] id) 0 = some (0, 0, 1) ∧ wordAt (ve (veOn [w, 0] id) 0) = w ∧ plain w = true ∧ fD w < 8 ∧
      NextIn (veOn [w, 0] id) 0) ∧
    iMod (wI 0x14 7 0 0 0xFFFFFFFF) = 0 ∧ iMod (wI 0x14 0 7 1 0xFFFFFFFF) = 1 ∧ fA (wI 0x14 0 7 1 0xFFFFFFFF) < 8 ∧
    formR (wR 0x15 7 7 15 0 0 7) = true ∧ fA (wR 0x15 7 7 15 0 0 7) < 8 ∧ fB (wR 0x15 7 7 15 0 0 7) < 16 ∧
    fMod (wR 0x15 7 7 15 0 0 7) < 8 := by decide +kernel

theorem witness_predicate_rows :
    (∀ x ∈ [(Instr.fcmp 0, wR 0x26 7 2 3 0 0 6), (.icmp 0, wR 0x38 1 2 3 0 0 13)],
      (predRow x.1).map (fun r => (r.1, r.2.1, r.2.2.1 x.2)) = some (0, fOp x.2, true) ∧
      runningFor (veOn [x.2, 0] id) 0 = some (0, 0, 1) ∧ wordAt (ve (veOn [x.2, 0] id) 0) = x.2 ∧
      0 < fD x.2 ∧ fD x.2 < 8 ∧ NextIn (veOn [x.2, 0] id) 0) ∧
    Runs (veOn [wR 0x28 7 7 31 0 0 4, 0] id) 0 0x28 0 0 1 ∧ formR (wR 0x28 7 7 31 0 0 4) = true ∧
    fBsel (wR 0x28 7 7 31 0 0 4) = 0 ∧ fMod (wR 0x28 7 7 31 0 0 4) = 4 ∧ fA (wR 0x28 7 7 31 0 0 4) < 8 := by decide +kernel

theorem witness_reduction_rows :
    ∀ x ∈ [(Instr.rsum 0, wR 0x60 15 31 0 0 0 0), (.rmax 0, wR 0x61 0 0 0 0 0 0), (.rmin 0, wR 0x62 0 0 0 0 0 0), (.risum 0, wR 0x63 0 0 0 0 0 0)],
      (reduceRow x.1).map (fun r => (r.1, r.2.1)) = some (0, fOp x.2) ∧
      runningFor (veOn [x.2, 0] id) 0 = some (0, 0, 1) ∧ wordAt (ve (veOn [x.2, 0] id) 0) = x.2 ∧
      formR x.2 = true ∧ fD x.2 < 16 ∧ NextIn (veOn [x.2, 0] id) 0 := by decide +kernel

theorem witness_control_nop : Runs (veOn [wI 0 0 0 0 0, 0] id) 0 0x00 0 0 1 ∧ plain (wI 0 0 0 0 0) = true ∧
    NextIn (veOn [wI 0 0 0 0 0, 0] id) 0 := by decide +kernel
/-- bra not taken, taken to instruction 0 and to the last one, beyond the program on either side. -/
theorem witness_control_bra :
    ([wI 2 0 0 2 0, wI 2 0 0 0 0, wI 2 0 0 1 1, wI 2 0 0 0 0xFFFFFFFF, wI 2 0 0 0 2].Forall fun x => plain x = true ∧
      Runs (veOn [x, 0] id) 0 0x02 0 0 1 ∧ NextIn (veOn [x, 0] id) 0) ∧
    braCond (ve (veOn [wI 2 0 0 2 0, 0] id) 0) (wI 2 0 0 2 0) = some false ∧
    braCond (ve (veOn [wI 2 0 0 1 1, 0] id) 0) (wI 2 0 0 1 1) = some true ∧ (fImm (wI 2 0 0 1 1)).toInt = 1 ∧
    braCond (ve (veOn [wI 2 0 0 0 0xFFFFFFFF, 0] id) 0) (wI 2 0 0 0 0xFFFFFFFF) = some true ∧ (fImm (wI 2 0 0 0 0xFFFFFFFF)).toInt < 0 ∧
    braCond (ve (veOn [wI 2 0 0 0 2, 0] id) 0) (wI 2 0 0 0 2) = some true := by decide +kernel
/-- loop with a length of 0 (broken), a count of 0, a count from imm and one from s[15]. -/
theorem witness_control_loop :
    ([wI 3 0 0 0 0x30000, wI 3 0 0 1 1, wI 3 0 0 0 0x20001, wI 3 0 15 3 1].Forall fun x => plain x = true ∧
      Runs (veOn [x, 0, 0] fun V => setSreg V 15 9) 0 0x03 0 0 1) ∧
    loopBad (ve (veOn [wI 3 0 0 0 0x30000, 0, 0] id) 0) 0 0 1 0 = true ∧
    loopBad (ve (veOn [wI 3 0 0 1 1, 0, 0] id) 0) 1 1 1 1 = false ∧ (fImm (wI 3 0 0 1 1)) >>> 16 = 0 ∧
    (passed (ve (veOn [wI 3 0 0 1 1, 0, 0] id) 0) 1).2 < 3 ∧ (fImm (wI 3 0 0 0 0x20001)) >>> 16 ≠ 0 ∧
    sregOf (ve (veOn [wI 3 0 15 3 1, 0, 0] fun V => setSreg V 15 9) 0) 15 ≠ 0 := by decide +kernel

def looping (n : Word) : State :=
  veOn [0, 0, 0] fun V => { V with pc := 1, loops := V.loops.set 0 (some (0, 1)), lc := V.lc.set 0 n }
theorem witness_loop_edge : [(2 : Word), 1, 0].Forall fun n => Runs (looping n) 0 0x00 0 0 1 ∧ plain (wordAt (ve (looping n) 0)) = true ∧
    (ve (looping n) 0).loops.get 0 = some (0, pcOf (looping n) 0) ∧ (ve (looping n) 0).loops.get 1 = none ∧
    pcOf (looping n) 0 + 1 < 3 ∧ ((ve (looping n) 0).lc.get 0) = n := by decide +kernel

/-- An UPDATE whose copy program runs on cluster 0. -/
def upd0 : UpdRun :=
  { desc := List.replicate 512 0, group := { rule := 0, sched := 0, skip := false, baseLr := 0, b1 := 0, b2 := 0, eps := 0, wd := 0, trust := 0, n0 := 0, master := 0, moment := 0, policy := 0 }, lr := 0, fclip := 0, e := 0, skipAll := false, base := 0, count := 1,
    started := true, committed := [], skipped := [], nonfinite := 0, prog := [], work := [], copied := [], copiedBuf := [] }
def updOn (prog : List DWord) : State :=
  modVe (busy [cmd0 0x0A (.update upd0)]) 0 fun _ =>
    { Ve.reset with prog := prog, mode := .running, owner := some (0, 0, 1, 0, 1), update := true }

theorem witness_conversions :
    ([wR 0x50 1 2 3 0 0 0, wR 0x50 1 2 15 0 1 0x10, wR 0x50 1 2 0 0 0 0x0A, wR 0x51 1 2 3 0 0 0x10, wR 0x51 1 2 0 3 0 0x20,
        wR 0x51 1 2 0 31 0 0x30, wR 0x55 31 2 0 0 0 0].Forall fun w => 
      Runs (veOn [w, 0] id) 0 (fOp w) 0 0 1 ∧ NextIn (veOn [w, 0] id) 0 ∧ formB w = true ∧ fMod w % 16 ≤ 0xA ∧ fMod w % 16 ≠ 2 ∧
      (2 ≤ fMod w / 16 → fC w ≠ fD w)) ∧ (cmdAt (veOn [0] id) 0 0 1).isSome = true := by decide +kernel
theorem witness_stochastic : Runs (updOn [wR 0x52 1 2 3 15 0 0x10, 0]) 0 0x52 0 0 1 ∧ NextIn (updOn [wR 0x52 1 2 3 15 0 0x10, 0]) 0 ∧
    streamOf (updOn [wR 0x52 1 2 3 15 0 0x10, 0]) 0 = some (0, 0, 0) ∧ formB (wR 0x52 1 2 3 15 0 0x10) = true ∧
    fMod (wR 0x52 1 2 3 15 0 0x10) / 16 = 1 ∧ fC (wR 0x52 1 2 3 15 0 0x10) < 16 := by decide +kernel

theorem witness_gfeed :
    ([wI 0x70 0 1 0x19 0xFFFF, wI 0x70 0 1 0 4, wI 0x70 0 1 0 5].Forall fun w => Runs (veOn [w, 0] id) 0 0x70 0 0 1 ∧ NextIn (veOn [w, 0] id) 0 ∧
      iMod w < 32 ∧ (fImm w).toNat < 65536 ∧ iMod w % 16 ≤ 0xA ∧ iMod w % 16 ≠ 2 ∧ iMod w % 16 ≠ 0xA) ∧
    gaugeOf (polder (veOn [0] id) 0) 4 = none ∧ gaugeOf (polder (veOn [0] id) 0) 5 = some g0 := by decide +kernel

/-- Lane accesses in the VE store at its last line, in the cluster buffer and in the S-tier. -/
theorem witness_accesses :
    let f := fun V => setAreg V 7 0x37F00
    ([wM 0x80 1 7 0 0 3 0 0, wM 0x81 1 7 0 0 3 1 256, wM 0x82 1 7 1 2 0 0 0, wM 0x83 1 7 1 2 3 0 0, wM 0x80 1 0 2 0 0 0 0,
        wM 0x81 1 0 2 0 2 0 0].Forall fun w => 
      Runs (veOn [w, 0] f) 0 (fOp w) 0 0 1 ∧ NextIn (veOn [w, 0] f) 0 ∧ formM w 3 (fB w ≠ 0) = true ∧
      ((accessTrap (veOn [w, 0] f) 0 (ve (veOn [w, 0] f) 0) (mSpace w) (max 1 (4 * 2 ^ mWidth w / 8)) (fOp w % 2 = 1)
        (if fB w = 0 then veLineElems (ve (veOn [w, 0] f) 0) w else indexElems (ve (veOn [w, 0] f) 0) w)).isNone = true)) := by
  decide +kernel

theorem witness_scales :
    let on (w : DWord) : State := modCluster (veOn [w, 0] id) 0 fun C => { C with buffer := (List.range 512).filterMap fun i => if i % 8 < 4 then none else some (i, 0xFF) }
    ([wM 0x84 1 0 1 0 2 0 0, wM 0x85 1 0 1 0 0 0 0, wM 0x85 1 0 1 0 2 1 8].Forall fun w => Runs (on w) 0 (fOp w) 0 0 1 ∧ NextIn (on w) 0 ∧ formM w 2 false = true) ∧
    (accessTrap (on (wM 0x84 1 0 1 0 2 0 0)) 0 (ve (on (wM 0x84 1 0 1 0 2 0 0)) 0) 1 2 false (scaleLoads (ve (on 0) 0) (wM 0x84 1 0 1 0 2 0 0))).isNone = true ∧
    (∀ e ∈ scaleLoads (ve (on 0) 0) (wM 0x84 1 0 1 0 2 0 0), compOk 4 (leVal (spaceBytes (on (wM 0x84 1 0 1 0 2 0 0)) 0 1 e.addr e.size))
      (leVal (spaceBytes (on (wM 0x84 1 0 1 0 2 0 0)) 0 1 e.addr e.size) / 2 ^ 32) = true) ∧
    (accessTrap (on 0) 0 (ve (on 0) 0) 1 2 true (scaleStores (ve (on 0) 0) (wM 0x85 1 0 1 0 0 0 0))).isNone = true := by decide +kernel

/-- Two active lanes of a stx that name one element: every index is 0, and lane 63 is the highest. -/
theorem test_stx_higher_lane : readElem (nextOf (exec (.stx 0) (veOn [wM 0x83 1 0 0 2 3 0 0, 0]
    fun V => { V with v := V.v.set 1 (Vector.ofFn fun i => BitVec.ofNat 32 (100 + i.val)) }))) 0 0 ⟨[], 0, false, 32⟩ = 163 := by decide +kernel

theorem witness_barriers : Runs (veOn [wI 0x71 0 0 0 0, 0] id) 0 0x71 0 0 1 ∧ plain (wI 0x71 0 0 0 0) = true ∧
    Runs (veOn [wR 0x72 15 15 0 0 0 3, 0] id) 0 0x72 0 0 1 ∧ plain (wR 0x72 15 15 0 0 0 3) = true ∧ formR (wR 0x72 15 15 0 0 0 3) = true ∧
    fD (wR 0x72 15 15 0 0 0 3) < 16 ∧ fA (wR 0x72 15 15 0 0 0 3) < 16 ∧ fMod (wR 0x72 15 15 0 0 0 3) < 4 := by decide +kernel

def atBar : State := veOn [0, 0] fun V => { V with mode := .atBarrier, bars := 1, contribution := some (0, 7, 3) }
theorem witness_release : (liveCmd atBar 0 0 1).isSome = true ∧ launchOf atBar 0 0 1 = [0] ∧ (ve atBar 0).mode = .atBarrier ∧
    NextIn atBar 0 := by decide +kernel

/-- The last cluster of a launch ends; with a second cluster still running it does not complete. -/
theorem witness_end : Runs (veOn [wI 1 0 0 0 0] id) 0 0x01 0 0 1 ∧ plain (wI 1 0 0 0 0) = true ∧
    clashes (modVe (veOn [wI 1 0 0 0 0] id) 0 fun V => { V with mode := .ended }) 0 = false ∧
    launchOf (veOn [wI 1 0 0 0 0] id) 0 0 1 = [0] ∧
    (let s := modVe (veOn [wI 1 0 0 0 0] id) 1 fun _ => { Ve.reset with prog := [0], mode := .running, owner := some (0, 0, 1, 1, 2) }
     launchOf s 0 0 1 = [0, 1] ∧ clashes (modVe s 0 fun V => { V with mode := .ended }) 0 = false ∧ (ve s 1).mode ≠ .ended) := by decide +kernel

theorem witness_exception : (cmdAt (veOn [0] id) 0 0 1).map (·.body) = some (.vk (vk0 [0])) ∧ (vk0 [0]).report ≠ 0 ∧
    (veOn [0] id).poison = [] := by decide +kernel
/-- The end of a copy program over a staged block (R196). -/
def updEnds : State :=
  modCmd (updOn [wI 1 0 0 0 0]) 0 0 1 fun c =>
    { c with body := .update { upd0 with work := [(0, { block := 0, stores := [], amax := 0, nonfinite := 0 })] } }
theorem witness_copy_end : Runs updEnds 0 0x01 0 0 1 ∧ plain (wordAt (ve updEnds 0)) = true ∧ (ve updEnds 0).owner = some (0, 0, 1, 0, 1) ∧
    (match (cmdAt updEnds 0 0 1).map (·.body) with
     | some (.update r) => (r.work.find? fun x => x.1 == 0).isSome
     | _ => false) = true := by decide +kernel

/-- Two clusters of a launch: the second waits at a barrier that the first has not reached, or not (R149). -/
def twoOn (bars : Nat) : State :=
  modVe (veOn [wI 2 0 0 0 2, 0] id) 1 fun _ => { Ve.reset with prog := [0], mode := .atBarrier, bars := bars, owner := some (0, 0, 1, 1, 2) }
theorem witness_stranded : launchOf (twoOn 1) 0 0 1 = [0, 1] ∧ (ve (twoOn 1) 1).mode = .atBarrier ∧ (ve (twoOn 1) 0).bars < (ve (twoOn 1) 1).bars ∧
    (ve (twoOn 0) 1).bars ≤ (ve (twoOn 0) 0).bars := by decide +kernel
theorem test_stranded : (cmdAt (nextOf (exec (.bra 0) (twoOn 1))) 0 0 1).map (·.detail) = some 8 := by decide +kernel

/-- Byte 16 of the S-tier is stored by lane 4 of cluster 0 and was stored by cluster 1 with no barrier between: its value is free; byte 4 is
no other unit's (R146). -/
def racing : State :=
  modVe (veOn [wM 0x81 1 0 2 0 3 0 0, 0] id) 1 fun _ => { Ve.reset with prog := [0], mode := .running, owner := some (0, 0, 1, 1, 2), writes := [(16, 4)] }
theorem witness_races : Runs racing 0 0x81 0 0 1 ∧ NextIn racing 0 ∧ storeRaces racing 0 2 16 = true ∧
    (accessTrap racing 0 (ve racing 0) 2 4 true (veLineElems (ve racing 0) (wordAt (ve racing 0)))).isNone = true ∧
    16 ∈ elemBytes (veLineElems (ve racing 0) (wordAt (ve racing 0))) ∧ Undisputed racing 0 2 ⟨[1], 4, false, 32⟩ := by
  refine ⟨by decide +kernel, by decide +kernel, by decide +kernel, by decide +kernel, by decide +kernel, ?_⟩
  unfold Undisputed
  decide +kernel

/-- A branch beyond the program fails the command with ACCESS_DENIED and the cause as detail (R151, R155). -/
theorem test_branch_beyond : (cmdAt (nextOf (exec (.bra 0) (veOn [wI 2 0 0 0 2, 0] id))) 0 0 1).map (fun x => (x.res, x.detail)) =
    some (some .accessDenied, 4) := by decide +kernel
theorem test_fadd : (vreg (ve (nextOf (exec (.fadd 0) (veOn [wR 0x20 3 1 2 0 0 0, 0] fun V =>
    { V with v := (V.v.set 1 (Vector.replicate 64 0x3F800000)).set 2 (Vector.replicate 64 0x40000000) }))) 0) 3).get 63 = 0x40400000 := by decide +kernel
theorem test_isub_wraps : (vreg (ve (nextOf (exec (.isub 0) (veOn [wR 0x31 1 1 2 0 0 0, 0] fun V =>
    { V with v := V.v.set 2 (Vector.replicate 64 1) }))) 0) 1).get 0 = 0xFFFFFFFF := by decide +kernel
theorem test_rsum_no_lane : sregOf (ve (nextOf (exec (.rsum 0) (veOn [wR 0x60 3 1 0 0 0 0 ||| (1#64 <<< 52), 0] id))) 0) 3 = 0x80000000 := by decide +kernel
theorem test_cvtf_bf16 : (vreg (ve (nextOf (exec (.cvtf 0) (veOn [wR 0x50 3 1 0 0 0 6, 0] fun V =>
    { V with v := V.v.set 1 (Vector.replicate 64 0x3F80) }))) 0) 3).get 5 = 0x3F800000 := by decide +kernel
theorem test_loop_counts : (ve (nextOf (exec (.veLoop 0) (veOn [wI 3 0 0 1 0x50001, 0, 0] id))) 0).lc.get 1 = 5 := by decide +kernel
theorem test_end_completes : (cmdAt (nextOf (exec (.veEnd 0) (veOn [wI 1 0 0 0 0] id))) 0 0 1).map (·.res) = some (some .ok) := by decide +kernel

/-! ## The host's registers -/

def held0 (st : QState) : State := modPolder s0 0 fun P => { P with queues := P.queues.set 0 { q0 with st := st, taken := 5, fence := 3 } }

/-- The tail at D above the entries taken and one beyond; a held queue at its fence. -/
theorem witness_tail : hostReach s0 1 = true ∧ hostReach s0 4 = true ∧ hostReach State.reset 1 = false ∧ (queue s0 0 1).st = .absent ∧
    (queue (held0 .running) 0 0).st = .running ∧ ((9 : Word) - (queue (held0 .running) 0 0).taken).toNat ≤ 4 ∧
    4 < ((10 : Word) - (queue (held0 .error) 0 0).taken).toNat ∧ (queue (held0 .held) 0 0).st = .held ∧
    ((7 : Word) - (queue (held0 .held) 0 0).fence).toNat ≤ 4 ∧ 4 < ((8 : Word) - (queue (held0 .held) 0 0).fence).toNat ∧
    (polder (held0 .held) 0).st = .opened ∧ (polder (held0 .held) 0).discard = none := by decide +kernel
theorem test_tail_refused : (func (nextOf (exec (.sqTailWrite 1 0 10) (held0 .running))) 1).cause = 0x10 := by decide +kernel

theorem witness_link_error : (queue s0 0 0).st = .running ∧ (queue s0 0 1).st = .absent ∧ vecMasked (func s0 1) 1 = true ∧
    (func s0 1).mask.getLsbD 4 = false ∧ (func s0 1).config.msixEnable = false ∧
    (func (modFunc s0 1 fun F => { F with config := configWrite F.config .msixControl 0x80000000 }) 1).config.msixEnable = true ∧
    vecMasked (func (modFunc s0 1 fun F => { F with msixTable := [] }) 1) 1 = false ∧
    (func (modFunc s0 1 fun F => { F with mask := 0x10 }) 1).mask.getLsbD 4 = true ∧
    (let s := modQueue s0 0 0 fun Q => { Q with unsignalled := 3 }
     0 < (queue s 0 0).unsignalled ∧ (func s 1).mask.getLsbD 16 = false ∧ (queue s 0 0).vector < 64 ∧ (queue s0 0 0).unsignalled = 0) := by decide +kernel

/-- MSI-X Enable with a pending message of an unmasked vector, and of a masked one. -/
def pendingMsix : State := modFunc s0 1 fun F => { F with msixTable := [], msixPending := 6 }
theorem test_msix_enable : (nextOf (exec (.registerWrite 1 (.config .msixControl) 0x80000000) pendingMsix)).msix.length = 2 ∧
    (nextOf (exec (.registerWrite 1 (.config .msixControl) 0xC0000000) pendingMsix)).msix = [] := by decide +kernel

theorem witness_time : hostReach s0 0 = true ∧ leveeTime s0 = 0 := by decide +kernel
theorem test_time_latches : (func (nextOf (exec (.timeLoRead 1) { s0 with correction := 0x500000007 })) 1).timeSnap = 5 := by decide +kernel

/-- BAR2 on the last line of the trace's polder memory, below it and past the window's end. -/
theorem witness_window : hostReach s0 (vf 0) = true ∧ s0.boot = .ready ∧ isOpen s0 0 = true ∧
    (let s := modFunc s0 1 fun F => { F with winBase := 0x400 }
     accessOk s 0 false (0x400 * 2 ^ 30 + 64) 8 = true ∧ accessOk s 0 true (0x400 * 2 ^ 30) 1 = true ∧
     meetsBad s (0x400 * 2 ^ 30) 64 = false) ∧ accessOk s0 0 false (2 ^ 39) 8 = false ∧
    (let s := modFunc { s0 with poison := [(0x400 * 2 ^ 30, true)] } 1 fun F => { F with winBase := 0x400 }
     accessOk s 0 false (0x400 * 2 ^ 30) 8 = true ∧ meetsBad s (0x400 * 2 ^ 30) 8 = true ∧ accessOk s 0 true (0x400 * 2 ^ 30) 64 = true ∧
     mergesBad s (0x400 * 2 ^ 30) 8 = true ∧ mergesBad s (0x400 * 2 ^ 30) 64 = false) := by decide +kernel
theorem test_window_commit : (func (nextOf (exec (.winCommit 1 1) (modFunc s0 1 fun F => { F with winLo := 0xC0000000, winHi := 0xFFFF }))) 1).winBase =
    0x3FFFF := by decide +kernel

def cvuAt (f : Cvu → Cvu) : State := modCvu s0 1 f
theorem witness_cvu : cvuOwner s0 1 = 0 ∧ cvuOwner s0 0 = 1 ∧ hostReach s0 0 = true ∧ cvuStartOk Cvu.reset = true ∧
    cvuStartOk { Cvu.reset with cfg := 0, init := 0xFFFFFFFFFFFFFFFF } = false ∧ Cvu.reset.run = false ∧
    (let C := (cvuAt fun C => { C with run := true, queue := List.replicate 16 [1, 2] }).cvus.get 1
     C.run = true ∧ 16 ≤ C.queue.length ∧ C.queue = ([1, 2] : List Byte) :: List.replicate 15 [1, 2]) ∧
    (∀ x ∈ (List.replicate 16 ([1, 2] : List Byte)), x ≠ []) := by decide +kernel
theorem test_cvu_overrun : ((nextOf (exec (.cvuData32 0 1 7) s0)).cvus.get 1).seqErr = true := by decide +kernel

theorem witness_register_write : hostReach s0 0 = true ∧ hostReach s0 1 = true ∧ hostReach State.reset 2 = false ∧
    (((0xFFFA0005 : Word) >>> 16).setWidth 16 = ~~~((0xFFFA0005 : Word).setWidth 16)) ∧
    (((0xFFFA0006 : Word) >>> 16).setWidth 16 ≠ ~~~((0xFFFA0006 : Word).setWidth 16)) ∧
    (func s0 1).busy = false ∧ (func (modFunc s0 1 fun F => { F with busy := true }) 1).busy = true ∧
    configReach s0 1 = true ∧ configReach State.reset 2 = false := by decide +kernel
theorem test_doorbell : (func (nextOf (exec (.registerWrite 1 (.bar0 0x10 4) 0xFFFA0005) s0)) 1).latched.map (·.seq) = some 5 := by decide +kernel

/-! ## The mailbox -/

/-- The header of R292 for sequence 1, with its complements, and a payload. -/
def mailBytes (typ : Nat) (payload : List Byte) : List Byte :=
  leBytes 2 typ ++ leBytes 2 1 ++ leBytes 4 payload.length ++ zeros 4 ++ leBytes 2 (65535 - typ) ++ zeros 2 ++
  leBytes 4 (2 ^ 32 - 1 - payload.length) ++ zeros 4 ++ leBytes 8 0x77 ++ zeros 32 ++ payload

/-- A request waits on function f. -/
def mailed (s : State) (f : Fin 5) (bytes : List Byte) : State :=
  modFunc s f fun F => { F with busy := true, latched := some { seq := 1, time := 0, bytes := tabSplice 0 [] 0 bytes } }

/-- The request is asked on f, and its payload and state are such that P. -/
def asked (s : State) (f : Fin 5) (typ len : Nat) (payload : List Byte) (P : State → List Byte → Bool) : Bool :=
  match requestOf (mailed s f (mailBytes typ payload)) f typ with
  | some bs => decide (len ≤ (reqPayload bs).length) && P (mailed s f (mailBytes typ payload)) (reqPayload bs)
  | none => false

theorem asked_asks {s : State} {f : Fin 5} {typ len : Nat} {payload : List Byte} {P : State → List Byte → Bool}
    (h : asked s f typ len payload P = true) :
    ∃ bs b, Asks (mailed s f (mailBytes typ payload)) f typ len bs b ∧ P (mailed s f (mailBytes typ payload)) b = true := by
  unfold asked at h
  split at h
  · next bs hb =>
    rw [Bool.and_eq_true, decide_eq_true_eq] at h
    exact ⟨bs, reqPayload bs, ⟨hb, rfl, h.1⟩, h.2⟩
  · exact absurd h (by decide)

/-- The five ways of a header, each with the request that meets it. -/
def headBad : List Byte := leBytes 2 1 ++ leBytes 2 1 ++ zeros 60
theorem witness_headers :
    (let at_ (bytes : List Byte) (f : Fin 5) : Option Status := (waitingRequest (mailed s0 f bytes) f).bind (headerStatus (mailed s0 f bytes) f)
     removalWaits s0 0 = false ∧ at_ headBad 0 = some .complementMismatch ∧ at_ (mailBytes 0xFF []) 0 = some .descInvalid ∧
     at_ (mailBytes 0x101 []) 0 = some .accessDenied ∧ at_ (mailBytes 1 []) 0 = none ∧
     opKnown 0x0A [2] = false ∧ opKnown 1 [] = true) := by decide +kernel

def any_ (_ : State) (_ : List Byte) : Bool := true
theorem witness_read_requests :
    asked s0 0 1 0 [] any_ = true ∧
    asked s0 0 6 16 (zeros 16) (fun _ b => spareRsvd b && fld b 0 1 == 0) = true ∧
    asked s0 0 6 16 (1 :: zeros 15) (fun _ b => spareRsvd b && fld b 0 1 == 1) = true ∧
    asked s0 0 8 32 (3 :: 4 :: zeros 30) (fun _ b => meterRsvd b && fld b 0 1 == 3) = true ∧
    asked s0 1 0x10D 16 (zeros 16) (fun _ b => zeroAt b 1 7 && fld b 0 1 == 0) = true ∧
    asked s0 1 0x10D 16 (2 :: zeros 15) (fun _ b => zeroAt b 1 7 && fld b 0 1 == 2) = true ∧
    asked { s0 with identity := true } 1 0x106 48 (1 :: zeros 47) (fun s b => s.identity && fld b 0 1 == 1 && zeroAt b 1 3 && zeroAt b 0x28 8) = true ∧
    asked s0 1 0x10B 32 (zeros 32) (fun s b => dumpRsvd b && (polder s 0).dump.isNone) = true := by decide +kernel

/-- A module without a layout, as POLDER_CREATE and FW_WRITE need it. -/
def bare : State := { s0 with layout := .none, polders := State.reset.polders }
def fwAt (st : FwState) : State := { bare with fw := { Fw.reset with st := st, length := 1024, written := [(0, 1024)] } }

theorem witness_firmware :
    asked bare 0 4 16 (zeros 16) (fun _ b => fld b 0 1 == 0 && zeroAt b 1 3 && zeroAt b 8 4 && zeroAt b 0xC 4) = true ∧
    asked bare 0 4 16 (1 :: zeros 4 ++ [4] ++ zeros 10) (fun s b => fld b 0 1 == 1 && fld b 4 4 == 1024 && fwLengthOk (fld b 4 4) &&
      s.layout == .none && s.fw.st == .idle && zeroAt b 8 4) = true ∧
    asked bare 0 4 16 (1 :: zeros 15) (fun _ b => !fwLengthOk (fld b 4 4)) = true ∧
    asked s0 0 4 16 (1 :: zeros 4 ++ [4] ++ zeros 10) (fun s _ => s.layout != .none) = true ∧
    asked (fwAt .staging) 0 4 16 (2 :: zeros 7 ++ [1] ++ zeros 7 ++ [9]) (fun s b => fld b 8 4 == 1 && decide (17 ≤ b.length) &&
      s.fw.st == .staging && decide (fld b 4 4 + 1 ≤ s.fw.length)) = true ∧
    asked (fwAt .staging) 0 4 16 (2 :: zeros 15) (fun _ b => fld b 8 4 == 0) = true ∧
    asked (fwAt .staging) 0 4 16 (2 :: zeros 4 ++ [4] ++ zeros 2 ++ [1] ++ zeros 7 ++ [9]) (fun s b => decide (s.fw.length < fld b 4 4 + 1)) = true ∧
    asked (fwAt .idle) 0 4 16 (2 :: zeros 15) (fun s _ => s.fw.st == .idle) = true ∧
    asked (fwAt .staging) 0 4 16 (3 :: zeros 15) (fun s b => fld b 0 1 == 3 && fwComplete s.fw && !imageOk s.fuses s.fw.staged) = true ∧
    asked bare 0 4 16 (4 :: zeros 15) (fun s b => fld b 0 1 == 4 && s.fw.st == .idle) = true ∧
    fwComplete { (fwAt .staging).fw with written := [(1, 1024)] } = false ∧ (fwAt .programming).fw.st = .programming := by decide +kernel

def recovering (begun : Bool) : State := { bare with boot := .recovery, fw := { Fw.reset with recBegun := begun, recLength := 1024, recNext := 8 }, flash := { State.reset.flash with image := [] } }
theorem witness_recovery :
    asked (recovering false) 0 5 16 (1 :: zeros 4 ++ [4] ++ zeros 10) (fun _ b => fld b 0 1 == 1 && fwLengthOk (fld b 4 4) && zeroAt b 1 3 && zeroAt b 0xC 4 && zeroAt b 8 4) = true ∧
    asked (recovering false) 0 5 16 (1 :: zeros 15) (fun _ b => !fwLengthOk (fld b 4 4)) = true ∧
    asked (recovering false) 0 5 16 (2 :: zeros 15) (fun s b => !s.fw.recBegun && fld b 8 4 == 0) = true ∧
    asked (recovering true) 0 5 16 (2 :: zeros 3 ++ [8] ++ zeros 3 ++ [1] ++ zeros 7 ++ [9]) (fun s b => s.fw.recBegun && fld b 4 4 == s.fw.recNext &&
      decide (s.fw.recNext + fld b 8 4 ≤ s.fw.recLength) && decide (16 + fld b 8 4 ≤ b.length)) = true ∧
    asked (recovering true) 0 5 16 (3 :: zeros 15) (fun s b => fld b 0 1 == 3 && !imageOk s.fuses s.flash.image) = true := by decide +kernel

theorem witness_recovery_ready : asked { s0 with fw := (recovering true).fw } 0 5 16 (3 :: zeros 15) (fun s b => fld b 0 1 == 3 && s.boot == .ready) = true := by
  decide +kernel

def askCreate (n : Byte) : List Byte := [n, 0, 0, 0xFF, 0xFF, 0xFF, 0xFF, 0xFF] ++ zeros 8
def shutDown : State := modPolder s0 0 fun P => { P with st := .closed }
theorem witness_layouts :
    asked bare 0 2 16 (askCreate 1) (fun s b => !createDenied s && createOk b) = true ∧
    asked bare 0 2 16 (askCreate 3) (fun s b => !createDenied s && createOk b) = true ∧
    asked bare 0 2 16 (askCreate 4) (fun s b => !createDenied s && !createOk b) = true ∧
    asked s0 0 2 16 (askCreate 1) (fun s _ => createDenied s) = true ∧
    asked s0 0 3 8 (1 :: zeros 7) (fun s _ => (polder s 0).st == .opened) = true ∧
    asked shutDown 0 3 8 (1 :: zeros 7) (fun s b => (polder s 0).st == .closed && (polder s 1).st == .absent && (polder s 2).st == .absent &&
      (polder s 3).st == .absent && fld b 0 1 == layoutCode s.layout && s.layout != .none && zeroAt b 1 7) = true ∧
    asked shutDown 0 3 8 (2 :: zeros 7) (fun s b => fld b 0 1 != layoutCode s.layout) = true := by decide +kernel

theorem witness_open_close :
    asked shutDown 1 0x101 64 (zeros 64) (fun s b => openFields b && (diesOf s 0).all (fun d => !s.failedDies.get d) &&
      accessOk (modPolder s 0 fun P => { P with u := openU s (diesOf s 0) (fld b 0 1) (ringSize (fld b 2 1)) }) 0 true (fld b 0x28 8) (fld b 0x30 8)) = true ∧
    asked shutDown 1 0x101 64 (2 :: zeros 63) (fun _ b => !openFields b) = true ∧
    asked { shutDown with failedDies := shutDown.failedDies.set 3 true } 1 0x101 64 (zeros 64) (fun s b => openFields b && s.failedDies.get 3 &&
      (diesOf s 0).contains 3) = true ∧
    asked shutDown 1 0x101 64 (zeros 0x2C ++ [0x80] ++ zeros 4 ++ [0x10] ++ zeros 14) (fun s b => openFields b && decide (0 < fld b 0x30 8) &&
      !accessOk (modPolder s 0 fun P => { P with u := openU s (diesOf s 0) (fld b 0 1) (ringSize (fld b 2 1)) }) 0 true (fld b 0x28 8 + 0) 1) = true ∧
    asked s0 1 0x102 0 [] (fun s _ => (polder s 0).discard.isNone && (polder s 0).st == .opened) = true ∧
    ([PState.closing, .faultedClosing].Forall fun st => asked (modPolder s0 0 fun P => { P with st := st }) 1 0x102 0 [] (fun s _ =>
      (polder s 0).discard.isNone && (polder s 0).st == st) = true) := by decide +kernel

/-- The plaintext that KEY_LOAD accepts; which ciphertext holds it only the module's own key pair says, of which no
proof sees a value. -/
def keyText : List Byte :=
  leBytes 4 0x4A4B5931 ++ leBytes 4 9 ++ leBytes 8 Config.serial.toNat ++ zeros 16 ++ leBytes 2 3 ++ zeros 14 ++ List.replicate 32 5
def noQueues : State := modPolder { s0 with identity := true, meterKey := true } 0 fun P => { P with queues := Polder.reset.queues }
theorem witness_keys :
    (let denied (s : State) (typ : Nat) (len : Nat) : Bool := match waitingRequest (mailed s 1 (mailBytes typ (zeros len))) 1 with
       | some r => headAgrees (reqBytes r) && headKnown r && reqType (reqBytes r) == typ && !removalWaits (mailed s 1 (mailBytes typ (zeros len))) 1
       | none => false
     denied s0 0x103 392 = true ∧ denied s0 0x106 48 = true ∧ s0.identity = false ∧
     denied { s0 with identity := true } 0x103 392 = true ∧ (queue s0 0 0).st ≠ .absent) ∧
    asked noQueues 1 0x103 392 (zeros 392) (fun s b => s.identity && (List.finRange 16).all (fun q => (queue s 0 q).st == .absent) && zeroAt b 4 4) = true ∧
    asked noQueues 1 0x106 48 (zeros 48) (fun s b => s.identity && fld b 0 1 == 0 && zeroAt b 1 3 && zeroAt b 0x28 8) = true ∧
    asked s0 1 0x10D 16 (1 :: zeros 15) (fun s b => fld b 0 1 == 1 && zeroAt b 1 7 && !s.meterKey) = true ∧
    asked noQueues 1 0x10D 16 (1 :: zeros 15) (fun s _ => s.meterKey) = true ∧
    keyText.length = 80 ∧ fld keyText 0 4 = 0x4A4B5931 ∧ fld keyText 4 4 = 9 ∧ fld keyText 0x22 1 = 0 ∧ zeroAt keyText 0x23 13 = true := by decide +kernel

theorem witness_debug :
    asked bare 0 0x0A 8 (zeros 8) (fun _ b => fld b 0 1 == 0 && zeroAt b 1 7) = true ∧
    asked bare 0 0x0A 8 (0 :: 1 :: zeros 6) (fun _ b => fld b 0 1 == 0 && !zeroAt b 1 7) = true ∧
    asked bare 0 0x0A 776 (1 :: zeros 775) (fun s b => fld b 0 1 == 1 && zeroAt b 1 7 && s.challenge.isNone) = true ∧
    asked bare 0 0x0A 776 (1 :: 1 :: zeros 774) (fun _ b => !zeroAt b 1 7) = true := by decide +kernel

def askQueue : List Byte := [1, 2, 0, 0] ++ leBytes 4 64 ++ leBytes 8 0x10000 ++ leBytes 8 0x20000 ++ zeros 40
theorem witness_queues :
    asked s0 1 0x104 64 askQueue (fun s b => queueCreateOk s 0 b && fld b 4 4 == 64) = true ∧
    asked s0 1 0x104 64 (0 :: askQueue.drop 1) (fun s b => !queueCreateOk s 0 b) = true ∧
    asked s0 1 0x105 8 (zeros 8) (fun s b => (queue s 0 0).st == .running && fld b 0 1 == 0 && zeroAt b 1 7 &&
      (List.finRange 16).all fun q => !(queue s 0 q).destroying) = true ∧
    asked s0 1 0x105 8 (16 :: zeros 7) (fun _ b => fld b 0 1 == 16) = true ∧
    (let s := mailed (modPolder s0 0 fun P => { P with queues := P.queues.set 0 { q0 with destroying := true } }) 1 (mailBytes 0x105 (zeros 8))
     destroyingQueue (polder s 0) = some 0 ∧ (waitingRequest s 1).isSome = true ∧ (polder s 0).inflight = []) := by decide +kernel

def ev0 : Event := { code := 0x0301, polder := 0, seq := 1, time := 0, payload := zeros 16 }
theorem witness_admin :
    asked (modFunc s0 1 fun F => { F with events := [ev0, ev0] }) 1 0x10C 4 (125 :: zeros 3) (fun s b => fld b 0 2 == 125 && zeroAt b 2 2 &&
      (func s 1).events.length == 2 && (func s 1).events.all fun e => e.payload.length == 16) = true ∧
    asked s0 0 0x10C 4 (126 :: zeros 3) (fun _ b => fld b 0 2 == 126) = true ∧
    asked shutDown 0 9 16 (0 :: 1 :: zeros 14) (fun s b => fld b 1 1 == 1 && zeroAt b 2 6 && numberIdle (polder s 0)) = true ∧
    asked (busy [cmd0 0x13 .done]) 0 9 16 (zeros 16) (fun s _ => !numberIdle (polder s 0)) = true ∧
    asked s0 0 9 16 (4 :: zeros 15) (fun _ b => fld b 0 1 == 4) = true ∧
    asked s0 1 0x10B 32 (4 :: zeros 23 ++ [1] ++ zeros 7) (fun s b => fld b 0 1 == 4 && dumpRsvd b && liveRange (fld b 8 8) (fld b 0x18 4) &&
      (func s 1).live.isNone && !debugActive s && debugActive { s with fuses := { s.fuses with lifecycle := 1 } }) = true ∧
    asked s0 1 0x10B 32 (4 :: zeros 31) (fun _ b => !liveRange (fld b 8 8) (fld b 0x18 4)) = true ∧
    asked s0 0 7 8 (leBytes 2 1200 ++ zeros 6) (fun _ b => fld b 0 2 == 1200 && zeroAt b 2 6) = true ∧
    asked s0 0 7 8 (leBytes 2 2801 ++ zeros 6) (fun _ b => fld b 0 2 == 2801) = true := by decide +kernel

def askRing (op n : Nat) (base : Nat) : List Byte := leBytes 8 op ++ leBytes 8 base ++ leBytes 4 n ++ zeros 12
def gaugeRaw (id flags : Nat) : List Byte := leBytes 2 id ++ leBytes 1 flags ++ leBytes 1 0 ++ zeros 28
theorem witness_gauges :
    asked s0 1 0x107 32 (askRing 0 16 (2 ^ 40)) (fun s b => zeroAt b 2 2 && zeroAt b 4 4 && addrHiOk b 8 && zeroAt b 0x14 12 && addrOf b 8 % 4096 == 0 &&
      pow2In (fld b 0x10 4) 16 65536 && accessOk s 0 true (addrOf b 8) (512 * 16)) = true ∧
    asked s0 1 0x107 32 (askRing 0 16 (2 ^ 39)) (fun s b => !accessOk s 0 true (addrOf b 8) (512 * 16)) = true ∧
    asked s0 1 0x107 32 (askRing 0 15 (2 ^ 40)) (fun _ b => !pow2In (fld b 0x10 4) 16 65536) = true ∧
    asked s0 1 0x107 32 (leBytes 2 1 ++ leBytes 2 1 ++ zeros 28 ++ gaugeRaw 0x3FF 0) (fun s b => fld b 2 2 == 1 && decide (64 ≤ b.length) &&
      gaugeEntryOk ((b.drop 32).take 32) && !(readGaugeEntry ((b.drop 32).take 32)).remove &&
      (gaugeOf (polder s 0) 0x3FF).isNone && !spansMeet (managedSpans (polder s 0).gauges) && (polder s 0).staged.isEmpty) = true ∧
    asked s0 1 0x107 32 (leBytes 2 1 ++ leBytes 2 1 ++ zeros 28 ++ gaugeRaw 5 1) (fun s b => gaugeEntryOk ((b.drop 32).take 32) &&
      (readGaugeEntry ((b.drop 32).take 32)).remove && (gaugeOf (polder s 0) 5).isSome &&
      !spansMeet (managedSpans (applyEntry (polder s 0).gauges (readGaugeEntry ((b.drop 32).take 32))))) = true ∧
    asked s0 1 0x107 32 (leBytes 2 1 ++ leBytes 2 1 ++ zeros 28 ++ gaugeRaw 0x400 0) (fun _ b => !gaugeEntryOk ((b.drop 32).take 32)) = true ∧
    asked s0 1 0x108 32 (askRing 0 64 (2 ^ 40)) (fun s b => pow2In (fld b 0x10 4) 64 1048576 && accessOk s 0 true (addrOf b 8) (64 + 16 * 64)) = true ∧
    asked s0 1 0x108 32 (askRing 0 63 (2 ^ 40)) (fun _ b => !pow2In (fld b 0x10 4) 64 1048576) = true ∧
    asked s0 1 0x108 32 (leBytes 2 1 ++ leBytes 2 1 ++ zeros 28 ++ leBytes 4 0x2C0007 ++ leBytes 4 0xFFFF0005 ++ zeros 8) (fun _ b => fld b 0 2 == 1) = true := by decide +kernel

def groupRaw (id : Nat) : List Byte :=
  leBytes 4 (id + 0xFF000000) ++ leBytes 4 0x3F800000 ++ zeros 44
theorem witness_groups :
    asked s0 1 0x109 32 (leBytes 2 1 ++ zeros 30 ++ zeros 48) (fun _ b => zeroAt b 2 30 && decide (32 + 48 ≤ b.length)) = true ∧
    asked s0 1 0x109 32 (leBytes 2 84 ++ zeros 30) (fun _ b => fld b 0 2 == 84) = true ∧
    asked s0 1 0x10A 32 (leBytes 2 1 ++ zeros 30 ++ zeros 32) (fun s b => schedEntryOk (polder s 0) ((b.drop 32).take 32)) = true ∧
    asked s0 1 0x10A 32 (leBytes 2 1 ++ zeros 30 ++ [64] ++ zeros 31) (fun s b => !schedEntryOk (polder s 0) ((b.drop 32).take 32)) = true := by decide +kernel

def dumped : State := modPolder s0 0 fun P => { P with dump := some { length := 8192, later := 0, snaps := [] } }
theorem witness_dumps :
    asked dumped 1 0x10B 32 (1 :: zeros 7 ++ leBytes 8 8128 ++ leBytes 8 (2 ^ 40) ++ leBytes 4 64 ++ zeros 4) (fun s b => fld b 0 1 == 1 && dumpRsvd b &&
      userRange s 0 (fld b 0x10 8) 64 && decide (fld b 8 8 + 64 ≤ 8192) && s.poison.isEmpty) = true ∧
    asked dumped 1 0x10B 32 (1 :: zeros 7 ++ leBytes 8 0 ++ leBytes 8 0x100000000 ++ leBytes 4 64 ++ zeros 4) (fun s b => !userRange s 0 (fld b 0x10 8) 64) = true ∧
    asked s0 1 0x10B 32 (2 :: zeros 31) (fun s b => fld b 0 1 == 2 && dumpRsvd b && (polder s 0).st == .opened && (polder s 0).discard.isNone) = true ∧
    asked { dumped with poison := [(dumpBase (firstDie dumped 0) + 8128, true)] } 1 0x10B 32 (1 :: zeros 7 ++ leBytes 8 8128 ++ leBytes 8 (2 ^ 40) ++
      leBytes 4 64 ++ zeros 4) (fun s _ => meetsBad s (dumpBase (firstDie s 0) + 8128) 64) = true ∧
    asked (modPolder s0 0 fun P => { P with st := .faulted }) 1 0x10B 32 (2 :: zeros 31) (fun s _ => (polder s 0).st == .faulted) = true ∧
    asked dumped 1 0x10B 32 (3 :: zeros 31) (fun _ b => fld b 0 1 == 3 && dumpRsvd b) = true := by decide +kernel

theorem witness_meter :
    asked s0 0 8 32 (0 :: 4 :: zeros 2 ++ leBytes 4 64 ++ leBytes 8 0x1000 ++ zeros 16) (fun _ b => meterRsvd b && fld b 1 1 == 4 && fld b 0 1 == 0 &&
      isPow2 (fld b 4 4) && decide (64 ≤ fld b 4 4) && fld b 8 8 % 4096 == 0) = true ∧
    asked s0 0 8 32 (0 :: 0 :: zeros 30) (fun _ b => meterRsvd b && fld b 4 4 == 0) = true ∧
    asked s0 0 8 32 (0 :: 0 :: zeros 2 ++ leBytes 4 65 ++ zeros 24) (fun _ b => !isPow2 (fld b 4 4)) = true ∧
    asked s0 0 8 32 (1 :: 0 :: zeros 30) (fun s b => meterRsvd b && decide ((chain s 0).released + fld b 4 4 ≤ (chain s 0).seq - (chain s 0).buffer.length)) = true ∧
    asked s0 0 8 32 (1 :: 0 :: zeros 2 ++ [1] ++ zeros 27) (fun s b => decide ((chain s 0).seq < (chain s 0).released + fld b 4 4)) = true ∧
    asked s0 0 8 32 (2 :: 3 :: zeros 14 ++ [31, 0] ++ leBytes 2 10000 ++ zeros 12) (fun _ b => meterRsvd b && fld b 0x10 1 == 31 && fld b 0x12 2 == 10000) = true ∧
    asked s0 0 8 32 (2 :: 4 :: zeros 30) (fun _ b => meterRsvd b && fld b 1 1 == 4) = true := by decide +kernel

/-! ## Ring commands -/

def dA : Nat := 2 ^ 40 + 0x1000
def put (s : State) (a : Nat) (bs : List Byte) : State := { s with mem := tabSplice 0 s.mem a bs }

/-- A descriptor at dA for an entry at the head of queue 0. -/
def ring (desc : List Byte) : State := put s0 dA desc
def eOf (op : Nat) : Entry := ent op dA

/-- The descriptor of R241: source, destination, lines, length, strides, endpoints, element code, flags, formats. -/
def sluice (src dst lines len ss ds ends elem flags fmts : Nat) (rest : List Byte) : List Byte :=
  leBytes 8 src ++ leBytes 8 dst ++ leBytes 4 lines ++ leBytes 4 len ++ leBytes 4 ss ++ leBytes 4 ds ++ leBytes 1 ends ++
  leBytes 1 elem ++ leBytes 1 flags ++ leBytes 1 fmts ++ rest ++ zeros (92 - rest.length)
def A0 : Nat := 2 ^ 40 + 0x10000
def B0 : Nat := 2 ^ 40 + 0x20000

theorem witness_start : startOk s0 0 0 (ent 0x13 0) 0x13 = true ∧ startOk s0 0 0 (ent 0x12 0) 0x13 = false ∧
    startOk s0 0 1 (ent 0x13 0) 0x13 = false ∧ (Instr.nop 0 0 (ent 0x13 0)).ringOpcode = some (0x13, ent 0x13 0) ∧
    (∀ op ∈ (List.range 20).drop 1, startOk (ring []) 0 0 (if op = 16 ∨ op = 17 then { eOf op with inl := 5 } else eOf op) (BitVec.ofNat 8 op) = true) ∧
    ((entryChecks (put s0 dA [9]) (.stepCmd 0 0 (eOf 0x0B))).map fun x => x.2.2.2) = some (some Status.complementMismatch) ∧
    (let e := { ent 0x13 0 with waitEv := 3, waitVal := 1 }
     headOk s0 0 0 e 0x13 = true ∧ mayStart s0 0 0 e = false) := by decide +kernel
theorem test_nop : (polder (nextOf (exec (.nop 0 0 (ent 0x13 0)) s0)) 0).inflight.map (·.res) = [some .ok] := by decide +kernel

def evEnt (op ev value : Nat) : Entry := { ent op 0 with inl := BitVec.ofNat 192 (ev + value * 2 ^ 32) }
def waiting0 : State := modPolder (busy [cmd0 0x11 (.wait 4095 7)]) 0 fun P => { P with queues := P.queues.set 1 { q0 with taken := 0 } }
theorem witness_events :
    startOk s0 0 0 (evEnt 0x10 4095 0) 0x10 = true ∧ inlEvent (evEnt 0x10 4095 0) = 4095 ∧ startOk s0 0 0 (evEnt 0x11 4095 7) 0x11 = true ∧
    inlValue (evEnt 0x11 4095 7) = 7 ∧ tabGet (0 : Word) (polder (startCmd s0 0 0 (evEnt 0x11 4095 7)) 0).events 4095 < 7 ∧
    startOk waiting0 0 1 (evEnt 0x10 4095 7) 0x10 = true ∧ (liveCmd waiting0 0 0 1).map (·.body) = some (.wait 4095 7) ∧
    startOk s0 0 0 (ent 0x0F 0) 0x0F = true ∧ markOk (ent 0x0F 0) = true ∧ 0 < traceEntries (polder s0 0) ∧ mayTake s0 0 0 = true ∧ inTurn s0 0 0 = true ∧
    entryCompOk { ent 0x13 0 with comp := 0 } = false ∧ entryFieldsOk (ent 0x14 0) = false ∧ entryCompOk (ent 0x14 0) = true := by decide +kernel
theorem test_signal_wakes : (polder (nextOf (exec (.eventSignal 0 1 (evEnt 0x10 4095 7)) waiting0)) 0).inflight.map (·.res) = [none, some .ok] ∧
    (polder (signal waiting0 0 4095 7) 0).inflight.map (·.res) = [some .ok] := by decide +kernel
theorem test_wait_waits : (polder (nextOf (exec (.eventWait 0 0 (evEnt 0x11 3 1)) s0)) 0).inflight.map (·.res) = [none] := by decide +kernel

def refusedRead : HostRead := { granted := false, data := [] }
/-- Sluice descriptors: FILL, MOVE inside, transposed, from and to host memory, empty, GATHER, SCATTER. -/
theorem witness_copies :
    (let ok (op : Nat) (desc : List Byte) (P : SlDesc → Bool) : Bool :=
      startOk (ring desc) 0 0 (eOf op) (BitVec.ofNat 8 op) && (slChecks (ring desc) 0 (eOf op)).isNone && (ring desc).poison.isEmpty &&
      !(slDesc (ring desc) (eOf op)).checked && !(slDesc (ring desc) (eOf op)).sealed_ && !(slDesc (ring desc) (eOf op)).peer && P (slDesc (ring desc) (eOf op))
     let apart (d : SlDesc) : Bool := !areasMeet d.src d.lines d.sbytes d.sstride d.dst d.dlines d.dbytes d.dstride
     ok 4 (sluice 0 B0 2 3 0 2 0 0 0 0 (zeros 4 ++ [0xF])) (fun d => !slEmpty d) = true ∧
     ok 3 (sluice A0 B0 2 3 12 12 0 3 0 0 []) (fun d => !slEmpty d && !d.hostSrc && !d.hostDst && apart d) = true ∧
     ok 3 (sluice A0 B0 2 3 12 8 0 3 1 0 []) (fun d => !slEmpty d && d.transpose && apart d) = true ∧
     ok 3 (sluice A0 B0 0 3 12 12 0 3 0 0 []) (fun d => slEmpty d) = true ∧
     ok 3 (sluice 0x1001 B0 2 3 12 12 1 3 0 0 []) (fun d => !slEmpty d && d.hostSrc) = true ∧
     ok 3 (sluice A0 0x1001 2 3 12 12 2 3 0 0 []) (fun d => !slEmpty d && d.hostDst) = true ∧
     ok 8 (sluice A0 B0 1 4 4 4 0 1 0 0 (zeros 12 ++ leBytes 8 (A0 + 0x1000) ++ [1])) (fun d => !slEmpty d && apart d &&
       decide (memNat (ring []) d.index 4 < d.lines)) = true ∧
     ok 9 (sluice A0 B0 1 4 4 4 0 1 0 0 (zeros 12 ++ leBytes 8 (A0 + 0x1000) ++ [1])) (fun d => !slEmpty d &&
       !areasMeet d.src d.icount d.sbytes d.sstride d.dst d.lines d.dbytes d.dstride) = true ∧
     (let s := put (ring (sluice A0 B0 1 4 4 4 0 1 0 0 (zeros 12 ++ leBytes 8 (A0 + 0x1000) ++ [1]))) (A0 + 0x1000) [1]
      startOk s 0 0 (eOf 8) 8 = true ∧ slChecks s 0 (eOf 8) = none ∧ memNat s (A0 + 0x1000) 4 = 1)) := by decide +kernel
/-- Three 4-bit elements of the pattern 0xF: the pad nibble is zero (R34). -/
theorem test_fill : memBytes (nextOf (exec (.fill 0 0 (eOf 4)) (ring (sluice 0 B0 2 3 0 2 0 0 0 0 (zeros 4 ++ [0xF]))))) B0 4 =
    [0xFF, 0x0F, 0xFF, 0x0F] := by decide +kernel
theorem test_transpose : memBytes (nextOf (exec (.move 0 0 (eOf 3) refusedRead) (put (ring (sluice A0 B0 2 2 2 2 0 1 1 0 [])) A0 [1, 2, 3, 4]))) B0 4 =
    [1, 3, 2, 4] := by decide +kernel
theorem test_gather_index : (polder (nextOf (exec (.gather 0 0 (eOf 8)) (put (ring (sluice A0 B0 1 4 4 4 0 1 0 0 (zeros 12 ++ leBytes 8 (A0 + 0x1000) ++ [1])))
    (A0 + 0x1000) [1]))) 0).inflight.map (·.res) = [some .descInvalid] := by decide +kernel

/-- The descriptor of CRC (R436): source, lines, bytes, stride, result, polynomial, flags, init, inversion, expected. -/
def crcDesc (n poly flags init fxor exp : Nat) : List Byte :=
  leBytes 8 A0 ++ leBytes 4 1 ++ leBytes 4 n ++ leBytes 4 n ++ zeros 4 ++ leBytes 8 B0 ++ leBytes 1 poly ++ leBytes 1 flags ++ zeros 6 ++
  leBytes 8 init ++ leBytes 8 fxor ++ leBytes 8 exp
def bucket0 : List Byte := sluice A0 B0 1 2 4 8 0 0 0 0x96 (leBytes 4 0x40000000)
theorem witness_bucket_crc :
    startOk (ring bucket0) 0 0 (eOf 6) 6 = true ∧ slChecks (ring bucket0) 0 (eOf 6) = none ∧ slEmpty (slDesc (ring bucket0) (eOf 6)) = false ∧
    (let d := slDesc (ring bucket0) (eOf 6)
     areasMeet d.src d.lines d.sbytes d.sstride d.dst d.lines d.dbytes d.dstride = false) ∧
    startOk (ring (crcDesc 9 0 3 0xFFFFFFFF 0xFFFFFFFF 0)) 0 0 (eOf 5) 5 = true ∧ crcChecks (ring (crcDesc 9 0 3 0xFFFFFFFF 0xFFFFFFFF 0)) 0 (eOf 5) = none := by decide +kernel
/-- 2 × 1.5 + 0 and 2 × (−1) + 0, from BF16 into FP32 (R254). -/
theorem test_bucket : memBytes (nextOf (exec (.bucketAdd 0 0 (eOf 6)) (put (ring bucket0) A0 [0xC0, 0x3F, 0x80, 0xBF]))) B0 8 =
    [0, 0, 0x40, 0x40, 0, 0, 0, 0xC0] := by decide +kernel

def done0 (st : Status) (warn : BitVec 16) : State := busy [{ cmd0 0x13 .done with res := some st, warn := warn }]
theorem witness_completion : ((polder (done0 .ok 0) 0).inflight.all fun c => !c.expired) = true ∧ (done0 .ok 0).boot = .ready ∧ (polder (done0 .ok 0) 0).st = .opened ∧ (polder (done0 .ok 0) 0).discard = none ∧
    (queue (done0 .ok 0) 0 0).st ≠ .error ∧ ((polder (done0 .timeout 2) 0).inflight.filter fun x => x.q = 0).map (·.res) = [some .timeout] ∧
    ((polder (done0 .ok 2) 0).inflight.filter fun x => x.q = 0).map (·.warn) = [2] := by decide +kernel
theorem test_completion_warns : tabGet 0 (nextOf (exec (.commandCompletion 0 0) (done0 .ok 2))).hostMem 0x1004 = BitVec.ofNat 8 (statusCode .okWarn) := by decide +kernel

/-! ## Matrix commands -/

def tens (addr lines len stride fmt : Nat) : List Byte :=
  leBytes 8 addr ++ zeros 8 ++ leBytes 4 lines ++ leBytes 4 len ++ leBytes 4 stride ++ leBytes 1 fmt ++ zeros 3
/-- A layer of m × k × n in FP4 with C in FP32 (R99). -/
def layer0 (m k n split : Nat) : List Byte :=
  tens A0 m k 512 1 ++ tens B0 n k 512 1 ++ tens (B0 + 0x10000) m n 128 9 ++ zeros 32 ++ leBytes 2 0 ++ leBytes 2 0xFFFF ++
  leBytes 2 0 ++ leBytes 2 0xFFFF ++ zeros 2 ++ leBytes 1 split ++ zeros 1 ++ leBytes 2 16 ++ leBytes 2 16 ++ leBytes 2 0 ++ leBytes 2 1 ++ zeros 108
def mmS (m k n split : Nat) : State := ring (layer0 m k n split)
theorem witness_mm :
    (∀ x ∈ [(2, 3, 2, 1), (0, 3, 2, 1), (2, 0, 2, 1), (2, 512, 2, 2)],
      startOk (mmS x.1 x.2.1 x.2.2.1 x.2.2.2) 0 0 (eOf 1) 1 = true ∧ mmChecks (mmS x.1 x.2.1 x.2.2.1 x.2.2.2) 0 (eOf 1) = none) ∧
    (readLayer (mmS 0 3 2 1) dA).empty = true ∧ (readLayer (mmS 2 3 2 1) dA).empty = false ∧ 0 < clusterCount (mmS 2 3 2 1) 0 0 1 := by decide +kernel

/-- The command as it runs. -/
def mmGo (m k n split : Nat) : State := nextOf (exec (.mm 0 0 (eOf 1)) (mmS m k n split))
/-- Lane 0 in place. -/
def mmIn (m k n split : Nat) : State := nextOf (exec (.mmClusterStart 0 0 1 0) (mmGo m k n split))
def laneOf (s : State) (k : Nat) : Option MmLane := (liveMm s 0 0 1).bind fun x => laneAt x.2 k
theorem witness_mm_lane :
    ((laneOf (mmGo 2 3 2 1) 0).map fun l => (l.started, l.next, l.stop)) = some (false, 0, 1) ∧
    slotFree (cluster (mmGo 2 3 2 1) 0) 0 1 = true ∧ ((liveMm (mmGo 2 3 2 1) 0 0 1).map fun x => x.2.lanes.any fun y => waiting y.2) = some true ∧
    ((laneOf (mmIn 2 3 2 1) 0).map fun l => (l.started, l.deque)) = some (true, [0]) := by decide +kernel
/-- An idle lane with a victim: lane 1 of a command with two items in lane 0. -/
def mmSteal : State :=
  modCmd (mmIn 2 3 2 1) 0 0 1 fun c => match c.body with
    | .mm r => { c with body := .mm { r with lanes := [(0, { started := true, next := 2, stop := 2, deque := [0, 1], item := none, sub := 0, bank := 0 }),
        (1, { started := true, next := 0, stop := 0, deque := [], item := none, sub := 0, bank := 0 })] } }
    | _ => c
theorem witness_mm_steal : ((laneOf mmSteal 1).map fun l => (l.started, idleLane l)) = some (true, true) ∧
    ((liveMm mmSteal 0 0 1).bind fun x => (victimOrder mmSteal 0 x.2 1).find? (hasItem x.2)) = some 0 ∧
    (laneOf mmSteal 0).map (·.deque) = some ([0] ++ [1]) := by decide +kernel
def mmRefill : State :=
  modCmd (mmIn 2 3 2 1) 0 0 1 fun c => match c.body with
    | .mm r => { c with body := .mm { r with lanes := [(0, { started := true, next := 2, stop := 100, deque := List.replicate 16 0, item := none, sub := 0, bank := 0 })] } }
    | _ => c
theorem witness_mm_refill : ((laneOf mmRefill 0).map fun l => (l.started, l.deque.length, decide (l.next < l.stop))) = some (true, 16, true) := by decide +kernel

/-- Lines apart, as a Bool. -/
def apartB (ls : List (Nat × List Byte)) : Bool := decide (ls.Pairwise fun x y => x.1 + x.2.length ≤ y.1 ∨ y.1 + y.2.length ≤ x.1)
theorem apartB_apart {ls : List (Nat × List Byte)} (h : apartB ls = true) : Apart ls := by
  unfold apartB at h
  have k := of_decide_eq_true h
  exact k

/-- The same command with block scales of A that disagree with their complements. -/
def mmTorn : State :=
  modCmd (mmIn 2 3 2 1) 0 0 1 fun c => match c.body with
    | .mm r => { c with body := .mm { r with d := { r.d with a := { r.d.a with smode := 1, scale := B0 + 0x8000 } } } }
    | _ => c
theorem witness_mm_operand : mmTorn.poison = [] ∧ ((liveMm mmTorn 0 0 1).bind fun x => ((laneAt x.2 0).filter (·.started)).bind takeItem |>.bind fun l =>
    ((x.2.subTiles (l.1 / x.2.p))[l.2.sub]?).bind fun y => operandStatus mmTorn x.2 y.1 y.2 (x.2.range l.1)) = some .complementMismatch := by decide +kernel

/-- The same command with each tile's K in two ranges. -/
def mmSplit (fin : List (Nat × Nat)) (parts : Tab (List Acc)) : State :=
  modCmd (mmIn 2 4 32 1) 0 0 1 fun c => match c.body with
    | .mm r => { c with body := .mm { r with p := 2, finished := fin, partials := parts } }
    | _ => c

/-- No watched input has changed or is written by the lines. -/
def unwatched (s : State) (ls : List (Nat × List Byte)) : Bool := s.watch.all fun w => !w.changed &&
  ls.all fun x => (List.range x.2.length).all fun i => !(w.areas.any (inArea · (x.1 + i)))

/-- Sub-tiles before the last item and of the last one: of a tile in one range with its lines apart, and of one in two ranges. -/
theorem witness_mm_drain :
    (let ready (s : State) (p : Nat) (last : Bool) : Bool := match liveMm s 0 0 1 with
      | some x => match (laneAt x.2 0).filter (·.started) with
        | some l => match takeItem l with
          | some (i, l') => match (x.2.subTiles (i / x.2.p))[l'.sub]? with
            | some (is, js) => (operandStatus s x.2 is js (x.2.range i)).isNone && x.2.p == p && (epiStatus s x.2 is js).isNone && !x.2.measure && !x.2.d.g2 &&
                (p != 1 || (decide (x.2.finished.length + (if last then 0 else 1) < x.2.items) &&
                  (!last || (decide (x.2.finished.length + 1 = x.2.items) && (nextSub l' i (x.2.subTiles (i / x.2.p)).length).item.isNone &&
                    !x.2.changed && (overlapAreas x.2).isEmpty &&
                    unwatched s (drainLines s x.2 is js (accumulate s (mmCluster s 0 x.2.d 0) l'.bank x.2 (i / x.2.p) is js (x.2.range i))))) &&
                  apartB (drainLines s x.2 is js (accumulate s (mmCluster s 0 x.2.d 0) l'.bank x.2 (i / x.2.p) is js (x.2.range i))))) &&
                decide (x.2.combined.length < tileCount x.2.d)
            | none => false
          | none => false
        | none => false
      | none => false
     ready (mmIn 2 3 32 1) 1 false = true ∧ ready (mmIn 1 1 1 1) 1 true = true ∧ ready (mmSplit [] []) 2 false = true ∧
     (mmIn 2 3 32 1).poison = [] ∧ (mmIn 1 1 1 1).poison = [] ∧ g2Target 9 = true) := by decide +kernel

/-- Both ranges of tile 0 finished by lane 0; tile 1 is still to come. -/
theorem witness_mm_combine :
    (let s := mmSplit [(0, 0), (1, 0)] [(0, List.replicate 32 (Acc.zero 0)), (1, List.replicate 32 (Acc.zero 0))]
     (match liveMm s 0 0 1 with
      | some x => x.2.p == 2 && decide (0 < tileCount x.2.d) && tileReady x.2 0 && finisher x.2 0 == some 0 && !x.2.combined.contains 0 &&
          decide (x.2.combined.length + 1 < tileCount x.2.d) && !x.2.measure && !x.2.d.g2 && !x.2.d.biasEn && !x.2.d.scaleEn &&
          !rowScaled x.2.d.a.smode && !rowScaled x.2.d.b.smode && !blockScaled x.2.d.c.smode &&
          apartB (tileLines s x.2 (x.2.subTiles 0) (tileSums x.2 0))
      | none => false) = true) := by decide +kernel
/-- 1 × 1 layer: 1.0 × 2.0 in FP4 gives 2.0 in FP32 (R59). -/
theorem test_mm_one : memBytes (nextOf (exec (.subtileDrain 0 0 1 0) (nextOf (exec (.mmClusterStart 0 0 1 0)
    (nextOf (exec (.mm 0 0 (eOf 1)) (put (put (mmS 1 1 1 1) A0 [0x2]) B0 [0x4]))))))) (B0 + 0x10000) 4 = [0, 0, 0, 0x40] := by decide +kernel

/-! ## Vector launches and updates -/

/-- The launch descriptor (R131): program, its length, the range, the report. -/
def vkDesc (len base count report : Nat) : List Byte :=
  leBytes 8 A0 ++ leBytes 4 len ++ leBytes 2 base ++ leBytes 2 count ++ zeros 128 ++ leBytes 8 report ++ zeros 104
def progAt (s : State) (prog : List DWord) : State := put s A0 (prog.flatMap fun w => leBytes 8 w.toNat)
theorem witness_launch :
    (∀ x ∈ [(progAt (ring (vkDesc 2 255 1 B0)) [0, wI 1 0 0 0 0], (1 : Nat)), (progAt (ring (vkDesc 2 0 0 B0)) [0, wI 0xFF 0 0 0 0], 2), (ring (vkDesc 0 0 1 0), 3)],
      startOk x.1 0 0 (eOf 2) 2 = true ∧ vkChecks x.1 0 (eOf 2) = none ∧ x.1.poison = []) ∧
    launchFault [0, wI 1 0 0 0 0] = none ∧ launchFault [0, wI 0xFF 0 0 0 0] = some (1, wI 0xFF 0 0 0 0, 1) ∧
    launchFault [wR 0x52 0 0 0 0 0 0] = some (0, wR 0x52 0 0 0 0 0 0, 0x0C) := by decide +kernel
/-- Plain gradient descent on FP32 values under group 0 (R197). -/
def sgd : Group :=
  { rule := 0, sched := 0xFF, skip := false, baseLr := 0x3F800000, b1 := 0, b2 := 0, eps := 0, wd := 0, trust := 0, n0 := 0, master := 9, moment := 9, policy := 0 }
/-- The update descriptor (R191) of n elements in blocks of 64. -/
def updDesc (n : Nat) : List Byte :=
  leBytes 8 A0 ++ leBytes 8 B0 ++ zeros 16 ++ leBytes 8 (B0 + 0x8000) ++ zeros 40 ++ leBytes 4 n ++ leBytes 2 64 ++ [0, 9] ++ leBytes 4 0x3F800000 ++
  zeros 4 ++ leBytes 2 7 ++ leBytes 2 0xFFFF ++ leBytes 2 0 ++ leBytes 2 1 ++ zeros 152
def vkWaits : State := busy [cmd0 2 (.vk { vk0 [wI 1 0 0 0 0] with started := false })]
def updWaits : State := busy [cmd0 0x0A (.update { upd0 with started := false, desc := updDesc 65 })]
theorem witness_range_start :
    (liveCmd vkWaits 0 0 1).map waitsFor = some (some (0, 1)) ∧ (liveCmd vkWaits 0 0 1).map (fun c => rangeFree vkWaits 0 c (0, 1)) = some true ∧
    (let s := modVe vkWaits 0 fun V => { V with owner := some (0, 3, 9, 0, 1) }
     (liveCmd s 0 0 1).map (fun c => rangeFree s 0 c (0, 1)) = some false) ∧
    (liveCmd updWaits 0 0 1).map waitsFor = some (some (0, 1)) ∧ (liveCmd updWaits 0 0 1).map (fun c => rangeFree updWaits 0 c (0, 1)) = some true ∧
    (match (liveCmd updWaits 0 0 1).map (·.body) with | some (.update v) => v.complete | _ => true) = false := by decide +kernel
theorem test_launch_starts : (ve (nextOf (exec (.veRangeStart 0 0 1) vkWaits)) 0).mode = .running := by decide +kernel


def withGroup (s : State) : State := modPolder s 0 fun P => { P with groups := [(0, some sgd)], step := 3 }
def updS (n : Nat) : State := put (withGroup (ring (updDesc n))) (B0 + 0x8000) (withComp 4 2 ++ zeros 8 ++ withComp 4 3 ++ withComp 4 0)
theorem witness_update :
    let g (s : State) : Option Group := updGroup (polder s 0) (memBytes s dA 256)
    let r (s : State) : UpdRun := updRead s 0 (memBytes s dA 256) sgd
    ([0, 65].Forall fun n => startOk (updS n) 0 0 (eOf 0x0A) 0x0A = true ∧ updChecks (updS n) 0 (eOf 0x0A) = none ∧ g (updS n) = some sgd) ∧
    (r (updS 0)).elems = 0 ∧ (r (updS 65)).elems ≠ 0 ∧ updChecks2 (updS 65) 0 (r (updS 65)) = none ∧ (updIds (r (updS 65))).Nodup ∧
    updIds (r (updS 65)) = [7] ∧ flagShare (eOf 0x0A) = false ∧ (polder (updS 65) 0).claims = [] ∧
    updChecks2 (withGroup (ring (updDesc 65))) 0 (r (withGroup (ring (updDesc 65)))) = some .complementMismatch := by decide +kernel
/-- Block 1 carries the tag of step 3 and is skipped (R199). -/
theorem test_update_skips : ((polder (nextOf (exec (.update 0 0 (eOf 0x0A)) (updS 65))) 0).inflight.map fun c =>
    match c.body with | .update r => r.skipped | _ => []) = [[(1, 0)]] := by decide +kernel
def updRuns (prog : List DWord) : State :=
  modVe (withGroup (busy [cmd0 0x0A (.update { upd0 with desc := updDesc 65, group := sgd, lr := 0x3F800000, fclip := 0x3F800000, prog := prog })])) 0
    fun V => { V with owner := some (0, 0, 1, 0, 1), update := true }
theorem witness_update_block :
    let s := updRuns []
    let r : UpdRun := { upd0 with desc := updDesc 65, group := sgd, lr := 0x3F800000, fclip := 0x3F800000 }
    (liveCmd s 0 0 1).map (·.body) = some (.update r) ∧ s.poison = [] ∧ (rangeClusters s 0 0 1).getD 0 0 = 0 ∧ ownedBy (ve s 0) 0 0 1 = true ∧
    (ve s 0).mode = .idle ∧ r.nextBlock 0 = some 0 ∧ ((stageBlock s 0 3 r 0).2).isSome = true ∧
    ({ r with committed := [(0, 0)] } : UpdRun).complete = false ∧
    ((stageBlock s 0 3 r 0).2).map (fun x => apartB (computeBlock 0 0 r 0 x).out.stores) = some true ∧
    (liveCmd (updRuns [0]) 0 0 1).map (·.body) = some (.update { r with prog := [0] }) := by decide +kernel

/-! ## Steps, saves and loads -/

def fenceOn (b : Body) : State := busy [cmd0 0x0B b]
/-- Item list and pack descriptor (R360, R361) with no items. -/
def saveDesc (len : Nat) : List Byte := leBytes 8 B0 ++ leBytes 4 len ++ zeros 52
theorem witness_steps :
    startOk (ring (leBytes 4 1 ++ leBytes 4 0xFFFFFFFE)) 0 0 (eOf 0x0B) 0x0B = true ∧ stepChecks (ring (leBytes 4 1 ++ leBytes 4 0xFFFFFFFE)) 0 (eOf 0x0B) = none ∧
    stepChecks (ring (withComp 4 0)) 0 (eOf 0x0B) = none ∧
    firstFail (packChecks (ring (saveDesc 4096)) 0 false (eOf 0x0C) ++ [(saveMemory (ring (saveDesc 4096)) 0 (eOf 0x0C), .accessDenied)]) = none ∧
    firstFail (packChecks (ring (saveDesc 0)) 0 true (eOf 0x0D)) = none ∧
    (let s := fenceOn (.step 0)
     (polder s 0).inflight.map (fun c => (c.body, c.res)) = [(.step 0, none)] ∧ (polder s 0).st = .opened ∧ (polder s 0).discard = none ∧
     governorBad (polder s 0) = false ∧ tablesReadable s (polder s 0) = true ∧ managedAgree s (polder s 0) = true ∧ (polder s 0).staged = []) ∧
    (let s := fenceOn (.save (saveDesc 4096) [])
     packLength (packSections s 0 (saveDesc 4096) []) ≤ fld (saveDesc 4096) 8 4 ∧ saveComps s (polder s 0) (packItems [] 0) = true ∧ s.poison = []) := by decide +kernel
def adopting : Layer := { feed := none, grad := none, follow := false, width := some 0, streak := 0, band := none, stepBand := none, adopted := some (0, 1) }
/-- The fence of a STEP whose writes are all stored, one whose log entry a poisoned block refuses, one whose table disagrees with its
complements, is unreadable, and one whose governor state is corrupt. -/
theorem witness_step_fence :
    (closeStep (fenceOn (.step 0)) 0 3 0).2.2 = true ∧
    (let s := { (modPolder (fenceOn (.step 0)) 0 fun P => { P with log := some (B0, 64, 0), layers := [(3, some adopting)] }) with poison := [(granule (B0 + 64), true)] }
     tablesReadable s (polder s 0) = true ∧ managedAgree s (polder s 0) = true ∧ governorBad (polder s 0) = false ∧ (closeStep s 0 3 0).2.2 = false) ∧
    (let s := modPolder (fenceOn (.step 0)) 0 fun P => { P with gauges := [(5, some { g0 with scaleAddr := B0, stateAddr := B0 + 64, bpl := 1, lines := 1 })] }
     let t : State := { s with poison := [(granule B0, true)] }
     tablesReadable s (polder s 0) = true ∧ managedAgree s (polder s 0) = false ∧ tablesReadable t (polder t 0) = false) ∧
    governorBad (polder (modPolder (fenceOn (.step 0)) 0 fun P => { P with bad0 := 0x10 }) 0) = true := by decide +kernel
theorem test_step_advances : (polder (nextOf (exec (.stepFenceReached 0) (fenceOn (.step 0)))) 0).step = 1 := by decide +kernel

/-- What a save wrote is a pack that a load reads, in step and with a skewed origin step. -/
def packed (d : List Byte) : State := nextOf (exec (.stateSaveFenceReached 0) { fenceOn (.save d []) with fuses := { Fuses.factory with serial := 5 } })
def loadOn (s : State) : State := modPolder s 0 fun P => { P with inflight := [cmd0 0x0D (.load (saveDesc 0) [])] }
theorem witness_load :
    let s := loadOn (packed (saveDesc 4096))
    let len := memNat s (B0 + 8) 4
    accessOk s 0 false (addrOf (saveDesc 0) 0) 128 = true ∧ accessOk s 0 false (addrOf (saveDesc 0) 0) len = true ∧
    (match readPack (memBytes s B0 len) len with
     | some k => BitVec.ofNat 32 (fld k.head 0x14 4) == k.step && packMatches (polder s 0) (packItems [] 0) k && s.poison.isEmpty &&
         ((loadWrites (polder s 0) (saveDesc 0) (packItems [] 0) k).all fun x => accessOk s 0 true x.1 x.2.length) &&
         apartB (loadWrites (polder s 0) (saveDesc 0) (packItems [] 0) k)
     | none => false) = true := by decide +kernel

/-- That pack with another origin step in its header. -/
theorem witness_load_skew :
    (let s := packed (saveDesc 4096)
     let len := memNat s (B0 + 8) 4
     let b := memBytes s B0 len
     let h := (b.take 0x14) ++ leBytes 4 1 ++ ((b.drop 0x18).take 40)
     let body := h ++ h.map (~~~·) ++ (b.drop 128).take (len - 132)
     match readPack (body ++ leBytes 4 (crc32c body)) len with
     | some k => BitVec.ofNat 32 (fld k.head 0x14 4) != k.step
     | none => false) = true := by decide +kernel

def replayDesc (mode : Byte) : List Byte := leBytes 8 A0 ++ leBytes 8 (A0 + 8) ++ [0, mode, 0, 0] ++ leBytes 4 0 ++ zeros 8 ++ leBytes 8 B0 ++ zeros 24
theorem witness_replay : [(0 : Byte), 1].Forall fun m => startOk (ring (replayDesc m)) 0 0 (eOf 0x0E) 0x0E = true ∧
    replayChecks (ring (replayDesc m)) 0 (eOf 0x0E) = none ∧ (ring (replayDesc m)).poison = [] ∧
    replayExact (polder (ring (replayDesc m)) 0) 4 (fld (replayDesc m) 0x11 1) = true ∧ addrOf (replayDesc m) 0x20 ≠ 0 := by decide +kernel
theorem test_replay_differs : (polder (nextOf (exec (.replayCheck 0 0 (eOf 0x0E)) (put (ring (replayDesc 1)) A0 [1]))) 0).inflight.map (·.res) =
    [some .replayMismatch] := by decide +kernel

/-! ## Collectives and timeouts -/

def barDesc (parent kids op : Byte) : List Byte := leBytes 4 42 ++ [parent, kids, op, 0] ++ zeros 8 ++ leBytes 8 A0 ++ leBytes 8 B0 ++ zeros 32
def keyed (s : State) : State :=
  { (modPolder s 0 fun P => { P with key := some { key := 5, rank := 1, id := 9 } }) with
    ports := s.ports.map fun P => { P with owner := some 0, st := .up } }
theorem witness_barrier :
    (let ok (s : State) : Bool := startOk s 0 0 (eOf 0x12) 0x12 && (barChecks s 0 (eOf 0x12)).isNone && s.poison.isEmpty
     ok (ring (barDesc 0xFF 0 1)) = true ∧ ok (keyed (ring (barDesc 0xFF 1 1))) = true ∧ ok (keyed (ring (barDesc 5 0 1))) = true) ∧
    storedRelease (polder s0 0) (portSet 0xFF 0) 42 = none ∧
    storedRelease { polder s0 0 with released := [(portSet 0xFF 0, 42, 7)] } (portSet 0xFF 0) 42 = some 7 ∧
    childArrivals (polder s0 0) 42 1 anyPayloadOk = none ∧ childArrivals (polder s0 0) 42 0 anyPayloadOk = some [] ∧
    childArrivals { polder s0 0 with arrivals := [(42, 0, 7)] } 42 1 anyPayloadOk = some [7] := by decide +kernel
theorem test_barrier_alone : (polder (nextOf (exec (.barrier 0 0 (eOf 0x12)) (ring (barDesc 0xFF 0 0)))) 0).inflight.map (·.res) = [some .ok] := by decide +kernel

/-- The REDUCE descriptor (R256): mode, format, parent, kids; 2^19 elements. -/
def redDesc (mode fmt parent kids : Byte) : List Byte :=
  leBytes 8 (A0 + 0x10000) ++ leBytes 8 (A0 + 0x400000) ++ leBytes 4 524288 ++ [fmt, mode, 0, 0] ++ leBytes 4 42 ++ leBytes 2 0 ++ leBytes 2 1 ++
  [1, 1, 1, 0, 0, 0] ++ List.replicate 6 0xFF ++ [parent, kids] ++ zeros 2 ++ zeros 8 ++ leBytes 8 B0 ++ leBytes 8 (B0 + 0x100) ++ leBytes 8 (B0 + 0x200) ++ zeros 48
theorem witness_reduce :
    (let ok (s : State) : Bool := startOk s 0 0 (eOf 7) 7 && (redChecks s 0 (eOf 7)).isNone && s.poison.isEmpty && (cmdAt (startCmd s 0 0 (eOf 7)) 0 0 1).isSome
     ok (keyed (ring (redDesc 2 9 0xFF 0))) = true ∧ ok (keyed (ring (redDesc 2 9 0xFF 1))) = true ∧ ok (keyed (ring (redDesc 0 6 5 0))) = true ∧
     ok (keyed (ring (redDesc 1 9 0xFF 0))) = true ∧ ok (keyed (ring (redDesc 3 9 0xFF 0))) = true) ∧
    (let r := readRed (redDesc 2 9 0xFF 0)
     r.mode < 3 ∧ bucketFields r = true ∧ committed (ring []) r 0 = false ∧ r.parent = 0xFF ∧ r.kids = 0 ∧ r.dims = [] ∧ r.norm = false ∧ r.commit + 16 ≤ r.dst ∧
     committed (put s0 r.commit (withComp 4 42 ++ withComp 4 0)) r 0 = true) ∧
    partialChecks (ring []) (readRed (redDesc 3 9 0xFF 0)) 0 = some .complementMismatch ∧
    partialChecks (put s0 B0 (zeros 8 ++ withComp 4 0)) (readRed (redDesc 3 9 0xFF 0)) 0 = none ∧
    childArrivals (polder s0 0) 42 1 startOf = none ∧ childArrivals (polder s0 0) 42 0 startOf = some [] := by decide +kernel

def barOn : State := busy [cmd0 0x12 (.barrier { id := 42, parent := 0xFF, kids := 1, op := 0, own := 0, result := B0, sent := false })]
def redOn : State := busy [cmd0 7 (.reduce (readRed (redDesc 2 9 0xFF 1)))]
theorem witness_timeouts : (liveCmd barOn 0 0 1).isSome = true ∧ (liveCmd redOn 0 0 1).isSome = true ∧
    (liveCmd (veOn [0] id) 0 0 1).map (watched (polder (veOn [0] id) 0)) = some true ∧
    (let s := busy [{ cmd0 2 (.vk (vk0 [0])) with expired := true }]
     isRunning s 0 = true ∧ (cmdAt s 0 0 1).map (fun c => (c.expired, c.res)) = some (true, none) ∧ closeRuns s 0 = false ∧ (polder s 0).dump = none ∧
     (polder (modPolder s 0 fun P => { P with dump := some ⟨64, 0, []⟩ }) 0).dump = some ⟨64, 0, []⟩) := by decide +kernel
theorem test_barrier_timeout : (polder (nextOf (exec (.barrierTimeout 0 0 1) barOn)) 0).inflight.map (·.res) = [some .timeout] := by decide +kernel

/-! ## Signed images, worked out by RFC 8017 outside the model: a prime modulus, salt of zeros -/

def keyN : Nat := 2 ^ 3072 - 1736462572557
def keyDigest : BitVec 256 := 0x97766eb5044f2da72584122f43100dd548929eb0316345ac3fed41a292ec831e
def imgSig : Nat:= [0xa8ce3acf0ca826bda7f0c6fa653a833c8e9c3006189fbd0cf5615d09ea5f1760f6a000af2882643512ec9a7daf44e762,
  0x6c4887b68845b7f73596e69900a2ec28cb16501862831d7b185a0beeb8161aa843425cd571369d10f5d74747b7cdc133,
  0x426f5b2f6439525e169bb56443a6dbc46259b7b0da9a93d698b370b73c4fc64ff0c5bfbff93ee9bdae70bbc9b918d0af,
  0x6e0a275bb8e3be894dc38c2fcf0ec3a59d7235c033220866500f2319af8c934b075d47f538267b6d19333b15b9192d5c,
  0xd06ce6041215172992b236ef56ca5ae8ca929646a26e6b8ad0f15a668e3019cd57f881df7a25ac66112acf833724e8c2,
  0x0c7e63a1229812bb4d8487ea74f6ebbd8ec0a2c58f7cf0babf5ef8cf8c73b508f65271038d5703590d1b3775174ef713,
  0x17834cca63376d99fbbb173eaa58e9d9e6ce5602a74a51a91d4ffb90e91dfef4fb62091c3c9c271465d2a1cbb408420d,
  0xdf48cd7ab663fb35045300d065f0e34bbd570b6c55810d9f51bff3c9e000e8b684eb4db7732a684b188e2e4c255b5798].foldl (fun a b => a * 2 ^ 384 + b) 0
def dbgSig : Nat:= [0x1254259e194239b9cfd4c5560fa31a22e51f2df981005557128da985c86625477e5cebbfeec7674909bfd51ead88f4c1,
  0x3634ba3ca33cfa9186227ac458959f3d11b5a7d392a08974d565bfacd110c1307a40f4baa9c5b32fa6ffb14d37cfdc4b,
  0x0092fd535a2fdf31100ca0612677571535c0ca6330ff4aa0174b6a22b2a64c43c84617aefc9de5476438829bb5ac0bdb,
  0xab8ca28fbee92d65830fd5dea64ae317425590a7919ed90283a59ec72738ebf14e9d0f44597bf3b42ab29a94eb8d7e37,
  0x7bf3169c8edcd6784e2b5c8030fa8526a53cc3a167578eb5df93321bde7e5bd6bb1400ef9f25fce8162a689edc59cfde,
  0xef1bc5c9d61ae8773e6f5abd39e88d8a65d140895b0e5d25d3df9ed43096443434a58bc15f26fe99ed8ced08a26eafee,
  0x9761388e9fa5eed81f313a6e146fc0d62568b766d27a9376a5838684eca0bbed32b338aaf49b07d7aa2a4dbaa2d6de14,
  0xb111819f0b37bca56041bccc0712379de583ca7e60fd69be302404fadd61f50e746dcb293be13624d735aa9ceaa13972].foldl (fun a b => a * 2 ^ 384 + b) 0

/-- An image region with an empty image of version 5, signed under keyN. -/
def image0 : List Byte :=
  leBytes 4 0x4B465731 ++ leBytes 4 5 ++ zeros 4 ++ leBytes 4 64 ++ leBytes 4 64 ++ zeros 4 ++ leBytes 4 64 ++ zeros 4 ++ leBytes 4 64 ++ zeros 28 ++
  beBytes 384 keyN ++ beBytes 384 imgSig
def imageTab : Tab Byte := tabSplice 0xFF [] 0 image0
def fuses0 : Fuses := { serial := 9, lifecycle := 2, pending := false, floor := 0, fwDigest := keyDigest, dbgDigest := keyDigest, seed := 1, basePlan := [], trims := [], remaps := [] }
/-- What a flash table made of these bytes reads as. -/
theorem imageBytes_at (bs : List Byte) (o n : Nat) (h : o + n ≤ bs.length) : imageBytes (tabSplice 0xFF [] 0 bs) o n = (bs.drop o).take n := by
  apply List.ext_getElem
  · simp [imageBytes]; omega
  · intro i h1 h2
    simp [imageBytes] at h1
    have : o + i < bs.length := by omega
    simp [imageBytes, tabGet_tabSplice, this]

theorem image0_length : image0.length = 832 := by decide +kernel
theorem imageField_at (o n : Nat) (h : o + n ≤ 832) : imageField imageTab o n = fld image0 o n := by
  unfold imageField imageTab fld
  rw [imageBytes_at _ _ _ (by rw [image0_length]; exact h)]
theorem image0_digest : digest (beBytes 384 keyN) = keyDigest := by decide +kernel
theorem image0_signed : pssVerify (beBytes 384 keyN) (image0.take 64) (beBytes 384 imgSig) = true := by decide +kernel
theorem image0_parts : (image0.drop 64).take 384 = beBytes 384 keyN ∧ (image0.drop 448).take 384 = beBytes 384 imgSig := by decide +kernel

/-- An image that passes R322, and one that fails it for its key. -/
theorem witness_image : imageOk fuses0 imageTab = true := by
  have hl : fld image0 0x0C 4 = 64 := by decide +kernel
  have hs : sectionsOk imageTab = true := by
    simp only [sectionsOk, imageSections]
    rw [imageField_at 0xC 4 (by decide), imageField_at 0x10 4 (by decide), imageField_at 0x14 4 (by decide), imageField_at 0x18 4 (by decide), imageField_at 0x1C 4 (by decide), imageField_at 0x20 4 (by decide), imageField_at 0x24 4 (by decide)]
    decide +kernel
  have hm : imageBytes imageTab 64 384 = beBytes 384 keyN := by
    rw [imageTab, imageBytes_at _ _ _ (by rw [image0_length]; decide)]; exact image0_parts.1
  have hg : imageBytes imageTab (64 + 384) 384 = beBytes 384 imgSig := by
    rw [imageTab, imageBytes_at _ _ _ (by rw [image0_length])]; exact image0_parts.2
  have h0 : imageBytes imageTab 0 64 = image0.take 64 := by
    rw [imageTab, imageBytes_at _ _ _ (by simp [image0_length]), List.drop_zero]
  unfold imageOk imageSecurity
  rw [imageField_at 0xC 4 (by decide), imageField_at 0x0 4 (by decide), imageField_at 0xA 2 (by decide), imageField_at 0x28 24 (by decide), imageField_at 0x8 2 (by decide)]
  simp only [hl, hs, hm, hg, h0, image0_signed]
  simp only [fuses0, image0_digest]
  decide +kernel
theorem witness_image_fails : imageOk { fuses0 with floor := 65 } [] = false := by decide +kernel

/-- FW_WRITE and FW_RECOVER commit that image. -/
theorem witness_commit :
    asked { fwAt .staging with fuses := fuses0, fw := { (fwAt .staging).fw with staged := imageTab } } 0 4 16 (3 :: zeros 15) (fun s b =>
      fld b 0 1 == 3 && fwComplete s.fw && decide (s.fuses = fuses0) && decide (s.fw.staged = imageTab)) = true ∧
    asked { recovering true with fuses := fuses0, flash := { State.reset.flash with image := imageTab } } 0 5 16 (3 :: zeros 15) (fun s b =>
      fld b 0 1 == 3 && decide (s.fuses = fuses0) && decide (s.flash.image = imageTab)) = true := by decide +kernel

/-- An unlock signed by the authority whose digest is fused. -/
theorem witness_debug_signed : pssVerify (beBytes 384 keyN) (leBytes 8 9 ++ leBytes 32 77 ++ [3] ++ zeros 7) (beBytes 384 dbgSig) = true := by decide +kernel
theorem witness_debug_state :
    (let s : State := { bare with fuses := fuses0, challenge := some 77 }
     s.layout = .none ∧ s.fuses.lifecycle = 2 ∧ s.fuses.serial = 9 ∧ s.fuses.dbgDigest = keyDigest ∧ s.challenge = some 77) := by decide +kernel

/-! ## Links -/

/-- s0 with every port up in the hands of polder 0, which holds a job key. -/
def linked : State := keyed s0
def quietLane : LaneCount := { uncorrectable := 0, corrected := 0, words := 1 }
def badLane : LaneCount := { uncorrectable := 0, corrected := 4097, words := 1 }
def flit (typ seq : Nat) : RxFlit :=
  let b := leBytes 8 (typ + 256 * seq) ++ zeros 496
  { fecOk := true, bytes := b ++ leBytes 8 (crc64 b) }
theorem witness_flits :
    (let good (x : RxFlit) : Bool := x.fecOk && x.bytes.length == 512 && leBytes 8 (crc64 (x.bytes.take 504)) == x.bytes.drop 504 &&
      (fld x.bytes 0 8 % 16 != 1 || BitVec.ofNat 12 (fld x.bytes 0 8 / 256) == (port linked 0).rxNext)
     portUp (port linked 0) = true ∧ good (flit 1 0) = true ∧ good (flit 1 1) = false ∧ good (flit 0 7) = true ∧ good { flit 1 0 with fecOk := false } = false) := by decide +kernel
theorem witness_lanes :
    (let fails (lanes : List LaneCount) (levee : LaneCount) (i : Nat) : Bool :=
      (laneWindow ((port linked 0).badWins.getD i 0) (if i = 9 then levee else lanes.getD i ⟨0, 0, 0⟩)).2
     (∀ i ∈ List.range 10, fails (List.replicate 9 quietLane) quietLane i = false) ∧
     (∀ i ∈ List.range 10, fails (badLane :: List.replicate 8 quietLane) quietLane i = decide (i = 0)) ∧
     (∀ i ∈ List.range 10, fails (List.replicate 8 quietLane ++ [badLane]) quietLane i = decide (i = 8)) ∧
     (∀ i ∈ List.range 10, fails (List.replicate 9 quietLane) badLane i = decide (i = 9)) ∧
     (port linked 0).badLanes.contains 0 = false ∧ (port linked 0).st = .up ∧
     (port (modPort linked 0 fun P => { P with st := .upFour }) 0).st = .upFour ∧
     (port linked 0).switchAt = [] ∧ hasData (port linked 0) 3 = false ∧ 0 < (port linked 0).credits.get 3 ∧ (port linked 0).replay.length < 1024 ∧
     portUp (port s0 0) = false) := by decide +kernel
def retrainingPort : State := modPort linked 2 fun P => { P with st := .retraining }
theorem witness_time_tokens : (port retrainingPort 2).st = .retraining ∧ (port retrainingPort 2).owner = some 0 ∧ isRunning retrainingPort 0 = true ∧
    closeRuns retrainingPort 0 = false ∧ (0 : Fin 6) ∈ leveePorts linked ∧ (2 : Fin 6) ∉ leveePorts retrainingPort ∧ 0 < (port linked 0).credits.get 0 ∧
    (64 : DWord).toNat - (leveeTime linked).toNat ≤ 64 ∧ 64 < (65 : DWord).toNat - (leveeTime linked).toNat ∧
    clearOk (clearToken (tok 5)) = true ∧ clearOk (tok 5) = false ∧
    0 < ({ linked with slew := linked.slew.set 5 64 } : State).slew.get 5 ∧ linked.slew.get 0 = 0 ∧
    (port (modPort linked 0 fun P => { P with replay := [[1]] }) 0).replay ≠ [] := by decide +kernel
theorem test_time_steps : leveeTime (nextOf (exec (.timeTokenReceived 0 1000) linked)) = 1000 ∧
    leveeTime (nextOf (exec (.timeTokenReceived 0 0) { linked with correction := 9 })) = 9 := by decide +kernel

/-! ## Messages -/

def streamOn (cls : Fin 4) (bytes : List Byte) (s : State) : State := modPort s 0 fun P => { P with streams := vmod P.streams cls fun _ => bytes }
/-- The header of a message with 16 bytes of payload. -/
def msgHead (kind flags id addr : Nat) : List Byte := leBytes 1 kind ++ leBytes 1 flags ++ leBytes 2 16 ++ leBytes 4 id ++ leBytes 6 addr ++ zeros 2

/-- AES gives 16 bytes for a key of 32 and a block of 16: every xor keeps the shorter length, and no step cuts. -/
theorem xorBytes_length (a b : List Byte) : (xorBytes a b).length = min a.length b.length := by simp [xorBytes]
theorem aesRounds_length (ks : List (List Byte)) (st : List Byte) (hk : ∀ k ∈ ks, k.length = 16) (hs : st.length = 16) :
    (aesRounds ks st).length = 16 := by
  induction ks generalizing st with
  | nil => exact hs
  | cons k ks ih =>
    have h1 := hk k (by simp)
    cases ks with
    | nil => simp [aesRounds, xorBytes_length, shiftRows, h1]
    | cons k' ks =>
      apply ih
      · intro x hx; exact hk x (List.mem_cons_of_mem _ hx)
      · simp [xorBytes_length, mixColumns, mixColumn, h1, List.range_succ]
def jobKey : BitVec 256 := 5
theorem jobKey_rounds : (∀ k ∈ aesRoundKeys (keyBytes jobKey), k.length = 16) ∧ (aesRoundKeys (keyBytes jobKey)).length = 15 := by decide +kernel
theorem aes_jobKey_length (b : List Byte) (h : b.length = 16) : (aes (keyBytes jobKey) b).length = 16 := by
  unfold aes
  have hr := jobKey_rounds
  match hm : aesRoundKeys (keyBytes jobKey) with
  | [] => rw [hm] at hr; simp at hr
  | k :: ks =>
    rw [hm] at hr
    exact aesRounds_length ks _ (fun x hx => hr.1 x (List.mem_cons_of_mem _ hx)) (by simp [xorBytes_length, h, hr.1 k (by simp)])
theorem leBytes_len (n x : Nat) : (leBytes n x).length = n := by
  induction n generalizing x with
  | zero => rfl
  | succ n ih => simp [leBytes, ih]
theorem gcmTag_length (rank : BitVec 16) (chan : Nat) (ctr : DWord) (aad ct : List Byte) :
    (gcmTag (keyBytes jobKey) (ivBytes rank chan ctr) aad ct).length = 16 := by
  unfold gcmTag
  rw [xorBytes_length, aes_jobKey_length _ (by simp [ivBytes, beBytes, leBytes_len])]
  simp [beBytes, leBytes_len]
theorem sixteen {t : List Byte} (h : t.length = 16) : ∃ a b c d e f g i j k l m n o p q, t = [a, b, c, d, e, f, g, i, j, k, l, m, n, o, p, q] := by
  match t, h with
  | [a, b, c, d, e, f, g, i, j, k, l, m, n, o, p, q], _ => exact ⟨a, b, c, d, e, f, g, i, j, k, l, m, n, o, p, q, rfl⟩

theorem xorBytes_twice (a k : List Byte) (h : a.length ≤ k.length) : xorBytes (xorBytes a k) k = a := by
  induction a generalizing k with
  | nil => rfl
  | cons x a ih =>
    match k, h with
    | y :: k, h =>
      have e := ih k (by simpa using h)
      simp only [xorBytes, List.zipWith_cons_cons, List.cons.injEq] at e ⊢
      exact ⟨by rw [BitVec.xor_assoc, BitVec.xor_self, BitVec.xor_zero], e⟩
theorem gcmCrypt_twice (rank : BitVec 16) (chan : Nat) (ctr : DWord) (pt : List Byte) (h : pt.length = 16) :
    let f := gcmCrypt (keyBytes jobKey) (ivBytes rank chan ctr)
    (f pt).length = 16 ∧ f (f pt) = pt := by
  have e : ∀ x : List Byte, x.length = 16 → gcmCrypt (keyBytes jobKey) (ivBytes rank chan ctr) x =
      xorBytes x (aes (keyBytes jobKey) (ivBytes rank chan ctr ++ beBytes 4 2)) := by
    intro x hx
    simp only [gcmCrypt, hx, ctrBytes]
    rw [List.take_of_length_le (by omega)]
    simp
  have ha := aes_jobKey_length (ivBytes rank chan ctr ++ beBytes 4 2) (by simp [ivBytes, beBytes, leBytes_len])
  intro f
  have hl : (f pt).length = 16 := by
    rw [show f pt = _ from e pt h, xorBytes_length]; omega
  refine ⟨hl, ?_⟩
  rw [show f (f pt) = _ from e _ hl, show f pt = _ from e pt h]
  exact xorBytes_twice _ _ (by omega)

theorem stream_is (cls : Fin 4) (b : List Byte) (s : State) : (port (streamOn cls b s) 0).streams.get cls = b := by
  rw [streamOn, port_modPort_self]; exact get_vmod_self ..
theorem dropPad_head (k : Nat) (bs : List Byte) (h : bs.headD 0 ≠ 0) : dropPad k bs = bs := by
  cases k with
  | zero => rfl
  | succ k => rw [dropPad, if_neg (fun x => h x.2)]
theorem fld_append (a b : List Byte) (o n : Nat) (h : o + n ≤ a.length) : fld (a ++ b) o n = fld a o n := by
  unfold fld
  rw [List.drop_append_of_le_length (by omega), List.take_append_of_le_length (by simp; omega)]
/-- A stream that is one sealed message of 16 bytes gives its three parts back. -/
theorem headMsg_parts (P : Port) (cls : Fin 4) (hd ct tag : List Byte) (hs : P.streams.get cls = hd ++ (ct ++ tag)) (hl : hd.length = 16)
    (h0 : hd.headD 0 ≠ 0) (hk : fld hd 0 1 ≤ 3) (h2 : fld hd 2 2 = 16) (hc : ct.length = 16) (ht : tag.length = 16) :
    headMsg P cls = some
      ({ kind := fld hd 0 1, flags := fld hd 1 1, id := BitVec.ofNat 32 (fld hd 4 4), addr := fld hd 8 6, attempt := fld hd 14 2, header := hd, payload := ct, tag := tag }, []) := by
  have e : ∀ o n, o + n ≤ 16 → fld (hd ++ (ct ++ tag)) o n = fld hd o n := fun o n h => fld_append _ _ _ _ (by omega)
  unfold headMsg
  have hp : dropPad 64 (hd ++ (ct ++ tag)) = hd ++ (ct ++ tag) := dropPad_head _ _ (by cases hd <;> simp_all)
  have r : roundUp 16 16 = 16 := by decide
  have d16 : List.drop 16 (hd ++ (ct ++ tag)) = ct ++ tag := by rw [← hl, List.drop_left]
  have t16 : List.take 16 (hd ++ (ct ++ tag)) = hd := by rw [← hl, List.take_left]
  have d32 : List.drop 32 (hd ++ (ct ++ tag)) = tag := by rw [show 32 = 16 + 16 from rfl, ← List.drop_drop, d16, ← hc, List.drop_left]
  have c16 : List.take 16 (ct ++ tag) = ct := by rw [← hc, List.take_left]
  have g16 : List.take 16 tag = tag := List.take_of_length_le (by omega)
  simp [hs, hp, e, hk, h2, r, hl, hc, ht, d16, t16, c16, d32, g16]
/-- A polder 0 with the job key on port 0, before any message. -/
def Keyed (s : State) : Bool :=
  decide ((polder s 0).key = some { key := 5, rank := 1, id := 9 }) && [0, 1, 2, 3].all (fun c => ivCounter s 0 (rxChannel 0) c == 0) &&
  portUp (port s 0) && decide ((port s 0).owner = some 0)

/-- What a sealed message opens to: the plaintext it was sealed from. -/
theorem sealed_opens (s : State) (cls : Fin 4) (b hd pt : List Byte) (m : Msg) (k : Keyed s = true) (h : pt.length = 16) (hh : m.header = hd)
    (hp : m.payload = gcmCrypt (keyBytes jobKey) (ivBytes (Config.farRank 0 9) (Config.farPort 0 % 6) 0) pt)
    (ht : m.tag = gcmTag (keyBytes jobKey) (ivBytes (Config.farRank 0 9) (Config.farPort 0 % 6) 0) hd m.payload) :
    openMsg (streamOn cls b s) 0 0 cls m = some pt := by
  simp only [Keyed, Bool.and_eq_true, decide_eq_true_eq] at k
  obtain ⟨⟨⟨k1, k2⟩, -⟩, -⟩ := k
  have k3 : ivCounter (streamOn cls b s) 0 (rxChannel 0) cls.val = 0 := by
    have : ivCounter s 0 (rxChannel 0) cls.val = 0 := by
      simp only [List.all_cons, List.all_nil, Bool.and_eq_true, beq_iff_eq] at k2
      match cls with
      | 0 => exact k2.1
      | 1 => exact k2.2.1
      | 2 => exact k2.2.2.1
      | 3 => exact k2.2.2.2.1
    exact this
  unfold openMsg
  rw [show (polder (streamOn cls b s) 0).key = _ from k1]
  simp only [k3]
  unfold gcmOpen
  rw [if_pos (by rw [hh, ht]; rfl), hp]
  exact congrArg some (gcmCrypt_twice _ _ _ pt h).2

/-- Each kind of sealed message, from whoever the far end of port 0 is: its fields and what it opens to. -/
theorem witness_sealed (kind flags id addr : Nat) (cls : Fin 4) (pt : List Byte) (s : State) (k : Keyed s = true) (h : pt.length = 16)
    (hk : (kind, flags, id, addr, cls) ∈ [(1, 0, 7, 0x10000003000, (2 : Fin 4)), (2, 0, 7, 0, 2), (2, 1, 7, 0, 2), (3, 0, 42, 0, 1)]) :
    ∃ b m, headMsg (port (streamOn cls b s) 0) cls = some (m, []) ∧ m.kind = kind ∧ m.flags = flags ∧ m.id = BitVec.ofNat 32 id ∧
      m.addr = addr ∧ openMsg (streamOn cls b s) 0 0 cls m = some pt := by
  let hd := msgHead kind flags id addr
  let ct := gcmCrypt (keyBytes jobKey) (ivBytes (Config.farRank 0 9) (Config.farPort 0 % 6) 0) pt
  let tag := gcmTag (keyBytes jobKey) (ivBytes (Config.farRank 0 9) (Config.farPort 0 % 6) 0) hd ct
  have f : hd.length = 16 ∧ hd.headD 0 ≠ 0 ∧ fld hd 0 1 ≤ 3 ∧ fld hd 2 2 = 16 ∧ fld hd 0 1 = kind ∧ fld hd 1 1 = flags ∧
      BitVec.ofNat 32 (fld hd 4 4) = BitVec.ofNat 32 id ∧ fld hd 8 6 = addr := by
    simp only [List.mem_cons, Prod.mk.injEq, List.not_mem_nil, or_false] at hk
    obtain ⟨rfl, rfl, rfl, rfl, -⟩ | ⟨rfl, rfl, rfl, rfl, -⟩ | ⟨rfl, rfl, rfl, rfl, -⟩ | ⟨rfl, rfl, rfl, rfl, -⟩ := hk <;> decide +kernel
  obtain ⟨f1, f2, f3, f4, f5, f6, f7, f8⟩ := f
  exact ⟨hd ++ (ct ++ tag), _, headMsg_parts _ cls hd ct tag (stream_is ..) f1 f2 f3 f4 (gcmCrypt_twice _ _ _ pt h).1 (gcmTag_length ..),
    f5, f6, f7, f8, sealed_opens s cls _ hd pt _ k h rfl rfl rfl⟩
/-- The states of these clauses: a peer window just wide enough and one too narrow, a refused write, a MOVE that waits for its
confirmation, a tag whose command timed out. -/
def windowed (n : Nat) : State := modPolder linked 0 fun P => { P with peerBase := 0x10000003000, peerLen := n }
def refusing : State := modPort linked 0 fun P => { P with refused := [7] }
def moving : State := modPolder linked 0 fun P =>
  { P with inflight := [cmd0 4 (.remote 7)], remoteOut := [(7, 0, 1)], queues := P.queues.set 0 { q0 with taken := 1 } }
def lapsed : State := modPolder linked 0 fun P => { P with timedOut := [42] }
theorem witness_message_states : Keyed (windowed 16) = true ∧ inPeerWindow (polder (windowed 16) 0) 0x10000003000 16 = true ∧ (windowed 16).poison = [] ∧
    Keyed (windowed 15) = true ∧ inPeerWindow (polder (windowed 15) 0) 0x10000003000 16 = false ∧ (port (windowed 15) 0).landed = [] ∧
    Keyed refusing = true ∧ 7 ∈ (port refusing 0).refused ∧ 7 ∉ (port linked 0).refused ∧ fld (leBytes 2 4095 ++ zeros 14) 0 2 = 4095 ∧
    Keyed moving = true ∧ (polder moving 0).remoteOut.find? (fun x => x.1 == 7) = some (7, 0, 1) ∧ (liveCmd moving 0 0 1).isSome = true ∧
    Keyed lapsed = true ∧ (polder lapsed 0).timedOut.contains 42 = true ∧ (polder linked 0).timedOut.contains 42 = false ∧
    Keyed linked = true ∧ liveCmds (polder linked 0) = [] := by decide +kernel

/-! ## Tokens and management messages -/

def key0 : JobKey := { key := 5, rank := 1, id := 9 }
def tokenOf (typ : Byte) (hop : BitVec 5) (v : DWord) : Token := { typ := typ, hop := hop, op := 1, rank := 1, id := 42, payload := v, iv := 3, tag := 0 }
theorem leBytes_leVal (bs : List Byte) : leBytes bs.length (leVal bs) = bs := by
  induction bs with
  | nil => rfl
  | cons b bs ih =>
    have h := b.isLt
    have e1 : BitVec.ofNat 8 (b.toNat + 256 * leVal bs) = b := by apply BitVec.eq_of_toNat_eq; simp; omega
    have e2 : (b.toNat + 256 * leVal bs) / 256 = leVal bs := by omega
    simp only [List.length_cons, leBytes, leVal, e1, e2, ih]
theorem leVal_lt (bs : List Byte) : leVal bs < 256 ^ bs.length := by
  induction bs with
  | nil => simp [leVal]
  | cons b bs ih => have h := b.isLt; simp only [leVal, List.length_cons, Nat.pow_succ]; omega
theorem bytes8 (bs : List Byte) (h : bs.length = 8) : leBytes 8 (BitVec.ofNat 64 (leVal bs)).toNat = bs := by
  have l := leVal_lt bs
  rw [h] at l
  rw [BitVec.toNat_ofNat, Nat.mod_eq_of_lt (by omega), ← h, leBytes_leVal]
theorem leVal_bytes (n x : Nat) : leVal (leBytes n x) = x % 256 ^ n := by
  induction n generalizing x with
  | zero => simp [leBytes, leVal, Nat.mod_one]
  | succ n ih =>
    simp only [leBytes, leVal, ih, BitVec.toNat_ofNat]
    rw [show (2 : Nat) ^ 8 = 256 from rfl, Nat.pow_succ, Nat.mul_comm (256 ^ n) 256, Nat.mod_mul]
theorem token_opens (f : Nat) (t : Token) (h : t.rank = 1) : openToken key0 f (sealToken key0 f t) = some t.payload := by
  have e : ∀ x : List Byte, x.length = 8 → gcmCrypt (keyBytes jobKey) (tokenIv 1 f t.iv) x =
      xorBytes x (aes (keyBytes jobKey) (ivBytes 1 f t.iv ++ beBytes 4 2)) := by
    intro x hx
    simp only [gcmCrypt, hx, ctrBytes, tokenIv]
    rw [List.take_of_length_le (by omega)]
    simp
  have ha := aes_jobKey_length (ivBytes 1 f t.iv ++ beBytes 4 2) (by simp [ivBytes, beBytes, leBytes_len])
  have hp : (leBytes 8 t.payload.toNat).length = 8 := leBytes_len ..
  have hl : (gcmCrypt (keyBytes jobKey) (tokenIv 1 f t.iv) (leBytes 8 t.payload.toNat)).length = 8 := by
    rw [e _ hp, xorBytes_length]; omega
  have hb := bytes8 _ hl
  have hg : ((gcmTag (keyBytes jobKey) (tokenIv 1 f t.iv) (tokenAad t) (gcmCrypt (keyBytes jobKey) (tokenIv 1 f t.iv) (leBytes 8 t.payload.toNat))).take 8).length = 8 := by
    rw [List.length_take, show (gcmTag (keyBytes jobKey) (tokenIv 1 f t.iv) _ _).length = 16 from gcmTag_length ..]; rfl
  have ht := bytes8 _ hg
  have aad : tokenAad (sealToken key0 f t) = tokenAad t := by
    simp [tokenAad, tokenBytes, sealToken, leBytes]
  unfold openToken
  rw [aad]
  simp only [sealToken, gcmSeal, key0, h]
  rw [show keyBytes (5 : BitVec 256) = keyBytes jobKey from rfl, hb, if_pos ht.symm, e _ hl, e _ hp, xorBytes_twice _ _ (by omega), leVal_bytes]
  have := t.payload.isLt
  rw [Nat.mod_eq_of_lt (by omega)]
  simp
/-- A sealed token of each type and hop count that opens on port 0 whoever sends it. -/
theorem witness_token (s : State) (k : Keyed s = true) (typ : Byte) (hop : BitVec 5) (v : DWord) :
    ∃ t : Token, t.typ = typ ∧ t.hop = hop ∧ t.id = 42 ∧ t.op = 1 ∧ sealedToken s 0 t = some (0, v) := by
  simp only [Keyed, Bool.and_eq_true, decide_eq_true_eq] at k
  obtain ⟨⟨⟨k1, -⟩, -⟩, k4⟩ := k
  refine ⟨sealToken key0 (Config.farPort 0 % 6) (tokenOf typ hop v), rfl, rfl, rfl, rfl, ?_⟩
  have e := token_opens (Config.farPort 0 % 6) (tokenOf typ hop v) rfl
  simp only [sealedToken, k4, k1]
  rw [show ({ key := 5, rank := 1, id := 9 } : JobKey) = key0 from rfl, show (0 : Fin 6).val = 0 from rfl, e]
  rfl
/-- A BARRIER of tree 42 at the root with port 0 as its only child, and one that has sent its arrival to port 0. -/
def bar0 : BarRun := { parent := 0xFF, kids := 1, id := 42, op := 1, own := 5, result := 0x10000000040, sent := false }
def rooted : State := modPolder linked 0 fun P => { P with inflight := [cmd0 0x12 (.barrier bar0)], queues := P.queues.set 0 { q0 with taken := 1 } }
def sentUp : State := modPolder linked 0 fun P =>
  { P with inflight := [cmd0 0x12 (.barrier { bar0 with parent := 0, kids := 0, sent := true })], queues := P.queues.set 0 { q0 with taken := 1 } }
theorem witness_tree : Keyed rooted = true ∧ Keyed sentUp = true ∧ rooted.poison = [] ∧ hasTree (polder rooted 0) 42 = true ∧
    hasTree (polder linked 0) 42 = false ∧ (polder rooted 0).timedOut = [] ∧
    childArrivals { polder rooted 0 with arrivals := [(42, 0, 6)] } 42 1 anyPayloadOk = some [6] ∧ faultKnown linked 0 6 = false ∧
    faultKnown (modPort linked 0 fun P => { P with faultsSeen := [6] }) 0 6 = true ∧
    Keyed (modPort linked 0 fun P => { P with faultsSeen := [6] }) = true := by decide +kernel
/-- A REDUCE of a tree with a child, which a fault token starts anew; its data, arriving while it still counts children. -/
def reducing : State := modPolder linked 0 fun P => { P with inflight := [cmd0 7 (.reduce (readRed (redDesc 2 9 0xFF 1)))], queues := P.queues.set 0 { q0 with taken := 1 } }
theorem witness_reducing : Keyed reducing = true ∧ (liveCmds (polder reducing 0)).length = 1 ∧ (readRed (redDesc 2 9 0xFF 1)).mode ≠ 3 ∧
    childPorts (readRed (redDesc 2 9 0xFF 1)).kids ≠ [] ∧ (readRed (redDesc 2 9 0xFF 1)).tag = 42 ∧ faultKnown reducing 0 6 = false := by decide +kernel
/-- A REDUCE below port 0 that waits for its closing release. -/
def closing : RedRun := { readRed (redDesc 2 9 0 0) with phase := .closing, sent := true, attempt := 2 }
def closingUp : State := modPolder linked 0 fun P => { P with inflight := [cmd0 7 (.reduce closing)], queues := P.queues.set 0 { q0 with taken := 1 } }
theorem witness_closing : Keyed closingUp = true ∧ (liveCmds (polder closingUp 0)).map (·.body) = [.reduce closing] ∧ closing.tag = 42 ∧ closing.parent = 0 ∧
    closingOf closing.attempt (closingMark + 2) = true ∧ closingUp.poison = [] := by decide +kernel
/-- A REDUCE over a ring of two in its exchange: it takes the partial sum of its chunk from port 0. -/
def ringOfTwo : RedRun :=
  { readRed (((redDesc 2 9 0xFF 0).take 0x20 ++ [2, 1, 1, 0, 0, 0, 0, 0] ++ List.replicate 4 0xFF ++ (redDesc 2 9 0xFF 0).drop 0x2C)) with phase := .exchange }
def exchanging : State := modPolder linked 0 fun P => { P with inflight := [cmd0 7 (.reduce ringOfTwo)], queues := P.queues.set 0 { q0 with taken := 1 } }
/-- Over two dimensions a partial sum of the second waits until the first is summed; the next message of a chunk that has been summed, and
any of an all-gather alone, is data to store. -/
def ringOfFour : RedRun :=
  { readRed (((redDesc 2 9 0xFF 0).take 0x20 ++ [2, 2, 1, 0, 0, 0, 0, 1, 2] ++ List.replicate 3 0xFF ++ (redDesc 2 9 0xFF 0).drop 0x2C)) with phase := .exchange }
def stageAt (r : RedRun) (j : Fin 6) (o : Nat) : Option (Bool × Bool) := (stageFor r j o).map fun x => (isSum r x.1 x.2 o, scatterReady r x.1 x.2)
theorem witness_take : Keyed exchanging = true ∧ exchanging.poison = [] ∧ (polder exchanging 0).timedOut.contains 42 = false ∧ bucketFields ringOfTwo = true ∧
    (match (liveCmds (polder exchanging 0)).find? (fun c => match c.body with | .reduce r => r.tag == 42 && r.mode != 3 | _ => false) with
     | some c => decide (c.body = .reduce ringOfTwo)
     | none => false) = true ∧ ringOfTwo.phase = .exchange ∧ ringOfTwo.attempt = 0 ∧
    stageAt ringOfTwo 0 0 = some (true, true) ∧ (List.range 6).any (fun j => stageAt ringOfFour (fin6 j) 0 == some (true, false)) = true ∧
    stageAt { ringOfTwo with desc := ringOfTwo.desc.set 0x15 1 } 0 0 = some (false, true) := by decide +kernel
/-- Data on a port that no polder owns. -/
theorem witness_unowned : (let s := modPort s0 0 fun P => { P with st := .up }
     (port s 0).owner = none ∧ portUp (port s 0) = true ∧
     (headMsg (port (streamOn 2 (msgHead 1 0 7 0 ++ zeros 32) s) 0) 2).map (fun x => x.1.kind) = some 1 ∧
     (headMsg (port (streamOn 2 (msgHead 2 0 7 0 ++ zeros 32) s) 0) 2).map (fun x => x.1.kind) = some 2 ∧
     (headMsg (port (streamOn 1 (msgHead 3 0 42 0 ++ zeros 32) s) 0) 1).map (fun x => x.1.kind) = some 3) := by decide +kernel
/-- Management messages: a hello, another one, a refusal and a lane switch. -/
def manageHead (flags len : Nat) : List Byte := leBytes 1 4 ++ leBytes 1 flags ++ leBytes 2 len ++ zeros 12
def managed (bs : List Byte) : Option (Nat × Nat × List Byte) := (headMsg (port (streamOn 3 bs moving) 0) 3).map fun x => (x.1.kind, x.1.flags, x.1.payload)
theorem witness_management : managed (manageHead 1 2 ++ leBytes 16 0x4832) = some (4, 1, [0x32, 0x48]) ∧
    managed (manageHead 1 2 ++ leBytes 16 0x4833) = some (4, 1, [0x33, 0x48]) ∧
    managed (manageHead 2 16 ++ leBytes 4 7 ++ [4] ++ zeros 11) = some (4, 2, leBytes 4 7 ++ [4] ++ zeros 11) ∧
    managed (manageHead 3 4 ++ leBytes 2 8 ++ leBytes 14 2048) = some (4, 3, [8, 0, 0, 8]) ∧
    managed (manageHead 3 4 ++ leBytes 16 8) = some (4, 3, [8, 0, 0, 0]) ∧
    managed (leBytes 1 5 ++ [0] ++ leBytes 2 32 ++ zeros 44) = some (5, 0, zeros 32) := by decide +kernel
theorem witness_switch_message : ((port moving 0).rxNext - 2048).toNat = 2048 ∧ ((port moving 0).rxNext - 0).toNat < 2048 ∧ (port moving 0).switchAt = [] ∧
    (port moving 0).st = .up ∧ (port moving 0).badLanes = [] := by decide +kernel
theorem test_confirm_barrier : (cmdAt (nextOf (exec (.barrierTimeout 0 0 1) rooted)) 0 0 1).map (·.res) = some (some .timeout) := by decide +kernel
theorem test_hello : (port (nextOf (exec (.managementMessageReceived 0) (streamOn 3 (manageHead 1 2 ++ leBytes 16 0x4833) linked))) 0).st =
    .down := by decide +kernel

/-- Without a job key nothing authenticates. -/
theorem witness_unsealed (cls : Fin 4) (m : Msg) (tok : Token) :
    let s := modPolder linked 0 fun P => { P with key := none }
    (port s 0).owner = some 0 ∧ portUp (port s 0) = true ∧ openMsg s 0 0 cls m = none ∧ sealedToken s 0 tok = none := by
  have h : ∀ s : State, (port s 0).owner = some 0 → (polder s 0).key = none → openMsg s 0 0 cls m = none ∧ sealedToken s 0 tok = none := by
    intro s h1 h2; simp [openMsg, sealedToken, h1, h2]
  exact ⟨by decide +kernel, by decide +kernel, h _ (by decide +kernel) (by decide +kernel)⟩

/-! ## Bring-up and resets -/

/-- The module before power, with that image and those fuses; at fuse load under PERST#. -/
def dark (F : Fuses) (img : Tab Byte) : State := { State.reset with fuses := F, flash := { State.reset.flash with image := img, slotA := [], slotB := [], chain := [] } }
def badTrim : Comp 32 := { val := 0, comp := 0 }
theorem witness_power : (dark fuses0 imageTab).boot = .off ∧ fusesAgree fuses0 = true ∧ fusesAgree { fuses0 with trims := [(0, badTrim)] } = false ∧
    s0.boot ≠ .off ∧ pickSlot (dark fuses0 imageTab).flash = none ∧ (let s := { dark fuses0 imageTab with boot := .fuses, modPwrgd := true }
      s.perst = true ∧ s.boot = .fuses ∧ s.fw.st ≠ .programming) := by decide +kernel

def training : State := { s0 with boot := .training, sites := Vector.replicate 32 { Site.reset with st := .trained 0 } }
def oneLeft (tries : Nat) : State := modSite training 5 fun S => { S with st := .untrained, trying := tries }
def bringing (st : PortStatus) (bad : List Nat) : State := modPort training 2 fun P => { P with st := st, badLanes := bad }
theorem witness_training : training.boot = .training ∧ trainingEnded training = true ∧ trainingEnded (oneLeft 2) = false ∧
    (site (oneLeft 2) 5).st = .untrained ∧ (site (oneLeft 2) 5).trying = 2 ∧ (site (oneLeft 3) 5).trying = 3 ∧ s0.boot ≠ .training ∧
    (port (bringing .training []) 2).st = .training ∧ (port (bringing .retraining [1]) 2).st = .retraining ∧
    upStatus (port (bringing .training [1, 2]) 2) = .upFour ∧ upStatus (port (bringing .training [1]) 2) = .up ∧
    ((⟨true, false, [1]⟩ : PortTraining).data && (⟨0x4832, 0⟩ : Hello).device == 0x4832) = true ∧
    ((⟨true, true, []⟩ : PortTraining).data && (⟨0x4831, 0⟩ : Hello).device == 0x4832) = false ∧ portUp (port linked 2) = true ∧
    training.slotUsed = none ∧ ({ training with slotUsed := some true } : State).slotUsed ≠ none := by decide +kernel

def repair0 : Repair :=
  { id := 1, polders := [0], cls := 2, outcome := 0, detected := 0, record := 0, done := 0, source := 1, kind := 0, die := 0, unit := 0, spares := [],
    unfinished := [], poisoned := [], lost := false, active := true }
/-- The self-test of a defaulted slot holds the release until its repairs have ended. -/
theorem test_self_test_holds : trainingEnded { training with selfTest := true, reports := [repair0] } = false ∧
    trainingEnded { training with selfTest := true, reports := [{ repair0 with active := false }] } = true := by decide +kernel

/-- A blob of generation g with the sections that R324 asks for; what a slot of its bytes holds. -/
def blob0 (g : Word) : Blob := { gen := g, bins := [], delays := [], plan := { volts := [], fclk := 0, dclk := [] }, remaps := [], eqs := [], history := [] }
def slots (a b : List Byte) : State := { s0 with slotDue := true, flash := { s0.flash with slotA := a, slotB := b, image := [], chain := [] } }
def picked (a b : List Byte) : Option (Bool × Word) := (pickSlot (slots a b).flash).map fun x => (x.1, x.2.gen)
theorem witness_slots : (slots [] []).slotDue = true ∧ (slots [] []).boot = .ready ∧ picked [] [] = none ∧
    picked (blobBytes (blob0 0xFFFFFFFF)) (blobBytes (blob0 0)) = some (false, 0) ∧ picked (blobBytes (blob0 5)) (blobBytes (blob0 4)) = some (true, 5) ∧
    picked ((blobBytes (blob0 5)).set 0x50 9) (blobBytes (blob0 4)) = some (false, 4) := by decide +kernel

theorem witness_resets : linkUp s0 = true ∧ linkUp { s0 with perst := true } = false ∧ clocked s0 = true ∧ clocked State.reset = false ∧
    (linkUp s0 && s0.vfEnable && decide ((3 : Fin 4).val < s0.numVfs)) = true ∧
    (linkUp { s0 with numVfs := 3 } && true && decide ((3 : Fin 4).val < ({ s0 with numVfs := 3 } : State).numVfs)) = false ∧
    isHandling s0 0 = false ∧ isHandling (modPolder s0 0 fun P => { P with discard := some (2, 1) }) 0 = true ∧ (polder s0 0).st = .opened ∧
    s0.perst = false ∧ levelsLeft s0 = true ∧ (({ s0 with thermtrip := true } : State).thermtrip || s0.boot == .thermalHold) = true ∧
    ({ s0 with identity := true } : State).meterKey = false ∧ s0.slotUsed = none := by decide +kernel
theorem test_training_fails : (site (nextOf (exec (.siteTrainingDone 5 false) (oneLeft 3))) 5).st = .failed := by decide +kernel
theorem test_release : (nextOf (exec .release training)).boot = .ready ∧ (site (nextOf (exec .release training)) 31).deepSleep = false := by decide +kernel
theorem test_vf_reset : (polder (nextOf (exec (.vfReset 0) s0)) 0).st = .closed := by decide +kernel
theorem test_pf0_reset : (polder (nextOf (exec .pf0Reset s0)) 0).st = .absent ∧ (nextOf (exec .pf0Reset s0)).lastReset = 2 := by decide +kernel

/-! ## SMBus -/

def alerted : State := { s0 with smbAlert := true, alert := 4 }
theorem witness_smbus : smbAnswers s0 = true ∧ smbAnswers State.reset = false ∧ alerted.smbAlert = true ∧ smbAnswers alerted = true ∧
    s0.boot = .ready ∧ ({ s0 with boot := .recovery } : State).boot = .recovery ∧ training.boot ≠ .ready ∧ training.boot ≠ .recovery ∧
    training.boot ≠ .offline ∧ debugActive s0 = false := by decide +kernel
theorem test_smb_serial : (nextOf (exec .smbSerial { s0 with fuses := fuses0 })).lastRead.take 8 = [9, 0, 0, 0, 0, 0, 0, 0] := by decide +kernel
theorem test_smb_alert : (nextOf (exec .smbAlertResponse alerted)).smbAlert = false ∧
    (nextOf (exec .smbBootProgress s0)).lastRead.length = 2 ∧ (nextOf (exec .smbBootProgress s0)).lastRead.take 1 = [0x10] ∧ (nextOf (exec .smbModuleState { s0 with boot := .offline })).lastRead.take 1 = [3] := by decide +kernel

/-- The check value of the CRC-8 with polynomial 0x07 (log 101). -/
theorem test_crc8 : crc8 ("123456789".toList.map fun c => BitVec.ofNat 8 c.toNat) = 0xF4 := by decide +kernel

/-! ## Faults and repair -/

/-- Cluster 0 runs the launch that met the error. -/
def flt (source : Nat) : FaultReport :=
  { source := source, corrected := false, command := false, die := 0, kind := 0, unit := 0, users := [0], queue := 0, seq := 1, addr := A0, item := 7, bothCopies := true }
theorem witness_faults : s0.boot = .ready ∧ training.boot ≠ .ready ∧ diePolders s0 0 = [0] ∧ isRunning s0 0 = true ∧ closeRuns s0 0 = false ∧
    [0x01, 0x02, 0x03, 0x0A].contains (flt 0x0A).source = true ∧ (flt 7).users = [0] ∧ (flt 8).corrected = false ∧ linkUsers s0 (reportLink (flt 8)) = [0] ∧
    reportPolder s0 (flt 0x0C) = some 0 ∧ (flt 0x0C).item < 8 ∧ c3Base s0 = none ∧ (flt 4).corrected = false ∧
    (let s := veOn [0] id
     (liveCmd s 0 0 1).map (fun c => (c.body, metBy s 0 c (flt 4))) = some (.vk (vk0 [0]), some 0) ∧ reportPolder s (flt 4) = some 0 ∧
     strandsOthers s 0 0 1 0 = false) ∧
    (let r := { flt 5 with command := true, addr := 2 ^ 40 - 1 }
     r.addr < 2 ^ 40 ∧ isBad s0 r.addr = false ∧ reportPolder s0 r = some 0 ∧ liveCmd s0 0 r.queue r.seq = none) := by decide +kernel

def discarding : State := modPolder s0 0 fun P => { P with discard := some (2, 1) }
theorem witness_faults_early : training.boot = .training ∧ ({ s0 with boot := .recovery } : State).boot = .recovery ∧ (flt 0x0D).source = 0x0D := by decide +kernel
theorem test_rail_fault_in_recovery : (nextOf (exec (.faultDetected (flt 0x0D)) { s0 with boot := .recovery })).boot = .offline ∧
    (nextOf (exec (.faultDetected (flt 0x0D)) training)).boot = .offline := by decide +kernel
theorem witness_discard : (polder discarding 0).discard = some (2, 1) ∧ (queue discarding 0 0).st = .running ∧ (queue discarding 0 1).st = .absent ∧
    recordQueues discarding 0 = [0] ∧ (polder s0 0).discard = none := by decide +kernel

def repairing (st : PState) : State := { (modPolder s0 0 fun P => { P with st := st }) with reports := [repair0], lastRepair := 1 }
def mended (missing : Bool) : RepairResult := { remaps := [], missing := missing, poisoned := [], unfinished := [], bins := [] }
theorem witness_repair : ([PState.repairing, .shut].all fun st => (repairing st).reports.find? (fun R => R.id == 1) == some repair0 &&
      repairReady (repairing st) repair0 && !(func (repairing st) (vf 0)).resetting) = true ∧ repair0.polders.Nodup ∧
    repairOutcome (repairing .repairing) (servedPolders (repairing .repairing) repair0) (mended false) true = 0 ∧ repairOutcome (repairing .repairing) (servedPolders (repairing .repairing) repair0) (mended true) true = 2 ∧
    ((List.range 5).all fun d => (crowded (repairing .repairing) d).isEmpty) = true ∧ (repairing .repairing).pagesDue = [] ∧
    servedPolders (repairing .repairing) repair0 = [0] ∧ servedPolders (repairing .closed) repair0 = [] ∧
    s0.reports.find? (fun R => R.id == 1) = none := by decide +kernel
theorem test_repair_opens : (polder (nextOf (exec (.repairDone 1 (mended false)) (repairing .repairing))) 0).st = .opened ∧
    (polder (nextOf (exec (.repairDone 1 (mended true)) (repairing .repairing))) 0).st = .faulted ∧
    (polder (nextOf (exec (.repairDone 1 (mended false)) (repairing .shut))) 0).st = .closed := by decide +kernel

def beat (i : Nat) : List Bool := (List.range 6).map (· != i)
def badMap : Comp 64 := { val := 0, comp := 0 }
/-- The first core lost goes to the spare core; then a role is lost with each core, the spare's own being the one it took over. -/
theorem witness_heartbeat : (beat 6).all id = true ∧ (List.range 6).all (fun i => !(beat i).getD i true && (List.range 6).all fun k => k == i || (beat i).getD k false) = true ∧
    s0.boot = .ready ∧ spareRole s0 = none ∧ s0.coresLost = [] ∧ roleLost s0 0 = none ∧ c3Base s0 = none ∧
    (let s : State := { s0 with coresLost := [0] }
     roleLost s 1 = some 1 ∧ roleLost s 4 = some 4 ∧ roleLost s 5 = some 0 ∧ (0 : Nat) ∈ s.coresLost) ∧
    (let s : State := { s0 with softRemaps := [⟨mkRemap 0xC 0 2 5, ~~~(mkRemap 0xC 0 2 5)⟩] }
     (replOf s 0xC 0 2).isSome = true ∧ roleLost s 5 = some 2) := by decide +kernel
theorem witness_scans : ((s0.softRemaps ++ ({ s0 with fuses := fuses0 } : State).fuses.remaps.map (·.2)).all fun c => compAgrees c) = true ∧
    ([badMap].find? fun c => !compAgrees c) = some badMap ∧ (s0.trims.all fun y => compAgrees y.2) = true ∧
    ([(0, badTrim)].find? fun y => !compAgrees y.2) = some (0, badTrim) ∧ trimDie 4 = 4 ∧ trimDie 5 = 0 ∧ mapDie 1 = 0 ∧ mapDie 9 = 4 := by decide +kernel
theorem witness_margin : dieIdle s0 0 = false ∧ dieIdle { s0 with layout := .none } 0 = true ∧ s0.marginDies.get 0 = false ∧
    ({ s0 with marginDies := s0.marginDies.set 1 true } : State).marginDies.get 1 = true ∧
    (remapsInForce s0).any (sameUnit (mkRemap 0xC 4 0 0)) = false ∧ poolRemaining s0 (poolOf s0 (mkRemap 0xC 4 0 0)) < 2 := by decide +kernel
/-- Two soft remaps of one unit, the later in force. -/
def remapped : State := { s0 with softRemaps := [heldComp (mkRemap 8 0 5 0), heldComp (mkRemap 8 0 5 1)], marginDies := s0.marginDies.set 0 true }
theorem witness_promote : lastSoft remapped (mkRemap 8 0 5 1) = some (mkRemap 8 0 5 1) ∧ rmKind (mkRemap 8 0 5 1) ≠ 6 ∧
    fuseBank (mkRemap 8 0 5 1) = some 0 ∧ fusesUsed remapped 0 < 64 ∧ (mkRemap 8 0 5 1) ∉ fuseRemaps remapped := by decide +kernel
/-- The remap in force is promoted, not the first of the unit (R349); a spare in service that fails is retired (R352). -/
theorem test_promote : fuseRemaps (nextOf (exec (.marginTestDone 0 ⟨[mkRemap 8 0 5 1], []⟩) remapped)) = [mkRemap 8 0 5 1] ∧
    (replOf (nextOf (exec (.marginTestDone 0 ⟨[mkRemap 8 0 5 2], []⟩) remapped)) 8 0 5) = some 2 := by decide +kernel
theorem witness_margin_asked :
    asked { s0 with layout := .none } 0 6 16 ([2, 0, 15] ++ zeros 13) (fun s b => fld b 0 1 == 2 && spareRsvd b &&
      (List.finRange 4).all fun d => !(BitVec.ofNat 8 (fld b 2 1)).getLsbD d.val || dieIdle s d) = true ∧
    asked s0 0 6 16 ([2, 0, 1] ++ zeros 13) (fun s b => fld b 0 1 == 2 && spareRsvd b && !dieIdle s 0) = true ∧
    asked s0 0 6 16 ([2, 0, 16] ++ zeros 13) (fun _ b => fld b 0 1 == 2 && spareRsvd b && decide (16 ≤ fld b 2 1)) = true := by decide +kernel
theorem witness_scrub : isBad s0 A0 = false ∧ 2 ^ 40 ≤ A0 ∧ A0 < 5 * 2 ^ 40 ∧ isBad { s0 with poison := [(granule A0, true)] } A0 = true := by decide +kernel
theorem test_scrub : (nextOf (exec (.scrub A0 1) s0)).corrected.get 1 = 1 ∧ isBad (nextOf (exec (.scrub A0 2) s0)) A0 = true := by decide +kernel
theorem test_thermal_fault : (nextOf (exec (.faultDetected (flt 0x0D)) s0)).boot = .offline := by decide +kernel

/-! ## Upkeep, power and meter -/

def awake : State := { s0 with sites := Vector.replicate 32 { Site.reset with st := .trained 0 } }
theorem witness_upkeep : siteAwake (site awake 31) = true ∧ siteAwake (site s0 31) = false ∧ siteTrained (site s0 31) = false ∧
    dieIdle { awake with layout := .none } (siteDie 31) = true ∧ isOpen s0 0 = true ∧ isOpen s0 1 = false ∧
    ((channelSets s0 0).all fun ds => (skewed s0 (polder s0 0) ds).isNone) = true ∧ s0.modPwrgd = true ∧ State.reset.modPwrgd = false := by decide +kernel
def skewedState : State := modPolder s0 0 fun P => { P with chanBytes := [(0, 2 ^ 40)] }
theorem witness_skew : ((channelSets skewedState 0).any fun ds => (skewed skewedState (polder skewedState 0) ds).isSome) = true := by decide +kernel
theorem witness_thermal : s0.thermtrip = false ∧ s0.boot ≠ .thermalHold ∧ levelAt siteThresholds (site s0 3).level (4 * 111) = 5 ∧
    levelAt iDieThresholds s0.power.iLevel (4 * 130) = 3 ∧ levelAt dieThresholds (s0.power.dieLevel.get 2) (4 * 130) = 3 := by decide +kernel
theorem witness_thermal_hold : levelAt siteThresholds (site { s0 with boot := .thermalHold } 3).level (4 * 111) = 5 ∧ (site s0 3).level < 5 := by decide +kernel
theorem test_trip_under_perst : (nextOf (exec (.mr4Poll 3 (4 * 111) 8) { awake with boot := .fuses, perst := true })).boot = .thermalHold := by decide +kernel
theorem test_thermal_trip : (nextOf (exec (.mr4Poll 3 (4 * 111) 8) awake)).thermtrip = true ∧
    (site (nextOf (exec (.mr4Poll 3 (4 * 86) 8) awake)) 3).refresh = 4 := by decide +kernel
def hot : State := { s0 with power := { s0.power with inputs := List.replicate 1000 4000 } }
theorem witness_power_rules : s0.pwrbrk = false ∧ s0.perst = false ∧ ({ s0 with pwrbrk := true } : State).pwrbrk = true ∧
    above hot.power 1000 100 = true ∧ below { s0.power with inputs := [1] } 1000 94 = true ∧ 3300 < (3301 : Nat) := by decide +kernel
theorem test_brake : (nextOf (exec .pwrbrkAssert s0)).power.aclk = 1800 ∧ (nextOf (exec .pwrbrkAssert s0)).power.duty = 4 := by decide +kernel

def req0 (last : DWord) : Req :=
  { start := 0, last := last, cmds := 1, live := 0, energy := 9, shared := 0, discarded := 0, reported := 0, reportedShared := 0, reportedDisc := 0, delay := 1, cut := false }
def requesting (last : DWord) : State := modPolder s0 0 fun P => { P with reqs := [(7, some (req0 last))] }
/-- Records whose energy comes with this sample and with the next; a live read that waits. -/
def snapAt (i : Nat) : RingDue := { bytes := zeros 256, snap := some { set := 3, gen := 0, slot := some i, energy := 0 } }
def waitingLive : State := modFunc (modPolder s0 0 fun P => { P with ringDue := [snapAt 3, snapAt 12] }) (vf 0) fun F =>
  { F with busy := true, latched := some { seq := 1, time := 0, bytes := [] }, live := some { bytes := zeros 144, snaps := [{ set := 3, gen := 0, slot := some 9, energy := 0 }] } }
theorem witness_snaps : (waitingRequest waitingLive (vf 0)).isSome = true ∧ (func waitingLive (vf 0)).live.isSome = true ∧
    (polder waitingLive 0).ringDue.length = 2 ∧ (polder s0 0).ringDue = [] ∧ (polder s0 0).dump = none := by decide +kernel
/-- A request of less than 1 ms, one of 1 ms, before and at the end of its delay; one that was cut; a batch with room for one record and with none. -/
theorem witness_requests : tabGet none (polder (requesting 999999) 0).reqs 7 = some (req0 999999) ∧ tabGet none (polder s0 0).reqs 7 = none ∧
    (polder (requesting 999999) 0).inflight = [] ∧ (req0 999999).last - (req0 999999).start < 1000000 ∧
    1000000 ≤ (req0 1000000).last - (req0 1000000).start ∧ (chain s0 (chainOf 0)).seq - (chain s0 (chainOf 0)).first < 4095 ∧
    (let at_ (t : DWord) : State := { requesting 1000000 with localCount := t }
     (acctTime (at_ 1999999) 0 - (req0 1000000).last).toNat < 1000000 * (req0 1000000).delay ∧
     1000000 * (req0 1000000).delay ≤ (acctTime (at_ 2000000) 0 - (req0 1000000).last).toNat) ∧
    4095 ≤ (chain (modChain s0 (chainOf 0) fun C => { C with seq := 4095 }) (chainOf 0)).seq ∧
    ((polder (busy [cmd0 2 .done]) 0).inflight.any fun y => y.e.reqId == 7) = true ∧ ({ req0 5 with cut := true } : Req).cut = true := by decide +kernel
def ringed (n : Nat) (i : Nat) : State := modChain s0 4 fun C => { C with ring := some (0x8000, n), buffer := [(i, zeros 64)] }
theorem witness_meter_rings : (chain (ringed 2 1) 4).ring = some (0x8000, 2) ∧ (chain (ringed 2 1) 4).buffer = [(1, zeros 64)] ∧
    1 < (chain (ringed 2 1) 4).released + 2 ∧ ¬ 2 < (chain (ringed 2 2) 4).released + 2 ∧ (chain s0 4).ring = none ∧ s0.meterKey = false ∧ meterRuns s0 = true ∧ meterRuns State.reset = false ∧
    ((batchRecords s0 0).chains.get 0).seq = ((batchRecords s0 0).chains.get 0).first ∧
    ((batchRecords (modChain s0 0 fun C => { C with seq := 1 }) 0).chains.get 0).seq ≠ ((batchRecords (modChain s0 0 fun C => { C with seq := 1 }) 0).chains.get 0).first := by
  decide +kernel
def coalesced (mask : Word) (vm : Bool) : State :=
  modFunc (modPolder s0 0 fun P => { P with queues := P.queues.set 0 { q0 with unsignalled := 1 } }) (vf 0) fun F =>
    { F with config := { F.config with msixEnable := true }, mask := mask, msixTable := if vm then F.msixTable else [] }
theorem witness_coalescing : (queue (coalesced 0 true) 0 0).unsignalled = 1 ∧ (queue s0 0 0).unsignalled = 0 ∧
    (func (coalesced 0 true) (vf 0)).mask.getLsbD 16 = false ∧ (func (coalesced 0x10000 true) (vf 0)).mask.getLsbD 16 = true ∧
    (queue (coalesced 0 true) 0 0).vector = 2 ∧ vecMasked (func (coalesced 0 true) (vf 0)) 2 = true ∧
    vecMasked (func (coalesced 0 false) (vf 0)) 2 = false := by decide +kernel
theorem test_coalesced : (nextOf (exec (.cqCoalesceTimeout 0 0) (coalesced 0 false))).msix = [(vf 0, 2)] := by decide +kernel
theorem test_deliver : tabGet 0 (nextOf (exec (.meterRecordDeliver 4) (modChain s0 4 fun C => { C with ring := some (0x8000, 2), buffer := [(3, [7] ++ zeros 63)], released := 2 }))).hostMem
    0x8040 = 7 := by decide +kernel

end Sys2Proof.Tests
end

section
/-! SUPPORT. Facts that the proofs below share: the bytes of a structure (R8), an update of one function, a message sent or noted
and a cause raised (R287, R314). -/

namespace Sys2Proof.Machine

/-! ## Bytes of a structure (R8) -/

@[simp] theorem leBytes_length (n x : Nat) : (leBytes n x).length = n := by
  induction n generalizing x with
  | zero => rfl
  | succ n ih => simp [leBytes, ih]

@[simp] theorem zeros_length (n : Nat) : (zeros n).length = n := List.length_replicate

theorem leVal_leBytes (n x : Nat) : leVal (leBytes n x) = x % 256 ^ n := by
  induction n generalizing x with
  | zero => simp [leBytes, leVal, Nat.mod_one]
  | succ n ih =>
    have hlow : (BitVec.ofNat 8 x).toNat = x % 256 := BitVec.toNat_ofNat ..
    rw [leBytes, leVal, ih, hlow, Nat.pow_succ', Nat.mod_mul]

theorem leVal_lt (bs : List Byte) : leVal bs < 256 ^ bs.length := by
  induction bs with
  | nil => simp [leVal]
  | cons b bs ih =>
    have hb := b.isLt
    rw [leVal, List.length_cons, Nat.pow_succ]
    omega

theorem fld_lt (bs : List Byte) (o n : Nat) : fld bs o n < 256 ^ n :=
  (leVal_lt _).trans_le (Nat.pow_le_pow_right (by decide) (List.length_take_le ..))

/-- Past a part of a structure that ends before offset o. -/
theorem drop_append_past {a : List Byte} {o : Nat} (b : List Byte) (h : a.length ≤ o) :
    (a ++ b).drop o = b.drop (o - a.length) := by
  rw [List.drop_append, List.drop_of_length_le h, List.nil_append]

/-- The bytes of a part that stands first. -/
theorem take_append_part {a : List Byte} {n : Nat} (b : List Byte) (h : a.length = n) : (a ++ b).take n = a :=
  List.take_left' h

theorem fld_append_past {a : List Byte} {o : Nat} (b : List Byte) (n : Nat) (h : a.length ≤ o) :
    fld (a ++ b) o n = fld b (o - a.length) n := by
  rw [fld, drop_append_past b h, fld]

theorem fld_leBytes_append (n x : Nat) (b : List Byte) : fld (leBytes n x ++ b) 0 n = x % 256 ^ n := by
  rw [fld, List.drop_zero, take_append_part b (leBytes_length n x), leVal_leBytes]

/-- What lies at an offset of a structure written into a table. -/
theorem tabBytes_tabSplice_part (t : Tab Byte) (a o n : Nat) (bs : List Byte) (h : o + n ≤ bs.length) :
    tabBytes (tabSplice 0 t a bs) (a + o) n = (bs.drop o).take n := by
  apply List.ext_getElem
  · simp [tabBytes]; omega
  · intro i h₁ h₂
    have hi : i < n := by simpa [tabBytes] using h₁
    simp [tabBytes, tabGet_tabSplice, show a ≤ a + o + i ∧ a + o + i < a + bs.length by omega,
      show a + o + i - a = o + i by omega, List.getElem?_eq_getElem (show o + i < bs.length by omega)]

/-! ## One function of the module -/

theorem modFunc_modFunc (s : State) (f : Fin 5) (g h : Func → Func) :
    modFunc (modFunc s f g) f h = modFunc s f fun F => h (g F) := by
  simp only [modFunc, vmod, Vector.get_eq_getElem, Vector.getElem_set_self, Vector.set_set]

/-- An update acts by what it makes of the function as it stands. -/
theorem modFunc_congr {s : State} {f : Fin 5} {g h : Func → Func} (e : g (func s f) = h (func s f)) :
    modFunc s f g = modFunc s f h := congrArg (fun F => { s with funcs := s.funcs.set f F }) e

theorem modFunc_id (s : State) (f : Fin 5) : modFunc s f (fun F => F) = s := by
  simp only [modFunc, vmod, Vector.get_eq_getElem, Vector.set_getElem_self]

/-- A message sent or noted as pending (R314): nothing else of the function moves, and nothing of the module but the
messages. -/
theorem sendMsix_eq (s : State) (f : Fin 5) (v : Nat) :
    sendMsix s f v = { (modFunc s f fun F => { F with msixPending := (func (sendMsix s f v) f).msixPending }) with
      msix := (sendMsix s f v).msix } := by
  have hsame : modFunc s f (fun F => { F with msixPending := (func s f).msixPending }) = s :=
    (modFunc_congr (h := fun F => F) rfl).trans (modFunc_id s f)
  unfold sendMsix
  split
  · rw [hsame]
  · split
    · rw [func_modFunc_self]; exact modFunc_congr rfl
    · change _ = { (modFunc s f fun F => { F with msixPending := (func s f).msixPending }) with msix := s.msix ++ [(f, v)] }
      rw [hsame]

/-- A cause raised (R287, R314): its bit, and at most one message. -/
theorem raiseCause_eq (s : State) (f : Fin 5) (bit : Nat) :
    raiseCause s f bit = { (modFunc s f fun F =>
      { F with cause := F.cause ||| (1#32 <<< bit), msixPending := (func (raiseCause s f bit) f).msixPending }) with
        msix := (raiseCause s f bit).msix } := by
  unfold raiseCause
  dsimp only
  split
  · rw [func_modFunc_self]; exact modFunc_congr rfl
  · exact (sendMsix_eq ..).trans (by rw [modFunc_modFunc])

/-- What a raised cause leaves of its function: all but the cause bits and the pending messages. -/
theorem func_raiseCause (s : State) (f : Fin 5) (bit : Nat) :
    func (raiseCause s f bit) f = { func s f with
      cause := (func s f).cause ||| (1#32 <<< bit), msixPending := (func (raiseCause s f bit) f).msixPending } :=
  (congrArg (func · f) (raiseCause_eq s f bit)).trans (func_modFunc_self ..)

theorem func_sendMsix (s : State) (f : Fin 5) (v : Nat) :
    func (sendMsix s f v) f = { func s f with msixPending := (func (sendMsix s f v) f).msixPending } :=
  (congrArg (func · f) (sendMsix_eq s f v)).trans (func_modFunc_self ..)

theorem hostMem_sendMsix (s : State) (f : Fin 5) (v : Nat) : (sendMsix s f v).hostMem = s.hostMem := by rw [sendMsix_eq]; rfl

theorem polders_sendMsix (s : State) (f : Fin 5) (v : Nat) : (sendMsix s f v).polders = s.polders := by rw [sendMsix_eq]; rfl

theorem polder_sendMsix (s : State) (f : Fin 5) (v : Nat) (x : Fin 4) : polder (sendMsix s f v) x = polder s x :=
  congrArg (Vector.get · x) (polders_sendMsix s f v)

/-- The cause bit of a queue sends nothing by itself. -/
theorem raiseCause_of_queue (s : State) (f : Fin 5) {bit : Nat} (h : 16 ≤ bit) :
    raiseCause s f bit = modFunc s f fun F => { F with cause := F.cause ||| (1#32 <<< bit) } := if_pos (.inr h)

end Sys2Proof.Machine
end

section
/-! SUPPORT. The host's side: a response of the mailbox is a whole answer (R292, R293); the header checks (R295); a write into the
request buffer (R284). -/

namespace Sys2Proof.Machine

/-! ## The mailbox's response (R292, R293) -/

theorem respHeader_length {bs : List Byte} (h : 0x20 ≤ bs.length) (st : Status) (n : Nat) :
    (respHeader bs st n).length = 64 := by
  simp [respHeader]; omega

/-- The fields of a response's header at their offsets, and the payload after it. -/
theorem respHeader_fields {bs : List Byte} (h : 0x20 ≤ bs.length) (st : Status) (n : Nat) (pay : List Byte) :
    let R := respHeader bs st n ++ pay
    fld R 0 2 = fld bs 0 2 ∧ fld R 2 2 = fld bs 2 2 ∧ fld R 4 4 = n % 256 ^ 4 ∧ fld R 8 2 = statusCode st ∧
      fld R 0xC 2 = 2 ^ 16 - 1 - fld bs 0 2 ∧ fld R 0x10 4 = (2 ^ 32 - 1 - n) % 256 ^ 4 ∧
      (R.drop 0x18).take 8 = (bs.drop 0x18).take 8 ∧ R.drop 64 = pay := by
  have htyp : fld bs 0 2 < 256 ^ 2 := fld_lt ..
  have hcomp : 2 ^ 16 - 1 - fld bs 0 2 < 256 ^ 2 := by omega
  have hst : statusCode st < 256 ^ 2 := by cases st <;> decide
  have hcookie : ((bs.drop 0x18).take 8).length = 8 := by simp; omega
  have hpay : (respHeader bs st n ++ pay).drop 64 = pay := List.drop_left' (respHeader_length h st n)
  refine ⟨?_, ?_, ?_, ?_, ?_, ?_, ?_, hpay⟩ <;>
    simp (disch := simp) only [respHeader, List.append_assoc, fld_append_past, fld_leBytes_append, drop_append_past, List.drop_zero,
      leBytes_length, zeros_length, Nat.reduceSub, Nat.mod_eq_of_lt (fld_lt bs _ 2), Nat.mod_eq_of_lt hst,
      Nat.mod_eq_of_lt hcomp, take_append_part _ hcookie]

/-- A function as a response leaves it, before the cause is raised (R293). -/
def withResponse (bs : List Byte) (st : Status) (pay : List Byte) (F : Func) : Func :=
  { F with mbRsp := tabSplice 0 F.mbRsp 0 (respHeader bs st pay.length ++ pay), latched := none, busy := false, ready := true,
           rspSeq := BitVec.ofNat 16 (fld bs 2 2) }

theorem respond_eq (s : State) (f : Fin 5) (bs : List Byte) (st : Status) (pay : List Byte) :
    respond s f bs st pay = raiseCause (modFunc s f (withResponse bs st pay)) f 0 := rfl

theorem func_respond (s : State) (f : Fin 5) (bs : List Byte) (st : Status) (pay : List Byte) :
    (func (respond s f bs st pay) f).mbRsp = tabSplice 0 (func s f).mbRsp 0 (respHeader bs st pay.length ++ pay) ∧
      (func (respond s f bs st pay) f).rspSeq = BitVec.ofNat 16 (fld bs 2 2) := by
  rw [respond_eq, func_raiseCause, func_modFunc_self]
  exact ⟨rfl, rfl⟩

/-- A value agrees with the complement that the module writes beside it (R10). -/
theorem compOk_complement (w v : Nat) (h : v < 2 ^ (8 * w)) : compOk w v (2 ^ (8 * w) - 1 - v) = true := by
  have hc : 2 ^ (8 * w) - 1 - v < 2 ^ (8 * w) := by omega
  rw [compOk, Nat.mod_eq_of_lt h, Nat.mod_eq_of_lt hc, beq_iff_eq]
  omega

/-- Every response is a whole answer in the sense of R292 and R293. -/
theorem respond_answered (s : State) (f : Fin 5) {bs : List Byte} (h : 0x20 ≤ bs.length) (st : Status) (pay : List Byte) :
    Answered s (respond s f bs st pay) f bs st pay := by
  obtain ⟨hrsp, hseq⟩ := func_respond s f bs st pay
  have hlen : (respHeader bs st pay.length ++ pay).length = 64 + pay.length := by
    rw [List.length_append, respHeader_length h]
  have hbytes : tabBytes (func (respond s f bs st pay) f).mbRsp 0 (64 + pay.length) = respHeader bs st pay.length ++ pay := by
    rw [hrsp, ← hlen, tabBytes_tabSplice]
  obtain ⟨ftyp, fseq, flen, fst, fcomp, fcompLen, fcookie, fpay⟩ := respHeader_fields h st pay.length pay
  simp only [Answered, hbytes]
  refine ⟨ftyp, fseq, fst, ?_, fun hpay => ?_, fcookie, fpay, ?_, ?_⟩
  · rw [ftyp, fcomp]
    exact compOk_complement 2 _ (fld_lt ..)
  · rw [flen, fcompLen, Nat.mod_eq_of_lt (show _ < 256 ^ 4 from hpay), Nat.mod_eq_of_lt (by omega)]
    exact ⟨rfl, compOk_complement 4 _ hpay⟩
  · rw [hseq, BitVec.toNat_ofNat]
    exact Nat.mod_eq_of_lt (fld_lt ..)
  · have heq := raiseCause_eq (modFunc s f (withResponse bs st pay)) f 0
    rw [modFunc_modFunc, ← respond_eq] at heq
    rw [hrsp, hseq]
    exact heq.trans (congrArg (fun u : State => { u with msix := (respond s f bs st pay).msix }) (modFunc_congr rfl))

/-! ## The header checks (R295) -/

theorem reqBytes_length (r : Request) : (reqBytes r).length = 4096 := by simp [reqBytes, tabBytes]

/-- Orders 1 to 3, the first failure first. -/
theorem headerStatus_eq (s : State) (f : Fin 5) (r : Request) :
    headerStatus s f r =
      if headAgrees (reqBytes r) then
        if headKnown r then if typeAllowed s f (reqBytes r) then none else some .accessDenied
        else some .descInvalid
      else some .complementMismatch := rfl

theorem unknownMessageType_refused {s : State} {f : Fin 5} {r : Request} {st : Status} (hw : removalWaits s f = false)
    (hr : waitingRequest s f = some r) (hst : headerStatus s f r = some st) :
    doUnknownMessageType f s = respond s f (reqBytes r) st [] := by
  simp [doUnknownMessageType, hw, hr, hst]

theorem unknownMessageType_passed {s : State} {f : Fin 5} {r : Request} (hw : removalWaits s f = false)
    (hr : waitingRequest s f = some r) (hst : headerStatus s f r = none) :
    doUnknownMessageType f s = if opKnown (reqType (reqBytes r)) (reqPayload (reqBytes r)) then s
      else respond (endChallenge s (reqType (reqBytes r))) f (reqBytes r) .descInvalid [] := by
  simp [doUnknownMessageType, hw, hr, hst]

/-! ## The request buffer of BAR0 (R284) -/

/-- An aligned 4-byte write into the request buffer: only the buffer moves, and its bytes count from the buffer's base. -/
theorem registerWrite_mbReq (s : State) (f : Fin 5) (v : DWord) (off : Nat) (hf : hostReach s f = true)
    (h₀ : 0x10000 ≤ off) (h₁ : off < 0x11000) (h₄ : off % 4 = 0) :
    exec (.registerWrite f (.bar0 off 4) v) s = .next (modFunc s f fun F =>
      { F with mbReq := tabSplice 0 F.mbReq (off - 0x10000) (leBytes 4 (v.setWidth 32).toNat) }) := by
  have hwrite : bar0Write4 f off (v.setWidth 32) s = modFunc s f fun F =>
      { F with mbReq := tabSplice 0 F.mbReq (off - 0x10000) (leBytes 4 (v.setWidth 32).toNat) } := by
    unfold bar0Write4
    simp (disch := omega) only [if_neg, if_pos]
  change Host.Outcome.next (doRegisterWrite f (.bar0 off 4) v s) = _
  simp only [doRegisterWrite, bar0Write, hf, h₄, and_self, if_true, hwrite]

theorem tabGet_registerWrite_mbReq (s : State) (f : Fin 5) (off : Nat) (w : Word) (o : Nat) :
    tabGet 0 (func (modFunc s f fun F => { F with mbReq := tabSplice 0 F.mbReq off (leBytes 4 w.toNat) }) f).mbReq o =
      if off ≤ o ∧ o < off + 4 then (leBytes 4 w.toNat).getD (o - off) 0 else tabGet 0 (func s f).mbReq o := by
  simp only [func_modFunc_self, tabGet_tabSplice, leBytes_length]

end Sys2Proof.Machine
end

section
/-! SUPPORT. `BesideQueues`: what goes on around a completion and moves nothing that it reports through. The lemmas run forward,
as those of `Sound` do. -/

namespace Sys2Proof.Machine

variable {p : Fin 4} {s₀ s t : State}

/-! ## What goes on beside a polder's queues -/

/-- From s to t nothing moved that a completion reports through: the host's memory, the functions, the other polders, and of
polder p its queues, its events and its commands in flight. -/
structure BesideQueues (p : Fin 4) (s t : State) : Prop where
  hostMem : t.hostMem = s.hostMem
  funcs : t.funcs = s.funcs
  others : ∀ x, x ≠ p → polder t x = polder s x
  queues : (polder t p).queues = (polder s p).queues
  events : (polder t p).events = (polder s p).events
  inflight : (polder t p).inflight = (polder s p).inflight

namespace BesideQueues

theorem refl (p : Fin 4) (s : State) : BesideQueues p s s := ⟨rfl, rfl, fun _ _ => rfl, rfl, rfl, rfl⟩

theorem trans (h : BesideQueues p s₀ s) (k : BesideQueues p s t) : BesideQueues p s₀ t where
  hostMem := k.hostMem.trans h.hostMem
  funcs := k.funcs.trans h.funcs
  others x hx := (k.others x hx).trans (h.others x hx)
  queues := k.queues.trans h.queues
  events := k.events.trans h.events
  inflight := k.inflight.trans h.inflight

/-- An update of anything but host memory, functions and polders. -/
theorem same (h : BesideQueues p s₀ s) (h₁ : t.hostMem = s.hostMem) (h₂ : t.funcs = s.funcs) (h₃ : t.polders = s.polders) :
    BesideQueues p s₀ t :=
  have hp : ∀ x, polder t x = polder s x := fun x => congrArg (Vector.get · x) h₃
  h.trans ⟨h₁, h₂, fun x _ => hp x, by rw [hp], by rw [hp], by rw [hp]⟩

theorem foldl {α : Type} {f : State → α → State} (h : BesideQueues p s₀ s)
    (hf : ∀ s x, BesideQueues p s₀ s → BesideQueues p s₀ (f s x)) {xs : List α} : BesideQueues p s₀ (xs.foldl f s) := by
  induction xs generalizing s with
  | nil => exact h
  | cons x xs ih => exact ih (hf s x h)

theorem queue (h : BesideQueues p s₀ s) (q : Fin 16) : queue s p q = queue s₀ p q := congrArg (Vector.get · q) h.queues

theorem func (h : BesideQueues p s₀ s) (f : Fin 5) : func s f = func s₀ f := congrArg (Vector.get · f) h.funcs

theorem cmdAt (h : BesideQueues p s₀ s) (q : Fin 16) (n : Word) : cmdAt s p q n = cmdAt s₀ p q n := by
  rw [Machine.cmdAt, h.inflight, Machine.cmdAt]

end BesideQueues

theorem polder_modPolder_ne {x : Fin 4} (s : State) (f : Polder → Polder) (h : x ≠ p) :
    polder (modPolder s p f) x = polder s x := by rw [polder_modPolder, if_neg h]

theorem modPolder_beside (h : BesideQueues p s₀ s) {f : Polder → Polder}
    (hq : ∀ P, (f P).queues = P.queues := by exact fun _ => rfl)
    (he : ∀ P, (f P).events = P.events := by exact fun _ => rfl)
    (hi : ∀ P, (f P).inflight = P.inflight := by exact fun _ => rfl) : BesideQueues p s₀ (modPolder s p f) :=
  h.trans
    { hostMem := rfl
      funcs := rfl
      others := fun x => polder_modPolder_ne s f
      queues := by rw [polder_modPolder_self, hq]
      events := by rw [polder_modPolder_self, he]
      inflight := by rw [polder_modPolder_self, hi] }

theorem modSite_beside (h : BesideQueues p s₀ s) {m : Fin 32} {f : Site → Site} : BesideQueues p s₀ (modSite s m f) :=
  h.same rfl rfl rfl

theorem nextDraw_beside (h : BesideQueues p s₀ s) : BesideQueues p s₀ (nextDraw s) := h.same rfl rfl rfl

/-! ### Memory, traffic and counters -/

theorem memWrite_beside (h : BesideQueues p s₀ s) {a : Nat} {bs : List Byte} : BesideQueues p s₀ (memWrite s a bs).1 := by
  unfold memWrite
  dsimp only
  split
  · exact h
  · have put (lo hi : Nat) {u : State} (hu : BesideQueues p s₀ u) :
        BesideQueues p s₀ (if lo < hi then memPut u lo ((bs.drop (lo - a)).take (hi - lo)) else u) := by
      split
      · exact hu.same rfl rfl rfl
      · exact hu
    exact put _ _ (h.same rfl rfl rfl)

theorem touchBlocks_beside (h : BesideQueues p s₀ s) {k a n : Nat} : BesideQueues p s₀ (touchBlocks k s p a n) := by
  induction k generalizing s a n with
  | zero => exact h
  | succ k ih =>
    simp only [touchBlocks]
    split
    · exact h
    · apply ih
      split
      · exact h
      · apply modSite_beside
        exact modPolder_beside h

theorem touch_beside (h : BesideQueues p s₀ s) {a n : Nat} : BesideQueues p s₀ (touch s p a n) := by
  unfold touch
  split
  · exact h
  · exact touchBlocks_beside h

theorem countAdd_beside (h : BesideQueues p s₀ s) {set : BitVec 16} {i : Fin 14} {n : Nat} :
    BesideQueues p s₀ (countAdd s p set i n) := h.same rfl rfl rfl

theorem noteAccess_beside (h : BesideQueues p s₀ s) {set : BitVec 16} {a n : Nat} :
    BesideQueues p s₀ (noteAccess s p set a n) := by
  unfold noteAccess
  split
  · exact countAdd_beside h
  · exact touch_beside (countAdd_beside h)

theorem unitWrite_beside (h : BesideQueues p s₀ s) {set : BitVec 16} {a : Nat} {bs : List Byte} :
    BesideQueues p s₀ (unitWrite s p set a bs).1 := noteAccess_beside (memWrite_beside h)

theorem regionWrite_beside (h : BesideQueues p s₀ s) {a : Nat} {bs : List Byte} :
    BesideQueues p s₀ (regionWrite s p a bs) := touch_beside (memWrite_beside h)

/-! ### The trace ring and the snapshots -/

theorem writeRing_beside (h : BesideQueues p s₀ s) {bytes : List Byte} : BesideQueues p s₀ (writeRing s p bytes) :=
  modPolder_beside (regionWrite_beside (regionWrite_beside h))

theorem flushRing_beside (h : BesideQueues p s₀ s) : BesideQueues p s₀ (flushRing s p) :=
  modPolder_beside (h.foldl fun _ _ k => writeRing_beside k)

theorem traceRecord_beside (h : BesideQueues p s₀ s) {typ qb : Nat} {rounded : Bool} {op : Nat} {seq rid : Word} {set : Nat}
    {body : List Byte} {snap : Option Snap} :
    BesideQueues p s₀ (traceRecord s p typ qb rounded op seq rid set body snap) := by
  unfold traceRecord
  dsimp only
  split
  · exact h
  · exact flushRing_beside (modPolder_beside h)

theorem toEdge_beside (h : BesideQueues p s₀ s) {k : Nat} : BesideQueues p s₀ (toEdge s p k) := by
  unfold toEdge tick
  dsimp only
  split
  · split
    · exact h.same rfl rfl rfl
    · exact h
  · exact h

theorem countTimed_beside (h : BesideQueues p s₀ s) {set : BitVec 16} : BesideQueues p s₀ (countTimed s p set) := by
  unfold countTimed
  exact nextDraw_beside (countAdd_beside (countAdd_beside (countAdd_beside h)))

theorem snapEdge_beside (h : BesideQueues p s₀ s) {k : Nat} : BesideQueues p s₀ (snapEdge s p k) := h.same rfl rfl rfl

theorem takeSnap_beside (h : BesideQueues p s₀ s) {k : Nat} : BesideQueues p s₀ (takeSnap s p k) := by
  have hedge := toEdge_beside h (k := k)
  unfold takeSnap
  dsimp only
  split
  · exact snapEdge_beside hedge
  · exact snapEdge_beside (hedge.foldl fun _ _ g => countTimed_beside g)

theorem endRecord_beside (h : BesideQueues p s₀ s) {c : Cmd} {st : Status} : BesideQueues p s₀ (endRecord s p c st) := by
  unfold endRecord
  split
  · exact h
  · exact traceRecord_beside (takeSnap_beside h)

/-! ### What a command leaves before its completion -/

theorem releaseUnits_beside (h : BesideQueues p s₀ s) {q : Fin 16} {n : Word} : BesideQueues p s₀ (releaseUnits s p q n) :=
  h.same rfl rfl rfl

/-- Contributions merge into the gauges alone. -/
theorem mergeGauges_eq (P : Polder) (contrib : Tab GTot) :
    mergeGauges P contrib = { P with gauges := (mergeGauges P contrib).gauges } := by
  unfold mergeGauges
  induction contrib generalizing P with
  | nil => rfl
  | cons c cs ih => rw [List.foldl_cons, ih]

theorem mergeCmd_beside (h : BesideQueues p s₀ s) {c : Cmd} : BesideQueues p s₀ (mergeCmd s p c) :=
  BesideQueues.foldl (modPolder_beside h (fun P => by rw [mergeGauges_eq]) (fun P => by rw [mergeGauges_eq])
    fun P => by rw [mergeGauges_eq]) fun _ _ g => unitWrite_beside g

theorem requestPosted_beside (h : BesideQueues p s₀ s) {rid : Word} : BesideQueues p s₀ (requestPosted s p rid) :=
  modPolder_beside h

theorem noteLeft_beside (h : BesideQueues p s₀ s) {c : Cmd} {discarded : Bool} :
    BesideQueues p s₀ (noteLeft s p c discarded) := modPolder_beside h

theorem writeUpdReport_beside (h : BesideQueues p s₀ s) {set : BitVec 16} {r : UpdRun} {n : Word} :
    BesideQueues p s₀ (writeUpdReport s p set r n) := by
  unfold writeUpdReport
  split
  · exact h
  · exact unitWrite_beside h

theorem writeUpdCell_beside (h : BesideQueues p s₀ s) {set : BitVec 16} {r : UpdRun} {n : Word} :
    BesideQueues p s₀ (writeUpdCell s p set r n) := by
  unfold writeUpdCell
  dsimp only
  split
  · exact h
  · split
    · exact (unitWrite_beside h).same rfl rfl rfl
    · exact modPolder_beside (unitWrite_beside h)

end Sys2Proof.Machine
end

section
/-! SUPPORT. COMMAND_COMPLETION (R303, R305, R307, R308): the events signalled, the entry and the message of its queue, and the
posting as a whole. -/

namespace Sys2Proof.Machine

variable {p : Fin 4} {s t : State} {c : Cmd} {st : Status}

/-! ## A signal (R306, R308) -/

theorem queue_signal (s : State) (ev : Nat) (v : Word) (q : Fin 16) : queue (signal s p ev v) p q = queue s p q := by
  simp only [signal, queue, polder_modPolder_self]

theorem hostMem_signal (s : State) (ev : Nat) (v : Word) : (signal s p ev v).hostMem = s.hostMem := rfl

theorem func_signal (s : State) (ev : Nat) (v : Word) (f : Fin 5) : func (signal s p ev v) f = func s f := rfl

theorem polder_signal_ne {x : Fin 4} (s : State) (ev : Nat) (v : Word) (h : x ≠ p) : polder (signal s p ev v) x = polder s x :=
  polder_modPolder_ne s _ h

theorem events_signal (s : State) (ev : Nat) (v : Word) (k : Nat) :
    tabGet 0 (polder (signal s p ev v) p).events k =
      if k = ev then signalled (tabGet 0 (polder s p).events k) v else tabGet 0 (polder s p).events k := by
  simp only [signal, polder_modPolder_self, tabGet_tabSet]
  split
  · next h => rw [h]
  · rfl

theorem succeeded_finalStatus (res : Status) (warn : BitVec 16) :
    succeeded (finalStatus res warn) = true ↔ res = .ok ∨ res = .okWarn := by
  unfold finalStatus
  split
  · next h => split <;> simp [succeeded, h]
  · next h => simp [succeeded, h]

/-- An EVENT_SIGNAL that succeeds signals its own event (R308). -/
abbrev SignalsOwn (c : Cmd) (st : Status) : Prop := c.valid = true ∧ c.e.opcode = 0x10 ∧ succeeded st = true

theorem signalOwn_of (h : SignalsOwn c st) : signalOwn s p c st = signal s p (inlEvent c.e) (inlValue c.e) := by
  obtain ⟨hvalid, hop, hst⟩ := h
  simp [signalOwn, hvalid, hop, hst]

theorem signalOwn_of_not (h : ¬ SignalsOwn c st) : signalOwn s p c st = s := by
  refine if_neg fun hs => h ?_
  simpa [SignalsOwn, and_assoc] using hs

/-! ## The message of a queue (R314) -/

/-- From s to t at most causes of polder p's function were raised, a message was sent or noted as pending, and the
coalescing count of queue q moved. -/
structure Notified (p : Fin 4) (q : Fin 16) (s t : State) : Prop where
  hostMem : t.hostMem = s.hostMem
  others : ∀ x, x ≠ p → polder t x = polder s x
  events : (polder t p).events = (polder s p).events
  queue : ∃ n, queue t p q = { queue s p q with unsignalled := n }
  causes : ∀ k, (func s (vf p)).cause.getLsbD k = true → (func t (vf p)).cause.getLsbD k = true

theorem modQueue_notified (s : State) (q : Fin 16) (n : Queue → Nat) :
    Notified p q s (modQueue s p q fun Q => { Q with unsignalled := n Q }) where
  hostMem := rfl
  others _ := polder_modPolder_ne s _
  events := by rw [modQueue, polder_modPolder_self]
  queue := ⟨_, queue_modQueue_self ..⟩
  causes _ hk := hk

theorem sendMsix_notified (s : State) (q : Fin 16) (v : Nat) : Notified p q s (sendMsix s (vf p) v) where
  hostMem := hostMem_sendMsix ..
  others x _ := polder_sendMsix ..
  events := by rw [polder_sendMsix]
  queue := ⟨(queue s p q).unsignalled, by rw [Machine.queue, polder_sendMsix]; rfl⟩
  causes k hk := by rw [func_sendMsix]; exact hk

theorem modFunc_notified (s : State) (q : Fin 16) {g : Func → Func}
    (hg : ∀ F k, F.cause.getLsbD k = true → (g F).cause.getLsbD k = true) : Notified p q s (modFunc s (vf p) g) where
  hostMem := rfl
  others _ _ := rfl
  events := rfl
  queue := ⟨_, rfl⟩
  causes k hk := by rw [func_modFunc_self]; exact hg _ k hk

theorem Notified.refl (p : Fin 4) (q : Fin 16) (s : State) : Notified p q s s := ⟨rfl, fun _ _ => rfl, rfl, ⟨_, rfl⟩, fun _ hk => hk⟩

theorem Notified.trans {q : Fin 16} {u : State} (h : Notified p q s t) (k : Notified p q t u) : Notified p q s u where
  hostMem := k.hostMem.trans h.hostMem
  others x hx := (k.others x hx).trans (h.others x hx)
  events := k.events.trans h.events
  queue := by
    obtain ⟨m, hm⟩ := h.queue
    obtain ⟨n, hn⟩ := k.queue
    exact ⟨n, by rw [hn, hm]⟩
  causes i hi := k.causes i (h.causes i hi)

theorem sendQueueMsix_notified (s : State) (q : Fin 16) : Notified p q s (sendQueueMsix s p q) := by
  unfold sendQueueMsix
  dsimp only
  split
  · exact .refl p q s
  · exact (sendMsix_notified s q _).trans (modQueue_notified _ q fun _ => 0)

/-- The function of a polder with the cause bit of queue q set. -/
def withQueueCause (q : Fin 16) (F : Func) : Func := { F with cause := F.cause ||| (1#32 <<< (16 + q.val)) }

theorem withQueueCause_self (q : Fin 16) (F : Func) : (withQueueCause q F).cause.getLsbD (16 + q.val) = true := by
  have hq : 16 + q.val < 32 := by omega
  simp [withQueueCause, hq]

theorem withQueueCause_mono (q : Fin 16) (F : Func) (k : Nat) (h : F.cause.getLsbD k = true) :
    (withQueueCause q F).cause.getLsbD k = true := by
  rw [withQueueCause, BitVec.getLsbD_or, h, Bool.true_or]

/-- What follows the cause bit when a completion is posted. -/
theorem notePosted_after_cause (s : State) (q : Fin 16) :
    Notified p q (modFunc s (vf p) (withQueueCause q)) (notePosted s p q) := by
  unfold notePosted
  rw [raiseCause_of_queue _ _ (Nat.le_add_right ..)]
  have hcount := modQueue_notified (p := p) (modFunc s (vf p) (withQueueCause q)) q fun Q => Q.unsignalled + 1
  dsimp only
  split
  · exact hcount.trans (sendQueueMsix_notified ..)
  · exact hcount

theorem notePosted_notified (s : State) (q : Fin 16) : Notified p q s (notePosted s p q) :=
  (modFunc_notified s q (withQueueCause_mono q)).trans (notePosted_after_cause s q)

theorem notePosted_cause (s : State) (q : Fin 16) : (func (notePosted s p q) (vf p)).cause.getLsbD (16 + q.val) = true :=
  (notePosted_after_cause s q).causes _ (by rw [func_modFunc_self]; exact withQueueCause_self ..)

/-! ## The completion entry (R303, R307) -/

/-- The slot of the next completion of a queue. -/
def nextSlot (Q : Queue) : Nat := Q.cqBase + 32 * (Q.posted % (Q.depth + 1))

/-- From s to t the completion of command c was reported with status st: its entry stands in the next slot, its queue's
count and fence have moved on, its cause is set and its signal event has had its value. -/
structure Reported (p : Fin 4) (c : Cmd) (st : Status) (s t : State) : Prop where
  entry : ∃ coarse, t.hostMem = tabSplice 0 s.hostMem (nextSlot (queue s p c.q))
    (cqEntry c.e.seq st (phase (queue s p c.q).depth (queue s p c.q).posted).toNat c.warn c.e.reqId coarse c.detail c.doneTime)
  queue : ∃ n, queue t p c.q =
    { queue s p c.q with posted := (queue s p c.q).posted + 1, fence := c.e.seq, unsignalled := n }
  events : ∀ k, tabGet 0 (polder t p).events k = if flagSignal c.e = true ∧ k = c.e.sigEv.toNat
    then signalled (tabGet 0 (polder s p).events k) c.e.sigVal else tabGet 0 (polder s p).events k
  cause : (func t (vf p)).cause.getLsbD (16 + c.q.val) = true
  others : ∀ x, x ≠ p → polder t x = polder s x

/-- The state after the entry is written and QFENCE has moved, before anyone is told. -/
def entered (s : State) (p : Fin 4) (c : Cmd) (st : Status) : State :=
  modQueue (putCq s p c.q fun ph => cqEntry c.e.seq st ph c.warn c.e.reqId (coarseEnergy s p c.e.reqId) c.detail c.doneTime)
    p c.q fun Q => { Q with fence := c.e.seq }

theorem reportCmd_eq (s : State) (p : Fin 4) (c : Cmd) (st : Status) :
    reportCmd s p c st = if flagSignal c.e then
      signal (notePosted (entered s p c st) p c.q) p c.e.sigEv.toNat c.e.sigVal
      else notePosted (entered s p c st) p c.q := rfl

theorem hostMem_entered : (entered s p c st).hostMem = tabSplice 0 s.hostMem (nextSlot (queue s p c.q))
    (cqEntry c.e.seq st (phase (queue s p c.q).depth (queue s p c.q).posted).toNat c.warn c.e.reqId
      (coarseEnergy s p c.e.reqId) c.detail c.doneTime) := by
  simp only [entered, putCq, modQueue_hostMem, hostMem_hostWrite, nextSlot]

theorem polder_entered_ne {x : Fin 4} (h : x ≠ p) : polder (entered s p c st) x = polder s x :=
  (polder_modPolder_ne _ _ h).trans (polder_modPolder_ne _ _ h)

theorem events_entered : (polder (entered s p c st) p).events = (polder s p).events := by
  simp only [entered, putCq, modQueue, polder_modPolder_self, polder_hostWrite]

theorem queue_entered : queue (entered s p c st) p c.q =
    { queue s p c.q with posted := (queue s p c.q).posted + 1, fence := c.e.seq } := by
  simp only [entered, putCq, queue_modQueue_self, queue_hostWrite]

theorem reportCmd_reported (s : State) (p : Fin 4) (c : Cmd) (st : Status) : Reported p c st s (reportCmd s p c st) := by
  have hnote := notePosted_notified (p := p) (entered s p c st) c.q
  obtain ⟨n, hqueue⟩ := hnote.queue
  rw [queue_entered] at hqueue
  have hentry := hnote.hostMem.trans hostMem_entered
  have hevents := hnote.events.trans events_entered
  have hothers (x : Fin 4) (hx : x ≠ p) := (hnote.others x hx).trans (polder_entered_ne hx)
  have hcause := notePosted_cause (p := p) (entered s p c st) c.q
  rw [reportCmd_eq]
  by_cases hsig : flagSignal c.e = true
  · rw [if_pos hsig]
    exact
      { entry := ⟨_, (hostMem_signal ..).trans hentry⟩
        queue := ⟨n, (queue_signal ..).trans hqueue⟩
        events := fun k => by rw [events_signal, hevents]; simp only [hsig, true_and]
        cause := by rw [func_signal]; exact hcause
        others := fun x hx => (polder_signal_ne _ _ _ hx).trans (hothers x hx) }
  · rw [if_neg hsig]
    exact
      { entry := ⟨_, hentry⟩
        queue := ⟨n, hqueue⟩
        events := fun k => by rw [hevents, if_neg fun h => hsig h.1]
        cause := hcause
        others := hothers }

variable {res : Status}

/-! ### The entry's bytes -/

theorem cqEntry_length (seq : Word) (st : Status) (flags : Nat) (warn : BitVec 16) (rid coarse detail : Word) (t : DWord) :
    (cqEntry seq st flags warn rid coarse detail t).length = 32 := by
  simp [cqEntry]

/-- A completion entry read back where it was written, field by field (R303). -/
theorem tabBytes_cqEntry (m : Tab Byte) (a : Nat) (seq : Word) (st : Status) (flags : Nat) (warn : BitVec 16)
    (rid coarse detail : Word) (t : DWord) :
    let m' := tabSplice 0 m a (cqEntry seq st flags warn rid coarse detail t)
    tabBytes m' a 4 = leBytes 4 seq.toNat ∧ tabBytes m' (a + 4) 1 = leBytes 1 (statusCode st) ∧
      tabBytes m' (a + 5) 1 = leBytes 1 flags ∧ tabBytes m' (a + 6) 2 = leBytes 2 warn.toNat ∧
      tabBytes m' (a + 8) 4 = leBytes 4 rid.toNat ∧ tabBytes m' (a + 16) 4 = leBytes 4 detail.toNat ∧
      tabBytes m' (a + 24) 8 = leBytes 8 t.toNat := by
  intro m'
  have part (o n : Nat) (h : o + n ≤ 32) : tabBytes m' (a + o) n = ((cqEntry seq st flags warn rid coarse detail t).drop o).take n :=
    tabBytes_tabSplice_part m a o n _ (by rwa [cqEntry_length])
  rw [show tabBytes m' a 4 = _ from part 0 4 (by decide), part 4 1 (by decide), part 5 1 (by decide), part 6 2 (by decide),
    part 8 4 (by decide), part 16 4 (by decide), part 24 8 (by decide)]
  refine ⟨?_, ?_, ?_, ?_, ?_, ?_, ?_⟩ <;>
    simp (disch := simp) only [cqEntry, List.append_assoc, List.drop_zero, drop_append_past, take_append_part, leBytes_length,
      zeros_length, Nat.reduceSub, List.take_of_length_le]

theorem phase_toNat (depth j : Nat) : (phase depth j).toNat = if j / (depth + 1) % 2 = 0 then 1 else 0 := by
  rw [phase]
  split
  · next h => rw [h]; rfl
  · next h => rw [beq_false_of_ne h]; rfl

/-! ### The oldest command of a queue -/

theorem cmdAt_oldest {q : Fin 16} {rest : List Cmd} (h : (polder s p).inflight.filter (fun x => x.q = q) = c :: rest) :
    cmdAt s p q c.e.seq = some c := by
  have hfind : (polder s p).inflight.find? (fun x => decide (x.q = q) && decide (x.e.seq = c.e.seq)) =
      ((polder s p).inflight.filter fun x => x.q = q).find? fun x => decide (x.e.seq = c.e.seq) := by
    rw [List.find?_filter]
    simp
  rw [cmdAt, hfind, h, List.find?_cons_of_pos (by simp)]

theorem queue_oldest {q : Fin 16} {rest : List Cmd} (h : (polder s p).inflight.filter (fun x => x.q = q) = c :: rest) :
    c.q = q := by
  have hc : c ∈ (polder s p).inflight.filter fun x => x.q = q := h ▸ List.mem_cons_self
  simpa using (List.mem_filter.1 hc).2

/-! ### Before the posting -/

theorem blocked_of_no_poison (h : s.poison = []) (a n x : Nat) : blocked s a n x = false := by
  simp [blocked, isBad, h, tabGet]

theorem postingBlocked_of_no_poison (h : s.poison = []) (c : Cmd) (st : Status) : postingBlocked s c st = false := by
  have hspill : spillBlocked s c.spill = false := by simp [spillBlocked, blocked_of_no_poison h]
  unfold postingBlocked
  rw [hspill]
  cases c.body <;> simp [blocked_of_no_poison h]

/-- Without a memory error the report and the cell of an UPDATE are all that goes ahead of a completion (R203, R212). -/
theorem beforePosting_beside {st : Status} (h : postingBlocked s c st = false) :
    BesideQueues p s (beforePosting s p c st).1 ∧ (beforePosting s p c st).2 = st := by
  unfold beforePosting
  rw [h]
  cases c.body with
  | update r =>
    refine ⟨?_, rfl⟩
    dsimp only
    split
    · contradiction
    · split
      · exact writeUpdCell_beside (writeUpdReport_beside (.refl p s))
      · exact .refl p s
  | _ => exact ⟨.refl p s, rfl⟩

/-- The units of a command released, its contributions merged if it succeeded (R164, R177). -/
def merged (s : State) (p : Fin 4) (c : Cmd) (st : Status) : State :=
  let u := releaseUnits s p c.q c.e.seq
  if succeeded st then mergeCmd u p c else u

theorem merged_beside {st : Status} : BesideQueues p s (merged s p c st) := by
  unfold merged
  dsimp only
  split
  · exact mergeCmd_beside (releaseUnits_beside (.refl p s))
  · exact releaseUnits_beside (.refl p s)

/-- The state in which a command's completion is reported: its own event signalled, its end recorded. -/
def recorded (s : State) (p : Fin 4) (c : Cmd) (st : Status) : State := endRecord (signalOwn (merged s p c st) p c st) p c st

theorem hostMem_signalOwn (s : State) (c : Cmd) (st : Status) : (signalOwn s p c st).hostMem = s.hostMem := by
  by_cases h : SignalsOwn c st
  · rw [signalOwn_of h, hostMem_signal]
  · rw [signalOwn_of_not h]

theorem queue_signalOwn (s : State) (c : Cmd) (st : Status) (q : Fin 16) : queue (signalOwn s p c st) p q = queue s p q := by
  by_cases h : SignalsOwn c st
  · rw [signalOwn_of h, queue_signal]
  · rw [signalOwn_of_not h]

theorem polder_signalOwn_ne {x : Fin 4} (s : State) (c : Cmd) (st : Status) (hx : x ≠ p) :
    polder (signalOwn s p c st) x = polder s x := by
  by_cases h : SignalsOwn c st
  · rw [signalOwn_of h, polder_signal_ne _ _ _ hx]
  · rw [signalOwn_of_not h]

theorem events_signalOwn (s : State) (c : Cmd) (st : Status) (k : Nat) :
    tabGet 0 (polder (signalOwn s p c st) p).events k = if SignalsOwn c st ∧ k = inlEvent c.e
      then signalled (tabGet 0 (polder s p).events k) (inlValue c.e) else tabGet 0 (polder s p).events k := by
  by_cases h : SignalsOwn c st
  · rw [signalOwn_of h, events_signal]
    exact if_congr (and_iff_right h).symm rfl rfl
  · rw [signalOwn_of_not h, if_neg fun hk => h hk.1]

section Recorded

variable (s p c) (st : Status)

theorem hostMem_recorded : (recorded s p c st).hostMem = s.hostMem := by
  rw [recorded, (endRecord_beside (.refl p _)).hostMem, hostMem_signalOwn, merged_beside.hostMem]

theorem queue_recorded (q : Fin 16) : queue (recorded s p c st) p q = queue s p q := by
  rw [recorded, (endRecord_beside (.refl p _)).queue, queue_signalOwn, merged_beside.queue]

theorem polder_recorded_ne {x : Fin 4} (hx : x ≠ p) : polder (recorded s p c st) x = polder s x := by
  rw [recorded, (endRecord_beside (.refl p _)).others x hx, polder_signalOwn_ne _ _ _ hx, merged_beside.others x hx]

theorem events_recorded (k : Nat) :
    tabGet 0 (polder (recorded s p c st) p).events k = if SignalsOwn c st ∧ k = inlEvent c.e
      then signalled (tabGet 0 (polder s p).events k) (inlValue c.e) else tabGet 0 (polder s p).events k := by
  rw [recorded, (endRecord_beside (.refl p _)).events, events_signalOwn, merged_beside.events]

end Recorded

/-! ## COMMAND_COMPLETION -/

/-- The command and whatever else carries its queue and sequence leave the polder. -/
def without (c : Cmd) (P : Polder) : Polder :=
  { P with inflight := P.inflight.filter fun x => !(x.q = c.q && x.e.seq = c.e.seq) }

theorem not_mem_without (c : Cmd) (P : Polder) : ∀ x ∈ (without c P).inflight, ¬ (x.q = c.q ∧ x.e.seq = c.e.seq) := by
  intro x hx
  have hkeep := (List.mem_filter.1 hx).2
  rintro ⟨hq, hn⟩
  simp [hq, hn] at hkeep

/-- A posting on a queue that takes it: recorded, reported, and the command gone. -/
theorem postCompletion_eq (h : (queue s p c.q).st ≠ .error) :
    postCompletion s p c res =
      modPolder (noteLeft (requestPosted (reportCmd (recorded s p c (finalStatus res c.warn)) p c (finalStatus res c.warn)) p
        c.e.reqId) p c false) p (without c) := by
  have hlost : ((queue (releaseUnits s p c.q c.e.seq) p c.q).st == QState.error) = false := by
    rw [(releaseUnits_beside (.refl p s)).queue]
    exact beq_false_of_ne h
  simp only [postCompletion, hlost, Bool.not_false, Bool.and_true, Bool.false_eq_true, if_false]
  rfl

/-- From s to t a command's completion was posted: reported, its own event signalled as well, and the command gone. -/
structure Completed (p : Fin 4) (c : Cmd) (st : Status) (s t : State) : Prop where
  entry : ∃ coarse, t.hostMem = tabSplice 0 s.hostMem (nextSlot (queue s p c.q))
    (cqEntry c.e.seq st (phase (queue s p c.q).depth (queue s p c.q).posted).toNat c.warn c.e.reqId coarse c.detail c.doneTime)
  queue : ∃ n, queue t p c.q =
    { queue s p c.q with posted := (queue s p c.q).posted + 1, fence := c.e.seq, unsignalled := n }
  left : ∀ x ∈ (polder t p).inflight, ¬ (x.q = c.q ∧ x.e.seq = c.e.seq)
  events : ∀ k, tabGet 0 (polder t p).events k =
    let x := tabGet 0 (polder s p).events k
    let y := if SignalsOwn c st ∧ k = inlEvent c.e then signalled x (inlValue c.e) else x
    if flagSignal c.e = true ∧ k = c.e.sigEv.toNat then signalled y c.e.sigVal else y
  cause : (func t (vf p)).cause.getLsbD (16 + c.q.val) = true
  others : ∀ x, x ≠ p → polder t x = polder s x

theorem postCompletion_completed (h : (queue s p c.q).st ≠ .error) :
    Completed p c (finalStatus res c.warn) s (postCompletion s p c res) := by
  rw [postCompletion_eq h]
  generalize finalStatus res c.warn = st
  have hrep := reportCmd_reported (recorded s p c st) p c st
  have hleft := noteLeft_beside (c := c) (discarded := false)
    (requestPosted_beside (rid := c.e.reqId) (.refl p (reportCmd (recorded s p c st) p c st)))
  obtain ⟨coarse, hentry⟩ := hrep.entry
  obtain ⟨n, hqueue⟩ := hrep.queue
  rw [hostMem_recorded, queue_recorded] at hentry
  rw [queue_recorded] at hqueue
  exact
    { entry := ⟨coarse, hleft.hostMem.trans hentry⟩
      queue := ⟨n, by rw [queue, polder_modPolder_self]; exact (hleft.queue c.q).trans hqueue⟩
      left := by rw [polder_modPolder_self]; exact not_mem_without c _
      events := fun k => by
        rw [polder_modPolder_self]
        change tabGet 0 (polder (noteLeft _ p c false) p).events k = _
        rw [hleft.events, hrep.events, events_recorded]
      cause := by rw [func_modPolder, hleft.func]; exact hrep.cause
      others := fun x hx => by
        rw [polder_modPolder_ne _ _ hx, hleft.others x hx, hrep.others x hx, polder_recorded_ne _ _ _ _ hx] }

/-- The oldest command of a queue, its work ended and its watchdog not, is posted (R305, R428). -/
theorem commandCompletion_eq {q : Fin 16} {st : Status} {rest : List Cmd} (hboot : s.boot = .ready)
    (hclean : s.poison = []) (hopen : (polder s p).st = .opened) (hdiscard : (polder s p).discard = none)
    (hfirst : (polder s p).inflight.filter (fun x => x.q = q) = c :: rest) (hres : c.res = some st)
    (hexpired : c.expired = false) :
    doCommandCompletion p q s = postCompletion (beforePosting s p c st).1 p c st := by
  obtain ⟨hbeside, hst⟩ := beforePosting_beside (p := p) (postingBlocked_of_no_poison hclean c st)
  have hhead : (inQueue (polder s p) q).head? = some c := by rw [inQueue, hfirst, List.head?_cons]
  have hcmd : (cmdAt (beforePosting s p c st).1 p q c.e.seq).getD c = c := by
    rw [hbeside.cmdAt, cmdAt_oldest hfirst, Option.getD_some]
  calc doCommandCompletion p q s
      = postCompletion (beforePosting s p c st).1 p ((cmdAt (beforePosting s p c st).1 p q c.e.seq).getD c)
          (beforePosting s p c st).2 := by
        simp [doCommandCompletion, hboot, hopen, hdiscard, hhead, hexpired, hres]
    _ = postCompletion (beforePosting s p c st).1 p c st := by rw [hcmd, hst]

end Sys2Proof.Machine
end

section
/-! SUPPORT. The statements on the host's register writes, the mailbox's header checks and completions, settled. -/

namespace Sys2Proof.Machine

/-- A ready module whose host link is up, everything else as after reset. -/
def hostUp : State := { State.reset with boot := .ready, perst := false }

theorem hostReach_hostUp : hostReach hostUp 0 = true := by decide

theorem mbReq_hostUp : tabGet 0 (func hostUp 0).mbReq 0 = 0 := by decide

/-- Refutes O24: its clause on the request buffer bounds the index o of a byte in the buffer by the offset of the write in BAR0,
which is 0x10000 more, and so says that the bytes written stay. Against it stands a write of 1 at offset 0x10000 by PF0 of a ready
module, after which byte 0 of the buffer is 1 and was 0. -/
theorem not_registerWritesFollowTheirAccessRules : ¬ Obligations.RegisterWritesFollowTheirAccessRules := by
  unfold Obligations.RegisterWritesFollowTheirAccessRules
  intro h
  obtain ⟨-, -, -, -, -, -, -, -, hbuffer, -⟩ := h hostUp 0 1 hostReach_hostUp
  obtain ⟨t, hwr, -, -, hkept⟩ := hbuffer 0x10000 (by decide) (by decide) (by decide)
  have ht := (registerWrite_mbReq hostUp 0 1 0x10000 hostReach_hostUp (by decide) (by decide) (by decide)).symm.trans hwr
  injection ht with ht
  have hone : tabGet 0 (func t 0).mbReq 0 = 1 := by
    rw [← ht, tabGet_registerWrite_mbReq]; decide
  have hzero : tabGet 0 (func t 0).mbReq 0 = 0 := (hkept 0 (.inl (by decide))).trans mbReq_hostUp
  exact absurd (hone.symm.trans hzero) (by decide)

/-- Settles O25: each order of R295 decides `headerStatus` once the orders before it pass, and every answer is `respond`'s. -/
theorem headersAreCheckedInOrder : Obligations.HeadersAreCheckedInOrder := by
  unfold Obligations.HeadersAreCheckedInOrder
  intro s f r hw hr
  have answered (u : State) (st : Status) : Answered u (respond u f (reqBytes r) st []) f (reqBytes r) st [] :=
    respond_answered u f (by rw [reqBytes_length]; decide) st []
  have refused {st : Status} (hst : headerStatus s f r = some st) :
      Answered s (doUnknownMessageType f s) f (reqBytes r) st [] :=
    unknownMessageType_refused hw hr hst ▸ answered s st
  have passed (hgood : (headAgrees (reqBytes r) && headKnown r) = true) (hallowed : typeAllowed s f (reqBytes r) = true) :=
    unknownMessageType_passed hw hr (by rw [Bool.and_eq_true] at hgood; simp [headerStatus_eq, hgood, hallowed])
  refine ⟨_, rfl, fun hcomp => ?_, fun hcomp hknown => ?_, fun hgood hallowed => ?_, fun hgood hallowed hop => ?_,
    fun hgood hallowed hop => ?_⟩
  · exact refused (by simp [headerStatus_eq, hcomp])
  · exact refused (by simp [headerStatus_eq, hcomp, hknown])
  · rw [Bool.and_eq_true] at hgood
    exact refused (by simp [headerStatus_eq, hgood, hallowed])
  · rw [passed hgood hallowed, hop]
    exact answered (endChallenge s (reqType (reqBytes r))) .descInvalid
  · rw [passed hgood hallowed, hop]
    rfl

/-- Settles O40: the report and the cell that go ahead of an UPDATE's completion move nothing that it reports through, so what
`postCompletion` does to the state after them it does to s. -/
theorem completionsCarryStatusAndWarnings : Obligations.CompletionsCarryStatusAndWarnings := by
  unfold Obligations.CompletionsCarryStatusAndWarnings
  intro s p q c st rest hboot hclean hopen hdiscard herror hfirst hres hexpired
  obtain rfl : c.q = q := queue_oldest hfirst
  obtain ⟨hbeside, -⟩ := beforePosting_beside (p := p) (postingBlocked_of_no_poison hclean c st)
  have herror' : (queue (beforePosting s p c st).1 p c.q).st ≠ .error := by rwa [hbeside.queue]
  have hdone := postCompletion_completed (res := st) herror'
  rw [← commandCompletion_eq hboot hclean hopen hdiscard hfirst hres hexpired] at hdone
  obtain ⟨⟨coarse, hentry⟩, ⟨n, hqueue⟩, hleft, hevents, hcause, hothers⟩ := hdone
  rw [hbeside.hostMem, hbeside.queue] at hentry
  rw [hbeside.queue] at hqueue
  obtain ⟨b0, b4, b5, b6, b8, b16, b24⟩ := tabBytes_cqEntry s.hostMem (nextSlot (queue s p c.q)) c.e.seq
    (finalStatus st c.warn) (phase (queue s p c.q).depth (queue s p c.q).posted).toNat c.warn c.e.reqId coarse c.detail c.doneTime
  rw [← hentry] at b0 b4 b5 b6 b8 b16 b24
  rw [phase_toNat] at b5
  refine ⟨_, rfl, b0, b4, b5, b6, b8, b16, b24, fun a ha => ?_, ?_, ?_, ?_, hleft, fun k => ?_, hcause, fun x hx => ?_⟩
  · rw [hentry, tabGet_tabSplice, cqEntry_length]
    exact if_neg fun h => by unfold nextSlot at h; omega
  · rw [hqueue]
  · rw [hqueue]
  · rw [hqueue]
  · rw [hevents, hbeside.events]
    simp only [SignalsOwn, succeeded_finalStatus, and_assoc]
  · rw [hothers x hx, hbeside.others x hx]

end Sys2Proof.Machine
end

section
/-! SUPPORT. A request served by its message's handler (R293); the layout created and destroyed (R371, R372); a port that no polder
owns (R31). -/

namespace Sys2Proof.Machine

/-- A property of every unit of a vector. -/
theorem all_toList_iff_get {α : Type} {n : Nat} (xs : Vector α n) (p : α → Bool) :
    xs.toList.all p = true ↔ ∀ i : Fin n, p (xs.get i) = true := by
  rw [Vector.all_toList, Vector.all_eq_true]
  exact (Fin.forall_iff (p := fun i => p (xs.get i) = true)).symm

/-! ## A request served -/

theorem requestOf_length {s : State} {f : Fin 5} {typ : Nat} {bs : List Byte} (h : requestOf s f typ = some bs) :
    bs.length = 4096 := by
  unfold requestOf at h
  split at h
  · cases h
  · next r _ =>
    obtain ⟨-, hbs⟩ := Option.ite_none_right_eq_some.mp h
    rw [← Option.some.inj hbs, reqBytes_length]

theorem padTo_of_le {n : Nat} {bs : List Byte} (h : n ≤ bs.length) : padTo n bs = bs := by
  rw [padTo, Nat.sub_eq_zero_of_le h]; exact List.append_nil bs

/-- What the handler of a message answers is the response. -/
theorem serve_of_asks {s : State} {f : Fin 5} {typ len : Nat} {bs b : List Byte} {pick : List Byte → Bool}
    (act : State → List Byte → Answer) (h : Asks s f typ len bs b) (hp : pick b = true) :
    serve s f typ len pick act = respond (act s b).1 f bs (act s b).2.1 (act s b).2.2 := by
  obtain ⟨hreq, rfl, hlen⟩ := h
  simp [serve, hreq, padTo_of_le hlen, hp, Nat.not_lt.mpr hlen]

/-- A handler that answers with status st leaves the answer of R292 and R293 on its state. -/
theorem serve_answered {s : State} {f : Fin 5} {typ len : Nat} {bs b : List Byte} {pick : List Byte → Bool}
    {act : State → List Byte → Answer} {u : State} {st : Status} {pay : List Byte} (h : Asks s f typ len bs b)
    (hp : pick b = true) (hact : act s b = (u, st, pay)) : Answered u (serve s f typ len pick act) f bs st pay := by
  rw [serve_of_asks act h hp, hact]
  exact respond_answered u f (by rw [requestOf_length h.1]; decide) st pay

/-! ## The layout -/

theorem layoutCode_layoutOf {n : Nat} (h₁ : 1 ≤ n) (h₃ : n ≤ 3) : layoutCode (layoutOf n) = n := by
  obtain rfl | rfl | rfl : n = 1 ∨ n = 2 ∨ n = 3 := by omega
  all_goals rfl

theorem createOk_layout {b : List Byte} (h : createOk b = true) : 1 ≤ fld b 0 1 ∧ fld b 0 1 ≤ 3 := by
  simp only [createOk, Bool.and_eq_true, decide_eq_true_eq] at h
  obtain ⟨⟨⟨⟨h₁, h₃⟩, -⟩, -⟩, -⟩ := h
  exact ⟨h₁, h₃⟩

theorem polder_createLayout (s : State) (b : List Byte) (p : Fin 4) :
    polder (createLayout s b) p =
      restPolder (polder s p) (if p.val < polderCount (createLayout s b).layout then .closed else .absent) :=
  Vector.getElem_mapFinIdx ..

theorem port_createLayout (s : State) (b : List Byte) (j : Fin 6) :
    port (createLayout s b) j = { port s j with
      owner := if fld b (2 + j.val) 1 = 0xFF then none else some (fin4 (fld b (2 + j.val) 1)) } :=
  Vector.getElem_mapFinIdx ..

theorem cvus_createLayout (s : State) (b : List Byte) (k : Fin 4) :
    (createLayout s b).cvus.get k =
      if k.val < polderCount (createLayout s b).layout then Cvu.reset else s.cvus.get k :=
  Vector.getElem_mapFinIdx ..

theorem polder_destroyLayout (s : State) (p : Fin 4) : polder (destroyLayout s) p = restPolder (polder s p) .absent :=
  Vector.getElem_map ..

theorem port_destroyLayout (s : State) (j : Fin 6) : port (destroyLayout s) j = freePort (port s j) :=
  Vector.getElem_map ..

theorem cvus_destroyLayout (s : State) (k : Fin 4) :
    (destroyLayout s).cvus.get k = if (polder s k).st = .absent then s.cvus.get k else Cvu.reset :=
  Vector.getElem_mapFinIdx ..

/-- A polder at rest holds no queue. -/
theorem restPolder_queue (P : Polder) (st : PState) (q : Fin 16) : ((restPolder P st).queues.get q).st = .absent := by
  have hreset : (restPolder P st).queues = Vector.replicate 16 Queue.reset := rfl
  rw [hreset, Vector.get_eq_getElem, Vector.getElem_replicate]
  rfl

theorem allClosed_iff {s : State} :
    allClosed s = true ↔ ∀ p : Fin 4, (polder s p).st = .closed ∨ (polder s p).st = .absent :=
  (all_toList_iff_get ..).trans (by simp [polder])

/-! ## A port that no polder owns -/

/-- No polder owns the port, and nothing waits on it that belongs to one: no message of T1 or T2, no sealed token (R31). -/
structure Port.Unowned (P : Port) : Prop where
  owner : P.owner = none
  wait₁ : P.wait.get 1 = []
  wait₂ : P.wait.get 2 = []
  tokens : ∀ x ∈ P.tokWait, clearType x.typ = true

/-- Taking a flit's body from the classes that have data gives a class without data none. -/
theorem takeBody_empty {P : Port} {i : Fin 4} (cls : Fin 4) (h : P.wait.get i = []) (h₀ : i ≠ 0) (h₃ : i ≠ 3) :
    (takeBody P cls).2.get i = [] := by
  have e₀ : (0 : Nat) ≠ i.val := fun e => h₀ (Fin.ext e.symm)
  have e₃ : (3 : Nat) ≠ i.val := fun e => h₃ (Fin.ext e.symm)
  rw [Vector.get_eq_getElem] at h
  unfold takeBody
  split
  · simp only [takeBody3, Vector.get_eq_getElem]
    rw [Vector.getElem_set_ne (h := e₃), Vector.getElem_set_ne (h := e₀), h]
  · simp only [Vector.get_eq_getElem, Vector.getElem_set]
    split
    · next hi => simp only [hi, h, cutStream]
    · exact h

theorem sendData_unowned {P : Port} (h : P.Unowned) (cls : Fin 4) : (sendData P cls).Unowned where
  owner := h.owner
  wait₁ := takeBody_empty cls h.wait₁ (by decide) (by decide)
  wait₂ := takeBody_empty cls h.wait₂ (by decide) (by decide)
  tokens := h.tokens

theorem pump_unowned {P : Port} (h : P.Unowned) (n : Nat) : (pump n P).Unowned := by
  induction n generalizing P with
  | zero => exact h
  | succ n ih =>
    unfold pump
    split
    · split
      · next cls _ => exact ih (sendData_unowned h cls)
      · exact h
    · exact h

theorem idleCredits_unowned {P : Port} (h : P.Unowned) (n : Nat) : (idleCredits n P).Unowned := by
  induction n generalizing P with
  | zero => exact h
  | succ n ih =>
    unfold idleCredits
    split
    · exact h
    · exact ih ⟨h.owner, h.wait₁, h.wait₂, h.tokens⟩

theorem fillSlots_unowned {P : Port} (h : P.Unowned) : (fillSlots P).Unowned := by
  unfold fillSlots
  split
  · exact idleCredits_unowned (pump_unowned h _) _
  · exact h

theorem freePort_unowned (P : Port) : (freePort P).Unowned :=
  fillSlots_unowned
    { owner := rfl
      wait₁ := rfl
      wait₂ := rfl
      tokens := fun _ hx => (List.mem_filter.mp hx).2 }

/-- Settles O28: the two handlers refuse in their order, and a layout made or unmade is read off unit by unit. -/
theorem layoutsAreCreatedAndDestroyedWhole : Obligations.LayoutsAreCreatedAndDestroyedWhole := by
  unfold Obligations.LayoutsAreCreatedAndDestroyedWhole
  intro s bs b
  refine ⟨fun hasks => ?_, fun hasks => ?_⟩
  · refine ⟨fun hdenied => ?_, fun hdenied hbad => ?_, fun hdenied hok =>
      ⟨createLayout s b, ?_, ?_, fun p => ?_, fun p q => ?_, port_createLayout s b, cvus_createLayout s b, rfl⟩⟩
    · exact ⟨_, rfl, serve_answered hasks rfl (by simp [hdenied, refuse])⟩
    · exact ⟨_, rfl, serve_answered hasks rfl (by simp [hdenied, hbad, refuse])⟩
    · exact ⟨_, rfl, serve_answered hasks rfl (by simp [hdenied, hok, accept])⟩
    · obtain ⟨h₁, h₃⟩ := createOk_layout hok
      exact layoutCode_layoutOf h₁ h₃
    · rw [polder_createLayout]; rfl
    · rw [queue, polder_createLayout, restPolder_queue]
  · refine ⟨fun hopen => ?_, fun hclosed => ⟨fun hbad => ?_, fun hlayout hconfirm hzero => ?_⟩⟩
    · have hnot : allClosed s = false := by
        obtain ⟨p, hclosed, habsent⟩ := hopen
        exact Bool.eq_false_iff.mpr fun h => (allClosed_iff.mp h p).elim hclosed habsent
      exact ⟨_, rfl, serve_answered hasks rfl (by simp [hnot, refuse])⟩
    · have hall := allClosed_iff.mpr hclosed
      exact ⟨_, rfl, serve_answered hasks rfl (by simp [hall, hbad, refuse])⟩
    · have hall := allClosed_iff.mpr hclosed
      refine ⟨destroyLayout s, ⟨_, rfl, serve_answered hasks rfl (by simp [hall, hlayout, hconfirm, hzero, accept])⟩, rfl,
        fun p => ?_, fun j => ?_, cvus_destroyLayout s, rfl⟩
      · rw [polder_destroyLayout]; rfl
      · obtain ⟨howner, hwait₁, hwait₂, htokens⟩ := freePort_unowned (port s j)
        rw [port_destroyLayout]
        exact ⟨rfl, howner, hwait₁, hwait₂, htokens⟩

end Sys2Proof.Machine
end

section
/-! SUPPORT. `Noted`: what notes to the host leave; the bandwidth limits that the power state sets; the governor and the brake
(R406, R408, R445). -/

namespace Sys2Proof.Machine

variable {s t u : State}

/-! ## Notes to the host -/

/-- t is s after notes to the host: events, causes, messages and SMBus alerts, with the times that space them (R314, R408,
R410, R447). -/
def Noted (s t : State) : Prop :=
  ∃ funcs msix alert smbAlert eventTimes thermTimes, t = { s with
    funcs := funcs, msix := msix, alert := alert, smbAlert := smbAlert,
    power := { s.power with eventTimes := eventTimes, thermTimes := thermTimes } }

namespace Noted

theorem refl (s : State) : Noted s s := ⟨_, _, _, _, _, _, rfl⟩

theorem trans (h : Noted s t) (k : Noted t u) : Noted s u := by
  obtain ⟨_, _, _, _, _, _, rfl⟩ := h
  obtain ⟨_, _, _, _, _, _, rfl⟩ := k
  exact ⟨_, _, _, _, _, _, rfl⟩

/-- A note that is made under a condition. -/
theorem ite (c : Prop) [Decidable c] (h : Noted s t) (k : Noted s u) : Noted s (if c then t else u) := by
  split
  · exact h
  · exact k

theorem foldl {α : Type} {f : State → α → State} (hf : ∀ s x, Noted s (f s x)) (xs : List α) (s : State) :
    Noted s (xs.foldl f s) := List.foldlRecOn xs f (refl s) fun _ h x _ => h.trans (hf _ x)

theorem boot (h : Noted s t) : t.boot = s.boot := by
  obtain ⟨_, _, _, _, _, _, rfl⟩ := h
  rfl

theorem perst (h : Noted s t) : t.perst = s.perst := by
  obtain ⟨_, _, _, _, _, _, rfl⟩ := h
  rfl

theorem thermtrip (h : Noted s t) : t.thermtrip = s.thermtrip := by
  obtain ⟨_, _, _, _, _, _, rfl⟩ := h
  rfl

theorem site (h : Noted s t) (i : Fin 32) : site t i = Machine.site s i := by
  obtain ⟨_, _, _, _, _, _, rfl⟩ := h
  rfl

end Noted

theorem queueEvent_noted (s : State) (f : Fin 5) (code : BitVec 16) (n : Byte) (payload : List Byte) :
    Noted s (queueEvent s f code n payload) := by
  unfold queueEvent
  dsimp only
  rw [raiseCause_eq]
  exact ⟨_, _, _, _, _, _, rfl⟩

theorem moduleEvent_noted (s : State) (code : Nat) (payload : List Byte) : Noted s (moduleEvent s code payload) :=
  (queueEvent_noted s ..).trans (.foldl (fun _ _ => .ite _ (queueEvent_noted ..) (.refl _)) _ _)

theorem capEvent_noted (s : State) (kind : Fin 4) : Noted s (capEvent s kind) :=
  .ite _ (.refl s) (.trans ⟨_, _, _, _, _, _, rfl⟩ (moduleEvent_noted ..))

theorem thermEvent_noted (s : State) (part index level : Nat) (x : Int) (aclk : Nat) :
    Noted s (thermEvent s part index level x aclk) :=
  .ite _ (.refl s) (.trans ⟨_, _, _, _, _, _, rfl⟩ (moduleEvent_noted ..))

theorem raiseAlert_noted (s : State) (bit : Nat) : Noted s (raiseAlert s bit) := ⟨_, _, _, _, _, _, rfl⟩

theorem alertLevel_noted (s : State) (level : Nat) : Noted s (alertLevel s level) :=
  .ite _ (raiseAlert_noted ..) (.refl s)

/-! ## Bandwidth limits -/

/-- Every site has the limit that its level and the duty of its die set (R24, R406, R409). -/
def LimitsSettled (t : State) : Prop :=
  ∀ i : Fin 32, (site t i).limit = min (siteLimit (site t i).level) (if dieDuty t (siteDie i) = 4 then 50 else 100)

theorem site_settleLimits (s : State) (i : Fin 32) : site (settleLimits s) i = { site s i with
    limit := min (siteLimit (site s i).level) (if dieDuty s (siteDie i) = 4 then 50 else 100) } := by
  simp only [site, settleLimits, Vector.get_eq_getElem, Vector.getElem_mapFinIdx]

theorem settleLimits_settled (s : State) : LimitsSettled (settleLimits s) := fun i => by
  rw [site_settleLimits]; rfl

/-- The limit is all that settling moves of a site. -/
theorem site_settleLimits_same (s : State) (i : Fin 32) :
    site (settleLimits s) i = { site s i with limit := (site (settleLimits s) i).limit } := by
  rw [site_settleLimits]

theorem Noted.settled (h : Noted s t) (hs : LimitsSettled s) : LimitsSettled t := by
  obtain ⟨_, _, _, _, _, _, rfl⟩ := h
  exact hs

/-- At duty 4 of its die a site runs at half its bandwidth at most (R24). -/
theorem LimitsSettled.le_half (h : LimitsSettled t) {i : Fin 32} (hduty : dieDuty t (siteDie i) = 4) :
    (Machine.site t i).limit ≤ 50 := by
  rw [h i, if_pos hduty]
  exact Nat.min_le_right ..

theorem dieDuty_braked (h : s.pwrbrk = true) (d : Fin 4) : dieDuty s d = 4 := by simp [dieDuty, h]

/-! ## The governor and the brake -/

theorem capEventIf_noted (s : State) (kind : Fin 4) (c : Prop) [Decidable c] :
    Noted s (if c then capEvent s kind else s) := .ite c (capEvent_noted s kind) (.refl s)

/-- ACLK and duty decided, and the limits that follow from them; the rest is notes (R406, R408). -/
theorem applyPower_noted (s : State) (aclk duty : Nat) :
    Noted (settleLimits (setPower s fun P =>
      { P with aclk := aclk, duty := duty, lastStep := if aclk = P.aclk then P.lastStep else s.localCount }))
      (applyPower s aclk duty) := by
  unfold applyPower
  extract_lets _ _ _ s₀ s₁ s₂ s₃
  have h₁ : Noted s₀ s₁ := capEventIf_noted s₀ 0 _
  have h₂ : Noted s₁ s₂ := capEventIf_noted s₁ 1 _
  have h₃ : Noted s₂ s₃ := capEventIf_noted s₂ 2 _
  exact h₁.trans (h₂.trans (h₃.trans (capEventIf_noted s₃ 3 _)))

/-- t is s after a decision on ACLK and duty. -/
structure Powered (aclk duty : Nat) (s t : State) : Prop where
  aclk : t.power.aclk = aclk
  duty : t.power.duty = duty
  cap : t.power.cap = s.power.cap
  polders : t.polders = s.polders
  pwrbrk : t.pwrbrk = s.pwrbrk
  settled : LimitsSettled t
  sites : ∀ i, site t i = { site s i with limit := (site t i).limit }

theorem applyPower_powered (s : State) (aclk duty : Nat) : Powered aclk duty s (applyPower s aclk duty) := by
  have hnoted := applyPower_noted s aclk duty
  have hsettled := hnoted.settled (settleLimits_settled _)
  have hsites i := (hnoted.site i).trans (site_settleLimits_same ..)
  obtain ⟨_, _, _, _, _, _, h⟩ := hnoted
  rw [h] at hsettled hsites ⊢
  exact ⟨rfl, rfl, rfl, rfl, rfl, hsettled, hsites⟩

theorem governorEval_powered (h : s.pwrbrk = false) :
    Powered (governAclk s) (governDuty s (governAclk s)) s (doGovernorEval s) := by
  simpa [doGovernorEval, h] using applyPower_powered s (governAclk s) (governDuty s (governAclk s))

theorem pwrbrkAssert_braked (h : s.pwrbrk = true ∨ s.modPwrgd = false) : doPwrbrkAssert s = { s with pwrbrk := true } := by
  simp [doPwrbrkAssert, h]

/-- A brake that acts forces the clocks as they run, or the power state of a bring-up that PERST# holds. -/
theorem pwrbrkAssert_eq (h : s.pwrbrk = false) (hgood : s.modPwrgd = true) :
    doPwrbrkAssert s = if s.boot = .fuses ∨ s.boot = .thermalHold then
      settleLimits { s with pwrbrk := true, power := startPower { s with pwrbrk := true } }
      else applyPower { s with pwrbrk := true } 1800 4 :=
  if_neg (by simp [h, hgood])

/-- In both cases the clocks go to 1.8 GHz at duty 4 (R445). -/
theorem pwrbrkAssert_forced (h : s.pwrbrk = false) (hgood : s.modPwrgd = true) :
    let t := doPwrbrkAssert s
    t.pwrbrk = true ∧ t.power.aclk = 1800 ∧ t.power.duty = 4 ∧ t.polders = s.polders ∧ LimitsSettled t ∧
      ∀ i, site t i = { site s i with limit := (site t i).limit } := by
  rw [pwrbrkAssert_eq h hgood]
  split
  · exact ⟨rfl, rfl, rfl, rfl, settleLimits_settled _, site_settleLimits_same _⟩
  · have hp := applyPower_powered { s with pwrbrk := true } 1800 4
    exact ⟨hp.pwrbrk, hp.aclk, hp.duty, hp.polders, hp.settled, hp.sites⟩

end Sys2Proof.Machine
end

section
/-! SUPPORT. What faults and bring-up leave of the power state and the sites' levels; a critical trip (R368, R410, R446). -/

namespace Sys2Proof.Machine

variable {s t u : State}

/-! ## Faults and bring-up -/

/-- From s to t only ports and polders moved. -/
def Sent (s t : State) : Prop := ∃ ports polders, t = { s with ports := ports, polders := polders }

namespace Sent

theorem refl (s : State) : Sent s s := ⟨_, _, rfl⟩

theorem trans (h : Sent s t) (k : Sent t u) : Sent s u := by
  obtain ⟨_, _, rfl⟩ := h
  obtain ⟨_, _, rfl⟩ := k
  exact ⟨_, _, rfl⟩

theorem foldl {α : Type} {f : State → α → State} (hf : ∀ s x, Sent s (f s x)) (xs : List α) (s : State) :
    Sent s (xs.foldl f s) := List.foldlRecOn xs f (refl s) fun _ h x _ => h.trans (hf _ x)

end Sent

theorem modPort_sent (s : State) (j : Fin 6) (f : Port → Port) : Sent s (modPort s j f) := ⟨_, _, rfl⟩

theorem bumpIv_sent (s : State) (p : Fin 4) (chan cls : Nat) : Sent s (bumpIv s p chan cls) := ⟨_, _, rfl⟩

theorem putToken_sent (s : State) (j : Fin 6) (x : Token) : Sent s (putToken s j x) := by
  unfold putToken
  dsimp only
  split
  · exact .refl s
  · split
    · exact (modPort_sent ..).trans (modPort_sent ..)
    · split <;> exact modPort_sent ..

theorem sendToken_sent (s : State) (p : Fin 4) (j : Fin 6) (typ : Nat) (hop : BitVec 5) (op : BitVec 3) (id : Word)
    (payload : DWord) : Sent s (sendToken s p j typ hop op id payload) := by
  unfold sendToken
  split
  · exact .refl s
  · exact (putToken_sent ..).trans (bumpIv_sent ..)

theorem floodFault_sent (s : State) (p : Fin 4) : Sent s (floodFault s p) :=
  (Sent.foldl (fun _ _ => sendToken_sent ..) _ s).trans (bumpIv_sent ..)

theorem lastTokens_sent (s : State) : Sent s (lastTokens s) := .foldl floodFault_sent _ s

/-- From s to t the power state, THERMTRIP# and the sites' levels stayed. -/
structure HeatKept (s t : State) : Prop where
  power : t.power = s.power
  thermtrip : t.thermtrip = s.thermtrip
  level : ∀ i, (site t i).level = (site s i).level

theorem HeatKept.trans (h : HeatKept s t) (k : HeatKept t u) : HeatKept s u :=
  ⟨k.power.trans h.power, k.thermtrip.trans h.thermtrip, fun i => (k.level i).trans (h.level i)⟩

theorem faultC4_heat (s : State) (i : FaultInfo) : HeatKept s (faultC4 s i) := by
  obtain ⟨_, _, h⟩ := lastTokens_sent s
  unfold faultC4
  rw [h]
  exact ⟨rfl, rfl, fun _ => rfl⟩

theorem applySlot_heat (s : State) : HeatKept s (applySlot s) := by
  unfold applySlot
  dsimp only
  split <;> exact ⟨rfl, rfl, fun _ => rfl⟩

theorem applyCaches_heat (s : State) : HeatKept s (applyCaches s) := by
  unfold applyCaches
  split
  · exact ⟨rfl, rfl, fun _ => rfl⟩
  · exact ⟨rfl, rfl, fun i => by simp only [site, Vector.get_eq_getElem, Vector.getElem_mapFinIdx]⟩

theorem faultEarly_heat (s : State) (i : FaultInfo) : HeatKept s (faultEarly s i) := by
  have hslot := ((applySlot_heat s).trans (applyCaches_heat _)).trans (faultC4_heat _ i)
  unfold faultEarly
  split
  · exact hslot
  · exact hslot
  · exact hslot
  · exact faultC4_heat s i

theorem faultEarly_boot (s : State) (i : FaultInfo) : (faultEarly s i).boot = .offline := by
  unfold faultEarly
  split <;> rfl

theorem loadFuses_power (s : State) : (loadFuses s).power = s.power := by
  unfold loadFuses
  extract_lets _ _ _ _ _ u
  split
  · rfl
  · exact (faultEarly_heat u _).power

theorem trainPorts_sent (s : State) (js : List (Fin 6)) : Sent s (js.foldl trainPort s) :=
  .foldl (fun _ _ => modPort_sent ..) js s

/-- Training begins with the PLLs locked (R317); nothing else of the power state moves. -/
theorem beginTraining_power (s : State) : (beginTraining s).power = { s.power with locked := true } := by
  unfold beginTraining
  dsimp only
  rw [(applyCaches_heat _).power]
  obtain ⟨_, _, h⟩ := trainPorts_sent (applySlot s) [0, 1, 2, 3, 4, 5]
  rw [h, ← (applySlot_heat s).power]
  rfl

theorem verifyImage_power (s : State) : ∃ locked, (verifyImage s).power = { s.power with locked := locked } := by
  unfold verifyImage
  split
  · exact ⟨true, beginTraining_power _⟩
  · exact ⟨_, rfl⟩

theorem coldStart_power (s : State) (r : Nat) : ∃ locked, (coldStart s r).power = { startPower s with locked := locked } := by
  unfold coldStart
  extract_lets _ _ b₀ b
  have hb : b.power = startPower s := loadFuses_power b₀
  clear_value b
  change ∃ locked, (if b.boot = .offline then b else verifyImage b).power = { startPower s with locked := locked }
  split
  · exact ⟨_, hb⟩
  · rw [← hb]
    exact verifyImage_power b

/-! ## A critical trip -/

/-- The module has tripped and is stopped at b: THERMTRIP# is low, the rails are off, memory lists nothing (R410, R446). -/
structure Tripped (b : Boot) (t : State) : Prop where
  thermtrip : t.thermtrip = true
  boot : t.boot = b
  rails : t.power.rails = false
  mem : t.mem = []

/-- Where a critical trip stops the module. -/
def tripBoot (s : State) : Boot := if s.perst ∨ s.boot = .thermalHold then .thermalHold else .offline

theorem tripBoot_congr (hboot : t.boot = s.boot) (hperst : t.perst = s.perst) : tripBoot t = tripBoot s := by
  rw [tripBoot, hboot, hperst, tripBoot]

theorem trip_again (h : s.thermtrip = true) (die : Nat) : trip s die = s := by simp [trip, h]

/-- The fault behind a trip. -/
def tripFault (s : State) (die : Nat) : State :=
  faultEarly (raiseAlert { s with thermtrip := true } 1) (faultInfo 0x0D 0 die 0)

theorem trip_first (h : s.thermtrip = false) (die : Nat) :
    trip s die = { railsOff (tripFault s die) with boot := tripBoot s } := by
  have hoff : (railsOff (tripFault s die)).boot = .offline := faultEarly_boot ..
  simp only [trip, h, Bool.false_eq_true, if_false, tripBoot]
  split
  · rfl
  · rw [← hoff]; rfl

theorem tripFault_heat (s : State) (die : Nat) : HeatKept { s with thermtrip := true } (tripFault s die) :=
  have h := faultEarly_heat (raiseAlert { s with thermtrip := true } 1) (faultInfo 0x0D 0 die 0)
  ⟨h.power, h.thermtrip, h.level⟩

theorem trip_tripped (h : s.thermtrip = false) (die : Nat) : Tripped (tripBoot s) (trip s die) := by
  rw [trip_first h]
  exact ⟨(tripFault_heat s die).thermtrip, rfl, rfl, rfl⟩

/-- The rails are all that a trip moves of the power state. -/
theorem trip_power (s : State) (die : Nat) : ∃ rails, (trip s die).power = { s.power with rails := rails } := by
  cases h : s.thermtrip with
  | true => exact ⟨_, congrArg State.power (trip_again h die)⟩
  | false =>
    rw [trip_first h, ← (tripFault_heat s die).power]
    exact ⟨false, rfl⟩

/-- The sites lose their training and keep the sensors' levels. -/
theorem trip_sites (h : s.thermtrip = false) (die : Nat) (i : Fin 32) :
    (site (trip s die) i).st = .untrained ∧ (site (trip s die) i).level = (site s i).level := by
  have hsite : site (trip s die) i =
      { Site.reset with level := (site (tripFault s die) i).level, temp := (site (tripFault s die) i).temp } := by
    rw [trip_first h]
    simp only [site, railsOff, setPower, Vector.get_eq_getElem, Vector.getElem_map]
  rw [hsite]
  exact ⟨rfl, (tripFault_heat s die).level i⟩

/-! ## A hold -/

theorem levelsLeft_iff : levelsLeft s = true ↔
    (∀ d : Fin 4, s.power.dieLevel.get d = 0) ∧ s.power.iLevel = 0 ∧ ∀ i, (site s i).level ≤ 1 := by
  simp only [levelsLeft, Bool.and_eq_true, all_toList_iff_get, beq_iff_eq, decide_eq_true_eq, and_assoc, site]

end Sys2Proof.Machine
end

section
/-! SUPPORT. The MR4 poll of a site and the thermal sample of the dies: what they read, and the trip of a critical level (R234,
R409, R410, R446). -/

namespace Sys2Proof.Machine

variable {s t u : State} {b : Boot} {P : Power} {c d : Prop}

/-! ## Trips of a level -/

theorem isTrip_iff {old new critical : Nat} :
    isTrip s old new critical = true ↔ new = critical ∧ (old < critical ∨ s.boot ≠ .thermalHold) := by simp [isTrip]

theorem leaveHold_of_not_hold (h : s.boot ≠ .thermalHold) : leaveHold s = s := if_neg fun hold => h hold.1

theorem leaveHold_of_level (h : ¬ levelsLeft s = true) : leaveHold s = s := if_neg fun hold => h hold.2

/-! ## The MR4 poll -/

/-- What a poll reads into its site: the temperature, the level and the refresh interval. -/
def mr4Site (temp : Int) (mr4 : Nat) (S : Site) : Site :=
  { S with temp := temp, level := levelAt siteThresholds S.level temp,
           refresh := min mr4 (if 1 ≤ levelAt siteThresholds S.level temp then 4 else 8) }

/-- A poll reads its site, settles the limits, notes the level, and trips at level 5. -/
theorem mr4Poll_eq (m : Fin 32) (temp : Int) (mr4 : Nat) (hgood : s.modPwrgd = true) :
    ∃ u, Noted (settleLimits (modSite s m (mr4Site temp mr4))) u ∧ doMr4Poll m temp mr4 s =
      leaveHold (if isTrip u (site s m).level (levelAt siteThresholds (site s m).level temp) 5
        then trip u (fin4 (m.val / 8)).val else u) := by
  unfold doMr4Poll
  rw [if_neg (by simp [hgood])]
  exact ⟨_, (Noted.ite _ (thermEvent_noted ..) (.refl _)).trans (.ite _ (raiseAlert_noted ..) (.refl _)), rfl⟩

/-- A poll that does not trip. -/
theorem mr4Poll_quiet {m : Fin 32} {temp : Int} (mr4 : Nat) (hgood : s.modPwrgd = true) (hboot : s.boot ≠ .thermalHold)
    (hquiet : levelAt siteThresholds (site s m).level temp ≠ 5 ∨ s.thermtrip = true) :
    Noted (settleLimits (modSite s m (mr4Site temp mr4))) (doMr4Poll m temp mr4 s) := by
  obtain ⟨u, hnoted, heq⟩ := mr4Poll_eq m temp mr4 hgood
  have hutrip : u.thermtrip = s.thermtrip := hnoted.thermtrip
  have hstays : (if isTrip u (site s m).level (levelAt siteThresholds (site s m).level temp) 5
      then trip u (fin4 (m.val / 8)).val else u) = u := by
    split
    · next htrip => exact trip_again (hutrip.trans (hquiet.resolve_left (not_not_intro (isTrip_iff.mp htrip).1))) _
    · rfl
  rw [heq, hstays, leaveHold_of_not_hold (hnoted.boot.trans_ne hboot)]
  exact hnoted

/-- A poll that trips: level 5 entered, or met outside a hold. -/
theorem mr4Poll_trips {m : Fin 32} {temp : Int} (mr4 : Nat) (hgood : s.modPwrgd = true)
    (hl : levelAt siteThresholds (site s m).level temp = 5) (hfirst : s.thermtrip = false)
    (hnew : (site s m).level < 5 ∨ s.boot ≠ .thermalHold) :
    let t := doMr4Poll m temp mr4 s
    Tripped (tripBoot s) t ∧ (site t m).level = 5 ∧ ∀ i, (site t i).st = .untrained := by
  obtain ⟨u, hnoted, heq⟩ := mr4Poll_eq m temp mr4 hgood
  have hulevel : (site u m).level = 5 := by rw [hnoted.site, site_settleLimits, site_modSite_self]; exact hl
  have huboot : u.boot = s.boot := hnoted.boot
  have hutrip : u.thermtrip = false := hnoted.thermtrip.trans hfirst
  have hustop : tripBoot u = tripBoot s := tripBoot_congr hnoted.boot hnoted.perst
  have hlevel : (site (trip u (fin4 (m.val / 8)).val) m).level = 5 := (trip_sites hutrip _ m).2.trans hulevel
  have hstays : ¬ levelsLeft (trip u (fin4 (m.val / 8)).val) = true := fun hleft => by
    obtain ⟨-, -, hsites⟩ := levelsLeft_iff.mp hleft
    exact absurd (hlevel ▸ hsites m) (by decide)
  rw [heq, if_pos (isTrip_iff.mpr ⟨hl, huboot ▸ hnew⟩), leaveHold_of_level hstays]
  exact ⟨hustop ▸ trip_tripped hutrip _, hlevel, fun i => (trip_sites hutrip _ i).1⟩

/-! ## One sensor of the thermal sample -/

/-- u is s with power state P after a sensor was read: limits of sites and notes moved beside it. -/
def Sensed (P : Power) (s u : State) : Prop :=
  ∃ sites funcs msix alert smbAlert, u = { s with
    sites := sites, funcs := funcs, msix := msix, alert := alert, smbAlert := smbAlert, power := P }

theorem Sensed.power (h : Sensed P s u) : u.power = P := by
  obtain ⟨_, _, _, _, _, rfl⟩ := h
  rfl

/-- A trip has yet to come and would stop the module at b. -/
structure Armed (b : Boot) (s : State) : Prop where
  thermtrip : s.thermtrip = false
  boot : s.boot ≠ .thermalHold
  stop : tripBoot s = b

/-- From s to t the module trips if c holds, and only then; once it has tripped it stays so. -/
structure TripsIf (c : Prop) (s t : State) : Prop where
  tripped : ∀ {b}, Tripped b s → Tripped b t
  trips : ∀ {b}, Armed b s → c → Tripped b t
  stays : ∀ {b}, Armed b s → ¬ c → Armed b t

theorem TripsIf.trans (h : TripsIf c s t) (k : TripsIf d t u) : TripsIf (c ∨ d) s u where
  tripped hs := k.tripped (h.tripped hs)
  trips hs hcd := by
    by_cases hc : c
    · exact k.tripped (h.trips hs hc)
    · exact k.trips (h.stays hs hc) (hcd.resolve_left hc)
  stays hs hcd := by
    obtain ⟨hc, hd⟩ := not_or.mp hcd
    exact k.stays (h.stays hs hc) hd

theorem TripsIf.refl (s : State) : TripsIf False s s := ⟨id, fun _ => False.elim, fun h _ => h⟩

/-- A sensor read, then the trip of its level. -/
theorem Sensed.tripsIf (h : Sensed P s u) (hrails : P.rails = s.power.rails) (old new die : Nat) :
    TripsIf (new = 3) s (if isTrip u old new 3 then trip u die else u) := by
  have hboot : u.boot = s.boot := by obtain ⟨_, _, _, _, _, rfl⟩ := h; rfl
  have htrip : u.thermtrip = s.thermtrip := by obtain ⟨_, _, _, _, _, rfl⟩ := h; rfl
  have hmem : u.mem = s.mem := by obtain ⟨_, _, _, _, _, rfl⟩ := h; rfl
  have hstop : tripBoot u = tripBoot s := by obtain ⟨_, _, _, _, _, rfl⟩ := h; rfl
  refine ⟨fun hs => ?_, fun hs hc => ?_, fun hs hc => ?_⟩
  · rw [trip_again (htrip.trans hs.thermtrip), ite_self]
    exact ⟨htrip.trans hs.thermtrip, hboot.trans hs.boot, h.power ▸ hrails.trans hs.rails, hmem.trans hs.mem⟩
  · rw [if_pos (isTrip_iff.mpr ⟨hc, .inr (hboot.trans_ne hs.boot)⟩), ← hs.stop, ← hstop]
    exact trip_tripped (htrip.trans hs.thermtrip) die
  · rw [if_neg fun h => hc (isTrip_iff.mp h).1]
    exact ⟨htrip.trans hs.thermtrip, hboot.trans_ne hs.boot, hstop.trans hs.stop⟩

theorem Sensed.noted (h : Sensed P s t) (k : Noted t u) :
    ∃ eventTimes thermTimes, Sensed { P with eventTimes := eventTimes, thermTimes := thermTimes } s u := by
  obtain ⟨_, _, _, _, _, rfl⟩ := h
  obtain ⟨_, _, _, _, _, _, rfl⟩ := k
  exact ⟨_, _, _, _, _, _, _, rfl⟩

/-- The sensors' record in a power state: the samples, the levels of the dies and of the I-die, and its rates. -/
structure SensorsKept (P Q : Power) : Prop where
  temps : Q.temps = P.temps
  dieLevel : Q.dieLevel = P.dieLevel
  iLevel : Q.iLevel = P.iLevel
  iSluices : Q.iSluices = P.iSluices
  flitSlots : Q.flitSlots = P.flitSlots

theorem trip_sensors (s : State) (die : Nat) : SensorsKept s.power (trip s die).power := by
  obtain ⟨_, h⟩ := trip_power s die
  rw [h]
  exact ⟨rfl, rfl, rfl, rfl, rfl⟩

/-- A sensor read leaves P's record, tripped or not. -/
theorem Sensed.sensors (h : Sensed P s u) (c : Prop) [Decidable c] (die : Nat) :
    SensorsKept P (if c then trip u die else u).power := by
  rw [← h.power]
  split
  · exact trip_sensors u die
  · exact ⟨rfl, rfl, rfl, rfl, rfl⟩

/-- The event and the alert of a level (R410, R447). -/
theorem levelNotes_noted (s : State) (c : Prop) [Decidable c] (part index level : Nat) (x : Int) (aclk : Nat) :
    Noted s (alertLevel (if c then thermEvent s part index level x aclk else s) level) :=
  (Noted.ite c (thermEvent_noted ..) (.refl s)).trans (alertLevel_noted ..)

/-! ## The C-dies -/

theorem stepCeiling_eq (s : State) (d : Fin 4) (x : Int) :
    ∃ ceil ceilTime, stepCeiling s d x = setPower s fun P => { P with ceil := ceil, ceilTime := ceilTime } := by
  unfold stepCeiling
  extract_lets
  split
  · exact ⟨_, _, rfl⟩
  · exact ⟨_, _, rfl⟩

/-- A die is read into its level, its ceiling and the limits of its sites, and trips at level 3. -/
theorem sampleDie_eq (s : State) (d : Fin 4) (x : Int) :
    let new := levelAt dieThresholds (s.power.dieLevel.get d) x
    ∃ u ceil ceilTime eventTimes thermTimes,
      Sensed { s.power with dieLevel := s.power.dieLevel.set d new, ceil := ceil, ceilTime := ceilTime,
                            eventTimes := eventTimes, thermTimes := thermTimes } s u ∧
      sampleDie s d x = if isTrip u (s.power.dieLevel.get d) new 3 then trip u d.val else u := by
  intro new
  obtain ⟨ceil, ceilTime, hceil⟩ :=
    stepCeiling_eq (setPower s fun P => { P with dieLevel := P.dieLevel.set d new }) d x
  have hsensed : Sensed { s.power with dieLevel := s.power.dieLevel.set d new, ceil := ceil, ceilTime := ceilTime } s
      (settleLimits (stepCeiling (setPower s fun P => { P with dieLevel := P.dieLevel.set d new }) d x)) := by
    rw [hceil]
    exact ⟨_, _, _, _, _, rfl⟩
  obtain ⟨_, _, h⟩ := hsensed.noted
    (levelNotes_noted _ (thermDue (s.power.dieLevel.get d) new = true) 0 d.val new x (dieAclk _ d))
  exact ⟨_, _, _, _, _, h, rfl⟩

theorem sampleDie_tripsIf (s : State) (d : Fin 4) (x : Int) :
    TripsIf (levelAt dieThresholds (s.power.dieLevel.get d) x = 3) s (sampleDie s d x) := by
  obtain ⟨u, _, _, _, _, hsensed, heq⟩ := sampleDie_eq s d x
  rw [heq]
  exact hsensed.tripsIf rfl ..

theorem sampleDie_sensors (s : State) (d : Fin 4) (x : Int) :
    SensorsKept { s.power with dieLevel := s.power.dieLevel.set d (levelAt dieThresholds (s.power.dieLevel.get d) x) }
      (sampleDie s d x).power := by
  obtain ⟨u, _, _, _, _, hsensed, heq⟩ := sampleDie_eq s d x
  rw [heq]
  obtain ⟨htemps, hdie, hi, hsluices, hslots⟩ := hsensed.sensors (isTrip u _ _ 3 = true) d.val
  exact ⟨htemps, hdie, hi, hsluices, hslots⟩

theorem sampleDie_level (s : State) (d e : Fin 4) (x : Int) : (sampleDie s d x).power.dieLevel.get e =
    if e = d then levelAt dieThresholds (s.power.dieLevel.get d) x else s.power.dieLevel.get e := by
  rw [(sampleDie_sensors s d x).dieLevel]
  exact get_vmod s.power.dieLevel d e fun old => levelAt dieThresholds old x

/-- The samples of some C-dies, each read by its own sensor. -/
def sampleDies (x : Temps) (ds : List (Fin 4)) (s : State) : State :=
  ds.foldl (fun s d => sampleDie s d (x.cdies.getD d.val 0)) s

/-- The level that a sample gives a die. -/
def sampledLevel (x : Temps) (s : State) (d : Fin 4) : Nat :=
  levelAt dieThresholds (s.power.dieLevel.get d) (x.cdies.getD d.val 0)

/-- A die's sample leaves what another die's will be. -/
theorem sampledLevel_sampleDie (x : Temps) (s : State) {d e : Fin 4} (y : Int) (h : e ≠ d) :
    sampledLevel x (sampleDie s d y) e = sampledLevel x s e := by
  rw [sampledLevel, sampleDie_level, if_neg h, sampledLevel]

theorem sampleDies_level (x : Temps) {ds : List (Fin 4)} (hds : ds.Nodup) (s : State) (e : Fin 4) :
    (sampleDies x ds s).power.dieLevel.get e = if e ∈ ds then sampledLevel x s e else s.power.dieLevel.get e := by
  induction ds generalizing s with
  | nil => rfl
  | cons d ds ih =>
    obtain ⟨hd, hds⟩ := List.nodup_cons.mp hds
    change (sampleDies x ds (sampleDie s d (x.cdies.getD d.val 0))).power.dieLevel.get e = _
    rw [ih hds, sampleDie_level]
    by_cases he : e = d
    · subst he
      simp [hd, sampledLevel]
    · simp [he, sampledLevel_sampleDie]

theorem sampleDies_temps_iLevel (x : Temps) (ds : List (Fin 4)) (s : State) :
    (sampleDies x ds s).power.temps = s.power.temps ∧ (sampleDies x ds s).power.iLevel = s.power.iLevel := by
  induction ds generalizing s with
  | nil => exact ⟨rfl, rfl⟩
  | cons d ds ih =>
    have hd := sampleDie_sensors s d (x.cdies.getD d.val 0)
    obtain ⟨htemps, hi⟩ := ih (sampleDie s d (x.cdies.getD d.val 0))
    exact ⟨htemps.trans hd.temps, hi.trans hd.iLevel⟩

theorem sampleDies_tripsIf (x : Temps) {ds : List (Fin 4)} (hds : ds.Nodup) (s : State) :
    TripsIf (∃ d ∈ ds, sampledLevel x s d = 3) s (sampleDies x ds s) := by
  induction ds generalizing s with
  | nil =>
    change TripsIf _ s s
    simpa using TripsIf.refl s
  | cons d ds ih =>
    obtain ⟨hd, hds⟩ := List.nodup_cons.mp hds
    have hothers : (∃ e ∈ ds, sampledLevel x (sampleDie s d (x.cdies.getD d.val 0)) e = 3) ↔
        ∃ e ∈ ds, sampledLevel x s e = 3 :=
      exists_congr fun e => and_congr_right fun he => by
        rw [sampledLevel_sampleDie x s _ fun hed : e = d => hd (hed ▸ he)]
    have hrest := (sampleDie_tripsIf s d _).trans (ih hds (sampleDie s d (x.cdies.getD d.val 0)))
    rw [hothers] at hrest
    rw [List.exists_mem_cons_iff]
    exact hrest

/-! ## The I-die and the whole sample -/

theorem sampleIDie_eq (s : State) (x : Int) :
    let new := levelAt iDieThresholds s.power.iLevel x
    ∃ u eventTimes thermTimes,
      Sensed { ioLimits { s.power with iLevel := new } with eventTimes := eventTimes, thermTimes := thermTimes } s u ∧
      sampleIDie s x = if isTrip u s.power.iLevel new 3 then trip u 4 else u := by
  intro new
  have hsensed : Sensed (ioLimits { s.power with iLevel := new }) s (setPower s fun P => ioLimits { P with iLevel := new }) :=
    ⟨_, _, _, _, _, rfl⟩
  obtain ⟨_, _, h⟩ := hsensed.noted
    (levelNotes_noted _ (thermDue s.power.iLevel new = true) 1 0 new x _)
  exact ⟨_, _, _, h, rfl⟩

theorem sampleIDie_tripsIf (s : State) (x : Int) :
    TripsIf (levelAt iDieThresholds s.power.iLevel x = 3) s (sampleIDie s x) := by
  obtain ⟨u, _, _, hsensed, heq⟩ := sampleIDie_eq s x
  rw [heq]
  exact hsensed.tripsIf rfl ..

theorem sampleIDie_sensors (s : State) (x : Int) :
    SensorsKept (ioLimits { s.power with iLevel := levelAt iDieThresholds s.power.iLevel x }) (sampleIDie s x).power := by
  obtain ⟨u, _, _, hsensed, heq⟩ := sampleIDie_eq s x
  rw [heq]
  obtain ⟨htemps, hdie, hi, hsluices, hslots⟩ := hsensed.sensors (isTrip u _ _ 3 = true) 4
  exact ⟨htemps, hdie, hi, hsluices, hslots⟩

/-- The rates of the I-die follow its level (R409). -/
structure IoFollows (P : Power) : Prop where
  iSluices : P.iSluices = if 1 ≤ P.iLevel then 50 else 100
  flitSlots : P.flitSlots = if 2 ≤ P.iLevel then 50 else 100

theorem SensorsKept.ioFollows {P Q : Power} (h : SensorsKept P Q) (hP : IoFollows P) : IoFollows Q where
  iSluices := by rw [h.iSluices, h.iLevel, hP.iSluices]
  flitSlots := by rw [h.flitSlots, h.iLevel, hP.flitSlots]

/-- A cold start obeys the sensors (R409), so an end of the hold leaves their record. -/
theorem leaveHold_sensors (h : IoFollows s.power) : SensorsKept s.power (leaveHold s).power := by
  unfold leaveHold
  split
  · split
    · exact ⟨rfl, rfl, rfl, rfl, rfl⟩
    · obtain ⟨_, hstart⟩ := coldStart_power s 1
      rw [hstart]
      exact ⟨rfl, rfl, rfl, h.iSluices.symm, h.flitSlots.symm⟩
  · exact ⟨rfl, rfl, rfl, rfl, rfl⟩

/-- Every sensor read, before a hold may end. -/
def sampleAll (x : Temps) (s : State) : State :=
  sampleIDie (sampleDies x [0, 1, 2, 3] (setPower s fun P => { P with temps := x })) x.iDie

theorem thermalSample_eq (x : Temps) (hgood : s.modPwrgd = true) : doThermalSample x s = leaveHold (sampleAll x s) :=
  if_neg (by simp [hgood])

theorem nodup_dies : ([0, 1, 2, 3] : List (Fin 4)).Nodup := by decide

theorem mem_dies (d : Fin 4) : d ∈ ([0, 1, 2, 3] : List (Fin 4)) := by decide +revert

/-- The sensors' record P holds what sample x reads on s. -/
structure Records (x : Temps) (s : State) (P : Power) : Prop where
  temps : P.temps = x
  dieLevel : ∀ d, P.dieLevel.get d = sampledLevel x s d
  iLevel : P.iLevel = levelAt iDieThresholds s.power.iLevel x.iDie
  rates : IoFollows P

theorem SensorsKept.records {x : Temps} {P Q : Power} (h : SensorsKept P Q) (hP : Records x s P) : Records x s Q where
  temps := h.temps.trans hP.temps
  dieLevel d := h.dieLevel ▸ hP.dieLevel d
  iLevel := h.iLevel.trans hP.iLevel
  rates := h.ioFollows hP.rates

theorem sampleAll_records (x : Temps) (s : State) : Records x s (sampleAll x s).power := by
  obtain ⟨htemps, hi⟩ := sampleDies_temps_iLevel x [0, 1, 2, 3] (setPower s fun P => { P with temps := x })
  have hlevels d := sampleDies_level x nodup_dies (setPower s fun P => { P with temps := x }) d
  refine (sampleIDie_sensors _ _).records ⟨htemps, fun d => ?_, ?_, rfl, rfl⟩
  · exact (hlevels d).trans (if_pos (mem_dies d))
  · exact congrArg (levelAt iDieThresholds · x.iDie) hi

theorem thermalSample_records (x : Temps) (hgood : s.modPwrgd = true) : Records x s (doThermalSample x s).power := by
  have hall := sampleAll_records x s
  rw [thermalSample_eq x hgood]
  exact (leaveHold_sensors hall.rates).records hall

theorem armed_of_first (htrip : s.thermtrip = false) (hboot : s.boot ≠ .thermalHold) :
    Armed (if s.perst then .thermalHold else .offline) s :=
  ⟨htrip, hboot, by simp [tripBoot, hboot]⟩

/-- A critical level, of the I-die or of a C-die, trips, and its own standing keeps a hold from ending. -/
theorem thermalSample_trips (x : Temps) (hgood : s.modPwrgd = true) (harmed : Armed b s)
    (hcritical : (doThermalSample x s).power.iLevel = 3 ∨ ∃ d : Fin 4, (doThermalSample x s).power.dieLevel.get d = 3) :
    Tripped b (doThermalSample x s) := by
  have hrec := thermalSample_records x hgood
  have hall := sampleAll_records x s
  simp only [hrec.iLevel, hrec.dieLevel] at hcritical
  have hread : Armed b (setPower s fun P => { P with temps := x }) := ⟨harmed.thermtrip, harmed.boot, harmed.stop⟩
  have htrips := (sampleDies_tripsIf x nodup_dies (setPower s fun P => { P with temps := x })).trans
    (sampleIDie_tripsIf (sampleDies x [0, 1, 2, 3] _) x.iDie)
  have hlevel : ¬ levelsLeft (sampleAll x s) = true := fun hleft => by
    obtain ⟨hdies, hi, -⟩ := levelsLeft_iff.mp hleft
    rcases hcritical with h | ⟨d, h⟩
    · exact absurd (h.symm.trans (hall.iLevel.symm.trans hi)) (by decide)
    · exact absurd (h.symm.trans ((hall.dieLevel d).symm.trans (hdies d))) (by decide)
  rw [thermalSample_eq x hgood, leaveHold_of_level hlevel]
  refine htrips.trips hread (hcritical.symm.imp (fun ⟨d, h⟩ => ⟨d, mem_dies d, h⟩) fun h => ?_)
  rw [(sampleDies_temps_iLevel ..).2]
  exact h

/-! ## The statement -/

/-- Settles O59: the governor and the brake by `applyPower_powered`, the sensors by `Records`, a trip by `Tripped`. -/
theorem powerFollowsTheLimitsAndTheSensors : Obligations.PowerFollowsTheLimitsAndTheSensors := by
  unfold Obligations.PowerFollowsTheLimitsAndTheSensors
  intro s m mr4 temp ts S up down aclk duty l stopped limited sameSite
  refine ⟨fun hboot hgood => ⟨fun hquiet => ?_, fun hl hfirst => ?_⟩, fun hhold hgood hl hbelow hfirst => ?_, fun hoff => ?_,
    fun hgood => ?_, fun hbrake => ?_, fun hbrake => ?_, fun hbrake => ?_, fun hbrake hgood => ?_, rfl⟩
  · have hnoted := mr4Poll_quiet mr4 hgood hboot hquiet
    have hsite : ∀ i, site (doMr4Poll m temp mr4 s) i =
        { site (modSite s m (mr4Site temp mr4)) i with limit := (site (doMr4Poll m temp mr4 s) i).limit } := fun i => by
      rw [hnoted.site, ← site_settleLimits_same]
    have hm := hsite m
    rw [site_modSite_self] at hm
    refine ⟨_, rfl, by rw [hm]; rfl, by rw [hm]; rfl, by rw [hm]; rfl, hnoted.settled (settleLimits_settled _), fun i hi => ?_⟩
    have hother := hsite i
    rwa [site_modSite, if_neg hi] at hother
  · obtain ⟨htripped, hlevel, hsites⟩ := mr4Poll_trips mr4 hgood hl hfirst (.inr hboot)
    exact ⟨_, rfl, htripped.thermtrip, htripped.boot.trans (armed_of_first hfirst hboot).stop, hlevel, htripped.rails,
      htripped.mem, hsites⟩
  · obtain ⟨htripped, -, -⟩ := mr4Poll_trips mr4 hgood hl hfirst (.inl hbelow)
    exact ⟨_, rfl, htripped.thermtrip, htripped.boot.trans (if_pos (.inr hhold))⟩
  · exact ⟨congrArg Host.Outcome.next (if_pos (by simp [hoff])), congrArg Host.Outcome.next (if_pos (by simp [hoff]))⟩
  · obtain ⟨htemps, hdies, hi, hsluices, hslots⟩ := thermalSample_records ts hgood
    refine ⟨_, rfl, htemps, hdies, hi, hsluices, hslots, fun hfirst hboot hcritical => ?_⟩
    obtain ⟨htrip, hstop, hrails, hmem⟩ := thermalSample_trips ts hgood (armed_of_first hfirst hboot) hcritical
    exact ⟨htrip, hstop, hrails, hmem⟩
  · exact congrArg Host.Outcome.next (if_pos hbrake)
  · have hp := governorEval_powered hbrake
    exact ⟨_, rfl, hp.aclk, hp.duty, hp.cap, hp.polders, fun i => ⟨hp.settled i, hp.sites i⟩⟩
  · exact congrArg Host.Outcome.next (pwrbrkAssert_braked hbrake)
  · obtain ⟨hlow, haclk, hduty, hpolders, hsettled, hsites⟩ := pwrbrkAssert_forced hbrake hgood
    exact ⟨_, rfl, hlow, haclk, hduty, hpolders, fun i => ⟨hsettled.le_half (dieDuty_braked hlow _), hsites i⟩⟩

end Sys2Proof.Machine
end

section
/-! SUPPORT. The conversions of the vector engine (R63, R140-R142): a row that counts for its command and then writes its lanes,
and what each conversion makes of them. -/

namespace Sys2Proof.Machine

variable {s u : State} {c : Fin 256} {p : Fin 4} {q : Fin 16} {n : Word} {w : DWord}

/-! ## A row that leaves more than registers -/

/-- An engine that runs a program for a command is owned by it. -/
theorem owner_of_runningFor (h : runningFor s c = some (p, q, n)) : ∃ i k, (ve s c).owner = some (p, q, n, i, k) := by
  unfold runningFor at h
  dsimp only at h
  split at h
  next p' q' n' i k _ howner =>
    split at h
    · split at h
      · cases h; exact ⟨i, k, howner⟩
      · cases h; exact ⟨i, k, howner⟩
      · cases h
    · cases h
  next => cases h

/-- A row that first leaves the state u, with the same clusters, and then changes vector registers and goes on. -/
theorem veRow_next_from {op : Nat} {act : VeOp} {V : Ve} (hu : u.clusters = s.clusters) (hr : Runs s c op p q n)
    (ha : act s c (wordAt (ve s c)) = goOn (modVe u c fun _ => V) c) (hV : V = { ve s c with v := V.v }) (h : NextIn s c) :
    VeNext u (veRow op anyWord act c s) c V := by
  have hve : ve u c = ve s c := congrArg (fun C => (Vector.get C c).ve) hu
  have hpc : pcOf (modVe u c fun _ => V) c = pcOf u c := by rw [pcOf, ve_modVe_self, hV, pcOf, hve]
  have hrow : veRow op anyWord act c s = fetchAt (modVe u c fun _ => V) p q n c (.past (pcOf u c)) := by
    simp only [veRow, hr.1, hr.2, anyWord, and_self, if_true, ha, goOn, hpc]
  have hnext : NextIn u c := by simpa only [NextIn, pcOf, hve] using h
  exact ⟨_, _, _, hrow.trans (fetchAt_in (by rw [hV, hve]) (by rw [hV, hve]) (by rw [hV, hve]) hnext)⟩

/-- An update of an engine acts by what it makes of the engine as it stands. -/
theorem modVe_const (u : State) (c : Fin 256) (f : Ve → Ve) : modVe u c f = modVe u c fun _ => f (ve u c) := rfl

theorem modVe_modVe (s : State) (c : Fin 256) (f g : Ve → Ve) : modVe (modVe s c f) c g = modVe s c fun V => g (f V) := by
  simp only [modVe, modCluster, vmod, Vector.get_eq_getElem, Vector.getElem_set_self, Vector.set_set]

/-- The free values that a lane scale above 255 takes count as a draw, whatever else the row does. -/
theorem ite_nextDraw_modVe (P : Prop) [Decidable P] (u : State) (c : Fin 256) (V : Ve) :
    ∃ d, (if P then nextDraw (modVe u c fun _ => V) else modVe u c fun _ => V) = modVe (setDraws u d) c fun _ => V := by
  split
  · exact ⟨u.draws + 1, rfl⟩
  · exact ⟨u.draws, rfl⟩

/-! ## Counts (R63) -/

/-- The conversions of the active lanes. -/
def activeConvs (V : Ve) (w : DWord) (f : Fin 64 → Conv) : List Conv := ((List.finRange 64).filter (active V w)).map f

/-- What a row counts for its command's conversions (R63). -/
def countConvs (s : State) (p : Fin 4) (q : Fin 16) (n : Word) (cmd : Cmd) (cs : List Conv) : State :=
  noteCounts s p q n cmd.e.ctrSet (satsOf cs) (flushesOf cs) 0

theorem noteCounts_modVe (set : BitVec 16) (a b k : Nat) (f : Ve → Ve) :
    noteCounts (modVe s c f) p q n set a b k = modVe (noteCounts s p q n set a b k) c f := by
  simp only [noteCounts, addWarn, modCmd, modPolder, countAdd, modVe, modCluster]

theorem clusters_countConvs (cmd : Cmd) (cs : List Conv) : (countConvs s p q n cmd cs).clusters = s.clusters := by
  simp only [countConvs, noteCounts, addWarn, modCmd, modPolder, countAdd]

theorem clusters_setDraws_countConvs (cmd : Cmd) (cs : List Conv) (d : Nat) :
    (setDraws (countConvs s p q n cmd cs) d).clusters = s.clusters := by simp only [setDraws, clusters_countConvs]

theorem ve_countConvs (cmd : Cmd) (cs : List Conv) (x : Fin 256) : ve (countConvs s p q n cmd cs) x = ve s x := by
  rw [ve, cluster, clusters_countConvs]; rfl

theorem setDraws_countConvs (cmd : Cmd) (cs : List Conv) :
    setDraws (countConvs s p q n cmd cs) s.draws = countConvs s p q n cmd cs := by
  simp only [setDraws, countConvs, noteCounts, addWarn, modCmd, modPolder, countAdd]

/-- Converting the lanes counts for the command, and writes them. -/
theorem convertLanes_eq {cmd : Cmd} (hrun : runningFor s c = some (p, q, n)) (hcmd : cmdAt s p q n = some cmd)
    (f : Fin 64 → Conv) :
    convertLanes s c w f = modVe (countConvs s p q n cmd (activeConvs (ve s c) w f)) c
      fun _ => withLanes (ve s c) w (fD w) fun i => BitVec.ofNat 32 (f i).code := by
  obtain ⟨i, k, howner⟩ := owner_of_runningFor hrun
  have hcmd' (g : Ve → Ve) : cmdAt (modVe s c g) p q n = some cmd := hcmd
  simp only [convertLanes, howner, hcmd', noteCounts_modVe]
  change modVe (countConvs s p q n cmd (activeConvs (ve s c) w f)) c _ = _
  rw [modVe_const, ve_countConvs]
  rfl

/-! ## What each conversion makes of the lanes -/

theorem doCvtf_eq {fmt mode : Nat} (hfmt : fMod w % 16 = fmt) (hmode : fMod w / 16 = mode) (hform : formB w = true)
    (hle : fmt ≤ 0xA) (hmode1 : mode ≤ 1) (hcb4 : fmt ≠ 2) (hint : fmt = 0xA → mode = 0) :
    ∃ d, doCvtf s c w = goOn (modVe (setDraws s d) c fun _ => withLanes (ve s c) w (fD w) fun i =>
      decodeLane fmt (if mode = 1 then some (laneScale s.draws i (srcB (ve s c) w i)) else none) (srcA (ve s c) w i)) c := by
  have hlegal : ¬ (!formB w || decide (0xA < fmt)) = true := by simp [hform]; omega
  have hformat : ¬ (fmt = 2 ∨ 1 < mode ∨ (fmt = 0xA ∧ mode = 1)) := by omega
  unfold doCvtf
  dsimp only
  rw [hfmt, hmode, if_neg hlegal, if_neg hformat]
  exact (ite_nextDraw_modVe ..).imp fun _ => congrArg (goOn · c)

/-- A conversion to a format that its instruction has passes the checks of R140-R142. -/
theorem encode_legal {form : Bool} {fmt mode : Nat} (hform : form = true) (hle : fmt ≤ 0xA) (hcb4 : fmt ≠ 2)
    (hint : fmt = 0xA → mode = 0) : (!form || decide (0xA < fmt)) = false ∧ encodeBad fmt mode = false := by
  refine ⟨by simp [hform, hle], ?_⟩
  simp only [encodeBad, Bool.or_eq_false_iff, beq_eq_false_iff_ne, Bool.and_eq_false_iff, bne_eq_false_iff_eq]
  omega

/-- A measured scale goes to the active lanes of another register than the codes. -/
theorem putScales_eq {V : Ve} (hc : fC w ≠ fD w) (f : Fin 64 → Nat) :
    putScales (modVe u c fun _ => V) c w f =
      modVe u c fun _ => withLanes V w (fC w) fun i => BitVec.ofNat 32 (f i) := by
  rw [putScales, if_neg hc, modVe_modVe]; rfl

/-- One lane of a cvtt and of a cvtsr. -/
def cvttLane (V : Ve) (w : DWord) (fmt mode draws : Nat) (i : Fin 64) : Conv :=
  encodeLane fmt .rne V.flush (scaleAt draws V w fmt mode i) (srcA V w i)

def cvtsrLane (V : Ve) (w : DWord) (fmt mode draws : Nat) (seed : BitVec 128) (step : Word) (tid : Nat) (i : Fin 64) : Conv :=
  encodeLane fmt (.sr (srDraw seed step tid (V.sreg.get 0) ((V.sreg.get (fin16 (fC w))).toNat + i.val))) V.flush
    (scaleAt draws V w fmt mode i) (srcA V w i)

/-- The registers after a cvtt: the codes, and a scale that it measured (R141). -/
def afterCvtt (V : Ve) (w : DWord) (fmt mode draws : Nat) : Ve :=
  let W := withLanes V w (fD w) fun i => BitVec.ofNat 32 (cvttLane V w fmt mode draws i).code
  if mode < 2 then W
  else withLanes W w (fC w) fun i => BitVec.ofNat 32 (measuredAt V w fmt (if mode = 2 then 32 else 16) i)

theorem afterCvtt_lanes (V : Ve) (w : DWord) (fmt mode draws : Nat) :
    afterCvtt V w fmt mode draws = { V with v := (afterCvtt V w fmt mode draws).v } := by
  unfold afterCvtt
  split <;> rfl

section Running
variable {cmd : Cmd} (hrun : runningFor s c = some (p, q, n)) (hcmd : cmdAt s p q n = some cmd)
include hrun hcmd

theorem doCvtt_eq {fmt mode : Nat} (hfmt : fMod w % 16 = fmt) (hmode : fMod w / 16 = mode)
    (hform : (if mode = 1 then formB w else formR w) = true) (hle : fmt ≤ 0xA) (hcb4 : fmt ≠ 2)
    (hint : fmt = 0xA → mode = 0) (hc : 2 ≤ mode → fC w ≠ fD w) :
    ∃ d, doCvtt s c w = goOn (modVe (setDraws (countConvs s p q n cmd
      (activeConvs (ve s c) w (cvttLane (ve s c) w fmt mode s.draws))) d) c
        fun _ => afterCvtt (ve s c) w fmt mode s.draws) c := by
  obtain ⟨hlegal, hformat⟩ := encode_legal hform hle hcb4 hint
  unfold doCvtt
  dsimp only
  simp only [hfmt, hmode, hlegal, hformat, Bool.false_eq_true, if_false]
  rw [convertLanes_eq hrun hcmd]
  by_cases hmeasures : 2 ≤ mode
  · rw [if_pos hmeasures, putScales_eq (hc hmeasures), afterCvtt, if_neg (Nat.not_lt.2 hmeasures)]
    exact (ite_nextDraw_modVe ..).imp fun _ => congrArg (goOn · c)
  · rw [if_neg hmeasures, afterCvtt, if_pos (Nat.not_le.1 hmeasures)]
    exact (ite_nextDraw_modVe ..).imp fun _ => congrArg (goOn · c)

theorem doCvtsr_eq {fmt mode tid : Nat} {step : Word} (hfmt : fMod w % 16 = fmt) (hmode : fMod w / 16 = mode)
    (hstream : streamOf s c = some (p, step, tid)) (htid : tid ≠ 0xFFFF)
    (hform : (if mode = 1 then formB w else formR w) = true) (hle : fmt ≤ 0xA) (hcb4 : fmt ≠ 2) (hmode1 : mode ≤ 1)
    (hint : fmt = 0xA → mode = 0) (hc : fC w < 16) :
    ∃ d, doCvtsr s c w = goOn (modVe (setDraws (countConvs s p q n cmd
        (activeConvs (ve s c) w (cvtsrLane (ve s c) w fmt mode s.draws (polder s p).seed step tid))) d) c
      fun _ => withLanes (ve s c) w (fD w) fun i =>
        BitVec.ofNat 32 (cvtsrLane (ve s c) w fmt mode s.draws (polder s p).seed step tid i).code) c := by
  obtain ⟨hlegal, hformat⟩ := encode_legal hform hle hcb4 hint
  have hreg : decide (16 ≤ fC w) = false := decide_eq_false (by omega)
  have hmeasures : decide (2 ≤ mode) = false := decide_eq_false (by omega)
  have hid : (tid == 0xFFFF) = false := beq_false_of_ne htid
  unfold doCvtsr
  simp only [hstream, hfmt, hmode, hlegal, hformat, hreg, hmeasures, hid, Bool.or_self, Bool.false_eq_true, if_false]
  rw [convertLanes_eq hrun hcmd]
  exact (ite_nextDraw_modVe ..).imp fun _ => congrArg (goOn · c)

theorem doF2i_eq (hform : formR w = true) {f : Fin 64 → Conv}
    (hf : f = fun i => intConvert 0xA .rne (f32dec (srcA (ve s c) w i))) :
    doF2i s c w = goOn (modVe (countConvs s p q n cmd (activeConvs (ve s c) w f)) c
      fun _ => withLanes (ve s c) w (fD w) fun i => BitVec.ofNat 32 (f i).code) c := by
  subst hf
  simp only [doF2i, hform, if_true, convertLanes_eq hrun hcmd]

end Running

/-! ## The statement -/

/-- Settles O13: each row through what it makes of the lanes, and the counts of R63 before them. -/
theorem conversionsWriteLanesAndCount : Obligations.ConversionsWriteLanesAndCount := by
  unfold Obligations.ConversionsWriteLanesAndCount
  intro s c p q n w cmd fmt mode hw hcmd hfmt hmode hnext V lanes counted
  subst hw
  refine ⟨fun hr hform hle hmode1 hcb4 hint => ?_, fun hr hform hle hcb4 hint hc => ?_,
    fun step tid hr hstream htid hform hle hcb4 hmode1 hint hc => ?_, fun hr hform => ?_⟩
  · obtain ⟨d, hd⟩ := doCvtf_eq hfmt.symm hmode.symm hform hle hmode1 hcb4 hint
    exact ⟨_, d, rfl, veRow_next_from rfl hr hd rfl hnext⟩
  · obtain ⟨d, hd⟩ := doCvtt_eq hr.1 hcmd hfmt.symm hmode.symm hform hle hcb4 hint hc
    exact ⟨_, d, rfl, veRow_next_from (clusters_setDraws_countConvs ..) hr hd (afterCvtt_lanes ..) hnext⟩
  · obtain ⟨d, hd⟩ := doCvtsr_eq hr.1 hcmd hfmt.symm hmode.symm hstream htid hform hle hcb4 hmode1 hint hc
    exact ⟨_, d, rfl, veRow_next_from (clusters_setDraws_countConvs ..) hr hd rfl hnext⟩
  · have hcounted := setDraws_countConvs (s := s) (p := p) (q := q) (n := n) cmd
    have hrow := veRow_next_from (clusters_countConvs ..) hr (doF2i_eq hr.1 hcmd hform rfl) rfl hnext
    rw [← hcounted] at hrow
    exact ⟨_, rfl, hrow⟩

end Sys2Proof.Machine
end

section
/-! SUPPORT. `Moved`: what the units of a command may move while they work, its memory where they may write and the clusters'
parts beside their vector engines where they are tile engines. It chains, and each shared operation keeps to it. -/

namespace Sys2Proof.Machine

variable {s t u : State} {p : Fin 4} {q : Fin 16} {n : Word} {writes tiles : Bool}

/-! ## What a unit may move -/

/-- Nothing of a polder changes but its traffic table and what its commands in flight have gathered; each keeps its place. -/
def Carries (P Q : Polder) : Prop :=
  Q = { P with chanBytes := Q.chanBytes, inflight := Q.inflight } ∧
  Q.inflight.map (fun c => (c.q, c.e)) = P.inflight.map fun c => (c.q, c.e)

/-- t is s after counts, traffic and records of commands; memory may move only where `writes` is set, and the clusters,
their vector engines apart, only where `tiles` is. -/
def Moved (writes tiles : Bool) (s t : State) : Prop :=
  ∃ mem undef watch draws counters sites polders clusters,
    t = { s with mem := mem, undef := undef, watch := watch, draws := draws, counters := counters, sites := sites,
                 polders := polders, clusters := clusters } ∧
    (∀ p, Carries (polder s p) (polders.get p)) ∧ (∀ c, (clusters.get c).ve = ve s c) ∧
    (writes = false → mem = s.mem ∧ undef = s.undef ∧ watch = s.watch) ∧ (tiles = false → clusters = s.clusters)

theorem Carries.refl (P : Polder) : Carries P P := ⟨rfl, rfl⟩

theorem Carries.trans {P Q R : Polder} (h : Carries P Q) (k : Carries Q R) : Carries P R := by
  obtain ⟨hQ, hnames⟩ := h
  obtain ⟨hR, hnames'⟩ := k
  refine ⟨hR.trans ?_, hnames'.trans hnames⟩
  rw [hQ]

theorem Carries.kept {P Q : Polder} (h : Carries P Q) : Kept P Q :=
  ⟨h.1, by have hnames := congrArg (List.map Prod.snd) h.2; rwa [List.map_map, List.map_map] at hnames⟩

namespace Moved

theorem refl (s : State) : Moved writes tiles s s :=
  ⟨_, _, _, _, _, _, _, _, rfl, fun _ => .refl _, fun _ => rfl, fun _ => ⟨rfl, rfl, rfl⟩, fun _ => rfl⟩

theorem trans (h : Moved writes tiles s t) (k : Moved writes tiles t u) : Moved writes tiles s u := by
  obtain ⟨_, _, _, _, _, _, _, _, rfl, hpolders, hve, hmem, hclusters⟩ := h
  obtain ⟨_, _, _, _, _, _, _, _, rfl, kpolders, kve, kmem, kclusters⟩ := k
  refine ⟨_, _, _, _, _, _, _, _, rfl, fun p => (hpolders p).trans (kpolders p), fun c => (kve c).trans (hve c),
    fun hw => ?_, fun ht => (kclusters ht).trans (hclusters ht)⟩
  obtain ⟨h₁, h₂, h₃⟩ := hmem hw
  obtain ⟨k₁, k₂, k₃⟩ := kmem hw
  exact ⟨k₁.trans h₁, k₂.trans h₂, k₃.trans h₃⟩

/-- What moves less moves no more than what moves more. -/
theorem mono {w x : Bool} (h : Moved w x s t) (hw : w = true → writes = true) (hx : x = true → tiles = true) :
    Moved writes tiles s t := by
  obtain ⟨_, _, _, _, _, _, _, _, rfl, hpolders, hve, hmem, hclusters⟩ := h
  exact ⟨_, _, _, _, _, _, _, _, rfl, hpolders, hve, fun e => hmem (by cases w <;> simp_all),
    fun e => hclusters (by cases x <;> simp_all)⟩

theorem any (h : Moved false false s t) : Moved writes tiles s t := h.mono nofun nofun

theorem ite (c : Prop) [Decidable c] (h : Moved writes tiles s t) (k : Moved writes tiles s u) :
    Moved writes tiles s (if c then t else u) := by
  split
  · exact h
  · exact k

theorem foldl {α : Type} {f : State → α → State} (hf : ∀ s x, Moved writes tiles s (f s x)) (xs : List α) (s : State) :
    Moved writes tiles s (xs.foldl f s) := List.foldlRecOn xs f (refl s) fun _ h x _ => h.trans (hf _ x)

theorem poison (h : Moved writes tiles s t) : t.poison = s.poison := by
  obtain ⟨_, _, _, _, _, _, _, _, rfl, -⟩ := h
  rfl

theorem sameMem (h : Moved false tiles s t) : SameMem s t := by
  obtain ⟨_, _, _, _, _, _, _, _, rfl, -, -, hmem, -⟩ := h
  exact ⟨(hmem rfl).1, (hmem rfl).2.1⟩

theorem watch (h : Moved false tiles s t) : t.watch = s.watch := by
  obtain ⟨_, _, _, _, _, _, _, _, rfl, -, -, hmem, -⟩ := h
  exact (hmem rfl).2.2

theorem carries (h : Moved writes tiles s t) (p : Fin 4) : Carries (polder s p) (polder t p) := by
  obtain ⟨_, _, _, _, _, _, _, _, rfl, hpolders, -⟩ := h
  exact hpolders p

/-- A command in flight is found again, with its entry. -/
theorem cmdAt_e (h : Moved writes tiles s t) (p : Fin 4) (q : Fin 16) (n : Word) :
    (cmdAt t p q n).map (·.e) = (cmdAt s p q n).map (·.e) := by
  have hfind (xs : List Cmd) : (xs.find? fun c => c.q = q && c.e.seq = n).map (·.e) =
      ((xs.map fun c => (c.q, c.e)).find? fun x => x.1 = q && x.2.seq = n).map (·.2) := by
    rw [List.find?_map, Option.map_map]; rfl
  rw [cmdAt, cmdAt, hfind, hfind, (h.carries p).2]

theorem memFrame (h : Moved writes false s t) : MemFrame s t := by
  have hcarries := h.carries
  obtain ⟨_, _, _, _, _, _, _, _, rfl, -, -, -, hclusters⟩ := h
  obtain rfl := hclusters rfl
  exact ⟨rfl, fun p => (hcarries p).kept⟩

theorem tileFrame (h : Moved writes tiles s t) : TileFrame s t := by
  have hcarries := h.carries
  obtain ⟨_, _, _, _, _, _, _, _, rfl, -, hve, -⟩ := h
  exact ⟨rfl, fun p => (hcarries p).kept, hve⟩

theorem memByte (h : Moved false tiles s t) (a : Nat) : memByte t a = Machine.memByte s a := by
  rw [Machine.memByte, h.sameMem.1, h.sameMem.2]; rfl

theorem memBytes (h : Moved false tiles s t) (a n : Nat) : memBytes t a n = Machine.memBytes s a n := by
  simp only [Machine.memBytes, h.memByte]

theorem memNat (h : Moved false tiles s t) (a n : Nat) : memNat t a n = Machine.memNat s a n := by
  rw [Machine.memNat, h.memBytes, Machine.memNat]

end Moved

/-! ## Counts, traffic and the records of commands -/

theorem countAdd_moved (s : State) (p : Fin 4) (set : BitVec 16) (i : Fin 14) (n : Nat) :
    Moved writes tiles s (countAdd s p set i n) :=
  ⟨_, _, _, _, _, _, _, _, rfl, fun _ => .refl _, fun _ => rfl, fun _ => ⟨rfl, rfl, rfl⟩, fun _ => rfl⟩

theorem modPolder_moved (s : State) (p : Fin 4) {f : Polder → Polder} (hf : ∀ P, Carries P (f P)) :
    Moved writes tiles s (modPolder s p f) := by
  refine ⟨_, _, _, _, _, _, _, _, rfl, fun x => ?_, fun _ => rfl, fun _ => ⟨rfl, rfl, rfl⟩, fun _ => rfl⟩
  rw [get_vmod]
  split
  next h => subst h; exact hf _
  next => exact .refl _

theorem modCmd_moved (s : State) (p : Fin 4) (q : Fin 16) (n : Word) {f : Cmd → Cmd}
    (hf : ∀ c, ((f c).q, (f c).e) = (c.q, c.e) := by exact fun _ => rfl) : Moved writes tiles s (modCmd s p q n f) := by
  refine modPolder_moved s p fun P => ⟨rfl, ?_⟩
  rw [List.map_map]
  refine List.map_congr_left fun c _ => ?_
  simp only [Function.comp_apply]
  split
  · exact hf c
  · rfl

theorem modSite_moved (s : State) (m : Fin 32) (f : Site → Site) : Moved writes tiles s (modSite s m f) :=
  ⟨_, _, _, _, _, _, _, _, rfl, fun _ => .refl _, fun _ => rfl, fun _ => ⟨rfl, rfl, rfl⟩, fun _ => rfl⟩

theorem nextDraw_moved (s : State) : Moved writes tiles s (nextDraw s) :=
  ⟨_, _, _, _, _, _, _, _, rfl, fun _ => .refl _, fun _ => rfl, fun _ => ⟨rfl, rfl, rfl⟩, fun _ => rfl⟩

theorem setBody_moved (s : State) (p : Fin 4) (q : Fin 16) (n : Word) (b : Body) : Moved writes tiles s (setBody s p q n b) :=
  modCmd_moved ..

theorem setAreas_moved (s : State) (p : Fin 4) (q : Fin 16) (n : Word) (as : List Area) :
    Moved writes tiles s (setAreas s p q n as) := modCmd_moved ..

theorem noteCounts_moved (s : State) (p : Fin 4) (q : Fin 16) (n : Word) (set : BitVec 16) (a b k : Nat) :
    Moved writes tiles s (noteCounts s p q n set a b k) :=
  (countAdd_moved ..).trans ((countAdd_moved ..).trans ((countAdd_moved ..).trans (modCmd_moved ..)))

theorem touchBlocks_moved (k : Nat) (s : State) (p : Fin 4) (a n : Nat) : Moved writes tiles s (touchBlocks k s p a n) := by
  induction k generalizing s a n with
  | zero => exact .refl s
  | succ k ih =>
    simp only [touchBlocks]
    refine .ite _ (.refl s) (.trans ?_ (ih ..))
    split
    · exact .refl s
    · refine .trans (modPolder_moved s p ?_) (modSite_moved ..)
      exact fun _ => ⟨rfl, rfl⟩

theorem touch_moved (s : State) (p : Fin 4) (a n : Nat) : Moved writes tiles s (touch s p a n) :=
  .ite _ (.refl s) (touchBlocks_moved ..)

theorem noteAccess_moved (s : State) (p : Fin 4) (set : BitVec 16) (a n : Nat) :
    Moved writes tiles s (noteAccess s p set a n) :=
  .ite _ (countAdd_moved ..) ((countAdd_moved ..).trans (touch_moved ..))

theorem unitRead_moved (s : State) (p : Fin 4) (set : BitVec 16) (a n : Nat) : Moved writes tiles s (unitRead s p set a n).1 :=
  noteAccess_moved ..

/-! ## Reads where no memory error stands -/

theorem meetsBad_of_no_poison (h : s.poison = []) (a n : Nat) : meetsBad s a n = false := by simp [meetsBad, h]

theorem spansBad_of_no_poison (h : s.poison = []) (xs : List (Nat × Nat)) : spansBad s xs = false := by
  simp [spansBad, meetsBad_of_no_poison h]

theorem unitRead_of_no_poison (h : s.poison = []) (p : Fin 4) (set : BitVec 16) (a n : Nat) :
    (unitRead s p set a n).2 = some (memBytes s a n) := by simp [unitRead, memRead, meetsBad_of_no_poison h]

theorem readLines_moved (s : State) (p : Fin 4) (set : BitVec 16) (a stride bytes : Nat) (is : List Nat) :
    Moved writes tiles s (readLines s p set a stride bytes is).1 := by
  induction is generalizing s with
  | nil => exact .refl s
  | cons i is ih => exact (unitRead_moved ..).trans (ih _)

theorem readLines_of_no_poison (h : s.poison = []) (p : Fin 4) (set : BitVec 16) (a stride bytes : Nat) (is : List Nat) :
    (readLines s p set a stride bytes is).2 = some (is.map fun i => memBytes s (a + i * stride) bytes) := by
  induction is generalizing s with
  | nil => rfl
  | cons i is ih =>
    have hread : Moved false false s (unitRead s p set (a + i * stride) bytes).1 := unitRead_moved ..
    simp only [readLines, unitRead_of_no_poison h, ih (hread.poison.trans h), hread.memBytes, List.map_cons]

/-! ## Writes where no memory error stands -/

theorem memWrite_of_no_poison (h : s.poison = []) (a : Nat) {bs : List Byte} (hbs : bs ≠ []) :
    memWrite s a bs = (memPut s a bs, true) := by
  have hn : ¬ bs.length = 0 := fun e => hbs (List.eq_nil_of_length_eq_zero e)
  have hlt : a < a + bs.length := by omega
  have hs : { s with poison := s.poison.filter fun c =>
      !(decide (a ≤ c.1) && decide (c.1 + eccUnit c.1 ≤ a + bs.length)) } = s := by
    rw [h, List.filter_nil, ← h]
  simp only [memWrite, blocked_of_no_poison h, hn, hs, if_false, Bool.false_eq_true, hlt, if_true, Nat.sub_self,
    List.drop_zero, Nat.add_sub_cancel_left, List.take_length, Bool.not_false, Bool.and_self]

theorem memPut_moved (s : State) (a : Nat) (bs : List Byte) : Moved true tiles s (memPut s a bs) :=
  ⟨_, _, _, _, _, _, _, _, rfl, fun _ => .refl _, fun _ => rfl, nofun, fun _ => rfl⟩

theorem memWrite_moved (h : s.poison = []) (a : Nat) (bs : List Byte) : Moved true tiles s (memWrite s a bs).1 := by
  by_cases hbs : bs = []
  · subst hbs; exact .refl s
  · rw [memWrite_of_no_poison h a hbs]; exact memPut_moved ..

theorem memWrite_stores (h : s.poison = []) (a : Nat) (bs : List Byte) : (memWrite s a bs).2 = true := by
  by_cases hbs : bs = []
  · subst hbs; rfl
  · rw [memWrite_of_no_poison h a hbs]

theorem byte_memWrite (h : s.poison = []) (a : Nat) (bs : List Byte) (x : Nat) :
    memByte (memWrite s a bs).1 x = if a ≤ x ∧ x < a + bs.length then bs.getD (x - a) 0 else memByte s x := by
  by_cases hbs : bs = []
  · subst hbs; rw [if_neg (by simp)]; rfl
  · rw [memWrite_of_no_poison h a hbs]; exact byte_memPut ..

theorem unitWrite_moved (h : s.poison = []) (p : Fin 4) (set : BitVec 16) (a : Nat) (bs : List Byte) :
    Moved true tiles s (unitWrite s p set a bs).1 := (memWrite_moved h ..).trans (noteAccess_moved ..)

theorem byte_unitWrite (h : s.poison = []) (p : Fin 4) (set : BitVec 16) (a : Nat) (bs : List Byte) (x : Nat) :
    memByte (unitWrite s p set a bs).1 x = if a ≤ x ∧ x < a + bs.length then bs.getD (x - a) 0 else memByte s x :=
  (Moved.memByte (tiles := false) (noteAccess_moved ..) x).trans (byte_memWrite h ..)

/-! ## Lines that are apart, written one after another -/

theorem apart_cons {x : Nat × List Byte} {ls : List (Nat × List Byte)} : Apart (x :: ls) ↔
    (∀ y ∈ ls, x.1 + x.2.length ≤ y.1 ∨ y.1 + y.2.length ≤ x.1) ∧ Apart ls := List.pairwise_cons

/-- A read that is one line, byte by byte. -/
theorem map_range_eq_line {get : Nat → Byte} {x : Nat × List Byte}
    (h : ∀ a, x.1 ≤ a → a < x.1 + x.2.length → get a = x.2.getD (a - x.1) 0) :
    (List.range x.2.length).map (fun i => get (x.1 + i)) = x.2 := by
  apply List.ext_getElem
  · simp
  · intro i h₁ h₂
    rw [List.getElem_map, List.getElem_range, h _ (by omega) (by omega), Nat.add_sub_cancel_left]
    simp [h₂]

/-- Lines written one after another into bytes that reads see: each stands, and no other byte has changed. `P` is what the
writes need and keep. -/
theorem foldl_lines {σ : Type} {get : σ → Nat → Byte} {f : σ → Nat × List Byte → σ} {P : σ → Prop}
    (hP : ∀ s x, P s → P (f s x))
    (hf : ∀ s x a, P s → get (f s x) a = if x.1 ≤ a ∧ a < x.1 + x.2.length then x.2.getD (a - x.1) 0 else get s a)
    {ls : List (Nat × List Byte)} (hapart : Apart ls) {s : σ} (hs : P s) :
    (∀ x ∈ ls, (List.range x.2.length).map (fun i => get (ls.foldl f s) (x.1 + i)) = x.2) ∧
    ∀ a, (∀ x ∈ ls, a < x.1 ∨ x.1 + x.2.length ≤ a) → get (ls.foldl f s) a = get s a := by
  induction ls generalizing s with
  | nil => exact ⟨nofun, fun _ _ => rfl⟩
  | cons y ls ih =>
    obtain ⟨hy, hrest⟩ := apart_cons.mp hapart
    obtain ⟨hlines, hother⟩ := ih hrest (hP s y hs)
    refine ⟨List.forall_mem_cons.mpr ⟨map_range_eq_line fun a h₁ h₂ => ?_, hlines⟩, fun a ha => ?_⟩
    · rw [List.foldl_cons, hother a fun x hx => by have := hy x hx; omega, hf _ _ _ hs, if_pos ⟨h₁, h₂⟩]
    · obtain ⟨hay, hals⟩ := List.forall_mem_cons.mp ha
      rw [List.foldl_cons, hother a hals, hf _ _ _ hs, if_neg (by omega)]

/-- Unit writes in order, without what they report. -/
def putAll (s : State) (p : Fin 4) (set : BitVec 16) (ls : List (Nat × List Byte)) : State :=
  ls.foldl (fun s x => (unitWrite s p set x.1 x.2).1) s

theorem putAll_moved (h : s.poison = []) (p : Fin 4) (set : BitVec 16) (ls : List (Nat × List Byte)) :
    Moved true tiles s (putAll s p set ls) := by
  induction ls generalizing s with
  | nil => exact .refl s
  | cons x ls ih =>
    have hx : Moved true tiles s (unitWrite s p set x.1 x.2).1 := unitWrite_moved h ..
    exact hx.trans (ih (hx.poison.trans h))

theorem putAll_holds (h : s.poison = []) (p : Fin 4) (set : BitVec 16) {ls : List (Nat × List Byte)} (hapart : Apart ls) :
    Holds s (putAll s p set ls) ls :=
  foldl_lines (P := fun s => s.poison = []) (fun _ _ h => (unitWrite_moved (tiles := false) h ..).poison.trans h)
    (fun _ _ a h => byte_unitWrite h _ _ _ _ a) hapart h

theorem writeLines_of_no_poison (h : s.poison = []) (p : Fin 4) (set : BitVec 16) (a stride : Nat)
    (ls : List (Nat × List Byte)) :
    writeLines s p set a stride ls = (putAll s p set (ls.map fun x => (a + x.1 * stride, x.2)), true) := by
  induction ls generalizing s with
  | nil => rfl
  | cons x ls ih =>
    have hx : Moved true false s (unitWrite s p set (a + x.1 * stride) x.2).1 := unitWrite_moved h ..
    have hstores : (unitWrite s p set (a + x.1 * stride) x.2).2 = true := memWrite_stores h ..
    simp only [writeLines, ih (hx.poison.trans h), hstores, Bool.and_self]
    rfl

theorem writeAll_of_no_poison (h : s.poison = []) (p : Fin 4) (set : BitVec 16) (ls : List (Nat × List Byte)) :
    writeAll s p set ls = (putAll s p set ls, true) := by
  unfold writeAll putAll
  induction ls generalizing s with
  | nil => rfl
  | cons x ls ih =>
    have hx : Moved true false s (unitWrite s p set x.1 x.2).1 := unitWrite_moved h ..
    have hstores : (unitWrite s p set x.1 x.2).2 = true := memWrite_stores h ..
    simp only [List.foldl_cons, hstores, Bool.and_self, ih (hx.poison.trans h)]

theorem putAll_append (s : State) (p : Fin 4) (set : BitVec 16) (xs ys : List (Nat × List Byte)) :
    putAll s p set (xs ++ ys) = putAll (putAll s p set xs) p set ys := List.foldl_append ..

/-- What lines hold after a step that moves no memory, and before one. -/
theorem Holds.moved {ls : List (Nat × List Byte)} {v : State} (h : Moved false tiles s t) (k : Holds t u ls)
    (m : Moved false tiles u v) : Holds s v ls :=
  ⟨fun x hx => (m.memBytes ..).trans (k.1 x hx), fun a ha => (m.memByte a).trans ((k.2 a ha).trans (h.memByte a))⟩

end Sys2Proof.Machine
end

section
/-! SUPPORT. Command start where no memory error stands; the checks that a copy has passed (R242, R245). -/

namespace Sys2Proof.Machine

variable {s : State} {p : Fin 4} {q : Fin 16} {e : Entry}

/-! ## Command start -/

theorem startOk_opcode {op : Byte} (h : startOk s p q e op = true) : e.opcode = op := by
  simp only [startOk, headOk, Bool.and_eq_true, beq_iff_eq] at h
  exact h.1.2

theorem runEntry_of_passed {op : Byte} {checks : State → Option Status} {act : State → State}
    (h : startOk s p q e op = true) (hchecks : checks s = none) : runEntry s p q e op checks act = act (startCmd s p q e) := by
  simp only [runEntry, h, if_true, hchecks]

theorem firstFail_eq_none {xs : List (Bool × Status)} : firstFail xs = none ↔ ∀ x ∈ xs, x.1 = true := by
  induction xs with
  | nil => simp [firstFail]
  | cons x xs ih =>
    obtain ⟨ok, st⟩ := x
    cases ok <;> simp [firstFail, ih]

/-- No memory error stands; a name of its own, so that steps compare by their states and not by a field. -/
def Unpoisoned (s : State) : Prop := s.poison = []

theorem Moved.unpoisoned {t : State} {writes tiles : Bool} (h : Moved writes tiles s t) (hs : Unpoisoned s) :
    Unpoisoned t := h.poison.trans hs

theorem modPolder_unpoisoned (h : Unpoisoned s) {p : Fin 4} {f : Polder → Polder} : Unpoisoned (modPolder s p f) := h

theorem regionWrite_unpoisoned (h : Unpoisoned s) {p : Fin 4} {a : Nat} {bs : List Byte} : Unpoisoned (regionWrite s p a bs) :=
  ((memWrite_moved (tiles := false) h a bs).trans (touch_moved ..)).unpoisoned h

theorem writeRing_unpoisoned (h : Unpoisoned s) {p : Fin 4} {bytes : List Byte} : Unpoisoned (writeRing s p bytes) :=
  modPolder_unpoisoned (regionWrite_unpoisoned (regionWrite_unpoisoned h))

theorem flushRing_unpoisoned (h : Unpoisoned s) {p : Fin 4} : Unpoisoned (flushRing s p) :=
  modPolder_unpoisoned (List.foldlRecOn (motive := Unpoisoned) _ _ h fun _ ht _ _ => writeRing_unpoisoned ht)

theorem traceRecord_unpoisoned (h : Unpoisoned s) {p : Fin 4} {typ qb : Nat} {rounded : Bool} {op : Nat} {seq rid : Word}
    {set : Nat} {body : List Byte} {snap : Option Snap} :
    Unpoisoned (traceRecord s p typ qb rounded op seq rid set body snap) := by
  unfold traceRecord
  dsimp only
  split
  · exact h
  · exact flushRing_unpoisoned (modPolder_unpoisoned h)

theorem countTimed_moved (s : State) (p : Fin 4) (set : BitVec 16) : Moved false false s (countTimed s p set) :=
  (countAdd_moved ..).trans ((countAdd_moved ..).trans ((countAdd_moved ..).trans (nextDraw_moved _)))

theorem toEdge_unpoisoned (h : Unpoisoned s) {p : Fin 4} {k : Nat} : Unpoisoned (toEdge s p k) := by
  unfold toEdge tick
  dsimp only
  split_ifs <;> exact h

theorem snapEdge_unpoisoned (h : Unpoisoned s) {p : Fin 4} {k : Nat} : Unpoisoned (snapEdge s p k) := h

theorem takeSnap_unpoisoned (h : Unpoisoned s) {p : Fin 4} {k : Nat} : Unpoisoned (takeSnap s p k) := by
  unfold takeSnap
  dsimp only
  split
  · exact snapEdge_unpoisoned (toEdge_unpoisoned h)
  · exact snapEdge_unpoisoned ((Moved.foldl (fun _ _ => countTimed_moved ..) _ _).unpoisoned (toEdge_unpoisoned h))

theorem readDesc_unpoisoned (h : Unpoisoned s) {p : Fin 4} {e : Entry} : Unpoisoned (readDesc s p e) := by
  unfold readDesc
  split
  · exact (touch_moved (writes := false) (tiles := false) ..).unpoisoned h
  · exact h

theorem startCmd_unpoisoned (h : Unpoisoned s) {p : Fin 4} {q : Fin 16} {e : Entry} : Unpoisoned (startCmd s p q e) := by
  have hsnap : Unpoisoned (takeSnap (readDesc s p e) p 2) := takeSnap_unpoisoned (readDesc_unpoisoned h)
  unfold startCmd
  refine modPolder_unpoisoned (modPolder_unpoisoned (modPolder_unpoisoned ?_))
  simp only [if_true]
  split
  · exact hsnap
  · exact traceRecord_unpoisoned hsnap

/-! ## The checks of a copy -/

variable {d : SlDesc}

/-- What a copy that starts has passed (R245): its reserved fields, its combination, its alignment. -/
theorem slChecks_passed (h : slChecks s p e = none) :
    slReserved (slDesc s e) = true ∧ slCombination (slDesc s e) = true ∧ slAligned (slDesc s e) = true := by
  have hown := (List.forall_mem_append.mp (firstFail_eq_none.mp h)).2
  simp only [List.forall_mem_cons] at hown
  obtain ⟨hreserved, hcombination, -, haligned, -⟩ := hown
  exact ⟨hreserved, hcombination, haligned⟩

/-- Destination lines are apart (R245). -/
theorem slAligned_stride (h : slAligned d = true) : d.dlines ≤ 1 ∨ d.dbytes ≤ d.dstride := by
  simp only [slAligned, Bool.and_eq_true, Bool.or_eq_true, decide_eq_true_eq] at h
  exact h.1.1.1.2

theorem slReserved_elem (h : slReserved d = true) (hop : d.op ≠ 6) : d.elem ≤ 4 := by
  have hbucket : d.isBucket = false := by simp [SlDesc.isBucket, hop]
  simp only [slReserved, hbucket, Bool.and_eq_true, Bool.false_or, decide_eq_true_eq] at h
  omega

/-- A MOVE has at most one endpoint outside its polder's memory, and none when it transposes (R242). -/
theorem slCombination_move (h : slCombination d = true) (hop : d.op = 3) (hhost : d.hostSrc = true ∨ d.hostDst = true) :
    d.peer = false ∧ d.transpose = false ∧ (d.hostSrc = true → d.hostDst = false) := by
  simp only [slCombination, SlDesc.isMove, hop] at h
  revert h hhost
  cases d.hostSrc <;> cases d.hostDst <;> cases d.peer <;> cases d.transpose <;> simp

end Sys2Proof.Machine
end

section
/-! SUPPORT. The lines of a copy (R34, R242, R243), and a copy's end where its destination is whole and unchecked. -/

namespace Sys2Proof.Machine

variable {s u : State} {p : Fin 4} {q : Fin 16} {e : Entry} {d : SlDesc}

/-! ## Lengths of lines -/

@[simp] theorem memBytes_length (s : State) (a n : Nat) : (memBytes s a n).length = n := by simp [memBytes]

@[simp] theorem cleanLine_length (bits length : Nat) (bs : List Byte) : (cleanLine bits length bs).length = bs.length := by
  unfold cleanLine
  split <;> simp

theorem packNibbles_length : ∀ codes : List Nat, (packNibbles codes).length = (codes.length + 1) / 2
  | [] => rfl
  | [_] => by simp [packNibbles]
  | _ :: _ :: rest => by
    simp only [packNibbles, List.length_cons, packNibbles_length rest]
    omega

/-- Whole bytes hold a line of elements (R34). -/
theorem packLine_length {w : Nat} (hw : w = 4 ∨ 8 ∣ w) (codes : List Nat) :
    (packLine w codes).length = (codes.length * w + 7) / 8 := by
  unfold packLine
  split
  next h4 => subst h4; rw [packNibbles_length]; omega
  next h4 =>
    obtain ⟨k, rfl⟩ := hw.resolve_left h4
    have hlen : (codes.flatMap (leBytes (8 * k / 8))).length = codes.length * k := by
      simp [List.length_flatMap]
    rw [hlen, show codes.length * (8 * k) = 8 * (codes.length * k) by ring]
    omega

theorem width_of_elem {k : Nat} (hk : k ≤ 4) : 2 ^ (k + 2) = 4 ∨ 8 ∣ 2 ^ (k + 2) := by interval_cases k <;> decide

theorem cutLines_eq (k n : Nat) (bs : List Byte) :
    cutLines k n bs = (List.range k).map fun i => (bs.drop (i * n)).take n := by
  induction k generalizing bs with
  | zero => rfl
  | succ k ih =>
    rw [cutLines, ih, List.range_succ_eq_map, List.map_cons, List.map_map]
    congr 1
    · simp
    · refine List.map_congr_left fun i _ => ?_
      simp only [Function.comp_apply, List.drop_drop, Nat.succ_mul, Nat.add_comm]

/-- A line cut from a padded stream is whole. -/
theorem cut_padTo_length {k lines n : Nat} (hk : k < lines) (bs : List Byte) :
    (((padTo (lines * n) bs).drop (k * n)).take n).length = n := by
  have hle : (k + 1) * n ≤ lines * n := Nat.mul_le_mul_right n hk
  rw [Nat.succ_mul] at hle
  simp only [padTo, List.length_take, List.length_drop, List.length_append, zeros_length]
  omega

/-- The entries of an index list are the words that the memory holds (R242). -/
theorem fld_memBytes (s : State) (a k m n : Nat) (h : k + m ≤ n) : fld (memBytes s a n) k m = memNat s (a + k) m := by
  unfold fld memNat
  congr 1
  apply List.ext_getElem
  · simp; omega
  · intro i h₁ h₂
    simp [memBytes, Nat.add_assoc]

/-! ## Numbered lines -/

/-- Lines by number: those of `ls` are the numbers below n for which f has a line, each once. -/
structure LinesOf (n : Nat) (f : Nat → Option (List Byte)) (ls : List (Nat × List Byte)) : Prop where
  mem_iff : ∀ k l, (k, l) ∈ ls ↔ k < n ∧ f k = some l
  once : ls.Pairwise fun x y => x.1 ≠ y.1

theorem numbered_map_range (n : Nat) (g : Nat → List Byte) :
    numbered ((List.range n).map g) = (List.range n).map fun k => (k, g k) := by
  apply List.ext_getElem
  · simp [numbered]
  · intro i h₁ h₂
    simp [numbered]

theorem linesOf_numbered (n : Nat) (g : Nat → List Byte) :
    LinesOf n (fun k => some (g k)) (numbered ((List.range n).map g)) := by
  rw [numbered_map_range]
  refine ⟨fun k l => by simp, ?_⟩
  exact List.pairwise_map.mpr (List.nodup_range.imp fun h => h)

/-- Lines under numbers that an injective index list names. -/
theorem linesOf_indexed {m n : Nat} {idx : Nat → Nat} (g : Nat → List Byte) (hlt : ∀ k, k < m → idx k < n)
    (hinj : ∀ k l, k < m → l < m → idx k = idx l → k = l) :
    LinesOf n (fun i => ((List.range m).find? fun k => idx k == i).map g) ((List.range m).map fun k => (idx k, g k)) := by
  have hfind {k : Nat} (hk : k < m) : (List.range m).find? (fun l => idx l == idx k) = some k := by
    cases h : (List.range m).find? fun l => idx l == idx k with
    | none => exact absurd (List.find?_eq_none.mp h k (List.mem_range.mpr hk)) (by simp)
    | some l =>
      have hl := List.mem_range.mp (List.mem_of_find?_eq_some h)
      have hkey : idx l = idx k := by simpa using List.find?_some h
      rw [hinj l k hl hk hkey]
  refine ⟨fun i l => ?_, ?_⟩
  · simp only [List.mem_map, List.mem_range, Prod.mk.injEq, Option.map_eq_some_iff]
    constructor
    · rintro ⟨k, hk, rfl, rfl⟩
      exact ⟨hlt k hk, k, hfind hk, rfl⟩
    · rintro ⟨-, k, hk, rfl⟩
      exact ⟨k, List.mem_range.mp (List.mem_of_find?_eq_some hk), by simpa using List.find?_some hk, rfl⟩
  · refine List.pairwise_map.mpr (List.nodup_range.imp_of_mem fun hk hl hne heq => hne ?_)
    exact hinj _ _ (List.mem_range.mp hk) (List.mem_range.mp hl) heq

/-! ## Lines in their places -/

/-- A numbered line in its place in the destination. -/
def placed (d : SlDesc) (x : Nat × List Byte) : Nat × List Byte := (d.dst + x.1 * d.dstride, x.2)

section Lines
variable {n : Nat} {f : Nat → Option (List Byte)} {ls : List (Nat × List Byte)} (hls : LinesOf n f ls)
  (hlen : ∀ k l, k < n → f k = some l → l.length = d.dbytes)
include hls hlen

theorem placed_apart (hstride : n ≤ 1 ∨ d.dbytes ≤ d.dstride) : Apart (ls.map (placed d)) := by
  refine List.pairwise_map.mpr (hls.once.imp_of_mem fun {x y} hx hy hne => ?_)
  obtain ⟨hxn, hfx⟩ := (hls.mem_iff x.1 x.2).mp hx
  obtain ⟨hyn, hfy⟩ := (hls.mem_iff y.1 y.2).mp hy
  have hxl := hlen _ _ hxn hfx
  have hyl := hlen _ _ hyn hfy
  have hwide : d.dbytes ≤ d.dstride := by omega
  simp only [placed, hxl, hyl]
  rcases Nat.lt_or_gt_of_ne hne with h | h
  · have := Nat.mul_le_mul_right d.dstride (Nat.succ_le_of_lt h)
    rw [Nat.succ_mul] at this
    omega
  · have := Nat.mul_le_mul_right d.dstride (Nat.succ_le_of_lt h)
    rw [Nat.succ_mul] at this
    omega

/-- Where the placed lines read back, the line of every number does. -/
theorem placed_lines {read : Nat → Nat → List Byte}
    (h : ∀ x ∈ ls.map (placed d), read x.1 x.2.length = x.2) (k : Nat) (l : List Byte) (hk : k < n) (hl : f k = some l) :
    read (d.dst + k * d.dstride) d.dbytes = l := by
  have hx := h _ (List.mem_map_of_mem ((hls.mem_iff k l).mpr ⟨hk, hl⟩))
  rwa [placed, hlen k l hk hl] at hx

theorem beside_placed {a : Nat}
    (h : ∀ k, k < n → (f k).isSome = true → a < d.dst + k * d.dstride ∨ d.dst + k * d.dstride + d.dbytes ≤ a) :
    ∀ x ∈ ls.map (placed d), a < x.1 ∨ x.1 + x.2.length ≤ a := by
  intro x hx
  obtain ⟨⟨k, l⟩, hy, rfl⟩ := List.mem_map.mp hx
  obtain ⟨hk, hl⟩ := (hls.mem_iff k l).mp hy
  simpa only [placed, hlen k l hk hl] using h k hk (by rw [hl]; rfl)

end Lines

/-! ## The end of a copy -/

theorem endCopy_of_unchecked (hcheck : d.checked = false) (src : List (List Byte)) :
    endCopy s p q e d src true = endCmd s p q e.seq .ok := by
  simp [endCopy, copyCheck, hcheck]

/-- Do source and destination of a copy inside the polder's memory share a byte (R243)? -/
def overlaps (d : SlDesc) : Bool :=
  areasMeet d.src (if d.isGather then d.lines else d.slines) d.sbytes d.sstride d.dst
    (if d.isScatter then d.lines else d.dlines) d.dbytes d.dstride

theorem putLines_device (h : s.poison = []) (hcheck : d.checked = false) (hhost : d.hostDst = false)
    (hoverlap : d.isFill = true ∨ d.hostSrc = true ∨ overlaps d = false) (ls : List (Nat × List Byte))
    (src : List (List Byte)) :
    putLines s p q e d ls src = endCmd (putAll s p e.ctrSet (ls.map (placed d))) p q e.seq .ok := by
  have hapart : (!d.isFill && !d.hostSrc && !d.hostDst && !d.peer && overlaps d) = false := by
    rcases hoverlap with h | h | h <;> simp [h]
  rw [overlaps, hhost] at hapart
  simp only [putLines, hhost, hapart, Bool.false_eq_true, if_false, Bool.false_and, writeLines_of_no_poison h]
  exact endCopy_of_unchecked hcheck src

theorem putLines_host (hcheck : d.checked = false) (hhost : d.hostDst = true) (ls : List (Nat × List Byte))
    (src : List (List Byte)) :
    putLines s p q e d ls src =
      endCmd ((ls.map (placed d)).foldl (fun s x => hostWrite s x.1 x.2) s) p q e.seq .ok := by
  simp only [putLines, hhost, if_true, List.foldl_map]
  exact endCopy_of_unchecked hcheck src

theorem foldl_hostWrite (ls : List (Nat × List Byte)) (s : State) :
    ls.foldl (fun s x => hostWrite s x.1 x.2) s =
      { s with hostMem := ls.foldl (fun m x => tabSplice 0 m x.1 x.2) s.hostMem } := by
  induction ls generalizing s with
  | nil => rfl
  | cons x ls ih => rw [List.foldl_cons, ih]; rfl

/-- What `exec` makes of a copy that writes its lines: no other byte, and nothing that a copy may not move. -/
def CopyEnds (u : State) (p : Fin 4) (q : Fin 16) (e : Entry) (d : SlDesc) (n : Nat) (f : Nat → Option (List Byte))
    (t : State) : Prop :=
  ∃ v, t = endCmd v p q e.seq .ok ∧ MemFrame u v ∧
    (∀ k l, k < n → f k = some l → memBytes v (d.dst + k * d.dstride) d.dbytes = l) ∧
    ∀ a, (∀ k, k < n → (f k).isSome = true → a < d.dst + k * d.dstride ∨ d.dst + k * d.dstride + d.dbytes ≤ a) →
      memByte v a = memByte u a

theorem putLines_copyEnds {n : Nat} {f : Nat → Option (List Byte)} {ls : List (Nat × List Byte)} (hu : u.poison = [])
    (hmoved : Moved false false u s) (hcheck : d.checked = false) (hhost : d.hostDst = false)
    (hoverlap : d.isFill = true ∨ d.hostSrc = true ∨ overlaps d = false) (hls : LinesOf n f ls)
    (hlen : ∀ k l, k < n → f k = some l → l.length = d.dbytes) (hstride : n ≤ 1 ∨ d.dbytes ≤ d.dstride)
    (src : List (List Byte)) : CopyEnds u p q e d n f (putLines s p q e d ls src) := by
  have hs : s.poison = [] := hmoved.poison.trans hu
  have hholds := (putAll_holds hs p e.ctrSet (placed_apart hls hlen hstride)).moved hmoved (.refl (tiles := false) _)
  exact ⟨_, putLines_device hs hcheck hhost hoverlap ls src, (hmoved.any.trans (putAll_moved hs ..)).memFrame,
    placed_lines hls hlen hholds.1, fun a ha => hholds.2 a (beside_placed hls hlen ha)⟩

end Sys2Proof.Machine
end

section
/-! SUPPORT. FILL, MOVE, GATHER and SCATTER (R242-R245), each on a descriptor that has passed its checks, and the statement. -/

namespace Sys2Proof.Machine

variable {s t u : State} {p : Fin 4} {q : Fin 16} {e : Entry} {d : SlDesc} {h : HostRead}

/-! ## Geometry (R242, R243) -/

namespace SlDesc

theorem sbits_of (hop : d.op ≠ 6) : d.sbits = 2 ^ (d.elem + 2) := by simp [sbits, isBucket, hop]

theorem dbits_of (hop : d.op ≠ 6) : d.dbits = 2 ^ (d.elem + 2) := by simp [dbits, isBucket, hop]

theorem dlength_of (hop : d.op ≠ 3 ∨ d.transpose = false) : d.dlength = d.length := by
  rcases hop with h | h <;> simp [dlength, isMove, h]

theorem dbytes_of (hop : d.op ≠ 6) (hlength : d.dlength = d.length) : d.dbytes = d.sbytes := by
  rw [dbytes, sbytes, hlength, sbits_of hop, dbits_of hop]

theorem dlines_of (hop : d.op ≠ 8) (hmove : d.op ≠ 3 ∨ d.transpose = false) : d.dlines = d.lines := by
  rcases hmove with h | h <;> simp [dlines, isGather, isMove, hop, h]

end SlDesc

/-- Source line i as it is read. -/
def srcLine (u : State) (d : SlDesc) (i : Nat) : List Byte := memBytes u (d.src + i * d.sstride) d.sbytes

/-- Source line i as it is moved: its pad nibble reads as zero (R34). -/
def movedLine (u : State) (d : SlDesc) (i : Nat) : List Byte := cleanLine d.sbits d.length (srcLine u d i)

theorem movedLine_length (u : State) (d : SlDesc) (i : Nat) : (movedLine u d i).length = d.sbytes := by
  rw [movedLine, cleanLine_length, srcLine, memBytes_length]

/-! ## FILL -/

/-- The line that FILL writes. -/
def fillLine (d : SlDesc) : List Byte := packLine d.dbits (List.replicate d.length (d.fill % 2 ^ d.dbits))

theorem fillAct_copyEnds (hu : u.poison = []) (hop : d.op = 4) (hreserved : slReserved d = true) (haligned : slAligned d = true)
    (hhost : d.hostDst = false) (hcheck : d.checked = false) (hempty : slEmpty d = false) :
    CopyEnds u p q e d d.lines (fun _ => some (fillLine d)) (fillAct u p q e d) := by
  have hlines : numbered (List.replicate d.lines (fillLine d)) = numbered ((List.range d.lines).map fun _ => fillLine d) := by
    rw [List.map_const', List.length_range]
  have hact : fillAct u p q e d = putLines (setAreas u p q e.seq (dstArea d)) p q e d
      (numbered ((List.range d.lines).map fun _ => fillLine d)) [] := by
    rw [← hlines, fillAct, hempty]; rfl
  have hlen : (fillLine d).length = d.dbytes := by
    have helem := width_of_elem (slReserved_elem hreserved (by omega))
    rw [← SlDesc.dbits_of (by omega)] at helem
    rw [fillLine, packLine_length helem, List.length_replicate, SlDesc.dbytes, SlDesc.dlength_of (.inl (by omega))]
  have hstride := slAligned_stride haligned
  rw [SlDesc.dlines_of (by omega) (.inl (by omega))] at hstride
  rw [hact]
  exact putLines_copyEnds hu (setAreas_moved ..) hcheck hhost (.inl (by simp [SlDesc.isFill, hop])) (linesOf_numbered ..)
    (fun _ _ _ hl => by rw [← Option.some.inj hl, hlen]) hstride _

/-! ## MOVE -/

/-- The source lines of a MOVE as they are read. -/
def moveRead (u : State) (d : SlDesc) (h : HostRead) : List (List Byte) :=
  if d.hostSrc then hostLines d h else (List.range d.lines).map (srcLine u d)

/-- The destination lines of a MOVE, in order. -/
def moveLines (d : SlDesc) (raw : List (List Byte)) : List (List Byte) :=
  if d.transpose then transposeLines d.sbits d.length (raw.map (cleanLine d.sbits d.length))
  else raw.map (cleanLine d.sbits d.length)

theorem moveAct_of_empty (hempty : slEmpty d = true) : moveAct u p q e d h = endCmd u p q e.seq .ok := by
  rw [moveAct, if_pos hempty]

theorem moveAct_of_refused (hempty : slEmpty d = false) (hpeer : d.peer = false) (hhost : d.hostSrc = true ∨ d.hostDst = true)
    (hgrant : h.granted = false) :
    moveAct u p q e d h = failCmd (setAreas u p q e.seq (dstArea d)) p q e.seq .accessDenied := by
  have hrefused : ((d.hostSrc || d.hostDst) && !h.granted) = true := by rcases hhost with h | h <;> simp [h, hgrant]
  simp only [moveAct, hempty, hpeer, hrefused, Bool.false_eq_true, if_false, if_true]

theorem moveAct_eq (hu : u.poison = []) (hempty : slEmpty d = false) (hsealed : d.sealed_ = false) (hpeer : d.peer = false)
    (hgrant : d.hostSrc = true ∨ d.hostDst = true → h.granted = true) :
    ∃ t, Moved false false u t ∧ moveAct u p q e d h =
      putLines t p q e d (numbered (moveLines d (moveRead u d h))) (moveRead u d h) := by
  have hareas : Moved false false u (setAreas u p q e.seq (dstArea d)) := setAreas_moved ..
  have hgranted : ((d.hostSrc || d.hostDst) && !h.granted) = false := by
    cases hh : (d.hostSrc || d.hostDst) with
    | false => rfl
    | true => simp [hgrant (by simpa using hh)]
  cases hsrc : d.hostSrc <;> rw [hsrc] at hgranted
  case true =>
    refine ⟨_, hareas, ?_⟩
    simp only [moveAct, hempty, hpeer, hgranted, hsealed, hsrc, Bool.false_eq_true, if_false, if_true, moveRead, moveLines]
  case false =>
    refine ⟨_, hareas.trans (readLines_moved _ p e.ctrSet d.src d.sstride d.sbytes (List.range d.lines)), ?_⟩
    simp only [moveAct, hempty, hpeer, hgranted, hsealed, hsrc, Bool.false_eq_true, if_false, moveRead, moveLines,
      readLines_of_no_poison (hareas.poison.trans hu), hareas.memBytes]
    rfl

/-- Destination line k of a MOVE inside the polder's memory. -/
def moveLine (u : State) (d : SlDesc) (k : Nat) : List Byte :=
  if d.transpose then packLine d.sbits ((List.range d.lines).map fun i => lineElem d.sbits (movedLine u d i) k)
  else movedLine u d k

theorem moveLines_device (hop : d.op = 3) (hsrc : d.hostSrc = false) :
    moveLines d (moveRead u d h) = (List.range d.dlines).map (moveLine u d) := by
  unfold moveLines moveLine
  cases htr : d.transpose with
  | true =>
    have hdlines : d.dlines = d.length := by simp [SlDesc.dlines, SlDesc.isGather, SlDesc.isMove, hop, htr]
    simp only [moveRead, hsrc, transposeLines, hdlines, List.map_map, if_true, Bool.false_eq_true, if_false]
    rfl
  | false =>
    rw [SlDesc.dlines_of (by omega) (.inr htr)]
    simp only [moveRead, hsrc, List.map_map, Bool.false_eq_true, if_false]
    rfl

theorem moveLine_length (hop : d.op = 3) (hreserved : slReserved d = true) (k : Nat) : (moveLine u d k).length = d.dbytes := by
  unfold moveLine
  split
  next htr =>
    have helem := width_of_elem (slReserved_elem hreserved (by omega))
    rw [← SlDesc.sbits_of (by omega)] at helem
    rw [packLine_length helem, List.length_map, List.length_range, SlDesc.dbytes, SlDesc.dbits_of (by omega),
      SlDesc.sbits_of (by omega)]
    simp [SlDesc.dlength, SlDesc.isMove, hop, htr]
  next htr =>
    rw [movedLine_length, SlDesc.dbytes_of (by omega) (SlDesc.dlength_of (.inr (by simpa using htr)))]

theorem moveAct_device (hu : u.poison = []) (hop : d.op = 3) (hreserved : slReserved d = true) (haligned : slAligned d = true)
    (hcheck : d.checked = false) (hsealed : d.sealed_ = false) (hpeer : d.peer = false) (hempty : slEmpty d = false)
    (hsrc : d.hostSrc = false) (hdst : d.hostDst = false)
    (happart : areasMeet d.src d.lines d.sbytes d.sstride d.dst d.dlines d.dbytes d.dstride = false) :
    CopyEnds u p q e d d.dlines (fun k => some (moveLine u d k)) (moveAct u p q e d h) := by
  obtain ⟨t, hmoved, hact⟩ := moveAct_eq (p := p) (q := q) (e := e) (h := h) hu hempty hsealed hpeer (by simp [hsrc, hdst])
  have hoverlap : overlaps d = false := by
    simpa [overlaps, SlDesc.isGather, SlDesc.isScatter, SlDesc.slines, hop] using happart
  rw [hact, moveLines_device hop hsrc]
  exact putLines_copyEnds hu hmoved hcheck hdst (.inr (.inr hoverlap)) (linesOf_numbered ..)
    (fun k _ _ hl => by rw [← Option.some.inj hl, moveLine_length hop hreserved]) (slAligned_stride haligned) _

/-- Line k of what a host read brings, padded with zeros. -/
def hostLine (d : SlDesc) (h : HostRead) (k : Nat) : List Byte :=
  cleanLine d.sbits d.length (((padTo (d.lines * d.sbytes) h.data).drop (k * d.sbytes)).take d.sbytes)

theorem moveAct_fromHost (hu : u.poison = []) (hop : d.op = 3) (hcombination : slCombination d = true)
    (haligned : slAligned d = true) (hcheck : d.checked = false) (hsealed : d.sealed_ = false) (hempty : slEmpty d = false)
    (hsrc : d.hostSrc = true) (hgrant : h.granted = true) :
    CopyEnds u p q e d d.lines (fun k => some (hostLine d h k)) (moveAct u p q e d h) := by
  obtain ⟨hpeer, htr, hdst⟩ := slCombination_move hcombination hop (.inl hsrc)
  obtain ⟨t, hmoved, hact⟩ := moveAct_eq (p := p) (q := q) (e := e) hu hempty hsealed hpeer fun _ => hgrant
  have hdlines : d.dlines = d.lines := SlDesc.dlines_of (by omega) (.inr htr)
  have hlines : moveLines d (moveRead u d h) = (List.range d.lines).map (hostLine d h) := by
    simp only [moveLines, moveRead, hsrc, htr, hostLines, cutLines_eq, List.map_map, Bool.false_eq_true, if_false,
      if_true]
    rfl
  have hlen (k : Nat) (hk : k < d.lines) : (hostLine d h k).length = d.dbytes := by
    rw [hostLine, cleanLine_length, cut_padTo_length hk, SlDesc.dbytes_of (by omega) (SlDesc.dlength_of (.inr htr))]
  rw [hact, hlines]
  exact putLines_copyEnds hu hmoved hcheck (hdst hsrc) (.inr (.inl hsrc)) (linesOf_numbered ..)
    (fun k _ hk hl => by rw [← Option.some.inj hl, hlen k hk]) (hdlines ▸ slAligned_stride haligned) _

theorem Moved.hostMem {writes tiles : Bool} (h : Moved writes tiles s t) (m : List Host.Cell) :
    Moved writes tiles { s with hostMem := m } { t with hostMem := m } := by
  obtain ⟨_, _, _, _, _, _, _, _, rfl, hrest⟩ := h
  exact ⟨_, _, _, _, _, _, _, _, rfl, hrest⟩

theorem moveAct_toHost (hu : u.poison = []) (hop : d.op = 3) (hcombination : slCombination d = true)
    (haligned : slAligned d = true) (hcheck : d.checked = false) (hsealed : d.sealed_ = false) (hempty : slEmpty d = false)
    (hdst : d.hostDst = true) (hgrant : h.granted = true) :
    ∃ v, moveAct u p q e d h = endCmd v p q e.seq .ok ∧ MemFrame { u with hostMem := v.hostMem } v ∧ SameMem u v ∧
      (∀ k, k < d.lines → tabBytes v.hostMem (d.dst + k * d.dstride) d.dbytes = movedLine u d k) ∧
      ∀ a, (∀ k, k < d.lines → a < d.dst + k * d.dstride ∨ d.dst + k * d.dstride + d.dbytes ≤ a) →
        tabGet 0 v.hostMem a = tabGet 0 u.hostMem a := by
  obtain ⟨hpeer, htr, hsrc'⟩ := slCombination_move hcombination hop (.inr hdst)
  have hsrc : d.hostSrc = false := by
    cases h : d.hostSrc with
    | false => rfl
    | true => exact absurd (hsrc' h) (by simp [hdst])
  obtain ⟨t, hmoved, hact⟩ := moveAct_eq (p := p) (q := q) (e := e) hu hempty hsealed hpeer fun _ => hgrant
  have hdlines : d.dlines = d.lines := SlDesc.dlines_of (by omega) (.inr htr)
  have hlines : moveLines d (moveRead u d h) = (List.range d.lines).map (movedLine u d) := by
    rw [moveLines_device hop hsrc, hdlines]
    exact List.map_congr_left fun k _ => by rw [moveLine, htr, if_neg nofun]
  have hls := linesOf_numbered d.lines (movedLine u d)
  have hlen (k : Nat) (l : List Byte) (_ : k < d.lines) (hl : some (movedLine u d k) = some l) : l.length = d.dbytes := by
    rw [← Option.some.inj hl, movedLine_length, SlDesc.dbytes_of (by omega) (SlDesc.dlength_of (.inr htr))]
  have hstride := slAligned_stride haligned
  rw [hdlines] at hstride
  have hbytes := foldl_lines (get := fun m a => tabGet (0 : Byte) m a) (P := fun _ => True)
    (f := fun m x => tabSplice 0 m x.1 x.2) (fun _ _ _ => trivial) (fun _ _ _ _ => tabGet_tabSplice ..)
    (placed_apart hls hlen hstride) (s := t.hostMem) trivial
  have hhost : t.hostMem = u.hostMem := by
    obtain ⟨_, _, _, _, _, _, _, _, rfl, -⟩ := hmoved
    rfl
  rw [hact, hlines, putLines_host hcheck hdst, foldl_hostWrite]
  exact ⟨_, rfl, (hmoved.hostMem _).memFrame, hmoved.sameMem,
    fun k hk => placed_lines (read := fun a n => tabBytes _ a n) hls hlen hbytes.1 k _ hk rfl,
    fun a ha => (hbytes.2 a (beside_placed hls hlen fun k hk _ => ha k hk)).trans (by rw [hhost])⟩

/-! ## GATHER and SCATTER -/

/-- Entry k of the index list (R242). -/
def indexAt (u : State) (d : SlDesc) (k : Nat) : Nat := memNat u (d.index + 4 * k) 4

theorem readIndices_of_no_poison (hs : s.poison = []) (set : BitVec 16) :
    (readIndices s p set d).2 = some ((List.range d.icount).map (indexAt s d)) := by
  simp only [readIndices, unitRead_of_no_poison hs, Option.map_some, Option.some.injEq]
  refine List.map_congr_left fun k hk => ?_
  have := List.mem_range.mp hk
  exact fld_memBytes _ _ _ _ _ (by omega)

theorem readIndices_moved (s : State) (p : Fin 4) (set : BitVec 16) (d : SlDesc) :
    Moved false false s (readIndices s p set d).1 := unitRead_moved ..

/-- The areas set and the indices read, before any line is. -/
theorem indexed_start (hu : u.poison = []) :
    Moved false false u (readIndices (setAreas u p q e.seq (dstArea d)) p e.ctrSet d).1 ∧
    (readIndices (setAreas u p q e.seq (dstArea d)) p e.ctrSet d).2 = some ((List.range d.icount).map (indexAt u d)) := by
  have hareas : Moved false false u (setAreas u p q e.seq (dstArea d)) := setAreas_moved ..
  refine ⟨hareas.trans (readIndices_moved ..), ?_⟩
  rw [readIndices_of_no_poison (hareas.poison.trans hu)]
  exact congrArg some (List.map_congr_left fun k _ => hareas.memNat ..)

theorem indexedAct_of_bad (hu : u.poison = []) (hempty : slEmpty d = false)
    (hbad : ∃ k, k < d.icount ∧ d.lines ≤ indexAt u d k) :
    ∃ v, indexedAct u p q e d = failCmd v p q e.seq .descInvalid ∧ MemFrame u v ∧ SameMem u v := by
  obtain ⟨hmoved, hidx⟩ := indexed_start (p := p) (q := q) (e := e) (d := d) hu
  have hany : (((List.range d.icount).map (indexAt u d)).any fun i => decide (d.lines ≤ i)) = true := by
    simpa using hbad
  refine ⟨_, ?_, hmoved.memFrame, hmoved.sameMem⟩
  simp only [indexedAct, hempty, Bool.false_eq_true, if_false, hidx, hany, if_true]

theorem indexedAct_eq (hu : u.poison = []) (hempty : slEmpty d = false)
    (hgood : ∀ k, k < d.icount → indexAt u d k < d.lines) :
    ∃ t raw, Moved false false u t ∧ indexedAct u p q e d = putLines t p q e d
      (if d.isGather then numbered ((List.range d.icount).map fun k => movedLine u d (indexAt u d k))
       else (List.range d.icount).map fun k => (indexAt u d k, movedLine u d k)) raw := by
  obtain ⟨hmoved, hidx⟩ := indexed_start (p := p) (q := q) (e := e) (d := d) hu
  have hany : (((List.range d.icount).map (indexAt u d)).any fun i => decide (d.lines ≤ i)) = false := by
    simpa using hgood
  refine ⟨_, (if d.isGather then (List.range d.icount).map (indexAt u d) else List.range d.icount).map (srcLine u d),
    hmoved.trans (readLines_moved _ p e.ctrSet d.src d.sstride d.sbytes
      (if d.isGather then (List.range d.icount).map (indexAt u d) else List.range d.icount)), ?_⟩
  simp only [indexedAct, hempty, Bool.false_eq_true, if_false, hidx, hany, readLines_of_no_poison (hmoved.poison.trans hu),
    hmoved.memBytes]
  cases d.isGather with
  | true => simp only [if_true, List.map_map]; rfl
  | false => simp only [Bool.false_eq_true, if_false, List.map_map, List.zip_map', Function.comp_def]; rfl

theorem gather_copyEnds (hu : u.poison = []) (hop : d.op = 8) (haligned : slAligned d = true) (hcheck : d.checked = false)
    (hdst : d.hostDst = false) (hempty : slEmpty d = false) (hgood : ∀ k, k < d.icount → indexAt u d k < d.lines)
    (happart : areasMeet d.src d.lines d.sbytes d.sstride d.dst d.dlines d.dbytes d.dstride = false) :
    CopyEnds u p q e d d.icount (fun k => some (movedLine u d (indexAt u d k))) (indexedAct u p q e d) := by
  obtain ⟨t, raw, hmoved, hact⟩ := indexedAct_eq (p := p) (q := q) (e := e) hu hempty hgood
  have hgather : d.isGather = true := by simp [SlDesc.isGather, hop]
  have hdlines : d.dlines = d.icount := by simp [SlDesc.dlines, hgather]
  have hoverlap : overlaps d = false := by simpa [overlaps, hgather, SlDesc.isScatter, hop] using happart
  rw [hact, if_pos hgather]
  exact putLines_copyEnds hu hmoved hcheck hdst (.inr (.inr hoverlap)) (linesOf_numbered ..)
    (fun k _ _ hl => by
      rw [← Option.some.inj hl, movedLine_length, SlDesc.dbytes_of (by omega) (SlDesc.dlength_of (.inl (by omega)))])
    (hdlines ▸ slAligned_stride haligned) _

theorem scatter_copyEnds (hu : u.poison = []) (hop : d.op = 9) (haligned : slAligned d = true) (hcheck : d.checked = false)
    (hdst : d.hostDst = false) (hempty : slEmpty d = false) (hgood : ∀ k, k < d.icount → indexAt u d k < d.lines)
    (hinj : ∀ k l, k < d.icount → l < d.icount → indexAt u d k = indexAt u d l → k = l)
    (happart : areasMeet d.src d.icount d.sbytes d.sstride d.dst d.lines d.dbytes d.dstride = false) :
    CopyEnds u p q e d d.lines (fun i => ((List.range d.icount).find? fun k => indexAt u d k == i).map (movedLine u d))
      (indexedAct u p q e d) := by
  obtain ⟨t, raw, hmoved, hact⟩ := indexedAct_eq (p := p) (q := q) (e := e) hu hempty hgood
  have hgather : d.isGather = false := by simp [SlDesc.isGather, hop]
  have hdlines : d.dlines = d.lines := SlDesc.dlines_of (by omega) (.inl (by omega))
  have hoverlap : overlaps d = false := by simpa [overlaps, hgather, SlDesc.isScatter, SlDesc.slines, hop] using happart
  rw [hact, if_neg (by simp [hgather])]
  refine putLines_copyEnds hu hmoved hcheck hdst (.inr (.inr hoverlap)) (linesOf_indexed _ hgood hinj) (fun k l _ hl => ?_)
    (hdlines ▸ slAligned_stride haligned) _
  obtain ⟨i, -, rfl⟩ := Option.map_eq_some_iff.mp hl
  rw [movedLine_length, SlDesc.dbytes_of (by omega) (SlDesc.dlength_of (.inl (by omega)))]

/-! ## The statement -/

theorem slDesc_op (h : startOk s p q e op = true) : (slDesc s e).op = op.toNat := congrArg BitVec.toNat (startOk_opcode h)

/-- Only a MOVE has an end in host memory (R242). -/
theorem slCombination_other (hc : slCombination d = true) (hop : d.op ≠ 3) : d.hostDst = false := by
  have hmove : d.isMove = false := by simp [SlDesc.isMove, hop]
  simp only [slCombination, hmove] at hc
  cases hd : d.hostDst with
  | false => rfl
  | true => simp [hd] at hc

/-- Settles O38: each copy through the lines that it puts, apart from one another by R245. -/
theorem copiesWriteTheirLinesAndNothingElse : Obligations.CopiesWriteTheirLinesAndNothingElse := by
  unfold Obligations.CopiesWriteTheirLinesAndNothingElse
  intro s p q e h u d src idx at_ writes hclean hchecks hcheck hsealed
  obtain ⟨hreserved, hcombination, haligned⟩ := slChecks_passed hchecks
  have hu : u.poison = [] := startCmd_unpoisoned hclean
  have hmove (hstart : startOk s p q e 0x03 = true) : exec (.move p q e h) s = .next (moveAct u p q e d h) :=
    congrArg Host.Outcome.next (runEntry_of_passed hstart hchecks)
  have hgather (hstart : startOk s p q e 0x08 = true) : exec (.gather p q e) s = .next (indexedAct u p q e d) :=
    congrArg Host.Outcome.next (runEntry_of_passed hstart hchecks)
  have hwrites {i : Instr} {n : Nat} {f : Nat → Option (List Byte)} {t : State} (hexec : exec i s = .next t)
      (hends : CopyEnds u p q e d n f t) : writes i n f := by
    obtain ⟨v, rfl, hframe, hlines, hother⟩ := hends
    exact ⟨v, hexec, hframe, hlines, hother⟩
  refine ⟨fun hstart hempty => ?_, fun hstart _ hempty => ?_, fun hstart hpeer hempty hsrc hdst happart => ?_,
    fun hstart hempty hsrc hgrant => ?_, fun hstart hempty hdst hgrant => ?_, fun hstart hempty hhost hgrant => ?_,
    fun hstart hempty hgood happart => ?_, fun hstart hempty hgood hinj happart => ?_, fun hstart hempty hbad => ?_⟩
  · exact hwrites (congrArg Host.Outcome.next (runEntry_of_passed hstart hchecks)) (fillAct_copyEnds hu (slDesc_op hstart)
      hreserved haligned (slCombination_other hcombination (by rw [slDesc_op hstart]; decide)) hcheck hempty)
  · rw [hmove hstart, moveAct_of_empty hempty]
  · exact hwrites (hmove hstart)
      (moveAct_device hu (slDesc_op hstart) hreserved haligned hcheck hsealed hpeer hempty hsrc hdst happart)
  · exact hwrites (hmove hstart)
      (moveAct_fromHost hu (slDesc_op hstart) hcombination haligned hcheck hsealed hempty hsrc hgrant)
  · obtain ⟨v, hact, hrest⟩ := moveAct_toHost (p := p) (q := q) (e := e) hu (slDesc_op hstart) hcombination haligned hcheck
      hsealed hempty hdst hgrant
    exact ⟨v, (hmove hstart).trans (by rw [hact]), hrest⟩
  · rw [hmove hstart, moveAct_of_refused hempty (slCombination_move hcombination (slDesc_op hstart) hhost).1 hhost hgrant]
  · exact hwrites (hgather hstart) (gather_copyEnds hu (slDesc_op hstart) haligned hcheck
      (slCombination_other hcombination (by rw [slDesc_op hstart]; decide)) hempty hgood happart)
  · exact hwrites (congrArg Host.Outcome.next (runEntry_of_passed hstart hchecks)) (scatter_copyEnds hu (slDesc_op hstart)
      haligned hcheck (slCombination_other hcombination (by rw [slDesc_op hstart]; decide)) hempty hgood hinj happart)
  · obtain ⟨v, hact, hrest⟩ := indexedAct_of_bad (p := p) (q := q) (e := e) hu hempty hbad
    exact ⟨v, (hgather hstart).trans (by rw [hact]), hrest⟩

end Sys2Proof.Machine
end

section
/-! SUPPORT. What a tile engine moves while it runs a sub-tile (R73-R96), what of its arithmetic depends on memory alone, and the
lines that it stores. -/

namespace Sys2Proof.Machine

variable {s t u v : State} {p : Fin 4} {q : Fin 16} {n : Word} {r r' : MmRun} {writes tiles : Bool}

/-! ## Commands in flight -/

theorem cmdAt_of_liveMm {cm : Cmd} (h : liveMm s p q n = some (cm, r)) : cmdAt s p q n = some cm := by
  unfold liveMm at h
  split at h
  next c hlive =>
    have hc : cm = c := by
      split at h
      · cases h; rfl
      · cases h
    unfold liveCmd at hlive
    split at hlive
    · rw [hc]; exact (Option.filter_eq_some_iff.mp hlive).1
    · cases hlive
  next => cases h

/-- A record of a command changes where it stands. -/
theorem cmdAt_modCmd (s : State) (p : Fin 4) (q : Fin 16) (n : Word) {f : Cmd → Cmd}
    (hf : ∀ c, ((f c).q, (f c).e) = (c.q, c.e) := by exact fun _ => rfl) :
    cmdAt (modCmd s p q n f) p q n = (cmdAt s p q n).map f := by
  have hkey (c : Cmd) : (decide ((f c).q = q) && decide ((f c).e.seq = n)) = (decide (c.q = q) && decide (c.e.seq = n)) := by
    obtain ⟨hq, he⟩ := Prod.mk.inj (hf c)
    rw [hq, he]
  simp only [cmdAt, modCmd, polder_modPolder_self, List.find?_map]
  induction (polder s p).inflight with
  | nil => rfl
  | cons c cs ih =>
    simp only [List.find?_cons, Function.comp_apply]
    cases hc : (decide (c.q = q) && decide (c.e.seq = n)) with
    | true => simp only [hkey, hc, if_true, Option.map_some]
    | false => simp only [hc, Bool.false_eq_true, if_false]; exact ih

theorem Moved.cmdAt_isSome (h : Moved writes tiles s t) (hs : (cmdAt s p q n).isSome = true) : (cmdAt t p q n).isSome = true := by
  have := congrArg Option.isSome (h.cmdAt_e p q n)
  simpa [hs] using this

theorem body_setBody (b : Body) (h : (cmdAt s p q n).isSome = true) :
    (cmdAt (setBody s p q n b) p q n).map (·.body) = some b := by
  obtain ⟨c, hc⟩ := Option.isSome_iff_exists.mp h
  rw [setBody, cmdAt_modCmd, hc]; rfl

theorem res_endCmd (st : Status) (h : (cmdAt s p q n).isSome = true) :
    (cmdAt (endCmd s p q n st) p q n).map (·.res) = some (some st) := by
  obtain ⟨c, hc⟩ := Option.isSome_iff_exists.mp h
  rw [endCmd, cmdAt_modCmd, hc]; rfl

/-! ## What a tile engine moves beside memory -/

theorem modCluster_moved (s : State) (c : Fin 256) {f : Cluster → Cluster}
    (hf : ∀ C, (f C).ve = C.ve := by exact fun _ => rfl) :
    Moved writes true s (modCluster s c f) := by
  refine ⟨_, _, _, _, _, _, _, _, rfl, fun _ => .refl _, fun x => ?_, fun _ => ⟨rfl, rfl, rfl⟩, nofun⟩
  rw [get_vmod]
  split
  next h => subst h; exact hf _
  next => rfl

theorem noteSpans_moved (xs : List (Nat × Nat)) (s : State) (p : Fin 4) (set : BitVec 16) :
    Moved writes tiles s (xs.foldl (fun s x => noteAccess s p set x.1 x.2) s) := .foldl (fun _ _ => noteAccess_moved ..) xs s

theorem countPanels_moved (s : State) (p : Fin 4) (set : BitVec 16) (r : MmRun) (t : Nat) (ks : Nat × Nat) :
    Moved writes tiles s (countPanels s p set r t ks) := noteSpans_moved ..

theorem countEpi_moved (s : State) (p : Fin 4) (set : BitVec 16) (r : MmRun) (is js : Nat × Nat) :
    Moved writes tiles s (countEpi s p set r is js) := noteSpans_moved ..

theorem countCells_moved (s : State) (p : Fin 4) (set : BitVec 16) (c : Fin 256) (r : MmRun) (shape is js ks : Nat × Nat) :
    Moved writes true s (countCells s p set c r shape is js ks) := by
  unfold countCells
  dsimp only
  have hcounts (x y : Nat) : Moved writes true s (countAdd (countAdd s p set 1 x) p set 10 y) :=
    (countAdd_moved ..).trans (countAdd_moved ..)
  split
  · exact .refl s
  · split
    · exact (hcounts ..).trans (modCluster_moved ..)
    · exact hcounts ..

theorem landSums_moved (s : State) (c : Fin 256) (r : MmRun) (b : Bool) (shape : Nat × Nat) (rows cols : Nat) (accs : List Acc) :
    Moved writes true s (landSums s c r b shape rows cols accs) := modCluster_moved ..

theorem buildTables_moved (s : State) (c : Fin 256) (r : MmRun) (b : Bool) (shape js : Nat × Nat) :
    Moved writes true s (buildTables s c r b shape js) :=
  .ite _ (.foldl (fun _ _ => modCluster_moved ..) _ s) (.refl s)

theorem buildNext_moved (s : State) (c : Fin 256) (r : MmRun) (l : MmLane) : Moved writes true s (buildNext s c r l) := by
  unfold buildNext
  split
  · exact .refl s
  · split
    · exact .refl s
    · exact buildTables_moved ..

theorem settleSlots_moved (s : State) (p : Fin 4) (q : Fin 16) (n : Word) (r : MmRun) :
    Moved writes true s (settleSlots s p q n r) :=
  .ite _ (.refl s) (.foldl (fun _ _ => .ite _ (modCluster_moved ..) (.refl _)) _ s)

theorem polders_settleSlots (s : State) (p : Fin 4) (q : Fin 16) (n : Word) (r : MmRun) :
    (settleSlots s p q n r).polders = s.polders := by
  unfold settleSlots
  split
  · rfl
  · refine List.foldlRecOn (motive := fun t : State => t.polders = s.polders) _ _ rfl fun t ht x _ => ?_
    split
    · exact ht
    · exact ht

theorem cmdAt_settleSlots (s : State) (p : Fin 4) (q : Fin 16) (n : Word) (r : MmRun) :
    cmdAt (settleSlots s p q n r) p q n = cmdAt s p q n := by
  simp only [cmdAt, polder, polders_settleSlots]

/-! ## What depends on memory alone -/

/-- The sums of a sub-tile depend on memory and on the clusters. -/
theorem accumulate_moved (h : Moved false false s t) (c : Fin 256) (b : Bool) (r : MmRun) (x : Nat) (is js ks : Nat × Nat) :
    accumulate t c b r x is js ks = accumulate s c b r x is js ks := by
  obtain ⟨_, _, _, _, _, _, _, _, rfl, -, -, hmem, hclusters⟩ := h
  obtain ⟨rfl, rfl, rfl⟩ := hmem rfl
  obtain rfl := hclusters rfl
  rfl

theorem epiStatus_moved (h : Moved false tiles s t) (r : MmRun) (is js : Nat × Nat) :
    epiStatus t r is js = epiStatus s r is js := by
  obtain ⟨_, _, _, _, _, _, _, _, rfl, -, -, hmem, -⟩ := h
  obtain ⟨rfl, rfl, rfl⟩ := hmem rfl
  rfl

theorem drainLines_moved (h : Moved false tiles s t) (r : MmRun) (is js : Nat × Nat) (accs : List Acc) :
    drainLines t r is js accs = drainLines s r is js accs := by
  obtain ⟨_, _, _, _, _, _, _, _, rfl, -, -, hmem, -⟩ := h
  obtain ⟨rfl, rfl, rfl⟩ := hmem rfl
  rfl

/-- r' is r with other progress. -/
def Progressed (r r' : MmRun) : Prop :=
  ∃ lanes changed partials finished combined, r' = { r with
    lanes := lanes, changed := changed, partials := partials, finished := finished, combined := combined }

/-- The outputs of a command do not depend on its progress. -/
theorem drainLines_progressed (h : Progressed r r') (s : State) (is js : Nat × Nat) (accs : List Acc) :
    drainLines s r' is js accs = drainLines s r is js accs := by
  obtain ⟨_, _, _, _, _, rfl⟩ := h
  rfl

theorem epiStatus_progressed (h : Progressed r r') (s : State) (is js : Nat × Nat) :
    epiStatus s r' is js = epiStatus s r is js := by
  obtain ⟨_, _, _, _, _, rfl⟩ := h
  rfl

/-! ## Lines stored between counts -/

/-- t is s with the lines stored in order, its counts and its tile engines' parts moved on. -/
def Stores (tiles : Bool) (s t : State) (ls : List (Nat × List Byte)) : Prop :=
  ∃ u p set, Moved false tiles s u ∧ Moved false tiles (putAll u p set ls) t

namespace Stores

variable {ls : List (Nat × List Byte)}

theorem moved (h : Stores tiles s t ls) (hs : s.poison = []) : Moved true tiles s t := by
  obtain ⟨u, p, set, hu, ht⟩ := h
  exact (hu.mono nofun fun e => e).trans ((putAll_moved (hu.poison.trans hs) ..).trans (ht.mono nofun fun e => e))

theorem holds (h : Stores tiles s t ls) (hs : s.poison = []) (hapart : Apart ls) : Holds s t ls := by
  obtain ⟨u, p, set, hu, ht⟩ := h
  exact (putAll_holds (hu.poison.trans hs) p set hapart).moved hu ht

theorem before (h : Moved false tiles s t) (k : Stores tiles t v ls) : Stores tiles s v ls := by
  obtain ⟨u, p, set, hu, hv⟩ := k
  exact ⟨u, p, set, h.trans hu, hv⟩

theorem after (h : Stores tiles s t ls) (k : Moved false tiles t v) : Stores tiles s v ls := by
  obtain ⟨u, p, set, hu, ht⟩ := h
  exact ⟨u, p, set, hu, ht.trans k⟩

end Stores

theorem apart_append {xs ys : List (Nat × List Byte)} (h : Apart (xs ++ ys)) : Apart xs ∧ Apart ys :=
  ⟨(List.pairwise_append.mp h).1, (List.pairwise_append.mp h).2.1⟩

/-- Lines written after lines that they are apart from. -/
theorem Holds.append {xs ys : List (Nat × List Byte)} (h : Holds s t xs) (k : Holds t u ys) (hapart : Apart (xs ++ ys)) :
    Holds s u (xs ++ ys) := by
  obtain ⟨-, -, hbetween⟩ := List.pairwise_append.mp hapart
  refine ⟨List.forall_mem_append.mpr ⟨fun x hx => ?_, k.1⟩, fun a ha => ?_⟩
  · rw [← h.1 x hx, memBytes_length]
    refine List.map_congr_left fun i hi => k.2 _ fun y hy => ?_
    have := List.mem_range.mp hi
    have := hbetween x hx y hy
    omega
  · obtain ⟨hxs, hys⟩ := List.forall_mem_append.mp ha
    exact (k.2 a hys).trans (h.2 a hxs)

/-! ## The watch on the inputs (R100) -/

/-- No input of the command has changed, and none of the lines meets one. -/
def Unwatched (p : Fin 4) (q : Fin 16) (n : Word) (ls : List (Nat × List Byte)) (watch : List Watch) : Prop :=
  ∀ w ∈ watch, w.p = p → w.q = q → w.n = n → w.changed = false ∧
    ∀ x ∈ ls, ∀ a, x.1 ≤ a → a < x.1 + x.2.length → w.areas.any (inArea · a) = false

theorem watchPut_unwatched {ls : List (Nat × List Byte)} {x : Nat × List Byte} (hx : x ∈ ls)
    (h : Unwatched p q n ls s.watch) : Unwatched p q n ls (watchPut s x.1 x.2) := by
  intro w hw hp hq hn
  obtain ⟨w₀, hw₀, rfl⟩ := List.mem_map.mp hw
  obtain ⟨hchanged, hareas⟩ := h w₀ hw₀ hp hq hn
  refine ⟨?_, hareas⟩
  simp only [hchanged, Bool.false_or, List.any_eq_false]
  intro y hy
  obtain ⟨hlo, hhi, -⟩ := List.mem_zipIdx hy
  simp [hareas x hx y.2 hlo hhi]

theorem putAll_unwatched (hs : s.poison = []) (p' : Fin 4) (set : BitVec 16) {ls ks : List (Nat × List Byte)} (hks : ks ⊆ ls)
    (h : Unwatched p q n ls s.watch) : Unwatched p q n ls (putAll s p' set ks).watch := by
  induction ks generalizing s with
  | nil => exact h
  | cons x ks ih =>
    obtain ⟨hx, hrest⟩ := List.cons_subset.mp hks
    have hmoved : Moved true false s (unitWrite s p' set x.1 x.2).1 := unitWrite_moved hs ..
    refine ih (hmoved.poison.trans hs) hrest ?_
    have hnote : Moved false false (memWrite s x.1 x.2).1 (unitWrite s p' set x.1 x.2).1 := noteAccess_moved ..
    rw [hnote.watch]
    by_cases hbs : x.2 = []
    · rw [hbs]; exact h
    · rw [memWrite_of_no_poison hs _ hbs]; exact watchPut_unwatched hx h

theorem Stores.unwatched {ls : List (Nat × List Byte)} (h : Stores tiles s t ls) (hs : s.poison = [])
    (hw : Unwatched p q n ls s.watch) : inputsChanged t p q n = false := by
  obtain ⟨u, p', set, hu, ht⟩ := h
  have huw := putAll_unwatched (hu.poison.trans hs) p' set (List.Subset.refl ls) (hu.watch.symm ▸ hw)
  rw [← ht.watch] at huw
  simp only [inputsChanged, List.any_eq_false, Bool.and_eq_true, beq_iff_eq]
  rintro w hmem ⟨⟨⟨hp, hq⟩, hn⟩, hchanged⟩
  exact absurd hchanged (by simp [(huw w hmem hp hq hn).1])

/-! ## The epilogue of a sub-tile -/

/-- The lines that a block of output elements becomes. -/
def emitLines (r : MmRun) (i0 j0 : Nat) (rows : List (List OutElem)) : List (Nat × List Byte) :=
  outLines r r.d.c.addr i0 j0 (rows.map fun row => row.map (·.conv.code)) ++
    (if r.d.pairEn then outLines r (pairLo r.d r.fc) i0 j0 (rows.map fun row => row.map (·.lo)) else [])

theorem emit_stores (hs : s.poison = []) (hcmd : (cmdAt s p q n).isSome = true) (hg2 : r.d.g2 = false ∨ g2Target r.fc = true)
    (i0 j0 : Nat) (rows : List (List OutElem)) :
    ∃ t, emit s p q n r i0 j0 rows = (t, true) ∧ Stores tiles s t (emitLines r i0 j0 rows) := by
  obtain ⟨c, hc⟩ := Option.isSome_iff_exists.mp hcmd
  have hdefined : (r.d.g2 && !g2Target r.fc) = false := by rcases hg2 with h | h <;> simp [h]
  have hhi := putAll_moved (tiles := false) hs p c.e.ctrSet
    (outLines r r.d.c.addr i0 j0 (rows.map fun row => row.map (·.conv.code)))
  simp only [emit, hc, hdefined, Bool.false_eq_true, if_false, writeAll_of_no_poison hs,
    writeAll_of_no_poison (hhi.poison.trans hs), emitLines]
  cases r.d.pairEn with
  | true =>
    refine ⟨_, rfl, s, p, c.e.ctrSet, .refl s, ?_⟩
    rw [if_pos rfl, putAll_append]
    exact (noteCounts_moved ..).trans (modCmd_moved ..)
  | false =>
    refine ⟨_, rfl, s, p, c.e.ctrSet, .refl s, ?_⟩
    rw [if_neg nofun, List.append_nil]
    exact (noteCounts_moved ..).trans (modCmd_moved ..)

theorem drainEpilogue_stores (hs : s.poison = []) (hcmd : (cmdAt s p q n).isSome = true)
    (hg2 : r.d.g2 = false ∨ g2Target r.fc = true) (is js : Nat × Nat) (accs : List Acc) :
    ∃ t, drainEpilogue s p q n r is js accs = (t, true) ∧ Stores tiles s t (drainLines s r is js accs) := by
  have hcount : Moved false tiles s (countEpi s p (setOf s p q n) r is js) := countEpi_moved ..
  obtain ⟨t, hemit, hstores⟩ := emit_stores (tiles := tiles) (hcount.poison.trans hs) (hcount.cmdAt_isSome hcmd) hg2 is.1 js.1
    ((rowsOf (js.2 - js.1) (is.2 - is.1) accs).mapIdx fun i row => row.mapIdx fun j acc =>
      outElem r (outScale s r (is.1 + i) (js.1 + j)) (finishAcc s r (is.1 + i) (js.1 + j) acc).1
        (finishAcc s r (is.1 + i) (js.1 + j) acc).2 acc.accf)
  exact ⟨t, hemit, hstores.before hcount⟩

/-! ## The end of a sub-tile -/

/-- Work that is not all done goes on, its progress stored. -/
theorem mmAdvance_of_more (hdone : mmDone r = false) (hcmd : (cmdAt s p q n).isSome = true) :
    Moved false true s (mmAdvance s p q n r) ∧ (cmdAt (mmAdvance s p q n r) p q n).map (·.body) = some (.mm r) := by
  have hact : mmAdvance s p q n r = settleSlots (setBody s p q n (.mm r)) p q n r := by
    simp only [mmAdvance, hdone, Bool.not_false, if_true]
  rw [hact, cmdAt_settleSlots]
  exact ⟨(setBody_moved ..).trans (settleSlots_moved ..), body_setBody _ hcmd⟩

/-- The command ends, and memory stays, where C meets no input and no input has changed (R100, R104). -/
theorem mmAdvance_of_done (hdone : mmDone r = true) (hp : r.p = 1) (hmeasure : r.measure = false) (hchanged : r.changed = false)
    (hoverlap : overlapAreas r = []) (hinputs : inputsChanged s p q n = false) (hcmd : (cmdAt s p q n).isSome = true) :
    SameMem s (mmAdvance s p q n r) ∧ (cmdAt (mmAdvance s p q n r) p q n).map (·.res) = some (some .ok) := by
  have hmoved : Moved false true s (settleSlots (setBody s p q n (.mm r)) p q n r) :=
    (setBody_moved ..).trans (settleSlots_moved ..)
  have hspoil : spoilChanged (spoilOverlap (settleSlots (setBody s p q n (.mm r)) p q n r) r) p q n r =
      settleSlots (setBody s p q n (.mm r)) p q n r := by
    have hquiet : inputsChanged (settleSlots (setBody s p q n (.mm r)) p q n r) p q n = false := by
      rw [inputsChanged, hmoved.watch]; exact hinputs
    simp only [spoilOverlap, hoverlap, List.isEmpty_nil, if_true, spoilChanged, hchanged, hquiet, Bool.or_self,
      Bool.false_eq_true, if_false]
  have hact : mmAdvance s p q n r = endCmd (releaseUnits (settleSlots (setBody s p q n (.mm r)) p q n r) p q n) p q n .ok := by
    simp only [mmAdvance, hdone, hmeasure, Bool.not_true, Bool.false_eq_true, if_false, Bool.not_false, if_true, finishMm, hp,
      Nat.lt_irrefl, hspoil]
  rw [hact]
  exact ⟨hmoved.sameMem, res_endCmd _ (hmoved.cmdAt_isSome hcmd)⟩

theorem Holds.sameMem {ls : List (Nat × List Byte)} (h : Holds s t ls) (k : SameMem t u) : Holds s u ls := by
  have hbyte (a : Nat) : memByte u a = memByte t a := by rw [memByte, k.1, k.2]; rfl
  have hbytes (a n : Nat) : memBytes u a n = memBytes t a n := by simp only [memBytes, hbyte]
  exact ⟨fun x hx => (hbytes ..).trans (h.1 x hx), fun a ha => (hbyte a).trans (h.2 a ha)⟩

end Sys2Proof.Machine
end

section
/-! SUPPORT. SUBTILE_DRAIN (R77, R78, R117, R121) and SPLITK_COMBINE (R120), and the statement on both. -/

namespace Sys2Proof.Machine

variable {s t : State} {p : Fin 4} {q : Fin 16} {n : Word} {r : MmRun} {tiles : Bool} {cm : Cmd}

/-! ## Partials in scratch (R117) -/

/-- Partials change no byte outside their spans. -/
theorem writePartials_spans (hs : s.poison = []) (p : Fin 4) (set : BitVec 16) (xs : List (Nat × Nat)) :
    ∃ t, writePartials s p set xs = (t, true) ∧ Moved true tiles s t ∧
      ∀ a, (∀ x ∈ xs, a < x.1 ∨ x.1 + x.2 ≤ a) → memByte t a = memByte s a := by
  unfold writePartials
  induction xs generalizing s with
  | nil => exact ⟨s, rfl, .refl s, fun _ _ => rfl⟩
  | cons x xs ih =>
    let bytes := (List.range x.2).map fun k => Config.freeByte s.draws (x.1 + k)
    have hwrite : Moved true tiles s (unitWrite s p set x.1 bytes).1 := unitWrite_moved hs ..
    have hx : Moved true tiles s (nextDraw (unitWrite s p set x.1 bytes).1) := hwrite.trans (nextDraw_moved _)
    have hstores : (unitWrite s p set x.1 bytes).2 = true := memWrite_stores hs ..
    obtain ⟨t, hfold, hmoved, hother⟩ := ih (hx.poison.trans hs)
    refine ⟨t, ?_, hx.trans hmoved, fun a ha => ?_⟩
    · rw [List.foldl_cons]
      simpa only [bytes, hstores, Bool.and_self] using hfold
    · obtain ⟨hax, haxs⟩ := List.forall_mem_cons.mp ha
      have hlen : bytes.length = x.2 := by simp [bytes]
      refine (hother a haxs).trans ?_
      refine (byte_unitWrite hs p set x.1 bytes a).trans (if_neg ?_)
      omega

/-! ## One sub-tile -/

/-- The command's progress after a sub-tile of item i on lane k, which then stands at l. -/
def afterSub (r : MmRun) (k i : Nat) (l : MmLane) : MmRun :=
  if l.item = none then { setLane r k l with finished := (setLane r k l).finished ++ [(i, k)] } else setLane r k l

theorem afterSub_eq (r : MmRun) (k i : Nat) (l : MmLane) :
    ∃ lanes finished, afterSub r k i l = { r with lanes := lanes, finished := finished } := by
  unfold afterSub
  split <;> exact ⟨_, _, rfl⟩

theorem afterSub_progressed (r : MmRun) (k i : Nat) (l : MmLane) : Progressed r (afterSub r k i l) := by
  obtain ⟨_, _, hr⟩ := afterSub_eq r k i l
  exact ⟨_, _, _, _, _, hr⟩

/-- At most one item more is finished, and one when the lane has ended its item. -/
theorem afterSub_finished (r : MmRun) (k i : Nat) (l : MmLane) :
    (afterSub r k i l).finished.length ≤ r.finished.length + 1 ∧
    (l.item = none → (afterSub r k i l).finished.length = r.finished.length + 1) := by
  unfold afterSub
  split
  next h => simp [setLane]
  next h => exact ⟨Nat.le_succ _, fun e => absurd e h⟩

/-- A split command is not done before its last tile is combined. -/
theorem mmDone_of_more (h : 1 < r.p) (hmore : r.combined.length < tileCount r.d) : mmDone r = false :=
  (if_pos h).trans (decide_eq_false (Nat.not_le.2 hmore))

theorem subtileDrain_eq {k i : Nat} {l l' : MmLane} {is js : Nat × Nat} (hlive : liveMm s p q n = some (cm, r))
    (hlane : (laneAt r k).filter (·.started) = some l) (htake : takeItem l = some (i, l'))
    (hsub : (r.subTiles (i / r.p))[l'.sub]? = some (is, js)) :
    exec (.subtileDrain p q n k) s = .next (drainSub s p q n cm r k i l' is js) := by
  have hact : doSubtileDrain p q n k s = drainSub s p q n cm r k i l' is js := by
    simp only [doSubtileDrain, hlive, hlane, htake, hsub]
  exact congrArg Host.Outcome.next hact

theorem drainSub_of_bad {k i : Nat} {l : MmLane} {is js : Nat × Nat} {st : Status}
    (h : operandStatus s r is js (r.range i) = some st) : drainSub s p q n cm r k i l is js = failCmd s p q n st := by
  simp only [drainSub, h]

/-- The lane after it has run a sub-tile of item i. -/
def laneAfter (r : MmRun) (i : Nat) (l : MmLane) : MmLane := nextSub l i (r.subTiles (i / r.p)).length

/-- The panels of the tile counted with its first sub-tile (R415). -/
def panelsCounted (s : State) (p : Fin 4) (cm : Cmd) (r : MmRun) (i : Nat) (l : MmLane) : State :=
  if l.sub = 0 then countPanels s p cm.e.ctrSet r (i / r.p) (r.range i) else s

/-- The state once a sub-tile of item i has run and its sums have landed, before they are kept or drained. -/
def subRun (s : State) (p : Fin 4) (q : Fin 16) (n : Word) (cm : Cmd) (r : MmRun) (k i : Nat) (l : MmLane)
    (is js : Nat × Nat) (accs : List Acc) : State :=
  let cells := countCells (panelsCounted s p cm r i l) p cm.e.ctrSet (mmCluster s p r.d k) r (r.shape (i / r.p)) is js (r.range i)
  let counted := noteCounts cells p q n cm.e.ctrSet 0 0 (accs.map (·.accf)).sum
  let landed := landSums counted (mmCluster s p r.d k) r l.bank (r.shape (i / r.p)) (is.2 - is.1) (js.2 - js.1) accs
  buildNext landed (mmCluster s p r.d k) r (laneAfter r i l)

theorem panelsCounted_moved (s : State) (p : Fin 4) (cm : Cmd) (r : MmRun) (i : Nat) (l : MmLane) :
    Moved false tiles s (panelsCounted s p cm r i l) := .ite _ (countPanels_moved ..) (.refl s)

theorem subRun_moved (s : State) (p : Fin 4) (q : Fin 16) (n : Word) (cm : Cmd) (r : MmRun) (k i : Nat) (l : MmLane)
    (is js : Nat × Nat) (accs : List Acc) : Moved false true s (subRun s p q n cm r k i l is js accs) :=
  (panelsCounted_moved s p cm r i l).trans <| (countCells_moved ..).trans <| (noteCounts_moved ..).trans <|
    (landSums_moved ..).trans (buildNext_moved ..)

/-- The sums of the sub-tile (R121). -/
def subSums (s : State) (p : Fin 4) (r : MmRun) (k i : Nat) (l : MmLane) (is js : Nat × Nat) : List Acc :=
  accumulate s (mmCluster s p r.d k) l.bank r (i / r.p) is js (r.range i)

/-- What becomes of a sub-tile's sums: kept where the tile is split or its output measured, and drained elsewhere. -/
def keepOrDrain (t : State) (p : Fin 4) (q : Fin 16) (n : Word) (cm : Cmd) (r : MmRun) (i : Nat) (is js : Nat × Nat)
    (accs : List Acc) : State :=
  if 1 < r.p ∨ r.measure then keepSub t p q n cm r i is js accs else
  match epiStatus t r is js with
  | some st => failCmd t p q n st
  | none =>
    let w := drainEpilogue t p q n r is js accs
    if w.2 then mmAdvance w.1 p q n r else failCmd w.1 p q n .eccUncorrected

theorem keepOrDrain_of_split {i : Nat} {is js : Nat × Nat} {accs : List Acc} (hsplit : 1 < r.p)
    (hwrite : writePartials s p cm.e.ctrSet (partialSpans r i is js) = (t, true)) :
    keepOrDrain s p q n cm r i is js accs = mmAdvance t p q n (keepSums r i accs) := by
  simp only [keepOrDrain, keepSub, hsplit, true_or, if_true, hwrite]

theorem keepOrDrain_of_whole {i : Nat} {is js : Nat × Nat} {accs : List Acc} (hp : r.p = 1) (hmeasure : r.measure = false)
    (hepi : epiStatus s r is js = none) (hdrain : drainEpilogue s p q n r is js accs = (t, true)) :
    keepOrDrain s p q n cm r i is js accs = mmAdvance t p q n r := by
  simp only [keepOrDrain, hp, Nat.lt_irrefl, hmeasure, Bool.false_eq_true, or_self, if_false, hepi, hdrain, if_true]

section Run
variable {k i : Nat} {l : MmLane} {is js : Nat × Nat} (hpass : operandStatus s r is js (r.range i) = none)
include hpass

/-- A sub-tile whose operands pass runs; then its sums are kept, or drained. -/
theorem drainSub_of_pass : drainSub s p q n cm r k i l is js =
    keepOrDrain (subRun s p q n cm r k i l is js (subSums s p r k i l is js)) p q n cm (afterSub r k i (laneAfter r i l)) i is js
      (subSums s p r k i l is js) := by
  have hsums : accumulate (panelsCounted s p cm r i l) (mmCluster s p r.d k) l.bank r (i / r.p) is js (r.range i) =
      subSums s p r k i l is js := accumulate_moved (panelsCounted_moved ..) ..
  rw [panelsCounted] at hsums
  simp only [drainSub, hpass, hsums, subRun, panelsCounted, afterSub, laneAfter, Option.isNone_iff_eq_none, keepOrDrain] <;> rfl

/-- A range of a split tile keeps its sums in its partial, and in scratch (R117). -/
theorem drainSub_keeps (hs : s.poison = []) (hcmd : (cmdAt s p q n).isSome = true) (hsplit : 1 < r.p)
    (hmore : r.combined.length < tileCount r.d) :
    let v := drainSub s p q n cm r k i l is js
    Moved true true s v ∧
    (∀ a, (∀ x ∈ partialSpans r i is js, a < x.1 ∨ x.1 + x.2 ≤ a) → memByte v a = memByte s a) ∧
    (cmdAt v p q n).map (·.body) =
      some (.mm (keepSums (afterSub r k i (laneAfter r i l)) i (subSums s p r k i l is js))) := by
  have hrun := subRun_moved s p q n cm r k i l is js (subSums s p r k i l is js)
  obtain ⟨_, _, hr⟩ := afterSub_eq r k i (laneAfter r i l)
  obtain ⟨t, hwrite, hmoved, hother⟩ := writePartials_spans (tiles := true) (hrun.poison.trans hs) p cm.e.ctrSet
    (partialSpans r i is js)
  have hmoved' := (hrun.mono nofun id).trans hmoved
  obtain ⟨hadvance, hbody⟩ := mmAdvance_of_more (s := t) (p := p) (q := q) (n := n)
    (r := keepSums (afterSub r k i (laneAfter r i l)) i (subSums s p r k i l is js))
    (by rw [hr]; exact mmDone_of_more (by exact hsplit) (by exact hmore)) (hmoved'.cmdAt_isSome hcmd)
  rw [drainSub_of_pass hpass, keepOrDrain_of_split (by rw [hr]; exact hsplit) (by rw [hr]; exact hwrite)]
  exact ⟨hmoved'.trans (hadvance.mono nofun id), fun a ha =>
    (hadvance.memByte a).trans ((hother a ha).trans (hrun.memByte a)), hbody⟩

/-- The sums of a tile that is not split go through the epilogue into C and lo (R59). -/
theorem drainSub_drains (hs : s.poison = []) (hcmd : (cmdAt s p q n).isSome = true) (hepi : epiStatus s r is js = none)
    (hp : r.p = 1) (hmeasure : r.measure = false) (hg2 : r.d.g2 = false ∨ g2Target r.fc = true) :
    ∃ t, Stores true s t (drainLines s r is js (subSums s p r k i l is js)) ∧
      drainSub s p q n cm r k i l is js = mmAdvance t p q n (afterSub r k i (laneAfter r i l)) := by
  have hrun := subRun_moved s p q n cm r k i l is js (subSums s p r k i l is js)
  have hprogress := afterSub_progressed r k i (laneAfter r i l)
  obtain ⟨_, _, hr⟩ := afterSub_eq r k i (laneAfter r i l)
  obtain ⟨t, hdrain, hstores⟩ := drainEpilogue_stores (tiles := true) (r := afterSub r k i (laneAfter r i l))
    (hrun.poison.trans hs) (hrun.cmdAt_isSome hcmd) (by rw [hr]; exact hg2) is js (subSums s p r k i l is js)
  rw [drainLines_progressed hprogress, drainLines_moved hrun] at hstores
  refine ⟨t, hstores.before hrun, ?_⟩
  rw [drainSub_of_pass hpass, keepOrDrain_of_whole (by rw [hr]; exact hp) (by rw [hr]; exact hmeasure)
    (by rw [epiStatus_progressed hprogress, epiStatus_moved hrun, hepi]) hdrain]

end Run

/-! ## A tile of a split command (R120) -/

/-- The epilogue reads no table: no bias, no factor, no output scale. -/
structure PlainOutput (r : MmRun) : Prop where
  measure : r.measure = false
  g2 : r.d.g2 = false
  bias : r.d.biasEn = false
  scale : r.d.scaleEn = false
  rowA : rowScaled r.d.a.smode = false
  rowB : rowScaled r.d.b.smode = false
  blockC : blockScaled r.d.c.smode = false

namespace PlainOutput

theorem epiStatus (h : PlainOutput r) (s : State) (is js : Nat × Nat) : epiStatus s r is js = none := by
  simp [Machine.epiStatus, firstFail, h.bias, h.scale, h.blockC]

/-- So the lines of its output depend on no memory. -/
theorem drainLines_eq (h : PlainOutput r) (s t : State) (is js : Nat × Nat) (accs : List Acc) :
    drainLines t r is js accs = drainLines s r is js accs := by
  have hscale (u : State) (i j : Nat) : outScale u r i j = some 0 := by simp [outScale, h.blockC]
  have hfinish (i j : Nat) (acc : Acc) : finishAcc t r i j acc = finishAcc s r i j acc := by
    simp only [finishAcc, epiValue, h.g2, h.rowA, h.rowB, h.scale, h.bias, Bool.false_eq_true, if_false, Bool.false_and]
  simp only [drainLines, hscale, hfinish]

theorem tileLines_eq (h : PlainOutput r) (s t : State) (xs : List ((Nat × Nat) × (Nat × Nat))) (accs : List Acc) :
    tileLines t r xs accs = tileLines s r xs accs := by
  induction xs generalizing accs with
  | nil => rfl
  | cons x xs ih => rw [tileLines, tileLines, ih, h.drainLines_eq s t]

/-- Every sub-tile of a tile drains into its lines. -/
theorem drainTile (h : PlainOutput r) (hs : s.poison = []) (hcmd : (cmdAt s p q n).isSome = true)
    (xs : List ((Nat × Nat) × (Nat × Nat))) (accs : List Acc) (hapart : Apart (tileLines s r xs accs)) :
    ∃ t, drainTile s p q n r xs accs = (t, none) ∧ Moved true true s t ∧ Holds s t (tileLines s r xs accs) := by
  induction xs generalizing s accs with
  | nil => exact ⟨s, rfl, .refl s, nofun, fun _ _ => rfl⟩
  | cons x xs ih =>
    obtain ⟨is, js⟩ := x
    obtain ⟨t, hdrain, hstores⟩ := drainEpilogue_stores (tiles := true) hs hcmd (.inl h.g2) is js
      (accs.take ((is.2 - is.1) * (js.2 - js.1)))
    have hmoved := hstores.moved hs
    rw [tileLines] at hapart
    obtain ⟨hfirst, hrest⟩ := apart_append hapart
    obtain ⟨u, htile, hmoved', hholds⟩ := ih (hmoved.poison.trans hs) (hmoved.cmdAt_isSome hcmd)
      (accs.drop ((is.2 - is.1) * (js.2 - js.1))) (by rw [h.tileLines_eq s t]; exact hrest)
    rw [h.tileLines_eq s t] at hholds
    refine ⟨u, ?_, hmoved.trans hmoved', (hstores.holds hs hfirst).append hholds hapart⟩
    simp only [Machine.drainTile, h.epiStatus, hdrain, if_true, htile]

end PlainOutput

/-- The ranges of a tile that is not the last combine, and drain into the tile's lines. -/
theorem splitkCombine_drains {k x : Nat} (hs : s.poison = []) (hlive : liveMm s p q n = some (cm, r)) (hplain : PlainOutput r)
    (hsplit : 1 < r.p) (hx : x < tileCount r.d) (hready : tileReady r x = true) (hfinisher : finisher r x = some k)
    (hfresh : r.combined.contains x = false) (hmore : r.combined.length + 1 < tileCount r.d)
    (hapart : Apart (tileLines s r (r.subTiles x) (tileSums r x))) :
    ∃ v, exec (.splitkCombine p q n k x) s = .next v ∧ Moved true true s v ∧
      Holds s v (tileLines s r (r.subTiles x) (tileSums r x)) ∧
      (cmdAt v p q n).map (·.body) = some (.mm { r with combined := r.combined ++ [x] }) := by
  have hcmd : (cmdAt s p q n).isSome = true := by rw [cmdAt_of_liveMm hlive]; rfl
  have hread (tiles : Bool) : Moved false tiles s ((tilePartials r x).foldl (fun s x => noteAccess s p cm.e.ctrSet x.1 x.2) s) :=
    noteSpans_moved ..
  have hsr := (hread true).poison.trans hs
  obtain ⟨t, htile, hmoved, hholds⟩ := hplain.drainTile hsr ((hread true).cmdAt_isSome hcmd) (r.subTiles x) (tileSums r x)
    (by rw [hplain.tileLines_eq s]; exact hapart)
  rw [hplain.tileLines_eq s] at hholds
  have hmoved' := ((hread true).mono nofun id).trans hmoved
  obtain ⟨hadvance, hbody⟩ := mmAdvance_of_more (s := t) (p := p) (q := q) (n := n)
    (r := { r with combined := r.combined ++ [x] }) (mmDone_of_more (by exact hsplit) (by simpa using hmore))
    (hmoved'.cmdAt_isSome hcmd)
  have hact : doSplitkCombine p q n k x s = mmAdvance t p q n { r with combined := r.combined ++ [x] } := by
    simp only [doSplitkCombine, hlive, hsplit, hx, hready, hfinisher, hfresh, Bool.not_false, and_self, if_true,
      spansBad_of_no_poison hsr, Bool.false_eq_true, if_false, hplain.measure, htile]
  exact ⟨_, congrArg Host.Outcome.next hact, hmoved'.trans (hadvance.mono nofun id),
    hholds.moved (hread true) hadvance, hbody⟩

/-! ## The statement -/

theorem mmDone_afterSub {k i : Nat} {l : MmLane} (hp : r.p = 1) :
    mmDone (afterSub r k i l) = decide (r.items ≤ (afterSub r k i l).finished.length) := by
  obtain ⟨_, _, hr⟩ := afterSub_eq r k i l
  have hitems : (afterSub r k i l).items = r.items := by rw [hr]; rfl
  have hp' : (afterSub r k i l).p = 1 := by rw [hr]; exact hp
  simp only [mmDone, hp', Nat.lt_irrefl, if_false, hitems]

/-- Settles O42: a sub-tile by `drainSub_keeps` and `drainSub_drains`, its lines by `Stores`, the ranges of a
tile by `PlainOutput.drainTile`. -/
theorem matrixCommandsDrainIntoTheirOutput : Obligations.MatrixCommandsDrainIntoTheirOutput := by
  unfold Obligations.MatrixCommandsDrainIntoTheirOutput
  intro s p q n k x
  refine ⟨fun cm r l i l' is js hs hlive hlane htake hsub => ?_, fun cm r hs hlive hsplit hx hready hfinisher hfresh hmore
    hmeasure hg2 hbias hscale hrowA hrowB hblockC hapart => ?_⟩
  · intro accs nl r1 r2
    have hexec := subtileDrain_eq hlive hlane htake hsub
    have hcmd : (cmdAt s p q n).isSome = true := by rw [cmdAt_of_liveMm hlive]; rfl
    refine ⟨fun st hbad => hexec.trans (by rw [drainSub_of_bad hbad]), fun hpass hsplit hmore => ?_,
      fun hpass hepi hp hmeasure hg2 hapart => ?_⟩
    · obtain ⟨hmoved, hother, hbody⟩ := drainSub_keeps (k := k) (l := l') (cm := cm) hpass hs hcmd hsplit hmore
      exact ⟨_, hexec, hmoved.tileFrame, hother, hbody⟩
    obtain ⟨t, hstores, hact⟩ := drainSub_drains (k := k) (l := l') (cm := cm) hpass hs hcmd hepi hp hmeasure hg2
    have hmoved := hstores.moved hs
    have hholds := hstores.holds hs hapart
    obtain ⟨hfinished, hended⟩ := afterSub_finished r k i (laneAfter r i l')
    refine ⟨fun hmore => ?_, fun hlast hitem hchanged hoverlap hwatch => ?_⟩
    · obtain ⟨hadvance, hbody⟩ := mmAdvance_of_more (s := t) (p := p) (q := q) (n := n)
        (r := afterSub r k i (laneAfter r i l')) (by rw [mmDone_afterSub hp]; exact decide_eq_false (by omega))
        (hmoved.cmdAt_isSome hcmd)
      exact ⟨_, hexec.trans (by rw [hact]), (hmoved.trans (hadvance.mono nofun id)).tileFrame,
        hholds.moved (.refl s) hadvance, hbody⟩
    · obtain ⟨_, _, hr⟩ := afterSub_eq r k i (laneAfter r i l')
      have hdone : mmDone (afterSub r k i (laneAfter r i l')) = true := by
        rw [mmDone_afterSub hp, hended hitem]; exact decide_eq_true hlast.ge
      obtain ⟨hmem, hres⟩ := mmAdvance_of_done (s := t) (p := p) (q := q) (n := n) hdone (by rw [hr]; exact hp)
        (by rw [hr]; exact hmeasure) (by rw [hr]; exact hchanged) (by rw [hr]; exact hoverlap) (hstores.unwatched hs hwatch)
        (hmoved.cmdAt_isSome hcmd)
      exact ⟨_, hexec.trans (by rw [hact]), hholds.sameMem hmem, hres⟩
  · obtain ⟨v, hexec, hmoved, hholds, hbody⟩ := splitkCombine_drains hs hlive
      ⟨hmeasure, hg2, hbias, hscale, hrowA, hrowB, hblockC⟩ hsplit hx hready hfinisher hfresh hmore hapart
    exact ⟨v, hexec, hmoved.tileFrame, hholds, hbody⟩

end Sys2Proof.Machine
end

section
/-! SUPPORT. MM at command start, the lanes of a matrix command and the statement on both (R85, R95, R100, R115, R118, R119,
R125): the block of each lane, what building tables and freeing slots may move, and each lane step where it acts. -/

namespace Sys2Proof.Machine

variable {s t u : State} {p : Fin 4} {q : Fin 16} {e : Entry} {n : Word} {k : Nat} {c : Fin 256} {d : MmDesc} {r : MmRun}
  {l : MmLane} {cm : Cmd}

/-! ## The blocks of the items (R115, R118) -/

/-- The block that holds item i. -/
theorem laneOf_holds_iff {items count i x : Nat} (hcount : 0 < count) (hi : i < items) :
    (laneOf items count x).next ≤ i ∧ i < (laneOf items count x).stop ↔ x = ((i + 1) * count - 1) / items := by
  have hnext : (laneOf items count x).next ≤ i ↔ x * items < (i + 1) * count :=
    Nat.lt_succ_iff.symm.trans (Nat.div_lt_iff_lt_mul hcount)
  have hstop : i < (laneOf items count x).stop ↔ (i + 1) * count ≤ (x + 1) * items := Nat.le_div_iff_mul_le hcount
  have hpos : 0 < (i + 1) * count := by positivity
  rw [hnext, hstop, Nat.succ_mul x, eq_comm (a := x), Nat.div_eq_iff (by omega)]
  omega

theorem block_lt {items count i : Nat} (hi : i < items) (hcount : 0 < count) : ((i + 1) * count - 1) / items < count := by
  have hle : (i + 1) * count ≤ items * count := Nat.mul_le_mul_right _ hi
  have hpos : 0 < (i + 1) * count := by positivity
  rw [Nat.div_lt_iff_lt_mul (by omega), Nat.mul_comm count]
  omega

/-- The lanes of a command are the clusters of its range, each with its block. -/
theorem mem_lanes_mmRun {x : Nat} : (x, l) ∈ (mmRun s p d).lanes ↔
    x < clusterCount s p d.base d.count ∧ laneOf (mmRun s p d).items (clusterCount s p d.base d.count) x = l := by
  simp [mmRun, MmRun.items]

/-- Every item lies in the block of exactly one lane. -/
theorem mmRun_deals_once (hcount : 0 < clusterCount s p d.base d.count) {i : Nat} (hi : i < (mmRun s p d).items) :
    ∃ x l, (x, l) ∈ (mmRun s p d).lanes ∧ l.next ≤ i ∧ i < l.stop ∧
      ∀ x' l', (x', l') ∈ (mmRun s p d).lanes → l'.next ≤ i → i < l'.stop → x' = x := by
  obtain ⟨hnext, hstop⟩ := (laneOf_holds_iff hcount hi).mpr rfl
  refine ⟨_, _, mem_lanes_mmRun.mpr ⟨block_lt hi hcount, rfl⟩, hnext, hstop, fun x' l' hmem hnext' hstop' => ?_⟩
  obtain ⟨-, rfl⟩ := mem_lanes_mmRun.mp hmem
  exact (laneOf_holds_iff hcount hi).mp ⟨hnext', hstop'⟩

/-! ## MM at command start (R100, R125) -/

theorem mm_of_empty (hstart : startOk s p q e 0x01 = true) (hchecks : mmChecks s p e = none)
    (hempty : (readLayer s e.desc.toNat).empty = true) :
    exec (.mm p q e) s =
      .next (endCmd (latchLayer (startCmd s p q e) p (readLayer s e.desc.toNat)) p q e.seq .ok) :=
  congrArg Host.Outcome.next ((runEntry_of_passed hstart hchecks).trans (if_pos hempty))

theorem mm_of_output (hstart : startOk s p q e 0x01 = true) (hchecks : mmChecks s p e = none)
    (hempty : (readLayer s e.desc.toNat).empty = false) :
    let d := readLayer s e.desc.toNat
    let r := mmRun (startCmd s p q e) p d
    let run := setAreas (setBody (watchInputs (latchLayer (startCmd s p q e) p d) p q e.seq r) p q e.seq (.mm r)) p q e.seq
      (mmAreas r ++ overlapAreas r)
    exec (.mm p q e) s = .next (if d.k = 0 then addWarn run p q e.seq wKZero else run) :=
  congrArg Host.Outcome.next ((runEntry_of_passed hstart hchecks).trans (if_neg (by simp [hempty])))

/-! ## Tables of a cluster (R85) -/

/-- t is s with other tables on cluster c. -/
def Tabled (c : Fin 256) (s t : State) : Prop := ∃ tables, t = modCluster s c fun C => { C with tables := tables }

theorem Tabled.refl (c : Fin 256) (s : State) : Tabled c s s :=
  have hset : s.clusters.set c (cluster s c) = s.clusters := Vector.set_getElem_self ..
  ⟨(cluster s c).tables, congrArg (fun cs => { s with clusters := cs }) hset.symm⟩

theorem Tabled.retable (h : Tabled c s t) {f : Cluster → Cluster}
    (hf : ∀ C, f C = { C with tables := (f C).tables } := by exact fun _ => rfl) : Tabled c s (modCluster t c f) := by
  obtain ⟨tables, rfl⟩ := h
  refine ⟨(f { cluster s c with tables := tables }).tables, ?_⟩
  simp only [modCluster, vmod, Vector.get_eq_getElem, Vector.getElem_set_self, Vector.set_set]
  exact congrArg (fun C => { s with clusters := s.clusters.set c C }) (hf _)

theorem Tabled.ite (b : Prop) [Decidable b] (h : Tabled c s t) : Tabled c s (if b then t else s) := by
  split
  · exact h
  · exact .refl c s

theorem buildTables_tabled (s : State) (c : Fin 256) (r : MmRun) (b : Bool) (shape js : Nat × Nat) :
    Tabled c s (buildTables s c r b shape js) :=
  .ite _ (List.foldlRecOn (motive := Tabled c s) _ _ (.refl c s) fun _ h _ _ => h.retable)

theorem buildNext_tabled (s : State) (c : Fin 256) (r : MmRun) (l : MmLane) : Tabled c s (buildNext s c r l) := by
  unfold buildNext
  split
  · exact .refl c s
  · split
    · exact .refl c s
    · exact buildTables_tabled ..

theorem Tabled.cluster_eq (h : Tabled c s t) (x : Fin 256) : cluster t x = { cluster s x with tables := (cluster t x).tables } := by
  obtain ⟨tables, rfl⟩ := h
  rw [cluster_modCluster]
  split
  next hx => rw [hx]
  next => rfl

theorem Tabled.ve (h : Tabled c s t) (x : Fin 256) : ve t x = Machine.ve s x := by
  rw [Machine.ve, h.cluster_eq x, Machine.ve]

theorem Tabled.cluster_ne (h : Tabled c s t) {x : Fin 256} (hx : x ≠ c) : cluster t x = cluster s x := by
  obtain ⟨tables, rfl⟩ := h
  rw [cluster_modCluster, if_neg hx]

theorem Tabled.eq (h : Tabled c s t) : ∃ clusters, t = { s with clusters := clusters } := by
  obtain ⟨tables, rfl⟩ := h
  exact ⟨_, rfl⟩

/-- A command's record and a cluster's tables are apart. -/
theorem Tabled.setBody_eq (h : Tabled c s t) (p : Fin 4) (q : Fin 16) (n : Word) (b : Body) :
    setBody t p q n b = { setBody s p q n b with clusters := t.clusters } := by
  obtain ⟨_, rfl⟩ := h.eq
  rfl

/-! ## A lane starts on its cluster (R95) -/

/-- The command in its slot of cluster c, whose part of the buffer is then undefined. -/
def slotTaken (s : State) (p : Fin 4) (q : Fin 16) (n : Word) (c : Fin 256) (d : MmDesc) : State :=
  stageBuffer (modCluster s c fun C => { C with slots := C.slots ++ [(d.slot, d.slotSize, p, q, n)] }) c d.slot d.slotSize

theorem cluster_slotTaken_ne {x : Fin 256} (hx : x ≠ c) : cluster (slotTaken s p q n c d) x = cluster s x := by
  simp [slotTaken, stageBuffer, cluster_modCluster, hx]

theorem cluster_slotTaken_self : (cluster (slotTaken s p q n c d) c).ve = ve s c ∧
    (cluster (slotTaken s p q n c d) c).slots = (cluster s c).slots ++ [(d.slot, d.slotSize, p, q, n)] := by
  simp [slotTaken, stageBuffer, ve]

theorem slotTaken_eq (s : State) (p : Fin 4) (q : Fin 16) (n : Word) (c : Fin 256) (d : MmDesc) :
    ∃ clusters draws, slotTaken s p q n c d = { s with clusters := clusters, draws := draws } := ⟨_, _, rfl⟩

theorem Tabled.setBody_slotTaken (h : Tabled c (slotTaken s p q n c d) t) (b : Body) :
    setBody t p q n b = { setBody s p q n b with clusters := (setBody t p q n b).clusters, draws := (setBody t p q n b).draws } := by
  obtain ⟨_, rfl⟩ := h.eq
  obtain ⟨_, _, hslot⟩ := slotTaken_eq s p q n c d
  rw [hslot]
  rfl

section Lane
variable (hlive : liveMm s p q n = some (cm, r)) (hlane : laneAt r k = some l)
include hlive hlane

theorem mmClusterStart_of_free (hstarted : l.started = false)
    (hfree : slotFree (cluster s (mmCluster s p r.d k)) r.d.slot r.d.slotSize = true)
    (hwaiting : (r.lanes.any fun x => waiting x.2) = true) :
    exec (.mmClusterStart p q n k) s = .next (setBody
      (buildNext (slotTaken s p q n (mmCluster s p r.d k) r.d) (mmCluster s p r.d k) r (refill { l with started := true }))
      p q n (.mm (setLane r k (refill { l with started := true })))) := by
  refine congrArg Host.Outcome.next ?_
  simp only [doMmClusterStart, hlive, hlane, hstarted, hfree, hwaiting, Bool.false_eq_true, Bool.not_true, or_self, if_false]
  rfl

theorem mmClusterStart_of_held (h : l.started = true ∨
    slotFree (cluster s (mmCluster s p r.d k)) r.d.slot r.d.slotSize = false ∨
    (r.lanes.any fun x => waiting x.2) = false) : exec (.mmClusterStart p q n k) s = .next s := by
  refine congrArg Host.Outcome.next ?_
  simp only [doMmClusterStart, hlive, hlane, Bool.not_eq_true']
  exact if_pos h

/-! ## A deque is refilled (R118) and an item stolen (R119) -/

theorem dequeRefill_of_short (hstarted : l.started = true) (hshort : l.deque.length ≤ 16) (hmore : l.next < l.stop) :
    exec (.dequeRefill p q n k) s = .next (setBody
      (if l.deque.isEmpty && l.item.isNone then buildNext s (mmCluster s p r.d k) r (refill l) else s)
      p q n (.mm (setLane r k (refill l)))) := by
  refine congrArg Host.Outcome.next ?_
  simp only [doDequeRefill, hlive, hlane, hstarted, hshort, hmore, and_self, if_true]

theorem tileSteal_of_idle {w : Nat} {lw : MmLane} {item : Nat} {rest : List Nat} (hstarted : l.started = true)
    (hidle : idleLane l = true) (hfirst : (victimOrder s p r k).find? (hasItem r) = some w) (hvictim : laneAt r w = some lw)
    (hdeque : lw.deque = rest ++ [item]) :
    let r' := setLane (setLane r w { lw with deque := rest }) k { l with deque := [item] }
    let counted := countAdd (countAdd s p cm.e.ctrSet 11 1) p cm.e.ctrSet 12 1
    exec (.tileSteal p q n k) s = .next (settleSlots (setBody
      (if l.item.isNone then buildNext counted (mmCluster counted p r.d k) r' { l with deque := [item] } else counted)
      p q n (.mm r')) p q n r') := by
  refine congrArg Host.Outcome.next ?_
  simp only [doTileSteal, hlive, hlane, hfirst, hvictim, hstarted, hidle, and_self, if_true, hdeque, List.dropLast_concat,
    List.getLast?_concat, Option.toList_some]
  rfl

end Lane

/-- Freed slots are clusters' alone. -/
theorem settleSlots_eq (s : State) (p : Fin 4) (q : Fin 16) (n : Word) (r : MmRun) :
    ∃ clusters, settleSlots s p q n r = { s with clusters := clusters } := by
  unfold settleSlots
  split
  · exact ⟨_, rfl⟩
  · refine List.foldlRecOn (motive := fun t : State => ∃ clusters, t = { s with clusters := clusters }) _ _ ⟨_, rfl⟩
      fun t ht x _ => ?_
    obtain ⟨_, rfl⟩ := ht
    split
    · exact ⟨_, rfl⟩
    · exact ⟨_, rfl⟩

theorem ve_settleSlots (s : State) (p : Fin 4) (q : Fin 16) (n : Word) (r : MmRun) (x : Fin 256) :
    ve (settleSlots s p q n r) x = ve s x := (settleSlots_moved (writes := false) s p q n r).tileFrame.2.2 x

/-- What a thief moves: its command's record, the counters and the clusters. -/
theorem Tabled.stolen_eq (h : Tabled c u t) (hu : ∃ counters, u = { s with counters := counters }) (r : MmRun) (b : Body) :
    let v := settleSlots (setBody t p q n b) p q n r
    v = { setBody s p q n b with counters := u.counters, clusters := v.clusters } := by
  obtain ⟨clusters, hsettle⟩ := settleSlots_eq (setBody t p q n b) p q n r
  obtain ⟨_, rfl⟩ := h.eq
  obtain ⟨_, rfl⟩ := hu
  rw [hsettle]
  rfl

theorem counted_eq (s : State) (p : Fin 4) (set : BitVec 16) (i j : Fin 14) (x y : Nat) :
    ∃ counters, countAdd (countAdd s p set i x) p set j y = { s with counters := counters } := ⟨_, rfl⟩

/-! ## The statement -/

/-- Settles O41: the blocks by `mmRun_deals_once`; a lane's step is its equation, and beside the command's record it moves clusters
alone (`Tabled`, `slotTaken_eq`, `settleSlots_eq`) and what it counts. -/
theorem matrixCommandsDealTheirItemsToLanes : Obligations.MatrixCommandsDealTheirItemsToLanes := by
  unfold Obligations.MatrixCommandsDealTheirItemsToLanes
  intro s p q e n k u d r0 l0 run
  refine ⟨fun hstart hchecks => ⟨mm_of_empty hstart hchecks, mm_of_output hstart hchecks,
    fun hcount i hi => mmRun_deals_once hcount hi⟩, fun cm r l hlive hlane => ?_⟩
  intro cl more filled
  refine ⟨fun hstarted hfree hwaiting => ⟨_, mmClusterStart_of_free hlive hlane hstarted hfree hwaiting, ?_⟩,
    mmClusterStart_of_held hlive hlane, fun hstarted hshort hmore =>
      ⟨_, dequeRefill_of_short hlive hlane hstarted hshort hmore, ?_⟩,
    fun w lw item rest hstarted hidle hfirst hvictim hdeque =>
      ⟨_, tileSteal_of_idle hlive hlane hstarted hidle hfirst hvictim hdeque, ?_⟩⟩
  · have htabled := buildNext_tabled (slotTaken s p q n cl r.d) cl r (refill { l with started := true })
    obtain ⟨hve, hslots⟩ := cluster_slotTaken_self (s := s) (p := p) (q := q) (n := n) (c := cl) (d := r.d)
    exact ⟨htabled.setBody_slotTaken _, fun x hx => (htabled.cluster_ne hx).trans (cluster_slotTaken_ne hx),
      (htabled.ve cl).trans hve, (congrArg Cluster.slots (htabled.cluster_eq cl)).trans hslots⟩
  · have htabled : Tabled cl s _ := (buildNext_tabled s cl r filled).ite (l.deque.isEmpty && l.item.isNone)
    exact ⟨htabled.setBody_eq .., htabled.cluster_eq⟩
  · exact ⟨((buildNext_tabled ..).ite _).stolen_eq (counted_eq ..) .., fun x =>
      (ve_settleSlots ..).trans (((buildNext_tabled ..).ite _).ve x)⟩

end Sys2Proof.Machine
end

section
/-! SUPPORT. `Recording`: what a command start moves before its command is in flight (R100, R416, R424), and where. -/

namespace Sys2Proof.Machine

variable {fit : Prop} {p : Fin 4} {q : Fin 16} {e : Entry} {s t u : State}

/-! ## The trace ring (R424) -/

/-- Each record that waits fits its place in the trace ring. -/
def RecordsFit (P : Polder) : Prop := ∀ x ∈ P.ringDue, x.bytes.length ≤ 256

/-- An address outside the trace ring of polder p. -/
def OffTrace (s : State) (p : Fin 4) (a : Nat) : Prop :=
  a < traceBase (firstDie s p) ∨ traceBase (firstDie s p) + (polder s p).traceSize ≤ a

/-- State u with what a command start may move taken from t. -/
def withStarted (u t : State) : State :=
  { u with polders := t.polders, mem := t.mem, undef := t.undef, poison := t.poison, counters := t.counters, sites := t.sites,
           localCount := t.localCount, cvus := t.cvus, draws := t.draws, watch := t.watch }

/-- From s to t the module has read, counted and traced for polder p: nothing that a completion reports through moved, nor the step;
and where `fit` holds, no byte outside the trace ring. -/
structure Recording (fit : Prop) (p : Fin 4) (s t : State) : Prop where
  eq : t = withStarted s t
  beside : BesideQueues p s t
  step : (polder t p).step = (polder s p).step
  traceSize : (polder t p).traceSize = (polder s p).traceSize
  bytes : fit → ∀ a, OffTrace s p a → memByte t a = memByte s a

namespace Recording

theorem refl (s : State) : Recording fit p s s := ⟨rfl, .refl p s, rfl, rfl, fun _ _ _ => rfl⟩

theorem firstDie (h : Recording fit p s t) : firstDie t p = Machine.firstDie s p := by rw [h.eq]; rfl

theorem offTrace (h : Recording fit p s t) {a : Nat} : OffTrace t p a ↔ OffTrace s p a := by
  rw [OffTrace, h.firstDie, h.traceSize, OffTrace]

theorem trans (h : Recording fit p s t) (k : Recording fit p t u) : Recording fit p s u where
  eq := calc u
    _ = withStarted t u := k.eq
    _ = withStarted (withStarted s t) u := congrArg (withStarted · u) h.eq
  beside := h.beside.trans k.beside
  step := k.step.trans h.step
  traceSize := k.traceSize.trans h.traceSize
  bytes hfit a ha := (k.bytes hfit a (h.offTrace.mpr ha)).trans (h.bytes hfit a ha)

/-- An update of neither polders nor memory. -/
theorem same (heq : t = withStarted s t) (h : BesideQueues p s t) (hpolders : t.polders = s.polders) (hmem : SameMem s t) :
    Recording fit p s t where
  eq := heq
  beside := h
  step := by rw [polder, hpolders, polder]
  traceSize := by rw [polder, hpolders, polder]
  bytes _ a _ := by rw [memByte, hmem.1, hmem.2, memByte]

/-- Counts and traffic (`Moved`) are of this kind. -/
theorem ofMoved (h : Moved false false s t) (k : BesideQueues p s t) : Recording fit p s t where
  eq := by obtain ⟨_, _, _, _, _, _, _, _, rfl, -, -, -, hclusters⟩ := h; cases hclusters rfl; rfl
  beside := k
  step := by rw [(h.carries p).1]
  traceSize := by rw [(h.carries p).1]
  bytes _ a _ := h.memByte a

end Recording

/-! ## Reads and counts -/

theorem readDesc_recording (s : State) (p : Fin 4) (e : Entry) : Recording fit p s (readDesc s p e) := by
  unfold readDesc
  split
  · exact .ofMoved (touch_moved ..) (touch_beside (.refl p s))
  · exact .refl s

theorem toEdge_recording (s : State) (p : Fin 4) (k : Nat) : Recording fit p s (toEdge s p k) := by
  unfold toEdge tick
  dsimp only
  split_ifs
  · exact .same rfl (.same (.refl p s) rfl rfl rfl) rfl ⟨rfl, rfl⟩
  · exact .refl s
  · exact .refl s

theorem snapEdge_recording (s : State) (p : Fin 4) (k : Nat) : Recording fit p s (snapEdge s p k) :=
  .same rfl (snapEdge_beside (.refl p s)) rfl ⟨rfl, rfl⟩

theorem takeSnap_recording (s : State) (p : Fin 4) (k : Nat) : Recording fit p s (takeSnap s p k) := by
  have hedge : Recording fit p s (toEdge s p k) := toEdge_recording ..
  unfold takeSnap
  dsimp only
  split
  · exact hedge.trans (snapEdge_recording ..)
  · refine hedge.trans (.trans (.ofMoved ?_ ?_) (snapEdge_recording ..))
    · exact Moved.foldl (fun _ _ => countTimed_moved ..) ..
    · exact (BesideQueues.refl p _).foldl fun _ _ h => countTimed_beside h

/-! ## Writes into the trace ring -/

theorem memWrite_eq (s : State) (a : Nat) (bs : List Byte) :
    let t := (memWrite s a bs).1
    t = { s with mem := t.mem, undef := t.undef, watch := t.watch, poison := t.poison } := by
  simp only [memWrite]
  split_ifs <;> rfl

theorem memWrite_recording {a : Nat} {bs : List Byte}
    (h : fit → ∀ x, OffTrace s p x → x < a ∨ a + bs.length ≤ x) : Recording fit p s (memWrite s a bs).1 where
  eq := by rw [memWrite_eq]; rfl
  beside := memWrite_beside (.refl p s)
  step := by rw [memWrite_eq]; rfl
  traceSize := by rw [memWrite_eq]; rfl
  bytes hfit x hx := byte_memWrite_outside a bs (h hfit x hx)

theorem regionWrite_recording {a : Nat} {bs : List Byte}
    (h : fit → ∀ x, OffTrace s p x → x < a ∨ a + bs.length ≤ x) : Recording fit p s (regionWrite s p a bs) :=
  (memWrite_recording h).trans (.ofMoved (touch_moved ..) (touch_beside (.refl p _)))

@[simp] theorem traceHeader_length (s : State) (p : Fin 4) (n : DWord) : (traceHeader s p n).length = 64 := by
  simp [traceHeader]

/-- The place of a record lies behind the header and inside the ring. -/
theorem tracePlace_le {P : Polder} (h : traceEntries P ≠ 0) (n : Nat) :
    4096 + 256 * (n % traceEntries P) + 256 ≤ P.traceSize := by
  have hn : n % traceEntries P < traceEntries P := Nat.mod_lt _ (Nat.pos_of_ne_zero h)
  unfold traceEntries at *
  omega

/-- An update of the trace ring's own fields. -/
theorem modPolder_recording {f : Polder → Polder} (h : BesideQueues p s (modPolder s p f))
    (hstep : ∀ P, (f P).step = P.step := by exact fun _ => rfl)
    (hsize : ∀ P, (f P).traceSize = P.traceSize := by exact fun _ => rfl) : Recording fit p s (modPolder s p f) where
  eq := rfl
  beside := h
  step := by rw [polder_modPolder_self, hstep]
  traceSize := by rw [polder_modPolder_self, hsize]
  bytes _ _ _ := rfl

theorem writeRing_recording {bytes : List Byte} (hentries : traceEntries (polder s p) ≠ 0)
    (hbytes : fit → bytes.length ≤ 256) : Recording fit p s (writeRing s p bytes) := by
  have hplace := tracePlace_le hentries (polder s p).traceWritten.toNat
  have hrecord : Recording fit p s (regionWrite s p (traceBase (firstDie s p) + 4096 +
      256 * ((polder s p).traceWritten.toNat % traceEntries (polder s p))) bytes) :=
    regionWrite_recording fun hfit x hx => by
      have hlen := hbytes hfit
      unfold OffTrace at hx
      omega
  refine .trans (hrecord.trans (regionWrite_recording fun _ x hx => ?_)) (modPolder_recording (modPolder_beside (.refl p _)))
  rw [hrecord.offTrace, OffTrace] at hx
  rw [traceHeader_length]
  omega

theorem ringBytes_length {x : RingDue} (h : x.bytes.length ≤ 256) : (ringBytes x).length ≤ 256 := by
  unfold ringBytes
  split
  · split
    · exact h
    · simp only [List.length_append, List.length_take, List.length_drop, leBytes_length]
      omega
  · exact h

theorem flushRing_recording (hentries : traceEntries (polder s p) ≠ 0) (hfit : fit → RecordsFit (polder s p)) :
    Recording fit p s (flushRing s p) := by
  refine .trans (List.foldlRecOn (motive := Recording fit p s) _ _ (.refl s) fun t ht x hx => ?_)
    (modPolder_recording (modPolder_beside (.refl p _)))
  refine ht.trans (writeRing_recording ?_ fun h => ringBytes_length (hfit h x ?_))
  · rwa [traceEntries, ht.traceSize]
  · exact (List.takeWhile_sublist _).subset hx

theorem traceRecord_recording (hfit : fit → RecordsFit (polder s p)) {typ qb : Nat} {rounded : Bool} {op : Nat} {seq rid : Word}
    {set : Nat} {body : List Byte} {snap : Option Snap} (hbody : body.length ≤ 224) :
    Recording fit p s (traceRecord s p typ qb rounded op seq rid set body snap) := by
  unfold traceRecord
  dsimp only
  split
  next => exact .refl s
  next hentries =>
    refine .trans (modPolder_recording (modPolder_beside (.refl p s))) (flushRing_recording ?_ fun h => ?_)
    · rwa [polder_modPolder_self]
    · rw [polder_modPolder_self]
      refine List.forall_mem_append.mpr ⟨hfit h, List.forall_mem_singleton.mpr ?_⟩
      simp only [padTo, List.length_append, leBytes_length, zeros_length]
      omega

/-- A snapshot's generation and counters take 120 bytes of a record (R425). -/
theorem snapBody_length (s : State) (p : Fin 4) (set : Nat) : (snapBody s p set).length ≤ 120 := by
  simp only [snapBody, shownSet, List.length_append, leBytes_length, List.length_take, zeros_length]
  omega

theorem commandRecord_recording (hfit : fit → RecordsFit (polder s p)) (typ : Nat) (q : Fin 16) (e : Entry) {rest : List Byte}
    (hrest : rest.length ≤ 104) : Recording fit p s (commandRecord s p typ q e rest) := by
  have hbody := snapBody_length s p e.ctrSet.toNat
  exact traceRecord_recording hfit (by rw [List.length_append]; omega)

end Sys2Proof.Machine
end

section
/-! SUPPORT. What every ring row does at command start (R100, R245, R302-R305), and what of the statement on it holds: all of it where
each record that waits fits its place in the trace ring. -/

namespace Sys2Proof.Machine

variable {p : Fin 4} {q : Fin 16} {e : Entry} {s : State} {i : Instr} {c : Option Status} {op : Nat}

/-! ## The records that wait -/

theorem Carries.ringDue {P Q : Polder} (h : Carries P Q) : Q.ringDue = P.ringDue := by rw [h.1]

theorem readDesc_ringDue (s : State) (p : Fin 4) (e : Entry) : (polder (readDesc s p e) p).ringDue = (polder s p).ringDue := by
  unfold readDesc
  split
  · exact ((touch_moved (writes := false) (tiles := false) ..).carries p).ringDue
  · rfl

theorem toEdge_polders (s : State) (p : Fin 4) (k : Nat) : (toEdge s p k).polders = s.polders := by
  unfold toEdge tick
  dsimp only
  split_ifs <;> rfl

theorem takeSnap_ringDue (s : State) (p : Fin 4) (k : Nat) : (polder (takeSnap s p k) p).ringDue = (polder s p).ringDue := by
  have hedge : (polder (toEdge s p k) p).ringDue = (polder s p).ringDue := by rw [polder, toEdge_polders, polder]
  unfold takeSnap
  dsimp only
  split
  · exact hedge
  · refine Eq.trans ?_ hedge
    exact ((Moved.foldl (writes := false) (tiles := false) (fun _ _ => countTimed_moved ..) ..).carries p).ringDue

/-! ## The entry taken -/

/-- The state in which a valid entry is taken: its descriptor read, its start recorded, its request open. -/
def beforeTaking (s : State) (p : Fin 4) (q : Fin 16) (e : Entry) : State :=
  let t := takeSnap (readDesc s p e) p 2
  requestStart (if isMark true e then t else commandRecord t p 1 q e []) p e.reqId

theorem beforeTaking_recording (s : State) (p : Fin 4) (q : Fin 16) (e : Entry) :
    Recording (RecordsFit (polder s p)) p s (beforeTaking s p q e) := by
  have hread : Recording (RecordsFit (polder s p)) p s (takeSnap (readDesc s p e) p 2) :=
    (readDesc_recording ..).trans (takeSnap_recording ..)
  have hfit (h : RecordsFit (polder s p)) : RecordsFit (polder (takeSnap (readDesc s p e) p 2) p) := by
    rwa [RecordsFit, takeSnap_ringDue, readDesc_ringDue]
  have hrequest (t : State) : Recording (RecordsFit (polder s p)) p t (requestStart t p e.reqId) :=
    modPolder_recording (modPolder_beside (.refl p t))
  refine .trans ?_ (hrequest _)
  split
  · exact hread
  · exact hread.trans (commandRecord_recording hfit 1 q e (by decide))

theorem modPolder_congr {f g : Polder → Polder} (h : f (polder s p) = g (polder s p)) : modPolder s p f = modPolder s p g :=
  congrArg (fun P => { s with polders := s.polders.set p P }) h

theorem modPolder_modPolder (s : State) (p : Fin 4) (f g : Polder → Polder) :
    modPolder (modPolder s p f) p g = modPolder s p fun P => g (f P) := by
  simp only [modPolder, vmod, Vector.get_eq_getElem, Vector.getElem_set_self, Vector.set_set]

/-- The polder of a command start, with its entry taken and command x in flight. -/
def taking (q : Fin 16) (x : Cmd) (P : Polder) : Polder :=
  { P with queues := vmod P.queues q fun Q => { Q with taken := Q.taken + 1, waiting := none }, served := q, inflight := P.inflight ++ [x] }

theorem startCmd_eq (s : State) (p : Fin 4) (q : Fin 16) (e : Entry) : ∃ x : Cmd,
    startCmd s p q e = modPolder (beforeTaking s p q e) p (taking q x) ∧
      x.e = e ∧ x.q = q ∧ x.res = none ∧ x.step = (polder (beforeTaking s p q e) p).step :=
  ⟨_, (modPolder_modPolder ..).trans (modPolder_congr rfl), rfl, rfl, rfl, rfl⟩

theorem queues_taking (x : Cmd) (k : Fin 16) :
    (taking q x (polder s p)).queues.get k =
      if k = q then { queue s p q with taken := (queue s p q).taken + 1, waiting := none } else queue s p k := get_vmod ..

/-- What a command start moves from s to u (R100, R300, R304, R308, R424): it takes the entry, opens its request and puts the command
in flight; nothing else of the module, and of memory no more than the trace ring where each record that waits fits it. -/
structure Started (s : State) (p : Fin 4) (q : Fin 16) (e : Entry) (u : State) : Prop where
  queue : queue u p q = { queue s p q with taken := (queue s p q).taken + 1, waiting := none }
  served : (polder u p).served = q
  queues : ∀ p' q', (p', q') ≠ (p, q) → Machine.queue u p' q' = Machine.queue s p' q'
  inflight : ∃ x : Cmd, (polder u p).inflight = (polder s p).inflight ++ [x] ∧ x.e = e ∧ x.q = q ∧ x.res = none ∧
    x.step = (polder s p).step
  polders : ∀ p', p' ≠ p → polder u p' = polder s p'
  bytes : RecordsFit (polder s p) → ∀ a, OffTrace s p a → memByte u a = memByte s a
  eq : u = withStarted s u

theorem startCmd_started (s : State) (p : Fin 4) (q : Fin 16) (e : Entry) : Started s p q e (startCmd s p q e) := by
  have hread := beforeTaking_recording s p q e
  obtain ⟨x, hu, he, hq, hres, hstep⟩ := startCmd_eq s p q e
  have hself : polder (startCmd s p q e) p = taking q x (polder (beforeTaking s p q e) p) := by rw [hu, polder_modPolder_self]
  have hothers (p' : Fin 4) (hp : p' ≠ p) : polder (startCmd s p q e) p' = polder s p' := by
    rw [hu, polder_modPolder_ne _ _ hp, hread.beside.others p' hp]
  exact
    { queue := by rw [queue, hself, queues_taking, if_pos rfl, hread.beside.queue]
      served := by rw [hself]; rfl
      queues := fun p' q' hne => by
        by_cases hp : p' = p
        · subst hp
          have hq' : q' ≠ q := fun h => hne (by rw [h])
          rw [queue, hself, queues_taking, if_neg hq', hread.beside.queue]
        · rw [queue, hothers p' hp, queue]
      inflight := ⟨x, by rw [hself, taking, hread.beside.inflight], he, hq, hres, hstep.trans hread.step⟩
      polders := hothers
      bytes := fun hfit a ha => by rw [hu]; exact hread.bytes hfit a ha
      eq := by rw [hu]; exact congrArg (modPolder · p (taking q x)) hread.eq }

/-! ## The rows -/

section
variable {b : Byte} {checks : State → Option Status} {act : State → State}

theorem runEntry_of_not_head (h : headOk s p q e b = false) : runEntry s p q e b checks act = s := by
  simp [runEntry, startOk, h]

theorem runEntry_of_waiting (h : headOk s p q e b = true) (hwaits : mayStart s p q e = false) :
    runEntry s p q e b checks act = noteWaiting s p q e := by
  simp [runEntry, startOk, h, hwaits]

theorem runEntry_of_failed {st : Status} (h : startOk s p q e b = true) (hfails : checks s = some st) :
    runEntry s p q e b checks act = endCmd (startCmd s p q e) p q e.seq st := by
  simp only [runEntry, h, if_true, hfails]

end

/-- Every ring row is `runEntry` of its own opcode and checks. -/
theorem exec_ringRow (hrow : entryChecks s i = some (p, q, e, c)) (hop : i.ringOpcode = some (op, e)) :
    ∃ checks act, exec i s = .next (runEntry s p q e (BitVec.ofNat 8 op) checks act) ∧ checks s = c := by
  unfold entryChecks at hrow
  split at hrow <;> simp only [Option.some.injEq, Prod.mk.injEq, reduceCtorEq] at hrow
  all_goals
    obtain ⟨rfl, rfl, rfl, rfl⟩ := hrow
    simp only [Instr.ringOpcode, Option.some.injEq, Prod.mk.injEq, and_true] at hop
    obtain rfl := hop
    exact ⟨_, _, rfl, rfl⟩

/-- The statement on command start, clause by clause, where each record that waits fits its place in the trace ring (R424). -/
theorem ringRow_checked (hrow : entryChecks s i = some (p, q, e, c)) (hop : i.ringOpcode = some (op, e)) :
    (headOk s p q e (BitVec.ofNat 8 op) = false → exec i s = .next s) ∧
    (headOk s p q e (BitVec.ofNat 8 op) = true → mayStart s p q e = false → exec i s = .next (noteWaiting s p q e)) ∧
    (startOk s p q e (BitVec.ofNat 8 op) = true →
      (∀ st, c = some st → exec i s = .next (endCmd (startCmd s p q e) p q e.seq st)) ∧ Started s p q e (startCmd s p q e)) := by
  obtain ⟨checks, act, hexec, rfl⟩ := exec_ringRow hrow hop
  rw [hexec]
  exact ⟨fun hhead => congrArg Host.Outcome.next (runEntry_of_not_head hhead),
    fun hhead hwaits => congrArg Host.Outcome.next (runEntry_of_waiting hhead hwaits),
    fun hstart => ⟨fun st hfails => congrArg Host.Outcome.next (runEntry_of_failed hstart hfails), startCmd_started ..⟩⟩

/-- Nothing waits for the trace ring at reset. -/
theorem recordsFit_reset (p : Fin 4) : RecordsFit (polder State.reset p) := by
  have hreset : (polder State.reset p).ringDue = [] := by simp [polder, State.reset, Polder.reset, Vector.get_eq_getElem]
  rw [RecordsFit, hreset]
  exact List.forall_mem_nil _

end Sys2Proof.Machine
end

section
/-! SUPPORT. The statement on command start, refuted: it speaks of every state, and no hypothesis of it bounds a record that waits for
the trace ring. -/

namespace Sys2Proof.Machine

/-- A NOP, the first entry of its queue. -/
def firstNop : Entry :=
  { opcode := 0x13, flags := 0, comp := 0xFFEC, seq := 1, reqId := 0, ctrSet := 0, gaugeId := 0xFFFF, desc := 0, sigEv := 0xFFFF,
    waitEv := 0xFFFF, sigVal := 0, waitVal := 0, rsvd := 0, inl := 0 }

/-- A ready module with one polder open, its queue 0 running with an entry to take; a record of 257 bytes waits for the last
place of its trace ring of 16 MiB. -/
def overlongRecord : State :=
  { State.reset with
    boot := .ready, layout := .whole,
    polders := State.reset.polders.set 0
      { Polder.reset with
        st := .opened, traceSize := 2 ^ 24, traceWritten := 65519,
        queues := Polder.reset.queues.set 0 { Queue.reset with st := .running, depth := 1, tail := 1 },
        ringDue := [{ bytes := zeros 256 ++ [1], snap := none }] } }

theorem startOk_overlongRecord : startOk overlongRecord 0 0 firstNop 0x13 = true := by decide +kernel

/-- The first byte after the trace ring, before the start and after it. -/
theorem pastTrace_overlongRecord :
    traceBase (firstDie overlongRecord 0) + (polder overlongRecord 0).traceSize = traceBase 0 + 2 ^ 24 ∧
      memByte overlongRecord (traceBase 0 + 2 ^ 24) = 0 ∧
      memByte (startCmd overlongRecord 0 0 firstNop) (traceBase 0 + 2 ^ 24) = 1 := by decide +kernel

/-- Refutes O36: a command start writes the records that wait for the trace ring, and nothing in the statement says that such a record
has the 256 bytes of R424. Against it stands a NOP in a state where one of 257 bytes waits for the last place of the ring: the first
byte after the ring is 1 after the start and was 0. Its other clauses hold of every state, and this one where each record that waits
fits its place: `ringRow_checked`. -/
theorem not_commandStartChecksBeforeItActs : ¬ Obligations.CommandStartChecksBeforeItActs := by
  unfold Obligations.CommandStartChecksBeforeItActs
  intro h
  obtain ⟨-, -, hstarted⟩ := h (.nop 0 0 firstNop) overlongRecord 0 0 firstNop none 0x13 rfl rfl
  obtain ⟨-, -, -, -, -, -, hmem, -⟩ := hstarted startOk_overlongRecord
  obtain ⟨hend, hbefore, hafter⟩ := pastTrace_overlongRecord
  have hsame := hmem (traceBase 0 + 2 ^ 24) (.inr hend.le)
  rw [hafter, hbefore] at hsame
  exact absurd hsame (by decide)

end Sys2Proof.Machine
end

section
/-! SUPPORT. The machine keeps its invariant (R132, R312): every row of `exec` answers with a sound next state, and so does
the idle tick. -/

namespace Sys2Proof.Machine

variable {s₀ s t : State}

/-! ## The last instruction of a program -/

theorem doEnd_keeps (hs : Sound s₀ s) {c : Fin 256} {w : DWord} : (doEnd s c w).Keeps s₀ := by
  have hended : Sound s₀ (modVe s c fun V => { V with mode := .ended }) := modVe_sound hs fun _ h => h
  unfold doEnd
  dsimp only
  split
  · exact trapOf_keeps
  split
  · exact trapOf_keeps
  split
  · exact trapOf_keeps
  split
  · split
    · exact commitBlock_sound hs
    · exact hs
  · split
    · exact trapOf_keeps
    · exact launchEnded_sound hended

/-! ## Every row -/

/-- Every command answers with a next state, and a sound one. -/
theorem exec_sound (s : State) : ∀ i, ∃ t, exec i s = .next t ∧ Sound s t
  | .veNop .. => ⟨_, rfl, veRow_sound (.refl s) fun _ _ _ h => doVeNop_keeps h⟩
  | .veEnd .. => ⟨_, rfl, veRow_sound (.refl s) fun _ _ _ h => doEnd_keeps h⟩
  | .bra .. => ⟨_, rfl, veRow_sound (.refl s) fun _ _ _ h => doBra_keeps h⟩
  | .veLoop .. => ⟨_, rfl, veRow_sound (.refl s) fun _ _ _ h => doLoop_keeps h⟩
  | .smovi .. => ⟨_, rfl, veRow_sound (.refl s) fun _ _ _ h => doSmovi_keeps h⟩
  | .salu .. => ⟨_, rfl, veRow_sound (.refl s) fun _ _ _ h => doSalu_keeps h⟩
  | .salui .. => ⟨_, rfl, veRow_sound (.refl s) fun _ _ _ h => doSalui_keeps h⟩
  | .sfalu .. => ⟨_, rfl, veRow_sound (.refl s) fun _ _ _ h => doSfalu_keeps h⟩
  | .amovi .. => ⟨_, rfl, veRow_sound (.refl s) fun _ _ _ h => doAmovi_keeps h⟩
  | .aaddi .. => ⟨_, rfl, veRow_sound (.refl s) fun _ _ _ h => doAaddi_keeps h⟩
  | .aadds .. => ⟨_, rfl, veRow_sound (.refl s) fun _ _ _ h => doAadds_keeps h⟩
  | .vext .. => ⟨_, rfl, veRow_sound (.refl s) fun _ _ _ h => doVext_keeps h⟩
  | .rdsr .. => ⟨_, rfl, veRow_sound (.refl s) fun _ _ _ h => doRdsr_keeps h⟩
  | .fadd .. | .fsub .. | .fmul .. | .fmin .. | .fmax .. | .iadd .. | .isub .. | .imul .. | .imin .. | .imax .. | .fscl .. =>
    ⟨_, rfl, veRow_sound (.refl s) fun _ _ _ h => op2_keeps h⟩
  | .ffma .. | .imad .. => ⟨_, rfl, veRow_sound (.refl s) fun _ _ _ h => op3_keeps h⟩
  | .fcmp .. | .icmp .. => ⟨_, rfl, veRow_sound (.refl s) fun _ _ _ h => compareOp_keeps h⟩
  | .vsel .. => ⟨_, rfl, veRow_sound (.refl s) fun _ _ _ h => doVsel_keeps h⟩
  | .plog .. => ⟨_, rfl, veRow_sound (.refl s) fun _ _ _ h => doPlog_keeps h⟩
  | .ilog .. | .ishf .. => ⟨_, rfl, veRow_sound (.refl s) fun _ _ _ h => laneModOp_keeps h⟩
  | .vmovi .. => ⟨_, rfl, veRow_sound (.refl s) fun _ _ _ h => doVmovi_keeps h⟩
  | .vmov .. | .vperm .. => ⟨_, rfl, veRow_sound (.refl s) fun _ _ _ h => laneOp_keeps h⟩
  | .frcp .. | .frsq .. | .fexp2 .. | .flog2 .. | .ftanh .. | .fsigm .. | .i2f .. =>
    ⟨_, rfl, veRow_sound (.refl s) fun _ _ _ h => op1_keeps h⟩
  | .cvtf .. => ⟨_, rfl, veRow_sound (.refl s) fun _ _ _ h => doCvtf_keeps h⟩
  | .cvtt .. => ⟨_, rfl, veRow_sound (.refl s) fun _ _ _ h => doCvtt_keeps h⟩
  | .cvtsr .. => ⟨_, rfl, veRow_sound (.refl s) fun _ _ _ h => doCvtsr_keeps h⟩
  | .f2i .. => ⟨_, rfl, veRow_sound (.refl s) fun _ _ _ h => doF2i_keeps h⟩
  | .rsum .. | .rmax .. | .rmin .. | .risum .. => ⟨_, rfl, veRow_sound (.refl s) fun _ _ _ h => reduceOp_keeps h⟩
  | .vrot .. => ⟨_, rfl, veRow_sound (.refl s) fun _ _ _ h => doVrot_keeps h⟩
  | .vbcl .. => ⟨_, rfl, veRow_sound (.refl s) fun _ _ _ h => doVbcl_keeps h⟩
  | .gfeed .. => ⟨_, rfl, veRow_sound (.refl s) fun _ _ _ h => doGfeed_keeps h⟩
  | .lbar .. => ⟨_, rfl, veRow_sound (.refl s) fun _ _ _ h => doLbar_keeps h⟩
  | .lred .. => ⟨_, rfl, veRow_sound (.refl s) fun _ _ _ h => doLred_keeps h⟩
  | .ld .. | .ldx .. => ⟨_, rfl, veRow_sound (.refl s) fun _ _ _ h => loadWith_keeps h⟩
  | .st .. | .stx .. => ⟨_, rfl, veRow_sound (.refl s) fun _ _ _ h => storeWith_keeps h⟩
  | .ldscl .. => ⟨_, rfl, veRow_sound (.refl s) fun _ _ _ h => doLdscl_keeps h⟩
  | .stscl .. => ⟨_, rfl, veRow_sound (.refl s) fun _ _ _ h => doStscl_keeps h⟩
  | .mm .. => ⟨_, rfl, doMm_sound (.refl s)⟩
  | .vk .. => ⟨_, rfl, doVk_sound (.refl s)⟩
  | .move .. => ⟨_, rfl, doMove_sound (.refl s)⟩
  | .fill .. => ⟨_, rfl, doFill_sound (.refl s)⟩
  | .crc .. => ⟨_, rfl, doCrc_sound (.refl s)⟩
  | .bucketAdd .. => ⟨_, rfl, doBucketAdd_sound (.refl s)⟩
  | .reduce .. => ⟨_, rfl, doReduce_sound (.refl s)⟩
  | .gather .. => ⟨_, rfl, doGather_sound (.refl s)⟩
  | .scatter .. => ⟨_, rfl, doScatter_sound (.refl s)⟩
  | .update .. => ⟨_, rfl, doUpdate_sound (.refl s)⟩
  | .stepCmd .. => ⟨_, rfl, doStepCmd_sound (.refl s)⟩
  | .stateSave .. => ⟨_, rfl, doStateSave_sound (.refl s)⟩
  | .stateLoad .. => ⟨_, rfl, doStateLoad_sound (.refl s)⟩
  | .replayCheck .. => ⟨_, rfl, doReplayCheck_sound (.refl s)⟩
  | .mark .. => ⟨_, rfl, doMark_sound (.refl s)⟩
  | .eventSignal .. => ⟨_, rfl, doEventSignal_sound (.refl s)⟩
  | .eventWait .. => ⟨_, rfl, doEventWait_sound (.refl s)⟩
  | .barrier .. => ⟨_, rfl, doBarrier_sound (.refl s)⟩
  | .nop .. => ⟨_, rfl, doNop_sound (.refl s)⟩
  | .invalidOpcodeEntry .. => ⟨_, rfl, doInvalidOpcodeEntry_sound (.refl s)⟩
  | .stepFenceReached .. => ⟨_, rfl, doStepFenceReached_sound (.refl s)⟩
  | .stateSaveFenceReached .. => ⟨_, rfl, doStateSaveFenceReached_sound (.refl s)⟩
  | .stateLoadFenceReached .. => ⟨_, rfl, doStateLoadFenceReached_sound (.refl s)⟩
  | .mmClusterStart .. => ⟨_, rfl, doMmClusterStart_sound (.refl s)⟩
  | .dequeRefill .. => ⟨_, rfl, doDequeRefill_sound (.refl s)⟩
  | .tileSteal .. => ⟨_, rfl, doTileSteal_sound (.refl s)⟩
  | .subtileDrain .. => ⟨_, rfl, doSubtileDrain_sound (.refl s)⟩
  | .splitkCombine .. => ⟨_, rfl, doSplitkCombine_sound (.refl s)⟩
  | .veRangeStart .. => ⟨_, rfl, doVeRangeStart_sound (.refl s)⟩
  | .updateBlock .. => ⟨_, rfl, doUpdateBlock_sound (.refl s)⟩
  | .commandCompletion .. => ⟨_, rfl, doCommandCompletion_sound (.refl s)⟩
  | .lbarRelease .. => ⟨_, rfl, doLbarRelease_sound (.refl s)⟩
  | .modInfo => ⟨_, rfl, doModInfo_sound (.refl s)⟩
  | .polderCreate => ⟨_, rfl, doPolderCreate_sound (.refl s)⟩
  | .polderDestroy => ⟨_, rfl, doPolderDestroy_sound (.refl s)⟩
  | .fwWriteQuery => ⟨_, rfl, doFwWriteQuery_sound (.refl s)⟩
  | .fwWriteBegin => ⟨_, rfl, doFwWriteBegin_sound (.refl s)⟩
  | .fwWriteData => ⟨_, rfl, doFwWriteData_sound (.refl s)⟩
  | .fwWriteCommit => ⟨_, rfl, doFwWriteCommit_sound (.refl s)⟩
  | .fwWriteAbort => ⟨_, rfl, doFwWriteAbort_sound (.refl s)⟩
  | .fwProgrammingDone .. => ⟨_, rfl, doFwProgrammingDone_sound (.refl s)⟩
  | .fwRecoverBegin => ⟨_, rfl, doFwRecoverBegin_sound (.refl s)⟩
  | .fwRecoverData => ⟨_, rfl, doFwRecoverData_sound (.refl s)⟩
  | .fwRecoverCommit => ⟨_, rfl, doFwRecoverCommit_sound (.refl s)⟩
  | .spareReportSummary => ⟨_, rfl, doSpareReportSummary_sound (.refl s)⟩
  | .spareReportRepair => ⟨_, rfl, doSpareReportRepair_sound (.refl s)⟩
  | .spareReportMarginTest => ⟨_, rfl, doSpareReportMarginTest_sound (.refl s)⟩
  | .powerCapSet => ⟨_, rfl, doPowerCapSet_sound (.refl s)⟩
  | .meterConfigSetRing => ⟨_, rfl, doMeterConfigSetRing_sound (.refl s)⟩
  | .meterConfigRelease => ⟨_, rfl, doMeterConfigRelease_sound (.refl s)⟩
  | .meterConfigSetParameters => ⟨_, rfl, doMeterConfigSetParameters_sound (.refl s)⟩
  | .meterConfigReadStatement => ⟨_, rfl, doMeterConfigReadStatement_sound (.refl s)⟩
  | .counterClear => ⟨_, rfl, doCounterClear_sound (.refl s)⟩
  | .debugUnlockChallenge => ⟨_, rfl, doDebugUnlockChallenge_sound (.refl s)⟩
  | .debugUnlockUnlock => ⟨_, rfl, doDebugUnlockUnlock_sound (.refl s)⟩
  | .openPolder .. => ⟨_, rfl, doOpenPolder_sound (.refl s)⟩
  | .closePolder .. => ⟨_, rfl, doClosePolder_sound (.refl s)⟩
  | .keyLoad .. => ⟨_, rfl, doKeyLoad_sound (.refl s)⟩
  | .queueCreate .. => ⟨_, rfl, doQueueCreate_sound (.refl s)⟩
  | .queueDestroy .. => ⟨_, rfl, doQueueDestroy_sound (.refl s)⟩
  | .queueRemoved .. => ⟨_, rfl, doQueueRemoved_sound (.refl s)⟩
  | .attestGetReport .. => ⟨_, rfl, doAttestGetReport_sound (.refl s)⟩
  | .attestGetChain .. => ⟨_, rfl, doAttestGetChain_sound (.refl s)⟩
  | .gaugeConfigRing .. => ⟨_, rfl, doGaugeConfigRing_sound (.refl s)⟩
  | .gaugeConfigEntries .. => ⟨_, rfl, doGaugeConfigEntries_sound (.refl s)⟩
  | .govConfigLog .. => ⟨_, rfl, doGovConfigLog_sound (.refl s)⟩
  | .govConfigEntries .. => ⟨_, rfl, doGovConfigEntries_sound (.refl s)⟩
  | .groupConfig .. => ⟨_, rfl, doGroupConfig_sound (.refl s)⟩
  | .schedConfig .. => ⟨_, rfl, doSchedConfig_sound (.refl s)⟩
  | .dumpReadStatus .. => ⟨_, rfl, doDumpReadStatus_sound (.refl s)⟩
  | .dumpReadCopy .. => ⟨_, rfl, doDumpReadCopy_sound (.refl s)⟩
  | .dumpReadCapture .. => ⟨_, rfl, doDumpReadCapture_sound (.refl s)⟩
  | .dumpReadRelease .. => ⟨_, rfl, doDumpReadRelease_sound (.refl s)⟩
  | .dumpReadLiveCounters .. => ⟨_, rfl, doDumpReadLiveCounters_sound (.refl s)⟩
  | .eventRead .. => ⟨_, rfl, doEventRead_sound (.refl s)⟩
  | .meterReadStatement .. => ⟨_, rfl, doMeterReadStatement_sound (.refl s)⟩
  | .meterReadCertificate .. => ⟨_, rfl, doMeterReadCertificate_sound (.refl s)⟩
  | .meterReadStatus .. => ⟨_, rfl, doMeterReadStatus_sound (.refl s)⟩
  | .unknownMessageType .. => ⟨_, rfl, doUnknownMessageType_sound (.refl s)⟩
  | .sqTailWrite .. => ⟨_, rfl, doSqTailWrite_sound (.refl s)⟩
  | .cqHeadWrite .. => ⟨_, rfl, doCqHeadWrite_sound (.refl s)⟩
  | .timeLoRead .. => ⟨_, rfl, doTimeLoRead_sound (.refl s)⟩
  | .winCommit .. => ⟨_, rfl, doWinCommit_sound (.refl s)⟩
  | .bar2Read .. => ⟨_, rfl, doBar2Read_sound (.refl s)⟩
  | .bar2Write .. => ⟨_, rfl, doBar2Write_sound (.refl s)⟩
  | .cvuStart .. => ⟨_, rfl, doCvuStart_sound (.refl s)⟩
  | .cvuFinish .. => ⟨_, rfl, doCvuFinish_sound (.refl s)⟩
  | .cvuData8 .. => ⟨_, rfl, cvuData_sound (.refl s)⟩
  | .cvuData16 .. => ⟨_, rfl, cvuData_sound (.refl s)⟩
  | .cvuData32 .. => ⟨_, rfl, cvuData_sound (.refl s)⟩
  | .registerWrite .. => ⟨_, rfl, doRegisterWrite_sound (.refl s)⟩
  | .powerGood => ⟨_, rfl, doPowerGood_sound (.refl s)⟩
  | .siteTrainingDone .. => ⟨_, rfl, doSiteTrainingDone_sound (.refl s)⟩
  | .portBringupDone .. => ⟨_, rfl, doPortBringupDone_sound (.refl s)⟩
  | .release => ⟨_, rfl, doRelease_sound (.refl s)⟩
  | .identityDerivationDone => ⟨_, rfl, doIdentityDerivationDone_sound (.refl s)⟩
  | .meterKeyDerivationDone => ⟨_, rfl, doMeterKeyDerivationDone_sound (.refl s)⟩
  | .configSlotRewrite => ⟨_, rfl, doConfigSlotRewrite_sound (.refl s)⟩
  | .perstAssert => ⟨_, rfl, doPerstAssert_sound (.refl s)⟩
  | .perstDeassert .. => ⟨_, rfl, doPerstDeassert_sound (.refl s)⟩
  | .pf0Reset => ⟨_, rfl, doPf0Reset_sound (.refl s)⟩
  | .vfReset .. => ⟨_, rfl, doVfReset_sound (.refl s)⟩
  | .inputLoss => ⟨_, rfl, doInputLoss_sound (.refl s)⟩
  | .pwrbrkAssert => ⟨_, rfl, doPwrbrkAssert_sound (.refl s)⟩
  | .pwrbrkDeassert => ⟨_, rfl, doPwrbrkDeassert_sound (.refl s)⟩
  | .refclkLoss => ⟨_, rfl, doRefclkLoss_sound (.refl s)⟩
  | .mrefLoss => ⟨_, rfl, doMrefLoss_sound (.refl s)⟩
  | .smbBootProgress => ⟨_, rfl, doSmbBootProgress_sound (.refl s)⟩
  | .smbModuleState => ⟨_, rfl, doSmbModuleState_sound (.refl s)⟩
  | .smbInputPower => ⟨_, rfl, doSmbInputPower_sound (.refl s)⟩
  | .smbPowerLimit => ⟨_, rfl, doSmbPowerLimit_sound (.refl s)⟩
  | .smbSerial => ⟨_, rfl, doSmbSerial_sound (.refl s)⟩
  | .smbFwVersion => ⟨_, rfl, doSmbFwVersion_sound (.refl s)⟩
  | .smbLifecycle => ⟨_, rfl, doSmbLifecycle_sound (.refl s)⟩
  | .smbTemperatures => ⟨_, rfl, doSmbTemperatures_sound (.refl s)⟩
  | .smbAlertCause => ⟨_, rfl, doSmbAlertCause_sound (.refl s)⟩
  | .smbAlertResponse => ⟨_, rfl, doSmbAlertResponse_sound (.refl s)⟩
  | .flitReceived .. => ⟨_, rfl, doFlitReceived_sound (.refl s)⟩
  | .replayRequestReceived .. => ⟨_, rfl, doReplayRequestReceived_sound (.refl s)⟩
  | .replayTimeout .. => ⟨_, rfl, doReplayTimeout_sound (.refl s)⟩
  | .portRetrainTimeout .. => ⟨_, rfl, doPortRetrainTimeout_sound (.refl s)⟩
  | .laneErrorWindow .. => ⟨_, rfl, doLaneErrorWindow_sound (.refl s)⟩
  | .writeDataReceived .. => ⟨_, rfl, doWriteDataReceived_sound (.refl s)⟩
  | .writeDoneReceived .. => ⟨_, rfl, doWriteDoneReceived_sound (.refl s)⟩
  | .collectiveDataReceived .. => ⟨_, rfl, doCollectiveDataReceived_sound (.refl s)⟩
  | .managementMessageReceived .. => ⟨_, rfl, doManagementMessageReceived_sound (.refl s)⟩
  | .leveeArriveReceived .. => ⟨_, rfl, doLeveeArriveReceived_sound (.refl s)⟩
  | .leveeReleaseReceived .. => ⟨_, rfl, doLeveeReleaseReceived_sound (.refl s)⟩
  | .faultTokenReceived .. => ⟨_, rfl, doFaultTokenReceived_sound (.refl s)⟩
  | .creditTokenReceived .. => ⟨_, rfl, doCreditTokenReceived_sound (.refl s)⟩
  | .timeTokenSend => ⟨_, rfl, doTimeTokenSend_sound (.refl s)⟩
  | .timeTokenReceived .. => ⟨_, rfl, doTimeTokenReceived_sound (.refl s)⟩
  | .timeSlewTick => ⟨_, rfl, doTimeSlewTick_sound (.refl s)⟩
  | .barrierTimeout .. => ⟨_, rfl, doBarrierTimeout_sound (.refl s)⟩
  | .reduceTimeout .. => ⟨_, rfl, doReduceTimeout_sound (.refl s)⟩
  | .eventWaitTimeout .. => ⟨_, rfl, doEventWaitTimeout_sound (.refl s)⟩
  | .watchdogExpiry .. => ⟨_, rfl, doWatchdogExpiry_sound (.refl s)⟩
  | .hangDeclared .. => ⟨_, rfl, doHangDeclared_sound (.refl s)⟩
  | .cqCoalesceTimeout .. => ⟨_, rfl, doCqCoalesceTimeout_sound (.refl s)⟩
  | .queueLinkError .. => ⟨_, rfl, doQueueLinkError_sound (.refl s)⟩
  | .faultDetected .. => ⟨_, rfl, doFaultDetected_sound (.refl s)⟩
  | .discardRecordPost .. => ⟨_, rfl, doDiscardRecordPost_sound (.refl s)⟩
  | .repairDone .. => ⟨_, rfl, doRepairDone_sound (.refl s)⟩
  | .keeperHeartbeat .. => ⟨_, rfl, doKeeperHeartbeat_sound (.refl s)⟩
  | .spareMapScan => ⟨_, rfl, doSpareMapScan_sound (.refl s)⟩
  | .trimScan => ⟨_, rfl, doTrimScan_sound (.refl s)⟩
  | .marginTestAutoStart .. => ⟨_, rfl, doMarginTestAutoStart_sound (.refl s)⟩
  | .marginTestDone .. => ⟨_, rfl, doMarginTestDone_sound (.refl s)⟩
  | .scrub .. => ⟨_, rfl, doScrub_sound (.refl s)⟩
  | .mr4Poll .. => ⟨_, rfl, doMr4Poll_sound (.refl s)⟩
  | .refresh .. => ⟨_, rfl, doRefresh_sound (.refl s)⟩
  | .zqCalibration .. => ⟨_, rfl, doZqCalibration_sound (.refl s)⟩
  | .wckDriftTrack .. => ⟨_, rfl, doWckDriftTrack_sound (.refl s)⟩
  | .channelPowerDown .. => ⟨_, rfl, doChannelPowerDown_sound (.refl s)⟩
  | .siteSelfRefresh .. => ⟨_, rfl, doSiteSelfRefresh_sound (.refl s)⟩
  | .imbalanceWindow .. => ⟨_, rfl, doImbalanceWindow_sound (.refl s)⟩
  | .meterSample .. => ⟨_, rfl, doMeterSample_sound (.refl s)⟩
  | .activityEstimate .. => ⟨_, rfl, doActivityEstimate_sound (.refl s)⟩
  | .governorEval => ⟨_, rfl, doGovernorEval_sound (.refl s)⟩
  | .thermalSample .. => ⟨_, rfl, doThermalSample_sound (.refl s)⟩
  | .requestClose .. => ⟨_, rfl, doRequestClose_sound (.refl s)⟩
  | .meterBatchClose .. => ⟨_, rfl, doMeterBatchClose_sound (.refl s)⟩
  | .meterRecordDeliver .. => ⟨_, rfl, doMeterRecordDeliver_sound (.refl s)⟩

/-! ## The step -/

/-- The queue of commands is no part of the invariant. -/
theorem State.Inv.withPending (h : s.Inv) (xs : List Instr) : State.Inv { s with pending := xs } :=
  ⟨h.mem, h.undef, h.hostMem, h.p0, h.events⟩

/-- Time and the check-value units are no part of the invariant. -/
theorem State.Inv.tick (h : s.Inv) : (Machine.tick s).Inv := by
  unfold Machine.tick
  split
  · exact ⟨h.mem, h.undef, h.hostMem, h.p0, h.events⟩
  · exact h

/-- Settles O4: what every command does at most (`Sound`), row by row, and the idle tick. -/
theorem everyStepKeepsTheInvariant : Obligations.EveryStepKeepsTheInvariant := by
  unfold Obligations.EveryStepKeepsTheInvariant
  intro s t hinv hstep
  unfold step at hstep
  split at hstep
  case _ i rest _ =>
    obtain ⟨u, hexec, hsound⟩ := exec_sound { s with pending := rest } i
    cases hexec.symm.trans hstep
    exact hsound.inv (hinv.withPending rest)
  case _ =>
    cases hstep
    exact hinv.tick

/-! ## The state after reset -/

/-- Settles O5: the memories and the event queues are empty, and every engine is as `Ve.reset` leaves it. -/
theorem resetMeetsTheInvariant : Obligations.ResetMeetsTheInvariant := by
  unfold Obligations.ResetMeetsTheInvariant
  refine ⟨reset_mem_wf.1, reset_undef_wf, reset_mem_wf.2, fun c => ?_, fun f => ?_⟩
  · have hve : ve State.reset c = Ve.reset := by simp [ve, cluster, State.reset, Cluster.reset, Vector.get_eq_getElem]
    rw [hve]
    exact Ve.reset_p0
  · have hfunc : func State.reset f = Func.reset := by simp [func, State.reset, Vector.get_eq_getElem]
    rw [hfunc]
    exact Nat.zero_le 1024

end Sys2Proof.Machine
end

section
/-! SUPPORT. The rows of the vector engine by what they write (R134-R139, R147): each lane, scalar, compare and reduction row is one
instruction that changes registers only, and raises cause 0x01 where its encoding is reserved. -/

namespace Sys2Proof.Machine

variable {i : Instr} {s : State} {c : Fin 256} {op : Nat} {p : Fin 4} {q : Fin 16} {n : Word} {w : DWord}

/-! ## What an instruction that changes registers only makes of an encoding -/

theorem veOnly_illegal {legal : Ve → DWord → Bool} (f : Ve → DWord → Ve) (h : legal (ve s c) w = false) :
    veOnly legal f s c w = trapOf 0x01 := by
  simp [veOnly, h]

/-- Two instructions agree that have the same legal encodings and do the same where legal. -/
theorem veOnly_congr {legal legal' : DWord → Bool} {f g : Ve → DWord → Ve} (hlegal : ∀ w, legal w = legal' w)
    (hdoes : ∀ V w, legal' w = true → f V w = g V w) : veOnly (fun _ => legal) f = veOnly (fun _ => legal') g := by
  obtain rfl : legal = legal' := funext hlegal
  funext s c w
  unfold veOnly
  split
  next hw => rw [modVe_const s c fun V => f V w, hdoes _ w hw, ← modVe_const s c fun V => g V w]
  next => rfl

/-! ## Lane rows -/

/-- The instruction that computes each lane of v[d]. -/
def laneAct (legal : DWord → Bool) (f : Ve → DWord → Fin 64 → Word) : VeOp :=
  veOnly (fun _ => legal) fun V w => setLanes V w (fD w) (f V w)

theorem doImin_eq : doImin = laneAct formB fun V w i =>
    if (srcA V w i).toInt < (srcB V w i).toInt then srcA V w i else srcB V w i :=
  veOnly_congr (fun _ => rfl) fun V w _ => by simp only [BitVec.slt_eq_decide, decide_eq_true_eq]

theorem doImax_eq : doImax = laneAct formB fun V w i =>
    if (srcA V w i).toInt < (srcB V w i).toInt then srcB V w i else srcA V w i :=
  veOnly_congr (fun _ => rfl) fun V w _ => by simp only [BitVec.slt_eq_decide, decide_eq_true_eq]

theorem ilogOp_isSome (k : Nat) : (ilogOp k).isSome = decide (k < 4) := by
  match k with
  | 0 | 1 | 2 | 3 => rfl
  | k + 4 => simp [ilogOp]

theorem ishfOp_isSome (k : Nat) : (ishfOp k).isSome = decide (k < 3) := by
  match k with
  | 0 | 1 | 2 => rfl
  | k + 3 => simp [ishfOp]

/-- The words that ilog and ishf make, by mod (R137). -/
def ilogWord (k : Nat) (a b : Word) : Word :=
  if k = 0 then a &&& b else if k = 1 then a ||| b else if k = 2 then a ^^^ b else a &&& ~~~b

def ishfWord (k : Nat) (a b : Word) : Word :=
  if k = 0 then a <<< (b.toNat % 32) else if k = 1 then a >>> (b.toNat % 32) else a.sshiftRight (b.toNat % 32)

theorem ilogOp_getD {k : Nat} (hk : k < 4) (d : Word → Word → Word) : (ilogOp k).getD d = ilogWord k := by
  match k with
  | 0 | 1 | 2 | 3 => rfl

theorem ishfOp_getD {k : Nat} (hk : k < 3) (d : Word → Word → Word) : (ishfOp k).getD d = ishfWord k := by
  match k with
  | 0 | 1 | 2 => rfl

/-- An instruction chosen by mod: its legal values, and what each makes of two lanes. -/
theorem laneModOp_eq {g : Nat → Option (Word → Word → Word)} {bound : Nat} {f : Nat → Word → Word → Word}
    (hsome : ∀ k, (g k).isSome = decide (k < bound)) (hget : ∀ k < bound, ∀ d, (g k).getD d = f k) :
    laneModOp g = laneAct (fun w => formB w && decide (fMod w < bound)) fun V w i => f (fMod w) (srcA V w i) (srcB V w i) :=
  veOnly_congr (fun w => by rw [hsome]) fun V w hw => by
    have hlt : fMod w < bound := of_decide_eq_true (Bool.and_eq_true_iff.1 hw).2
    simp only [hget _ hlt]

theorem doIlog_eq : doIlog = laneAct (fun w => formB w && decide (fMod w < 4)) fun V w i =>
    ilogWord (fMod w) (srcA V w i) (srcB V w i) := laneModOp_eq ilogOp_isSome fun _ hk => ilogOp_getD hk

theorem doIshf_eq : doIshf = laneAct (fun w => formB w && decide (fMod w < 3)) fun V w i =>
    ishfWord (fMod w) (srcA V w i) (srcB V w i) := laneModOp_eq ishfOp_isSome fun _ hk => ishfOp_getD hk

/-- A lane row is the lane instruction that `laneRow` says it is. -/
theorem laneRow_exec {legal : DWord → Bool} {f : Ve → DWord → Fin 64 → Word} (h : laneRow i = some (c, op, legal, f)) (s : State) :
    ∃ act, exec i s = .next (veRow op anyWord act c s) ∧ act = laneAct legal f := by
  cases i
  case imin => cases h; exact ⟨_, rfl, doImin_eq⟩
  case imax => cases h; exact ⟨_, rfl, doImax_eq⟩
  case ilog => cases h; exact ⟨_, rfl, doIlog_eq⟩
  case ishf => cases h; exact ⟨_, rfl, doIshf_eq⟩
  all_goals cases h
  all_goals exact ⟨_, rfl, rfl⟩

/-- Settles O7: a lane row changes registers only (`veOnly_next`), and those are the active lanes of v[d]. -/
theorem laneInstructionsWriteActiveLanes : Obligations.LaneInstructionsWriteActiveLanes := by
  unfold Obligations.LaneInstructionsWriteActiveLanes
  intro i s c op legal f p q n hrow hr hlegal hnext
  obtain ⟨act, hexec, rfl⟩ := laneRow_exec hrow s
  exact ⟨_, hexec, veOnly_next hr rfl hlegal (fun _ _ => rfl) (fun _ _ => rfl) (fun _ _ => rfl) (fun _ _ => rfl) hnext⟩

/-! ## Scalar rows -/

/-- The instruction that writes one scalar register, where its operation has a result. -/
def scalarAct (legal : DWord → Bool) (f : State → Fin 256 → DWord → Option Word) : VeOp := fun s c w =>
  if scalarD w && legal w then putScalar s c w (f s c w) else trapOf 0x01

theorem scalarRow_exec {legal : DWord → Bool} {f : State → Fin 256 → DWord → Option Word}
    (h : scalarRow i = some (c, op, legal, f)) (s : State) :
    ∃ act, exec i s = .next (veRow op anyWord act c s) ∧ act = scalarAct legal f := by
  cases i
  case smovi => cases h; exact ⟨_, rfl, by funext s c w; simp only [doSmovi, scalarAct, Bool.and_true]⟩
  case salu => cases h; exact ⟨_, rfl, by funext s c w; simp only [doSalu, scalarAct, Bool.and_assoc]⟩
  case sfalu => cases h; exact ⟨_, rfl, by funext s c w; simp only [doSfalu, scalarAct, Bool.and_assoc]⟩
  all_goals cases h
  all_goals exact ⟨_, rfl, rfl⟩

theorem scalarAct_result {legal : DWord → Bool} {f : State → Fin 256 → DWord → Option Word} {x : Word} (hplain : plain w = true)
    (hlegal : legal w = true) (hd : fD w < 16) (hx : f s c w = some x) :
    scalarAct legal f s c w = goOn (modVe s c fun _ => setSreg (ve s c) (fD w) x) c := by
  simp only [scalarAct, scalarD, hplain, hlegal, hd, decide_true, Bool.and_self, if_true, putScalar, hx]
  rw [modVe_const]

theorem scalarAct_reserved {legal : DWord → Bool} {f : State → Fin 256 → DWord → Option Word}
    (h : legal w = false ∨ plain w = false ∨ 16 ≤ fD w ∨ f s c w = none) : scalarAct legal f s c w = trapOf 0x01 := by
  unfold scalarAct
  split
  next hok =>
    simp only [scalarD, Bool.and_eq_true, decide_eq_true_eq] at hok
    obtain ⟨⟨hplain, hd⟩, hlegal⟩ := hok
    have hnone : f s c w = none := by
      simp only [hlegal, hplain, Bool.true_eq_false, false_or] at h
      exact h.resolve_left (Nat.not_le.2 hd)
    rw [hnone, putScalar]
  next => rfl

/-- Settles O9: a scalar row writes its result, and an address row is one instruction that changes a[d] only. -/
theorem scalarAndAddressInstructionsWriteOneRegister : Obligations.ScalarAndAddressInstructionsWriteOneRegister := by
  unfold Obligations.ScalarAndAddressInstructionsWriteOneRegister
  intro i s c op legal f p q n x w hw hplain hnext
  subst hw
  refine ⟨fun hrow hr hlegal hd hx => ?_, fun hd => ⟨fun hr hmod => ?_, fun hr hmod ha => ?_, fun hr hform ha hb hmod => ?_⟩⟩
  · obtain ⟨act, hexec, rfl⟩ := scalarRow_exec hrow s
    exact ⟨_, hexec, veRow_next hr rfl (scalarAct_result hplain hlegal hd hx) rfl rfl rfl rfl hnext⟩
  · exact ⟨_, rfl, veOnly_next hr (by simp [hmod]) (by simp [hplain, hmod, hd]) (fun _ _ => rfl) (fun _ _ => rfl)
      (fun _ _ => rfl) (fun _ _ => rfl) hnext⟩
  · exact ⟨_, rfl, veOnly_next hr (by simp [hmod]) (by simp [hplain, hmod, hd, ha]) (fun _ _ => rfl) (fun _ _ => rfl)
      (fun _ _ => rfl) (fun _ _ => rfl) hnext⟩
  · exact ⟨_, rfl, veOnly_next hr rfl (by simp [hplain, hform, hmod, hd, ha, hb]) (fun _ _ => rfl) (fun _ _ => rfl)
      (fun _ _ => rfl) (fun _ _ => rfl) hnext⟩

/-! ## Compares and plog -/

theorem getLsbD_one_shiftLeft (i k : Fin 64) : (1#64 <<< i.val).getLsbD k.val = (k == i) := by
  have hk : k.val < 64 := k.isLt
  rw [BitVec.getLsbD_shiftLeft, BitVec.getLsbD_one, Bool.eq_iff_iff]
  simp only [Bool.and_eq_true, decide_eq_true_eq, Bool.not_eq_true', decide_eq_false_iff_not, beq_iff_eq, Fin.ext_iff]
  omega

/-- Bit k of a mask after lane i. -/
theorem getLsbD_maskLane (f : Fin 64 → Bool) (m : DWord) (i k : Fin 64) :
    (if f i then m ||| (1#64 <<< i.val) else m).getLsbD k.val = (m.getLsbD k.val || ((k == i) && f k)) := by
  have hswap : ((k == i) && f k) = (f i && (k == i)) := by
    by_cases hki : k = i
    · rw [hki, Bool.and_comm]
    · simp only [beq_false_of_ne hki, Bool.false_and, Bool.and_false]
  rw [hswap]
  cases f i with
  | false => simp only [Bool.false_eq_true, if_false, Bool.false_and, Bool.or_false]
  | true => rw [if_pos rfl, BitVec.getLsbD_or, getLsbD_one_shiftLeft, Bool.true_and]

theorem getLsbD_foldl_mask (f : Fin 64 → Bool) (k : Fin 64) (ls : List (Fin 64)) (m : DWord) :
    (ls.foldl (fun m i => if f i then m ||| (1#64 <<< i.val) else m) m).getLsbD k.val =
      (m.getLsbD k.val || (ls.contains k && f k)) := by
  induction ls generalizing m with
  | nil => simp
  | cons i ls ih =>
    rw [List.foldl_cons, ih, getLsbD_maskLane, List.contains_cons, Bool.and_or_distrib_right, Bool.or_assoc]

theorem getLsbD_laneMask (f : Fin 64 → Bool) (k : Fin 64) : (laneMask f).getLsbD k.val = f k := by
  rw [laneMask, getLsbD_foldl_mask]
  simp

/-- The instruction that writes p[d], d from 1, from a comparison of each lane. -/
def predAct (legal : DWord → Bool) (f : Ve → DWord → Fin 64 → Bool) : VeOp :=
  veOnly (fun _ w => legal w && decide (1 ≤ fD w) && decide (fD w < 8)) fun V w => setPred V (fD w) (laneMask (f V w))

/-- The comparison of icmp by mod (R137). -/
def icmpBit (k : Nat) (a b : Word) : Bool :=
  let lt (x y : Word) : Bool := if 8 ≤ k then decide (x.toNat < y.toNat) else decide (x.toInt < y.toInt)
  if k % 8 = 0 then a == b else if k % 8 = 1 then a != b else if k % 8 = 2 then lt a b else if k % 8 = 3 then !lt b a
  else if k % 8 = 4 then lt b a else !lt a b

theorem fcmpOp_isSome (k : Nat) : (fcmpOp k).isSome = decide (k ≤ 6) := by
  match k with
  | 0 | 1 | 2 | 3 | 4 | 5 | 6 => rfl
  | k + 7 => simp [fcmpOp]

theorem icmpOp_isSome (k : Nat) : (if k < 16 then icmpOp k else none).isSome = (decide (k < 16) && decide (k % 8 ≤ 5)) := by
  by_cases hk : k < 16
  · simp only [hk, if_true, decide_true, Bool.true_and, icmpOp]
    have hlt : k % 8 < 8 := Nat.mod_lt _ (by decide)
    generalize k % 8 = m at hlt
    match m, hlt with
    | 0, _ | 1, _ | 2, _ | 3, _ | 4, _ | 5, _ | 6, _ | 7, _ => rfl
  · simp [hk]

theorem icmpOp_getD {k : Nat} (hk : k % 8 ≤ 5) (d : Word → Word → Bool) : (icmpOp k).getD d = icmpBit k := by
  funext a b
  simp only [icmpOp, icmpBit, BitVec.ult_eq_decide, BitVec.slt_eq_decide]
  generalize k % 8 = m at hk
  match m, hk with
  | 0, _ | 1, _ | 2, _ | 3, _ | 4, _ | 5, _ => rfl

theorem compareOp_eq {g : Nat → Option (Word → Word → Bool)} {legal : Nat → Bool} {f : Nat → Word → Word → Bool}
    (hsome : ∀ k, (g k).isSome = legal k) (hget : ∀ k, legal k = true → (g k).getD (fun _ _ => false) = f k) :
    compareOp g = predAct (fun w => formB w && legal (fMod w))
      fun V w i => active V w i && f (fMod w) (srcA V w i) (srcB V w i) :=
  veOnly_congr (fun w => by rw [hsome]) fun V w hw => by
    simp only [Bool.and_eq_true] at hw
    obtain ⟨⟨⟨-, hmod⟩, -⟩, -⟩ := hw
    rw [hget _ hmod]

theorem doFcmp_eq : doFcmp = predAct (fun w => formB w && decide (fMod w ≤ 6)) fun V w i =>
    active V w i && ((fcmpOp (fMod w)).getD fun _ _ => false) (srcA V w i) (srcB V w i) :=
  compareOp_eq (legal := fun k => decide (k ≤ 6)) (f := fun k => (fcmpOp k).getD fun _ _ => false) fcmpOp_isSome fun _ _ => rfl

theorem doIcmp_eq : doIcmp = predAct (fun w => formB w && (decide (fMod w < 16) && decide (fMod w % 8 ≤ 5))) fun V w i =>
    active V w i && icmpBit (fMod w) (srcA V w i) (srcB V w i) :=
  compareOp_eq (legal := fun k => decide (k < 16) && decide (k % 8 ≤ 5)) (f := icmpBit) icmpOp_isSome fun k hk => by
    simp only [Bool.and_eq_true, decide_eq_true_eq] at hk
    rw [if_pos hk.1, icmpOp_getD hk.2]

theorem predRow_exec {legal : DWord → Bool} {f : Ve → DWord → Fin 64 → Bool} (h : predRow i = some (c, op, legal, f)) (s : State) :
    ∃ act, exec i s = .next (veRow op anyWord act c s) ∧ act = predAct legal f := by
  cases i
  case icmp => cases h; exact ⟨_, rfl, by simp only [doIcmp_eq, ← Bool.and_assoc]; rfl⟩
  case fcmp => cases h; exact ⟨_, rfl, doFcmp_eq⟩
  all_goals cases h

/-- plog by its modifier is the model's `plogOp` where that has a result. -/
theorem plogOp_getD {k : Nat} (hk : k ≤ 4) (a b d : DWord) : (plogOp k a b).getD d = plogBits k a b := by
  match k, hk with
  | 0, _ | 1, _ | 2, _ | 3, _ | 4, _ => rfl

/-- Settles O10: a compare writes the mask of its lanes' comparisons, plog its 64 bits, and both change registers only. -/
theorem comparesWriteOnePredicate : Obligations.ComparesWriteOnePredicate := by
  unfold Obligations.ComparesWriteOnePredicate
  intro s c p q n w hw hd1 hd8 hnext
  subst hw
  have hd1 : 1 ≤ fD (wordAt (ve s c)) := hd1
  refine ⟨fun i op legal f hrow hr hlegal => ?_, fun hr hform hbsel hmod ha hb => ?_⟩
  · obtain ⟨act, hexec, rfl⟩ := predRow_exec hrow s
    exact ⟨_, _, hexec, getLsbD_laneMask _, veOnly_next hr rfl (by simp [hlegal, hd1, hd8]) (fun _ _ => rfl) (fun _ _ => rfl)
      (fun _ _ => rfl) (fun _ _ => rfl) hnext⟩
  · refine ⟨_, rfl, ?_⟩
    rw [← plogOp_getD hmod _ _ 0]
    exact veOnly_next hr rfl (by simp [hform, hbsel, hmod, hd1, hd8, ha, hb]) (fun _ _ => rfl) (fun _ _ => rfl) (fun _ _ => rfl)
      (fun _ _ => rfl) hnext

/-! ## Reductions (R147) -/

theorem treeLevel_range (f : Word → Word → Word) (x : Nat → Word) (n : Nat) :
    treeLevel f ((List.range (2 * n)).map x) = (List.range n).map fun i => f (x (2 * i)) (x (2 * i + 1)) := by
  induction n generalizing x with
  | zero => rfl
  | succ n ih =>
    have hpairs := ih fun i => x (i + 2)
    rw [Nat.mul_succ, List.range_succ_eq_map, List.range_succ_eq_map, List.range_succ_eq_map]
    simp only [List.map_cons, List.map_map, treeLevel]
    exact congrArg _ hpairs

/-- The levels of the tree that are left, from level j on. -/
theorem treeCombine_range (f : Word → Word → Word) (x : Nat → Word) (k j : Nat) :
    treeCombine f k ((List.range (2 ^ k)).map (laneTree f x j)) = [laneTree f x (j + k) 0] := by
  induction k generalizing j with
  | zero => rfl
  | succ k ih =>
    rw [Nat.pow_succ', treeCombine, treeLevel_range]
    exact (ih (j + 1)).trans (by rw [Nat.add_right_comm, Nat.add_assoc])

/-- The tree over 64 lanes is `laneTree`. -/
theorem treeLeaves_headD (f : Word → Word → Word) (V : Ve) (w : DWord) (x d : Word) :
    (treeCombine f 6 (treeLeaves V w x)).headD d =
      laneTree f (fun k => if active V w (fin64 k) then srcA V w (fin64 k) else x) 6 0 := by
  have hlanes : List.finRange 64 = (List.range (2 ^ 6)).map fin64 := by decide
  rw [treeLeaves, hlanes, List.map_map]
  exact congrArg (List.headD · d) (treeCombine_range f (fun k => if active V w (fin64 k) then srcA V w (fin64 k) else x) 6 0)

/-- A reduction row is the reduction that `reduceRow` says it is. -/
theorem reduceRow_exec {f : Word → Word → Word} {x : Word} (h : reduceRow i = some (c, op, f, x)) (s : State) :
    exec i s = .next (veRow op anyWord (reduceOp f x) c s) := by
  cases i
  all_goals cases h
  all_goals rfl

/-- Settles O11: a reduction changes s[d] only, to what the tree makes of its leaves. -/
theorem reductionsCombineInAFixedTree : Obligations.ReductionsCombineInAFixedTree := by
  unfold Obligations.ReductionsCombineInAFixedTree
  intro i s c op f x p q n hrow hr hform hd hnext
  refine ⟨_, reduceRow_exec hrow s, ?_⟩
  rw [← treeLeaves_headD f _ _ x x]
  exact veOnly_next hr rfl (by simp [hform, hd]) (fun _ _ => rfl) (fun _ _ => rfl) (fun _ _ => rfl) (fun _ _ => rfl) hnext

/-! ## Reserved encodings -/

/-- What each kind of row answers to a reserved encoding. -/
theorem laneAct_reserved {legal : DWord → Bool} (f : Ve → DWord → Fin 64 → Word) (h : legal w = false) :
    laneAct legal f s c w = trapOf 0x01 := veOnly_illegal _ h

theorem predAct_reserved {legal : DWord → Bool} (f : Ve → DWord → Fin 64 → Bool) (h : legal w = false ∨ fD w = 0 ∨ 8 ≤ fD w) :
    predAct legal f s c w = trapOf 0x01 := by
  refine veOnly_illegal _ ?_
  rcases h with h | h | h <;> simp [h]

theorem reduceOp_reserved (f : Word → Word → Word) (x : Word) (h : formR w = false ∨ 16 ≤ fD w) :
    reduceOp f x s c w = trapOf 0x01 := by
  refine veOnly_illegal _ ?_
  rcases h with h | h <;> simp [h]

/-- Settles O8: each kind of row answers a reserved encoding with `trapOf`. -/
theorem reservedVectorEncodingsRaiseCauseOne : Obligations.ReservedVectorEncodingsRaiseCauseOne := by
  unfold Obligations.ReservedVectorEncodingsRaiseCauseOne
  intro i s c op p q n hr hreserved
  have htrap {act : VeOp} (hexec : exec i s = .next (veRow op anyWord act c s)) (hact : act s c (wordAt (ve s c)) = trapOf 0x01) :
      exec i s = .next (veTrap s p q n c 0x01 (pcOf s c) (wordAt (ve s c)) (BitVec.allOnes 64) 0) :=
    hexec.trans (congrArg _ (veRow_trap hr rfl hact))
  rcases hreserved with ⟨legal, f, hrow, h⟩ | ⟨legal, f, hrow, h⟩ | ⟨legal, f, hrow, h⟩ | ⟨f, x, hrow, h⟩
  · obtain ⟨act, hexec, rfl⟩ := laneRow_exec hrow s
    exact htrap hexec (laneAct_reserved f h)
  · obtain ⟨act, hexec, rfl⟩ := scalarRow_exec hrow s
    exact htrap hexec (scalarAct_reserved h)
  · obtain ⟨act, hexec, rfl⟩ := predRow_exec hrow s
    exact htrap hexec (predAct_reserved f h)
  · exact htrap (reduceRow_exec hrow s) (reduceOp_reserved f x h)

end Sys2Proof.Machine
end

section
/-! SUPPORT. Control of a program (R151): where the fetch goes after an instruction, at a branch, at a loop and at the end of a
loop's body. -/

namespace Sys2Proof.Machine

variable {s : State} {c : Fin 256} {p : Fin 4} {q : Fin 16} {n : Word} {w : DWord}

/-! ## Vectors by index -/

theorem vector_get_set_self {α : Type} {m : Nat} (xs : Vector α m) (i : Fin m) (x : α) : (xs.set i x).get i = x := by
  simp [Vector.get_eq_getElem]

theorem vector_get_set_ne {α : Type} {m : Nat} (xs : Vector α m) {i j : Fin m} (x : α) (h : j ≠ i) :
    (xs.set i x).get j = xs.get j := by
  have hval : ¬ i.val = j.val := fun e => h (Fin.ext e.symm)
  simp [Vector.get_eq_getElem, hval]

theorem other_ne (i : Fin 2) : 1 - i ≠ i := by
  match i with
  | 0 | 1 => decide

/-! ## Updates of the engine that change nothing -/

theorem modVe_ve (s : State) (c : Fin 256) : modVe s c (fun _ => ve s c) = s := by
  have hset : s.clusters.set c (s.clusters.get c) = s.clusters := by simp [Vector.get_eq_getElem]
  exact congrArg (fun C => { s with clusters := C }) hset

/-! ## The end of a loop's body -/

variable {V : Ve} {i : Fin 2} {last : Nat}

theorem loopEdge_none (o : Option Nat) (h : V.loops.get i = none) : loopEdge i last (V, o) = (V, o) := by
  cases o <;> simp [loopEdge, h]

theorem loopEdge_beside {first l : Nat} (o : Option Nat) (h : V.loops.get i = some (first, l)) (hl : l ≠ last) :
    loopEdge i last (V, o) = (V, o) := by
  cases o <;> simp [loopEdge, h, hl]

theorem loopEdge_again {first : Nat} (h : V.loops.get i = some (first, last)) (hcount : 1 < (V.lc.get i).toNat) :
    loopEdge i last (V, none) = ({ V with lc := vmod V.lc i (· - 1) }, some first) := by
  simp [loopEdge, h, hcount]

theorem loopEdge_over {first : Nat} (h : V.loops.get i = some (first, last)) (hcount : (V.lc.get i).toNat ≤ 1) :
    loopEdge i last (V, none) = ({ V with lc := V.lc.set i 0, loops := V.loops.set i none }, none) := by
  simp [loopEdge, h, Nat.not_lt.2 hcount]

/-- An instruction at which neither loop's body ends. -/
theorem passed_inside (h : ∀ j, V.loops.get j = none ∨ ∃ first l, V.loops.get j = some (first, l) ∧ l ≠ last) :
    passed V last = (V, last + 1) := by
  have hedge (j : Fin 2) (o : Option Nat) : loopEdge j last (V, o) = (V, o) := by
    rcases h j with hnone | ⟨first, l, hsome, hl⟩
    · exact loopEdge_none o hnone
    · exact loopEdge_beside o hsome hl
  simp only [passed, hedge, Option.getD_none]

/-- With one loop active, its edge is all there is. -/
theorem passed_one (h : V.loops.get (1 - i) = none) (hkeeps : (loopEdge i last (V, none)).1.loops.get (1 - i) = none) :
    passed V last = ((loopEdge i last (V, none)).1, (loopEdge i last (V, none)).2.getD (last + 1)) := by
  have hinner : innerLoop V = 0 := by
    match i, h with
    | 0, h => simp only [innerLoop, show V.loops.get 1 = none from h]; split <;> simp_all
    | 1, h => simp only [innerLoop, show V.loops.get 0 = none from h]
  simp only [passed, hinner]
  match i, h, hkeeps with
  | 0, h, hkeeps => rw [show loopEdge (1 - 0) last (loopEdge 0 last (V, none)) = loopEdge 0 last (V, none) from
      loopEdge_none _ hkeeps]
  | 1, h, hkeeps => rw [show loopEdge 0 last (V, none) = (V, none) from loopEdge_none _ h]; rfl

/-! ## The fetch -/

/-- A fetch changes the engine's program counter and loop state only. -/
theorem flowed_frame (V : Ve) (f : Flow) : (flowed V f).1 = { V with lc := (flowed V f).1.lc, loops := (flowed V f).1.loops } := by
  have hleave (t : Nat) (i : Fin 2) (V : Ve) :
      leaveLoop t i V = { V with lc := (leaveLoop t i V).lc, loops := (leaveLoop t i V).loops } := by
    unfold leaveLoop
    repeat' split
    all_goals rfl
  cases f with
  | hold => rfl
  | past last => exact congrArg Prod.fst (passed_with V V last V.lc V.loops)
  | jump t =>
    simp only [flowed]
    rw [hleave t 1, hleave t 0]

/-- The engine with its next instruction at pc. -/
def atPc (V : Ve) (pc : Nat) : Ve := { V with pc := BitVec.ofNat 12 pc }

@[simp] theorem atPc_pc (V : Ve) (pc : Nat) : (atPc V pc).pc = BitVec.ofNat 12 pc := rfl

theorem atPc_pc_toNat {pc : Nat} (V : Ve) (h : pc < 4096) : (atPc V pc).pc.toNat = pc := by
  rw [atPc_pc, BitVec.toNat_ofNat]
  exact Nat.mod_eq_of_lt h

/-- A fetch inside the program. -/
theorem fetchAt_inside {f : Flow} {pc : Nat} (hpc : (flowed (ve s c) f).2 = some pc) (h : pc < (ve s c).prog.length) :
    fetchAt s p q n c f = modVe s c fun _ => atPc (flowed (ve s c) f).1 pc := by
  have hprog : pc < (flowed (ve s c) f).1.prog.length := by rw [flowed_frame]; exact h
  unfold fetchAt
  split
  next hnone => rw [hnone] at hpc; cases hpc
  next W k hk =>
    rw [hk] at hpc hprog ⊢
    cases hpc
    rw [if_pos hprog]
    rfl

theorem fetchAt_veNext {f : Flow} {pc : Nat} (hpc : (flowed (ve s c) f).2 = some pc) (h : pc < (ve s c).prog.length) :
    VeNext s (fetchAt s p q n c f) c (ve s c) :=
  ⟨(flowed (ve s c) f).1.lc, (flowed (ve s c) f).1.loops, BitVec.ofNat 12 pc, by
    rw [fetchAt_inside hpc h, flowed_frame, atPc]⟩

/-- A row that goes on along `f`. -/
theorem veRow_flow {op : Nat} {act : VeOp} {t : State} {f : Flow} (hr : Runs s c op p q n)
    (ha : act s c (wordAt (ve s c)) = .ok t f) : veRow op anyWord act c s = fetchAt t p q n c f := by
  simp only [veRow, hr.1, hr.2, anyWord, and_self, if_true, ha]

/-! ## nop, bra and loop -/

theorem doVeNop_eq (h : plain w = true) : doVeNop s c w = .ok s (.past (pcOf s c)) := by
  simp only [doVeNop, h, if_true, goOn]

theorem doBra_untaken (h : plain w = true) (hcond : braCond (ve s c) w = some false) :
    doBra s c w = .ok s (.past (pcOf s c)) := by
  simp [doBra, h, hcond, goOn]

theorem doBra_taken (h : plain w = true) (hcond : braCond (ve s c) w = some true) {k : Nat}
    (hk : (k : Int) = (pcOf s c : Int) + (fImm w).toInt) (hlt : k < (ve s c).prog.length) :
    doBra s c w = .ok s (.jump k) := by
  simp [doBra, h, hcond, ← hk, hlt]

theorem doBra_beyond (h : plain w = true) (hcond : braCond (ve s c) w = some true)
    (hout : (pcOf s c : Int) + (fImm w).toInt < 0 ∨ ((ve s c).prog.length : Int) ≤ (pcOf s c : Int) + (fImm w).toInt) :
    doBra s c w = trapOf 0x04 := by
  have hnot : ¬ (0 ≤ (pcOf s c : Int) + (fImm w).toInt ∧ (pcOf s c : Int) + (fImm w).toInt < (ve s c).prog.length) := by omega
  simp only [doBra, h, hcond, Bool.not_true, Bool.false_eq_true, if_false, if_neg hnot]

/-- The engine at the start of a loop's body. -/
def startLoop (V : Ve) (i : Fin 2) (count : Word) (first last : Nat) : Ve :=
  { V with lc := V.lc.set i count, loops := V.loops.set i (some (first, last)) }

/-- A legal loop's selector names its counter and where its count comes from (R137). -/
theorem doLoop_eq {count : Word} (h : plain w = true)
    (hsel : iMod w = i.val ∧ count = fImm w >>> 16 ∨ iMod w = i.val + 2 ∧ fA w < 16 ∧ count = (ve s c).sreg.get (fin16 (fA w))) :
    doLoop s c w =
      if loopBad (ve s c) i ((fImm w).toNat % 65536) (pcOf s c + 1) (pcOf s c + (fImm w).toNat % 65536) then trapOf 0x07
      else if count = 0 then .ok s (.past (pcOf s c + (fImm w).toNat % 65536))
      else goOn (modVe s c fun V =>
        startLoop V i count (pcOf s c + 1) (pcOf s c + (fImm w).toNat % 65536)) c := by
  have hi := i.isLt
  have hcounter : fin2 (iMod w) = i := Fin.ext (by simp only [fin2, ofNatFin]; omega)
  have hlegal : ¬ (!plain w || decide (4 ≤ iMod w) || (decide (2 ≤ iMod w) && decide (16 ≤ fA w))) = true := by
    simp only [h, Bool.not_true, Bool.false_or, Bool.or_eq_true, Bool.and_eq_true, decide_eq_true_eq]
    omega
  have hcount : (if iMod w / 2 = 1 then sregOf (ve s c) (fA w) else fImm w >>> 16) = count := by
    rcases hsel with ⟨hmod, rfl⟩ | ⟨hmod, -, rfl⟩
    · rw [if_neg (by omega)]
    · rw [if_pos (by omega)]; rfl
  unfold doLoop
  simp only [if_neg hlegal, hcounter, hcount]
  rfl

/-- What the rules of R151 say of a loop that keeps them. -/
theorem loopBad_false {len first last : Nat} (h : loopBad V i len first last = false) :
    0 < len ∧ last < V.prog.length ∧ ∀ f l, V.loops.get (1 - i) = some (f, l) → last ≤ l := by
  simp only [loopBad, Bool.or_eq_false_iff, beq_eq_false_iff_ne, decide_eq_false_iff_not] at h
  obtain ⟨⟨⟨⟨-, hlen⟩, hlast⟩, hother⟩, -⟩ := h
  refine ⟨Nat.pos_of_ne_zero hlen, Nat.not_le.1 hlast, fun f l hl => ?_⟩
  rw [hl] at hother
  exact Nat.not_lt.1 (of_decide_eq_false hother)

/-- The first instruction of a started loop's body is inside the program, and no loop ends before it. -/
theorem passed_started {count : Word} {pc len : Nat} (h : loopBad V i len (pc + 1) (pc + len) = false) :
    passed (startLoop V i count (pc + 1) (pc + len)) pc = (startLoop V i count (pc + 1) (pc + len), pc + 1) := by
  obtain ⟨hlen, -, hother⟩ := loopBad_false h
  refine passed_inside fun j => ?_
  by_cases hj : j = i
  · subst hj
    exact .inr ⟨_, _, vector_get_set_self .., by omega⟩
  · have hj' : j = 1 - i := by omega
    subst hj'
    simp only [startLoop, vector_get_set_ne _ _ (other_ne i)]
    cases hloop : V.loops.get (1 - i) with
    | none => exact .inl rfl
    | some x => exact .inr ⟨x.1, x.2, rfl, by have := hother x.1 x.2 hloop; omega⟩

theorem passed_veNext {last : Nat} (h : (passed (ve s c) last).2 < (ve s c).prog.length) :
    VeNext s (fetchAt s p q n c (.past last)) c (ve s c) := fetchAt_veNext rfl h

/-- A loop with a count starts its body, whatever the loop beside it. -/
theorem loop_starts {count : Word} {len : Nat} (hr : Runs s c 0x03 p q n)
    (hgood : loopBad (ve s c) i len (pcOf s c + 1) (pcOf s c + len) = false)
    (hdo : doLoop s c (wordAt (ve s c)) =
      goOn (modVe s c fun V => startLoop V i count (pcOf s c + 1) (pcOf s c + len)) c) :
    exec (.veLoop c) s = .next (modVe s c fun _ =>
      atPc (startLoop (ve s c) i count (pcOf s c + 1) (pcOf s c + len)) (pcOf s c + 1)) := by
  obtain ⟨hlen, hlast, -⟩ := loopBad_false hgood
  have hflow := passed_started (V := ve s c) (count := count) hgood
  rw [modVe_const] at hdo
  generalize hW : startLoop (ve s c) i count (pcOf s c + 1) (pcOf s c + len) = W at hflow hdo ⊢
  have hpc : pcOf (modVe s c fun _ => W) c = pcOf s c := by rw [pcOf, ve_modVe_self, ← hW]; rfl
  have hlt : pcOf s c + 1 < W.prog.length := by rw [← hW]; exact Nat.lt_of_le_of_lt (by omega) hlast
  rw [goOn, hpc] at hdo
  refine congrArg _ ((veRow_flow hr hdo).trans ?_)
  rw [fetchAt_inside (pc := pcOf s c + 1)]
  · simp only [ve_modVe_self, flowed, hflow, modVe_modVe]
  · simp only [ve_modVe_self, flowed, hflow]
  · rwa [ve_modVe_self]

/-! ## The statement -/

section Rows
variable (hplain : plain (wordAt (ve s c)) = true)
include hplain

theorem nop_next (hr : Runs s c 0x00 p q n) (hnext : NextIn s c) : ∃ t, exec (.veNop c) s = .next t ∧ VeNext s t c (ve s c) :=
  ⟨_, rfl, veRow_flow hr (doVeNop_eq hplain) ▸ passed_veNext hnext⟩

theorem bra_untaken_next (hr : Runs s c 0x02 p q n) (hcond : braCond (ve s c) (wordAt (ve s c)) = some false)
    (hnext : NextIn s c) : ∃ t, exec (.bra c) s = .next t ∧ VeNext s t c (ve s c) :=
  ⟨_, rfl, veRow_flow hr (doBra_untaken hplain hcond) ▸ passed_veNext hnext⟩

theorem bra_taken_next (hr : Runs s c 0x02 p q n) (hcond : braCond (ve s c) (wordAt (ve s c)) = some true) {k : Nat}
    (hk : (k : Int) = (pcOf s c : Int) + (fImm (wordAt (ve s c))).toInt) (hlt : k < (ve s c).prog.length) :
    ∃ t, exec (.bra c) s = .next t ∧ VeNext s t c (ve s c) ∧ (ve t c).pc = BitVec.ofNat 12 k := by
  have hrow := veRow_flow hr (doBra_taken hplain hcond hk hlt)
  refine ⟨_, rfl, hrow ▸ fetchAt_veNext rfl hlt, ?_⟩
  rw [hrow, fetchAt_inside rfl hlt, ve_modVe_self, atPc_pc]

theorem nop_passed {V : Ve} {pc : Nat} (hr : Runs s c 0x00 p q n) (hpassed : passed (ve s c) (pcOf s c) = (V, pc))
    (hlt : pc < (ve s c).prog.length) :
    exec (.veNop c) s = .next (modVe s c fun _ => atPc V pc) := by
  have hflow : flowed (ve s c) (.past (pcOf s c)) = (V, some pc) := by simp only [flowed, hpassed]
  have hfetch : fetchAt s p q n c (.past (pcOf s c)) = modVe s c fun _ => atPc V pc := by
    rw [fetchAt_inside (congrArg Prod.snd hflow) hlt, hflow]
  exact congrArg _ ((veRow_flow hr (doVeNop_eq hplain)).trans hfetch)

end Rows

/-- Settles O12: each row by where its fetch goes. -/
theorem controlInstructionsFollowTheProgram : Obligations.ControlInstructionsFollowTheProgram := by
  unfold Obligations.ControlInstructionsFollowTheProgram
  constructor
  · intro s c p q n w hw hplain
    subst hw
    refine ⟨nop_next hplain, bra_untaken_next hplain, fun hr hcond k hk hlt => bra_taken_next hplain hr hcond hk hlt,
      fun hr hcond hout => ?_, fun i count len hr hlen hsel => ?_⟩
    · exact congrArg _ (veRow_trap hr rfl (doBra_beyond hplain hcond hout))
    · have hdo := doLoop_eq hplain hsel
      rw [← hlen] at hdo
      refine ⟨fun hbad => ?_, fun hgood hzero hlt => ?_, fun hgood hcount => ?_⟩
      · rw [if_pos hbad] at hdo
        exact congrArg _ (veRow_trap hr rfl hdo)
      · rw [if_neg (by simp [hgood]), if_pos hzero] at hdo
        exact ⟨_, rfl, veRow_flow hr hdo ▸ passed_veNext hlt⟩
      · rw [if_neg (by simp [hgood]), if_neg hcount] at hdo
        refine ⟨_, loop_starts hr hgood hdo, ⟨_, _, _, rfl⟩, ?_, ?_⟩
        · rw [ve_modVe_self]; exact vector_get_set_self ..
        · rw [ve_modVe_self]; exact vector_get_set_self ..
  · intro s c p q n i first hr hplain hloop hother hfirst hnext hprog
    by_cases hcount : 1 < ((ve s c).lc.get i).toNat
    · have hedge := loopEdge_again hloop hcount
      have hpassed := passed_one hother (by rw [hedge]; exact hother)
      simp only [hedge, Option.getD_some] at hpassed
      refine ⟨_, nop_passed hplain hr hpassed (by omega), fun _ => ?_, fun h => absurd hcount (Nat.not_lt.2 h)⟩
      rw [ve_modVe_self]
      exact ⟨atPc_pc_toNat _ (by omega), get_vmod_self .., rfl⟩
    · have hedge := loopEdge_over hloop (Nat.not_lt.1 hcount)
      have hpassed := passed_one hother (by rw [hedge]; exact (vector_get_set_ne _ _ (other_ne i)).trans hother)
      simp only [hedge, Option.getD_none] at hpassed
      refine ⟨_, nop_passed hplain hr hpassed hnext, fun h => absurd h hcount, fun _ => ?_⟩
      rw [ve_modVe_self]
      exact ⟨atPc_pc_toNat _ (by omega), vector_get_set_self .., vector_get_set_self ..⟩

end Sys2Proof.Machine
end

section
/-! SUPPORT. gfeed (R148, R164): the contribution of its command, and the gauges that it may name. -/

namespace Sys2Proof.Machine

variable {s : State} {c : Fin 256} {p : Fin 4} {q : Fin 16} {n : Word} {w : DWord}

/-- A gfeed of a legal encoding is decided by its gauge alone. -/
theorem doGfeed_eq {fmt id : Nat} (hmod : iMod w < 32) (himm : (fImm w).toNat < 65536) (hfmt : fmt = iMod w % 16)
    (hid : id = (fImm w).toNat) (hle : fmt ≤ 0xA) (hcb4 : fmt ≠ 2) (hint : fmt ≠ 0xA) {cmd : Cmd}
    (hrun : runningFor s c = some (p, q, n)) (hcmd : cmdAt s p q n = some cmd) :
    doGfeed s c w =
      if id = 0xFFFF then goOn s c
      else match gaugeOf (seenBy (polder s p) cmd) id with
        | none => trapOf 0x09
        | some g => goOn (modCmd s p q n (withFeed (ve s c) w g.ladder fmt id)) c := by
  obtain ⟨i, k, howner⟩ := owner_of_runningFor hrun
  have hlegal : ¬ (decide (32 ≤ iMod w) || decide (65536 ≤ (fImm w).toNat) || decide (0xA < iMod w % 16)) = true := by
    simp only [Bool.or_eq_true, decide_eq_true_eq]
    omega
  have hformat : ¬ (iMod w % 16 = 2 ∨ iMod w % 16 = 0xA) := by omega
  have hgauge : (fImm w).toNat % 65536 = id := by omega
  subst hfmt
  unfold doGfeed
  simp only [if_neg hlegal, if_neg hformat, hgauge, howner, hcmd, Option.bind_some]
  rfl

/-- Settles O14: by the gauge that the instruction names. -/
theorem gfeedFeedsTheCommandsContribution : Obligations.GfeedFeedsTheCommandsContribution := by
  unfold Obligations.GfeedFeedsTheCommandsContribution
  intro s c p q n w fmt id cmd hw hcmd hr hmod himm hfmt hid hle hcb4 hint
  subst hw
  have hdo := doGfeed_eq hmod himm hfmt hid hle hcb4 hint hr.1 hcmd
  refine ⟨fun hno hnext => ?_, fun hgauge hunknown => ?_, fun g hgauge hknown hnext => ?_⟩
  · rw [if_pos hno] at hdo
    refine ⟨_, rfl, veRow_next hr rfl ?_ rfl rfl rfl rfl hnext⟩
    rw [modVe_ve, hdo]
  · rw [if_neg hgauge, hunknown] at hdo
    exact congrArg _ (veRow_trap hr rfl hdo)
  · rw [if_neg hgauge, hknown] at hdo
    refine ⟨_, rfl, veRow_next_from (u := modCmd s p q n (withFeed (ve s c) (wordAt (ve s c)) g.ladder fmt id)) rfl hr ?_ rfl hnext⟩
    exact hdo.trans (congrArg (goOn · c) (modVe_ve _ c).symm)

end Sys2Proof.Machine
end

section
/-! SUPPORT. Loads of the vector engine (R143-R145): what a load notes, the element that serves a lane, and the lanes that a
load writes. -/

namespace Sys2Proof.Machine

variable {s u : State} {c : Fin 256} {p : Fin 4} {q : Fin 16} {n : Word} {w : DWord}

/-! ## A row that leaves more than its engine -/

/-- A row that first leaves the state u, whose engine stands where it stood, and then changes registers and goes on. -/
theorem veRow_next_at {op : Nat} {act : VeOp} {V : Ve} (hr : Runs s c op p q n)
    (ha : act s c (wordAt (ve s c)) = goOn (modVe u c fun _ => V) c) (hpc : V.pc = (ve u c).pc) (hlc : V.lc = (ve u c).lc)
    (hloops : V.loops = (ve u c).loops) (hprog : V.prog = (ve u c).prog) (h : NextIn u c) :
    VeNext u (veRow op anyWord act c s) c V := by
  have hpcOf : pcOf (modVe u c fun _ => V) c = pcOf u c := by rw [pcOf, ve_modVe_self, hpc, pcOf]
  have hrow : veRow op anyWord act c s = fetchAt (modVe u c fun _ => V) p q n c (.past (pcOf u c)) := by
    simp only [veRow, hr.1, hr.2, anyWord, and_self, if_true, ha, goOn, hpcOf]
  exact ⟨_, _, _, hrow.trans (fetchAt_in hlc hloops hprog h)⟩

/-- The engine stands at the same instruction of the same program, in the same loops. -/
def SamePlace (V W : Ve) : Prop := V.pc = W.pc ∧ V.lc = W.lc ∧ V.loops = W.loops ∧ V.prog = W.prog

theorem SamePlace.refl (V : Ve) : SamePlace V V := ⟨rfl, rfl, rfl, rfl⟩

theorem SamePlace.trans {V W X : Ve} (h : SamePlace V W) (k : SamePlace W X) : SamePlace V X :=
  ⟨h.1.trans k.1, h.2.1.trans k.2.1, h.2.2.1.trans k.2.2.1, h.2.2.2.trans k.2.2.2⟩

/-- Where the program goes depends on that place alone. -/
theorem SamePlace.nextIn (h : SamePlace (ve u c) (ve s c)) (hnext : NextIn s c) : NextIn u c := by
  obtain ⟨hpc, hlc, hloops, hprog⟩ := h
  have hpassed := congrArg Prod.snd (passed_with (ve s c) (ve u c) (pcOf u c) (ve u c).lc (ve u c).loops)
  have hV : ({ ve s c with lc := (ve u c).lc, loops := (ve u c).loops } : Ve) = ve s c := by rw [hlc, hloops]
  have hpcOf : pcOf u c = pcOf s c := congrArg BitVec.toNat hpc
  rw [hV, hpcOf] at hpassed
  have htarget : (passed (ve u c) (pcOf s c)).2 = (passed (ve s c) (pcOf s c)).2 := hpassed
  rw [NextIn, hpcOf, htarget, hprog]
  exact hnext

theorem postInc_samePlace (V : Ve) (w : DWord) : SamePlace (postInc V w) V := by
  unfold postInc
  split
  · exact ⟨rfl, rfl, rfl, rfl⟩
  · exact .refl V

/-! ## What an access notes -/

theorem clusters_noteVeBytes (s : State) (c : Fin 256) (space : Nat) (es : List VeElem) :
    (noteVeBytes s c space es).clusters = s.clusters := by
  unfold noteVeBytes
  repeat' split
  all_goals rfl

/-- What holds before MM commands are marked, and is kept by each mark, holds after. -/
theorem markMm_induct {P : State → Prop} (s : State) (c : Fin 256) (space : Nat) (bytes : List Nat) (h : P s)
    (hmark : ∀ t p o, ∀ x ∈ mmBeside s c, P t → (ve t c).owner = some (p, o) →
      P (setBody t p x.1.q x.1.e.seq (.mm { x.2 with changed := true }))) : P (markMm s c space bytes) := by
  unfold markMm
  refine List.foldlRecOn (motive := P) _ _ h fun t ht x hx => ?_
  dsimp only
  generalize bytes.any _ = used
  cases used with
  | false => exact ht
  | true =>
    rw [if_pos rfl]
    split
    next p o howner => exact hmark t p o x hx ht howner
    next => exact ht

theorem clusters_markMm (s : State) (c : Fin 256) (space : Nat) (bytes : List Nat) :
    (markMm s c space bytes).clusters = s.clusters :=
  markMm_induct (P := fun t => t.clusters = s.clusters) s c space bytes rfl fun _ _ _ _ _ h _ => h

theorem ve_of_clusters {t : State} (h : t.clusters = s.clusters) (x : Fin 256) : ve t x = ve s x :=
  congrArg (fun C => (Vector.get C x).ve) h

/-- A load leaves its engine as it was but for the ranges read (R146). -/
theorem ve_noteLoad (s : State) (c : Fin 256) (space : Nat) (es : List VeElem) :
    ∃ reads, ve (noteLoad s c space es) c = { ve s c with reads := reads } := by
  have hbytes : ve (noteVeBytes s c space es) c = ve s c := ve_of_clusters (clusters_noteVeBytes ..) c
  have hspoil (t : State) (as : List Nat) (h : space = 2) : (as.foldl (fun s a => spoilByte s c space a) t).clusters = t.clusters := by
    subst h
    exact List.foldlRecOn (motive := fun x : State => x.clusters = t.clusters) _ _ rfl fun _ h _ _ => h
  unfold noteLoad
  dsimp only
  by_cases h2 : space = 2
  · rw [if_pos h2]
    have hreads : ve (modVe (noteVeBytes s c space es) c fun V => { V with reads := noteRanges es V.reads }) c =
        { ve s c with reads := noteRanges es (ve s c).reads } := by rw [ve_modVe_self, hbytes]
    split
    · have hmarked (t : State) (bytes : List Nat) : (nextDraw (markMm t c space bytes)).clusters = t.clusters := clusters_markMm ..
      exact ⟨_, (ve_of_clusters ((hspoil _ _ h2).trans (hmarked ..)) c).trans hreads⟩
    · exact ⟨_, hreads⟩
  · rw [if_neg h2]
    split
    · rw [peerWritten, if_neg h2]
      exact ⟨(ve s c).reads, (ve_of_clusters (clusters_markMm ..) c).trans hbytes⟩
    · exact ⟨(ve s c).reads, hbytes⟩

/-! ## The element that serves a lane -/

/-- An element's lanes do not matter to what it reads. -/
theorem readElem_lanes (s : State) (c : Fin 256) (space : Nat) (e : VeElem) (ls : List (Fin 64)) :
    readElem s c space { e with lanes := ls } = readElem s c space e := rfl

theorem mem_activeLanes {V : Ve} {i : Fin 64} : i ∈ activeLanes V w ↔ active V w i = true := by
  simp [activeLanes]

/-- Where each active lane has an element of its own. -/
theorem find_laneElem {g : Fin 64 → VeElem} (hg : ∀ i, (g i).lanes = [i]) {ls : List (Fin 64)} {i : Fin 64} (hi : i ∈ ls) :
    (ls.map g).find? (fun e => e.lanes.contains i) = some (g i) := by
  induction ls with
  | nil => cases hi
  | cons j ls ih =>
    rw [List.map_cons, List.find?_cons, hg]
    by_cases hij : i = j
    · subst hij; simp
    · have hne : [j].contains i = false := by simpa using hij
      rw [hne]
      exact ih ((List.mem_cons.1 hi).resolve_left hij)

theorem setLanes_congr {V : Ve} {k : Nat} {f g : Fin 64 → Word} (h : ∀ i, active V w i = true → f i = g i) :
    setLanes V w k f = withLanes V w k g := by
  have hlanes : (fun i => if active V w i then f i else (vreg V k).get i) =
      fun i => if active V w i then g i else (V.v.get (fin32 k)).get i := by
    funext i
    by_cases hi : active V w i = true
    · rw [if_pos hi, if_pos hi, h i hi]
    · rw [if_neg hi, if_neg hi]; rfl
  rw [setLanes, withLanes, hlanes]

/-! ## A load -/

theorem veOwner_of_runningFor (h : runningFor s c = some (p, q, n)) : veOwner (ve s c) = p := by
  obtain ⟨i, k, howner⟩ := owner_of_runningFor h
  rw [veOwner, howner]

/-- Any load: its lanes, its base and what it notes; `f` is what its elements give the lanes. -/
theorem load_next {op : Nat} {act : VeOp} {es : List VeElem} {f g : Fin 64 → Word} (hr : Runs s c op p q n)
    (ha : act s c (wordAt (ve s c)) = goOn (modVe (noteLoad s c (mSpace (wordAt (ve s c))) es) c fun V =>
      postInc (setLanes V (wordAt (ve s c)) (fD (wordAt (ve s c))) f) (wordAt (ve s c))) c)
    (hfg : ∀ i, active (ve s c) (wordAt (ve s c)) i = true → f i = g i) (hnext : NextIn s c) :
    VeNext (noteLoad s c (mSpace (wordAt (ve s c))) es) (veRow op anyWord act c s) c
      (postInc (withLanes (ve (noteLoad s c (mSpace (wordAt (ve s c))) es) c) (wordAt (ve s c)) (fD (wordAt (ve s c))) g)
        (wordAt (ve s c))) := by
  obtain ⟨reads, hve⟩ := ve_noteLoad s c (mSpace (wordAt (ve s c))) es
  have hplace : SamePlace (ve (noteLoad s c (mSpace (wordAt (ve s c))) es) c) (ve s c) := by rw [hve]; exact ⟨rfl, rfl, rfl, rfl⟩
  obtain ⟨hpc, hlc, hloops, hprog⟩ := postInc_samePlace
    (withLanes (ve (noteLoad s c (mSpace (wordAt (ve s c))) es) c) (wordAt (ve s c)) (fD (wordAt (ve s c))) g) (wordAt (ve s c))
  refine veRow_next_at hr ?_ hpc hlc hloops hprog (hplace.nextIn hnext)
  rw [ha, modVe_const, setLanes_congr fun i hi => hfg i (by rw [hve] at hi; exact hi)]

theorem loadWith_eq {elems : Ve → DWord → List VeElem} {indexed : Bool} (hrun : runningFor s c = some (p, q, n))
    (hform : formM w 3 indexed = true)
    (hok : accessTrap s p (ve s c) (mSpace w) (max 1 (widthBits (mWidth w) / 8)) false (elems (ve s c) w) = none) :
    loadWith elems indexed s c w = goOn (modVe (noteLoad s c (mSpace w) (elems (ve s c) w)) c fun V =>
      postInc (setLanes V w (fD w) fun i =>
        match (elems (ve s c) w).find? fun e => e.lanes.contains i with
        | some e => BitVec.ofNat 32 (readElem s c (mSpace w) e)
        | none => 0) w) c := by
  unfold loadWith
  simp only [hform, Bool.not_true, Bool.false_eq_true, if_false, veOwner_of_runningFor hrun, hok] <;> rfl

/-- A load whose active lanes have an element each. -/
theorem loadWith_next {op : Nat} {elems : Ve → DWord → List VeElem} {indexed : Bool} {g : Fin 64 → VeElem} (hr : Runs s c op p q n)
    (hform : formM (wordAt (ve s c)) 3 indexed = true)
    (hok : accessTrap s p (ve s c) (mSpace (wordAt (ve s c))) (max 1 (widthBits (mWidth (wordAt (ve s c))) / 8)) false
      (elems (ve s c) (wordAt (ve s c))) = none)
    (hg : ∀ i, (g i).lanes = [i])
    (helems : elems (ve s c) (wordAt (ve s c)) = (activeLanes (ve s c) (wordAt (ve s c))).map g) (hnext : NextIn s c) :
    VeNext (noteLoad s c (mSpace (wordAt (ve s c))) (elems (ve s c) (wordAt (ve s c))))
      (veRow op anyWord (loadWith elems indexed) c s) c
      (postInc (withLanes (ve (noteLoad s c (mSpace (wordAt (ve s c))) (elems (ve s c) (wordAt (ve s c)))) c) (wordAt (ve s c))
        (fD (wordAt (ve s c))) fun i => BitVec.ofNat 32 (readElem s c (mSpace (wordAt (ve s c))) (g i))) (wordAt (ve s c))) := by
  refine load_next hr (loadWith_eq hr.1 hform hok) (fun i hi => ?_) hnext
  rw [helems, find_laneElem hg (mem_activeLanes.2 hi)]

/-! ## Scale loads (R145) -/

/-- The element of an entry of a scale access. -/
def entryElem (V : Ve) (w : DWord) (lanes : List (Fin 64)) (j : Nat) : VeElem :=
  ⟨lanes, (memBase V w + j * (scaleEntry (mWidth w)).2) % 2 ^ 48, false, 8 * (scaleEntry (mWidth w)).2⟩

/-- An entry has at least one lane, and its lanes end with the vector. -/
theorem entry_of_lane (k : Nat) (i : Fin 64) : i.val / (scaleEntry k).1 < 64 / (scaleEntry k).1 := by
  have hi := i.isLt
  unfold scaleEntry
  split <;> dsimp only <;> omega

theorem find_scaleLoads {V : Ve} {i : Fin 64} (hi : active V w i = true) :
    ∃ ls, (scaleLoads V w).find? (fun e => e.lanes.contains i) =
      some (entryElem V w ls (i.val / (scaleEntry (mWidth w)).1)) := by
  have hmem (j : Nat) : i ∈ (activeLanes V w).filter (fun k => k.val / (scaleEntry (mWidth w)).1 == j) ↔
      i.val / (scaleEntry (mWidth w)).1 = j := by
    rw [List.mem_filter, mem_activeLanes, beq_iff_eq, and_iff_right hi]
  refine ⟨(activeLanes V w).filter (fun k => k.val / (scaleEntry (mWidth w)).1 == i.val / (scaleEntry (mWidth w)).1), ?_⟩
  have hlanes := (hmem _).2 rfl
  unfold scaleLoads
  dsimp only
  rw [List.find?_filterMap, List.find?_range_eq_some.2 ⟨?_, List.mem_range.2 (entry_of_lane _ i), fun j hj => ?_⟩]
  · rw [Option.bind_some, if_neg (by simpa using List.ne_nil_of_mem hlanes)]; rfl
  · rw [if_neg (by simpa using List.ne_nil_of_mem hlanes)]
    exact List.contains_iff_mem.2 hlanes
  · have hnot : i ∉ (activeLanes V w).filter (fun k => k.val / (scaleEntry (mWidth w)).1 == j) := fun hm =>
      absurd ((hmem j).1 hm) (Nat.ne_of_gt hj)
    split
    · rfl
    · exact congrArg not (Bool.eq_false_iff.2 fun h => hnot (List.contains_iff_mem.1 h))

theorem doLdscl_eq (hrun : runningFor s c = some (p, q, n)) (hform : formM w 2 false = true)
    (hok : accessTrap s p (ve s c) (mSpace w) 2 false (scaleLoads (ve s c) w) = none)
    (hcomp : ∀ e ∈ scaleLoads (ve s c) w, compOk (entryValue (mWidth w)) (readElem s c (mSpace w) e)
      (readElem s c (mSpace w) e / 2 ^ (8 * entryValue (mWidth w))) = true) :
    doLdscl s c w = goOn (modVe (noteLoad s c (mSpace w) (scaleLoads (ve s c) w)) c fun V =>
      postInc (setLanes V w (fD w) fun i =>
        match (scaleLoads (ve s c) w).find? fun e => e.lanes.contains i with
        | some e => BitVec.ofNat 32 (readElem s c (mSpace w) e % 2 ^ (8 * entryValue (mWidth w)))
        | none => 0) w) c := by
  have hgood : trapElems 0x05 (scaleLoads (ve s c) w) (fun e => !compOk (entryValue (mWidth w)) (readElem s c (mSpace w) e)
      (readElem s c (mSpace w) e / 2 ^ (8 * entryValue (mWidth w)))) = none := by
    rw [trapElems, List.filter_eq_nil_iff.2 fun e he => by simp [hcomp e he]]
  unfold doLdscl
  simp only [hform, Bool.not_true, Bool.false_eq_true, if_false, veOwner_of_runningFor hrun, hok, Option.none_or, hgood] <;> rfl

/-! ## The statements -/

/-- Settles O15: the element that serves a lane is its own for ld, and its entry's for ldscl. -/
theorem loadsWriteActiveLanes : Obligations.LoadsWriteActiveLanes := by
  unfold Obligations.LoadsWriteActiveLanes
  intro s c p q n w hw hnext
  subst hw
  refine ⟨fun hr hform hok => ?_, fun hr hform hok hcomp => ?_⟩
  · exact ⟨_, rfl, loadWith_next hr hform hok (fun _ => rfl) rfl hnext⟩
  · refine ⟨_, rfl, load_next hr (doLdscl_eq hr.1 hform (Option.isNone_iff_eq_none.1 hok) hcomp) (fun i hi => ?_) hnext⟩
    obtain ⟨ls, hfind⟩ := find_scaleLoads hi
    rw [hfind]
    rfl

end Sys2Proof.Machine
end

section
/-! SUPPORT. The statements on indexed accesses and on stores, refuted: they speak of every state, and nothing in them keeps two commands
in flight from having one name. -/

namespace Sys2Proof.Machine

/-- A command in flight, the first of its queue. -/
def firstOf (opcode : Byte) (body : Body) (areas : List Area) : Cmd :=
  { q := 0
    e := { opcode := opcode, flags := 0, comp := 0, seq := 1, reqId := 0, ctrSet := 0, gaugeId := 0xFFFF, desc := 0, sigEv := 0xFFFF,
           waitEv := 0xFFFF, sigVal := 0, waitVal := 0, rsvd := 0, inl := 0 }
    valid := true, body := body, warn := 0, res := none, detail := 0, step := 0, known := [], desc := [], contrib := [], spill := [],
    startRec := 0, claims := [], areas := areas, energy := 0, shared := 0, expired := false, doneTime := 0, held := false }

/-- Two commands of one name: a VK, with byte 1 of the S-tier among its areas, and an MM, with byte 0. -/
def namesakes (prog : List DWord) : List Cmd :=
  [firstOf 2 (.vk { base := 0, count := 1, report := 0, flush := false, prog := prog, scalars := [], addrs := [], started := true, raised := 0, low := 0 })
      [flatArea 1 1],
    firstOf 1 (.mm (mmRun State.reset 0 (readLayer State.reset 0))) [flatArea 0 1]]

/-- Cluster 0 runs `word` and a nop for the VK, in its v[0] the number of each lane and in its other vector registers x; the MM holds a
slot of the cluster. -/
def besideNamesake (word : DWord) (x : Word) : State :=
  { State.reset with
    boot := .ready, layout := .whole
    polders := State.reset.polders.set 0 { Polder.reset with st := .opened, u := [1024, 1024, 1024, 1024], inflight := namesakes [word, 0] }
    clusters := State.reset.clusters.set 0
      { Cluster.reset with
        slots := [(0, 1, 0, 0, 1)]
        ve := { Ve.reset with
          prog := [word, 0], mode := .running, owner := some (0, 0, 1, 0, 1)
          v := Vector.ofFn fun k => Vector.ofFn fun i => if k = 0 then BitVec.ofNat 32 i.val else x } } }

/-- st and stx of v[1] as bytes of the S-tier from a[0] on; stx takes its indices from v[0]. -/
def storeWord (op : Nat) : DWord := BitVec.ofNat 64 (op * 2 ^ 56 + 2 ^ 47 + 2 * 2 ^ 42 + 2 ^ 32)

/-- Byte 1, the element of lane 1. -/
def laneOne : VeElem := ⟨[1], 1, false, 8⟩

/-- Cluster 0 runs a store `w` of bytes of the S-tier; no unit uses byte 1, and lane 1 alone stores to it, the value x. -/
abbrev StoresByteOne (s : State) (op : Nat) (indexed : Bool) (elems : Ve → DWord → List VeElem) (w : DWord) (x : Word) : Prop :=
  (w = wordAt (ve s 0) ∧ NextIn s 0 ∧ Runs s 0 op 0 0 1) ∧
  (formM w 3 indexed = true ∧ mSpace w = 2 ∧ mWidth w = 1 ∧ memBase (ve s 0) w = 0) ∧
  (accessTrap s 0 (ve s 0) 2 1 true (elems (ve s 0) w)).isNone = true ∧
  storeRaces s 0 2 1 = false ∧
  active (ve s 0) w 1 = true ∧ laneElem (ve s 0) w 1 = laneOne ∧
  (∀ j : Fin 64, 1 < j → (laneElem (ve s 0) w j).addr ≠ laneOne.addr) ∧ ((vreg (ve s 0) (fD w)).get 1).toNat % 256 = x.toNat

/-- Before the store. -/
theorem besideNamesake_storesByteOne : [0, 1].Forall fun x =>
    StoresByteOne (besideNamesake (storeWord 0x81) x) 0x81 false veLineElems (storeWord 0x81) x ∧
      StoresByteOne (besideNamesake (storeWord 0x83) x) 0x83 true indexElems (storeWord 0x83) x := by decide +kernel

/-- After it: byte 0 is in a race, which marks the MM and with it the VK of the same name, so that a load of byte 1 counts as a race. -/
theorem besideNamesake_races : [0, 1].Forall fun x =>
    let st := veRow 0x81 anyWord doSt 0 (besideNamesake (storeWord 0x81) x)
    let stx := veRow 0x83 anyWord doStx 0 (besideNamesake (storeWord 0x83) x)
    (loadRaces st 0 2 1 = true ∧ st.draws = 1) ∧ (loadRaces stx 0 2 1 = true ∧ stx.draws = 1) := by decide +kernel

/-- A byte in a race loads as a free value. -/
theorem readElem_laneOne {t : State} (hraces : loadRaces t 0 2 1 = true) (hdraws : t.draws = 1) :
    readElem t 0 2 laneOne = (Config.freeByte 1 1).toNat := by
  simp [readElem, laneOne, VeElem.size, loadByte, hraces, hdraws, leVal]

theorem undisputed_laneOne {s : State} (h : storeRaces s 0 2 1 = false) : Undisputed s 0 2 laneOne := by
  intro a ha
  obtain rfl : a = 1 := by simpa [elemBytes, laneOne, VeElem.size] using ha
  exact h

/-- The element of lane 1 of a st. -/
theorem lineElem_laneOne {V : Ve} {w : DWord} (hwidth : mWidth w = 1) (hbase : memBase V w = 0) :
    (⟨[1], (memBase V w + (1 : Fin 64).val * (4 * 2 ^ mWidth w) / 8) % 2 ^ 48, 4 * 2 ^ mWidth w == 4 && (1 : Fin 64).val % 2 == 1,
      4 * 2 ^ mWidth w⟩ : VeElem) = laneOne := by
  simp [hwidth, laneOne, hbase]

section
variable {s : State} {w : DWord} {x : Word}

/-- What the statement on indexed accesses says of byte 1. -/
theorem readElem_stx_laneOne (h : Obligations.IndexedAccessesAddressByLane) (hs : StoresByteOne s 0x83 true indexElems w x) :
    readElem (veRow 0x83 anyWord doStx 0 s) 0 2 laneOne = x.toNat := by
  unfold Obligations.IndexedAccessesAddressByLane at h
  obtain ⟨⟨hword, hnext, hruns⟩, ⟨hform, hspace, hwidth, -⟩, htrap, hraces, hactive, hone, halone, hvalue⟩ := hs
  obtain ⟨t, ht, hstored⟩ := (h s 0 0 0 1 w hword hnext hform).2 hruns
    (by rw [hspace, hwidth]; exact Option.isNone_iff_eq_none.1 htrap)
  injection ht with ht
  subst ht
  have hread := hstored 1 hactive (by rw [hone]; exact fun j hj _ hsame => halone j hj hsame.1)
  rw [hone, hspace, hwidth] at hread
  exact (hread (undisputed_laneOne hraces)).trans hvalue

/-- What the statement on stores says of byte 1. -/
theorem readElem_st_laneOne (h : Obligations.StoresWriteTheirElementsAndNothingElse)
    (hs : StoresByteOne s 0x81 false veLineElems w x) : readElem (veRow 0x81 anyWord doSt 0 s) 0 2 laneOne = x.toNat := by
  unfold Obligations.StoresWriteTheirElementsAndNothingElse at h
  obtain ⟨⟨hword, hnext, hruns⟩, ⟨hform, hspace, hwidth, hbase⟩, htrap, hraces, hactive, -, -, hvalue⟩ := hs
  obtain ⟨t, ht, hstored, -⟩ := (h.2 s 0 0 0 1 w hword hnext).1 hruns hform
    (by rw [hspace, hwidth]; exact Option.isNone_iff_eq_none.1 htrap)
  injection ht with ht
  subst ht
  have hread := hstored 1 hactive
  rw [lineElem_laneOne hwidth hbase, hspace, hwidth] at hread
  exact (hread (undisputed_laneOne hraces)).trans hvalue

end

/-- The stores of 0 and of 1 leave the same free value to be loaded from byte 1. -/
theorem not_laneOne_stored {f : Word → State} (hraces : ∀ x ∈ [0, 1], loadRaces (f x) 0 2 1 = true ∧ (f x).draws = 1) :
    ¬ ∀ x ∈ [0, 1], readElem (f x) 0 2 laneOne = x.toNat := by
  intro h
  have hfree : ∀ x ∈ ([0, 1] : List Word), (Config.freeByte 1 1).toNat = x.toNat := fun x hx =>
    (readElem_laneOne (hraces x hx).1 (hraces x hx).2).symm.trans (h x hx)
  exact absurd ((hfree 0 (by decide)).symm.trans (hfree 1 (by decide))) (by decide)

/-- Refutes O16: where two commands in flight have one name, a race that marks an MM marks every command of its name as an MM, and the
other's areas then count as in use. Against it stands an engine that stores the value x of each lane to bytes 0 to 63 of the S-tier,
beside an MM that writes byte 0 and has the name of the engine's VK, whose areas hold byte 1: no unit uses byte 1 when the store begins,
and what is loaded from it after is a free value, be x 0 or 1. -/
theorem not_indexedAccessesAddressByLane : ¬ Obligations.IndexedAccessesAddressByLane := by
  intro h
  have hbefore := List.forall_iff_forall_mem.1 besideNamesake_storesByteOne
  have hafter := List.forall_iff_forall_mem.1 besideNamesake_races
  exact not_laneOne_stored (f := fun x => veRow 0x83 anyWord doStx 0 (besideNamesake (storeWord 0x83) x))
    (fun x hx => (hafter x hx).2) fun x hx => readElem_stx_laneOne h (hbefore x hx).2

/-- Refutes O17, whose clause on st fails in the same way: the engine, the MM and the VK are those of `not_indexedAccessesAddressByLane`,
and the store is a st. -/
theorem not_storesWriteTheirElementsAndNothingElse : ¬ Obligations.StoresWriteTheirElementsAndNothingElse := by
  intro h
  have hbefore := List.forall_iff_forall_mem.1 besideNamesake_storesByteOne
  have hafter := List.forall_iff_forall_mem.1 besideNamesake_races
  exact not_laneOne_stored (f := fun x => veRow 0x81 anyWord doSt 0 (besideNamesake (storeWord 0x81) x))
    (fun x hx => (hafter x hx).1) fun x hx => readElem_st_laneOne h (hbefore x hx).1

end Sys2Proof.Machine
end

section
/-! SUPPORT. Barriers of a launch (R149, R150): what arrives, and what a release makes of each engine of the launch. -/

namespace Sys2Proof.Machine

variable {s t : State} {c d : Fin 256} {p : Fin 4} {q : Fin 16} {n : Word}

/-! ## Arriving -/

/-- The engine of cluster c waits at its next barrier with a contribution. -/
def waitingAt (s : State) (c : Fin 256) (x : Option (Nat × Word × Fin 16)) : State :=
  modVe s c fun V => { V with mode := .atBarrier, bars := V.bars + 1, contribution := x }

theorem arrive_row {op : Nat} {act : VeOp} {x : Option (Nat × Word × Fin 16)} (hr : Runs s c op p q n)
    (ha : act s c (wordAt (ve s c)) = arrive s c x) :
    veRow op anyWord act c s =
      if clashes (waitingAt s c x) c then veTrap s p q n c 0x08 (pcOf s c) (wordAt (ve s c)) (BitVec.allOnes 64) 0
      else waitingAt s c x := by
  unfold arrive at ha
  split
  next hclash => exact veRow_trap hr rfl (ha.trans (if_pos hclash))
  next hclash => exact veRow_flow hr (ha.trans (if_neg hclash))

/-! ## The clusters of a polder -/

theorem val_fin256 {k : Nat} (h : k < 256) : (fin256 k).val = k := Nat.mod_eq_of_lt h

theorem nodup_diesOf (s : State) (p : Fin 4) : (diesOf s p).Nodup := by
  unfold diesOf
  split
  case h_1 => exact .nil
  case h_2 => split <;> decide
  case h_3 => split_ifs <;> decide
  case h_4 => exact List.nodup_singleton p

theorem nodup_clustersOf (s : State) (p : Fin 4) : (clustersOf s p).Nodup := by
  have hval (d : Fin 4) {k : Nat} (hk : k < 64) : (fin256 (64 * d.val + k)).val = 64 * d.val + k :=
    val_fin256 (by omega)
  refine List.nodup_flatMap.2 ⟨fun d _ => ?_, (nodup_diesOf s p).imp fun {d d'} hd => ?_⟩
  · refine List.nodup_range.map_on fun j hj k hk h => ?_
    have := congrArg Fin.val h
    rw [hval d (List.mem_range.1 hj), hval d (List.mem_range.1 hk)] at this
    omega
  · intro x hx hx'
    obtain ⟨j, hj, rfl⟩ := List.mem_map.1 hx
    obtain ⟨k, hk, h⟩ := List.mem_map.1 hx'
    have := congrArg Fin.val h
    rw [hval d' (List.mem_range.1 hk), hval d (List.mem_range.1 hj)] at this
    have := List.mem_range.1 hj
    have := List.mem_range.1 hk
    exact hd (Fin.ext (by omega))

theorem nodup_launchOf (s : State) (p : Fin 4) (q : Fin 16) (n : Word) : (launchOf s p q n).Nodup :=
  (nodup_clustersOf s p).filter _

/-! ## A change of the engines of a list -/

/-- Each item of a list changes the engine of its own cluster. -/
def modVes {α : Type} (s : State) (xs : List α) (at_ : α → Fin 256) (f : α → Ve → Ve) : State :=
  xs.foldl (fun s x => modVe s (at_ x) (f x)) s

section
variable {α : Type} {xs : List α} {at_ : α → Fin 256} {f : α → Ve → Ve}

theorem modVes_frame (s : State) (xs : List α) (at_ : α → Fin 256) (f : α → Ve → Ve) :
    modVes s xs at_ f = { s with clusters := (modVes s xs at_ f).clusters } :=
  List.foldlRecOn (motive := fun (t : State) => t = { s with clusters := t.clusters }) xs _ rfl fun _ ht x _ =>
    congrArg (fun (u : State) => modVe u (at_ x) (f x)) ht

theorem cluster_modVes_other (h : ∀ x ∈ xs, at_ x ≠ d) : cluster (modVes s xs at_ f) d = cluster s d :=
  List.foldlRecOn (motive := fun t => cluster t d = cluster s d) xs _ rfl fun t ht x hx => by
    rw [modVe, cluster_modCluster, if_neg (h x hx).symm, ht]

theorem ve_modVes_at (hxs : xs.Pairwise fun x y => at_ x ≠ at_ y) {x : α} (hx : x ∈ xs) :
    ve (modVes s xs at_ f) (at_ x) = f x (ve s (at_ x)) := by
  induction xs generalizing s with
  | nil => cases hx
  | cons y xs ih =>
    obtain ⟨hy, hxs⟩ := List.pairwise_cons.1 hxs
    rcases List.mem_cons.1 hx with rfl | hx
    · exact (congrArg Cluster.ve (cluster_modVes_other fun z hz => (hy z hz).symm)).trans (ve_modVe_self ..)
    · exact (ih hxs hx).trans (by rw [ve_modVe, if_neg (hy x hx).symm])

end

/-- A fold that changes only the engine of each cluster, where each of them meets a condition first. -/
theorem foldl_eq_modVes {F : State → Fin 256 → State} {P : Ve → Prop} {f : Ve → Ve}
    (hF : ∀ t c, P (ve t c) → F t c = modVe t c f) {cs : List (Fin 256)} (hcs : cs.Nodup) (h : ∀ c ∈ cs, P (ve s c)) :
    cs.foldl F s = modVes s cs id fun _ => f := by
  induction cs generalizing s with
  | nil => rfl
  | cons c cs ih =>
    obtain ⟨hc, hcs⟩ := List.nodup_cons.1 hcs
    rw [List.foldl_cons, hF s c (h c List.mem_cons_self)]
    refine ih hcs fun d hd => ?_
    rw [ve_modVe, if_neg (ne_of_mem_of_not_mem hd hc)]
    exact h d (List.mem_cons_of_mem c hd)

/-! ## The release -/

/-- The instruction that follows in line is inside an engine's program. -/
def NextInside (V : Ve) : Prop := (passed V V.pc.toNat).2 < V.prog.length

/-- An engine at the instruction that follows in line. -/
def goPast (V : Ve) : Ve := atPc (passed V V.pc.toNat).1 (passed V V.pc.toNat).2

theorem fetchAt_goPast (h : NextInside (ve s c)) : fetchAt s p q n c (.past (pcOf s c)) = modVe s c goPast := by
  rw [fetchAt_inside (f := .past (pcOf s c)) rfl h]
  exact (modVe_const s c goPast).symm

theorem goPast_frame (V : Ve) : ∃ lc loops pc, goPast V = { V with lc := lc, loops := loops, pc := pc } := by
  have hpassed : (passed V V.pc.toNat).1 = (flowed V (.past V.pc.toNat)).1 := rfl
  exact ⟨_, _, _, by rw [goPast, hpassed, flowed_frame, atPc]⟩

/-- The scalar registers of an engine with the result of its lred. -/
def withResult (x : Word) (V : Ve) : Vector Word 16 :=
  match V.contribution with
  | some (_, _, d) => V.sreg.set d x
  | none => V.sreg

theorem releaseVe_eq (x : Word) (V : Ve) :
    releaseVe x V = { V with sreg := withResult x V, mode := .running, contribution := none, reads := [], writes := [] } := by
  unfold releaseVe withResult
  cases V.contribution <;> rfl

theorem releaseVe_nextInside (x : Word) {V : Ve} (h : NextInside V) : NextInside (releaseVe x V) := by
  have hpassed := passed_with V (releaseVe x V) V.pc.toNat V.lc V.loops
  have hsame : { releaseVe x V with lc := V.lc, loops := V.loops } = releaseVe x V := by rw [releaseVe_eq]
  have hpc : (releaseVe x V).pc = V.pc := by rw [releaseVe_eq]
  have hprog : (releaseVe x V).prog = V.prog := by rw [releaseVe_eq]
  rw [hsame] at hpassed
  rw [NextInside, hpc, hprog, hpassed]
  exact h

/-- The engines of a launch go on with a result. -/
def released (s : State) (cs : List (Fin 256)) (x : Word) : State := modVes (modVes s cs id fun _ => releaseVe x) cs id fun _ => goPast

theorem doLbarRelease_eq (hlive : (liveCmd s p q n).isSome = true) (hsome : launchOf s p q n ≠ [])
    (hwait : ∀ c ∈ launchOf s p q n, (ve s c).mode = .atBarrier) (hnext : ∀ c ∈ launchOf s p q n, NextIn s c) :
    doLbarRelease p q n s = released s (launchOf s p q n) (lredResult ((launchOf s p q n).map (ve s))) := by
  obtain ⟨cmd, hcmd⟩ := Option.isSome_iff_exists.1 hlive
  have hall : ((launchOf s p q n).all fun c => (ve s c).mode == .atBarrier) = true :=
    List.all_eq_true.2 fun c hc => beq_iff_eq.2 (hwait c hc)
  have hidle : ((launchOf s p q n).isEmpty || !(launchOf s p q n).all fun c => (ve s c).mode == .atBarrier) = false := by
    rw [hall, List.isEmpty_eq_false_iff.2 hsome]; rfl
  simp only [doLbarRelease, hcmd, hidle]
  refine foldl_eq_modVes (P := fun V => V.mode = .running ∧ NextInside V) (fun t c h => ?_) (nodup_launchOf ..) fun c hc => ?_
  · rw [if_pos (beq_iff_eq.2 h.1)]
    exact fetchAt_goPast h.2
  · have hreleased (x : Word) : ve (modVes s (launchOf s p q n) id fun _ => releaseVe x) c = releaseVe x (ve s c) :=
      ve_modVes_at (at_ := id) (nodup_launchOf s p q n) hc
    refine (congrArg (fun V : Ve => V.mode = .running ∧ NextInside V) (hreleased _)).mpr ⟨?_, releaseVe_nextInside _ (hnext c hc)⟩
    rw [releaseVe_eq]

/-- What the release leaves in the registers of an engine of the launch. -/
theorem ve_released {cs : List (Fin 256)} (hcs : cs.Nodup) (hc : c ∈ cs) (x : Word) :
    ∃ lc loops pc, ve (released s cs x) c =
      { ve s c with sreg := withResult x (ve s c), mode := .running, contribution := none, reads := [], writes := [],
                    lc := lc, loops := loops, pc := pc } := by
  obtain ⟨lc, loops, pc, hpast⟩ := goPast_frame (releaseVe x (ve s c))
  refine ⟨lc, loops, pc, ?_⟩
  have hreleased : ve (modVes s cs id fun _ => releaseVe x) c = releaseVe x (ve s c) := ve_modVes_at (at_ := id) hcs hc
  have hpassed : ve (released s cs x) c = goPast (releaseVe x (ve s c)) := by
    rw [← hreleased]; exact ve_modVes_at (at_ := id) hcs hc
  rw [hpassed, hpast, releaseVe_eq]

theorem released_frame (s : State) (cs : List (Fin 256)) (x : Word) :
    released s cs x = { s with clusters := (released s cs x).clusters } :=
  (modVes_frame ..).trans (congrArg (fun u : State => { u with clusters := (released s cs x).clusters }) (modVes_frame s cs id _))

/-- Settles O18: lbar and lred are one arrival, and a release takes each engine of the launch past its barrier. -/
theorem barriersHoldAndReleaseTheWholeLaunch : Obligations.BarriersHoldAndReleaseTheWholeLaunch := by
  unfold Obligations.BarriersHoldAndReleaseTheWholeLaunch
  refine ⟨?_, fun s p q n hlive hsome hwait hnext => ?_⟩
  · rintro s c p q n w rfl hplain
    refine ⟨fun hr => congrArg Host.Outcome.next (arrive_row hr (if_pos hplain)), fun hr hform hd ha hmod => ?_⟩
    refine congrArg Host.Outcome.next (arrive_row hr (if_pos ?_))
    simp [hplain, hform, hd, ha, hmod]
  · refine ⟨_, congrArg Host.Outcome.next (doLbarRelease_eq hlive hsome hwait hnext), fun c hc => ?_, fun c hc => ?_, released_frame ..⟩
    · obtain ⟨lc, loops, pc, hve⟩ := ve_released (s := s) (nodup_launchOf s p q n) hc (lredResult ((launchOf s p q n).map (ve s)))
      rw [hve]
      exact ⟨rfl, rfl, rfl, rfl, rfl, rfl, rfl⟩
    · have hother : ∀ d ∈ launchOf s p q n, id d ≠ c := fun d hd => ne_of_mem_of_not_mem hd hc
      exact (cluster_modVes_other hother).trans (cluster_modVes_other hother)

end Sys2Proof.Machine
end

section
/-! SUPPORT. The start of a launch (R152, R153): VK at command start, and VE_RANGE_START. -/

namespace Sys2Proof.Machine

variable {s t u : State} {c d : Fin 256} {p : Fin 4} {q : Fin 16} {n : Word} {e : Entry}

/-! ## A report (R157) -/

theorem excReport_length (cause idx pc : Nat) (w lanes : DWord) (addr raised : Nat) :
    (excReport cause idx pc w lanes addr raised).length = 64 := by
  simp [excReport, leBytes_length, zeros]

theorem putReport_moved (h : Unpoisoned s) (p : Fin 4) (a : Nat) (rep : List Byte) :
    Moved true false s (putReport s p a rep) := by
  unfold putReport
  exact .ite _ (.refl s) ((memWrite_moved h a rep).trans (touch_moved ..))

/-- The report's lines: none where the descriptor names no report. -/
def reportLines (a : Nat) (rep : List Byte) : List (Nat × List Byte) := if a = 0 then [] else [(a, rep)]

theorem putReport_holds (h : Unpoisoned s) (p : Fin 4) (a : Nat) (rep : List Byte) :
    Holds s (putReport s p a rep) (reportLines a rep) := by
  unfold putReport reportLines
  split
  · exact ⟨nofun, fun _ _ => rfl⟩
  · have hbyte (x : Nat) : memByte (regionWrite s p a rep) x = if a ≤ x ∧ x < a + rep.length then rep.getD (x - a) 0 else memByte s x :=
      (Moved.memByte (tiles := false) (touch_moved ..) x).trans (byte_memWrite h ..)
    refine ⟨?_, fun x hx => ?_⟩
    · rintro _ (_ | ⟨_, ⟨⟩⟩)
      exact map_range_eq_line (x := (a, rep)) fun y h₁ h₂ => by rw [hbyte, if_pos ⟨h₁, h₂⟩]
    · have hout : x < a ∨ a + rep.length ≤ x := hx (a, rep) List.mem_cons_self
      rw [hbyte, if_neg (by omega)]

theorem putReport_beside (s : State) (p : Fin 4) (a : Nat) (rep : List Byte) : BesideQueues p s (putReport s p a rep) := by
  unfold putReport
  split
  · exact .refl p s
  · exact regionWrite_beside (.refl p s)

/-! ## VK at command start (R152) -/

theorem touch_nothing (s : State) (p : Fin 4) (a : Nat) : touch s p a 0 = s := ite_self s

/-- The launch that a VK's descriptor names. -/
def launched (s : State) (p : Fin 4) (q : Fin 16) (e : Entry) : VkRun :=
  readVk (startCmd s p q e) p (memBytes s e.desc.toNat 256)

/-- The state in which a launch has read its program. -/
def programRead (s : State) (p : Fin 4) (q : Fin 16) (e : Entry) : State :=
  touch (startCmd s p q e) p (addrOf (memBytes s e.desc.toNat 256) 0) (8 * (launched s p q e).prog.length)

section
variable (hstart : startOk s p q e 0x02 = true) (hchecks : vkChecks s p e = none)
include hstart hchecks

theorem doVk_of_fault {i cause : Nat} {w : DWord} (hfault : launchFault (launched s p q e).prog = some (i, w, cause)) :
    doVk p q e s = putReport (setDetail (endCmd (programRead s p q e) p q e.seq (causeStatus cause)) p q e.seq cause) p
      (launched s p q e).report (excReport cause 0xFFFF i w 0 0 0) := by
  refine (runEntry_of_passed (checks := fun s => vkChecks s p e) hstart hchecks).trans ?_
  rw [launched] at hfault
  simp only [hfault]
  rfl

theorem doVk_of_empty (hempty : (launched s p q e).prog = []) : doVk p q e s = endCmd (startCmd s p q e) p q e.seq .ok := by
  refine (runEntry_of_passed (checks := fun s => vkChecks s p e) hstart hchecks).trans ?_
  rw [launched] at hempty
  have hfault : launchFault [] = none := rfl
  simp only [hempty, hfault, List.length_nil, Nat.mul_zero, touch_nothing, List.isEmpty_nil, if_true]

theorem doVk_of_program (hfault : launchFault (launched s p q e).prog = none) (hprog : (launched s p q e).prog ≠ []) :
    doVk p q e s = setAreas (setBody (programRead s p q e) p q e.seq (.vk (launched s p q e))) p q e.seq
      (reportArea (launched s p q e).report 64) := by
  refine (runEntry_of_passed (checks := fun s => vkChecks s p e) hstart hchecks).trans ?_
  rw [launched] at hfault hprog
  simp only [hfault, List.isEmpty_iff, if_neg hprog]
  rfl

end

/-- A launch is refused for an instruction that is not defined or that is cvtsr. -/
theorem launchFault_cause {prog : List DWord} {i cause : Nat} {w : DWord} (h : launchFault prog = some (i, w, cause)) :
    cause = 0x0C ∨ cause = 0x01 := by
  obtain ⟨x, -, hx⟩ := Option.map_eq_some_iff.1 h
  obtain ⟨-, -, rfl⟩ : x.1 = i ∧ x.2 = w ∧ (if fOp x.2 == 0x52 then 0x0C else 0x01) = cause := by simpa using hx
  split
  · exact .inl rfl
  · exact .inr rfl

theorem causeStatus_of_launchFault {prog : List DWord} {i cause : Nat} {w : DWord} (h : launchFault prog = some (i, w, cause)) :
    causeStatus cause = if cause = 0x0C then .srDenied else .descInvalid := by
  rcases launchFault_cause h with rfl | rfl <;> rfl

theorem Moved.leveeTime {writes tiles : Bool} (h : Moved writes tiles s t) : leveeTime t = Machine.leveeTime s := by
  obtain ⟨_, _, _, _, _, _, _, _, rfl, -⟩ := h
  rfl

theorem inflight_modCmd (s : State) (p : Fin 4) (q : Fin 16) (n : Word) (f : Cmd → Cmd) :
    (polder (modCmd s p q n f) p).inflight = (polder s p).inflight.map fun c => if c.q = q && c.e.seq = n then f c else c := by
  rw [modCmd, polder_modPolder_self]

/-- Traffic and memory leave the commands in flight and the time, and so what an end with a detail makes of them. -/
theorem inflight_setDetail_endCmd (h : (polder t p).inflight = (polder s p).inflight) (htime : leveeTime t = leveeTime s)
    (st : Status) (k : Nat) :
    (polder (setDetail (endCmd t p q n st) p q n k) p).inflight = (polder (setDetail (endCmd s p q n st) p q n k) p).inflight := by
  simp only [setDetail, endCmd, inflight_modCmd, h, htime]

/-! ## VE_RANGE_START (R153) -/

theorem doVeRangeStart_of_busy {cm : Cmd} {x : Nat × Nat} (hlive : liveCmd s p q n = some cm) (hwaits : waitsFor cm = some x)
    (hbusy : rangeFree s p cm x = false) : doVeRangeStart p q n s = s := by
  simp [doVeRangeStart, hlive, hwaits, hbusy]

/-- The clusters of a range with their positions. -/
def placesOf (cs : List (Fin 256)) : List (Fin 256 × Nat) := cs.zip (List.range cs.length)

theorem placesOf_fst (cs : List (Fin 256)) : (placesOf cs).map Prod.fst = cs := List.map_fst_zip (by simp)

theorem placesOf_apart {cs : List (Fin 256)} (h : cs.Nodup) : (placesOf cs).Pairwise fun x y => x.1 ≠ y.1 :=
  List.pairwise_map.1 ((placesOf_fst cs).symm ▸ h)

theorem mem_placesOf {cs : List (Fin 256)} {i : Nat} (h : cs[i]? = some c) : (c, i) ∈ placesOf cs := by
  obtain ⟨hi, rfl⟩ := List.getElem?_eq_some_iff.1 h
  refine List.mem_iff_getElem.2 ⟨i, by simpa [placesOf] using hi, by simp [placesOf]⟩

theorem placeVes_eq (s : State) (cs : List (Fin 256)) (f : Nat → Ve) :
    placeVes s cs f = modVes s (placesOf cs) Prod.fst fun x _ => f x.2 := rfl

theorem cluster_placeVes_other {cs : List (Fin 256)} {f : Nat → Ve} (h : c ∉ cs) : cluster (placeVes s cs f) c = cluster s c :=
  cluster_modVes_other fun _ hx => ne_of_mem_of_not_mem (placesOf_fst cs ▸ List.mem_map_of_mem hx) h

theorem ve_placeVes {cs : List (Fin 256)} {f : Nat → Ve} (hcs : cs.Nodup) {i : Nat} (h : cs[i]? = some c) :
    ve (placeVes s cs f) c = f i := ve_modVes_at (placesOf_apart hcs) (mem_placesOf h)

theorem placeVes_frame (s : State) (cs : List (Fin 256)) (f : Nat → Ve) :
    placeVes s cs f = { s with clusters := (placeVes s cs f).clusters } := modVes_frame ..

theorem nodup_rangeClusters (s : State) (p : Fin 4) (base count : Nat) : (rangeClusters s p base count).Nodup :=
  (nodup_clustersOf s p).sublist ((List.take_sublist ..).trans (List.drop_sublist ..))

theorem doVeRangeStart_vk {cm : Cmd} {x : Nat × Nat} {r : VkRun} (hlive : liveCmd s p q n = some cm) (hwaits : waitsFor cm = some x)
    (hfree : rangeFree s p cm x = true) (hbody : cm.body = .vk r) :
    doVeRangeStart p q n s =
      skipDraws (placeVes (setBody s p q n (.vk { r with started := true })) (rangeClusters s p x.1 x.2)
        fun k => startVe p q n r (s.draws + k) k) (rangeClusters s p x.1 x.2).length := by
  simp only [doVeRangeStart, hlive, hwaits, hfree, hbody]
  rfl

theorem doVeRangeStart_update {cm : Cmd} {x : Nat × Nat} {r : UpdRun} (hlive : liveCmd s p q n = some cm)
    (hwaits : waitsFor cm = some x) (hfree : rangeFree s p cm x = true) (hbody : cm.body = .update r) (hwork : r.complete = false) :
    doVeRangeStart p q n s =
      setBody (placeVes s (rangeClusters s p x.1 x.2) (holdVe p q n r)) p q n (.update { r with started := true }) := by
  have hstarted : ({ r with started := true } : UpdRun).complete = false := hwork
  simp only [doVeRangeStart, hlive, hwaits, hfree, hbody, finishUpdate, hstarted]
  rfl

/-- The registers and the place of an engine at program start (R132). -/
theorem startVe_fields (p : Fin 4) (q : Fin 16) (n : Word) (r : VkRun) (draw pos : Nat) :
    let V := startVe p q n r draw pos
    V.mode = .running ∧ V.owner = some (p, q, n, pos, r.count) ∧ V.prog = r.prog ∧ V.pc = 0 ∧ V.p.get 0 = BitVec.allOnes 64 ∧
      (∀ j, j ≠ 0 → V.p.get j = 0) ∧ (∀ j l, (V.v.get j).get l = 0) ∧ (∀ j, V.sreg.get j = r.scalars.getD j.val 0) ∧
      (∀ j, V.a.get j = r.addrs.getD j.val 0) ∧ V.bars = 0 ∧ V.flush = r.flush := by
  have hp0 : Ve.reset.p.get 0 = BitVec.allOnes 64 := rfl
  have hp : ∀ j, j ≠ 0 → Ve.reset.p.get j = 0 := by decide
  have hv : ∀ j l, (Ve.reset.v.get j).get l = 0 := fun j l => by simp [Ve.reset, Vector.get_eq_getElem]
  exact ⟨rfl, rfl, rfl, rfl, hp0, hp, hv, fun j => by simp [startVe, Vector.get_eq_getElem],
    fun j => by simp [startVe, Vector.get_eq_getElem], rfl, rfl⟩

/-- Settles O43: what VK does of a descriptor that its checks pass, and where VE_RANGE_START places the engines of a free range. -/
theorem launchesStartTheirWholeRangeTogether : Obligations.LaunchesStartTheirWholeRangeTogether := by
  unfold Obligations.LaunchesStartTheirWholeRangeTogether
  intro s p q e n
  refine ⟨fun hstart hchecks hpoison => ⟨fun i w cause hfault => ?_, fun hempty => ?_, fun hfault hprog => ?_⟩,
    fun cm x hlive hwaits => ⟨fun hbusy => ?_, fun r hfree hbody => ?_, fun r hfree hbody hwork => ?_⟩⟩
  · have hread : Moved false false (startCmd s p q e) (programRead s p q e) := touch_moved ..
    have hinflight : (polder (programRead s p q e) p).inflight = (polder (startCmd s p q e) p).inflight :=
      (touch_beside (.refl p _)).inflight
    have hended : Moved false false (startCmd s p q e)
        (setDetail (endCmd (programRead s p q e) p q e.seq (causeStatus cause)) p q e.seq cause) :=
      hread.trans (.trans (modCmd_moved ..) (modCmd_moved ..))
    have hpoison := hended.unpoisoned (startCmd_unpoisoned hpoison)
    refine ⟨_, congrArg Host.Outcome.next (doVk_of_fault hstart hchecks hfault), ?_, ?_, ?_⟩
    · exact (hended.any.trans (putReport_moved hpoison ..)).memFrame
    · rw [(putReport_beside ..).inflight, inflight_setDetail_endCmd hinflight hread.leveeTime, causeStatus_of_launchFault hfault]
    · exact (putReport_holds hpoison ..).moved hended (.refl _)
  · exact congrArg Host.Outcome.next (doVk_of_empty hstart hchecks hempty)
  · exact congrArg Host.Outcome.next (doVk_of_program hstart hchecks hfault hprog)
  · exact congrArg Host.Outcome.next (doVeRangeStart_of_busy hlive hwaits hbusy)
  · have hcs := nodup_rangeClusters s p x.1 x.2
    refine ⟨_, congrArg Host.Outcome.next (doVeRangeStart_vk hlive hwaits hfree hbody), ?_, fun k hk => cluster_placeVes_other hk, ?_⟩
    · rw [skipDraws, placeVes_frame]
    · intro i k hk
      rw [ve_skipDraws, ve_placeVes hcs hk]
      exact startVe_fields ..
  · have hcs := nodup_rangeClusters s p x.1 x.2
    refine ⟨_, congrArg Host.Outcome.next (doVeRangeStart_update hlive hwaits hfree hbody hwork), ?_, fun k hk => cluster_placeVes_other hk, ?_⟩
    · rw [placeVes_frame]; rfl
    · intro i k hk
      have hve : ve (setBody (placeVes s (rangeClusters s p x.1 x.2) (holdVe p q n r)) p q n (.update { r with started := true })) k =
          holdVe p q n r i := ve_placeVes hcs hk
      rw [hve]
      exact ⟨rfl, rfl, rfl⟩

end Sys2Proof.Machine
end

section
/-! SUPPORT. The ends of a launch: end (R154, R196), and an exception of a VK command (R149, R155-R157). -/

namespace Sys2Proof.Machine

variable {s t u : State} {c d : Fin 256} {p : Fin 4} {q : Fin 16} {n : Word} {cm : Cmd}

/-! ## Units given up -/

/-- An engine after its command has given up its units. -/
def freed (V : Ve) (p : Fin 4) (q : Fin 16) (n : Word) : Ve :=
  if ownedBy V p q n then { V with mode := .idle, owner := none } else V

theorem ownedBy_freed (V : Ve) (p : Fin 4) (q : Fin 16) (n : Word) : ownedBy (freed V p q n) p q n = false := by
  unfold freed
  split
  · rfl
  · next h => exact Bool.eq_false_iff.2 h

theorem ve_releaseUnits (s : State) (p : Fin 4) (q : Fin 16) (n : Word) (d : Fin 256) :
    ve (releaseUnits s p q n) d = freed (ve s d) p q n := by
  have hcluster : cluster (releaseUnits s p q n) d =
      if ownedBy (cluster s d).ve p q n then leaveVe (leaveSlots (cluster s d) p q n) else leaveSlots (cluster s d) p q n := by
    simp only [cluster, releaseUnits, Vector.get_eq_getElem, Vector.getElem_map]
    rfl
  rw [ve, hcluster, freed, ve]
  split <;> rfl

theorem launchOf_eq_nil (h : ∀ d, ownedBy (ve s d) p q n = false) : launchOf s p q n = [] :=
  List.filter_eq_nil_iff.2 fun d _ => by simp [h d]

/-! ## end (R154, R196) -/

/-- The state in which cluster c has ended. -/
def endedAt (s : State) (c : Fin 256) : State := modVe s c fun V => { V with mode := .ended }

theorem doEnd_vk {r : VkRun} {i k : Nat} {w : DWord} (hplain : plain w = true) (howner : (ve s c).owner = some (p, q, n, i, k))
    (hcmd : cmdAt s p q n = some cm) (hbody : cm.body = .vk r) (hclash : clashes (endedAt s c) c = false) :
    doEnd s c w = .ok (launchEnded (endedAt s c) p q n) .hold := by
  rw [endedAt] at hclash
  simp [doEnd, hplain, howner, hcmd, hbody, hclash, endedAt]

theorem doEnd_update {r : UpdRun} {i k : Nat} {o : UpdBlock} {w : DWord} (hplain : plain w = true)
    (howner : (ve s c).owner = some (p, q, n, i, k)) (hcmd : cmdAt s p q n = some cm) (hbody : cm.body = .update r)
    (hblock : r.work.find? (fun x => x.1 == i) = some (i, o)) : doEnd s c w = .ok (commitBlock s p q n cm r i c o) .hold := by
  simp [doEnd, hplain, howner, hcmd, hbody, hblock]

theorem launchEnded_of_running (h : ∃ d ∈ launchOf s p q n, (ve s d).mode ≠ .ended) : launchEnded s p q n = s := by
  obtain ⟨d, hd, hmode⟩ := h
  exact if_neg fun hall => hmode (beq_iff_eq.1 (List.all_eq_true.1 hall d hd))

theorem launchEnded_of_ended (h : ∀ d ∈ launchOf s p q n, (ve s d).mode = .ended) :
    launchEnded s p q n = setResult (releaseUnits s p q n) p q n .ok :=
  if_pos (List.all_eq_true.2 fun d hd => beq_iff_eq.2 (h d hd))

theorem res_setResult {st : Status} (h : cmdAt (setResult s p q n st) p q n = some cm) : cm.res = some st := by
  rw [setResult, cmdAt_modCmd] at h
  obtain ⟨x, -, rfl⟩ := Option.map_eq_some_iff.1 h
  rfl

theorem launchOf_setResult_releaseUnits (s : State) (p : Fin 4) (q : Fin 16) (n : Word) (st : Status) :
    launchOf (setResult (releaseUnits s p q n) p q n st) p q n = [] :=
  launchOf_eq_nil fun d => by
    have hve : ve (setResult (releaseUnits s p q n) p q n st) d = freed (ve s d) p q n := ve_releaseUnits ..
    rw [hve, ownedBy_freed]

/-! ## What becomes undefined -/

/-- Bytes become undefined: the polders, the marks of memory errors and the engines stay. -/
structure Undefines (s t : State) : Prop where
  polders : t.polders = s.polders
  poison : t.poison = s.poison
  engines : ∀ d, ve t d = ve s d

namespace Undefines

theorem refl (s : State) : Undefines s s := ⟨rfl, rfl, fun _ => rfl⟩

theorem trans (h : Undefines s t) (k : Undefines t u) : Undefines s u :=
  ⟨k.polders.trans h.polders, k.poison.trans h.poison, fun d => (k.engines d).trans (h.engines d)⟩

theorem foldl {α : Type} {f : State → α → State} (hf : ∀ s x, Undefines s (f s x)) (xs : List α) (s : State) :
    Undefines s (xs.foldl f s) := List.foldlRecOn xs f (refl s) fun _ h x _ => h.trans (hf _ x)

end Undefines

theorem spoil_undefines (s : State) (a n : Nat) : Undefines s (spoil s a n) := ⟨rfl, rfl, fun _ => rfl⟩

theorem spoilHost_undefines (s : State) (a n : Nat) : Undefines s (spoilHost s a n) := ⟨rfl, rfl, fun _ => rfl⟩

theorem staleBuffer_undefines (s : State) (c : Fin 256) (a n : Nat) : Undefines s (staleBuffer s c a n) := by
  refine ⟨rfl, rfl, fun d => ?_⟩
  rw [staleBuffer, ve_nextDraw, ve, cluster_modCluster]
  split
  next h => subst h; rfl
  next => rfl

theorem staleAround_undefines (s : State) (c : Fin 256) (keep : List (Nat × Nat)) : Undefines s (staleAround s c keep) :=
  .foldl (fun s _ => staleBuffer_undefines s ..) _ s

theorem spoilSlices_undefines (s : State) (p : Fin 4) (keep : List (Nat × Nat)) : Undefines s (spoilSlices s p keep) :=
  .foldl (fun s _ => .foldl (fun s _ => spoil_undefines s ..) _ s) _ s

theorem spoilAreas_undefines (s : State) (rs : List Area) : Undefines s (spoilAreas s rs) := by
  refine .foldl (fun s r => .foldl (fun s i => ?_) _ s) rs s
  split
  · exact spoilHost_undefines ..
  · exact spoil_undefines ..

theorem spoilPrograms_undefines {r : VkRun} (s : State) (p : Fin 4) (h : cm.body = .vk r) : Undefines s (spoilPrograms s p cm) := by
  simp only [spoilPrograms, h]
  have hbuffers : Undefines s (if storesTo r.prog 1 then (rangeClusters s p r.base r.count).foldl (staleAround · · []) s else s) := by
    split
    · exact .foldl (fun s _ => staleAround_undefines s ..) _ s
    · exact .refl s
  split
  · exact hbuffers.trans (spoilSlices_undefines ..)
  · exact hbuffers

/-! ## A command that fails -/

/-- From s to t a command ends with a status and gives up its units. -/
structure Fails (p : Fin 4) (q : Fin 16) (n : Word) (st : Status) (s t : State) : Prop where
  command : ∃ x, cmdAt t p q n = some x ∧ x.res = some st
  poison : t.poison = s.poison
  engines : ∀ d, ve t d = freed (ve s d) p q n

theorem cmdAt_of_inflight (h : (polder t p).inflight = (polder s p).inflight) (q : Fin 16) (n : Word) :
    cmdAt t p q n = cmdAt s p q n := by rw [cmdAt, h, cmdAt]

theorem failCmd_fails {r : VkRun} (hcmd : cmdAt s p q n = some cm) (hbody : cm.body = .vk r) (st : Status) :
    Fails p q n st s (failCmd s p q n st) := by
  have hprograms := spoilPrograms_undefines s p hbody
  have hareas := spoilAreas_undefines (releaseUnits (spoilPrograms s p cm) p q n) cm.areas
  generalize hu : spoilAreas (releaseUnits (spoilPrograms s p cm) p q n) cm.areas = u at hareas
  have hfail : failCmd s p q n st = modCmd (endCmd (modPolder u p
      fun P => { P with claims := P.claims.filter fun t => !cm.claims.contains t }) p q n st) p q n fun c => { c with claims := [] } := by
    simp only [failCmd, hcmd, hu]
  rw [hfail]
  refine ⟨?_, hareas.poison.trans hprograms.poison, fun d => ?_⟩
  · have hpolders : u.polders = s.polders := hareas.polders.trans hprograms.polders
    rw [cmdAt_modCmd, endCmd, cmdAt_modCmd, cmdAt_of_inflight (s := s) (by rw [polder_modPolder_self, polder, hpolders]; rfl), hcmd]
    exact ⟨_, rfl, rfl⟩
  · have hve := (hareas.engines d).trans (ve_releaseUnits (spoilPrograms s p cm) p q n d)
    rw [hprograms.engines] at hve
    exact hve

/-! ## An exception (R155-R157) -/

theorem Moved.clusters {writes : Bool} (h : Moved writes false s t) : t.clusters = s.clusters := by
  obtain ⟨_, _, _, _, _, _, _, _, rfl, -, -, -, hclusters⟩ := h
  exact hclusters rfl

theorem clusters_memWrite (s : State) (a : Nat) (bs : List Byte) : (memWrite s a bs).1.clusters = s.clusters := by
  unfold memWrite
  dsimp only
  split_ifs <;> rfl

theorem ve_putReport (s : State) (p : Fin 4) (a : Nat) (rep : List Byte) (d : Fin 256) : ve (putReport s p a rep) d = ve s d := by
  have hclusters : (putReport s p a rep).clusters = s.clusters := by
    unfold putReport
    split
    · rfl
    · exact (touch_moved (writes := false) ..).clusters.trans (clusters_memWrite ..)
  rw [ve, cluster, hclusters]
  rfl

theorem cmdAt_modVes {α : Type} (s : State) (xs : List α) (at_ : α → Fin 256) (f : α → Ve → Ve) (p : Fin 4) (q : Fin 16) (n : Word) :
    cmdAt (modVes s xs at_ f) p q n = cmdAt s p q n := by rw [modVes_frame]; rfl

/-- Engines that stop at their next boundary. -/
theorem ve_stopping {cs : List (Fin 256)} (s : State) (owner : Fin 256 → Option (Fin 4 × Fin 16 × Word × Nat × Nat)) (hcs : cs.Nodup)
    (hd : d ∈ cs) :
    ve (modVes s (cs.map fun c => (c, owner c)) Prod.fst fun x V => { V with mode := .stopping, owner := x.2 }) d =
      { ve s d with mode := .stopping, owner := owner d } := by
  have hplaces : (cs.map fun c => (c, owner c)).Pairwise fun x y => x.1 ≠ y.1 := List.pairwise_map.2 hcs
  exact ve_modVes_at hplaces (List.mem_map_of_mem (f := fun c => (c, owner c)) hd)

/-- A command has failed with a cause, its units given up but those of `others`, which stop at their next boundary. -/
def stopped (s : State) (p : Fin 4) (q : Fin 16) (n : Word) (r : VkRun) (cause low : Nat) (others : List (Fin 256)) : State :=
  modVes (setBody (setDetail (failCmd s p q n (causeStatus cause)) p q n cause) p q n
      (.vk { r with started := true, raised := 1, low := low }))
    (others.map fun c => (c, (ve s c).owner)) Prod.fst fun x V => { V with mode := .stopping, owner := x.2 }

theorem failVk_eq (s : State) (p : Fin 4) (q : Fin 16) (n : Word) (r : VkRun) (cause low : Nat) (rep : List Byte)
    (others : List (Fin 256)) :
    failVk s p q n r cause low rep others = putReport (stopped s p q n r cause low others) p r.report rep := rfl

section
variable {r : VkRun} {cause low : Nat} {others : List (Fin 256)} (hcmd : cmdAt s p q n = some cm) (hbody : cm.body = .vk r)
include hcmd hbody

theorem cmdAt_stopped : ∃ x, cmdAt (stopped s p q n r cause low others) p q n = some x ∧ x.res = some (causeStatus cause) ∧
    x.detail = BitVec.ofNat 32 cause := by
  obtain ⟨x, hx, hres⟩ := (failCmd_fails hcmd hbody (causeStatus cause)).command
  rw [stopped, cmdAt_modVes, setBody, cmdAt_modCmd, setDetail, cmdAt_modCmd, hx]
  exact ⟨_, rfl, hres, rfl⟩

theorem poison_stopped : (stopped s p q n r cause low others).poison = s.poison := by
  rw [stopped, modVes_frame]
  exact (failCmd_fails hcmd hbody (causeStatus cause)).poison

theorem ve_stopped_of_mem (hothers : others.Nodup) (hd : d ∈ others) :
    ve (stopped s p q n r cause low others) d = { freed (ve s d) p q n with mode := .stopping, owner := (ve s d).owner } := by
  have hfreed : ve (setBody (setDetail (failCmd s p q n (causeStatus cause)) p q n cause) p q n
      (.vk { r with started := true, raised := 1, low := low })) d = freed (ve s d) p q n :=
    (failCmd_fails hcmd hbody (causeStatus cause)).engines d
  rw [stopped, ve_stopping _ _ hothers hd, hfreed]

theorem ve_stopped_of_notMem (hd : d ∉ others) : ve (stopped s p q n r cause low others) d = freed (ve s d) p q n := by
  have hother : ∀ x ∈ others.map fun c => (c, (ve s c).owner), x.1 ≠ d := fun x hx => by
    obtain ⟨c, hc, rfl⟩ := List.mem_map.1 hx
    exact ne_of_mem_of_not_mem hc hd
  exact (congrArg Cluster.ve (cluster_modVes_other hother)).trans ((failCmd_fails hcmd hbody (causeStatus cause)).engines d)

end

/-- The clusters whose engines run on to their next boundary when cluster c raises an exception. -/
def runOn (s : State) (p : Fin 4) (q : Fin 16) (n : Word) (c : Fin 256) : List (Fin 256) :=
  (launchOf s p q n).filter fun d => d != c && (ve s d).mode == .running

theorem mem_runOn (h : d ∈ runOn s p q n c) : d ≠ c ∧ (ve s d).mode = .running := by
  obtain ⟨-, hd⟩ := List.mem_filter.1 h
  simpa using hd

section
variable {r : VkRun} {cause pc addr : Nat} {w lanes : DWord} (hcmd : cmdAt s p q n = some cm) (hbody : cm.body = .vk r)
include hcmd hbody

theorem veTrap_vk :
    let x := trapCause s p q n c cause lanes addr
    veTrap s p q n c cause pc w lanes addr =
      putReport (stopped s p q n r x.1 (clusterIndex s p c) (runOn s p q n c)) p r.report
        (excReport x.1 (clusterIndex s p c) pc w x.2.1 x.2.2 1) := by
  simp only [veTrap, hcmd, hbody, failVk_eq, runOn]

/-- The command of an exception, and the engines that it still holds. -/
theorem veTrap_ends :
    let x := trapCause s p q n c cause lanes addr
    let t := veTrap s p q n c cause pc w lanes addr
    (∃ y, cmdAt t p q n = some y ∧ y.res = some (causeStatus x.1) ∧ y.detail = BitVec.ofNat 32 x.1) ∧
      ∀ d, ownedBy (ve t d) p q n = true → (ve t d).mode = .stopping ∧ d ≠ c ∧ (ve s d).mode = .running := by
  simp only [veTrap_vk hcmd hbody, ve_putReport]
  refine ⟨?_, fun d howned => ?_⟩
  · rw [cmdAt_of_inflight (putReport_beside ..).inflight]
    exact cmdAt_stopped hcmd hbody
  · have hnodup : (runOn s p q n c).Nodup := (nodup_launchOf s p q n).filter _
    by_cases hd : d ∈ runOn s p q n c
    · rw [ve_stopped_of_mem hcmd hbody hnodup hd]
      exact ⟨rfl, mem_runOn hd⟩
    · rw [ve_stopped_of_notMem hcmd hbody hd, ownedBy_freed] at howned
      exact absurd howned Bool.false_ne_true

theorem veTrap_report (hreport : r.report ≠ 0) (hpoison : Unpoisoned s) :
    let x := trapCause s p q n c cause lanes addr
    memBytes (veTrap s p q n c cause pc w lanes addr) r.report 64 =
      excReport x.1 (clusterIndex s p c) pc w x.2.1 x.2.2 1 := by
  intro x
  rw [veTrap_vk hcmd hbody, ← excReport_length x.1 (clusterIndex s p c) pc w x.2.1 x.2.2 1]
  have hstopped : Unpoisoned (stopped s p q n r x.1 (clusterIndex s p c) (runOn s p q n c)) :=
    (poison_stopped hcmd hbody).trans hpoison
  refine (putReport_holds hstopped p r.report _).1 (r.report, _) ?_
  rw [reportLines, if_neg hreport]
  exact List.mem_singleton_self _

end

theorem strandsOthers_iff : strandsOthers s p q n c = true ↔
    ∃ d ∈ launchOf s p q n, (ve s d).mode = .atBarrier ∧ (ve s c).bars < (ve s d).bars := by
  simp [strandsOthers]

/-- Settles O19: what end makes of a launch and of a copy program, and what an exception leaves of its command, its engines and its
report. -/
theorem launchesEndWholeOrByAnException : Obligations.LaunchesEndWholeOrByAnException := by
  unfold Obligations.LaunchesEndWholeOrByAnException
  refine ⟨fun s c p q n cm r hr hplain hcmd hbody hclash => ?_, fun s c p q n cm r k count o hr hplain hcmd hbody howner hblock => ?_,
    fun s p q n c cause pc w lanes addr cm r hcmd hbody => ?_⟩
  · obtain ⟨i, k, howner⟩ := owner_of_runningFor hr.1
    have hrow : exec (.veEnd c) s = .next (launchEnded (endedAt s c) p q n) :=
      congrArg Host.Outcome.next (veRow_flow hr (doEnd_vk hplain howner hcmd hbody hclash))
    refine ⟨fun hrunning => hrow.trans (congrArg _ (launchEnded_of_running hrunning)), fun hended => ?_⟩
    exact ⟨_, hrow.trans (congrArg _ (launchEnded_of_ended hended)), fun x hx => res_setResult hx,
      launchOf_setResult_releaseUnits .., rfl⟩
  · exact congrArg Host.Outcome.next (veRow_flow hr (doEnd_update hplain howner hcmd hbody hblock))
  · obtain ⟨⟨y, hy, hres, hdetail⟩, hengines⟩ := veTrap_ends (c := c) (cause := cause) (pc := pc) (w := w) (lanes := lanes)
      (addr := addr) hcmd hbody
    refine ⟨fun y' hy' => ?_, Option.isSome_of_eq_some hy, hengines, fun hreached => if_neg fun hstrands => ?_, fun hstrands => ?_,
      veTrap_report hcmd hbody⟩
    · obtain rfl := Option.some.inj (hy.symm.trans hy')
      exact ⟨hres, hdetail⟩
    · obtain ⟨d, hd, hmode, hbars⟩ := strandsOthers_iff.1 hstrands
      exact absurd (hreached d hd hmode) (Nat.not_le.2 hbars)
    · rw [trapCause, if_pos (strandsOthers_iff.2 hstrands)]

end Sys2Proof.Machine
end

section
/-! SUPPORT. GAUGE_CONFIG and GOV_CONFIG (R167-R169, R188, R189): what a request stages and what it configures; GROUP_CONFIG and
SCHED_CONFIG (R198, R204): a list of entries, each ID once, that takes effect whole. -/

namespace Sys2Proof.Machine

variable {s u : State} {p : Fin 4} {f : Fin 5} {typ len : Nat} {bs b : List Byte} {pick : List Byte → Bool}
  {act : State → List Byte → Answer}

/-! ## A ring or a log -/

/-- A handler's answer from s: refused at the first check that fails, else accepted with next state u. -/
def checkedAnswer (checks : List (Bool × Status)) (s u : State) : Answer :=
  match firstFail checks with
  | some st => refuse s st
  | none => accept u

/-- A row that refuses a malformed request, then a span outside the polder's memory, and otherwise accepts. -/
theorem row_checked {i : Instr} {shaped inside : Bool} (hrow : exec i s = .next (serve s f typ len pick act))
    (h : Asks s f typ len bs b) (hp : pick b = true)
    (hact : act s b = checkedAnswer [(shaped, .descInvalid), (inside, .accessDenied)] s u) :
    (shaped = false → ∃ t, exec i s = .next t ∧ Answered s t f bs .descInvalid []) ∧
    (shaped = true → inside = false → ∃ t, exec i s = .next t ∧ Answered s t f bs .accessDenied []) ∧
    (shaped = true → inside = true → ∃ t, exec i s = .next t ∧ Answered u t f bs .ok []) := by
  refine ⟨fun hshaped => ⟨_, hrow, ?_⟩, fun hshaped hinside => ⟨_, hrow, ?_⟩, fun hshaped hinside => ⟨_, hrow, ?_⟩⟩ <;> subst shaped
  · exact serve_answered h hp hact
  · subst inside; exact serve_answered h hp hact
  · subst inside; exact serve_answered h hp hact

/-! ## Entries of a table -/

section
variable {α β : Type} [DecidableEq α] {d : α}

omit [DecidableEq α] in
/-- What a table keeps beside one key is part of the table, in another order where the table is not in ascending order. -/
theorem besideKey_subperm (t : Tab α) (k : Nat) :
    ((t.filter fun c => decide (c.1 < k)) ++ t.filter fun c => decide (k + 1 ≤ c.1)).Subperm t := by
  refine List.Subperm.trans (List.Sublist.subperm ?_) (List.filter_append_perm (fun c => decide (c.1 < k)) t).subperm
  exact (List.Sublist.refl _).append (List.monotone_filter_right t fun c hc => by simp only [decide_eq_true_eq] at hc; simp; omega)

theorem tabSet_of_ne (t : Tab α) (k : Nat) {v : α} (h : v ≠ d) :
    tabSet d t k v = (t.filter fun c => decide (c.1 < k)) ++ (k, v) :: t.filter fun c => decide (k + 1 ≤ c.1) := by
  simp [tabSet, tabSplice, tabRow, h]

theorem tabSet_default (t : Tab α) (k : Nat) :
    tabSet d t k d = (t.filter fun c => decide (c.1 < k)) ++ t.filter fun c => decide (k + 1 ≤ c.1) := by
  simp [tabSet, tabSplice, tabRow]

/-- Entries with distinct keys, written one after the other: each key of theirs holds its entry, every other what it held. -/
theorem tabGet_foldl_tabSet (key : β → Nat) (val : β → α) {es : List β} (h : (es.map key).Nodup) (t : Tab α) :
    (∀ x ∈ es, tabGet d (es.foldl (fun t x => tabSet d t (key x) (val x)) t) (key x) = val x) ∧
    (∀ k, (∀ x ∈ es, key x ≠ k) → tabGet d (es.foldl (fun t x => tabSet d t (key x) (val x)) t) k = tabGet d t k) := by
  induction es generalizing t with
  | nil => exact ⟨fun _ hx => absurd hx List.not_mem_nil, fun _ _ => rfl⟩
  | cons y ys ih =>
    obtain ⟨hy, hys⟩ := List.nodup_cons.1 h
    obtain ⟨hin, hout⟩ := ih hys (tabSet d t (key y) (val y))
    refine ⟨fun x hx => ?_, fun k hk => ?_⟩
    · obtain rfl | hx := List.mem_cons.1 hx
      · have hlater (z : β) (hz : z ∈ ys) : key z ≠ key x := fun e => hy (e ▸ List.mem_map_of_mem hz)
        rw [List.foldl_cons, hout _ hlater, tabGet_tabSet, if_pos rfl]
      · exact hin x hx
    · rw [List.foldl_cons, hout _ fun z hz => hk z (List.mem_cons_of_mem _ hz), tabGet_tabSet,
        if_neg (hk y List.mem_cons_self).symm]

end

/-! ## One gauge entry (R167-R170) -/

section
variable {P : Polder} {g : GaugeEntry}

theorem futureGauges_of_nothing_staged (h : P.staged = []) : futureGauges P = P.gauges := by
  simp [futureGauges, stagedGauges, h]

theorem gaugeLive_of_nothing_staged (h : P.staged = []) (id : Nat) : gaugeLive P id = (gaugeOf P id).isSome := by
  simp [gaugeLive, stagedGauges, h]

theorem removalsOk_singleton (P : Polder) (g : GaugeEntry) : removalsOk P [] [g] = (!g.remove || gaugeLive P g.id) := by
  simp [removalsOk]

theorem applyEntry_remove (gs : Tab (Option Gauge)) (h : g.remove = true) : applyEntry gs g = tabSet none gs g.id none := if_pos h

theorem applyEntry_new {gs : Tab (Option Gauge)} (h : g.remove = false) (hnew : tabGet none gs g.id = none) :
    applyEntry gs g = tabSet none gs g.id (some (newGauge g)) := by
  simp [applyEntry, h, tabMod, hnew]

/-- Two spans share no byte. -/
def SpansApart (x y : Nat × Nat) : Prop := ¬ (x.1 < y.1 + y.2 ∧ y.1 < x.1 + x.2)

theorem spansMeet_eq_false {xs : List (Nat × Nat)} : spansMeet xs = false ↔ xs.Pairwise SpansApart := by
  induction xs with
  | nil => simp [spansMeet]
  | cons x xs ih => simp [spansMeet, SpansApart, ih, List.pairwise_cons]

theorem spansMeet_of_subperm {xs ys : List (Nat × Nat)} (h : xs.Subperm ys) (hys : spansMeet ys = false) : spansMeet xs = false := by
  obtain ⟨zs, hperm, hsub⟩ := h
  rw [spansMeet_eq_false] at hys ⊢
  exact (hperm.pairwise_iff fun hxy hyx => hxy hyx.symm).1 (hys.sublist hsub)

theorem managedSpans_append (xs ys : Tab (Option Gauge)) : managedSpans (xs ++ ys) = managedSpans xs ++ managedSpans ys :=
  List.flatMap_append

/-- A gauge without managed tables adds no span. -/
theorem managedSpans_unmanaged (gs : Tab (Option Gauge)) (id : Nat) {G : Gauge} (h : G.scaleAddr = 0) :
    (managedSpans (tabSet none gs id (some G))).Subperm (managedSpans gs) := by
  have hone : managedSpans [(id, some G)] = [] := by simp [managedSpans, h]
  obtain ⟨zs, hperm, hsub⟩ := besideKey_subperm gs id
  rw [tabSet_of_ne gs id (Option.some_ne_none G), List.append_cons, managedSpans_append, managedSpans_append, hone, List.append_nil,
    ← managedSpans_append]
  exact ⟨_, hperm.flatMap_right _, hsub.flatMap _⟩

/-- A gauge that is not configured and has no managed tables is configured at once (R169). -/
theorem takeGauge_new (h : g.remove = false) (hunmanaged : g.scaleAddr = 0) (hnew : gaugeOf (polder s p) g.id = none) :
    takeGauge s p g =
      modPolder s p fun P => { P with gauges := tabSet none (polder s p).gauges g.id (some (newGauge g)) } := by
  have htake : takeGauge s p g = (putGauge s p g).1 := by simp [takeGauge, h, hnew]
  have hput : gaugeOf (polder (modPolder s p fun P => { P with gauges := applyEntry P.gauges g }) p) g.id = some (newGauge g) := by
    rw [polder_modPolder_self, gaugeOf, applyEntry_new h hnew, tabGet_tabSet, if_pos rfl]
  have hclear (t : State) : clearTable t p (newGauge g) = (t, true) := if_pos hunmanaged
  rw [htake, putGauge]
  simp only [hput, hnew, tableChanged, if_true, hclear]
  exact modPolder_congr (by rw [applyEntry_new h hnew])

theorem takeGauge_remove (h : g.remove = true) :
    takeGauge s p g = modPolder s p fun P => { P with staged := P.staged ++ [.gauge g] } := by
  simp [takeGauge, h]

/-- Both tables of a managed gauge lie in the polder's memory (R168). -/
def tablesInside (s : State) (p : Fin 4) (g : GaugeEntry) : Bool :=
  g.scaleAddr == 0 ||
    (accessOk s p true g.scaleAddr (tableBytes g.lines g.bpl) && accessOk s p true g.stateAddr (tableBytes g.lines g.bpl))

/-- The polder's gauges, with all that is staged and this entry, are at most 1,024 with tables apart, and a removal names a
configured one (R168). -/
def gaugeFits (P : Polder) (g : GaugeEntry) : Bool :=
  !spansMeet (managedSpans (applyEntry (futureGauges P) g)) && decide ((applyEntry (futureGauges P) g).length ≤ 1024) &&
    removalsOk P [] [g]

theorem tablesInside_unmanaged (h : g.scaleAddr = 0) : tablesInside s p g = true := by simp [tablesInside, h]

theorem gaugeFits_remove (h : g.remove = true) (hstaged : P.staged = []) (hlength : P.gauges.length ≤ 1024)
    (hmeet : spansMeet (managedSpans (applyEntry P.gauges g)) = false) : gaugeFits P g = (gaugeOf P g.id).isSome := by
  have hle : (applyEntry P.gauges g).length ≤ 1024 := by
    rw [applyEntry_remove _ h, tabSet_default]
    exact (besideKey_subperm ..).length_le.trans hlength
  simp [gaugeFits, futureGauges_of_nothing_staged hstaged, hmeet, hle, removalsOk_singleton, h, gaugeLive_of_nothing_staged hstaged]

theorem gaugeFits_new (h : g.remove = false) (hunmanaged : g.scaleAddr = 0) (hstaged : P.staged = [])
    (hlength : P.gauges.length < 1024) (hmeet : spansMeet (managedSpans P.gauges) = false) (hnew : gaugeOf P g.id = none) :
    gaugeFits P g = true := by
  have hle : (applyEntry P.gauges g).length ≤ 1024 := by
    have hbeside := (besideKey_subperm P.gauges g.id).length_le
    rw [List.length_append] at hbeside
    rw [applyEntry_new h hnew, tabSet_of_ne _ _ (Option.some_ne_none _), List.length_append, List.length_cons]
    omega
  have hapart : spansMeet (managedSpans (applyEntry P.gauges g)) = false := by
    rw [applyEntry_new h hnew]
    exact spansMeet_of_subperm (managedSpans_unmanaged _ _ hunmanaged) hmeet
  simp [gaugeFits, futureGauges_of_nothing_staged hstaged, hapart, hle, removalsOk_singleton, h]

/-- GAUGE_CONFIG of one entry is checked in the order of R168. -/
theorem gaugeConfigEntries_answered {raw : List Byte} {st : Status} (hasks : Asks s (vf p) 0x107 32 bs b) (hop : fld b 0 2 = 1)
    (hrsvd : zeroAt b 4 4 = true ∧ zeroAt b 0x14 12 = true) (hone : fld b 2 2 = 1) (hlen : 64 ≤ b.length)
    (hraw : (b.drop 32).take 32 = raw)
    (hact : checkedAnswer [(gaugeEntryOk raw, .descInvalid), (gaugeFits (polder s p) (readGaugeEntry raw), .descInvalid),
      (tablesInside s p (readGaugeEntry raw), .accessDenied)] s (takeGauge s p (readGaugeEntry raw)) = (u, st, [])) :
    Answered u (doGaugeConfigEntries p s) (vf p) bs st [] := by
  refine serve_answered hasks (by simp [op2Is, hop]) (Eq.trans ?_ hact)
  have hslice : slices b 0x20 32 1 = [raw] := hraw ▸ rfl
  simp only [hone, hslice, hrsvd, List.map_singleton, List.foldl_cons, List.foldl_nil, List.all_cons, List.all_nil, Bool.and_true,
    Bool.true_and, decide_true, hlen, le_refl, Nat.one_le_ofNat]
  rfl

end

/-! ## Groups and schedules (R198, R204) -/

/-- Entry k of a request whose entries of one size follow 32 bytes. -/
def entryAt (b : List Byte) (size k : Nat) : List Byte := (b.drop (32 + size * k)).take size

section
variable {n size : Nat} {head : Bool} {ok : List Byte → Bool}

/-- The first n entries name n IDs. -/
def IdsApart (b : List Byte) (size n : Nat) : Prop :=
  ∀ i j, i < n → j < n → i ≠ j → fld (entryAt b size i) 0 1 ≠ fld (entryAt b size j) 0 1

theorem mem_slices {x : List Byte} : x ∈ slices b 32 size n ↔ ∃ k, k < n ∧ entryAt b size k = x := by
  simp [slices, entryAt]

theorem ids_nodup_iff : ((slices b 32 size n).map fun x => fld x 0 1).Nodup ↔ IdsApart b size n := by
  have hmap : (slices b 32 size n).map (fun x => fld x 0 1) = (List.range n).map fun k => fld (entryAt b size k) 0 1 := List.map_map
  rw [hmap, List.nodup_map_iff_inj_on List.nodup_range]
  simp only [List.mem_range, IdsApart]
  exact ⟨fun h i j hi hj hne e => hne (h i hi j hj e), fun h i hi j hj e => by_contra fun hne => h i j hi hj hne e⟩

theorem entriesPass_iff : (head && idsDiffer (slices b 32 size n) && (slices b 32 size n).all ok) = true ↔
    head = true ∧ IdsApart b size n ∧ ∀ k, k < n → ok (entryAt b size k) = true := by
  rw [Bool.and_eq_true, Bool.and_eq_true, idsDiffer, decide_eq_true_eq, ids_nodup_iff, List.all_eq_true, and_assoc]
  refine and_congr_right' (and_congr_right' ⟨fun h k hk => h _ (mem_slices.2 ⟨k, hk, rfl⟩), fun h x hx => ?_⟩)
  obtain ⟨k, hk, rfl⟩ := mem_slices.1 hx
  exact h k hk

/-- A row that takes the entries of a request all or none. -/
theorem row_entries {i : Instr} (hrow : exec i s = .next (serve s f typ len pick act)) (h : Asks s f typ len bs b)
    (hp : pick b = true)
    (hact : act s b = if head && idsDiffer (slices b 32 size n) && (slices b 32 size n).all ok then accept u
      else refuse s .descInvalid) :
    (head = false ∨ ¬ IdsApart b size n ∨ (∃ k, k < n ∧ ok (entryAt b size k) = false) →
      ∃ t, exec i s = .next t ∧ Answered s t f bs .descInvalid []) ∧
    (head = true → IdsApart b size n → (∀ k, k < n → ok (entryAt b size k) = true) →
      ∃ t, exec i s = .next t ∧ Answered u t f bs .ok []) := by
  refine ⟨fun hbad => ⟨_, hrow, serve_answered h hp (hact.trans (if_neg fun hpass => ?_))⟩, fun hhead hapart hok =>
    ⟨_, hrow, serve_answered h hp (hact.trans (if_pos (entriesPass_iff.2 ⟨hhead, hapart, hok⟩)))⟩⟩
  obtain ⟨hhead, hapart, hok⟩ := entriesPass_iff.1 hpass
  obtain hbad | hbad | ⟨k, hk, hbad⟩ := hbad
  · exact absurd hhead (by simp [hbad])
  · exact hbad hapart
  · exact absurd (hok k hk) (by simp [hbad])

/-- The entries of a request in a table: each ID holds its entry, every other ID what it held. -/
theorem tabGet_entries {α : Type} [DecidableEq α] (d : α) (val : List Byte → α) (t : Tab α) (h : IdsApart b size n) :
    let t' := (slices b 32 size n).foldl (fun t x => tabSet d t (fld x 0 1) (val x)) t
    (∀ k, k < n → tabGet d t' (fld (entryAt b size k) 0 1) = val (entryAt b size k)) ∧
    (∀ id, (∀ k, k < n → fld (entryAt b size k) 0 1 ≠ id) → tabGet d t' id = tabGet d t id) := by
  obtain ⟨hin, hout⟩ := tabGet_foldl_tabSet (d := d) (fun x : List Byte => fld x 0 1) val (ids_nodup_iff.2 h) t
  refine ⟨fun k hk => hin _ (mem_slices.2 ⟨k, hk, rfl⟩), fun id hid => hout id fun x hx => ?_⟩
  obtain ⟨k, hk, rfl⟩ := mem_slices.1 hx
  exact hid k hk

end

/-- What an entry of GROUP_CONFIG leaves at its ID. -/
def groupOf (b : List Byte) : Option Group := if removes b then none else some (readGroup b)

/-- What an entry of SCHED_CONFIG leaves at its ID. -/
def schedOf (b : List Byte) : Option Sched := if removes b then none else some (readSched b)

theorem foldl_putGroup (es : List (List Byte)) (P : Polder) : es.foldl putGroup P =
    { P with groups := es.foldl (fun t x => tabSet none t (fld x 0 1) (groupOf x)) P.groups } := by
  induction es generalizing P with
  | nil => rfl
  | cons x xs ih => exact ih (putGroup P x)

theorem modPolder_putGroups (es : List (List Byte)) : modPolder s p (fun P => es.foldl putGroup P) = modPolder s p fun P =>
    { P with groups := es.foldl (fun t x => tabSet none t (fld x 0 1) (groupOf x)) (polder s p).groups } :=
  modPolder_congr (foldl_putGroup es (polder s p))

theorem foldl_putSched (es : List (List Byte)) (P : Polder) : es.foldl putSched P =
    { P with scheds := es.foldl (fun t x => tabSet none t (fld x 0 1) (schedOf x)) P.scheds } := by
  induction es generalizing P with
  | nil => rfl
  | cons x xs ih => exact ih (putSched P x)

theorem modPolder_putScheds (es : List (List Byte)) : modPolder s p (fun P => es.foldl putSched P) = modPolder s p fun P =>
    { P with scheds := es.foldl (fun t x => tabSet none t (fld x 0 1) (schedOf x)) (polder s p).scheds } :=
  modPolder_congr (foldl_putSched es (polder s p))

/-- Settles O33: a request is checked in its order and staged or taken whole; the one gauge that a request configures at once adds no
table, and the entries of a table have distinct IDs. -/
theorem configurationIsStagedOrAppliedWhole : Obligations.ConfigurationIsStagedOrAppliedWhole := by
  unfold Obligations.ConfigurationIsStagedOrAppliedWhole
  refine ⟨fun s p bs b => ⟨fun hasks => ⟨fun hop => ?_, fun hop hrsvd hrsvd' hone hlen => ?_⟩,
    fun hasks => ⟨fun hop => ?_, fun hop => ?_⟩⟩, fun s p bs b => ⟨fun hasks => ?_, fun hasks => ?_⟩⟩
  · exact row_checked rfl hasks (by simp [op2Is, hop]) rfl
  · have hentry {u : State} {st : Status} := gaugeConfigEntries_answered (u := u) (st := st) hasks hop ⟨hrsvd, hrsvd'⟩ hone hlen rfl
    refine ⟨fun hbad => ⟨_, rfl, hentry (by rw [hbad]; rfl)⟩, fun hok hremove hunmanaged hstaged hlength hmeet => ⟨_, rfl, hentry ?_⟩,
      fun hok hremove hunmanaged hstaged hlength hmeet hnew => ⟨_, ⟨_, rfl, hentry ?_⟩,
        (tabGet_tabSet ..).trans (if_pos rfl), fun k hk => (tabGet_tabSet ..).trans (if_neg hk)⟩⟩
    · rw [hok, tablesInside_unmanaged hunmanaged, gaugeFits_remove hremove hstaged hlength hmeet, takeGauge_remove hremove]
      cases (gaugeOf (polder s p) _).isSome <;> rfl
    · rw [hok, tablesInside_unmanaged hunmanaged, gaugeFits_new hremove hunmanaged hstaged hlength hmeet hnew,
        takeGauge_new hremove hunmanaged hnew]
      rfl
  · exact row_checked rfl hasks (by simp [op2Is, hop]) rfl
  · refine ⟨_, rfl, serve_answered hasks (by simp [op2Is, hop]) ?_⟩
    dsimp only
    split <;> rfl
  · obtain ⟨hbad, hok⟩ := row_entries (i := .groupConfig p) rfl hasks rfl rfl
    rw [modPolder_putGroups] at hok
    exact ⟨hbad, fun hhead hapart hall => ⟨_, hok hhead hapart hall, tabGet_entries none groupOf _ hapart⟩⟩
  · obtain ⟨hbad, hok⟩ := row_entries (i := .schedConfig p) rfl hasks rfl rfl
    rw [modPolder_putScheds] at hok
    exact ⟨hbad, fun hhead hapart hall => ⟨_, hok hhead hapart hall, tabGet_entries none schedOf _ hapart⟩⟩

end Sys2Proof.Machine
end

section
/-! SUPPORT. STEP (R171-R175): what closing a step moves, the four ways its fence ends, and the statement on them, refuted: a command
start may write the descriptor that it reads. -/

namespace Sys2Proof.Machine

variable {s t u : State} {p : Fin 4} {q : Fin 16} {e : Entry} {c : Cmd} {staged : Nat}

/-! ## What closing a step moves -/

/-- State s with what closing a step may move taken from t. -/
def withClosed (s t : State) : State :=
  { s with polders := t.polders, mem := t.mem, undef := t.undef, watch := t.watch, poison := t.poison, counters := t.counters,
           sites := t.sites, draws := t.draws, funcs := t.funcs, msix := t.msix }

/-- From s to t tables, records and log entries of polder p were written and events raised: nothing else of the module has changed,
and of the polder its gauges, layers, gauge ring, log and traffic alone (R174). -/
structure Closing (p : Fin 4) (s t : State) : Prop where
  eq : t = withClosed s t
  others : ∀ x, x ≠ p → polder t x = polder s x
  held : polder t p = { polder s p with
    chanBytes := (polder t p).chanBytes, gauges := (polder t p).gauges, layers := (polder t p).layers,
    gRing := (polder t p).gRing, recSeq := (polder t p).recSeq, log := (polder t p).log }

namespace Closing

theorem refl (p : Fin 4) (s : State) : Closing p s s := ⟨rfl, fun _ _ => rfl, rfl⟩

theorem trans (h : Closing p s t) (k : Closing p t u) : Closing p s u where
  eq := calc u
    _ = withClosed t u := k.eq
    _ = withClosed (withClosed s t) u := congrArg (withClosed · u) h.eq
  others x hx := (k.others x hx).trans (h.others x hx)
  held := by rw [k.held, h.held]

theorem foldl {α : Type} {f : State → α → State} (hf : ∀ s x, Closing p s (f s x)) (xs : List α) (s : State) :
    Closing p s (xs.foldl f s) := List.foldlRecOn xs f (refl p s) fun _ h x _ => h.trans (hf _ x)

/-- The state beside what a fold gathers. -/
theorem foldl_fst {α β : Type} {f : State × β → α → State × β} (hf : ∀ x a, Closing p x.1 (f x a).1) (xs : List α) (x : State × β) :
    Closing p x.1 (xs.foldl f x).1 :=
  List.foldlRecOn (motive := fun y => Closing p x.1 y.1) xs f (refl p x.1) fun _ h a _ => h.trans (hf _ a)

theorem ite (c : Prop) [Decidable c] (h : Closing p s t) (k : Closing p s u) : Closing p s (if c then t else u) := by
  split
  · exact h
  · exact k

/-- An update of no polder. -/
theorem same (heq : t = withClosed s t) (h : t.polders = s.polders) : Closing p s t :=
  have hp (x : Fin 4) : polder t x = polder s x := congrArg (Vector.get · x) h
  ⟨heq, fun x _ => hp x, by rw [hp]⟩

/-- Counts and traffic that leave the commands in flight as they are. -/
theorem ofMoved (h : Moved false false s t) (k : BesideQueues p s t) : Closing p s t where
  eq := by obtain ⟨_, _, _, _, _, _, _, _, rfl, -, -, -, hclusters⟩ := h; cases hclusters rfl; rfl
  others := k.others
  held := by rw [(h.carries p).1, k.inflight]

end Closing

theorem modPolder_closing (s : State) (p : Fin 4) {f : Polder → Polder}
    (hf : ∀ P, f P = { P with chanBytes := (f P).chanBytes, gauges := (f P).gauges, layers := (f P).layers,
                              gRing := (f P).gRing, recSeq := (f P).recSeq, log := (f P).log } := by exact fun _ => rfl) :
    Closing p s (modPolder s p f) where
  eq := rfl
  others _ hx := polder_modPolder_ne s f hx
  held := by rw [polder_modPolder_self]; exact hf _

theorem memWrite_closing (s : State) (p : Fin 4) (a : Nat) (bs : List Byte) : Closing p s (memWrite s a bs).1 :=
  .same (by rw [memWrite_eq]; rfl) (by rw [memWrite_eq])

theorem noteAccess_closing (s : State) (p : Fin 4) (set : BitVec 16) (a n : Nat) : Closing p s (noteAccess s p set a n) :=
  .ofMoved (noteAccess_moved ..) (noteAccess_beside (.refl p s))

theorem unitWrite_closing (s : State) (p : Fin 4) (set : BitVec 16) (a : Nat) (bs : List Byte) :
    Closing p s (unitWrite s p set a bs).1 := (memWrite_closing ..).trans (noteAccess_closing ..)

theorem unitWrites_closing (s : State) (p : Fin 4) (set : BitVec 16) (ws : List (Nat × List Byte)) :
    Closing p s (unitWrites s p set ws).1 := by
  refine .foldl_fst (fun x w => ?_) ws (s, true)
  exact unitWrite_closing ..

/-! ## The actions of R174 -/

theorem spillOne_closing (still : Bool) (p : Fin 4) (set : BitVec 16) (g : Gauge) (x : State × SpillInfo) (i : Nat) :
    Closing p x.1 (spillOne still p set g x i).1 := by
  have hput (s : State) (a v : Nat) : Closing p s (noteAccess (memPut s a (withComp 1 v)) p set a 2) :=
    .trans (t := memPut s a (withComp 1 v)) (.same rfl rfl) (noteAccess_closing ..)
  exact .trans (.ite _ (.refl p _) (hput ..)) (.ite _ (.refl p _) (hput ..))

theorem spillGauge_closing (s : State) (p : Fin 4) (set : BitVec 16) (still : Bool) (g : Gauge) :
    Closing p s (spillGauge s p set still g).1 := by
  unfold spillGauge
  split
  · exact .refl p s
  · exact (Closing.foldl (fun _ _ => noteAccess_closing ..) _ s).trans (.foldl_fst (fun _ _ => spillOne_closing ..) _ (_, _))

theorem spillAll_closing (s : State) (p : Fin 4) (set : BitVec 16) (still : Bool) (gs : List (Nat × Gauge)) :
    Closing p s (spillAll s p set still gs).1 := by
  induction gs generalizing s with
  | nil => exact .refl p s
  | cons g gs ih => exact (spillGauge_closing ..).trans (ih _)

theorem queueEvent_closing (s : State) (p : Fin 4) (f : Fin 5) (code : BitVec 16) (n : Byte) (payload : List Byte) :
    Closing p s (queueEvent s f code n payload) := by
  unfold queueEvent
  dsimp only
  rw [raiseCause_eq]
  exact .same rfl rfl

theorem silentEvents_closing (s : State) (p : Fin 4) (n : Word) (gs : List (Nat × Gauge)) :
    Closing p s (silentEvents s p n gs) :=
  .foldl (fun _ _ => .ite _ ((queueEvent_closing ..).trans (queueEvent_closing ..)) (.refl p _)) gs s

theorem writeRecords_closing (s : State) (p : Fin 4) (set : BitVec 16) (n : Word) (t : DWord) (info : Tab SpillInfo)
    (gs : List (Nat × Gauge)) : Closing p s (writeRecords s p set n t info gs) := by
  refine .foldl (fun s x => ?_) gs s
  split
  · exact .refl p s
  · exact (unitWrite_closing ..).trans (modPolder_closing ..)

theorem writeLog_closing (s : State) (p : Fin 4) (set : BitVec 16) (ls : List WidthLog) : Closing p s (writeLog s p set ls).1 := by
  unfold writeLog
  split
  · exact .refl p s
  · dsimp only
    split
    · exact .refl p s
    · exact (unitWrites_closing ..).trans (modPolder_closing _ p)

theorem clearTable_closing (s : State) (p : Fin 4) (g : Gauge) : Closing p s (clearTable s p g).1 := by
  unfold clearTable
  split
  · exact .refl p s
  · exact (memWrite_closing ..).trans (.ofMoved (touch_moved ..) (touch_beside (.refl p _)))

theorem putGauge_closing (s : State) (p : Fin 4) (g : GaugeEntry) : Closing p s (putGauge s p g).1 := by
  have hput : Closing p s (modPolder s p fun P => { P with gauges := applyEntry P.gauges g }) := modPolder_closing ..
  unfold putGauge
  dsimp only
  split
  · split
    · exact hput.trans (clearTable_closing ..)
    · exact hput
  · exact hput

theorem applyStaged_closing (s : State) (p : Fin 4) : ∀ x, Closing p s (applyStaged s p x).1
  | .ring .. => modPolder_closing ..
  | .log .. => modPolder_closing ..
  | .gauge g => putGauge_closing s p g
  | .layer _ => modPolder_closing ..

theorem applyAll_closing (s : State) (p : Fin 4) (xs : List Staged) : Closing p s (applyAll s p xs).1 := by
  induction xs generalizing s with
  | nil => exact .refl p s
  | cons x xs ih => exact (applyStaged_closing ..).trans (ih _)

/-! ### What they leave alone where a polder has no table, ring or log -/

theorem spillAll_unmanaged {gs : List (Nat × Gauge)} (h : ∀ x ∈ gs, x.2.scaleAddr = 0) (s : State) (p : Fin 4) (set : BitVec 16)
    (still : Bool) : (spillAll s p set still gs).1 = s := by
  induction gs with
  | nil => rfl
  | cons g gs ih =>
    obtain ⟨hg, hgs⟩ := List.forall_mem_cons.1 h
    have hone : (spillGauge s p set still g.2).1 = s := by rw [spillGauge, if_pos hg]
    simp only [spillAll, hone, ih hgs]

theorem writeRecords_noRing (h : (polder s p).gRing = none) (set : BitVec 16) (n : Word) (t : DWord) (info : Tab SpillInfo)
    (gs : List (Nat × Gauge)) : writeRecords s p set n t info gs = s :=
  List.foldlRecOn (motive := fun x => x = s) gs _ rfl fun x hx _ _ => by subst hx; simp only [h]

theorem writeLog_noLog (h : (polder s p).log = none) (set : BitVec 16) (ls : List WidthLog) : writeLog s p set ls = (s, true) := by
  simp only [writeLog, h]

theorem writeLog_nil (s : State) (p : Fin 4) (set : BitVec 16) : writeLog s p set [] = (s, true) := by
  unfold writeLog
  split <;> rfl

theorem silentEvents_noted (s : State) (p : Fin 4) (n : Word) (gs : List (Nat × Gauge)) : Noted s (silentEvents s p n gs) :=
  .foldl (fun _ _ => .ite _ ((queueEvent_noted ..).trans (queueEvent_noted ..)) (.refl _)) gs s

theorem Noted.polders (h : Noted s t) : t.polders = s.polders := by
  obtain ⟨_, _, _, _, _, _, rfl⟩ := h
  rfl

theorem Noted.sameMem (h : Noted s t) : SameMem s t := by
  obtain ⟨_, _, _, _, _, _, rfl⟩ := h
  exact ⟨rfl, rfl⟩

/-- The state in which a STEP has written its tables, records and log entries, before the step advances. -/
def writtenAtStep (s : State) (p : Fin 4) (set : BitVec 16) : State :=
  let sp := spillAll s p set (inDefaulted (polder s p)) (gaugeList (polder s p))
  let gov := governAll (polder sp.1 p) ((polder s p).step + 1) (polder sp.1 p).layers
  let u := modPolder sp.1 p fun P => { P with layers := gov.1 }
  let gs := gaugeList (polder u p)
  (writeLog (writeRecords (silentEvents u p (polder s p).step gs) p set (polder s p).step (leveeTime s) sp.2 gs) p set gov.2.1).1

theorem writtenAtStep_closing (s : State) (p : Fin 4) (set : BitVec 16) : Closing p s (writtenAtStep s p set) :=
  (spillAll_closing ..).trans ((modPolder_closing _ p).trans ((silentEvents_closing ..).trans ((writeRecords_closing ..).trans
    (writeLog_closing ..))))

theorem writtenAtStep_sameMem (set : BitVec 16) (hring : (polder s p).gRing = none) (hlog : (polder s p).log = none)
    (hmanaged : managed (polder s p) = []) : SameMem s (writtenAtStep s p set) := by
  have hspill : (spillAll s p set (inDefaulted (polder s p)) (gaugeList (polder s p))).1 = s :=
    spillAll_unmanaged (fun x hx => by_contra fun hne => List.filter_eq_nil_iff.1 hmanaged x hx (by simpa using hne)) ..
  unfold writtenAtStep
  simp only [hspill]
  generalize hu : modPolder s p _ = u
  have hnoted : Noted u (silentEvents u p (polder s p).step (gaugeList (polder u p))) := silentEvents_noted ..
  have hpolder : polder (silentEvents u p (polder s p).step (gaugeList (polder u p))) p = polder u p := by
    rw [polder, hnoted.polders, polder]
  have hself : (polder u p).gRing = none ∧ (polder u p).log = none := by
    rw [← hu, polder_modPolder_self]; exact ⟨hring, hlog⟩
  rw [writeRecords_noRing (by rw [hpolder]; exact hself.1), writeLog_noLog (by rw [hpolder]; exact hself.2)]
  have hmem := hnoted.sameMem
  rw [← hu] at hmem ⊢
  exact hmem

/-- The polder in its next step: no claims, no norm cells, every gauge's totals closed, the staged changes taken off. -/
def advanceStep (staged : Nat) (P : Polder) : Polder :=
  endDefault { P with step := P.step + 1, claims := [], cells := [], gauges := P.gauges.map fun x => (x.1, x.2.map closeGauge),
                      staged := P.staged.drop staged }

theorem advanceStep_eq (staged : Nat) (P : Polder) : advanceStep staged P =
    { P with step := P.step + 1, claims := [], cells := [], gauges := P.gauges.map fun x => (x.1, x.2.map closeGauge),
             staged := P.staged.drop staged, defaulted := (advanceStep staged P).defaulted } := by
  unfold advanceStep endDefault
  split <;> rfl

/-- The state in which the step has advanced, before the staged changes take effect. -/
def advancedAtStep (s : State) (p : Fin 4) (set : BitVec 16) (staged : Nat) : State :=
  modPolder (writtenAtStep s p set) p (advanceStep staged)

/-- Action 6 comes last: the changes staged at the STEP's start, then their log entries (R169, R174). -/
theorem closeStep_fst (s : State) (p : Fin 4) (set : BitVec 16) (staged : Nat) :
    let r := applyAll (advancedAtStep s p set staged) p ((polder s p).staged.take staged)
    (closeStep s p set staged).1 = (writeLog r.1 p set r.2.1).1 := by
  have hheld := (writtenAtStep_closing s p set).held
  have hstep : (polder (writtenAtStep s p set) p).step = (polder s p).step := by rw [hheld]
  have hstaged : (polder (writtenAtStep s p set) p).staged = (polder s p).staged := by rw [hheld]
  have hadvance : advancedAtStep s p set staged = modPolder (writtenAtStep s p set) p fun P => endDefault
      { P with step := (polder s p).step + 1, claims := [], cells := [], gauges := P.gauges.map fun x => (x.1, x.2.map closeGauge),
               staged := P.staged.drop staged } := modPolder_congr (by rw [advanceStep, hstep])
  rw [hadvance, ← hstaged]
  rfl

theorem closeStep_closing (s : State) (p : Fin 4) (set : BitVec 16) (staged : Nat) :
    Closing p (advancedAtStep s p set staged) (closeStep s p set staged).1 := by
  rw [closeStep_fst]
  exact (applyAll_closing ..).trans (writeLog_closing ..)

theorem closeStep_unstaged (set : BitVec 16) (staged : Nat) (h : (polder s p).staged = []) :
    (closeStep s p set staged).1 = advancedAtStep s p set staged := by
  have hnone (u : State) : applyAll u p [] = (u, [], true) := rfl
  simp only [closeStep_fst, h, List.take_nil, hnone, writeLog_nil]

theorem polder_closeStep (s : State) (p : Fin 4) (set : BitVec 16) (staged : Nat) :
    let Q := polder (closeStep s p set staged).1 p
    Q.step = (polder s p).step + 1 ∧ Q.claims = [] ∧ Q.staged = (polder s p).staged.drop staged ∧
      Q.queues = (polder s p).queues ∧ Q.inflight = (polder s p).inflight := by
  have hheld := (writtenAtStep_closing s p set).held
  dsimp only
  rw [(closeStep_closing s p set staged).held, advancedAtStep, polder_modPolder_self, advanceStep_eq, hheld]
  exact ⟨rfl, rfl, rfl, rfl, rfl⟩

theorem closeStep_frame (s : State) (p : Fin 4) (set : BitVec 16) (staged : Nat) :
    let t := (closeStep s p set staged).1
    t = withClosed s t ∧ ∀ x, x ≠ p → polder t x = polder s x := by
  have hwritten := writtenAtStep_closing s p set
  have hclosed := closeStep_closing s p set staged
  unfold advancedAtStep at hclosed
  generalize writtenAtStep s p set = w at hwritten hclosed
  generalize (closeStep s p set staged).1 = t at hclosed
  have heq : t = withClosed s t := calc t
    _ = withClosed w t := hclosed.eq
    _ = withClosed (withClosed s w) t := congrArg (withClosed · t) hwritten.eq
  exact ⟨heq, fun x hx => (hclosed.others x hx).trans ((polder_modPolder_ne _ _ hx).trans (hwritten.others x hx))⟩

/-- No memory moves where nothing is staged and the polder has no gauge ring, no precision log and no managed table. -/
theorem closeStep_sameMem (set : BitVec 16) (staged : Nat) (hnone : (polder s p).staged = []) (hring : (polder s p).gRing = none)
    (hlog : (polder s p).log = none) (hmanaged : managed (polder s p) = []) : SameMem s (closeStep s p set staged).1 := by
  have hmem := writtenAtStep_sameMem set hring hlog hmanaged
  rw [closeStep_unstaged set staged hnone, advancedAtStep]
  generalize writtenAtStep s p set = w at hmem ⊢
  exact hmem

/-- Every gauge of a closed step has its totals at zero. -/
theorem tabGet_closeGauge {gs : Tab (Option Gauge)} {id : Nat} {g : Gauge}
    (h : tabGet none (gs.map fun x => (x.1, x.2.map closeGauge)) id = some g) : g.tot = GTot.zero := by
  unfold tabGet at h
  split at h
  · next c hfind =>
    obtain ⟨x, -, rfl⟩ := List.mem_map.1 (List.mem_of_find?_eq_some hfind)
    obtain ⟨G, -, rfl⟩ := Option.map_eq_some_iff.1 h
    rfl
  · exact absurd h (by simp)

theorem closeStep_totals (set : BitVec 16) (staged : Nat) (hnone : (polder s p).staged = []) (id : Nat) (g : Gauge)
    (h : tabGet none (polder (closeStep s p set staged).1 p).gauges id = some g) : g.tot = GTot.zero := by
  rw [closeStep_unstaged set staged hnone, advancedAtStep, polder_modPolder_self, advanceStep_eq] at h
  exact tabGet_closeGauge h

/-! ## The fence -/

theorem polder_completed (t : State) (p : Fin 4) (q : Fin 16) (n : Word) (w : BitVec 16) :
    polder (finishFence (addWarn t p q n w) p q n) p =
      { polder t p with inflight := (polder (finishFence (addWarn t p q n w) p q n) p).inflight } := by
  simp [finishFence, setResult, addWarn, modCmd]

theorem inflight_completed (h : (polder t p).inflight = [c]) (w : BitVec 16) :
    (polder (finishFence (addWarn t p c.q c.e.seq w) p c.q c.e.seq) p).inflight.map (fun x => (x.e, x.res)) = [(c.e, some .ok)] := by
  simp [finishFence, setResult, addWarn, modCmd, h]

/-- A STEP is the only command in flight of an open polder that discards nothing: its fence is reached (R172). -/
structure AtStepFence (s : State) (p : Fin 4) (c : Cmd) (staged : Nat) : Prop where
  inflight : (polder s p).inflight = [c]
  res : c.res = none
  st : (polder s p).st = .opened
  discard : (polder s p).discard = none
  body : c.body = .step staged

/-- What a STEP leaves that has closed its step (R169, R174, R208). -/
structure StepClosed (s : State) (p : Fin 4) (c : Cmd) (staged : Nat) (t : State) : Prop where
  step : (polder t p).step = (polder s p).step + 1
  claims : (polder t p).claims = []
  staged : (polder t p).staged = (polder s p).staged.drop staged
  totals : (polder s p).staged = [] → ∀ id g, tabGet none (polder t p).gauges id = some g → g.tot = GTot.zero
  inflight : (polder t p).inflight.map (fun x => (x.e, x.res)) = [(c.e, some .ok)]
  queues : (polder t p).queues = (polder s p).queues
  others : ∀ x, x ≠ p → polder t x = polder s x
  clusters : t.clusters = s.clusters
  fuses : t.fuses = s.fuses
  hostMem : t.hostMem = s.hostMem
  mem : (polder s p).staged = [] → (polder s p).gRing = none → (polder s p).log = none → managed (polder s p) = [] → SameMem s t

namespace AtStepFence

variable (h : AtStepFence s p c staged)
include h

theorem running : isRunning s p = true := by simp [isRunning, h.st, h.discard]

theorem atFence : atFence (polder s p) = some c := by simp [Machine.atFence, h.inflight, h.res]

/-- Held state that fails its check is a fault of class C2 (R175, R338). -/
theorem of_governorBad (hbad : governorBad (polder s p) = true) :
    doStepFenceReached p s = faultC2 s [p] (faultInfo 0x0C 0 (firstDie s p).val 0) := by
  simp [doStepFenceReached, h.running, h.atFence, h.body, hbad]

/-- Unreadable tables come before tables that disagree with their complements (log 92), and neither moves anything (R175). -/
theorem of_badTable (hgov : governorBad (polder s p) = false)
    (hbad : (tablesReadable s (polder s p) && managedAgree s (polder s p)) = false) :
    doStepFenceReached p s = endCmd s p c.q c.e.seq
      (if tablesReadable s (polder s p) = false then .eccUncorrected else .complementMismatch) := by
  cases hread : tablesReadable s (polder s p)
  · simp [doStepFenceReached, h.running, h.atFence, h.body, hgov, firstFail, hread]
  · rw [hread, Bool.true_and] at hbad
    simp [doStepFenceReached, h.running, h.atFence, h.body, hgov, firstFail, hread, hbad]

/-- Tables that pass: the step closes where every write is stored, and else nothing of it remains (R174, R226, log 81). -/
theorem of_goodTables (hgov : governorBad (polder s p) = false)
    (hgood : tablesReadable s (polder s p) = true ∧ managedAgree s (polder s p) = true) :
    let r := closeStep s p c.e.ctrSet staged
    doStepFenceReached p s = if r.2.2 then
        finishFence (addWarn r.1 p c.q c.e.seq (if r.2.1 then wGovChanged else 0)) p c.q c.e.seq
      else endCmd s p c.q c.e.seq .eccUncorrected := by
  simp [doStepFenceReached, h.running, h.atFence, h.body, hgov, firstFail, hgood]

theorem stepClosed (hgov : governorBad (polder s p) = false)
    (hgood : tablesReadable s (polder s p) = true ∧ managedAgree s (polder s p) = true)
    (hstored : (closeStep s p c.e.ctrSet staged).2.2 = true) : StepClosed s p c staged (doStepFenceReached p s) := by
  obtain ⟨hstep, hclaims, hstaged, hqueues, hinflight⟩ := polder_closeStep s p c.e.ctrSet staged
  obtain ⟨hframe, hothers⟩ := closeStep_frame s p c.e.ctrSet staged
  have htotals := closeStep_totals (s := s) (p := p) c.e.ctrSet staged
  have hmem := closeStep_sameMem (s := s) (p := p) c.e.ctrSet staged
  rw [(h.of_goodTables hgov hgood).trans (if_pos hstored)]
  generalize (closeStep s p c.e.ctrSet staged).2.1 = changed
  generalize (closeStep s p c.e.ctrSet staged).1 = t at *
  have hself := polder_completed t p c.q c.e.seq (if changed then wGovChanged else 0)
  exact
    { step := by rw [hself, hstep]
      claims := by rw [hself, hclaims]
      staged := by rw [hself, hstaged]
      totals := by rw [hself]; exact htotals
      inflight := inflight_completed (hinflight.trans h.inflight) _
      queues := by rw [hself, hqueues]
      others := fun x hx => (polder_modPolder_ne _ _ hx).trans ((polder_modPolder_ne _ _ hx).trans (hothers x hx))
      clusters := (congrArg State.clusters hframe).trans rfl
      fuses := (congrArg State.fuses hframe).trans rfl
      hostMem := (congrArg State.hostMem hframe).trans rfl
      mem := hmem }

end AtStepFence

/-! ## Command start -/

/-- STEP ends at once where its descriptor, as the start finds it, names the open step, and else waits for its fence (R100, R173). -/
theorem stepCmd_passed (hstart : startOk s p q e 0x0B = true) (hchecks : stepChecks s p e = none) :
    exec (.stepCmd p q e) s = .next
      (if BitVec.ofNat 32 (memNat s e.desc.toNat 4) = (polder s p).step then endCmd (startCmd s p q e) p q e.seq .ok
       else setBody (startCmd s p q e) p q e.seq (.step (polder s p).staged.length)) :=
  congrArg Host.Outcome.next (runEntry_of_passed hstart hchecks)

/-- A STEP, the first entry of its queue, whose descriptor lies at the first record's place in the trace ring of C-die 0. -/
def stepOnRecord : Entry :=
  { opcode := 0x0B, flags := 0, comp := 0xFFF4, seq := 1, reqId := 0, ctrSet := 0, gaugeId := 0xFFFF, desc := 0x01F000001000,
    sigEv := 0xFFFF, waitEv := 0xFFFF, sigVal := 0, waitVal := 0, rsvd := 0, inl := 0 }

/-- A ready module with one polder open in step 0xFF07, its queue 0 running with an entry to take. Its trace ring is empty, and a record
of type 7 waits for the first place; there stands a descriptor that names step 0xFF08. -/
def recordOverDescriptor : State :=
  { State.reset with
    boot := .ready, layout := .whole, mem := tabSplice 0 [] 0x01F000001000 (withComp 4 0xFF08),
    polders := State.reset.polders.set 0
      { Polder.reset with
        st := .opened, traceSize := 2 ^ 24, step := 0xFF07,
        queues := Polder.reset.queues.set 0 { Queue.reset with st := .running, depth := 1, tail := 1 },
        ringDue := [{ bytes := padTo 256 [7, 0xFF], snap := none }] } }

theorem stepOnRecord_starts : startOk recordOverDescriptor 0 0 stepOnRecord 0x0B = true ∧
    stepChecks recordOverDescriptor 0 stepOnRecord = none := by decide +kernel

/-- The start writes the record that waits, over the descriptor: after it, what stands there names the open step. -/
theorem stepOnRecord_overwritten :
    BitVec.ofNat 32 (memNat recordOverDescriptor stepOnRecord.desc.toNat 4) ≠ (polder recordOverDescriptor 0).step ∧
    BitVec.ofNat 32 (memNat (startCmd recordOverDescriptor 0 0 stepOnRecord) stepOnRecord.desc.toNat 4) =
      (polder recordOverDescriptor 0).step := by decide +kernel

/-- A STEP that waits for its fence has no result, one that has ended has. -/
theorem stepOnRecord_results :
    let u := startCmd recordOverDescriptor 0 0 stepOnRecord
    (polder (setBody u 0 0 1 (.step 0)) 0).inflight.map (·.res) = [none] ∧
      (polder (endCmd u 0 0 1 .ok) 0).inflight.map (·.res) = [some .ok] := by decide +kernel

/-- Refutes O45: its first clause reads the step that the descriptor names after the command start, and STEP reads it before (R100). A
start writes the records that wait for the trace ring, where a descriptor may lie too: in `recordOverDescriptor` the descriptor names
the next step, so that STEP waits for its fence, and the record written over it reads as the open step, for which the clause has STEP
end. With what the descriptor names before the start the clause holds of every state (`stepCmd_passed`), and so do the clauses on the
fence (`AtStepFence.stepClosed`, `AtStepFence.of_goodTables`, `AtStepFence.of_badTable`, `AtStepFence.of_governorBad`). -/
theorem not_stepsCloseAtTheirFence : ¬ Obligations.StepsCloseAtTheirFence := by
  unfold Obligations.StepsCloseAtTheirFence
  intro h
  obtain ⟨hstart, hchecks⟩ := stepOnRecord_starts
  obtain ⟨hnext, hopen⟩ := stepOnRecord_overwritten
  obtain ⟨hwaits, hends⟩ := stepOnRecord_results
  obtain ⟨hclause, -⟩ := h recordOverDescriptor 0 0 stepOnRecord (firstOf 0x0B (.step 0) []) 0
  have hsame := (stepCmd_passed hstart hchecks).symm.trans (hclause hstart hchecks)
  rw [if_neg hnext, if_pos hopen] at hsame
  injection hsame with hsame
  have hres := congrArg (fun t => (polder t 0).inflight.map (·.res)) hsame
  exact absurd (hwaits.symm.trans (hres.trans hends)) (by decide)

end Sys2Proof.Machine
end

section
/-! SUPPORT. UPDATE at command start (R193, R199-R201, R208) and a block of it (R195, R196, R202, R209), and the statement on both. -/

namespace Sys2Proof.Machine

variable {s t u : State} {p : Fin 4} {q : Fin 16} {n : Word} {e : Entry} {c : Cmd} {r : UpdRun} {g : Group} {writes tiles : Bool}

/-! ## Stream domains (R208) -/

/-- One ID that is claimed and not shared refuses them all. -/
theorem claimIds_of_claimed {ids table : List Nat} (h : ∃ x ∈ ids, x ∈ table) : claimIds false table ids = none := by
  induction ids generalizing table with
  | nil => simp at h
  | cons y ys ih =>
    by_cases hy : y ∈ table
    · simp [claimIds, hy]
    · obtain ⟨x, hx, htable⟩ := h
      have hys : x ∈ ys := List.mem_of_ne_of_mem (ne_of_mem_of_not_mem htable hy) hx
      simp [claimIds, hy, ih ⟨x, hys, List.mem_append_left _ htable⟩]

/-- Different IDs, shared or not yet claimed: those that the table lacks are claimed, in their order. -/
theorem claimIds_of_free {share : Bool} {ids table : List Nat} (hids : ids.Nodup) (h : share = true ∨ ∀ x ∈ ids, x ∉ table) :
    claimIds share table ids =
      some (table ++ ids.filter fun x => !table.contains x, ids.filter fun x => !table.contains x) := by
  induction ids generalizing table with
  | nil => simp [claimIds]
  | cons y ys ih =>
    obtain ⟨hy, hys⟩ := List.nodup_cons.1 hids
    have hrest : share = true ∨ ∀ x ∈ ys, x ∉ table := h.imp_right fun h x hx => h x (List.mem_cons_of_mem y hx)
    by_cases hclaimed : y ∈ table
    · have hshare : share = true := h.resolve_right fun h => h y List.mem_cons_self hclaimed
      have hrec := ih (table := table) hys hrest
      simp only [hshare] at hrec
      simpa [claimIds, hclaimed, hshare] using hrec
    · have hgrown : share = true ∨ ∀ x ∈ ys, x ∉ table ++ [y] := hrest.imp_right fun h x hx => by
        simp [h x hx, ne_of_mem_of_not_mem hx hy]
      have hfilter : ys.filter (fun x => !(table ++ [y]).contains x) = ys.filter fun x => !table.contains x :=
        List.filter_congr fun x hx => by simp [ne_of_mem_of_not_mem hx hy]
      have hrec := ih hys hgrown
      rw [hfilter] at hrec
      simp [claimIds, hclaimed, hrec]

/-! ## The claims at command start -/

/-- Polder p has the claims that it had; a name of its own, so that steps compare by their states. -/
def SameClaims (p : Fin 4) (s t : State) : Prop := (polder t p).claims = (polder s p).claims

namespace SameClaims

theorem refl (p : Fin 4) (s : State) : SameClaims p s s := rfl

theorem trans (h : SameClaims p s t) (k : SameClaims p t u) : SameClaims p s u := Eq.trans k h

theorem ofMoved (h : Moved writes tiles s t) (p : Fin 4) : SameClaims p s t := by rw [SameClaims, (h.carries p).1]

theorem ofPolders (h : t.polders = s.polders) (p : Fin 4) : SameClaims p s t := by rw [SameClaims, polder, h, polder]

theorem modPolder (s : State) (p : Fin 4) {f : Polder → Polder} (hf : ∀ P, (f P).claims = P.claims := by exact fun _ => rfl) :
    SameClaims p s (modPolder s p f) := by rw [SameClaims, polder_modPolder_self, hf]

theorem touch (s : State) (p : Fin 4) (a n : Nat) : SameClaims p s (touch s p a n) :=
  ofMoved (touch_moved (writes := false) (tiles := false) ..) p

theorem memWrite (s : State) (p : Fin 4) (a : Nat) (bs : List Byte) : SameClaims p s (memWrite s a bs).1 :=
  ofPolders (by rw [memWrite_eq]) p

theorem regionWrite (s : State) (p : Fin 4) (a : Nat) (bs : List Byte) : SameClaims p s (regionWrite s p a bs) :=
  (memWrite s p a bs).trans (touch ..)

theorem writeRing (s : State) (p : Fin 4) (bytes : List Byte) : SameClaims p s (writeRing s p bytes) :=
  (regionWrite s p ..).trans ((regionWrite _ p ..).trans (modPolder ..))

theorem flushRing (s : State) (p : Fin 4) : SameClaims p s (flushRing s p) :=
  trans (List.foldlRecOn (motive := SameClaims p s) _ _ (refl p s) fun _ ht _ _ => ht.trans (writeRing ..)) (modPolder ..)

theorem commandRecord (s : State) (p : Fin 4) (typ : Nat) (q : Fin 16) (e : Entry) (rest : List Byte) :
    SameClaims p s (commandRecord s p typ q e rest) := by
  unfold Machine.commandRecord traceRecord
  dsimp only
  split
  · exact refl p s
  · exact (modPolder s p).trans (flushRing ..)

theorem takeSnap (s : State) (p : Fin 4) (k : Nat) : SameClaims p s (takeSnap s p k) := by
  have hedge : SameClaims p s (toEdge s p k) := ofPolders (toEdge_polders ..) p
  unfold Machine.takeSnap
  dsimp only
  split
  · exact hedge
  · exact hedge.trans (ofMoved (Moved.foldl (writes := false) (tiles := false) (fun _ _ => countTimed_moved ..) ..) p)

theorem readDesc (s : State) (p : Fin 4) (e : Entry) : SameClaims p s (readDesc s p e) := by
  unfold Machine.readDesc
  split
  · exact touch ..
  · exact refl p s

theorem startCmd (s : State) (p : Fin 4) (q : Fin 16) (e : Entry) : SameClaims p s (startCmd s p q e) := by
  obtain ⟨x, hu, -⟩ := startCmd_eq s p q e
  have hsnap : SameClaims p s (Machine.takeSnap (Machine.readDesc s p e) p 2) := (readDesc s p e).trans (takeSnap ..)
  rw [hu]
  refine trans (trans ?_ (modPolder ..)) (modPolder _ p)
  split
  · exact hsnap
  · exact hsnap.trans (commandRecord ..)

end SameClaims

/-! ## UPDATE at command start -/

theorem noteUpdReads_moved (s : State) (p : Fin 4) (set : BitVec 16) (r : UpdRun) :
    Moved writes tiles s (noteUpdReads s p set r) :=
  have htags := (touch_moved s p (addrOf r.desc 0x68) (8 * r.prog.length)).trans (noteAccess_moved _ p set r.tags (16 * r.blocks))
  have hnorm := htags.trans (.ite (r.normCell = 0) (.refl _) (noteAccess_moved _ p set r.normCell 16))
  hnorm.trans (.ite _ (noteAccess_moved ..) (.refl _))

/-- A polder's claims are no part of a run's constants. -/
theorem updPrepare_modPolder_claims (s : State) (p : Fin 4) (claims : List Nat) (r : UpdRun) :
    updPrepare (modPolder s p fun P => { P with claims := claims }) p r = updPrepare s p r := by
  simp only [updPrepare, polder_modPolder_self]
  rfl

/-- Two changes of a command's record are one. -/
theorem modCmd_modCmd (s : State) (p : Fin 4) (q : Fin 16) (n : Word) {f : Cmd → Cmd} (f' : Cmd → Cmd)
    (hf : ∀ c, ((f c).q, (f c).e) = (c.q, c.e) := by exact fun _ => rfl) :
    modCmd (modCmd s p q n f) p q n f' = modCmd s p q n fun c => f' (f c) := by
  rw [modCmd, modCmd, modPolder_modPolder]
  refine modPolder_congr ?_
  simp only [List.map_map]
  congr 1
  refine List.map_congr_left fun c _ => ?_
  obtain ⟨hq, he⟩ := Prod.mk.inj (hf c)
  simp only [Function.comp_apply]
  split
  next hkey => exact if_pos (by rwa [hq, he])
  next => rfl

/-- What UPDATE makes of its command's record; a run that R201 skips has ended. -/
def withUpdate (r : UpdRun) (fresh : List Nat) (time : DWord) (c : Cmd) : Cmd :=
  { c with body := .update r, claims := fresh, areas := reportArea r.report 64,
           res := if r.skipAll then some .ok else c.res, doneTime := if r.skipAll then time else c.doneTime }

theorem modCmd_withUpdate (s : State) (p : Fin 4) (q : Fin 16) (n : Word) (r : UpdRun) (fresh : List Nat) :
    let t := modCmd s p q n fun c => { c with body := .update r, claims := fresh, areas := reportArea r.report 64 }
    (if r.skipAll then setResult t p q n .ok else t) = modCmd s p q n (withUpdate r fresh (leveeTime s)) := by
  intro t
  unfold withUpdate
  cases r.skipAll
  · rfl
  · exact modCmd_modCmd ..

/-- The state in which an UPDATE has claimed its domains and read its tables and cells. -/
def claimed (s : State) (p : Fin 4) (set : BitVec 16) (table : List Nat) (r : UpdRun) : State :=
  noteUpdReads (modPolder s p fun P => { P with claims := table }) p set r

theorem claimed_eq (s : State) (p : Fin 4) (set : BitVec 16) (ids : List Nat) (r : UpdRun) :
    noteUpdReads (modPolder s p fun P => { P with claims := P.claims ++ ids.filter fun x => !P.claims.contains x }) p set r =
      claimed s p set ((polder s p).claims ++ ids.filter fun x => !(polder s p).claims.contains x) r :=
  congrArg (noteUpdReads · p set r) (modPolder_congr rfl)

theorem leveeTime_claimed (s : State) (p : Fin 4) (set : BitVec 16) (table : List Nat) (r : UpdRun) :
    leveeTime (claimed s p set table r) = leveeTime s := (noteUpdReads_moved (writes := false) (tiles := false) ..).leveeTime

section
variable (hstart : startOk s p q e 0x0A = true) (hchecks : updChecks s p e = none)
  (hgroup : updGroup (polder s p) (memBytes s e.desc.toNat 256) = some g)
  (hu : startCmd s p q e = u) (hr : updRead u p (memBytes s e.desc.toNat 256) g = r)
include hstart hchecks hgroup hu hr

theorem doUpdate_of_empty (hempty : r.elems = 0) : doUpdate p q e s = endCmd u p q e.seq .ok := by
  refine (runEntry_of_passed hstart hchecks).trans ?_
  simp only [hgroup, hu, hr, hempty, if_true]

variable (hsome : r.elems ≠ 0)
include hsome

theorem doUpdate_of_failed {st : Status} (hfails : updChecks2 u p r = some st) : doUpdate p q e s = endCmd u p q e.seq st := by
  refine (runEntry_of_passed hstart hchecks).trans ?_
  simp only [hgroup, hu, hr, hsome, if_false, hfails]

variable (hpass : updChecks2 u p r = none)
include hpass

theorem doUpdate_of_claimed (hclaims : claimIds (flagShare e) (polder s p).claims (updIds r) = none) :
    doUpdate p q e s = endCmd u p q e.seq .domainReuse := by
  refine (runEntry_of_passed hstart hchecks).trans ?_
  simp only [hgroup, hu, hr, hsome, if_false, hpass, hclaims]

theorem doUpdate_of_free {table fresh : List Nat}
    (hclaims : claimIds (flagShare e) (polder s p).claims (updIds r) = some (table, fresh)) :
    doUpdate p q e s = modCmd (claimed u p e.ctrSet table (updPrepare u p r)) p q e.seq
      (withUpdate (updPrepare u p r) fresh (leveeTime u)) := by
  rw [← leveeTime_claimed u p e.ctrSet table (updPrepare u p r), ← modCmd_withUpdate]
  refine (runEntry_of_passed hstart hchecks).trans ?_
  simp only [hgroup, hu, hr, hsome, if_false, hpass, hclaims, updPrepare_modPolder_claims]
  rfl

end

/-! ## A block staged (R195) -/

theorem cmdAt_of_liveCmd (h : liveCmd s p q n = some c) : cmdAt s p q n = some c := by
  unfold liveCmd at h
  split at h
  · exact (Option.filter_eq_some_iff.1 h).1
  · cases h

/-- Staging a block notes accesses and does nothing else: what holds along them holds along it. -/
theorem stageBlock_chain {R : State → State → Prop} (hrefl : ∀ s, R s s) (htrans : ∀ s t u, R s t → R t u → R s u)
    (hnote : ∀ s p set a n, R s (noteAccess s p set a n)) (s : State) (p : Fin 4) (set : BitVec 16) (r : UpdRun) (b : Nat) :
    R s (stageBlock s p set r b).1 := by
  have hread (t : State) (base fmt : Nat) : R t (stageArray t p set r b base fmt).1 := hnote ..
  have hmaybe (t : State) (base fmt : Nat) (unused : Prop) [Decidable unused] :
      R t (if unused then (t, some []) else stageArray t p set r b base fmt).1 := by
    split
    · exact hrefl t
    · exact hread ..
  exact htrans _ _ _ (hread ..) (htrans _ _ _ (hread ..) (htrans _ _ _ (hmaybe ..) (hmaybe ..)))

theorem stageBlock_moved (s : State) (p : Fin 4) (set : BitVec 16) (r : UpdRun) (b : Nat) :
    Moved writes tiles s (stageBlock s p set r b).1 :=
  stageBlock_chain .refl (fun _ _ _ => .trans) noteAccess_moved s p set r b

/-- The state in which a block has been staged and computed, its conversions counted. -/
def blockComputed (s : State) (p : Fin 4) (q : Fin 16) (n : Word) (set : BitVec 16) (r : UpdRun) (b : Nat) (o : BlockOut) : State :=
  noteCounts (stageBlock s p set r b).1 p q n set o.sats o.flushes 0

theorem blockComputed_moved (s : State) (p : Fin 4) (q : Fin 16) (n : Word) (set : BitVec 16) (r : UpdRun) (b : Nat) (o : BlockOut) :
    Moved writes tiles s (blockComputed s p q n set r b o) := (stageBlock_moved ..).trans (noteCounts_moved ..)

/-- The state in which block b's copy program has started on cluster cl. -/
def copyStarted (s : State) (cl : Fin 256) (r : UpdRun) (b : Nat) (o : BlockOut) : State :=
  nextDraw (modVe s cl (startCopy r s.draws b o))

section
variable {k b : Nat} {x : Staging} {cl : Fin 256} {o : BlockOut}
  (hlive : liveCmd s p q n = some c) (hbody : c.body = .update r) (hstarted : r.started = true) (hk : k < r.count)
  (hcl : (rangeClusters s p r.base r.count).getD k 0 = cl) (howned : ownedBy (ve s cl) p q n = true) (hidle : (ve s cl).mode = .idle)
  (hnext : r.nextBlock k = some b) (hstaged : (stageBlock s p c.e.ctrSet r b).2 = some x)
  (ho : computeBlock (polder s p).seed c.step r b x = o)
include hlive hbody hstarted hk hcl howned hidle hnext hstaged ho

theorem doUpdateBlock_of_plain (hprog : r.prog = []) :
    doUpdateBlock p q n k s = commitBlock (blockComputed s p q n c.e.ctrSet r b o) p q n c r k cl o.out := by
  simp [-List.getD_eq_getElem?_getD, doUpdateBlock, hlive, hbody, hstarted, Nat.not_le.2 hk, hcl, howned, hidle, hnext, hstaged,
    ho, hprog, blockComputed]

theorem doUpdateBlock_of_copying (hprog : r.prog ≠ []) :
    doUpdateBlock p q n k s = copyStarted (setBody (blockComputed s p q n c.e.ctrSet r b o) p q n
      (.update { r with work := r.work ++ [(k, o.out)] })) cl r b o := by
  simp [-List.getD_eq_getElem?_getD, doUpdateBlock, hlive, hbody, hstarted, Nat.not_le.2 hk, hcl, howned, hidle, hnext, hstaged,
    ho, hprog, blockComputed, copyStarted]

end

/-! ## No free value drawn -/

/-- No free value was drawn from s to t; a name of its own, so that steps compare by their states. -/
def SameDraws (s t : State) : Prop := t.draws = s.draws

namespace SameDraws

theorem refl (s : State) : SameDraws s s := rfl

theorem trans (h : SameDraws s t) (k : SameDraws t u) : SameDraws s u := Eq.trans k h

theorem touchBlocks (k : Nat) (s : State) (p : Fin 4) (a n : Nat) : SameDraws s (touchBlocks k s p a n) := by
  induction k generalizing s a n with
  | zero => exact refl s
  | succ k ih =>
    simp only [Machine.touchBlocks]
    split
    · exact refl s
    · refine trans ?_ (ih ..)
      split <;> exact refl s

theorem countAdd (s : State) (p : Fin 4) (set : BitVec 16) (i : Fin 14) (n : Nat) : SameDraws s (countAdd s p set i n) := refl s

theorem noteAccess (s : State) (p : Fin 4) (set : BitVec 16) (a n : Nat) : SameDraws s (noteAccess s p set a n) := by
  unfold Machine.noteAccess touch
  split_ifs
  · exact countAdd ..
  · exact (countAdd s p set 5 n).trans (touchBlocks ..)

theorem putAll (s : State) (p : Fin 4) (set : BitVec 16) (ls : List (Nat × List Byte)) : SameDraws s (putAll s p set ls) :=
  List.foldlRecOn (motive := SameDraws s) ls _ (refl s) fun t ht x _ =>
    have hwrite : SameDraws t (memWrite t x.1 x.2).1 := by rw [memWrite_eq]; exact refl t
    ht.trans (hwrite.trans (noteAccess ..))

theorem noteCounts (s : State) (p : Fin 4) (q : Fin 16) (n : Word) (set : BitVec 16) (sats flushes accf : Nat) :
    SameDraws s (noteCounts s p q n set sats flushes accf) :=
  (countAdd ..).trans ((countAdd ..).trans ((countAdd ..).trans (modCmd_draws ..)))

theorem blockComputed (s : State) (p : Fin 4) (q : Fin 16) (n : Word) (set : BitVec 16) (r : UpdRun) (b : Nat) (o : BlockOut) :
    SameDraws s (blockComputed s p q n set r b o) :=
  have hstage : SameDraws s (stageBlock s p set r b).1 := stageBlock_chain refl (fun _ _ _ => trans) noteAccess s p set r b
  hstage.trans (noteCounts ..)

end SameDraws

theorem Moved.frame_of_sameDraws (h : Moved true false s t) (hdraws : SameDraws s t) :
    t = { s with mem := t.mem, undef := t.undef, counters := t.counters, sites := t.sites, polders := t.polders,
                 watch := t.watch } := by
  have hframe := h.memFrame.1
  rwa [hdraws] at hframe

/-! ## A block committed (R195, R209) -/

/-- The run with a block of position k counted as committed, and with what engine V's copy program has stored for it. -/
def withCommitted (r : UpdRun) (k : Nat) (V : Ve) (o : UpdBlock) : UpdRun :=
  { r with committed := r.committed ++ [(o.block, o.amax)], nonfinite := r.nonfinite + o.nonfinite,
           work := r.work.filter fun y => y.1 ≠ k, copied := r.copied ++ V.areas,
           copiedBuf := r.copiedBuf ++ V.bufAreas.map fun y => (k, y) }

/-- The state in which the stores of a block are done, its cluster's engine waiting again. -/
def blockStored (s : State) (p : Fin 4) (set : BitVec 16) (cl : Fin 256) (o : UpdBlock) : State :=
  modVe (putAll s p set o.stores) cl idleVe

theorem commitBlock_of_more {k : Nat} {cl : Fin 256} {o : UpdBlock} (hs : s.poison = [])
    (hmore : (withCommitted r k (ve s cl) o).complete = false) :
    commitBlock s p q n c r k cl o =
      setBody (blockStored s p c.e.ctrSet cl o) p q n (.update (withCommitted r k (ve s cl) o)) := by
  have hstores : o.stores.any (storeBlocked s) = false := by simp [storeBlocked, blocked_of_no_poison hs]
  refine (if_neg (by simp [hstores])).trans ?_
  exact if_neg (by rw [← withCommitted, hmore]; exact Bool.false_ne_true)

theorem Moved.cluster (h : Moved writes false s t) (x : Fin 256) : cluster t x = Machine.cluster s x := by
  rw [Machine.cluster, h.clusters, Machine.cluster]

theorem Moved.ve (h : Moved writes false s t) (x : Fin 256) : ve t x = Machine.ve s x := congrArg Cluster.ve (h.cluster x)

theorem idleVe_of_idle {V : Ve} (h : V.mode = .idle) : idleVe V = { V with areas := [], bufAreas := [] } := by
  rw [idleVe, ← h]

theorem cluster_modVe_ne {x cl : Fin 256} (f : Ve → Ve) (h : x ≠ cl) : cluster (modVe s cl f) x = cluster s x := by
  rw [modVe, cluster_modCluster, if_neg h]

theorem Moved.putAll (h : Moved false false s t) (hs : s.poison = []) (p : Fin 4) (set : BitVec 16) (ls : List (Nat × List Byte)) :
    Moved true false s (putAll t p set ls) := h.any.trans (putAll_moved (h.poison.trans hs) ..)

section
variable {cl : Fin 256} {o : UpdBlock} {set : BitVec 16} (hmoved : Moved false false s t) (hs : s.poison = []) (r' : UpdRun)
include hmoved hs

theorem blockStored_holds (hapart : Apart o.stores) :
    Holds s (setBody (blockStored t p set cl o) p q n (.update r')) o.stores :=
  have hstores : Holds s (putAll t p set o.stores) o.stores :=
    (putAll_holds (hmoved.poison.trans hs) p set hapart).moved hmoved (.refl (writes := false) (tiles := false) _)
  hstores.sameMem ⟨rfl, rfl⟩

theorem blockStored_frame (hdraws : SameDraws s t) :
    let v := setBody (blockStored t p set cl o) p q n (.update r')
    v = { s with mem := v.mem, undef := v.undef, counters := v.counters, sites := v.sites, polders := v.polders,
                 clusters := v.clusters, watch := v.watch } := by
  intro v
  exact congrArg (fun w : State => { w with polders := v.polders, clusters := v.clusters })
    ((hmoved.putAll hs ..).frame_of_sameDraws (hdraws.trans (.putAll ..)))

theorem blockStored_kept (x : Fin 4) :
    Kept (polder s x) (polder (setBody (blockStored t p set cl o) p q n (.update r')) x) :=
  (((hmoved.putAll hs ..).trans (setBody_moved _ p q n (.update r'))).carries x).kept

theorem blockStored_body (hcmd : (cmdAt s p q n).isSome = true) :
    (cmdAt (setBody (blockStored t p set cl o) p q n (.update r')) p q n).map (·.body) = some (.update r') :=
  body_setBody _ (s := blockStored t p set cl o) ((hmoved.putAll hs p set o.stores).cmdAt_isSome hcmd)

theorem blockStored_clusters (hidle : (ve s cl).mode = .idle) :
    let v := setBody (blockStored t p set cl o) p q n (.update r')
    (∀ x, x ≠ cl → cluster v x = cluster s x) ∧ ve v cl = { ve s cl with areas := [], bufAreas := [] } := by
  have hput := hmoved.putAll hs p set o.stores
  refine ⟨fun x hx => (cluster_modVe_ne idleVe hx).trans (hput.cluster x), ?_⟩
  refine (ve_modVe_self _ cl idleVe).trans ?_
  rw [hput.ve, idleVe_of_idle hidle]

end

/-! ## A copy program started (R196) -/

/-- Where a copy program starts and what its first scalar registers say of its block. -/
theorem startCopy_fields (r : UpdRun) (draw b : Nat) (o : BlockOut) (V : Ve) :
    let W := startCopy r draw b o V
    W.mode = .running ∧ W.pc = 0 ∧ W.owner = V.owner ∧ W.sreg.get 0 = BitVec.ofNat 32 b ∧
      W.sreg.get 1 = BitVec.ofNat 32 (r.blockLen b) ∧ W.sreg.get 2 = BitVec.ofNat 32 (b * r.bs) := by
  refine ⟨rfl, rfl, rfl, ?_, ?_, ?_⟩ <;> simp [startCopy, putWords, Vector.get_eq_getElem]

theorem cmdAt_copyStarted (s : State) (cl : Fin 256) (r : UpdRun) (b : Nat) (o : BlockOut) (p : Fin 4) (q : Fin 16) (n : Word) :
    cmdAt (copyStarted s cl r b o) p q n = cmdAt s p q n := by rw [copyStarted, cmdAt_nextDraw, cmdAt_modVe]

theorem cluster_copyStarted_ne {x cl : Fin 256} (r : UpdRun) (b : Nat) (o : BlockOut) (h : x ≠ cl) :
    cluster (copyStarted s cl r b o) x = cluster s x := by rw [copyStarted, cluster_nextDraw, cluster_modVe_ne _ h]

theorem ve_copyStarted (s : State) (cl : Fin 256) (r : UpdRun) (b : Nat) (o : BlockOut) :
    ve (copyStarted s cl r b o) cl = startCopy r s.draws b o (ve s cl) := by rw [copyStarted, ve_nextDraw, ve_modVe_self]

/-! ## The statement -/

/-- Settles O44: what UPDATE does of a descriptor that its first checks pass, and what UPDATE_BLOCK makes of a block that is staged. -/
theorem updatesClaimComputeAndCommitBlocks : Obligations.UpdatesClaimComputeAndCommitBlocks := by
  unfold Obligations.UpdatesClaimComputeAndCommitBlocks
  intro s p q e n k u bs
  refine ⟨fun g hstart hchecks hgroup => ?_, fun c r b x hs hlive hbody hstarted hk => ?_⟩
  · intro r
    refine ⟨fun hempty => ?_, fun st hsome hfails => ?_, fun hsome hpass => ⟨fun hshare hclaimed => ?_, fun hids hfree => ?_⟩⟩
    · exact congrArg Host.Outcome.next (doUpdate_of_empty hstart hchecks hgroup rfl rfl hempty)
    · exact congrArg Host.Outcome.next (doUpdate_of_failed hstart hchecks hgroup rfl rfl hsome hfails)
    · refine congrArg Host.Outcome.next (doUpdate_of_claimed hstart hchecks hgroup rfl rfl hsome hpass ?_)
      rw [hshare]
      exact claimIds_of_claimed hclaimed
    · intro r'
      refine (congrArg Host.Outcome.next (doUpdate_of_free hstart hchecks hgroup rfl rfl hsome hpass
        (claimIds_of_free hids hfree))).trans ?_
      have hr' : updPrepare u p r = r' := by
        have hg : r.group = g := rfl
        simp only [updPrepare, hg, r', ite_not]
      have hclaims : (polder u p).claims = (polder s p).claims := SameClaims.startCmd s p q e
      rw [claimed_eq, hclaims, hr']
      rfl
  · intro cl howned hidle hnext hstaged o r'
    have hmoved : Moved false false s (blockComputed s p q n c.e.ctrSet r b o) := blockComputed_moved ..
    have hcmd : (cmdAt s p q n).isSome = true := by rw [cmdAt_of_liveCmd hlive]; rfl
    refine ⟨fun hprog hmore hapart => ?_, fun hprog => ?_⟩
    · have hve : ve (blockComputed s p q n c.e.ctrSet r b o) cl = ve s cl := hmoved.ve cl
      have hr' : withCommitted r k (ve (blockComputed s p q n c.e.ctrSet r b o) cl) o.out = r' := by rw [hve]; rfl
      have hexec := (doUpdateBlock_of_plain hlive hbody hstarted hk rfl howned hidle hnext hstaged rfl hprog).trans
        (commitBlock_of_more (hmoved.poison.trans hs) (by rw [hr']; exact hmore))
      rw [hr'] at hexec
      exact ⟨_, congrArg Host.Outcome.next hexec, blockStored_holds hmoved hs r' hapart,
        blockStored_frame hmoved hs r' (.blockComputed ..), blockStored_kept hmoved hs r',
        blockStored_body hmoved hs r' hcmd, blockStored_clusters hmoved hs r' hidle⟩
    · have hrun := body_setBody (.update { r with work := r.work ++ [(k, o.out)] }) (hmoved.cmdAt_isSome hcmd)
      have hexec := doUpdateBlock_of_copying hlive hbody hstarted hk rfl howned hidle hnext hstaged rfl hprog
      have hmoved := hmoved.trans (setBody_moved _ p q n (.update { r with work := r.work ++ [(k, o.out)] }))
      generalize setBody (blockComputed s p q n c.e.ctrSet r b o) p q n (.update { r with work := r.work ++ [(k, o.out)] }) = t at *
      refine ⟨_, congrArg Host.Outcome.next hexec, hmoved.sameMem.1, ?_, fun x hx => ?_, ?_⟩
      · rw [cmdAt_copyStarted, hrun]
      · rw [cluster_copyStarted_ne r b o hx, hmoved.cluster]
      · rw [ve_copyStarted, ← hmoved.ve]
        exact startCopy_fields ..

end Sys2Proof.Machine
end

section
/-! SUPPORT. The requests that read (R297, R353, R354, R385, R403, R404, R431): what each handler answers, the fields of the structures
that they answer with, and the statement on them. -/

namespace Sys2Proof.Machine

variable {s : State} {f : Fin 5} {typ len : Nat} {bs b : List Byte} {pick : List Byte → Bool} {act : State → List Byte → Answer}

/-! ## What a reading request answers -/

/-- The answer of a handler that has bytes to give, or none. -/
def answerOf (s : State) (x : Option (List Byte)) : Answer := x.elim (refuse s .descInvalid) fun y => accept s y

/-- A request that reads has been answered with the bytes, or refused where there are none; nothing else has moved. -/
def Given (s t : State) (f : Fin 5) (bs : List Byte) : Option (List Byte) → Prop
  | some x => Answered s t f bs .ok x
  | none => Answered s t f bs .descInvalid []

theorem serve_given {x : Option (List Byte)} (h : Asks s f typ len bs b) (hp : pick b = true) (hact : act s b = answerOf s x) :
    Given s (serve s f typ len pick act) f bs x := by
  cases x with
  | none => exact serve_answered h hp hact
  | some y => exact serve_answered h hp hact

theorem opIs_of_fld {k : Nat} (h : fld b 0 1 = k) : opIs k b = true := beq_iff_eq.2 h

theorem giveStatement_eq (s : State) (c : Fin 5) (n : Nat) : giveStatement s c n = answerOf s (statementOf (chain s c) n) := by
  unfold giveStatement
  cases statementOf (chain s c) n <;> rfl

/-- A request on the dump of polder p whose reserved bytes are zero, and an operation that every state of the polder allows. -/
theorem serveDump_answered {p : Fin 4} {op : Nat} {u : State} {st : Status} {pay : List Byte} (h : Asks s (vf p) 0x10B 32 bs b)
    (hop : fld b 0 1 = op) (hzero : dumpRsvd b = true) (hact : act s b = (u, st, pay)) :
    Answered u (serveDump s p op act) (vf p) bs st pay :=
  serve_answered h (opIs_of_fld hop) ((if_pos hzero).trans hact)

theorem serveSpare_given {op : Nat} {x : Option (List Byte)} (h : Asks s 0 6 16 bs b) (hop : fld b 0 1 = op)
    (hzero : spareRsvd b = true) (hact : act s b = answerOf s x) : Given s (serveSpare s op act) 0 bs x :=
  serve_given h (opIs_of_fld hop) ((if_pos hzero).trans hact)

theorem serveMeterRead_given {p : Fin 4} {op : Nat} {x : Option (List Byte)} (h : Asks s (vf p) 0x10D 16 bs b)
    (hop : fld b 0 1 = op) (hzero : zeroAt b 1 7 = true) (hact : act s b = answerOf s x) :
    Given s (serveMeterRead s p op act) (vf p) bs x :=
  serve_given h (opIs_of_fld hop) ((if_pos hzero).trans hact)

/-! ## The handlers -/

theorem doSpareReportSummary_given (h : Asks s 0 6 16 bs b) (hop : fld b 0 1 = 0) (hzero : spareRsvd b = true) :
    Given s (doSpareReportSummary s) 0 bs (some (spareSummary s)) := serveSpare_given h hop hzero rfl

theorem doSpareReportRepair_given (h : Asks s 0 6 16 bs b) (hop : fld b 0 1 = 1) (hzero : spareRsvd b = true) :
    Given s (doSpareReportRepair s) 0 bs ((s.reports.find? fun r => r.id == fld b 4 4).map fun r => repairReport r (fld b 8 4)) := by
  refine serveSpare_given h hop hzero ?_
  cases s.reports.find? fun r => r.id == fld b 4 4 <;> rfl

theorem doMeterConfigReadStatement_given (h : Asks s 0 8 32 bs b) (hop : fld b 0 1 = 3) (hzero : meterRsvd b = true) :
    Given s (doMeterConfigReadStatement s) 0 bs (statementOf (chain s (fin5 (fld b 1 1))) (fld b 8 8)) := by
  unfold doMeterConfigReadStatement serveMeter
  exact serve_given h (opIs_of_fld hop) ((if_pos (by simp [hzero])).trans (giveStatement_eq ..))

theorem doMeterReadStatement_given {p : Fin 4} (h : Asks s (vf p) 0x10D 16 bs b) (hop : fld b 0 1 = 0) (hzero : zeroAt b 1 7 = true) :
    Given s (doMeterReadStatement p s) (vf p) bs (statementOf (chain s (chainOf p)) (fld b 8 8)) :=
  serveMeterRead_given h hop hzero (giveStatement_eq ..)

theorem doMeterReadStatus_given {p : Fin 4} (h : Asks s (vf p) 0x10D 16 bs b) (hop : fld b 0 1 = 2) (hzero : zeroAt b 1 7 = true) :
    Given s (doMeterReadStatus p s) (vf p) bs (some (leBytes 8 (chain s (chainOf p)).seq ++ leBytes 8 (chain s (chainOf p)).batch ++
      leBytes 4 (chain s (chainOf p)).lost ++ zeros 4 ++ leBytes 8 ((polder s p).openEnergy / 1000))) :=
  serveMeterRead_given h hop hzero rfl

theorem doAttestGetChain_given {p : Fin 4} (h : Asks s (vf p) 0x106 48 bs b) (hop : fld b 0 1 = 1) (hzero : zeroAt b 1 3 = true)
    (hzero' : zeroAt b 0x28 8 = true) :
    Given s (doAttestGetChain p s) (vf p) bs (if s.flash.chain.length < fld b 4 4 then none else
      some (leBytes 4 s.flash.chain.length ++ leBytes 4 (min 4000 (s.flash.chain.length - fld b 4 4)) ++
        (s.flash.chain.drop (fld b 4 4)).take 4000)) := by
  unfold doAttestGetChain
  refine serve_given h (opIs_of_fld hop) ((if_neg (by simp [hzero, hzero'])).trans ?_)
  dsimp only
  split
  · rfl
  · simp [answerOf, List.length_take]

/-! ## The structures answered with -/

theorem fld_leBytes (n x : Nat) : fld (leBytes n x) 0 n = x % 256 ^ n := by
  rw [← List.append_nil (leBytes n x), fld_leBytes_append]

theorem flatMap_length_of_forall {α : Type} {g : α → List Byte} {n : Nat} (hg : ∀ x, (g x).length = n) (xs : List α) :
    (xs.flatMap g).length = n * xs.length := by
  rw [List.length_flatMap, List.map_congr_left fun x _ => hg x, List.map_const', List.sum_replicate, smul_eq_mul, Nat.mul_comm]

theorem modInfo_length (s : State) : (modInfo s).length = 128 := by
  simp [modInfo, dies4, flatMap_length_of_forall (n := 1)]

/-- The fields of MOD_INFO at their offsets (R297). -/
theorem modInfo_fields (s : State) :
    let x := modInfo s
    fld x 0 2 = 0x4832 ∧ fld x 2 1 = 0xB0 ∧ fld x 3 1 = layoutCode s.layout ∧ fld x 4 4 = s.fwVersion.toNat ∧
      fld x 8 8 = s.fuses.serial.toNat ∧ fld x 0x10 2 = s.power.cap % 256 ^ 2 := by
  have hlayout : layoutCode s.layout % 256 ^ 1 = layoutCode s.layout := by cases s.layout <;> rfl
  have hversion : s.fwVersion.toNat % 256 ^ 4 = s.fwVersion.toNat := Nat.mod_eq_of_lt s.fwVersion.isLt
  have hserial : s.fuses.serial.toNat % 256 ^ 8 = s.fuses.serial.toNat := Nat.mod_eq_of_lt s.fuses.serial.isLt
  refine ⟨?_, ?_, ?_, ?_, ?_, ?_⟩ <;>
    simp (disch := simp) only [modInfo, List.append_assoc, fld_append_past, fld_leBytes_append, leBytes_length, Nat.reduceSub]
  exacts [rfl, rfl, hlayout, hversion, hserial]

/-- The fields of the meter's status at their offsets (R404). -/
theorem meterStatus_fields (seq batch lost energy : Nat) :
    let x := leBytes 8 seq ++ leBytes 8 batch ++ leBytes 4 lost ++ zeros 4 ++ leBytes 8 energy
    fld x 0 8 = seq % 2 ^ 64 ∧ fld x 8 8 = batch % 2 ^ 64 ∧ fld x 16 4 = lost % 2 ^ 32 ∧ fld x 24 8 = energy % 2 ^ 64 := by
  refine ⟨?_, ?_, ?_, ?_⟩ <;>
    simp (disch := simp) only [List.append_assoc, fld_append_past, fld_leBytes_append, fld_leBytes, leBytes_length, zeros_length,
      Nat.reduceSub, Nat.reducePow]

theorem spareSummary_repairs (h : s.repairs < 2 ^ 32) : fld (spareSummary s) 0 4 = s.repairs := by
  simp only [spareSummary, List.append_assoc, fld_leBytes_append]
  exact Nat.mod_eq_of_lt h

/-- Settles O26: each handler gives what its message names, and where it has nothing to give it refuses; the header of a held dump is a
read of device memory. -/
theorem readRequestsChangeNothing : Obligations.ReadRequestsChangeNothing := by
  unfold Obligations.ReadRequestsChangeNothing
  intro s p bs b
  refine ⟨fun h => ?_, fun h hzero => ⟨fun hop => ?_, fun hop => ?_⟩, fun h hop hzero => ?_,
    fun h hzero => ⟨fun hop => ?_, fun hop => ?_⟩, fun h hop hzero hzero' => ?_,
    fun h hop hzero => ⟨fun hnone => ?_, fun hsome hgood => ?_, fun hsome hbad => ?_⟩⟩
  · obtain ⟨hpart, hstep, hlayout, hversion, hserial, hcap⟩ := modInfo_fields s
    refine ⟨modInfo s, ⟨_, rfl, serve_answered h rfl rfl⟩, modInfo_length s, hpart, hstep, hlayout, hversion, hserial,
      fun hlt => ?_⟩
    exact hcap.trans (Nat.mod_eq_of_lt hlt)
  · exact ⟨_, ⟨_, rfl, doSpareReportSummary_given h hop hzero⟩, spareSummary_repairs⟩
  · exact ⟨_, rfl, doSpareReportRepair_given h hop hzero⟩
  · exact ⟨_, rfl, doMeterConfigReadStatement_given h hop hzero⟩
  · exact ⟨_, rfl, doMeterReadStatement_given h hop hzero⟩
  · exact ⟨_, ⟨_, rfl, doMeterReadStatus_given h hop hzero⟩, meterStatus_fields ..⟩
  · exact ⟨_, rfl, doAttestGetChain_given h hop hzero hzero'⟩
  · exact ⟨_, rfl, serveDump_answered h hop hzero (if_pos (Option.isNone_iff_eq_none.2 hnone))⟩
  · refine ⟨_, rfl, serveDump_answered h hop hzero ((if_neg (by simpa using hsome)).trans ?_)⟩
    simp [memRead, hgood, accept]
  · refine ⟨_, rfl, serveDump_answered h hop hzero ((if_neg (by simpa using hsome)).trans ?_)⟩
    simp [memRead, hbad, refuse]

end Sys2Proof.Machine
end

section
/-! SUPPORT. Upkeep of the sites (R231, R235), imbalance windows (R238) and the events that they queue (R18, R312), with the statement on
them. -/

namespace Sys2Proof.Machine

variable {s : State} {p : Fin 4}

/-! ## Events -/

/-- A queued event moves the functions and the messages that are sent, nothing else. -/
theorem queueEvent_eq (s : State) (f : Fin 5) (code : BitVec 16) (n : Byte) (payload : List Byte) :
    queueEvent s f code n payload =
      { s with funcs := (queueEvent s f code n payload).funcs, msix := (queueEvent s f code n payload).msix } := by
  unfold queueEvent
  dsimp only
  rw [raiseCause_eq]
  rfl

/-- The events of a function, the oldest first: a full queue has lost its oldest. -/
theorem events_queueEvent_self (s : State) (f : Fin 5) (code : BitVec 16) (n : Byte) (payload : List Byte) :
    ∃ kept e, (func (queueEvent s f code n payload) f).events = kept ++ [e] ∧ e.code = code := by
  unfold queueEvent
  dsimp only
  rw [func_raiseCause, func_modFunc_self]
  exact ⟨_, _, rfl, rfl⟩

theorem func_queueEvent_ne {f g : Fin 5} (h : g ≠ f) (s : State) (code : BitVec 16) (n : Byte) (payload : List Byte) :
    func (queueEvent s f code n payload) g = func s g := by
  unfold queueEvent
  dsimp only
  rw [raiseCause_eq]
  exact (get_vmod_ne _ _ h).trans (get_vmod_ne _ _ h)

theorem polderEvent_eq (s : State) (p : Fin 4) (code : Nat) (payload : List Byte) :
    polderEvent s p code payload =
      { s with funcs := (polderEvent s p code payload).funcs, msix := (polderEvent s p code payload).msix } := by
  unfold polderEvent
  dsimp only
  rw [queueEvent_eq (queueEvent ..), queueEvent_eq s]

theorem vf_ne_zero (p : Fin 4) : vf p ≠ 0 := fun h => Nat.succ_ne_zero p.val (congrArg Fin.val h)

/-- An event that concerns a polder is the last that PF0 holds. -/
theorem lastEvent_polderEvent (s : State) (p : Fin 4) (code : Nat) (payload : List Byte) :
    (func (polderEvent s p code payload) 0).events.getLast?.map (·.code) = some (evCode code) := by
  obtain ⟨kept, e, hevents, hcode⟩ := events_queueEvent_self s 0 (evCode code) (BitVec.ofNat 8 p.val) payload
  unfold polderEvent
  dsimp only
  rw [func_queueEvent_ne (vf_ne_zero p).symm, hevents, List.getLast?_append_cons]
  simp [hcode]

/-! ## Imbalance windows -/

/-- The event of the first set of channels that is skewed, or none. -/
def imbalanceTold (s : State) (p : Fin 4) : State :=
  match (channelSets s p).findSome? (skewed s (polder s p)) with
  | some (x, r) => polderEvent s p 0x0201
      (leBytes 8 ((polder s p).winStart + 100000000).toNat ++ leBytes 1 x.1.val ++ leBytes 1 x.2.val ++ leBytes 2 r)
  | none => s

theorem doImbalanceWindow_closed (h : isOpen s p = false) : doImbalanceWindow p s = s := by simp [doImbalanceWindow, h]

theorem doImbalanceWindow_open (h : isOpen s p = true) :
    doImbalanceWindow p s = modPolder (imbalanceTold s p) p fun P =>
      { P with winStart := (polder s p).winStart + 100000000, chanBytes := [] } := by
  simp only [doImbalanceWindow, h]
  rfl

theorem imbalanceTold_eq (s : State) (p : Fin 4) :
    imbalanceTold s p = { s with funcs := (imbalanceTold s p).funcs, msix := (imbalanceTold s p).msix } := by
  unfold imbalanceTold
  split
  · exact polderEvent_eq ..
  · rfl

theorem imbalanceTold_of_even (h : ∀ ds ∈ channelSets s p, skewed s (polder s p) ds = none) : imbalanceTold s p = s := by
  rw [imbalanceTold, List.findSome?_eq_none_iff.2 h]

theorem imbalanceTold_of_skewed (h : ∃ ds ∈ channelSets s p, skewed s (polder s p) ds ≠ none) :
    (func (imbalanceTold s p) 0).events.getLast?.map (·.code) = some 0x0201 := by
  obtain ⟨ds, hmem, hskewed⟩ := h
  unfold imbalanceTold
  split
  · exact lastEvent_polderEvent ..
  · next hnone => exact absurd (List.findSome?_eq_none_iff.1 hnone ds hmem) hskewed

/-- Settles O58: upkeep is an update of its own site; a window tells of an imbalance before it starts the count anew. -/
theorem upkeepReachesTheSitesThatAreAwake : Obligations.UpkeepReachesTheSitesThatAreAwake := by
  unfold Obligations.UpkeepReachesTheSitesThatAreAwake
  intro s m ch p
  have asleep (h : siteAwake (site s m) = false ∨ dieIdle s (siteDie m) = true) : doSiteSelfRefresh m s = s :=
    if_neg (by obtain h | h := h <;> simp [h])
  refine ⟨rfl, rfl, rfl, rfl, fun hawake hidle => ?_, fun h => congrArg Host.Outcome.next (asleep h),
    fun h => congrArg Host.Outcome.next (doImbalanceWindow_closed h),
    fun h => ⟨_, congrArg Host.Outcome.next (doImbalanceWindow_open h), ?_, ?_, fun heven => ?_, fun hskewed => ?_⟩⟩
  · refine ⟨_, congrArg Host.Outcome.next (if_pos (by simp [hawake, hidle])), ?_, ?_, rfl, fun i hi => get_vmod_ne _ _ hi⟩
    · simp
    · simp [pasrMasks, siteChannels]
  · rw [polder_modPolder_self, imbalanceTold_eq]
    rfl
  · rw [imbalanceTold_eq]
    rfl
  · rw [imbalanceTold_of_even heven]
    rfl
  · exact imbalanceTold_of_skewed hskewed

end Sys2Proof.Machine
end

section
/-! SUPPORT. Bring-up with a fuse bank that disagrees (R320): the class C4 fault floods a fault token of every polder (R338), and so
counts one on channel 0xFD of each. The statement on bring-up, refuted. -/

namespace Sys2Proof.Machine

variable {s : State}

theorem polders_applySlot (s : State) : (applySlot s).polders = s.polders := by
  unfold applySlot
  split <;> rfl

theorem polders_applyCaches (s : State) : (applyCaches s).polders = s.polders := by
  unfold applyCaches
  split <;> rfl

theorem polders_settleLimits (s : State) : (settleLimits s).polders = s.polders := rfl

/-- No port is owned by a polder. -/
def Unowned (s : State) : Prop := ∀ p, portsOf s p = []

theorem portsOf_congr {t : State} (h : ∀ j, (port t j).owner = (port s j).owner) (p : Fin 4) : portsOf t p = portsOf s p := by
  simp only [portsOf, h]

theorem unowned_applySlot (h : Unowned s) : Unowned (applySlot s) := fun p => by
  rw [← h p, applySlot]
  split <;> rfl

theorem unowned_applyCaches (h : Unowned s) : Unowned (applyCaches s) := fun p => by
  rw [← h p, applyCaches]
  split
  · rfl
  · exact portsOf_congr (fun j => by simp only [port, Vector.get_eq_getElem, Vector.getElem_mapFinIdx]) p

/-- A flood that leaves through no port is counted all the same (log 10). -/
theorem floodFault_of_unowned (h : Unowned s) (p : Fin 4) : floodFault s p = bumpIv s p 0xFD 0 := by
  unfold floodFault
  rw [h p]
  rfl

theorem ivs_lastTokens (h : Unowned s) : (polder (lastTokens s) 0).ivs = (polder (bumpIv s 0 0xFD 0) 0).ivs := by
  have flood (u : State) (hu : Unowned u) (p : Fin 4) : Unowned (floodFault u p) := floodFault_of_unowned hu p ▸ hu
  have other (u : State) (hu : Unowned u) {p : Fin 4} (hp : 0 ≠ p) : polder (floodFault u p) 0 = polder u 0 :=
    floodFault_of_unowned hu p ▸ get_vmod_ne _ _ hp
  have h₀ := flood s h 0
  have h₁ := flood _ h₀ 1
  change (polder (floodFault (floodFault (floodFault (floodFault s 0) 1) 2) 3) 0).ivs = _
  rw [other _ (flood _ h₁ 2) (by decide), other _ h₁ (by decide), other _ h₀ (by decide), floodFault_of_unowned h]

theorem polders_faultC4 (s : State) (i : FaultInfo) : (faultC4 s i).polders = (lastTokens s).polders.map stopPolder := rfl

theorem ivs_faultC4 (h : Unowned s) (i : FaultInfo) : (polder (faultC4 s i) 0).ivs = (polder (bumpIv s 0 0xFD 0) 0).ivs := by
  have hstop (P : Polder) : (stopPolder P).ivs = P.ivs := rfl
  rw [← ivs_lastTokens h, polder, polders_faultC4, Vector.get_eq_getElem, Vector.getElem_map, hstop, polder, Vector.get_eq_getElem]

theorem readFuses_of_disagree {F : Fuses} (h : fusesAgree F = false) (n : Nat) : readFuses n F = none := by
  induction n with
  | zero => rfl
  | succ n ih => simp [readFuses, h, ih]

/-- Power-on as `coldStart` begins it. -/
def poweredOn (s : State) (r : Nat) : State :=
  { unpowered s with
    boot := .fuses, modPwrgd := true, lastReset := r, bootFlags := s.bootFlags &&& 16, hostRate := s.hostRate,
    hostWidth := s.hostWidth, power := startPower s, sites := s.sites.map fun S => { Site.reset with level := S.level } }

/-- The fuses loaded as `loadFuses` does it, before the banks are compared. -/
def fusesRead (s : State) : State :=
  let F := if s.fuses.pending then { s.fuses with lifecycle := 3, pending := false } else s.fuses
  { nextDraw s with
    fuses := F, trims := F.trims, bootNonce := drawBits s 128,
    chains := Vector.ofFn fun c => { Chain.reset with head := chainStart F.serial (drawBits s 128) c.val } }

theorem loadFuses_of_disagree (h : fusesAgree (fusesRead s).fuses = false) :
    loadFuses s = faultEarly (fusesRead s) (faultInfo 0x0D 0 4 0) := by
  have hread : readFuses 4 (fusesRead s).fuses = none := readFuses_of_disagree h 4
  exact if_neg (by rw [fusesRead] at hread; simp [hread])

theorem coldStart_of_disagree (r : Nat) (h : fusesAgree (fusesRead (poweredOn s r)).fuses = false) :
    coldStart s r = settleLimits (faultEarly (fusesRead (poweredOn s r)) (faultInfo 0x0D 0 4 0)) := by
  have heq : coldStart s r =
      settleLimits (if (loadFuses (poweredOn s r)).boot = .offline then loadFuses (poweredOn s r)
        else verifyImage (loadFuses (poweredOn s r))) := rfl
  rw [heq, loadFuses_of_disagree h, if_pos (faultEarly_boot ..)]

theorem unowned_fusesRead_poweredOn (s : State) (r : Nat) : Unowned (fusesRead (poweredOn s r)) := by
  have hreset : ∀ p, portsOf State.reset p = [] := by decide
  exact hreset

/-- Power-on under a fuse bank that disagrees leaves a fault token counted on polder 0. -/
theorem ivs_coldStart_of_disagree (r : Nat) (h : fusesAgree (fusesRead (poweredOn s r)).fuses = false) :
    (polder (coldStart s r) 0).ivs = (polder (bumpIv State.reset 0 0xFD 0) 0).ivs := by
  have hunowned : Unowned (applyCaches (applySlot (fusesRead (poweredOn s r)))) :=
    unowned_applyCaches (unowned_applySlot (unowned_fusesRead_poweredOn s r))
  have hreset : (applyCaches (applySlot (fusesRead (poweredOn s r)))).polders = State.reset.polders :=
    (polders_applyCaches _).trans (polders_applySlot _)
  rw [coldStart_of_disagree r h, polder, polders_settleLimits]
  refine (ivs_faultC4 hunowned _).trans ?_
  rw [bumpIv, bumpIv, polder_modPolder_self, polder_modPolder_self, polder, polder, hreset]

/-- A module whose fused trims hold an entry that disagrees with its complement, everything else as after reset. -/
def trimTorn : State := { State.reset with fuses := { Fuses.factory with trims := [(0, ⟨0, 0⟩)] } }

theorem fusesAgree_trimTorn : fusesAgree trimTorn.fuses = false := by
  have htorn : compAgrees (⟨0#32, 0#32⟩ : Comp 32) = false := by decide
  simp [fusesAgree, trimTorn, htorn]

/-- Refutes O53: BroughtUp says that every polder is as after reset, however bring-up ends. Where a fuse bank disagrees, power-on ends
in a class C4 fault, which floods a fault token of every polder: channel 0xFD of each counts one. -/
theorem not_bringUpLoadsTrainsAndReleases : ¬ Obligations.BringUpLoadsTrainsAndReleases := by
  unfold Obligations.BringUpLoadsTrainsAndReleases
  intro h
  obtain ⟨hon, -⟩ := h trimTorn 0 0 default default true
  obtain ⟨t, hexec, -, -, -, -, -, -, -, hpolders, -⟩ := hon rfl
  have ht : coldStart trimTorn 0 = t := by injection hexec
  subst ht
  have hdisagree : fusesAgree (fusesRead (poweredOn trimTorn 0)).fuses = false := fusesAgree_trimTorn
  have hivs := ivs_coldStart_of_disagree 0 hdisagree
  rw [polder, hpolders] at hivs
  exact absurd hivs (by decide)

end Sys2Proof.Machine
end

section
/-! SUPPORT. `Handling`: what the handling of a fault moves on the polder that it takes (R338, R339): the final posting, what is spoilt
and released, the records and the notes to the host. -/

namespace Sys2Proof.Machine

variable {s t u : State} {p : Fin 4} {cls id : Nat}

/-! ## What the handling of a fault moves -/

/-- State s with what the handling of a fault may move taken from t. -/
def withHandled (s t : State) : State :=
  { s with polders := t.polders, clusters := t.clusters, mem := t.mem, undef := t.undef, watch := t.watch, poison := t.poison,
           hostMem := t.hostMem, counters := t.counters, sites := t.sites, localCount := t.localCount, cvus := t.cvus,
           draws := t.draws, funcs := t.funcs, msix := t.msix }

/-- Polder P with what the handling of a fault may move taken from Q. -/
def withLeft (P Q : Polder) : Polder :=
  { P with gauges := Q.gauges, chanBytes := Q.chanBytes, ringDue := Q.ringDue, traceWritten := Q.traceWritten, queues := Q.queues,
           events := Q.events, inflight := Q.inflight, claims := Q.claims, remoteOut := Q.remoteOut, reqs := Q.reqs,
           recent := Q.recent }

/-- Function F with what notes to the host move taken from G. -/
def withTold (F G : Func) : Func :=
  { F with cause := G.cause, msixPending := G.msixPending, events := G.events, eventSeq := G.eventSeq, lost := G.lost }

/-- From s to t work of polder p was posted, spoilt, counted or recorded, and the host told: its state, its discard, its dump and its
items stay, the other polders do, and so does what each mailbox holds. -/
structure Handling (p : Fin 4) (s t : State) : Prop where
  eq : t = withHandled s t
  others : ∀ x, x ≠ p → polder t x = polder s x
  held : polder t p = withLeft (polder s p) (polder t p)
  mailbox : ∀ f, func t f = withTold (func s f) (func t f)

namespace Handling

theorem refl (p : Fin 4) (s : State) : Handling p s s := ⟨rfl, fun _ _ => rfl, rfl, fun _ => rfl⟩

theorem trans (h : Handling p s t) (k : Handling p t u) : Handling p s u where
  eq := calc u
    _ = withHandled t u := k.eq
    _ = withHandled (withHandled s t) u := congrArg (withHandled · u) h.eq
  others x hx := (k.others x hx).trans (h.others x hx)
  held := calc polder u p
    _ = withLeft (polder t p) (polder u p) := k.held
    _ = withLeft (withLeft (polder s p) (polder t p)) (polder u p) := congrArg (withLeft · _) h.held
  mailbox f := calc func u f
    _ = withTold (func t f) (func u f) := k.mailbox f
    _ = withTold (withTold (func s f) (func t f)) (func u f) := congrArg (withTold · _) (h.mailbox f)

theorem foldl {α : Type} {f : State → α → State} (hf : ∀ s x, Handling p s (f s x)) (xs : List α) (s : State) :
    Handling p s (xs.foldl f s) := List.foldlRecOn xs f (refl p s) fun _ h x _ => h.trans (hf _ x)

theorem ite (c : Prop) [Decidable c] (h : Handling p s t) (k : Handling p s u) : Handling p s (if c then t else u) := by
  split
  · exact h
  · exact k

/-- An update of neither polders nor functions. -/
theorem same (heq : t = withHandled s t) (hp : t.polders = s.polders) (hf : t.funcs = s.funcs) : Handling p s t :=
  have polders (x : Fin 4) : polder t x = polder s x := congrArg (Vector.get · x) hp
  have funcs (f : Fin 5) : func t f = func s f := congrArg (Vector.get · f) hf
  ⟨heq, fun x _ => polders x, by rw [polders]; rfl, fun f => by rw [funcs]; rfl⟩

/-- Counts and traffic that leave the queues as they are. -/
theorem ofMoved (h : Moved false false s t) (k : BesideQueues p s t) : Handling p s t where
  eq := by obtain ⟨_, _, _, _, _, _, _, _, rfl, -, -, -, hclusters⟩ := h; cases hclusters rfl; rfl
  others := k.others
  held := by rw [(h.carries p).1]; rfl
  mailbox f := by rw [k.func]; rfl

theorem st (h : Handling p s t) : (polder t p).st = (polder s p).st := by rw [h.held]; rfl

theorem discard (h : Handling p s t) : (polder t p).discard = (polder s p).discard := by rw [h.held]; rfl

theorem dump (h : Handling p s t) : (polder t p).dump = (polder s p).dump := by rw [h.held]; rfl

end Handling

theorem modPolder_handling (s : State) (p : Fin 4) {f : Polder → Polder} (hf : ∀ P, f P = withLeft P (f P) := by exact fun _ => rfl) :
    Handling p s (modPolder s p f) where
  eq := rfl
  others _ hx := polder_modPolder_ne s f hx
  held := by rw [polder_modPolder_self]; exact hf _
  mailbox _ := rfl

theorem modFunc_handling (s : State) (p : Fin 4) (f : Fin 5) {g : Func → Func}
    (hg : ∀ F, g F = withTold F (g F) := by exact fun _ => rfl) : Handling p s (modFunc s f g) where
  eq := rfl
  others _ _ := rfl
  held := rfl
  mailbox x := by
    rw [func_modFunc]
    split
    · next h => rw [h]; exact hg _
    · rfl

/-! ## Memory, traffic and records -/

theorem memWrite_handling (s : State) (p : Fin 4) (a : Nat) (bs : List Byte) : Handling p s (memWrite s a bs).1 :=
  .same (by rw [memWrite_eq]; rfl) (by rw [memWrite_eq]) (by rw [memWrite_eq])

theorem regionWrite_handling (s : State) (p : Fin 4) (a : Nat) (bs : List Byte) : Handling p s (regionWrite s p a bs) :=
  (memWrite_handling ..).trans (.ofMoved (touch_moved ..) (touch_beside (.refl p _)))

theorem unitWrite_handling (s : State) (p : Fin 4) (set : BitVec 16) (a : Nat) (bs : List Byte) :
    Handling p s (unitWrite s p set a bs).1 :=
  (memWrite_handling ..).trans (.ofMoved (noteAccess_moved ..) (noteAccess_beside (.refl p _)))

theorem writeRing_handling (s : State) (p : Fin 4) (bytes : List Byte) : Handling p s (writeRing s p bytes) :=
  (regionWrite_handling ..).trans ((regionWrite_handling ..).trans (modPolder_handling _ p))

theorem flushRing_handling (s : State) (p : Fin 4) : Handling p s (flushRing s p) :=
  (Handling.foldl (fun _ _ => writeRing_handling ..) _ s).trans (modPolder_handling _ p)

theorem traceRecord_handling (s : State) (p : Fin 4) (typ qb : Nat) (rounded : Bool) (op : Nat) (seq rid : Word) (set : Nat)
    (body : List Byte) (snap : Option Snap) : Handling p s (traceRecord s p typ qb rounded op seq rid set body snap) :=
  .ite _ (.refl p s) ((modPolder_handling s p).trans (flushRing_handling ..))

theorem toEdge_handling (s : State) (p : Fin 4) (k : Nat) : Handling p s (toEdge s p k) :=
  .same (by rw [(toEdge_recording (fit := False) s p k).eq]; rfl) (toEdge_polders ..) (toEdge_beside (.refl p s)).funcs

theorem takeSnap_handling (s : State) (p : Fin 4) (k : Nat) : Handling p s (takeSnap s p k) := by
  have hedge : Handling p s (toEdge s p k) := toEdge_handling ..
  have hsnap (u : State) : Handling p u (snapEdge u p k) := .same rfl rfl rfl
  unfold takeSnap
  dsimp only
  split
  · exact hedge.trans (hsnap _)
  · refine hedge.trans (.trans (.ofMoved (Moved.foldl (fun _ _ => countTimed_moved ..) ..) ?_) (hsnap _))
    exact (BesideQueues.refl p _).foldl fun _ _ h => countTimed_beside h

/-! ## Notes to the host -/

theorem sendMsix_handling (s : State) (p : Fin 4) (f : Fin 5) (v : Nat) : Handling p s (sendMsix s f v) := by
  rw [sendMsix_eq]
  exact (modFunc_handling s p f).trans (.same rfl rfl rfl)

theorem raiseCause_handling (s : State) (p : Fin 4) (f : Fin 5) (bit : Nat) : Handling p s (raiseCause s f bit) := by
  rw [raiseCause_eq]
  exact (modFunc_handling s p f).trans (.same rfl rfl rfl)

theorem queueEvent_handling (s : State) (p : Fin 4) (f : Fin 5) (code : BitVec 16) (n : Byte) (payload : List Byte) :
    Handling p s (queueEvent s f code n payload) := (modFunc_handling s p f).trans (raiseCause_handling ..)

theorem polderEvent_handling (s : State) (p q : Fin 4) (code : Nat) (payload : List Byte) :
    Handling p s (polderEvent s q code payload) := (queueEvent_handling ..).trans (queueEvent_handling ..)

theorem modQueue_handling (s : State) (p : Fin 4) (q : Fin 16) (f : Queue → Queue) : Handling p s (modQueue s p q f) :=
  modPolder_handling s p

theorem sendQueueMsix_handling (s : State) (p : Fin 4) (q : Fin 16) : Handling p s (sendQueueMsix s p q) :=
  .ite _ (.refl p s) ((sendMsix_handling ..).trans (modQueue_handling ..))

theorem putCq_handling (s : State) (p : Fin 4) (q : Fin 16) (f : Nat → List Byte) : Handling p s (putCq s p q f) :=
  .trans (t := hostWrite s _ _) (.same rfl rfl rfl) (modQueue_handling ..)

theorem notePosted_handling (s : State) (p : Fin 4) (q : Fin 16) : Handling p s (notePosted s p q) :=
  have hnoted := (raiseCause_handling s p (vf p) (16 + q.val)).trans
    (modQueue_handling _ p q fun Q => { Q with unsignalled := Q.unsignalled + 1 })
  .ite _ (hnoted.trans (sendQueueMsix_handling ..)) hnoted

theorem signal_handling (s : State) (p : Fin 4) (ev : Nat) (v : Word) : Handling p s (signal s p ev v) := modPolder_handling s p

/-! ## The final posting -/

theorem releaseUnits_handling (s : State) (p : Fin 4) (q : Fin 16) (n : Word) : Handling p s (releaseUnits s p q n) := .same rfl rfl rfl

theorem mergeCmd_handling (s : State) (p : Fin 4) (c : Cmd) : Handling p s (mergeCmd s p c) :=
  (modPolder_handling s p fun P => by rw [mergeGauges_eq]; rfl).trans (.foldl (fun _ _ => unitWrite_handling ..) c.spill _)

theorem endRecord_handling (s : State) (p : Fin 4) (c : Cmd) (st : Status) : Handling p s (endRecord s p c st) :=
  .ite _ (.refl p s) ((takeSnap_handling ..).trans (traceRecord_handling ..))

theorem signalOwn_handling (s : State) (p : Fin 4) (c : Cmd) (st : Status) : Handling p s (signalOwn s p c st) :=
  .ite _ (signal_handling ..) (.refl p s)

theorem reportCmd_handling (s : State) (p : Fin 4) (c : Cmd) (st : Status) : Handling p s (reportCmd s p c st) :=
  have hnoted := (putCq_handling s p c.q _).trans ((modQueue_handling ..).trans (notePosted_handling ..))
  .ite _ (hnoted.trans (signal_handling ..)) hnoted

theorem requestPosted_handling (s : State) (p : Fin 4) (rid : Word) : Handling p s (requestPosted s p rid) := modPolder_handling s p

theorem noteLeft_handling (s : State) (p : Fin 4) (c : Cmd) (discarded : Bool) : Handling p s (noteLeft s p c discarded) :=
  modPolder_handling s p

theorem postCompletion_handling (s : State) (p : Fin 4) (c : Cmd) (res : Status) : Handling p s (postCompletion s p c res) := by
  unfold postCompletion
  refine .trans ?_ ((requestPosted_handling ..).trans ((noteLeft_handling ..).trans (modPolder_handling _ p)))
  refine .trans ?_ (.ite _ (.refl p _) (reportCmd_handling ..))
  refine .trans ?_ ((signalOwn_handling ..).trans (endRecord_handling ..))
  exact (releaseUnits_handling ..).trans (.ite _ (mergeCmd_handling ..) (.refl p _))

theorem postFinal_handling (s : State) (p : Fin 4) : Handling p s (postFinal s p) := by
  unfold postFinal
  split
  · split
    · exact postCompletion_handling ..
    · exact postCompletion_handling ..
    · exact .refl p s
  · exact .refl p s

/-! ## What is abandoned -/

theorem spoil_handling (s : State) (p : Fin 4) (a n : Nat) : Handling p s (spoil s a n) := .same rfl rfl rfl

theorem spoilHost_handling (s : State) (p : Fin 4) (a n : Nat) : Handling p s (spoilHost s a n) := .same rfl rfl rfl

theorem staleBuffer_handling (s : State) (p : Fin 4) (c : Fin 256) (a n : Nat) : Handling p s (staleBuffer s c a n) := .same rfl rfl rfl

theorem staleAround_handling (s : State) (p : Fin 4) (c : Fin 256) (keep : List (Nat × Nat)) : Handling p s (staleAround s c keep) :=
  .foldl (fun _ _ => staleBuffer_handling ..) _ s

theorem spoilSlices_handling (s : State) (p : Fin 4) (keep : List (Nat × Nat)) : Handling p s (spoilSlices s p keep) :=
  .foldl (fun s _ => .foldl (fun _ _ => spoil_handling ..) _ s) _ s

theorem spoilAreas_handling (s : State) (p : Fin 4) (rs : List Area) : Handling p s (spoilAreas s rs) :=
  .foldl (fun _ _ => .foldl (fun _ _ => .ite _ (spoilHost_handling ..) (spoil_handling ..)) _ _) rs s

theorem spoilCopies_handling (s : State) (p : Fin 4) (q : Fin 16) (n : Word) (r : UpdRun) : Handling p s (spoilCopies s p q n r) := by
  have hslices (xs : List (Nat × Nat)) (keep : List (Nat × Nat)) :
      Handling p s (xs.foldl (fun s x => spoil s x.1 x.2) (spoilSlices s p keep)) :=
    (spoilSlices_handling ..).trans (.foldl (fun _ _ => spoil_handling ..) xs _)
  refine .ite _ (.refl p s) (.ite _ ?_ (.ite _ (hslices ..) (.refl p s)))
  refine (Handling.ite _ (hslices ..) (.refl p s)).trans (.trans (.foldl (fun _ _ => ?_) _ _) (.foldl (fun s _ => ?_) _ _))
  · exact .ite _ (staleAround_handling ..) (.refl p _)
  · exact .foldl (fun _ _ => staleBuffer_handling ..) _ s

theorem spoilPrograms_handling (s : State) (p : Fin 4) (c : Cmd) : Handling p s (spoilPrograms s p c) := by
  unfold spoilPrograms
  split
  · next r _ =>
    have hbuffers : Handling p s (if storesTo r.prog 1 then (rangeClusters s p r.base r.count).foldl (staleAround · · []) s else s) :=
      .ite _ (.foldl (fun _ _ => staleAround_handling ..) _ s) (.refl p s)
    exact .ite _ (hbuffers.trans (spoilSlices_handling ..)) hbuffers
  · exact spoilCopies_handling ..
  · exact .refl p s

theorem abandonAll_handling (s : State) (p : Fin 4) : Handling p s (abandonAll s p) := by
  refine .trans (.foldl (fun s c => ?_) (polder s p).inflight s) (modPolder_handling _ p)
  refine (spoilPrograms_handling s p c).trans ((releaseUnits_handling _ p c.q c.e.seq).trans ((spoilAreas_handling _ p c.areas).trans ?_))
  exact (noteLeft_handling ..).trans (modPolder_handling _ p)

theorem inflight_abandonAll (s : State) (p : Fin 4) : (polder (abandonAll s p) p).inflight = [] := by
  rw [abandonAll, polder_modPolder_self]

/-! ## A discard begun (R338) -/

theorem discardStart_handling (s : State) (p : Fin 4) : Handling p s (abandonAll (postFinal s p) p) :=
  (postFinal_handling ..).trans (abandonAll_handling ..)

/-- The records of polder p are due, and nothing of it is in flight. -/
def Discarding (s : State) (p : Fin 4) (cls id : Nat) : Prop :=
  (polder s p).discard = some (cls, id) ∧ (polder s p).inflight = []

theorem polder_beginDiscard (s : State) (cls id : Nat) (p : Fin 4) :
    polder (beginDiscard s cls id p) p = { polder (abandonAll (postFinal s p) p) p with discard := some (cls, id) } :=
  polder_modPolder_self ..

theorem discarding_beginDiscard (s : State) (cls id : Nat) (p : Fin 4) : Discarding (beginDiscard s cls id p) p cls id := by
  rw [Discarding, polder_beginDiscard]
  exact ⟨rfl, inflight_abandonAll ..⟩

theorem dump_beginDiscard (s : State) (cls id : Nat) (p : Fin 4) : (polder (beginDiscard s cls id p) p).dump = (polder s p).dump := by
  rw [polder_beginDiscard]
  exact (discardStart_handling s p).dump

/-! ## A CLOSE that runs (R377) -/

/-- Whether a CLOSE runs depends on the mailbox, the cores that serve it and the states of the module and the polder. -/
theorem closeRuns_congr (hboot : t.boot = s.boot) (hserves : keeperServes t = keeperServes s)
    (hbusy : (func t (vf p)).busy = (func s (vf p)).busy) (hlatched : (func t (vf p)).latched = (func s (vf p)).latched)
    (hst : (polder t p).st = (polder s p).st) : closeRuns t p = closeRuns s p := by
  have hwaiting : waitingRequest t (vf p) = waitingRequest s (vf p) := by
    rw [waitingRequest, waitingRequest, hbusy, hlatched, hboot, hserves]
  unfold closeRuns
  rw [hwaiting]
  split
  next r _ =>
    by_cases htype : reqType (reqBytes r) = 0x102
    · have hallowed : typeAllowed t (vf p) (reqBytes r) = typeAllowed s (vf p) (reqBytes r) := by
        simp [typeAllowed, identityAllows, htype, hboot, polderOfVf, vf, hst]
      rw [headerStatus, headerStatus, hallowed]
    · rw [beq_false_of_ne htype, Bool.false_and, Bool.false_and]
  next => rfl

theorem Handling.closeRuns (h : Handling p s t) (x : Fin 4) : closeRuns t x = Machine.closeRuns s x := by
  have hst : (polder t x).st = (polder s x).st := by
    by_cases hx : x = p
    · rw [hx, h.st]
    · rw [h.others x hx]
  exact closeRuns_congr (by rw [h.eq]; rfl) (by rw [h.eq]; rfl) (by rw [h.mailbox]; rfl) (by rw [h.mailbox]; rfl) hst

/-- A request of another type waits in the mailbox: no CLOSE does. -/
theorem closeRuns_of_requestOf {typ : Nat} {bs : List Byte} (h : requestOf s (vf p) typ = some bs) (htyp : typ ≠ 0x102) :
    closeRuns s p = false := by
  unfold requestOf at h
  unfold closeRuns
  split at h
  next => cases h
  next r hr =>
    obtain ⟨⟨-, htype⟩, -⟩ := Option.ite_none_right_eq_some.mp h
    simp [hr, htype, htyp]

/-! ## A polder taken (R336, R337) -/

theorem takePolder_of_running (h : isRunning s p = true) (hclose : closeRuns s p = false) :
    takePolder cls id s p = beginDiscard s cls id p := by
  have hst : (polder s p).st = .opened := by simp [isRunning] at h; exact h.1
  simp [takePolder, hst, hclose]

/-- A class C2 fault of one polder that runs. -/
theorem faultC2_of_running (h : isRunning s p = true) (hclose : closeRuns s p = false) (i : FaultInfo) :
    faultC2 s [p] i = beginDiscard (beginRepair s 2 [p] i) 2 (nextRepair s) p := by
  have hfresh : [p].filter (fun p => isRunning s p || faultedCloses s p) = [p] := by simp [h]
  have htake := takePolder_of_running (s := beginRepair s 2 [p] i) (cls := 2) (id := nextRepair s) h hclose
  unfold faultC2
  dsimp only
  rw [hfresh]
  exact htake

end Sys2Proof.Machine
end

section
/-! SUPPORT. DUMP_READ's copy and capture (R226, R338, R429, R431), with the statement on them. -/

namespace Sys2Proof.Machine

variable {s t u : State} {p : Fin 4} {bs b : List Byte}

/-! ## A copy of the dump's bytes -/

theorem touchBlocks_eq (k : Nat) (s : State) (p : Fin 4) (a n : Nat) :
    touchBlocks k s p a n = { s with sites := (touchBlocks k s p a n).sites, polders := (touchBlocks k s p a n).polders } := by
  induction k generalizing s a n with
  | zero => rfl
  | succ k ih =>
    simp only [touchBlocks]
    split
    · rfl
    · rw [ih]
      split <;> rfl

/-- Traffic moves the sites and what the polder counts of it. -/
theorem touch_eq (s : State) (p : Fin 4) (a n : Nat) :
    touch s p a n = { s with sites := (touch s p a n).sites, polders := (touch s p a n).polders } := by
  unfold touch
  split
  · rfl
  · exact touchBlocks_eq ..

/-- The state after n bytes at `src` were copied to `dst`. -/
def dumpCopied (s : State) (p : Fin 4) (src dst n : Nat) : State :=
  touch (touch (memWrite s dst (memBytes s src n)).1 p src n) p dst n

theorem dumpCopied_moved (h : s.poison = []) (src dst n : Nat) : Moved true false s (dumpCopied s p src dst n) :=
  (memWrite_moved h dst _).trans ((touch_moved ..).trans (touch_moved ..))

theorem byte_dumpCopied (h : s.poison = []) (src dst n x : Nat) : memByte (dumpCopied s p src dst n) x =
    if dst ≤ x ∧ x < dst + n then (memBytes s src n).getD (x - dst) 0 else memByte s x := by
  have htouch : Moved false false (memWrite s dst (memBytes s src n)).1 (dumpCopied s p src dst n) :=
    (touch_moved ..).trans (touch_moved ..)
  rw [htouch.memByte, byte_memWrite h, memBytes_length]

theorem dumpCopied_eq (h : s.poison = []) (src dst n : Nat) : dumpCopied s p src dst n = { s with
    mem := (dumpCopied s p src dst n).mem, undef := (dumpCopied s p src dst n).undef, sites := (dumpCopied s p src dst n).sites,
    polders := (dumpCopied s p src dst n).polders, watch := (dumpCopied s p src dst n).watch } := by
  have hpoison : (memWrite s dst (memBytes s src n)).1.poison = s.poison := (memWrite_moved (tiles := false) h dst _).poison
  unfold dumpCopied
  rw [touch_eq, touch_eq (memWrite _ _ _).1, memWrite_eq, hpoison]

theorem memBytes_dumpCopied (h : s.poison = []) (src dst n : Nat) : memBytes (dumpCopied s p src dst n) dst n = memBytes s src n := by
  refine List.map_congr_left fun i hi => ?_
  have hlt : i < n := List.mem_range.1 hi
  rw [byte_dumpCopied h, if_pos (by omega), Nat.add_sub_cancel_left, memBytes]
  simp [List.getD_eq_getElem?_getD, hlt]

theorem memWrite_stored (h : s.poison = []) (a : Nat) (bs : List Byte) : (memWrite s a bs).2 = true := by
  by_cases hbs : bs = []
  · rw [hbs]; rfl
  · rw [memWrite_of_no_poison h a hbs]

/-- What order 4 of R295 asks of a copy: an aligned destination, and a range inside the dump (R431). -/
def CopyInDump (d : Dump) (b : List Byte) : Prop :=
  ¬ (fld b 0x10 8 % 64 ≠ 0 ∨ 2 ^ 48 ≤ fld b 0x10 8 ∨ 2 ^ 26 < fld b 0x18 4 ∨ d.length < fld b 8 8 + fld b 0x18 4)

section Copies

variable {d : Dump} (h : (polder s p).dump = some d)
include h

theorem dumpCopy_outside (hform : ¬ CopyInDump d b) : dumpCopy s p b = refuse s .descInvalid := by
  unfold dumpCopy
  rw [h]
  exact if_pos (not_not.1 hform)

theorem dumpCopy_denied (hform : CopyInDump d b) (huser : userRange s p (fld b 0x10 8) (fld b 0x18 4) = false) :
    dumpCopy s p b = refuse s .accessDenied := by
  unfold dumpCopy
  rw [h]
  exact (if_neg hform).trans (if_pos (by simp [huser]))

theorem dumpCopy_uncorrected (hform : CopyInDump d b) (huser : userRange s p (fld b 0x10 8) (fld b 0x18 4) = true)
    (hbad : meetsBad s (dumpBase (firstDie s p) + fld b 8 8) (fld b 0x18 4) = true) :
    dumpCopy s p b = refuse (touch s p (dumpBase (firstDie s p) + fld b 8 8) (fld b 0x18 4)) .eccUncorrected := by
  unfold dumpCopy
  rw [h]
  refine (if_neg hform).trans ((if_neg (by simp [huser])).trans ?_)
  simp only [memRead, if_pos hbad]

theorem dumpCopy_done (hpoison : s.poison = []) (hform : CopyInDump d b)
    (huser : userRange s p (fld b 0x10 8) (fld b 0x18 4) = true) :
    dumpCopy s p b = accept (dumpCopied s p (dumpBase (firstDie s p) + fld b 8 8) (fld b 0x10 8) (fld b 0x18 4)) := by
  unfold dumpCopy
  rw [h]
  refine (if_neg hform).trans ((if_neg (by simp [huser])).trans ?_)
  simp only [memRead, meetsBad_of_no_poison hpoison, memWrite_stored hpoison]
  rfl

end Copies

theorem doDumpReadCopy_answered {st : Status} {pay : List Byte} (h : Asks s (vf p) 0x10B 32 bs b) (hop : fld b 0 1 = 1)
    (hst : (polder s p).st = .opened ∨ (polder s p).st = .faulted) (hzero : dumpRsvd b = true)
    (hcopy : dumpCopy s p b = (u, st, pay)) : Answered u (doDumpReadCopy p s) (vf p) bs st pay := by
  have hin : stateIs s p [.opened, .faulted] = true := by simpa [stateIs] using hst
  exact serve_answered h (opIs_of_fld hop) ((if_neg (by simp [hin])).trans ((if_neg (by simp [hzero])).trans hcopy))

/-! ## A capture (R429) -/

theorem nextDraw_handling (s : State) (p : Fin 4) : Handling p s (nextDraw s) := .same rfl rfl rfl

/-- From s to t the polder was captured: it holds a dump, and its state, its discard and its CLOSE are as they were. -/
structure Captured (p : Fin 4) (s t : State) : Prop where
  dump : (polder t p).dump.isSome = true
  st : (polder t p).st = (polder s p).st
  discard : (polder t p).discard = (polder s p).discard
  closeRuns : closeRuns t p = closeRuns s p

/-- Handling beside a capture. -/
theorem Handling.captured (h : Handling p s t) (hdump : (polder s p).dump.isSome = true) : Captured p s t :=
  ⟨by rw [h.dump, hdump], h.st, h.discard, h.closeRuns p⟩

theorem Captured.of_handling (h : Handling p s t) (k : Captured p t u) : Captured p s u :=
  ⟨k.dump, k.st.trans h.st, k.discard.trans h.discard, k.closeRuns.trans (h.closeRuns p)⟩

theorem Captured.trans (h : Captured p s t) (k : Handling p t u) : Captured p s u :=
  ⟨by rw [k.dump, h.dump], k.st.trans h.st, k.discard.trans h.discard, (k.closeRuns p).trans h.closeRuns⟩

theorem putDump_captured (s : State) (p : Fin 4) (d : Dump) : Captured p s (modPolder s p fun P => { P with dump := some d }) := by
  have hpolder := polder_modPolder_self (s := s) p fun P => { P with dump := some d }
  exact ⟨by rw [hpolder]; rfl, by rw [hpolder], by rw [hpolder], closeRuns_congr rfl rfl rfl rfl (by rw [hpolder])⟩

theorem laterTrigger_captured (s : State) (p : Fin 4) (d : Dump) : Captured p s (laterTrigger s p d) :=
  .of_handling (regionWrite_handling ..) (putDump_captured ..)

theorem writeDump_captured (s : State) (p : Fin 4) (reason qb : Nat) (n : Word) (repair : Nat) :
    Captured p s (writeDump s p reason qb n repair) := by
  unfold writeDump
  refine .trans (.of_handling ?_ (putDump_captured ..)) ((traceRecord_handling ..).trans (polderEvent_handling ..))
  exact (regionWrite_handling ..).trans (nextDraw_handling ..)

/-- The state in which a capture raises its fault: the dump written, or a later trigger counted. -/
def dumped (s : State) (p : Fin 4) (reason qb : Nat) (n : Word) : State :=
  match (polder s p).dump with
  | some d => laterTrigger s p d
  | none => writeDump (takeSnap s p 1) p reason qb n (captureRepair s p)

theorem dumped_captured (s : State) (p : Fin 4) (reason qb : Nat) (n : Word) : Captured p s (dumped s p reason qb n) := by
  unfold dumped
  split
  · exact laterTrigger_captured ..
  · exact .of_handling (takeSnap_handling ..) (writeDump_captured ..)

theorem capture_eq (s : State) (p : Fin 4) (reason qb : Nat) (n : Word) :
    capture s p reason qb n = faultC2 (dumped s p reason qb n) [p] (faultInfo 0x0E 0 (firstDie (dumped s p reason qb n) p).val 0) := rfl

theorem faultC2_of_handling (h : isHandling s p = true) (hrun : isRunning s p = false) (hst : (polder s p).st ≠ .faulted)
    (i : FaultInfo) : faultC2 s [p] i = s := by
  have hcloses : faultedCloses s p = false := by simp [faultedCloses, hst]
  have hfresh : [p].filter (fun p => isRunning s p || faultedCloses s p) = [] := by simp [hrun, hcloses]
  unfold faultC2
  dsimp only
  rw [hfresh]
  exact if_pos (by simp [h])

/-- A capture leaves a dump, and of a polder whose discard had not begun it has begun the discard. -/
theorem capture_captures (hst : (polder s p).st = .opened) (hclose : closeRuns s p = false) (reason qb : Nat) (n : Word) :
    (polder (capture s p reason qb n) p).dump.isSome = true ∧ ((polder s p).discard = none →
      (polder (capture s p reason qb n) p).discard.isSome = true ∧ (polder (capture s p reason qb n) p).inflight = []) := by
  rw [capture_eq]
  obtain ⟨hdump, hst', hdiscard, hclose'⟩ := dumped_captured s p reason qb n
  generalize dumped s p reason qb n = t at *
  rw [hst] at hst'
  rw [hclose] at hclose'
  cases hnone : (polder s p).discard with
  | none =>
    have hrun : isRunning t p = true := by simp [isRunning, hst', hdiscard, hnone]
    rw [faultC2_of_running hrun hclose']
    obtain ⟨hbegun, hinflight⟩ := discarding_beginDiscard (beginRepair t 2 [p] _) 2 (nextRepair t) p
    rw [dump_beginDiscard]
    exact ⟨hdump, fun _ => ⟨by rw [hbegun]; rfl, hinflight⟩⟩
  | some x =>
    rw [faultC2_of_handling]
    · exact ⟨hdump, nofun⟩
    · simp [isHandling, hdiscard, hnone]
    · simp [isRunning, hst', hdiscard, hnone]
    · rw [hst']; decide

/-- Settles O34: a copy writes the destination and counts traffic; a capture writes the dump and raises a class C2 fault of its polder,
whose mailbox holds this request and so no CLOSE. -/
theorem dumpsAreCopiedCapturedAndReleased : Obligations.DumpsAreCopiedCapturedAndReleased := by
  unfold Obligations.DumpsAreCopiedCapturedAndReleased
  intro s p bs b h
  refine ⟨fun hop => ⟨fun hst => ?_, fun hst => ⟨fun hform => ?_, fun d hzero hdump hform => ?_,
    fun d hzero hdump halign hdst hlen hin => ?_⟩⟩, fun hop hst => ?_, fun hop hst hzero => ?_, fun hop hzero => ?_⟩
  · have hin : stateIs s p [.opened, .faulted] = false := by simpa [stateIs] using hst
    exact ⟨_, rfl, serve_answered h (opIs_of_fld hop) (if_pos (by simp [hin]))⟩
  · have hin : stateIs s p [.opened, .faulted] = true := by simpa [stateIs] using hst
    refine ⟨_, rfl, serve_answered h (opIs_of_fld hop) ((if_neg (by simp [hin])).trans ?_)⟩
    split
    · rfl
    · next hzero => simp [dumpCopy, hform.resolve_left (by simpa using hzero), refuse]
  · exact ⟨_, rfl, doDumpReadCopy_answered h hop hst hzero (dumpCopy_outside hdump (not_not.2 hform))⟩
  · have hform : CopyInDump d b := by simp only [CopyInDump]; omega
    refine ⟨fun huser => ⟨_, rfl, doDumpReadCopy_answered h hop hst hzero (dumpCopy_denied hdump hform huser)⟩,
      fun huser hbad => ⟨_, rfl, doDumpReadCopy_answered h hop hst hzero (dumpCopy_uncorrected hdump hform huser hbad)⟩,
      fun huser hpoison => ⟨_, ⟨_, rfl, doDumpReadCopy_answered h hop hst hzero (dumpCopy_done hdump hpoison hform huser)⟩,
        memBytes_dumpCopied hpoison .., fun a ha => ?_, fun x => ((dumpCopied_moved hpoison ..).carries x).kept,
        dumpCopied_eq hpoison ..⟩⟩
    rw [byte_dumpCopied hpoison, if_neg (by omega)]
  · have hin : stateIs s p [.opened] = false := by simpa [stateIs] using hst
    exact ⟨_, rfl, serve_answered h (opIs_of_fld hop) (if_pos (by simp [hin]))⟩
  · have hin : stateIs s p [.opened] = true := by simpa [stateIs] using hst
    have hclose : closeRuns s p = false := closeRuns_of_requestOf h.1 (by decide)
    exact ⟨_, ⟨_, rfl, serve_answered h (opIs_of_fld hop) ((if_neg (by simp [hin])).trans (if_neg (by simp [hzero])))⟩,
      capture_captures hst hclose 1 0xFF 0⟩
  · exact ⟨_, rfl, serveDump_answered h hop hzero rfl⟩

end Sys2Proof.Machine
end

section
/-! SUPPORT. `Mending`, `Taking` and `Faulting`: what the module's remaps, the taking of polders and the faults they raise move (R336,
R337, R347-R351). -/

namespace Sys2Proof.Machine

variable {s t u : State} {p x : Fin 4} {cls id : Nat}

/-! ## Remaps and retraining -/

/-- State s with what remaps and retraining may move taken from t. -/
def withMended (s t : State) : State :=
  { s with softRemaps := t.softRemaps, slotDue := t.slotDue, pagesDue := t.pagesDue, sites := t.sites, bootFlags := t.bootFlags,
           plan := t.plan, draws := t.draws, funcs := t.funcs, msix := t.msix }

/-- From s to t units were remapped or retrained and the host told of it: no polder and no report has moved. -/
structure Mending (s t : State) : Prop where
  eq : t = withMended s t
  mailbox : ∀ f, func t f = withTold (func s f) (func t f)

namespace Mending

theorem refl (s : State) : Mending s s := ⟨rfl, fun _ => rfl⟩

theorem trans (h : Mending s t) (k : Mending t u) : Mending s u where
  eq := calc u
    _ = withMended t u := k.eq
    _ = withMended (withMended s t) u := congrArg (withMended · u) h.eq
  mailbox f := calc func u f
    _ = withTold (func t f) (func u f) := k.mailbox f
    _ = withTold (withTold (func s f) (func t f)) (func u f) := congrArg (withTold · _) (h.mailbox f)

theorem foldl {α : Type} {f : State → α → State} (hf : ∀ s x, Mending s (f s x)) (xs : List α) (s : State) :
    Mending s (xs.foldl f s) := List.foldlRecOn xs f (refl s) fun _ h x _ => h.trans (hf _ x)

theorem foldl_fst {α β : Type} {f : State × β → α → State × β} (hf : ∀ x a, Mending x.1 (f x a).1) (xs : List α)
    (x : State × β) : Mending x.1 (xs.foldl f x).1 :=
  List.foldlRecOn (motive := fun y => Mending x.1 y.1) xs f (refl x.1) fun _ h a _ => h.trans (hf _ a)

theorem ite (c : Prop) [Decidable c] (h : Mending s t) (k : Mending s u) : Mending s (if c then t else u) := by
  split
  · exact h
  · exact k

/-- An update of no function. -/
theorem same (heq : t = withMended s t) (hf : t.funcs = s.funcs) : Mending s t :=
  ⟨heq, fun f => by rw [show func t f = func s f from congrArg (Vector.get · f) hf]; rfl⟩

theorem polders (h : Mending s t) : t.polders = s.polders := by rw [h.eq]; rfl

theorem polder (h : Mending s t) (x : Fin 4) : polder t x = Machine.polder s x := congrArg (Vector.get · x) h.polders

end Mending

theorem queueEvent_mending (s : State) (f : Fin 5) (code : BitVec 16) (n : Byte) (payload : List Byte) :
    Mending s (queueEvent s f code n payload) :=
  ⟨by rw [queueEvent_eq]; rfl, (queueEvent_handling s 0 f code n payload).mailbox⟩

theorem polderEvent_mending (s : State) (p : Fin 4) (code : Nat) (payload : List Byte) : Mending s (polderEvent s p code payload) :=
  (queueEvent_mending ..).trans (queueEvent_mending ..)

theorem moduleEvent_mending (s : State) (code : Nat) (payload : List Byte) : Mending s (moduleEvent s code payload) :=
  (queueEvent_mending ..).trans (.foldl (fun _ _ => .ite _ (queueEvent_mending ..) (.refl _)) _ _)

theorem raiseCrossed_mending (old s : State) (xs : List Pool) : Mending s (raiseCrossed old s xs) :=
  .foldl (fun _ _ => moduleEvent_mending ..) _ s

theorem spareUsedEvent_mending (s : State) (v : DWord) (repair : Nat) : Mending s (spareUsedEvent s v repair) := by
  unfold spareUsedEvent
  dsimp only
  split
  · exact polderEvent_mending ..
  · exact moduleEvent_mending ..

theorem makeRemap_mending (s : State) (v : DWord) (repair : Nat) : Mending s (makeRemap s v repair) :=
  .trans (t := { s with softRemaps := s.softRemaps ++ [heldComp v], slotDue := true }) (.same rfl rfl)
    ((spareUsedEvent_mending ..).trans (raiseCrossed_mending ..))

theorem makeRemaps_mending (s : State) (vs : List DWord) (repair : Nat) : Mending s (makeRemaps s vs repair) :=
  .foldl (fun _ _ => makeRemap_mending ..) vs s

theorem remapPage_mending {d : Fin 4} {l g repair : Nat} (h : remapPage s d l g repair = some t) : Mending s t := by
  unfold remapPage at h
  dsimp only at h
  split at h
  · cases h
  · obtain ⟨r, -, rfl⟩ := Option.map_eq_some_iff.1 h
    exact makeRemap_mending ..

theorem pageMet_mending (s : State) (d : Fin 4) (v : Nat) : Mending s (pageMet s d v) := .same rfl rfl

theorem pageDue_mending (s : State) (d : Fin 4) (v : Nat) : Mending s (pageDue s d v) := .same rfl rfl

/-! ## Polders taken -/

/-- From s to t no polder has lost or gained a mark of a failed item, one under repair is under repair still, and each mailbox holds what
it held. -/
structure Spared (s t : State) : Prop where
  bad0 : ∀ x, (polder t x).bad0 = (polder s x).bad0
  bad1 : ∀ x, (polder t x).bad1 = (polder s x).bad1
  repairing : ∀ x, (polder s x).st = .repairing ∨ (polder s x).st = .shut → (polder t x).st = (polder s x).st
  mailbox : ∀ f, func t f = withTold (func s f) (func t f)

namespace Spared

theorem refl (s : State) : Spared s s := ⟨fun _ => rfl, fun _ => rfl, fun _ _ => rfl, fun _ => rfl⟩

theorem trans (h : Spared s t) (k : Spared t u) : Spared s u where
  bad0 x := (k.bad0 x).trans (h.bad0 x)
  bad1 x := (k.bad1 x).trans (h.bad1 x)
  repairing x hx := (k.repairing x ((h.repairing x hx).symm ▸ hx)).trans (h.repairing x hx)
  mailbox f := calc func u f
    _ = withTold (func t f) (func u f) := k.mailbox f
    _ = withTold (withTold (func s f) (func t f)) (func u f) := congrArg (withTold · _) (h.mailbox f)

/-- An update of no polder. -/
theorem same (hp : t.polders = s.polders) (hf : ∀ f, func t f = withTold (func s f) (func t f)) : Spared s t :=
  have polders (x : Fin 4) : polder t x = polder s x := congrArg (Vector.get · x) hp
  ⟨fun x => by rw [polders], fun x => by rw [polders], fun x _ => by rw [polders], hf⟩

end Spared

theorem Handling.spared (h : Handling p s t) : Spared s t := by
  have hitems (x : Fin 4) : (polder t x).bad0 = (polder s x).bad0 ∧ (polder t x).bad1 = (polder s x).bad1 ∧
      (polder t x).st = (polder s x).st := by
    by_cases hx : x = p
    · rw [hx, h.held]; exact ⟨rfl, rfl, rfl⟩
    · rw [h.others x hx]; exact ⟨rfl, rfl, rfl⟩
  exact ⟨fun x => (hitems x).1, fun x => (hitems x).2.1, fun x _ => (hitems x).2.2, h.mailbox⟩

/-- From s to t polders were taken into a repair. -/
structure Taking (s t : State) : Prop where
  eq : t = withHandled s t
  spared : Spared s t

namespace Taking

theorem refl (s : State) : Taking s s := ⟨rfl, .refl s⟩

theorem trans (h : Taking s t) (k : Taking t u) : Taking s u where
  eq := calc u
    _ = withHandled t u := k.eq
    _ = withHandled (withHandled s t) u := congrArg (withHandled · u) h.eq
  spared := h.spared.trans k.spared

theorem foldl {α : Type} {f : State → α → State} (hf : ∀ s x, Taking s (f s x)) (xs : List α) (s : State) :
    Taking s (xs.foldl f s) := List.foldlRecOn xs f (refl s) fun _ h x _ => h.trans (hf _ x)

end Taking

/-- An update of one polder that is not under repair, or that leaves it so. -/
theorem modPolder_taking {f : Polder → Polder} (h₀ : ∀ P, (f P).bad0 = P.bad0 := by exact fun _ => rfl)
    (h₁ : ∀ P, (f P).bad1 = P.bad1 := by exact fun _ => rfl)
    (hst : (polder s p).st = .repairing ∨ (polder s p).st = .shut → (f (polder s p)).st = (polder s p).st) :
    Taking s (modPolder s p f) where
  eq := rfl
  spared := by
    refine ⟨fun x => ?_, fun x => ?_, fun x hx => ?_, fun _ => rfl⟩ <;> rw [polder_modPolder] <;> split
    · next h => rw [h, h₀]
    · rfl
    · next h => rw [h, h₁]
    · rfl
    · next h => rw [h] at hx ⊢; exact hst hx
    · rfl

theorem Handling.taking (h : Handling p s t) : Taking s t := ⟨h.eq, h.spared⟩

theorem beginDiscard_taking (s : State) (cls id : Nat) (p : Fin 4) : Taking s (beginDiscard s cls id p) :=
  (discardStart_handling s p).taking.trans (modPolder_taking (hst := fun _ => rfl))

theorem takePolder_taking (cls id : Nat) (s : State) (p : Fin 4) : Taking s (takePolder cls id s p) := by
  unfold takePolder
  split
  · exact .refl s
  · exact .refl s
  · exact .refl s
  · next hst =>
    split
    · exact modPolder_taking (hst := by simp [hst])
    · exact .refl s
  · split
    · next h =>
      have hst : (polder s p).st = .opened := by simp at h; exact h.1
      exact modPolder_taking (hst := by simp [hst])
    · exact beginDiscard_taking ..

theorem polder_beginDiscard_ne (s : State) (cls id : Nat) (h : x ≠ p) : polder (beginDiscard s cls id p) x = polder s x :=
  (polder_modPolder_ne _ _ h).trans ((discardStart_handling s p).others x h)

theorem polder_takePolder_ne (cls id : Nat) (s : State) (h : x ≠ p) : polder (takePolder cls id s p) x = polder s x := by
  unfold takePolder
  split
  · rfl
  · rfl
  · rfl
  · split
    · exact polder_modPolder_ne _ _ h
    · rfl
  · split
    · exact polder_modPolder_ne _ _ h
    · exact polder_beginDiscard_ne _ _ _ h

theorem closeRuns_takePolder_ne (cls id : Nat) (s : State) (h : x ≠ p) : closeRuns (takePolder cls id s p) x = closeRuns s x := by
  have htaking := takePolder_taking cls id s p
  refine closeRuns_congr ?_ ?_ ?_ ?_ (by rw [polder_takePolder_ne _ _ _ h])
  · rw [htaking.eq]; rfl
  · rw [htaking.eq]; rfl
  · rw [htaking.spared.mailbox]; rfl
  · rw [htaking.spared.mailbox]; rfl

/-- The fold of a fault names its repair by the last one begun: taking a polder begins none. -/
theorem foldl_takePolder_lastRepair (cls : Nat) (ps : List (Fin 4)) (s : State) :
    ps.foldl (fun s p => takePolder cls s.lastRepair s p) s = ps.foldl (takePolder cls s.lastRepair) s := by
  induction ps generalizing s with
  | nil => rfl
  | cons p ps ih =>
    have hlast : (takePolder cls s.lastRepair s p).lastRepair = s.lastRepair := by rw [(takePolder_taking ..).eq]; rfl
    rw [List.foldl_cons, ih, hlast, List.foldl_cons]

theorem foldl_takePolder_taking (cls id : Nat) (ps : List (Fin 4)) (s : State) : Taking s (ps.foldl (takePolder cls id) s) :=
  .foldl (fun _ _ => takePolder_taking ..) ps s

theorem polder_foldl_takePolder (cls id : Nat) {ps : List (Fin 4)} (h : x ∉ ps) (s : State) :
    polder (ps.foldl (takePolder cls id) s) x = polder s x :=
  List.foldlRecOn (motive := fun t => polder t x = polder s x) ps _ rfl fun t ht y hy =>
    (polder_takePolder_ne _ _ _ fun e => h (by rwa [e])).trans ht

/-- Of the polders taken, one that runs and that no CLOSE runs on has begun its discard. -/
theorem discarding_foldl_takePolder {ps : List (Fin 4)} (hmem : p ∈ ps) (hnodup : ps.Nodup) (hrun : isRunning s p = true)
    (hclose : closeRuns s p = false) : Discarding (ps.foldl (takePolder cls id) s) p cls id := by
  induction ps generalizing s with
  | nil => cases hmem
  | cons q ps ih =>
    obtain ⟨hq, hps⟩ := List.nodup_cons.1 hnodup
    rw [List.foldl_cons]
    by_cases he : p = q
    · subst he
      rw [takePolder_of_running hrun hclose, Discarding, polder_foldl_takePolder _ _ hq]
      exact discarding_beginDiscard ..
    · refine ih ((List.mem_cons.1 hmem).resolve_left he) hps ?_ ?_
      · rw [isRunning, polder_takePolder_ne _ _ _ he]; exact hrun
      · rw [closeRuns_takePolder_ne _ _ _ he, hclose]

/-! ## Faults raised -/

/-- State s with what a fault of class C1 to C3 may move taken from t. -/
def withFaulted (s t : State) : State :=
  { s with polders := t.polders, clusters := t.clusters, mem := t.mem, undef := t.undef, watch := t.watch, poison := t.poison,
           hostMem := t.hostMem, counters := t.counters, sites := t.sites, localCount := t.localCount, cvus := t.cvus,
           draws := t.draws, funcs := t.funcs, msix := t.msix, softRemaps := t.softRemaps, slotDue := t.slotDue,
           pagesDue := t.pagesDue, bootFlags := t.bootFlags, plan := t.plan, reports := t.reports, lastRepair := t.lastRepair,
           repairs := t.repairs, pageErrs := t.pageErrs }

/-- From s to t memory errors were met, pages retired and faults of class C2 or C3 raised. -/
structure Faulting (s t : State) : Prop where
  eq : t = withFaulted s t
  spared : Spared s t

namespace Faulting

theorem refl (s : State) : Faulting s s := ⟨rfl, .refl s⟩

theorem trans (h : Faulting s t) (k : Faulting t u) : Faulting s u where
  eq := calc u
    _ = withFaulted t u := k.eq
    _ = withFaulted (withFaulted s t) u := congrArg (withFaulted · u) h.eq
  spared := h.spared.trans k.spared

theorem foldl {α : Type} {f : State → α → State} (hf : ∀ s x, Faulting s (f s x)) (xs : List α) (s : State) :
    Faulting s (xs.foldl f s) := List.foldlRecOn xs f (refl s) fun _ h x _ => h.trans (hf _ x)

theorem foldl_fst {α β : Type} {f : State × β → α → State × β} (hf : ∀ x a, Faulting x.1 (f x a).1) (xs : List α)
    (x : State × β) : Faulting x.1 (xs.foldl f x).1 :=
  List.foldlRecOn (motive := fun y => Faulting x.1 y.1) xs f (refl x.1) fun _ h a _ => h.trans (hf _ a)

theorem ite (c : Prop) [Decidable c] (h : Faulting s t) (k : Faulting s u) : Faulting s (if c then t else u) := by
  split
  · exact h
  · exact k

/-- An update of neither polders nor functions. -/
theorem same (heq : t = withFaulted s t) (hp : t.polders = s.polders) (hf : t.funcs = s.funcs) : Faulting s t :=
  ⟨heq, .same hp fun f => by rw [show func t f = func s f from congrArg (Vector.get · f) hf]; rfl⟩

end Faulting

theorem Taking.faulting (h : Taking s t) : Faulting s t := ⟨h.eq.trans (by rw [h.eq]; rfl), h.spared⟩

theorem Mending.faulting (h : Mending s t) : Faulting s t := ⟨h.eq.trans (by rw [h.eq]; rfl), .same h.polders h.mailbox⟩

theorem beginRepair_faulting (s : State) (cls : Nat) (ps : List (Fin 4)) (i : FaultInfo) : Faulting s (beginRepair s cls ps i) :=
  .same rfl rfl rfl

theorem faultC2_faulting (s : State) (ps : List (Fin 4)) (i : FaultInfo) : Faulting s (faultC2 s ps i) := by
  refine .ite _ (.refl s) (.trans (beginRepair_faulting s 2 (ps.filter fun p => isRunning s p || faultedCloses s p) i) ?_)
  rw [foldl_takePolder_lastRepair]
  exact (foldl_takePolder_taking ..).faulting

theorem retirePage_faulting (s : State) (d : Fin 4) (l g : Nat) : Faulting s (retirePage s d l g) := by
  unfold retirePage
  split
  · exact .refl s
  · split
    · exact (pageDue_mending ..).faulting.trans (faultC2_faulting ..)
    · next t ht =>
      have hmet := ((remapPage_mending ht).trans (pageMet_mending t d (l * 2 ^ 21 + g))).faulting
      exact .ite _ (hmet.trans (faultC2_faulting ..)) hmet

theorem retireAt_faulting (s : State) (p : Fin 4) (a : Nat) : Faulting s (retireAt s p a) := by
  unfold retireAt
  split
  · exact .refl s
  · exact retirePage_faulting ..

theorem poisonBlock_faulting (s : State) (a : Nat) : Faulting s (poisonBlock s a) := .same rfl rfl rfl

end Sys2Proof.Machine
end

section
/-! SUPPORT. The Keeper's heartbeat, its scans, margin tests and scrubs (R225, R336, R347, R352, R355), with the statement on them. -/

namespace Sys2Proof.Machine

variable {s t u : State} {p : Fin 4} {d : Fin 4}

/-! ## Class C3 faults (R337) -/

/-- A class C3 fault that joins no repair: one begins, those in progress end in it, and every open polder is taken. -/
theorem faultC3_of_no_base (h : c3Base s = none) (i : FaultInfo) :
    faultC3 s i = (c3Polders s).foldl (takePolder 3 (nextRepair s)) (mergeRepairs (beginRepair s 3 (c3Polders s) i) (nextRepair s)) := by
  unfold faultC3
  rw [h]
  exact foldl_takePolder_lastRepair ..

theorem faultC3_taking (h : c3Base s = none) (i : FaultInfo) :
    Taking (mergeRepairs (beginRepair s 3 (c3Polders s) i) (nextRepair s)) (faultC3 s i) :=
  faultC3_of_no_base h i ▸ foldl_takePolder_taking ..

theorem repairs_faultC3 (h : c3Base s = none) (i : FaultInfo) : (faultC3 s i).repairs = s.repairs + 1 := by
  rw [(faultC3_taking h i).eq]
  rfl

theorem faultC3_faulting (s : State) (i : FaultInfo) : Faulting s (faultC3 s i) := by
  cases h : c3Base s with
  | none =>
    have hbegun : Faulting s (mergeRepairs (beginRepair s 3 (c3Polders s) i) (nextRepair s)) := .same rfl rfl rfl
    exact hbegun.trans (faultC3_taking h i).faulting
  | some r =>
    unfold faultC3
    rw [h]
    refine .trans ?_ (foldl_takePolder_taking 3 r.id ((c3Polders s).filter fun p => !c3Held s r p) _).faulting
    exact .same rfl rfl rfl

/-! ## Class C4 faults (R368) -/

/-- A class C4 fault stops the module; the cores, the repairs and the host's memory stay as they were. -/
structure Stopped (s t : State) : Prop where
  boot : t.boot = .offline
  alert : t.alert.getLsbD 2 = true
  hostMem : t.hostMem = s.hostMem
  inflight : ∀ p, (polder t p).inflight = []
  ports : ∀ j, (port t j).st = .down
  cores : t.dispatchCores = s.dispatchCores ∧ t.mgmtCores = s.mgmtCores ∧ t.coresLost = s.coresLost

theorem faultC4_stopped (s : State) (i : FaultInfo) : Stopped s (faultC4 s i) := by
  obtain ⟨_, _, h⟩ := lastTokens_sent s
  unfold faultC4
  rw [h]
  refine ⟨rfl, ?_, rfl, fun p => ?_, fun j => ?_, rfl, rfl, rfl⟩
  · simp [raiseAlert]
  · simp only [polder, Vector.get_eq_getElem, Vector.getElem_map]
    rfl
  · simp only [port, Vector.get_eq_getElem, Vector.getElem_map]
    rfl

/-! ## The heartbeat (R336, R347) -/

/-- The module's state with core i among the lost. -/
def withLost (s : State) (i : Nat) : State := { s with coresLost := s.coresLost ++ [i] }

/-- The module's state once no core serves role k: one core less of its kind. -/
def withoutRole (s : State) (i k : Nat) : State :=
  if k < 4 then { withLost s i with dispatchCores := s.dispatchCores - 1 } else { withLost s i with mgmtCores := s.mgmtCores - 1 }

/-- The loss of core i is known, or a remap has replaced it: it is not in use. -/
def LossKnown (s : State) (i : Nat) : Prop := i ∈ s.coresLost ∨ (i ≠ 5 ∧ (replOf s 0xC 0 i).isSome = true)

theorem loseCore_of_known {i : Nat} (h : LossKnown s i) : loseCore s i = s :=
  if_pos (by simpa [LossKnown] using h)

theorem loseCore_of_spare {i : Nat} (h : ¬ LossKnown s i) (hrole : roleLost s i = none) :
    loseCore s i = faultC3 (raiseCrossed s (withLost s i) [⟨0xC, 4, 0⟩]) (faultInfo 0x0B 0xC 4 i) := by
  refine (if_neg (by simpa [LossKnown] using h)).trans ?_
  dsimp only
  rw [hrole]
  rfl

theorem loseCore_of_role {i k : Nat} (h : ¬ LossKnown s i) (hrole : roleLost s i = some k) :
    loseCore s i = if (withoutRole s i k).dispatchCores = 0 ∨ (withoutRole s i k).mgmtCores = 0
      then faultC4 (withoutRole s i k) (faultInfo 0x0B 0xC 4 i) else faultC3 (withoutRole s i k) (faultInfo 0x0B 0xC 4 i) := by
  refine (if_neg (by simpa [LossKnown] using h)).trans ?_
  dsimp only
  rw [hrole]
  rfl

theorem doKeeperHeartbeat_running (h : (s.boot == .ready || s.boot == .training) = true) (beats : List Bool) :
    doKeeperHeartbeat beats s = ((List.range 6).filter fun i => !beats.getD i true).foldl loseCore s :=
  if_neg (by simp at h; tauto)

/-- One heartbeat is missing. -/
theorem missing_single {beats : List Bool} {i : Nat} (hi : i < 6) (hmissing : beats.getD i true = false)
    (hothers : ∀ k, k < 6 → k ≠ i → beats.getD k true = true) : ((List.range 6).filter fun k => !beats.getD k true) = [i] := by
  have hfilter : ((List.range 6).filter fun k => !beats.getD k true) = (List.range 6).filter (· == i) := by
    refine List.filter_congr fun k hk => ?_
    by_cases h : k = i
    · rw [h, hmissing]; simp
    · rw [hothers k (List.mem_range.1 hk) h]; simp [h]
  rw [hfilter]
  interval_cases i <;> rfl

theorem missing_none {beats : List Bool} (h : ∀ i, i < 6 → beats.getD i true = true) :
    ((List.range 6).filter fun k => !beats.getD k true) = [] :=
  List.filter_eq_nil_iff.2 fun k hk => by simpa using h k (List.mem_range.1 hk)

theorem loseCore_role {i k : Nat} (h : ¬ LossKnown s i) (hrole : roleLost s i = some k) :
    (loseCore s i).coresLost = s.coresLost ++ [i] ∧
    (loseCore s i).dispatchCores = (if k < 4 then s.dispatchCores - 1 else s.dispatchCores) ∧
    (loseCore s i).mgmtCores = (if k < 4 then s.mgmtCores else s.mgmtCores - 1) ∧
    ((loseCore s i).dispatchCores = 0 ∨ (loseCore s i).mgmtCores = 0 → (loseCore s i).boot = .offline) ∧
    (0 < (loseCore s i).dispatchCores → 0 < (loseCore s i).mgmtCores → c3Base s = none →
      (loseCore s i).boot = s.boot ∧ (loseCore s i).repairs = s.repairs + 1) := by
  have hlost : (withoutRole s i k).coresLost = s.coresLost ++ [i] := by unfold withoutRole; split <;> rfl
  have hdispatch : (withoutRole s i k).dispatchCores = if k < 4 then s.dispatchCores - 1 else s.dispatchCores := by
    unfold withoutRole; split <;> rfl
  have hmgmt : (withoutRole s i k).mgmtCores = if k < 4 then s.mgmtCores else s.mgmtCores - 1 := by
    unfold withoutRole; split <;> rfl
  have hboot : (withoutRole s i k).boot = s.boot := by unfold withoutRole; split <;> rfl
  have hrepairs : (withoutRole s i k).repairs = s.repairs := by unfold withoutRole; split <;> rfl
  have hbase : c3Base (withoutRole s i k) = c3Base s := by unfold withoutRole; split <;> rfl
  rw [loseCore_of_role h hrole, ← hlost, ← hdispatch, ← hmgmt, ← hboot, ← hrepairs, ← hbase]
  generalize withoutRole s i k = u
  split
  · next hgone =>
    obtain ⟨hstop, -, -, -, -, hd, hm, hl⟩ := faultC4_stopped u (faultInfo 0x0B 0xC 4 i)
    rw [hd, hm, hl, hstop]
    exact ⟨rfl, rfl, rfl, fun _ => rfl, fun hd hm => by omega⟩
  · next hleft =>
    have hfault := (faultC3_faulting u (faultInfo 0x0B 0xC 4 i)).eq
    refine ⟨by rw [hfault]; rfl, by rw [hfault]; rfl, by rw [hfault]; rfl, fun hgone => absurd ?_ hleft,
      fun _ _ hnone => ⟨by rw [hfault]; rfl, repairs_faultC3 hnone _⟩⟩
    rw [hfault] at hgone
    exact hgone

/-! ## Margin tests (R349, R352) -/

theorem marginDies_retireUnit (s : State) (d : Fin 4) (v : DWord) : (retireUnit s d v).marginDies = s.marginDies := by
  have hretire : Faulting s (retireUnit s d v) :=
    .ite _ (.ite _ (.refl s) (retirePage_faulting ..)) (makeRemap_mending ..).faulting
  rw [hretire.eq]
  rfl

theorem marginDies_promote (s : State) (v : DWord) : (promote s v).marginDies = s.marginDies := by
  unfold promote
  split
  · rfl
  · split <;> rfl

theorem marginDies_nominalEmpty (s : State) (v : DWord) : (nominalEmpty d s v).marginDies = s.marginDies := by
  unfold nominalEmpty
  split
  · split
    · rw [(makeRemap_mending ..).eq]; rfl
    · rfl
  · split <;> rfl

theorem marginDies_nominalUnit (s : State) (v : DWord) : (nominalUnit d s v).marginDies = s.marginDies := by
  unfold nominalUnit
  split_ifs
  · exact marginDies_promote ..
  · rfl
  · exact marginDies_retireUnit ..
  · exact marginDies_nominalEmpty ..

theorem marginDies_stressUnit (s : State) (v : DWord) : (stressUnit d s v).marginDies = s.marginDies := by
  unfold stressUnit
  split_ifs
  · rfl
  · exact marginDies_retireUnit ..
  · rfl

/-- The state in which a finished margin test acts: the C-die is tested no longer. -/
def untested (s : State) (d : Fin 4) : State := { s with marginDies := s.marginDies.set d false }

theorem doMarginTestDone_running (hboot : s.boot = .ready) (hd : s.marginDies.get d = true) (mt : MarginResult) :
    doMarginTestDone d mt s = mt.stress.foldl (stressUnit d) (mt.nominal.foldl (nominalUnit d) (untested s d)) :=
  if_neg (by simp [hboot, hd])

theorem marginDies_doMarginTestDone (hboot : s.boot = .ready) (hd : s.marginDies.get d = true) (mt : MarginResult) :
    (doMarginTestDone d mt s).marginDies = s.marginDies.set d false := by
  rw [doMarginTestDone_running hboot hd]
  have hnominal : (mt.nominal.foldl (nominalUnit d) (untested s d)).marginDies = s.marginDies.set d false :=
    List.foldlRecOn (motive := fun t => t.marginDies = s.marginDies.set d false) _ _ rfl fun t ht v _ =>
      (marginDies_nominalUnit t v).trans ht
  exact List.foldlRecOn (motive := fun t => t.marginDies = s.marginDies.set d false) _ _ hnominal fun t ht v _ =>
    (marginDies_stressUnit t v).trans ht

theorem promote_eq {v : DWord} {b : Nat} (hbank : fuseBank v = some b) (hroom : fusesUsed s b < 64) (hnew : v ∉ fuseRemaps s) :
    promote s v = { s with fuses := { s.fuses with remaps := s.fuses.remaps ++ [(b, heldComp v)] } } := by
  unfold promote
  rw [hbank]
  exact if_pos (by simp [hroom, hnew])

theorem replOf_of_no_remap {v : DWord} (h : (remapsInForce s).any (sameUnit v) = false) :
    replOf s (rmKind v) (rmDie v) (rmUnit v) = none := by
  have hnone : ((remapsInForce s).filter fun w => rmKind w = rmKind v ∧ rmDie w = rmDie v ∧ rmUnit w = rmUnit v) = [] := by
    refine List.filter_eq_nil_iff.2 fun w hw => ?_
    have := List.any_eq_false.1 h w hw
    simp [sameUnit] at this ⊢
    tauto
  rw [replOf, hnone]
  rfl

/-- The C-dies of a mask under test. -/
theorem foldl_startMargin (ds : List (Fin 4)) (s : State) :
    ds.foldl startMargin s = { s with marginDies := Vector.ofFn fun d => ds.contains d || s.marginDies.get d } := by
  induction ds generalizing s with
  | nil =>
    have h : (Vector.ofFn fun d => s.marginDies.get d) = s.marginDies := by ext i hi; simp [Vector.get_eq_getElem]
    simp [h]
  | cons d ds ih =>
    rw [List.foldl_cons, ih]
    have h : (Vector.ofFn fun e => ds.contains e || (startMargin s d).marginDies.get e) =
        Vector.ofFn fun e => (d :: ds).contains e || s.marginDies.get e := by
      refine congrArg Vector.ofFn (funext fun e => ?_)
      rw [startMargin, get_vmod, List.contains_cons]
      by_cases he : e = d
      · simp [he]
      · simp [he, beq_false_of_ne he]
    rw [h]
    rfl

/-! ## Scrubs (R224, R225) -/

/-- No command in flight has its result: a fault posts none (R338). -/
def Unposted (s : State) : Prop := ∀ p, ∀ y ∈ (polder s p).inflight, y.res = none

theorem postFinal_of_unposted (h : Unposted s) (p : Fin 4) : postFinal s p = s := by
  unfold postFinal
  split
  next c hc =>
    have hres : c.res = none := h p c (by simp [hc])
    split
    · next hst => rw [hres] at hst; cases hst
    · next hst => rw [hres] at hst; cases hst
    · rfl
  next => rfl

theorem Undefines.ite (c : Prop) [Decidable c] (h : Undefines s t) (k : Undefines s u) : Undefines s (if c then t else u) := by
  split
  · exact h
  · exact k

theorem spoilCopies_undefines (s : State) (p : Fin 4) (q : Fin 16) (n : Word) (r : UpdRun) : Undefines s (spoilCopies s p q n r) := by
  have hslices (xs keep : List (Nat × Nat)) : Undefines s (xs.foldl (fun s x => spoil s x.1 x.2) (spoilSlices s p keep)) :=
    (spoilSlices_undefines ..).trans (.foldl (fun _ _ => spoil_undefines ..) xs _)
  refine .ite _ (.refl s) (.ite _ ?_ (.ite _ (hslices ..) (.refl s)))
  refine (Undefines.ite _ (hslices ..) (.refl s)).trans (.trans (.foldl (fun _ _ => ?_) _ _) (.foldl (fun s _ => ?_) _ _))
  · exact .ite _ (staleAround_undefines ..) (.refl _)
  · exact .foldl (fun _ _ => staleBuffer_undefines ..) _ s

/-- What the program of a command could have written becomes undefined, whatever its kind. -/
theorem undefines_spoilPrograms (s : State) (p : Fin 4) (c : Cmd) : Undefines s (spoilPrograms s p c) := by
  cases hbody : c.body with
  | vk r => exact spoilPrograms_undefines s p hbody
  | update r =>
    simp only [spoilPrograms, hbody]
    exact spoilCopies_undefines ..
  | _ =>
    simp only [spoilPrograms, hbody]
    exact .refl s

theorem poison_abandonAll (s : State) (p : Fin 4) : (abandonAll s p).poison = s.poison := by
  have hone (t : State) (c : Cmd) :
      (requestDiscarded (spoilAreas (releaseUnits (spoilPrograms t p c) p c.q c.e.seq) c.areas) p c).poison = t.poison :=
    (spoilAreas_undefines ..).poison.trans (undefines_spoilPrograms t p c).poison
  exact List.foldlRecOn (motive := fun t => t.poison = s.poison) (polder s p).inflight _ rfl fun t ht c _ => (hone t c).trans ht

theorem beginDiscard_poison (h : Unposted s) (cls id : Nat) (p : Fin 4) : (beginDiscard s cls id p).poison = s.poison := by
  rw [beginDiscard, postFinal_of_unposted h]
  exact poison_abandonAll s p

theorem takePolder_poison (h : Unposted s) (cls id : Nat) (p : Fin 4) : (takePolder cls id s p).poison = s.poison := by
  unfold takePolder
  split
  · rfl
  · rfl
  · rfl
  · split <;> rfl
  · split
    · rfl
    · exact beginDiscard_poison h ..

/-- What is in flight on a polder that is taken was in flight before. -/
theorem unposted_takePolder (h : Unposted s) (cls id : Nat) (p : Fin 4) : Unposted (takePolder cls id s p) := by
  intro x
  by_cases hx : x = p
  · subst hx
    unfold takePolder
    split
    · exact h x
    · exact h x
    · exact h x
    · split
      · rw [polder_modPolder_self]; exact h x
      · exact h x
    · split
      · rw [polder_modPolder_self]; exact h x
      · rw [(discarding_beginDiscard s cls id x).2]
        intro y hy
        cases hy
  · rw [polder_takePolder_ne _ _ _ hx]
    exact h x

theorem faultC2_poison (h : Unposted s) (ps : List (Fin 4)) (i : FaultInfo) : (faultC2 s ps i).poison = s.poison := by
  unfold faultC2
  dsimp only
  split
  · rfl
  · rw [foldl_takePolder_lastRepair]
    refine And.right (List.foldlRecOn (motive := fun t => Unposted t ∧ t.poison = s.poison) _ _ ⟨h, rfl⟩ fun t ht p _ => ?_)
    exact ⟨unposted_takePolder ht.1 _ _ _, (takePolder_poison ht.1 ..).trans ht.2⟩

theorem Mending.unposted (h : Mending s t) (hs : Unposted s) : Unposted t := fun x => by
  rw [h.polder]
  exact hs x

theorem Mending.poison (h : Mending s t) : t.poison = s.poison := by
  rw [h.eq]
  rfl

theorem retirePage_poison (h : Unposted s) (l g : Nat) : (retirePage s d l g).poison = s.poison := by
  unfold retirePage
  split
  · rfl
  · split
    · exact faultC2_poison (s := pageDue ..) h ..
    · next t ht =>
      have hmet := (remapPage_mending ht).trans (pageMet_mending t d (l * 2 ^ 21 + g))
      dsimp only
      split
      · exact (faultC2_poison (hmet.unposted h) ..).trans hmet.poison
      · exact hmet.poison

theorem isBad_poisonBlock (s : State) (a : Nat) : isBad (poisonBlock s a) a = true := by
  rw [isBad, poisonBlock, tabGet_tabSet]
  exact if_pos rfl

/-- A block met by an uncorrectable error is poisoned, where no command that has ended waits to be posted. -/
theorem isBad_uncorrectable (h : Unposted s) (a : Nat) : isBad (uncorrectable s a) a = true := by
  unfold uncorrectable
  split
  · assumption
  · dsimp only
    rw [← isBad_poisonBlock s a, isBad, isBad]
    split
    · split
      · unfold retireAt
        split
        · rfl
        · rw [retirePage_poison (s := poisonBlock ..) h]
      · rfl
    · rfl

theorem pageErrs_faulting (s : State) (xs : Tab (List DWord)) : Faulting s { s with pageErrs := xs } := .same rfl rfl rfl

theorem correctedError_corrected {a : Nat} (h : ¬ a < 2 ^ 40) : (correctedError s a).corrected = vmod s.corrected 1 (· + 1) := by
  have hfault : Faulting (bumpCorrected s 1) (correctedError s a) := by
    unfold correctedError
    rw [if_neg h]
    dsimp only
    split
    · exact .refl _
    · split
      · exact .refl _
      · split
        · exact (pageErrs_faulting ..).trans (retirePage_faulting ..)
        · exact pageErrs_faulting ..
  rw [hfault.eq]
  rfl

/-! ## The statement -/

/-- The module runs: it is ready, or it trains. -/
def ModuleRuns (s : State) : Prop := s.boot = .ready ∨ s.boot = .training

theorem running_iff : (s.boot == .ready || s.boot == .training) = true ↔ ModuleRuns s := by simp [ModuleRuns]

theorem not_running_iff : (s.boot == .ready || s.boot == .training) = false ↔ s.boot ≠ .ready ∧ s.boot ≠ .training := by simp

theorem ModuleRuns.not_stopped (h : ModuleRuns s) : ¬ (s.boot ≠ .ready ∧ s.boot ≠ .training) := fun hstop => h.elim hstop.1 hstop.2

theorem doKeeperHeartbeat_all {beats : List Bool} (h : ∀ i, i < 6 → beats.getD i true = true) : doKeeperHeartbeat beats s = s := by
  unfold doKeeperHeartbeat
  rw [missing_none h]
  exact ite_self s

theorem doKeeperHeartbeat_single {beats : List Bool} {i : Nat} (hrun : ModuleRuns s) (hi : i < 6) (hmissing : beats.getD i true = false)
    (hothers : ∀ k, k < 6 → k ≠ i → beats.getD k true = true) : doKeeperHeartbeat beats s = loseCore s i := by
  refine (if_neg hrun.not_stopped).trans ?_
  rw [missing_single hi hmissing hothers]
  rfl

theorem roleLost_spare {i : Nat} (h5 : i ≠ 5) (hrole : spareRole s = none) (hspare : 5 ∉ s.coresLost) : roleLost s i = none := by
  simp [roleLost, h5, hrole, hspare]

theorem find_disagree_none {α : Type} {xs : List α} {w : Nat} {f : α → Comp w} (h : ∀ c ∈ xs, compAgrees (f c) = true) :
    (xs.find? fun c => !compAgrees (f c)) = none := List.find?_eq_none.2 fun c hc => by simp [h c hc]

/-- The C-dies of a mask. -/
def maskDies (n : Nat) : List (Fin 4) := dies4.filter fun d => (BitVec.ofNat 8 n).getLsbD d.val

theorem mem_maskDies {n : Nat} : d ∈ maskDies n ↔ (BitVec.ofNat 8 n).getLsbD d.val = true := by
  rw [maskDies, List.mem_filter]
  exact and_iff_right (mem_dies d)

/-- What the start of margin tests answers (R353). -/
def marginAnswer (s : State) (n : Nat) : Answer :=
  if 16 ≤ n then refuse s .descInvalid
  else if (maskDies n).any fun d => !dieIdle s d then refuse s .accessDenied
  else accept ((maskDies n).foldl startMargin s)

theorem doSpareReportMarginTest_answered {bs b : List Byte} {st : Status} (h : Asks s 0 6 16 bs b) (hop : fld b 0 1 = 2)
    (hzero : spareRsvd b = true) (hact : marginAnswer s (fld b 2 1) = (u, st, [])) :
    Answered u (doSpareReportMarginTest s) 0 bs st [] := by
  unfold doSpareReportMarginTest serveSpare
  exact serve_answered h (opIs_of_fld hop) ((if_pos hzero).trans hact)

theorem marginAnswer_busy {n : Nat} (hn : n < 16) (h : ∃ d, (BitVec.ofNat 8 n).getLsbD d.val = true ∧ dieIdle s d = false) :
    marginAnswer s n = refuse s .accessDenied := by
  obtain ⟨d, hd, hbusy⟩ := h
  exact (if_neg (Nat.not_le.2 hn)).trans (if_pos (List.any_eq_true.2 ⟨d, mem_maskDies.2 hd, by simp [hbusy]⟩))

theorem marginAnswer_idle {n : Nat} (hn : n < 16) (h : ∀ d : Fin 4, (BitVec.ofNat 8 n).getLsbD d.val = true → dieIdle s d = true) :
    marginAnswer s n = accept { s with
      marginDies := Vector.ofFn fun d => (BitVec.ofNat 8 n).getLsbD d.val || s.marginDies.get d } := by
  have hidle : ((maskDies n).any fun d => !dieIdle s d) = false :=
    List.any_eq_false.2 fun d hd => by simp [h d (mem_maskDies.1 hd)]
  have hmask (d : Fin 4) : (maskDies n).contains d = (BitVec.ofNat 8 n).getLsbD d.val := by
    rw [Bool.eq_iff_iff, List.contains_iff_mem]
    exact mem_maskDies
  rw [marginAnswer, if_neg (Nat.not_le.2 hn), hidle, if_neg Bool.false_ne_true, foldl_startMargin]
  simp only [hmask]

/-- A scrub that finds symbols bad in a D-tier block that is good yet. -/
theorem doScrub_finds {a syms : Nat} (h₁ : 2 ^ 40 ≤ a) (h₂ : a < 5 * 2 ^ 40) (hgood : isBad s a = false) (hsyms : syms ≠ 0) :
    doScrub a syms s = if syms = 1 then correctedError s a else uncorrectable s a :=
  if_neg (by rw [hgood]; simp; omega)

/-- Settles O57: the heartbeat, the scans and the margin tests raise the faults that their rules name; a scrub's fault posts no
command, and so leaves the block poisoned. -/
theorem keeperScansAndTestsWhatItServes : Obligations.KeeperScansAndTestsWhatItServes := by
  unfold Obligations.KeeperScansAndTestsWhatItServes
  intro s d mt beats a syms bs b
  refine ⟨fun h => congrArg Host.Outcome.next ?_, fun i hrun hi hmissing hothers => ?_, fun h => congrArg Host.Outcome.next ?_,
    fun c hrun hc => congrArg Host.Outcome.next ?_, fun h => congrArg Host.Outcome.next ?_, fun y hrun hy => congrArg Host.Outcome.next ?_,
    rfl, fun h => congrArg Host.Outcome.next (if_pos (by simpa using h)), fun hboot hd => ?_, fun h hop hzero => ?_,
    fun h => congrArg Host.Outcome.next (if_pos h), fun h₁ h₂ hgood => ?_⟩
  · obtain hstop | hall := h
    · exact if_pos (not_running_iff.1 hstop)
    · exact doKeeperHeartbeat_all hall
  · have hbeat := doKeeperHeartbeat_single (running_iff.1 hrun) hi hmissing hothers
    refine ⟨fun hknown => congrArg Host.Outcome.next (hbeat.trans (loseCore_of_known hknown)), fun hnew h5 hrole hspare => ?_,
      fun k hnew hrole => ⟨_, congrArg Host.Outcome.next hbeat, loseCore_role hnew hrole⟩⟩
    exact congrArg Host.Outcome.next (hbeat.trans (loseCore_of_spare hnew (roleLost_spare h5 hrole hspare)))
  · unfold doSpareMapScan
    obtain hstop | hall := h
    · exact if_pos (not_running_iff.1 hstop)
    · rw [find_disagree_none hall]
      exact ite_self s
  · refine (if_neg (running_iff.1 hrun).not_stopped).trans ?_
    rw [hc]
  · unfold doTrimScan
    obtain hstop | hall := h
    · exact if_pos (not_running_iff.1 hstop)
    · rw [find_disagree_none hall]
      exact ite_self s
  · refine (if_neg (running_iff.1 hrun).not_stopped).trans ?_
    rw [hy]
  · refine ⟨_, rfl, marginDies_doMarginTestDone hboot hd mt, fun hnominal hstress => ?_,
      fun v bank hnominal hstress h6 hlast hbank hroom hnew => ?_, fun v hnominal hstress hfree hpool => ?_⟩ <;>
      rw [doMarginTestDone_running hboot hd, hnominal, hstress]
    · rfl
    · have hpromote : nominalUnit d (untested s d) v = promote (untested s d) v := if_pos ⟨h6, hlast⟩
      rw [List.foldl_nil, List.foldl_cons, List.foldl_nil, hpromote, promote_eq (s := untested s d) hbank hroom hnew]
      exact ⟨rfl, rfl⟩
    · have hnone : replOf (untested s d) (rmKind v) (rmDie v) (rmUnit v) = none := replOf_of_no_remap hfree
      have hlow : ¬ 2 ≤ poolRemaining (untested s d) (poolOf (untested s d) v) := Nat.not_le.2 hpool
      rw [List.foldl_nil, List.foldl_cons, List.foldl_nil, stressUnit, if_neg (by simp [hnone]), if_neg hlow]
      rfl
  · exact ⟨fun hmask => ⟨_, rfl, doSpareReportMarginTest_answered h hop hzero (if_pos hmask)⟩,
      fun hmask hbusy => ⟨_, rfl, doSpareReportMarginTest_answered h hop hzero (marginAnswer_busy hmask hbusy)⟩,
      fun hmask hidle => ⟨_, rfl, doSpareReportMarginTest_answered h hop hzero (marginAnswer_idle hmask hidle)⟩⟩
  · have hone : doScrub a 1 s = correctedError s a := doScrub_finds h₁ h₂ hgood (by decide)
    have hmore (hsyms : 2 ≤ syms) : doScrub a syms s = uncorrectable s a :=
      (doScrub_finds h₁ h₂ hgood (by omega)).trans (if_neg (by omega))
    exact ⟨fun _ => ⟨_, congrArg Host.Outcome.next hone, correctedError_corrected (Nat.not_lt.2 h₁)⟩,
      fun hsyms => congrArg Host.Outcome.next (hmore hsyms),
      fun hsyms hres => ⟨_, congrArg Host.Outcome.next (hmore hsyms), isBad_uncorrectable hres a⟩⟩

end Sys2Proof.Machine
end

section
/-! SUPPORT. Detections by their class (R224, R310, R335-R338): the faults that take polders, the command that meets an error. -/

namespace Sys2Proof.Machine

variable {s t u : State} {p : Fin 4} {q : Fin 16} {n : Word} {c : Cmd} {st : Status} {r : FaultReport}

/-! ## A command that meets an error (R129, R155, R455) -/

/-- The command's work has ended with the status. -/
def EndedWith (s : State) (p : Fin 4) (q : Fin 16) (n : Word) (st : Status) : Prop :=
  (cmdAt s p q n).map (·.res) = some (some st)

theorem EndedWith.of_inflight (h : EndedWith s p q n st) (hkept : (polder t p).inflight = (polder s p).inflight) :
    EndedWith t p q n st := by
  rw [EndedWith, cmdAt_of_inflight hkept]
  exact h

/-- An update of the command that leaves its result. -/
theorem EndedWith.modCmd (h : EndedWith s p q n st) {f : Cmd → Cmd} (hf : ∀ c, ((f c).q, (f c).e) = (c.q, c.e) := by exact fun _ => rfl)
    (hres : ∀ c, (f c).res = c.res := by exact fun _ => rfl) : EndedWith (modCmd s p q n f) p q n st := by
  rw [EndedWith, cmdAt_modCmd s p q n hf, Option.map_map, ← h]
  exact Option.map_congr fun c _ => hres c

theorem failCmd_ends (hcmd : cmdAt s p q n = some c) (st : Status) : EndedWith (failCmd s p q n st) p q n st := by
  have hpolders : (spoilAreas (releaseUnits (spoilPrograms s p c) p q n) c.areas).polders = s.polders :=
    (spoilAreas_undefines ..).polders.trans (undefines_spoilPrograms s p c).polders
  unfold failCmd
  rw [hcmd]
  dsimp only
  generalize spoilAreas (releaseUnits (spoilPrograms s p c) p q n) c.areas = u at hpolders
  refine EndedWith.modCmd (res_endCmd st ?_)
  have hinflight : (polder (modPolder u p fun P => { P with claims := P.claims.filter fun t => !c.claims.contains t }) p).inflight =
      (polder s p).inflight := by rw [polder_modPolder_self, polder, hpolders]; rfl
  rw [cmdAt_of_inflight hinflight, hcmd]
  rfl

theorem failUpdate_ends (hcmd : cmdAt s p q n = some c) (st : Status) (u : UpdRun) (step : Word) :
    EndedWith (failUpdate s p q n st u step) p q n st :=
  (failCmd_ends hcmd st).of_inflight (writeUpdReport_beside (.refl p _)).inflight

theorem failCopy_ends (hcmd : cmdAt s p q n = some c) (u : UpdRun) (step : Word) (cause : Nat) (rep : List Byte) :
    EndedWith (failCopy s p q n u step cause rep) p q n (causeStatus cause) :=
  (failUpdate_ends hcmd (causeStatus cause) u step).modCmd.of_inflight (putReport_beside ..).inflight

theorem failVk_ends {v : VkRun} (hcmd : cmdAt s p q n = some c) (hbody : c.body = .vk v) (cause low : Nat) (rep : List Byte)
    (others : List (Fin 256)) : EndedWith (failVk s p q n v cause low rep others) p q n (causeStatus cause) := by
  obtain ⟨x, hx, hres, -⟩ := cmdAt_stopped (cause := cause) (low := low) (others := others) hcmd hbody
  rw [failVk_eq]
  refine EndedWith.of_inflight (s := stopped s p q n v cause low others) ?_ (putReport_beside ..).inflight
  rw [EndedWith, hx, Option.map_some, hres]

theorem trapCause_of_alone {k : Fin 256} (h : strandsOthers s p q n k = false) (cause : Nat) (lanes : DWord) (addr : Nat) :
    trapCause s p q n k cause lanes addr = (cause, lanes, addr) := if_neg (by simp [h])

theorem veTrap_ended {k : Fin 256} (hcmd : cmdAt s p q n = some c) (hbody : (∃ v, c.body = .vk v) ∨ ∃ v, c.body = .update v)
    (halone : strandsOthers s p q n k = false) (cause pc : Nat) (w lanes : DWord) (addr : Nat) :
    EndedWith (veTrap s p q n k cause pc w lanes addr) p q n (causeStatus cause) := by
  obtain ⟨v, hv⟩ | ⟨v, hv⟩ := hbody
  · simp only [veTrap, hcmd, hv, trapCause_of_alone halone]
    exact failVk_ends hcmd hv ..
  · simp only [veTrap, hcmd, hv, trapCause_of_alone halone]
    exact failCopy_ends hcmd ..

/-- A command that meets an uncorrectable error ends with ECC_UNCORRECTED, unless the exception strands others at a barrier. -/
theorem failEcc_ends (hcmd : cmdAt s p c.q c.e.seq = some c)
    (halone : ∀ k, metBy s p c r = some k → strandsOthers s p c.q c.e.seq k = false) :
    EndedWith (failEcc s p c r) p c.q c.e.seq .eccUncorrected := by
  unfold failEcc
  split
  · next k hbody hk => exact veTrap_ended hcmd (.inr ⟨_, hbody⟩) (halone k hk) ..
  · next k hbody hk => exact veTrap_ended hcmd (.inl ⟨_, hbody⟩) (halone k hk) ..
  · exact failUpdate_ends hcmd ..
  · next hbody _ => exact failVk_ends hcmd hbody ..
  · exact failCmd_ends hcmd _

theorem failEcc_traps {k : Fin 256} (hk : metBy s p c r = some k) (hbody : (∃ v, c.body = .vk v) ∨ ∃ v, c.body = .update v) :
    failEcc s p c r = veTrap s p c.q c.e.seq k 0x0A (pcOf s k) (wordAt (ve s k)) (metLanes (ve s k) r).1 (metLanes (ve s k) r).2 := by
  obtain ⟨v, hv⟩ | ⟨v, hv⟩ := hbody <;> simp only [failEcc, hv, hk]

theorem commandFault_live (hp : reportPolder s r = some p) (hc : liveCmd s p r.queue r.seq = some c) :
    commandFault s r = failEcc s p c r := by simp only [commandFault, hp, hc]

theorem commandFault_none (hp : reportPolder s r = some p) (hc : liveCmd s p r.queue r.seq = none) : commandFault s r = s := by
  simp only [commandFault, hp, hc]

/-! ## Polders taken by a class C2 fault -/

/-- From s to t a class C2 fault took polder p alone into a new repair. -/
structure TakenAlone (p : Fin 4) (s t : State) : Prop where
  discarding : Discarding t p 2 (nextRepair s)
  lastRepair : t.lastRepair = nextRepair s
  repairs : t.repairs = s.repairs + 1
  others : ∀ x, x ≠ p → polder t x = polder s x

theorem faultC2_takenAlone (h : isRunning s p = true) (hclose : closeRuns s p = false) (i : FaultInfo) :
    TakenAlone p s (faultC2 s [p] i) := by
  have htaking := beginDiscard_taking (beginRepair s 2 [p] i) 2 (nextRepair s) p
  rw [faultC2_of_running h hclose]
  exact ⟨discarding_beginDiscard .., by rw [htaking.eq]; rfl, by rw [htaking.eq]; rfl, fun x hx => polder_beginDiscard_ne _ _ _ hx⟩

/-- The reports whose fault is class C2 of the polder concerned alone (R336). -/
def ConcernsAlone (s : State) (r : FaultReport) (p : Fin 4) : Prop :=
  (r.source ∈ [0x01, 0x02, 0x03, 0x0A] ∧ diePolders s r.die = [p]) ∨ (r.source = 0x07 ∧ r.users = [p]) ∨
    (r.source = 0x06 ∧ r.corrected = false ∧ r.command = false ∧ diePolders s r.die = [p]) ∨
    (r.source = 0x08 ∧ r.corrected = false ∧ linkUsers s (reportLink r) = [p])

/-- Such a report raises the fault, where a page's retirement may have to wait for the repair (R228). -/
theorem classFault_alone (h : ConcernsAlone s r p) : classFault s r = faultC2 s [p] (infoOf r) ∨
    ∃ d v, classFault s r = faultC2 (pageDue s d v) [p] (infoOf r) := by
  obtain ⟨hsource, hdies⟩ | ⟨hsource, husers⟩ | ⟨hsource, hbad, hown, hdies⟩ | ⟨hsource, hbad, husers⟩ := h
  · left
    simp only [List.mem_cons, List.not_mem_nil, or_false] at hsource
    obtain h | h | h | h := hsource <;> simp only [classFault, h, hdies]
  · left
    simp only [classFault, hsource, husers]
  · have heq : classFault s r = faultC2 (if r.source = 6 ∧ r.kind = 6 ∧ r.die < 4 then pageDue s (fin4 r.die) r.unit else s)
        [p] (infoOf r) := by simp [classFault, hsource, memoryFault, hbad, hown, hdies]
    rw [heq]
    split
    · exact .inr ⟨_, _, rfl⟩
    · exact .inl rfl
  · left
    simp only [classFault, hsource, hbad, husers]
    rfl

theorem classFault_takenAlone (h : ConcernsAlone s r p) (hrun : isRunning s p = true) (hclose : closeRuns s p = false) :
    TakenAlone p s (classFault s r) := by
  obtain h | ⟨d, v, h⟩ := classFault_alone h
  · rw [h]
    exact faultC2_takenAlone hrun hclose _
  · obtain ⟨hdiscarding, hlast, hrepairs, hothers⟩ := faultC2_takenAlone (s := pageDue s d v) hrun hclose (infoOf r)
    rw [h]
    exact ⟨hdiscarding, hlast, hrepairs, hothers⟩

/-- The polder with the item that a report names marked as failed (R355, R356). -/
def markItem (r : FaultReport) (P : Polder) : Polder :=
  { P with bad0 := P.bad0 ||| (1#8 <<< r.item), bad1 := if r.bothCopies then P.bad1 ||| (1#8 <<< r.item) else P.bad1 }

theorem closeRuns_modPolder {f : Polder → Polder} (h : (f (polder s p)).st = (polder s p).st) :
    closeRuns (modPolder s p f) p = closeRuns s p :=
  closeRuns_congr rfl rfl rfl rfl (by rw [polder_modPolder_self, h])

theorem itemFault_eq (hp : reportPolder s r = some p) : itemFault s r = faultC2 (modPolder s p (markItem r)) [p] (infoOf r) := by
  simp only [itemFault, hp]
  rfl

/-- A failed item is marked before its fault takes the polder. -/
theorem itemFault_takes (hp : reportPolder s r = some p) (hrun : isRunning s p = true) (hclose : closeRuns s p = false) :
    Discarding (itemFault s r) p 2 (nextRepair s) ∧ (polder (itemFault s r) p).bad0 = (markItem r (polder s p)).bad0 ∧
      (polder (itemFault s r) p).bad1 = (markItem r (polder s p)).bad1 := by
  have hpolder : polder (modPolder s p (markItem r)) p = markItem r (polder s p) := polder_modPolder_self ..
  have hspared := (faultC2_faulting (modPolder s p (markItem r)) [p] (infoOf r)).spared
  have hrun' : isRunning (modPolder s p (markItem r)) p = true := by rw [isRunning, hpolder]; exact hrun
  have htaken := faultC2_takenAlone hrun' ((closeRuns_modPolder rfl).trans hclose) (infoOf r)
  rw [itemFault_eq hp]
  exact ⟨htaken.discarding, by rw [hspared.bad0, hpolder], by rw [hspared.bad1, hpolder]⟩

/-- A class C3 fault that joins no repair takes every polder that runs. -/
theorem faultC3_takes (hbase : c3Base s = none) (i : FaultInfo) (hrun : isRunning s p = true) (hclose : closeRuns s p = false) :
    Discarding (faultC3 s i) p 3 (nextRepair s) := by
  have hopen : isOpen s p = true := by
    have hst : (polder s p).st = .opened := by simp [isRunning] at hrun; exact hrun.1
    simp [isOpen, hst]
  rw [faultC3_of_no_base hbase]
  refine discarding_foldl_takePolder (List.mem_filter.2 ⟨mem_dies p, by simp [hopen]⟩) (nodup_dies.filter _) ?_ ?_
  · exact hrun
  · exact hclose

theorem st_failPort (s : State) (j : Fin 6) : (port (failPort s j) j).st = .failed := by
  have hfault := (faultC2_faulting (modPort s j fun P => { idlePort P with st := .failed }) (port s j).owner.toList
    (faultInfo 0x09 0xA 4 (16 * j.val))).eq
  rw [failPort, hfault]
  exact congrArg Port.st (port_modPort_self ..)

/-! ## What is found while the module runs -/

theorem doFaultDetected_running (h : ModuleRuns s) (r : FaultReport) : doFaultDetected r s = classFault s r := by
  unfold doFaultDetected
  obtain h | h := h <;> rw [h]

theorem doFaultDetected_stopped (h : s.boot ≠ .ready ∧ s.boot ≠ .training) (hsource : s.boot ≠ .recovery ∨ r.source ≠ 0x0D) :
    doFaultDetected r s = s := by
  unfold doFaultDetected
  obtain ⟨hready, htraining⟩ := h
  split
  · next hboot => exact absurd hboot hready
  · next hboot => exact absurd hboot htraining
  · next hboot => exact if_neg (hsource.resolve_left (not_not.2 hboot))
  · rfl

theorem faultEarly_alert (s : State) (i : FaultInfo) : (faultEarly s i).alert.getLsbD 2 = true := by
  unfold faultEarly
  split
  · exact (faultC4_stopped ..).alert
  · exact (faultC4_stopped ..).alert
  · exact (faultC4_stopped ..).alert
  · exact (faultC4_stopped ..).alert

theorem memoryFault_met (own : Bool) (hbad : r.corrected = false) (hmet : r.command = true) (haddr : r.addr < 2 ^ 40)
    (hgood : isBad s r.addr = false) (hp : reportPolder s r = some p) (hc : liveCmd s p r.queue r.seq = none) :
    memoryFault s r own = poisonBlock s r.addr := by
  have hpoison : uncorrectable s r.addr = poisonBlock s r.addr := by
    simp only [uncorrectable, hgood]
    exact if_neg (Nat.not_le.2 haddr)
  simp only [memoryFault, hbad, hmet, hpoison]
  exact commandFault_none (s := poisonBlock s r.addr) hp hc

end Sys2Proof.Machine
end

section
/-! SUPPORT. The discard records of a polder (R310, R338): what each leaves on its queue and in its ring, and that the notes and tokens
that follow leave the queues alone. -/

namespace Sys2Proof.Machine

variable {s t u : State} {p x : Fin 4} {q : Fin 16} {cls id : Nat}

/-! ## Fault tokens (R263) -/

/-- From s to t tokens of polder p were sent: of the polders only its count of them has moved. -/
structure Flooding (p : Fin 4) (s t : State) : Prop where
  sent : Sent s t
  others : ∀ x, x ≠ p → polder t x = polder s x
  held : polder t p = { polder s p with ivs := (polder t p).ivs }

theorem Flooding.refl (p : Fin 4) (s : State) : Flooding p s s := ⟨.refl s, fun _ _ => rfl, rfl⟩

theorem Flooding.trans (h : Flooding p s t) (k : Flooding p t u) : Flooding p s u where
  sent := h.sent.trans k.sent
  others x hx := (k.others x hx).trans (h.others x hx)
  held := by rw [k.held, h.held]

theorem polders_putToken (s : State) (j : Fin 6) (t : Token) : (putToken s j t).polders = s.polders := by
  unfold putToken
  dsimp only
  split_ifs <;> rfl

theorem bumpIv_flooding (s : State) (p : Fin 4) (chan c : Nat) : Flooding p s (bumpIv s p chan c) where
  sent := bumpIv_sent ..
  others _ hx := polder_modPolder_ne _ _ hx
  held := by rw [bumpIv, polder_modPolder_self]

theorem putToken_flooding (s : State) (p : Fin 4) (j : Fin 6) (t : Token) : Flooding p s (putToken s j t) where
  sent := putToken_sent ..
  others x _ := congrArg (Vector.get · x) (polders_putToken s j t)
  held := by rw [polder, polders_putToken]; rfl

theorem sendToken_flooding (s : State) (p : Fin 4) (j : Fin 6) (typ : Nat) (hop : BitVec 5) (op : BitVec 3) (n : Word) (payload : DWord) :
    Flooding p s (sendToken s p j typ hop op n payload) := by
  unfold sendToken
  split
  · exact .refl p s
  · exact (putToken_flooding ..).trans (bumpIv_flooding ..)

theorem floodFault_flooding (s : State) (p : Fin 4) : Flooding p s (floodFault s p) :=
  .trans (List.foldlRecOn (motive := Flooding p s) _ _ (.refl p s) fun _ h _ _ => h.trans (sendToken_flooding ..)) (bumpIv_flooding ..)

/-! ## One discard record -/

/-- The queue once its record is posted, held from its fence on. -/
def heldQueue (Q : Queue) (n : Nat) : Queue :=
  { Q with posted := Q.posted + 1, st := .held, taken := Q.fence, waiting := none, unsignalled := n }

/-- The entry of a discard record. -/
def discardEntry (Q : Queue) (cls id : Nat) (t : DWord) : List Byte :=
  cqEntry Q.fence .discarded (2 + (phase Q.depth Q.posted).toNat) 0 0 0 (BitVec.ofNat 32 (cls + 256 * id)) t

/-- From s to t the discard record of queue q was posted. -/
structure Recorded (p : Fin 4) (q : Fin 16) (cls id : Nat) (s t : State) : Prop where
  queue : ∃ n, queue t p q = heldQueue (queue s p q) n
  hostMem : t.hostMem = tabSplice 0 s.hostMem (nextSlot (Machine.queue s p q)) (discardEntry (Machine.queue s p q) cls id (leveeTime s))
  others : ∀ y, y ≠ q → Machine.queue t p y = Machine.queue s p y

theorem queue_modQueue_ne {y : Fin 16} (s : State) (p : Fin 4) (f : Queue → Queue) (h : y ≠ q) :
    queue (modQueue s p q f) p y = queue s p y := by
  rw [queue_modQueue, if_neg fun e => h e.2]

theorem polders_raiseCause (s : State) (f : Fin 5) (bit : Nat) : (raiseCause s f bit).polders = s.polders := by
  rw [raiseCause_eq]
  rfl

theorem queue_raiseCause (s : State) (f : Fin 5) (bit : Nat) (p : Fin 4) (q : Fin 16) : queue (raiseCause s f bit) p q = queue s p q := by
  rw [queue, polder, polders_raiseCause]
  rfl

theorem hostMem_raiseCause (s : State) (f : Fin 5) (bit : Nat) : (raiseCause s f bit).hostMem = s.hostMem := by
  rw [raiseCause_eq]
  rfl

theorem queue_sendQueueMsix_ne {y : Fin 16} (s : State) (h : y ≠ q) : queue (sendQueueMsix s p q) p y = queue s p y := by
  unfold sendQueueMsix
  dsimp only
  split
  · rfl
  · rw [queue_modQueue_ne _ _ _ h, queue, polder_sendMsix, queue]

/-- The state in which a queue's record has its entry, before anyone is told. -/
def discardEntered (s : State) (p : Fin 4) (q : Fin 16) (cls id : Nat) : State :=
  modQueue (putCq s p q fun ph => cqEntry (queue s p q).fence .discarded (2 + ph) 0 0 0 (BitVec.ofNat 32 (cls + 256 * id)) (leveeTime s))
    p q fun Q => { Q with st := .held, taken := (queue s p q).fence, waiting := none }

theorem discardQueue_eq (cls id : Nat) (p : Fin 4) (s : State) (q : Fin 16) :
    discardQueue cls id p s q = traceRecord
      (sendQueueMsix (raiseCause (raiseCause (discardEntered s p q cls id) (vf p) (16 + q.val)) (vf p) 2) p q) p 4 q.val false 0 0 0 0
      (leBytes 4 (queue s p q).fence.toNat ++ leBytes 1 cls ++ zeros 3 ++ leBytes 4 id) := rfl

theorem discardEntered_recorded (s : State) (p : Fin 4) (q : Fin 16) (cls id : Nat) :
    Recorded p q cls id s (discardEntered s p q cls id) where
  queue := ⟨(Machine.queue s p q).unsignalled, by simp only [discardEntered, putCq, queue_modQueue_self, queue_hostWrite]; rfl⟩
  hostMem := by simp only [discardEntered, putCq, modQueue_hostMem, hostMem_hostWrite]; rfl
  others y hy := by rw [discardEntered, putCq, queue_modQueue_ne _ _ _ hy, queue_modQueue_ne _ _ _ hy, queue_hostWrite]

theorem discardQueue_recorded (s : State) (p : Fin 4) (q : Fin 16) (cls id : Nat) : Recorded p q cls id s (discardQueue cls id p s q) := by
  obtain ⟨⟨m, hqueue⟩, hmem, hothers⟩ := discardEntered_recorded s p q cls id
  rw [discardQueue_eq]
  generalize discardEntered s p q cls id = u at *
  have htrace := fun v : State => traceRecord_beside (.refl p v) (typ := 4) (qb := q.val) (rounded := false) (op := 0) (seq := 0) (rid := 0)
    (set := 0) (body := leBytes 4 (queue s p q).fence.toNat ++ leBytes 1 cls ++ zeros 3 ++ leBytes 4 id) (snap := none)
  have hsent := sendQueueMsix_notified (p := p) (raiseCause (raiseCause u (vf p) (16 + q.val)) (vf p) 2) q
  obtain ⟨n, hn⟩ := hsent.queue
  refine ⟨⟨n, ?_⟩, ?_, fun y hy => ?_⟩
  · rw [(htrace _).queue, hn, queue_raiseCause, queue_raiseCause, hqueue]
    rfl
  · rw [(htrace _).hostMem, hsent.hostMem, hostMem_raiseCause, hostMem_raiseCause, hmem]
  · rw [(htrace _).queue, queue_sendQueueMsix_ne _ hy, queue_raiseCause, queue_raiseCause, hothers y hy]

theorem discardQueue_handling (s : State) (p : Fin 4) (q : Fin 16) (cls id : Nat) : Handling p s (discardQueue cls id p s q) :=
  ((putCq_handling s p q _).trans (modQueue_handling ..)).trans ((raiseCause_handling ..).trans ((raiseCause_handling ..).trans
    ((sendQueueMsix_handling ..).trans (traceRecord_handling ..))))

/-! ## All of them -/

theorem queue_discardQueues_ne {qs : List (Fin 16)} (h : q ∉ qs) (s : State) :
    queue (qs.foldl (discardQueue cls id p) s) p q = queue s p q :=
  List.foldlRecOn (motive := fun t => queue t p q = queue s p q) qs _ rfl fun t ht y hy =>
    ((discardQueue_recorded t p y cls id).others q fun e => h (by rwa [e])).trans ht

theorem queue_discardQueues {qs : List (Fin 16)} (hmem : q ∈ qs) (hnodup : qs.Nodup) (s : State) :
    ∃ n, queue (qs.foldl (discardQueue cls id p) s) p q = heldQueue (queue s p q) n := by
  induction qs generalizing s with
  | nil => cases hmem
  | cons y ys ih =>
    obtain ⟨hy, hys⟩ := List.nodup_cons.1 hnodup
    rw [List.foldl_cons]
    by_cases he : q = y
    · subst he
      rw [queue_discardQueues_ne hy]
      exact (discardQueue_recorded s p q cls id).queue
    · obtain ⟨n, hn⟩ := ih ((List.mem_cons.1 hmem).resolve_left he) hys (discardQueue cls id p s y)
      exact ⟨n, by rw [hn, (discardQueue_recorded s p y cls id).others q he]⟩

theorem mem_recordQueues : q ∈ recordQueues s p ↔ (queue s p q).st = .running ∨ (queue s p q).st = .held := by
  simp [recordQueues]

theorem nodup_recordQueues (s : State) (p : Fin 4) : (recordQueues s p).Nodup := (List.nodup_finRange 16).filter _

/-- The state in which the records of polder p are posted and its queues held, before the event and the tokens. -/
def queuesHeld (s : State) (p : Fin 4) (cls id : Nat) : State := (recordQueues s p).foldl (discardQueue cls id p) (toEdge s p 1)

theorem queuesHeld_handling (s : State) (p : Fin 4) (cls id : Nat) : Handling p s (queuesHeld s p cls id) :=
  (toEdge_handling ..).trans (.foldl (fun _ _ => discardQueue_handling ..) _ _)

/-- From s to t the records of polder p were posted, and the polder is under repair (R338, R344). -/
structure RecordsPosted (p : Fin 4) (cls id : Nat) (s t : State) : Prop where
  st : (polder t p).st = .repairing
  discard : (polder t p).discard = none
  others : ∀ x, x ≠ p → polder t x = polder s x
  queues : (polder t p).queues = (polder (queuesHeld s p cls id) p).queues
  hostMem : t.hostMem = (queuesHeld s p cls id).hostMem

theorem hostMem_modReport (s : State) (id : Nat) (f : Repair → Repair) : (modReport s id f).hostMem = s.hostMem := rfl

theorem doDiscardRecordPost_posted (h : (polder s p).discard = some (cls, id)) :
    RecordsPosted p cls id s (doDiscardRecordPost p s) := by
  have hheld := queuesHeld_handling s p cls id
  obtain ⟨payload, f, heq⟩ : ∃ payload f, doDiscardRecordPost p s = modPolder
      (modReport (floodFault (polderEvent (queuesHeld s p cls id) p 0x0501 payload) p) id f) p
      fun P => { P with st := .repairing, discard := none } := by
    unfold doDiscardRecordPost
    rw [h]
    exact ⟨_, _, rfl⟩
  have hevent : (polderEvent (queuesHeld s p cls id) p 0x0501 payload).polders = (queuesHeld s p cls id).polders ∧
      (polderEvent (queuesHeld s p cls id) p 0x0501 payload).hostMem = (queuesHeld s p cls id).hostMem := by
    rw [polderEvent_eq]
    exact ⟨rfl, rfl⟩
  have hflood := floodFault_flooding (polderEvent (queuesHeld s p cls id) p 0x0501 payload) p
  have hpolder (x : Fin 4) : polder (polderEvent (queuesHeld s p cls id) p 0x0501 payload) x = polder (queuesHeld s p cls id) x :=
    congrArg (Vector.get · x) hevent.1
  rw [heq]
  refine ⟨by rw [polder_modPolder_self], by rw [polder_modPolder_self], fun x hx => ?_, ?_, ?_⟩
  · rw [polder_modPolder_ne _ _ hx]
    exact (hflood.others x hx).trans ((hpolder x).trans (hheld.others x hx))
  · rw [polder_modPolder_self]
    change (polder (floodFault _ p) p).queues = _
    rw [hflood.held, hpolder]
  · obtain ⟨_, _, hsent⟩ := hflood.sent
    rw [modPolder_hostMem, hostMem_modReport, hsent]
    exact hevent.2

/-- Of a number, its low bytes alone are stored. -/
theorem leBytes_mod (n x : Nat) : leBytes n (x % 256 ^ n) = leBytes n x := by
  induction n generalizing x with
  | zero => rfl
  | succ n ih =>
    have hlow : x % 256 ^ (n + 1) % 256 = x % 256 := Nat.mod_mod_of_dvd _ (dvd_pow_self 256 n.succ_ne_zero)
    have hhigh : x % 256 ^ (n + 1) / 256 = x / 256 % 256 ^ n := by
      rw [Nat.pow_succ', Nat.mod_mul_right_div_self]
    have hbyte : BitVec.ofNat 8 (x % 256 ^ (n + 1)) = BitVec.ofNat 8 x := BitVec.eq_of_toNat_eq hlow
    rw [leBytes, leBytes, hbyte, hhigh, ih]

/-- A discard record as the host reads it (R310): the fence, the status and the flags, and the class with the repair ID. -/
theorem tabBytes_discardEntry (m : Tab Byte) (Q : Queue) (t : DWord) :
    let m' := tabSplice 0 m (nextSlot Q) (discardEntry Q cls id t)
    tabBytes m' (nextSlot Q) 6 = leBytes 4 Q.fence.toNat ++ [0x10, if Q.posted / (Q.depth + 1) % 2 = 0 then 3 else 2] ∧
      tabBytes m' (nextSlot Q + 16) 4 = leBytes 4 (cls + 256 * id) := by
  intro m'
  have part (o n : Nat) (h : o + n ≤ 32) : tabBytes m' (nextSlot Q + o) n = ((discardEntry Q cls id t).drop o).take n :=
    tabBytes_tabSplice_part m (nextSlot Q) o n _ (by rwa [discardEntry, cqEntry_length])
  have hflags : leBytes 1 (2 + (phase Q.depth Q.posted).toNat) = [if Q.posted / (Q.depth + 1) % 2 = 0 then 3 else 2] := by
    rw [phase_toNat]
    split <;> rfl
  have hdetail : leBytes 4 (BitVec.ofNat 32 (cls + 256 * id)).toNat = leBytes 4 (cls + 256 * id) := leBytes_mod 4 _
  constructor
  · rw [show tabBytes m' (nextSlot Q) 6 = _ from part 0 6 (by decide), discardEntry, cqEntry, hflags]
    simp only [List.append_assoc, List.drop_zero]
    rw [List.take_append, List.take_of_length_le (by simp), leBytes_length]
    rfl
  · rw [part 16 4 (by decide), discardEntry, ← hdetail]
    simp (disch := simp) only [cqEntry, List.append_assoc, drop_append_past, take_append_part, leBytes_length, Nat.reduceSub,
      List.drop_zero]

end Sys2Proof.Machine
end

section
/-! SUPPORT. The end of a repair (R343-R346, R356): what it mends, what it makes of its polders, and its report. -/

namespace Sys2Proof.Machine

variable {s t u : State} {p : Fin 4} {id : Nat} {R : Repair} {x : RepairResult}

/-! ## What a repair mends (R228, R229, R343) -/

theorem trainSite_mending (s : State) (m : Fin 32) (b : Nat) : Mending s (trainSite s m b) := .same rfl rfl

theorem retireSite_mending (s : State) (m : Fin 32) (repair : Nat) : Mending s (retireSite s m repair) := makeRemaps_mending ..

theorem slotDue_mending (s : State) (b : Bool) : Mending s { s with slotDue := b } := .same rfl rfl

theorem bootFlags_mending (s : State) (b : Byte) : Mending s { s with bootFlags := b } := .same rfl rfl

theorem modSite_mending (s : State) (m : Fin 32) (f : Site → Site) : Mending s (modSite s m f) := .same rfl rfl

theorem settleSite_mending (s : State) (m : Fin 32) (bin : Option Nat) (repair : Nat) : Mending s (settleSite s m bin repair) := by
  cases bin with
  | none => exact (modSite_mending ..).trans (retireSite_mending ..)
  | some b =>
    have hdue : Mending s { trainSite s m b with
        slotDue := (trainSite s m b).slotDue || cachedBin (trainSite s m b) m != some b } :=
      (trainSite_mending ..).trans (slotDue_mending ..)
    exact .ite _ hdue (hdue.trans ((bootFlags_mending ..).trans (spareUsedEvent_mending ..)))

theorem retrainSites_mending (s : State) (bins : List (Fin 32 × Nat)) (id : Nat) : Mending s (retrainSites s bins id).1 :=
  .foldl_fst (fun _ _ => settleSite_mending ..) bins (s, false)

theorem retireChannel_mending (s : State) (d : Fin 4) (l id : Nat) : Mending s (retireChannel s d l id).1 := by
  unfold retireChannel
  dsimp only
  split_ifs
  · exact .refl s
  · exact makeRemap_mending ..
  · exact .refl s

theorem retireCrowded_mending (s : State) (d : Fin 4) (id : Nat) : Mending s (retireCrowded s d id).1 :=
  .foldl_fst (f := fun x l => ((retireChannel x.1 d l id).1, x.2 && (retireChannel x.1 d l id).2))
    (fun _ _ => retireChannel_mending ..) _ (s, true)

theorem mendPage_mending (s : State) (d : Fin 4) (v id : Nat) : Mending s (mendPage s d v id).1 := by
  unfold mendPage
  extract_lets l again
  have hagain (t : State) : Mending t (again t).1 := by
    unfold again
    split
    · exact .refl t
    · split
      · next h => exact remapPage_mending h
      · exact .refl t
  clear_value again
  split
  · split
    · exact (retireChannel_mending ..).trans (hagain _)
    · exact .refl s
  · exact hagain s

theorem mendDue_mending (made : List DWord) (d : Fin 4) (id : Nat) (y : State × Bool) (v : Nat) :
    Mending y.1 (mendDue made d id y v).1 := by
  have htried : Mending y.1 (if made.any (sameUnit (mkRemap 6 d.val v 0)) then (y.1, true) else mendPage y.1 d v id).1 := by
    split
    · exact .refl y.1
    · exact mendPage_mending ..
  exact .ite _ (htried.trans (pageMet_mending ..)) htried

theorem mendDie_mending (made : List DWord) (id : Nat) (y : State × Bool) (d : Fin 4) : Mending y.1 (mendDie made id y d).1 :=
  (Mending.foldl_fst (fun _ _ => mendDue_mending ..) _ y).trans (retireCrowded_mending ..)

/-! ### Where there is nothing to mend -/

theorem reduceOption_mapIdx_some {α : Type} {f : Nat → α → Option α} {xs : List α} (h : ∀ i, ∀ c ∈ xs, f i c = some c) :
    (xs.mapIdx f).reduceOption = xs := by
  induction xs generalizing f with
  | nil => rfl
  | cons y ys ih =>
    rw [List.mapIdx_cons, h 0 y List.mem_cons_self, List.reduceOption_cons_of_some,
      ih fun i c hc => h (i + 1) c (List.mem_cons_of_mem _ hc)]

theorem softRemaps_rebuildMaps (h : ∀ c ∈ s.softRemaps, compAgrees c = true) : (rebuildMaps s).softRemaps = s.softRemaps :=
  reduceOption_mapIdx_some fun _ c hc => if_pos (h c hc)

theorem mendDie_idle (made : List DWord) (id : Nat) {d : Fin 4} (hdue : dueOf s d = []) (hcrowded : crowded s d.val = []) :
    mendDie made id (s, true) d = (s, true) := by
  simp only [mendDie, hdue, retireCrowded, hcrowded, List.foldl_nil, Bool.and_true]

/-! ## The stages of the end of a repair -/

/-- The clusters of the polders served cleared, the spare maps rebuilt (R340, R355). -/
def rebuilt (s : State) (R : Repair) : State := rebuildMaps (((servedPolders s R).flatMap (diesOf s)).foldl clearClusters s)

/-- The remaps made, the sites retrained, the pages and channels of the repair's dies mended; and whether all could be. -/
def mendedDies (s : State) (R : Repair) (id : Nat) (x : RepairResult) : State × Bool :=
  (repairDies s R).foldl (mendDie x.remaps id) ((retrainSites (makeRemaps (rebuilt s R) x.remaps id) x.bins id).1, true)

/-- The ports in training, and what could not be rebuilt poisoned. -/
def mended (s : State) (R : Repair) (id : Nat) (x : RepairResult) : State :=
  x.poisoned.foldl (fun s y => poisonRange s y.1 y.2) ((servedPolders s R).foldl repairPorts (mendedDies s R id x).1)

/-- The C-dies that the repair leaves failed marked. -/
def judged (s : State) (R : Repair) (outcome : Nat) (ds : List (Fin 4)) : State := if outcome = 2 then failDies s R ds else s

/-- The report closed and the host told (R345). -/
def reported (s : State) (R : Repair) (id : Nat) (x : RepairResult) (spares : List DWord) (outcome : Nat) (lower : Bool) : State :=
  repairEvent (modReport { s with slotDue := true } id fun r => closeReport r x spares outcome (leveeTime s))
    R x spares.length outcome lower

theorem doRepairDone_eq (hrun : ModuleRuns s) (hfind : s.reports.find? (fun R => R.id == id) = some R) (hready : repairReady s R = true) :
    let outcome := repairOutcome (mended s R id x) (servedPolders s R) x (mendedDies s R id x).2
    ∃ spares lower, doRepairDone id x s = (servedPolders s R).foldl (endPolderRepair outcome)
      (reported (judged (mended s R id x) R outcome (repairDies s R)) R id x spares outcome lower) := by
  unfold doRepairDone
  rw [if_neg hrun.not_stopped, hfind]
  dsimp only
  rw [hready]
  exact ⟨_, _, rfl⟩

/-! ## What the mending leaves -/

/-- From s to t no polder, no report and no clock has moved, and each mailbox holds what it held. -/
structure Workshop (s t : State) : Prop where
  polders : t.polders = s.polders
  reports : t.reports = s.reports
  time : leveeTime t = leveeTime s
  mailbox : ∀ f, func t f = withTold (func s f) (func t f)

theorem Workshop.refl (s : State) : Workshop s s := ⟨rfl, rfl, rfl, fun _ => rfl⟩

theorem Workshop.trans (h : Workshop s t) (k : Workshop t u) : Workshop s u where
  polders := k.polders.trans h.polders
  reports := k.reports.trans h.reports
  time := k.time.trans h.time
  mailbox f := calc func u f
    _ = withTold (func t f) (func u f) := k.mailbox f
    _ = withTold (withTold (func s f) (func t f)) (func u f) := congrArg (withTold · _) (h.mailbox f)

theorem Workshop.foldl {α : Type} {f : State → α → State} (hf : ∀ s x, Workshop s (f s x)) (xs : List α) (s : State) :
    Workshop s (xs.foldl f s) := List.foldlRecOn xs f (refl s) fun _ h x _ => h.trans (hf _ x)

/-- An update of none of them. -/
theorem Workshop.same (hp : t.polders = s.polders) (hr : t.reports = s.reports) (ht : leveeTime t = leveeTime s)
    (hf : t.funcs = s.funcs) : Workshop s t :=
  ⟨hp, hr, ht, fun f => by rw [show func t f = func s f from congrArg (Vector.get · f) hf]; rfl⟩

theorem Mending.workshop (h : Mending s t) : Workshop s t :=
  ⟨h.polders, by rw [h.eq]; rfl, by rw [h.eq]; rfl, h.mailbox⟩

theorem Workshop.spared (h : Workshop s t) : Spared s t := .same h.polders h.mailbox

theorem foldl_clearClusters_eq (ds : List (Fin 4)) (s : State) :
    ds.foldl clearClusters s = { s with clusters := (ds.foldl clearClusters s).clusters } :=
  List.foldlRecOn (motive := fun t : State => t = { s with clusters := t.clusters }) ds _ rfl fun t ht d _ => by rw [ht]; rfl

theorem rebuilt_workshop (s : State) (R : Repair) : Workshop s (rebuilt s R) := by
  unfold rebuilt
  rw [foldl_clearClusters_eq]
  exact .same rfl rfl rfl rfl

theorem mendedDies_workshop (s : State) (R : Repair) (id : Nat) (x : RepairResult) : Workshop s (mendedDies s R id x).1 := by
  have htrained : Mending (rebuilt s R) (retrainSites (makeRemaps (rebuilt s R) x.remaps id) x.bins id).1 :=
    (makeRemaps_mending ..).trans (retrainSites_mending ..)
  have hdies := Mending.foldl_fst (mendDie_mending x.remaps id) (repairDies s R)
    ((retrainSites (makeRemaps (rebuilt s R) x.remaps id) x.bins id).1, true)
  exact (rebuilt_workshop s R).trans (htrained.trans hdies).workshop

theorem repairPorts_workshop (s : State) (p : Fin 4) : Workshop s (repairPorts s p) := by
  refine .foldl (fun t j => ?_) _ s
  split
  · exact .same rfl rfl rfl rfl
  · exact .same rfl rfl rfl rfl

theorem poisonOne_faulting (y : State × List Place) (a : Nat) : Faulting y.1 (poisonOne y a).1 := by
  unfold poisonOne
  dsimp only
  split
  · exact poisonBlock_faulting ..
  · split
    · exact poisonBlock_faulting ..
    · exact (poisonBlock_faulting ..).trans (retirePage_faulting ..)

theorem poisonRange_faulting (s : State) (a n : Nat) : Faulting s (poisonRange s a n) :=
  .foldl_fst (fun _ _ => poisonOne_faulting ..) _ (s, [])

theorem ports_workshop (s : State) (R : Repair) (id : Nat) (x : RepairResult) :
    Workshop s ((servedPolders s R).foldl repairPorts (mendedDies s R id x).1) :=
  (mendedDies_workshop ..).trans (.foldl repairPorts_workshop _ _)

theorem mended_workshop (h : x.poisoned = []) (s : State) (R : Repair) (id : Nat) : Workshop s (mended s R id x) := by
  unfold mended
  rw [h]
  exact ports_workshop ..

theorem mended_spared (s : State) (R : Repair) (id : Nat) (x : RepairResult) : Spared s (mended s R id x) :=
  (ports_workshop ..).spared.trans (Faulting.foldl (fun _ _ => poisonRange_faulting ..) x.poisoned _).spared

theorem failOne_workshop (s : State) (d : Fin 4) : Workshop s (failOne s d) := .same rfl rfl rfl rfl

theorem failDies_workshop (s : State) (R : Repair) (ds : List (Fin 4)) : Workshop s (failDies s R ds) := by
  unfold failDies
  refine .trans ?_ (.foldl failOne_workshop _ _)
  split
  · exact failOne_workshop ..
  · exact .refl s

theorem judged_workshop (s : State) (R : Repair) (outcome : Nat) (ds : List (Fin 4)) : Workshop s (judged s R outcome ds) := by
  unfold judged
  split
  · exact failDies_workshop ..
  · exact .refl s

theorem repairEvent_mending (s : State) (R : Repair) (x : RepairResult) (spares outcome : Nat) (lower : Bool) :
    Mending s (repairEvent s R x spares outcome lower) := .ite _ (moduleEvent_mending ..) (.foldl (fun _ _ => polderEvent_mending ..) _ s)

/-- The outcome does not depend on what the repair poisons: the items of the polders stay as they were (R346, R356). -/
theorem repairOutcome_spared (h : Spared s t) (ps : List (Fin 4)) (x : RepairResult) (m : Bool) :
    repairOutcome t ps x m = repairOutcome s ps x m := by
  have hitems : itemsLost t = itemsLost s := funext fun p => by rw [itemsLost, itemsLost, h.bad0, h.bad1]
  rw [repairOutcome, hitems, repairOutcome]

/-- Where no page waits, no channel is crowded and the report names nothing to replace, the repair mends all. -/
theorem mendedDies_of_idle (hremaps : x.remaps = []) (hbins : x.bins = []) (hagree : ∀ c ∈ s.softRemaps, compAgrees c = true)
    (hdue : ∀ d, dueOf s d = []) (hcrowded : ∀ d : Fin 4, crowded s d.val = []) : (mendedDies s R id x).2 = true := by
  have hstart : mendedDies s R id x = (repairDies s R).foldl (mendDie [] id) (rebuilt s R, true) := by
    rw [mendedDies, hremaps, hbins]
    rfl
  have hrebuilt : (rebuilt s R).pagesDue = s.pagesDue ∧ (rebuilt s R).fuses = s.fuses ∧ (rebuilt s R).softRemaps = s.softRemaps := by
    unfold rebuilt
    rw [foldl_clearClusters_eq]
    exact ⟨rfl, rfl, softRemaps_rebuildMaps hagree⟩
  obtain ⟨hpages, hfuses, hsoft⟩ := hrebuilt
  have hforce : remapsInForce (rebuilt s R) = remapsInForce s := by
    rw [remapsInForce, softInForce, fuseRemaps, hfuses, hsoft]
    rfl
  have hidle (d : Fin 4) : mendDie [] id (rebuilt s R, true) d = (rebuilt s R, true) := by
    refine mendDie_idle [] id ?_ ?_
    · rw [dueOf, hpages]
      exact hdue d
    · rw [crowded, retiredPages, retiredChannels, hforce]
      exact hcrowded d
  rw [hstart]
  exact congrArg Prod.snd (List.foldlRecOn (motive := fun y => y = (rebuilt s R, true)) (repairDies s R) _ rfl fun y hy d _ => by
    rw [hy, hidle])

end Sys2Proof.Machine
end

section
/-! SUPPORT. The polders and the report at the end of a repair (R344-R346), and the statement on faults. -/

namespace Sys2Proof.Machine

variable {s t u : State} {p : Fin 4} {id outcome : Nat} {R : Repair} {x : RepairResult} {ps : List (Fin 4)}

/-! ## The polders at the end of a repair -/

/-- The polder after the repair, its items restored (R346, R356). -/
def repairedPolder (outcome : Nat) (P : Polder) : Polder := { P with st := repairedState outcome P.st, bad0 := 0, bad1 := 0 }

theorem endPolderRepair_of_idle (h : (func s (vf p)).resetting = false) :
    endPolderRepair outcome s p = modPolder s p (repairedPolder outcome) := if_neg (by simp [h])

theorem foldl_endPolderRepair (h : ∀ p ∈ ps, (func s (vf p)).resetting = false) :
    ps.foldl (endPolderRepair outcome) s = ps.foldl (fun s p => modPolder s p (repairedPolder outcome)) s := by
  induction ps generalizing s with
  | nil => rfl
  | cons p ps ih =>
    obtain ⟨hp, hps⟩ := List.forall_mem_cons.1 h
    rw [List.foldl_cons, List.foldl_cons, endPolderRepair_of_idle hp]
    exact ih hps

theorem foldl_modPolder_eq (f : Polder → Polder) (ps : List (Fin 4)) (s : State) :
    ps.foldl (fun s p => modPolder s p f) s = { s with polders := (ps.foldl (fun s p => modPolder s p f) s).polders } :=
  List.foldlRecOn (motive := fun t : State => t = { s with polders := t.polders }) ps _ rfl fun t ht p _ => by rw [ht]; rfl

theorem polder_foldl_modPolder (f : Polder → Polder) (hnodup : ps.Nodup) (s : State) (p : Fin 4) :
    polder (ps.foldl (fun s p => modPolder s p f) s) p = if p ∈ ps then f (polder s p) else polder s p := by
  induction ps generalizing s with
  | nil => rfl
  | cons q ps ih =>
    obtain ⟨hq, hps⟩ := List.nodup_cons.1 hnodup
    rw [List.foldl_cons, ih hps, polder_modPolder]
    by_cases he : p = q
    · subst he; simp [hq]
    · simp [he]

/-! ## Its report -/

theorem Noted.slotDue (h : Noted s t) : t.slotDue = s.slotDue := by
  obtain ⟨_, _, _, _, _, _, rfl⟩ := h
  rfl

theorem repairEvent_noted (s : State) (R : Repair) (x : RepairResult) (spares outcome : Nat) (lower : Bool) :
    Noted s (repairEvent s R x spares outcome lower) :=
  .ite _ (moduleEvent_noted ..) (.foldl (fun _ _ => (queueEvent_noted ..).trans (queueEvent_noted ..)) _ s)

/-- From s to t the report of repair `id` was closed and the host told. -/
structure Closed (id : Nat) (x : RepairResult) (spares : List DWord) (outcome : Nat) (s t : State) : Prop where
  polders : t.polders = s.polders
  mailbox : ∀ f, func t f = withTold (func s f) (func t f)
  reports : t.reports = s.reports.map fun r => if r.id = id then closeReport r x spares outcome (leveeTime s) else r
  slotDue : t.slotDue = true
  failedDies : t.failedDies = s.failedDies

theorem reported_closed (s : State) (R : Repair) (id : Nat) (x : RepairResult) (spares : List DWord) (outcome : Nat) (lower : Bool) :
    Closed id x spares outcome s (reported s R id x spares outcome lower) := by
  unfold reported
  generalize hu : modReport { s with slotDue := true } id (fun r => closeReport r x spares outcome (leveeTime s)) = u
  have hevent := repairEvent_mending u R x spares.length outcome lower
  have hnoted := repairEvent_noted u R x spares.length outcome lower
  subst hu
  exact ⟨hevent.polders, hevent.mailbox, by rw [hevent.eq]; rfl, hnoted.slotDue, by rw [hevent.eq]; rfl⟩

theorem failDies_fails (h₄ : R.die < 4) (h₁ : 1 ≤ R.kind) (h₃ : R.kind ≤ 3) (s : State) (ds : List (Fin 4)) :
    (failDies s R ds).failedDies.get (fin4 R.die) = true := by
  unfold failDies
  rw [if_pos ⟨h₄, h₁, h₃⟩]
  refine List.foldlRecOn (motive := fun t : State => t.failedDies.get (fin4 R.die) = true) _ _ (get_vmod_self ..) fun t ht d _ => ?_
  rw [failOne, get_vmod]
  split
  · rfl
  · exact ht

theorem repairOutcome_of_missing (h : x.missing = true) (s : State) (ps : List (Fin 4)) (m : Bool) : repairOutcome s ps x m = 2 := by
  simp [repairOutcome, h]

theorem nodup_servedPolders (h : R.polders.Nodup) (s : State) : (servedPolders s R).Nodup := h.filter _

/-- What the end of a repair leaves (R343-R346, R353, R356). -/
structure RepairEnded (s : State) (R : Repair) (id : Nat) (x : RepairResult) (outcome : Nat) (t : State) : Prop where
  slotDue : t.slotDue = true
  served : ∀ p ∈ servedPolders s R, (polder t p).bad0 = 0 ∧ ((polder s p).st = .shut → (polder t p).st = .closed) ∧
    ((polder s p).st = .repairing → (polder t p).st = (if 2 ≤ outcome then .faulted else .opened))
  others : x.poisoned = [] → ∀ p, p ∉ servedPolders s R → (polder t p).st = (polder s p).st
  failed : x.missing = true → R.die < 4 → 1 ≤ R.kind → R.kind ≤ 3 → t.failedDies.get (fin4 R.die) = true
  report : x.poisoned = [] → ∃ R' ∈ t.reports, R'.id = id ∧ R'.active = false ∧ R'.done = leveeTime s ∧ R'.outcome = outcome

theorem judged_fails (h₄ : R.die < 4) (h₁ : 1 ≤ R.kind) (h₃ : R.kind ≤ 3) (s : State) (ds : List (Fin 4)) :
    (judged s R 2 ds).failedDies.get (fin4 R.die) = true := failDies_fails h₄ h₁ h₃ s ds

theorem Closed.ended (h : Closed id x spares outcome s t) (hmem : R ∈ s.reports) (hid : R.id = id) :
    ∃ R' ∈ t.reports, R'.id = id ∧ R'.active = false ∧ R'.done = leveeTime s ∧ R'.outcome = outcome := by
  refine ⟨closeReport R x spares outcome (leveeTime s), ?_, hid, rfl, rfl, rfl⟩
  rw [h.reports]
  exact List.mem_map.2 ⟨R, hmem, if_pos hid⟩

theorem doRepairDone_ended (hrun : ModuleRuns s) (hfind : s.reports.find? (fun R => R.id == id) = some R)
    (hready : repairReady s R = true) (hnodup : R.polders.Nodup) (hreset : ∀ p ∈ R.polders, (func s (vf p)).resetting = false) :
    RepairEnded s R id x (repairOutcome s (servedPolders s R) x (mendedDies s R id x).2) (doRepairDone id x s) := by
  obtain ⟨spares, lower, heq⟩ := doRepairDone_eq (x := x) hrun hfind hready
  have hspared := mended_spared s R id x
  have hmissing (h : x.missing = true) := repairOutcome_of_missing h s (servedPolders s R) (mendedDies s R id x).2
  rw [repairOutcome_spared hspared] at heq
  generalize repairOutcome s (servedPolders s R) x (mendedDies s R id x).2 = o at *
  have hjudged := judged_workshop (mended s R id x) R o (repairDies s R)
  have hclosed := reported_closed (judged (mended s R id x) R o (repairDies s R)) R id x spares o lower
  generalize hu : judged (mended s R id x) R o (repairDies s R) = u at *
  generalize reported u R id x spares o lower = v at *
  have hidle : ∀ p ∈ servedPolders s R, (func v (vf p)).resetting = false := fun p hp => by
    rw [hclosed.mailbox, hjudged.mailbox, hspared.mailbox]
    exact hreset p (List.mem_filter.1 hp).1
  have hpolder (p : Fin 4) : polder v p = polder (mended s R id x) p :=
    congrArg (Vector.get · p) (hclosed.polders.trans hjudged.polders)
  rw [foldl_endPolderRepair hidle] at heq
  have hended (p : Fin 4) := polder_foldl_modPolder (repairedPolder o) (nodup_servedPolders hnodup s) v p
  rw [← heq] at hended
  have heq' := heq.trans (foldl_modPolder_eq ..)
  refine ⟨by rw [heq']; exact hclosed.slotDue, fun p hp => ?_, fun hpoisoned p hp => ?_, fun h h₄ h₁ h₃ => ?_,
    fun hpoisoned => ?_⟩
  · rw [hended p, if_pos hp, hpolder]
    refine ⟨rfl, fun hshut => ?_, fun hrepairing => ?_⟩
    · rw [repairedPolder, hspared.repairing p (.inr hshut), hshut]
      rfl
    · rw [repairedPolder, hspared.repairing p (.inl hrepairing), hrepairing]
      rfl
  · rw [hended p, if_neg hp, hpolder, polder, (mended_workshop hpoisoned s R id).polders]
    rfl
  · rw [heq']
    change v.failedDies.get _ = true
    rw [hclosed.failedDies, ← hu, hmissing h]
    exact judged_fails h₄ h₁ h₃ ..
  · have hshop := (mended_workshop hpoisoned s R id).trans hjudged
    have hreport := hclosed.ended (R := R) (hshop.reports.symm ▸ List.mem_of_find?_eq_some hfind) (by simpa using List.find?_some hfind)
    rw [heq', ← hshop.time]
    exact hreport

end Sys2Proof.Machine
end

section
/-! The statement on faults: the classes, the discard records and the repair (R224, R310, R335-R338, R343-R346). -/

namespace Sys2Proof.Machine

variable {s t u : State} {p : Fin 4} {q : Fin 16} {n : Word} {c : Cmd} {r : FaultReport} {x : RepairResult} {R : Repair} {cls id : Nat}

/-! ## What counts, and what a command meets -/

theorem classFault_corrected_unit (hsource : r.source = 0x04) (hcor : r.corrected = true) :
    classFault s r = bumpCorrected s (if r.kind = 3 then 3 else 2) := by
  simp only [classFault, hsource, hcor, if_true]

theorem classFault_corrected_link (hsource : r.source = 0x08) (hcor : r.corrected = true) : classFault s r = bumpCorrected s 4 := by
  simp only [classFault, hsource, hcor, if_true]

theorem classFault_corrected_port (hsource : r.source = 0x09) (hcor : r.corrected = true) : classFault s r = bumpCorrected s 5 := by
  simp only [classFault, hsource, hcor, if_true]

theorem classFault_corrected_module (hsource : r.source = 0x0B) (hcor : r.corrected = true) : classFault s r = bumpCorrected s 6 := by
  simp only [classFault, hsource, hcor, if_true]

/-- A corrected S-tier error away from a failing row counts (R225). -/
theorem classFault_corrected_fast (hsource : r.source = 0x05) (hcor : r.corrected = true) (hkind : r.kind ≠ 4) (haddr : r.addr < 2 ^ 40) :
    classFault s r = bumpCorrected s 0 := by
  simp only [classFault, hsource, memoryFault, hcor, if_true]
  rw [correctedReport, if_neg (by simp [hsource]), if_neg (by simp [hkind]), correctedError, if_pos haddr]

/-- One on the link of a D-tier channel counts (R231). -/
theorem classFault_corrected_channel (hsource : r.source = 0x06) (hcor : r.corrected = true) (hkind : r.kind = 7) :
    classFault s r = bumpCorrected s 1 := by
  simp only [classFault, hsource, memoryFault, hcor, if_true]
  exact if_pos ⟨hsource, hkind⟩

theorem classFault_port (hsource : r.source = 0x09) (hcor : r.corrected = false) :
    classFault s r = failPort s (fin6 (r.unit / 16)) := by
  simp only [classFault, hsource, hcor]
  rfl

theorem classFault_module (hsource : r.source = 0x0B) (hcor : r.corrected = false) : classFault s r = faultC3 s (infoOf r) := by
  simp only [classFault, hsource, hcor]
  rfl

theorem classFault_item (hsource : r.source = 0x0C) (hitem : r.item < 8) : classFault s r = itemFault s r := by
  simp only [classFault, hsource]
  exact if_pos hitem

theorem classFault_control (hsource : r.source = 0x0D) : classFault s r = faultC4 s (infoOf r) := by
  simp only [classFault, hsource]

theorem classFault_command (hsource : r.source = 0x04) (hcor : r.corrected = false) (hp : reportPolder s r = some p)
    (hc : liveCmd s p r.queue r.seq = some c) : classFault s r = failEcc s p c r := by
  simp only [classFault, hsource, hcor]
  exact commandFault_live hp hc

theorem classFault_met (hsource : r.source = 0x05 ∨ r.source = 0x06) (hcor : r.corrected = false) (hmet : r.command = true)
    (haddr : r.addr < 2 ^ 40) (hgood : isBad s r.addr = false) (hp : reportPolder s r = some p)
    (hc : liveCmd s p r.queue r.seq = none) : classFault s r = poisonBlock s r.addr := by
  have hmemory (own : Bool) := memoryFault_met own hcor hmet haddr hgood hp hc
  obtain hsource | hsource := hsource
  · simp only [classFault, hsource]
    exact hmemory false
  · simp only [classFault, hsource]
    exact hmemory true

theorem cmdAt_key (h : cmdAt s p q n = some c) : c.q = q ∧ c.e.seq = n := by simpa using List.find?_some h

theorem failEcc_liveCmd (hc : liveCmd s p r.queue r.seq = some c)
    (halone : ∀ k, metBy s p c r = some k → strandsOthers s p c.q c.e.seq k = false) :
    EndedWith (failEcc s p c r) p r.queue r.seq .eccUncorrected := by
  have hcmd := cmdAt_of_liveCmd hc
  obtain ⟨hq, hseq⟩ := cmdAt_key hcmd
  rw [← hq, ← hseq] at hcmd ⊢
  exact failEcc_ends hcmd halone

/-! ## The queues of a discarded polder -/

theorem queue_toEdge (s : State) (p : Fin 4) (k : Nat) (q : Fin 16) : queue (toEdge s p k) p q = queue s p q := by
  rw [queue, polder, toEdge_polders]
  rfl

theorem RecordsPosted.queue (h : RecordsPosted p cls id s t) (q : Fin 16) : queue t p q = queue (queuesHeld s p cls id) p q :=
  congrArg (Vector.get · q) h.queues

theorem RecordsPosted.held (h : RecordsPosted p cls id s t) (hq : q ∈ recordQueues s p) :
    ∃ n, Machine.queue t p q = heldQueue (Machine.queue s p q) n := by
  obtain ⟨n, hn⟩ := queue_discardQueues (cls := cls) (id := id) hq (nodup_recordQueues s p) (toEdge s p 1)
  exact ⟨n, by rw [h.queue, queuesHeld, hn, queue_toEdge]⟩

theorem RecordsPosted.untouched (h : RecordsPosted p cls id s t) (hq : q ∉ recordQueues s p) :
    Machine.queue t p q = Machine.queue s p q := by
  rw [h.queue, queuesHeld, queue_discardQueues_ne hq, queue_toEdge]

/-- Where one queue has a record, the host's memory takes its entry alone. -/
theorem RecordsPosted.entry (h : RecordsPosted p cls id s t) (hq : recordQueues s p = [q]) :
    ∃ now, t.hostMem = tabSplice 0 s.hostMem (nextSlot (Machine.queue s p q)) (discardEntry (Machine.queue s p q) cls id now) := by
  have hrecorded := (discardQueue_recorded (toEdge s p 1) p q cls id).hostMem
  rw [queue_toEdge, (toEdge_beside (.refl p s)).hostMem] at hrecorded
  exact ⟨_, by rw [h.hostMem, queuesHeld, hq, List.foldl_cons, List.foldl_nil, hrecorded]⟩

theorem doDiscardRecordPost_idle (h : (polder s p).discard = none) : doDiscardRecordPost p s = s := by simp only [doDiscardRecordPost, h]

/-! ## A repair that is not to end -/

theorem doRepairDone_unready (h : ∀ R, s.reports.find? (fun R => R.id == id) = some R → repairReady s R = false) :
    doRepairDone id x s = s := by
  unfold doRepairDone
  split
  · rfl
  · split
    · rfl
    · next R hR => exact if_pos (by simp [h R hR])

/-- Settles O56: the class of a report decides whom it takes; the records go out queue by queue; the end of a repair leaves its
polders as `RepairEnded` says. -/
theorem faultsActByTheirClass : Obligations.FaultsActByTheirClass := by
  unfold Obligations.FaultsActByTheirClass
  intro s r p x detect running taken
  refine ⟨fun hstop hsource => congrArg Host.Outcome.next (doFaultDetected_stopped (not_running_iff.1 hstop) hsource),
    fun hboot hsource => ?_, fun hrun => ?_, fun cls id hdiscard => ?_,
    fun h => congrArg Host.Outcome.next (doDiscardRecordPost_idle h), fun id R hrun hfind hready hnodup hreset => ?_, fun id h => ?_⟩
  · have hearly : doFaultDetected r s = faultEarly s (infoOf r) := by
      unfold doFaultDetected
      rw [hboot]
      exact if_pos hsource
    exact ⟨_, congrArg Host.Outcome.next hearly, faultEarly_boot .., faultEarly_alert ..⟩
  · have hdetect {t : State} (h : classFault s r = t) : detect t :=
      congrArg Host.Outcome.next ((doFaultDetected_running (running_iff.1 hrun) r).trans h)
    refine ⟨fun hconcerns hp hclose => ?_, fun hsource hitem hp hopen hclose => ?_, fun hsource hcor hbase => ?_, fun hsource => ?_,
      fun hsource hcor => hdetect (classFault_corrected_unit hsource hcor),
      fun hsource hcor => hdetect (classFault_corrected_link hsource hcor),
      fun hsource hcor => hdetect (classFault_corrected_port hsource hcor),
      fun hsource hcor => hdetect (classFault_corrected_module hsource hcor),
      fun hsource hcor hkind haddr => hdetect (classFault_corrected_fast hsource hcor hkind haddr),
      fun hsource hcor hkind => hdetect (classFault_corrected_channel hsource hcor hkind),
      fun hsource hcor => ⟨_, hdetect (classFault_port hsource hcor), st_failPort ..⟩,
      fun c hsource hcor hp hc => ⟨fun k hk hbody => ?_, fun halone => ?_⟩,
      fun hsource hcor hmet haddr hgood hp hc => hdetect (classFault_met hsource hcor hmet haddr hgood hp hc)⟩
    · obtain ⟨hdiscarding, hlast, hrepairs, hothers⟩ := classFault_takenAlone hconcerns hp hclose
      exact ⟨_, hdetect rfl, hdiscarding, hlast, hrepairs, hothers⟩
    · exact ⟨_, hdetect (classFault_item hsource hitem), itemFault_takes hp hopen hclose⟩
    · exact ⟨_, hdetect (classFault_module hsource hcor), fun p => faultC3_takes hbase _, repairs_faultC3 hbase _⟩
    · obtain ⟨hboot, -, hhost, hinflight, hports, -⟩ := faultC4_stopped s (infoOf r)
      exact ⟨_, hdetect (classFault_control hsource), hboot, hhost, hinflight, hports⟩
    · exact hdetect ((classFault_command hsource hcor hp hc).trans (failEcc_traps hk hbody))
    · exact ⟨_, hdetect (classFault_command hsource hcor hp hc), failEcc_liveCmd hc halone⟩
  · have hposted := doDiscardRecordPost_posted hdiscard
    refine ⟨_, rfl, hposted.st, hposted.discard, hposted.others, fun q hq => ?_, fun q hq => ?_, fun q hq => ?_⟩
    · obtain ⟨n, hn⟩ := hposted.held (mem_recordQueues.2 hq)
      simp only [hn]
      exact ⟨rfl, rfl, rfl, rfl⟩
    · refine hposted.untouched fun hmem => ?_
      have hst := mem_recordQueues.1 hmem
      obtain hq | hq := hq <;> simp [hq] at hst
    · obtain ⟨now, hmem⟩ := hposted.entry hq
      rw [hmem]
      exact tabBytes_discardEntry ..
  · obtain ⟨hdue, hserved, hothers, hfailed, hreport⟩ := doRepairDone_ended (x := x) (running_iff.1 hrun) hfind hready hnodup hreset
    exact ⟨_, (mendedDies s R id x).2, rfl, hdue, hserved, hothers, hfailed,
      fun hpages hremaps hbins hagree hcrowded => mendedDies_of_idle hremaps hbins hagree hpages fun d => hcrowded d.val, hreport⟩
  · obtain hstop | hunready := h
    · exact congrArg Host.Outcome.next (if_pos (not_running_iff.1 hstop))
    · exact congrArg Host.Outcome.next (doRepairDone_unready hunready)

end Sys2Proof.Machine
end

section
/-! SUPPORT. What sending moves (R249, R267-R276): of a port the flits and tokens that leave it, of a polder the counts of its
messages; and `Quiet`, for steps that leave memory and the commands in flight where they are. -/

namespace Sys2Proof.Machine

variable {s t u : State} {p x : Fin 4} {j i : Fin 6} {q : Fin 16} {n : Word} {P Q R : Port}

/-! ## A port that sends -/

/-- Port P with what sending moves taken from Q. -/
def withTransmitted (P Q : Port) : Port :=
  { P with txSeq := Q.txSeq, replay := Q.replay, tokenPart := Q.tokenPart, credits := Q.credits, owed := Q.owed, wait := Q.wait,
           tokWait := Q.tokWait, turn := Q.turn, txFlits := Q.txFlits, txTokens := Q.txTokens }

/-- From P to Q a port has queued and sent: its state, its lanes, its owner and all that it has received stay. -/
def Transmits (P Q : Port) : Prop := Q = withTransmitted P Q

namespace Transmits

theorem refl (P : Port) : Transmits P P := rfl

theorem trans (h : Transmits P Q) (k : Transmits Q R) : Transmits P R := calc R
  _ = withTransmitted Q R := k
  _ = withTransmitted (withTransmitted P Q) R := congrArg (withTransmitted · R) h

theorem st (h : Transmits P Q) : Q.st = P.st := by rw [h]; rfl
theorem fallback (h : Transmits P Q) : Q.fallback = P.fallback := by rw [h]; rfl
theorem owner (h : Transmits P Q) : Q.owner = P.owner := by rw [h]; rfl
theorem rxNext (h : Transmits P Q) : Q.rxNext = P.rxNext := by rw [h]; rfl
theorem streams (h : Transmits P Q) : Q.streams = P.streams := by rw [h]; rfl
theorem replayAsked (h : Transmits P Q) : Q.replayAsked = P.replayAsked := by rw [h]; rfl
theorem badLanes (h : Transmits P Q) : Q.badLanes = P.badLanes := by rw [h]; rfl
theorem spareUsed (h : Transmits P Q) : Q.spareUsed = P.spareUsed := by rw [h]; rfl
theorem switchAt (h : Transmits P Q) : Q.switchAt = P.switchAt := by rw [h]; rfl
theorem faultsSeen (h : Transmits P Q) : Q.faultsSeen = P.faultsSeen := by rw [h]; rfl
theorem refused (h : Transmits P Q) : Q.refused = P.refused := by rw [h]; rfl
theorem landed (h : Transmits P Q) : Q.landed = P.landed := by rw [h]; rfl

theorem portUp (h : Transmits P Q) : portUp Q = Machine.portUp P := by rw [Machine.portUp, h.st, Machine.portUp]

end Transmits

theorem sendBare_transmits (P : Port) (typ : Nat) : Transmits P (sendBare P typ) := rfl

theorem sendData_transmits (P : Port) (cls : Fin 4) : Transmits P (sendData P cls) := rfl

theorem queueBytes_transmits (P : Port) (cls : Fin 4) (bs : List Byte) : Transmits P (queueBytes P cls bs) := rfl

theorem pump_transmits (n : Nat) (P : Port) : Transmits P (pump n P) := by
  induction n generalizing P with
  | zero => exact .refl P
  | succ n ih =>
    unfold pump
    split
    · split
      · exact (sendData_transmits ..).trans (ih _)
      · exact .refl P
    · exact .refl P

theorem idleCredits_transmits (n : Nat) (P : Port) : Transmits P (idleCredits n P) := by
  induction n generalizing P with
  | zero => exact .refl P
  | succ n ih =>
    unfold idleCredits
    split
    · exact .refl P
    · exact (sendBare_transmits P 0).trans (ih _)

theorem fillSlots_transmits (P : Port) : Transmits P (fillSlots P) := by
  unfold fillSlots
  split
  · exact (pump_transmits ..).trans (idleCredits_transmits ..)
  · exact .refl P

/-! ## What stays beside the ports -/

namespace Flooding

/-- The polder's counts of its messages are all that moves of the polders. -/
theorem polder (h : Flooding p s t) (x : Fin 4) : ∃ ivs, polder t x = { Machine.polder s x with ivs := ivs } := by
  by_cases hx : x = p
  · exact ⟨_, hx ▸ h.held⟩
  · exact ⟨_, h.others x hx⟩

theorem inflight (h : Flooding p s t) (x : Fin 4) : (Machine.polder t x).inflight = (Machine.polder s x).inflight := by
  obtain ⟨_, hx⟩ := h.polder x
  rw [hx]

theorem events (h : Flooding p s t) (x : Fin 4) : (Machine.polder t x).events = (Machine.polder s x).events := by
  obtain ⟨_, hx⟩ := h.polder x
  rw [hx]

theorem remoteOut (h : Flooding p s t) (x : Fin 4) : (Machine.polder t x).remoteOut = (Machine.polder s x).remoteOut := by
  obtain ⟨_, hx⟩ := h.polder x
  rw [hx]

theorem sameMem (h : Flooding p s t) : SameMem s t := by
  obtain ⟨_, _, heq⟩ := h.sent
  rw [heq]
  exact ⟨rfl, rfl⟩

theorem poison (h : Flooding p s t) : t.poison = s.poison := by
  obtain ⟨_, _, heq⟩ := h.sent
  rw [heq]

theorem hostMem (h : Flooding p s t) : t.hostMem = s.hostMem := by
  obtain ⟨_, _, heq⟩ := h.sent
  rw [heq]

end Flooding

theorem modPort_flooding (s : State) (p : Fin 4) (j : Fin 6) (f : Port → Port) : Flooding p s (modPort s j f) :=
  ⟨modPort_sent .., fun _ _ => rfl, rfl⟩

/-! ## A step that sends -/

/-- From s to t messages and tokens of polder p were queued and sent. -/
structure Sending (p : Fin 4) (s t : State) : Prop where
  flooding : Flooding p s t
  ports : ∀ i, Transmits (port s i) (port t i)

namespace Sending

theorem refl (p : Fin 4) (s : State) : Sending p s s := ⟨.refl p s, fun _ => .refl _⟩

theorem trans (h : Sending p s t) (k : Sending p t u) : Sending p s u :=
  ⟨h.flooding.trans k.flooding, fun i => (h.ports i).trans (k.ports i)⟩

theorem foldl {α : Type} {f : State → α → State} (hf : ∀ s x, Sending p s (f s x)) (xs : List α) (s : State) :
    Sending p s (xs.foldl f s) := List.foldlRecOn xs f (refl p s) fun _ h x _ => h.trans (hf _ x)

theorem ite (c : Prop) [Decidable c] (h : Sending p s t) (k : Sending p s u) : Sending p s (if c then t else u) := by
  split
  · exact h
  · exact k

end Sending

theorem modPort_sending (s : State) (p : Fin 4) (j : Fin 6) {f : Port → Port} (hf : ∀ P, Transmits P (f P)) :
    Sending p s (modPort s j f) where
  flooding := modPort_flooding ..
  ports i := by
    rw [port_modPort]
    split
    · next h => rw [h]; exact hf _
    · exact .refl _

theorem bumpIv_sending (s : State) (p : Fin 4) (chan cls : Nat) : Sending p s (bumpIv s p chan cls) :=
  ⟨bumpIv_flooding .., fun _ => .refl _⟩

theorem flush_sending (s : State) (p : Fin 4) (j : Fin 6) : Sending p s (flush s j) := modPort_sending s p j (pump_transmits _)

theorem queueBytes_sending (s : State) (p : Fin 4) (j : Fin 6) (cls : Fin 4) (bs : List Byte) :
    Sending p s (modPort s j fun P => queueBytes P cls bs) := modPort_sending s p j fun _ => queueBytes_transmits ..

theorem putToken_sending (s : State) (p : Fin 4) (j : Fin 6) (k : Token) : Sending p s (putToken s j k) := by
  unfold putToken
  dsimp only
  split
  · exact .refl p s
  · refine .ite _ ((queueBytes_sending ..).trans (flush_sending ..)) (.ite _ ?_ ?_) <;> exact modPort_sending s p j fun _ => rfl

theorem sendToken_sending (s : State) (p : Fin 4) (j : Fin 6) (typ : Nat) (hop : BitVec 5) (op : BitVec 3) (id : Word)
    (payload : DWord) : Sending p s (sendToken s p j typ hop op id payload) := by
  unfold sendToken
  split
  · exact .refl p s
  · exact (putToken_sending ..).trans (bumpIv_sending ..)

theorem queueSealed_sending (s : State) (p : Fin 4) (j : Fin 6) (kind flags : Nat) (id : Word) (addr attempt : Nat)
    (payload : List Byte) : Sending p s (queueSealed s p j kind flags id addr attempt payload) := by
  unfold queueSealed
  split
  · exact .refl p s
  · exact (queueBytes_sending ..).trans (bumpIv_sending ..)

theorem sendSealed_sending (s : State) (p : Fin 4) (j : Fin 6) (kind flags : Nat) (id : Word) (addr attempt : Nat)
    (payload : List Byte) : Sending p s (sendSealed s p j kind flags id addr attempt payload) :=
  (queueSealed_sending ..).trans (flush_sending ..)

theorem sendPlain_sending (s : State) (p : Fin 4) (j : Fin 6) (kind flags : Nat) (payload : List Byte) :
    Sending p s (sendPlain s j kind flags payload) := (queueBytes_sending ..).trans (flush_sending ..)

theorem returnCredit_sending (s : State) (p : Fin 4) (j : Fin 6) : Sending p s (returnCredit s j) :=
  .ite _ (.refl p s) (modPort_sending s p j fun _ => rfl)

theorem refuseMsg_sending (s : State) (p : Fin 4) (j : Fin 6) (m : Msg) : Sending p s (refuseMsg s j m) := sendPlain_sending ..

/-! ## Steps that leave memory and the commands where they are -/

/-- From s to t memory, its errors and the places of the commands in flight stay. -/
structure Quiet (s t : State) : Prop where
  sameMem : SameMem s t
  poison : t.poison = s.poison
  names : ∀ x, (polder t x).inflight.map (fun c => (c.q, c.e)) = (polder s x).inflight.map fun c => (c.q, c.e)

namespace Quiet

theorem refl (s : State) : Quiet s s := ⟨⟨rfl, rfl⟩, rfl, fun _ => rfl⟩

theorem trans (h : Quiet s t) (k : Quiet t u) : Quiet s u :=
  ⟨⟨k.sameMem.1.trans h.sameMem.1, k.sameMem.2.trans h.sameMem.2⟩, k.poison.trans h.poison, fun x => (k.names x).trans (h.names x)⟩

theorem ofFlooding (h : Flooding p s t) : Quiet s t := ⟨h.sameMem, h.poison, fun x => by rw [h.inflight]⟩

theorem ofSending (h : Sending p s t) : Quiet s t := .ofFlooding h.flooding

theorem ofMoved {tiles : Bool} (h : Moved false tiles s t) : Quiet s t := ⟨h.sameMem, h.poison, fun x => (h.carries x).2⟩

theorem modPolder (s : State) (p : Fin 4) {f : Polder → Polder} (hf : ∀ P, (f P).inflight = P.inflight := by exact fun _ => rfl) :
    Quiet s (modPolder s p f) where
  sameMem := ⟨rfl, rfl⟩
  poison := rfl
  names x := by
    rw [polder_modPolder]
    split
    · next h => rw [hf, h]
    · rfl

theorem memByte (h : Quiet s t) (a : Nat) : memByte t a = Machine.memByte s a := by
  rw [Machine.memByte, h.sameMem.1, h.sameMem.2]; rfl

theorem memBytes (h : Quiet s t) (a n : Nat) : memBytes t a n = Machine.memBytes s a n := by
  simp only [Machine.memBytes, h.memByte]

theorem memNat (h : Quiet s t) (a n : Nat) : memNat t a n = Machine.memNat s a n := by
  rw [Machine.memNat, h.memBytes, Machine.memNat]

end Quiet

end Sys2Proof.Machine
end

section
/-! SUPPORT. What a command that fails on its own moves (R129, R155, R455), and what a hang leaves of its polder (R428, R429), with the
statement on timeouts. -/

namespace Sys2Proof.Machine

variable {s t u : State} {p : Fin 4} {q : Fin 16} {n : Word} {c : Cmd}

/-! ## A command fails on its own -/

theorem modCmd_handling (s : State) (p : Fin 4) (q : Fin 16) (n : Word) (f : Cmd → Cmd) : Handling p s (modCmd s p q n f) :=
  modPolder_handling s p

theorem failCmd_handling (s : State) (p : Fin 4) (q : Fin 16) (n : Word) (st : Status) : Handling p s (failCmd s p q n st) := by
  unfold failCmd
  split
  · exact .refl p s
  · next c _ =>
    refine (spoilPrograms_handling s p c).trans ((releaseUnits_handling _ p q n).trans ((spoilAreas_handling _ p c.areas).trans ?_))
    refine (modPolder_handling _ p (f := fun P => { P with claims := P.claims.filter fun t => !c.claims.contains t })).trans ?_
    exact (modCmd_handling _ p q n _).trans (modCmd_handling ..)

theorem writeUpdReport_handling (s : State) (p : Fin 4) (set : BitVec 16) (r : UpdRun) (n : Word) :
    Handling p s (writeUpdReport s p set r n) := .ite _ (.refl p s) (unitWrite_handling ..)

theorem putReport_handling (s : State) (p : Fin 4) (a : Nat) (rep : List Byte) : Handling p s (putReport s p a rep) :=
  .ite _ (.refl p s) (regionWrite_handling ..)

theorem failUpdate_handling (s : State) (p : Fin 4) (q : Fin 16) (n : Word) (st : Status) (r : UpdRun) (step : Word) :
    Handling p s (failUpdate s p q n st r step) := (failCmd_handling ..).trans (writeUpdReport_handling ..)

theorem failCopy_handling (s : State) (p : Fin 4) (q : Fin 16) (n : Word) (r : UpdRun) (step : Word) (cause : Nat) (rep : List Byte) :
    Handling p s (failCopy s p q n r step cause rep) :=
  (failUpdate_handling ..).trans ((modCmd_handling ..).trans (putReport_handling ..))

theorem modVe_handling (s : State) (p : Fin 4) (k : Fin 256) (f : Ve → Ve) : Handling p s (modVe s k f) := .same rfl rfl rfl

theorem failVk_handling (s : State) (p : Fin 4) (q : Fin 16) (n : Word) (r : VkRun) (cause low : Nat) (rep : List Byte)
    (others : List (Fin 256)) : Handling p s (failVk s p q n r cause low rep others) := by
  have hset : Handling p s (setBody (setDetail (failCmd s p q n (causeStatus cause)) p q n cause) p q n
      (.vk { r with started := true, raised := 1, low := low })) :=
    (failCmd_handling s p q n (causeStatus cause)).trans ((modCmd_handling _ p q n _).trans (modCmd_handling ..))
  exact hset.trans (.trans (.foldl (fun _ _ => modVe_handling ..) _ _) (putReport_handling ..))

/-! ## The units release a stopped command -/

theorem timeOut_handling (s : State) (p : Fin 4) (c : Cmd) : Handling p s (timeOut s p c) := by
  refine (modCmd_handling s p c.q c.e.seq fun c => { c with expired := false }).trans ?_
  unfold timeOut
  split
  · exact .ite _ (failUpdate_handling ..) (failCopy_handling ..)
  · exact failVk_handling ..
  · exact failCmd_handling ..

theorem timeOut_ends (hcmd : cmdAt s p q n = some c) : EndedWith (timeOut s p c) p q n .timeout := by
  obtain ⟨rfl, rfl⟩ := cmdAt_key hcmd
  have hreleased : cmdAt (modCmd s p c.q c.e.seq fun c => { c with expired := false }) p c.q c.e.seq =
      some { c with expired := false } := by
    rw [cmdAt_modCmd, hcmd]; rfl
  unfold timeOut
  split
  · split
    · exact failUpdate_ends hreleased ..
    · exact failCopy_ends hreleased ..
  · next hbody => exact failVk_ends hreleased hbody ..
  · exact failCmd_ends hreleased _

/-! ## The units do not release it -/

theorem dump_laterTrigger (s : State) (p : Fin 4) (d : Dump) :
    (polder (laterTrigger s p d) p).dump = some { d with later := d.later + 1 } := by
  rw [laterTrigger, polder_modPolder_self]

theorem dump_writeDump (s : State) (p : Fin 4) (reason qb : Nat) (n : Word) (repair : Nat) :
    ∃ k xs, (polder (writeDump s p reason qb n repair) p).dump = some { length := k, later := 0, snaps := xs } := by
  unfold writeDump
  dsimp only
  rw [(polderEvent_handling ..).dump, (traceRecord_handling ..).dump, polder_modPolder_self]
  exact ⟨_, _, rfl⟩

theorem Handling.lastRepair (h : Handling p s t) : t.lastRepair = s.lastRepair := by rw [h.eq]; rfl

theorem lastRepair_writeDump (s : State) (p : Fin 4) (reason qb : Nat) (n : Word) (repair : Nat) :
    (writeDump s p reason qb n repair).lastRepair = s.lastRepair := by
  unfold writeDump
  refine ((traceRecord_handling ..).trans (polderEvent_handling ..)).lastRepair.trans ((modPolder_lastRepair ..).trans ?_)
  exact ((regionWrite_handling ..).trans (nextDraw_handling _ p)).lastRepair

theorem lastRepair_dumped (s : State) (p : Fin 4) (reason qb : Nat) (n : Word) :
    (dumped s p reason qb n).lastRepair = s.lastRepair := by
  unfold dumped
  split
  · rw [laterTrigger, modPolder_lastRepair, (regionWrite_handling ..).lastRepair]
  · rw [lastRepair_writeDump, (takeSnap_handling ..).lastRepair]

/-- A capture of a polder that runs takes it into a class C2 repair, with the dump that it has written or added to. -/
theorem capture_discards (hrun : isRunning s p = true) (hclose : closeRuns s p = false) (reason qb : Nat) (n : Word) :
    Discarding (capture s p reason qb n) p 2 (nextRepair s) ∧
      (polder (capture s p reason qb n) p).dump = (polder (dumped s p reason qb n) p).dump := by
  have hcaptured := dumped_captured s p reason qb n
  have hnext : nextRepair (dumped s p reason qb n) = nextRepair s := by rw [nextRepair, lastRepair_dumped, nextRepair]
  rw [capture_eq]
  generalize dumped s p reason qb n = t at hcaptured hnext ⊢
  have hrun' : isRunning t p = true := by rw [isRunning, hcaptured.st, hcaptured.discard, ← isRunning, hrun]
  have hclose' : closeRuns t p = false := hcaptured.closeRuns.trans hclose
  refine ⟨hnext ▸ (faultC2_takenAlone hrun' hclose' _).discarding, ?_⟩
  rw [faultC2_of_running hrun' hclose', dump_beginDiscard]
  rfl

theorem dump_dumped_of_dump {d : Dump} (hd : (polder s p).dump = some d) (reason qb : Nat) (n : Word) :
    (polder (dumped s p reason qb n) p).dump = some { d with later := d.later + 1 } := by
  simp only [dumped, hd]
  exact dump_laterTrigger ..

theorem dump_dumped_of_none (hd : (polder s p).dump = none) (reason qb : Nat) (n : Word) :
    ∃ k xs, (polder (dumped s p reason qb n) p).dump = some { length := k, later := 0, snaps := xs } := by
  simp only [dumped, hd]
  exact dump_writeDump ..

theorem doHangDeclared_of_expired (hrun : isRunning s p = true) (hcmd : cmdAt s p q n = some c) (hexpired : c.expired = true)
    (freed : Bool) : doHangDeclared p q n freed s = if freed then timeOut s p c else capture s p 0 q.val n := by
  simp [doHangDeclared, hrun, hcmd, hexpired]

/-- Settles O48: a command that fails on its own ends with its status and moves its own polder alone; a capture adds to the dump or writes
it, and raises a class C2 fault of its polder. -/
theorem timeoutsEndCommandsAndHangsAreCaptured : Obligations.TimeoutsEndCommandsAndHangsAreCaptured := by
  unfold Obligations.TimeoutsEndCommandsAndHangsAreCaptured
  intro s p q n
  refine ⟨fun c r hc hbody => ?_, fun c r hc hbody => ?_, fun hc => ⟨?_, ?_⟩, fun h => ?_, fun c hrun hcmd => ?_,
    fun c hrun hcmd hexpired => ⟨⟨_, rfl, ?_⟩, fun hclose => ⟨_, rfl, ?_⟩⟩⟩
  · show Host.Outcome.next (doBarrierTimeout p q n s) = _
    simp only [doBarrierTimeout, hc, hbody]
    rfl
  · show Host.Outcome.next (doReduceTimeout p q n s) = _
    simp only [doReduceTimeout, hc, hbody]
    rfl
  · show Host.Outcome.next (doBarrierTimeout p q n s) = _
    simp only [doBarrierTimeout, hc]
  · show Host.Outcome.next (doReduceTimeout p q n s) = _
    simp only [doReduceTimeout, hc]
  · show Host.Outcome.next (doWatchdogExpiry p q n s) = _
    obtain hstopped | hgone := h
    · simp [doWatchdogExpiry, hstopped]
    · simp [doWatchdogExpiry, hgone]
  · show Host.Outcome.next (doWatchdogExpiry p q n s) = _
    simp [doWatchdogExpiry, hrun, hcmd]
  · rw [doHangDeclared_of_expired hrun hcmd hexpired, if_pos rfl]
    exact ⟨timeOut_ends hcmd, (timeOut_handling ..).others⟩
  · rw [doHangDeclared_of_expired hrun hcmd hexpired, if_neg (by decide)]
    obtain ⟨⟨hdiscard, hinflight⟩, hdump⟩ := capture_discards hrun hclose 0 q.val n
    rw [hdump]
    exact ⟨hdiscard, hinflight, fun d hd => dump_dumped_of_dump hd .., fun hd => dump_dumped_of_none hd ..⟩

end Sys2Proof.Machine
end

section
/-! SUPPORT. A port that receives flits, replays and loses lanes (R267-R274), with the statement on links. -/

namespace Sys2Proof.Machine

variable {s t : State} {j : Fin 6} {l : Nat} {P Q : Port} {x : RxFlit}

/-! ## One port -/

theorem modPort_congr {f g : Port → Port} (h : f (port s j) = g (port s j)) : modPort s j f = modPort s j g :=
  congrArg (fun P => { s with ports := s.ports.set j P }) h

theorem modPort_modPort (s : State) (j : Fin 6) (f g : Port → Port) :
    modPort (modPort s j f) j g = modPort s j fun P => g (f P) := by
  simp only [modPort, vmod, Vector.get_eq_getElem, Vector.getElem_set_self, Vector.set_set]

theorem port_modPort_ne {i : Fin 6} (s : State) (f : Port → Port) (h : i ≠ j) : port (modPort s j f) i = port s i := by
  rw [port_modPort, if_neg h]

theorem Mending.port (h : Mending s t) (i : Fin 6) : Machine.port t i = Machine.port s i := by rw [h.eq]; rfl

/-! ## A flit (R267, R269, R271) -/

/-- An ack releases replay entries alone. -/
theorem takeAck_eq (P : Port) (ack : BitVec 12) : takeAck P ack =
    { P with replay := (takeAck P ack).replay, acked := (takeAck P ack).acked, stalls := (takeAck P ack).stalls } := by
  unfold takeAck
  dsimp only
  split <;> rfl

theorem takeCredits_eq (P : Port) (c : Fin 4) (n : Nat) : takeCredits P c n = { P with credits := (takeCredits P c n).credits } := by
  unfold takeCredits
  split <;> rfl

/-- A flit is good: undamaged, and not a data flit out of sequence. -/
def flitGood (P : Port) (x : RxFlit) : Bool :=
  x.fecOk && x.bytes.length == 512 && leBytes 8 (crc64 (x.bytes.take 504)) == x.bytes.drop 504 &&
    (fld x.bytes 0 8 % 16 != 1 || BitVec.ofNat 12 (fld x.bytes 0 8 / 256) == P.rxNext)

theorem rxFlit_of_bad (h : flitGood P x = false) :
    rxFlit P x = if P.replayAsked then P else sendBare { P with replayAsked := true } 2 := by
  unfold rxFlit
  exact if_pos (congrArg not h)

/-- The port that has taken a good flit's ack and credits. -/
def flitAcked (P : Port) (x : RxFlit) : Port :=
  takeCredits (takeAck { P with replayAsked := false } (BitVec.ofNat 12 (fld x.bytes 0 8 / 2 ^ 20)))
    (fin4 (fld x.bytes 0 8 / 2 ^ 32 % 4)) (fld x.bytes 0 8 / 2 ^ 34 % 4096)

/-- The port that has taken a good flit: its ack, its credits, and the body of a data flit. -/
def flitTaken (P : Port) (x : RxFlit) : Port :=
  if fld x.bytes 0 8 % 16 = 1 then
    { flitAcked P x with
      rxNext := (flitAcked P x).rxNext + 1,
      streams := vmod (flitAcked P x).streams (fin4 (fld x.bytes 0 8 / 16 % 4)) (· ++ (x.bytes.drop 8).take 496) }
  else flitAcked P x

theorem flitAcked_eq (P : Port) (x : RxFlit) : flitAcked P x =
    { P with replayAsked := false, replay := (flitAcked P x).replay, acked := (flitAcked P x).acked,
             stalls := (flitAcked P x).stalls, credits := (flitAcked P x).credits } := by
  unfold flitAcked
  rw [takeCredits_eq, takeAck_eq]

/-- A good flit is taken, and answered. -/
theorem rxFlit_of_good (h : flitGood P x = true) : Transmits (flitTaken P x) (rxFlit P x) := by
  have hanswered (Q : Port) (c : Prop) [Decidable c] : Transmits Q (if c then sendBare (pump 2048 Q) 0 else pump 2048 Q) := by
    split
    · exact (pump_transmits ..).trans (sendBare_transmits ..)
    · exact pump_transmits ..
  have hkeep : (!flitGood P x) = true → False := by simp [h]
  unfold rxFlit
  refine (if_neg hkeep) ▸ ?_
  exact hanswered (flitTaken P x) _

theorem flitTaken_st (P : Port) (x : RxFlit) : (flitTaken P x).st = P.st := by
  unfold flitTaken
  split <;> rw [flitAcked_eq]

theorem flitTaken_replayAsked (P : Port) (x : RxFlit) : (flitTaken P x).replayAsked = false := by
  unfold flitTaken
  split <;> rw [flitAcked_eq]

theorem flitTaken_switchAt (P : Port) (x : RxFlit) : (flitTaken P x).switchAt = P.switchAt := by
  unfold flitTaken
  split <;> rw [flitAcked_eq]

theorem flitTaken_of_data (h : fld x.bytes 0 8 % 16 = 1) : (flitTaken P x).rxNext = P.rxNext + 1 ∧
    (flitTaken P x).streams = vmod P.streams (fin4 (fld x.bytes 0 8 / 16 % 4)) (· ++ (x.bytes.drop 8).take 496) := by
  rw [flitTaken, if_pos h, flitAcked_eq]
  exact ⟨rfl, rfl⟩

theorem flitTaken_of_bare (h : fld x.bytes 0 8 % 16 ≠ 1) :
    (flitTaken P x).rxNext = P.rxNext ∧ (flitTaken P x).streams = P.streams := by
  rw [flitTaken, if_neg h, flitAcked_eq]
  exact ⟨rfl, rfl⟩

/-! ## Replay (R271) -/

theorem replayAll_eq (P : Port) : replayAll P =
    { P with txFlits := P.txFlits ++ P.replay, stalls := P.stalls + 1, st := if 32 ≤ P.stalls + 1 then .retraining else P.st } := by
  unfold replayAll
  dsimp only
  split <;> rfl

/-! ## A lane switch (R273) -/

theorem pump_sends (n : Nat) (P : Port) (h : P.replay.length ≤ 1024) :
    ∃ k, P.replay.length + k ≤ 1024 ∧ (pump n P).txSeq = P.txSeq + BitVec.ofNat 12 k := by
  induction n generalizing P with
  | zero => exact ⟨0, h, by simp [pump]⟩
  | succ n ih =>
    unfold pump
    split
    · next hroom =>
      split
      · next c _ =>
        have hlen : (sendData P c).replay.length = P.replay.length + 1 := by simp [sendData]
        obtain ⟨k, hk, hseq⟩ := ih (sendData P c) (by omega)
        refine ⟨k + 1, by omega, ?_⟩
        have hfirst : (sendData P c).txSeq = P.txSeq + 1 := rfl
        rw [hseq, hfirst]
        apply BitVec.eq_of_toNat_eq
        simp
        omega
      · exact ⟨0, h, by simp⟩
    · exact ⟨0, h, by simp⟩

theorem pump_of_sendable3 (hup : portUp P = true) (hroom : P.replay.length < 1024) (hsend : sendable P 3 = true) (n : Nat) :
    pump (n + 1) P = pump n (sendData P 3) := by
  have hpick : pickClass P = some 3 := if_pos hsend
  simp only [pump, hup, hroom, hpick, and_self, if_true]

/-- One management message that waits alone fills one flit. -/
theorem flitsOf3_lone {m : List Byte} (hidle : hasData P 3 = false) (hlen : m.length = 32) (n : Nat) :
    flitsOf3 (n + 2) (queueBytes P 3 m) = 1 := by
  obtain ⟨h3, h0⟩ : P.wait.get 3 = [] ∧ P.wait.get 0 = [] := by simpa [hasData] using hidle
  have hwait3 : (queueBytes P 3 m).wait.get 3 = [m] := by simp [queueBytes, h3]
  have hwait0 : (queueBytes P 3 m).wait.get 0 = [] := by
    rw [queueBytes, get_vmod_ne _ _ (by decide), h0]
  generalize queueBytes P 3 m = Q at hwait3 hwait0
  have hbusy : hasData Q 3 = true := by simp [hasData, hwait3]
  have hbody : (takeBody3 Q).2.1 = (Q.wait.set 0 []).set 3 [] := by
    simp [takeBody3, hwait3, hwait0, begun, hlen, cutStream]
  have hsent : hasData { Q with wait := (takeBody Q 3).2 } 3 = false := by
    simp [takeBody, hbody, hasData, Vector.get_eq_getElem]
  simp [flitsOf3, hbusy, hsent]

/-- A switch alone on its port, whose sequence has been reached, is made. -/
theorem settleSwitches_lone {w : Bool × Nat × BitVec 12} (h : (port s j).switchAt = [w]) (hdue : switchDue (port s j) w = true) :
    settleSwitches s j = loseLane (modPort s j fun P => { P with switchAt := [] }) j w.2.1 := by
  have hleft : modPort s j (fun P => { P with switchAt := P.switchAt.filter fun x => !switchDue P x }) =
      modPort s j fun P => { P with switchAt := [] } := modPort_congr (by simp [h, hdue])
  unfold settleSwitches
  rw [hleft]
  simp [h, hdue]

theorem loseLane_of_upFour (hst : (port s j).st = .upFour) (hlane : (port s j).badLanes.contains l = false) :
    loseLane s j l = failPort s j := by
  unfold loseLane
  rw [if_neg (by simpa [portUp, hst] using hlane), if_pos hst]

/-- A lane lost of eight: the spare replaces it, or four lanes carry on. -/
theorem port_loseLane (hst : (port s j).st = .up) (hlane : (port s j).badLanes.contains l = false) :
    port (loseLane s j l) j = { port s j with
      badLanes := (port s j).badLanes ++ [l], spareUsed := true, st := if (port s j).spareUsed then .upFour else .up } := by
  unfold loseLane
  rw [if_neg (by simpa [portUp, hst] using hlane), if_neg (by simp [hst])]
  dsimp only
  split
  · next hspare =>
    rw [(makeRemap_mending ..).port, port_modPort_self, port_modPort_self, hspare]
  · next hspare =>
    have hport : port (modPort (modPort s j fun P => { P with badLanes := P.badLanes ++ [l] }) j fun P =>
        { P with spareUsed := true }) j = { port s j with badLanes := (port s j).badLanes ++ [l], spareUsed := true, st := .up } := by
      rw [port_modPort_self, port_modPort_self, hst]
    split
    · exact hport
    · rw [(makeRemap_mending ..).port, hport]

/-- The message of a lane switch (log 10). -/
def switchMsg (l : Nat) (n : BitVec 12) : List Byte := plainMsg 4 3 (leBytes 1 l ++ [0] ++ leBytes 2 n.toNat ++ zeros 12)

theorem switchMsg_length (l : Nat) (n : BitVec 12) : (switchMsg l n).length = 32 := by
  simp [switchMsg, plainMsg, msgHeader, padBlock, zeros, leBytes_length]

/-- The port that waits for a lane switch after the next flit. -/
def awaitsSwitch (P : Port) (l : Nat) : Port :=
  { queueBytes P 3 (switchMsg l (P.txSeq + 1)) with switchAt := P.switchAt ++ [(true, l, P.txSeq + 1)] }

/-- With T3 idle and a credit, the flit of the message is sent at once, and so the switch is made. -/
theorem switchLane_made (hup : portUp (port s j) = true) (hsettled : (port s j).switchAt = []) (hidle : hasData (port s j) 3 = false)
    (hcredit : 0 < (port s j).credits.get 3) (hroom : (port s j).replay.length < 1024) :
    ∃ t, switchLane s j l = loseLane t j l ∧ Transmits { port s j with switchAt := [] } (port t j) := by
  have hflits : flitsOf3 64 (queueBytes (port s j) 3 (switchMsg l 0)) = 1 := flitsOf3_lone hidle (switchMsg_length ..) 62
  have hswitch : switchLane s j l = settleSwitches (modPort s j fun P => pump 2048 (awaitsSwitch P l)) j := by
    show settleSwitches (modPort (modPort s j _) j _) j = _
    rw [modPort_modPort]
    refine congrArg (settleSwitches · j) (modPort_congr ?_)
    dsimp only
    rw [show plainMsg 4 3 (leBytes 1 l ++ [0] ++ leBytes 2 (0 : BitVec 12).toNat ++ zeros 12) = switchMsg l 0 from rfl, hflits]
    rfl
  have hport := port_modPort_self (s := s) j fun P => pump 2048 (awaitsSwitch P l)
  have htransmits : Transmits (awaitsSwitch (port s j) l) (port (modPort s j fun P => pump 2048 (awaitsSwitch P l)) j) :=
    hport ▸ pump_transmits ..
  have hnamed : (awaitsSwitch (port s j) l).switchAt = [(true, l, (port s j).txSeq + 1)] := by simp [awaitsSwitch, hsettled]
  have hseq : ∃ k, k < 1024 ∧
      (port (modPort s j fun P => pump 2048 (awaitsSwitch P l)) j).txSeq = (port s j).txSeq + 1 + BitVec.ofNat 12 k := by
    have hsend : sendable (awaitsSwitch (port s j) l) 3 = true := by
      simp [sendable, hasData, awaitsSwitch, queueBytes, hcredit]
    have hsent : (sendData (awaitsSwitch (port s j) l) 3).replay.length = (port s j).replay.length + 1 := by
      simp [sendData, awaitsSwitch, queueBytes]
    obtain ⟨k, hk, hpump⟩ := pump_sends 2047 (sendData (awaitsSwitch (port s j) l) 3) (by omega)
    have hup' : portUp (awaitsSwitch (port s j) l) = true := hup
    have hfirst : pump 2048 (awaitsSwitch (port s j) l) = pump 2047 (sendData (awaitsSwitch (port s j) l) 3) :=
      pump_of_sendable3 hup' hroom hsend 2047
    rw [hport, hfirst, hpump]
    exact ⟨k, by omega, rfl⟩
  obtain ⟨k, hk, hseq⟩ := hseq
  refine ⟨_, hswitch.trans (settleSwitches_lone (htransmits.switchAt.trans hnamed) ?_), ?_⟩
  · simp only [switchDue, hseq, if_true, decide_eq_true_eq]
    rw [add_sub_cancel_left, BitVec.toNat_ofNat]
    omega
  · rw [port_modPort_self, htransmits]
    rfl

/-! ## A window of lane errors (R273, R274) -/

/-- A lane's window, and whether the lane fails with it; lane 9 is the levee lane. -/
def laneVerdict (P : Port) (lanes : List LaneCount) (levee : LaneCount) (i : Nat) : Nat × Bool :=
  laneWindow (P.badWins.getD i 0) (if i = 9 then levee else lanes.getD i ⟨0, 0, 0⟩)

/-- The window's words counted, and the lanes' windows noted. -/
def windowNoted (s : State) (j : Fin 6) (lanes : List LaneCount) (levee : LaneCount) (ws : List Nat) : State :=
  modPort { s with corrected := vmod s.corrected 5 (· + BitVec.ofNat 64 (((lanes.take 9).map (·.words)).sum + levee.words)) } j
    fun P => { P with badWins := ws }

/-- The data lanes that fail with the window. -/
def failingLanes (P : Port) (lanes : List LaneCount) (levee : LaneCount) : List Nat :=
  (List.range 9).filter fun i => (laneVerdict P lanes levee i).2 && !P.badLanes.contains i

theorem doLaneErrorWindow_up {lanes : List LaneCount} {levee : LaneCount} (hup : portUp (port s j) = true) :
    ∃ ws, doLaneErrorWindow j lanes levee s =
      let t := (failingLanes (port s j) lanes levee).foldl (fun s i => switchLane s j i) (windowNoted s j lanes levee ws)
      if (laneVerdict (port s j) lanes levee 9).2 then fallBack t j else t := by
  have hlanes : ((List.range 9).filter fun i => (((List.range 10).map (laneVerdict (port s j) lanes levee)).getD i (0, false)).2 &&
      !(port s j).badLanes.contains i) = failingLanes (port s j) lanes levee :=
    List.filter_congr fun i hi => by
      have hlt : i < 10 := by have := List.mem_range.1 hi; omega
      simp [List.getD_eq_getElem?_getD, hlt]
  refine ⟨((List.range 10).map (laneVerdict (port s j) lanes levee)).map (·.1), ?_⟩
  rw [← hlanes]
  unfold doLaneErrorWindow
  rw [if_neg (by simp [hup])]
  rfl

section Windows

variable {lanes : List LaneCount} {levee : LaneCount}

theorem failingLanes_none (h : ∀ i, i < 9 → (laneVerdict P lanes levee i).2 = false) : failingLanes P lanes levee = [] :=
  List.filter_eq_nil_iff.2 fun i hi => by simp [h i (List.mem_range.1 hi)]

theorem failingLanes_one (hl : l < 9) (hfails : (laneVerdict P lanes levee l).2 = true)
    (hrest : ∀ i, i < 9 → i ≠ l → (laneVerdict P lanes levee i).2 = false) (hgood : P.badLanes.contains l = false) :
    failingLanes P lanes levee = [l] := by
  have hone : failingLanes P lanes levee = (List.range 9).filter (· == l) := List.filter_congr fun i hi => by
    by_cases hil : i = l
    · rw [hil, hfails, hgood]
      simp
    · simp [hil, hrest i (List.mem_range.1 hi) hil]
  rw [hone, List.filter_beq, List.count_eq_one_of_mem List.nodup_range (List.mem_range.2 hl)]
  rfl

end Windows

/-- The levee lane falls back: its tokens go onto the data lanes, and the port's state stays. -/
theorem port_fallBack (s : State) (j : Fin 6) : (port (fallBack s j) j).fallback = true ∧ (port (fallBack s j) j).st = (port s j).st := by
  unfold fallBack
  split
  · next h => exact ⟨h, rfl⟩
  · have hsent := (Sending.foldl (p := 0) (fun s t => putToken_sending s 0 j t) (port s j).tokWait
      (modPort s j fun P => { P with fallback := true, tokWait := [] })).ports j
    rw [hsent.fallback, hsent.st, port_modPort_self]
    exact ⟨rfl, rfl⟩

/-! ## Credits and retraining -/

/-- The first m waiting tokens sent. -/
def tokensSent (P : Port) (m : Nat) : Port :=
  { P with tokWait := P.tokWait.drop m, txTokens := P.txTokens ++ P.tokWait.take m, credits := P.credits.set 0 (P.credits.get 0 - m) }

theorem drainTokens_eq (n : Nat) (P : Port) : drainTokens n P = tokensSent P (min n (min P.tokWait.length (P.credits.get 0))) := by
  have hkeep (P : Port) : tokensSent P 0 = P := by
    have hset : P.credits.set 0 (P.credits.get 0) = P.credits := by simp [Vector.get_eq_getElem]
    simp [tokensSent, hset]
  induction n generalizing P with
  | zero => rw [drainTokens, Nat.zero_min, hkeep]
  | succ n ih =>
    unfold drainTokens
    split
    · next h => simp [h, hkeep]
    · next t ts h =>
      split
      · next hnone => simp [hnone, hkeep]
      · next hcredit =>
        have hm : min (n + 1) (min P.tokWait.length (P.credits.get 0)) = min n (min ts.length (P.credits.get 0 - 1)) + 1 := by
          rw [h, List.length_cons]; omega
        rw [ih, hm]
        simp [tokensSent, vmod, h, Vector.get_eq_getElem, Nat.sub_sub, Nat.add_comm 1]

/-- Settles O49: a port's answer to each row is a closed form of that port, but for the lane switch, whose message is sent at once when T3
is idle. -/
theorem linksReplayFlitsAndReplaceLanes : Obligations.LinksReplayFlitsAndReplaceLanes := by
  unfold Obligations.LinksReplayFlitsAndReplaceLanes
  intro s j x ack lanes levee tok P h good fails only words counted replayed
  have hreplay (P : Port) : replayAll P = replayed P := replayAll_eq P
  refine ⟨fun hup => ⟨fun hbad => ?_, fun hgood => ?_, ?_, fun hdue => ?_, fun hnone => ?_, fun hfine => ?_,
    fun l hl honly hlane => ?_, fun l hl hlane hsettled hidle hcredit hroom => ?_, fun honly => ?_, fun htyp hclear => ?_,
    fun htyp hclear => ?_⟩, fun hdown => ?_, fun hst => ?_, fun hst => ?_⟩
  · have hrx : rxFlit P x = _ := rxFlit_of_bad hbad
    show Host.Outcome.next (doFlitReceived j x s) = _
    rw [doFlitReceived, if_pos hup]
    exact congrArg (fun t => Host.Outcome.next (settleSwitches t j)) (modPort_congr hrx)
  · have htaken : Transmits (flitTaken P x) (rxFlit P x) := rxFlit_of_good hgood
    refine ⟨modPort s j fun P => rxFlit P x, ?_, rfl, fun i hi => port_modPort_ne s _ hi, ?_⟩
    · show Host.Outcome.next (doFlitReceived j x s) = _
      rw [doFlitReceived, if_pos hup]
    · rw [port_modPort_self, htaken.st, htaken.replayAsked, htaken.switchAt, htaken.rxNext, htaken.streams]
      exact ⟨flitTaken_st .., flitTaken_replayAsked .., flitTaken_switchAt .., flitTaken_of_data, flitTaken_of_bare⟩
  · show Host.Outcome.next (doReplayRequestReceived j ack s) = _
    rw [doReplayRequestReceived, if_pos hup]
    simp only [hreplay]
  · show Host.Outcome.next (doReplayTimeout j s) = _
    rw [doReplayTimeout, if_pos ⟨hup, by simpa using hdue⟩]
    exact congrArg (fun f => Host.Outcome.next (modPort s j f)) (funext hreplay)
  · show Host.Outcome.next (doReplayTimeout j s) = _
    have hempty : (port s j).replay = [] := hnone
    rw [doReplayTimeout, if_neg (by simp [hempty])]
  · obtain ⟨ws, hws⟩ := doLaneErrorWindow_up (lanes := lanes) (levee := levee) hup
    refine ⟨ws, congrArg Host.Outcome.next (hws.trans ?_)⟩
    rw [failingLanes_none fun i hi => hfine i (by omega)]
    exact if_neg (Bool.eq_false_iff.1 (hfine 9 (by omega)))
  · obtain ⟨ws, hws⟩ := doLaneErrorWindow_up (lanes := lanes) (levee := levee) hup
    obtain ⟨hfails, hrest⟩ := honly
    refine ⟨ws, congrArg Host.Outcome.next (hws.trans ?_)⟩
    rw [failingLanes_one hl hfails (fun i hi => hrest i (by omega)) hlane]
    exact if_neg (Bool.eq_false_iff.1 (hrest 9 (by omega) (by omega)))
  · obtain ⟨t, hswitch, htransmits⟩ := switchLane_made (l := l) hup hsettled hidle hcredit hroom
    have hlane' : (port t j).badLanes.contains l = false := by rw [htransmits.badLanes]; exact hlane
    refine ⟨fun hst => ?_, fun hst => ?_⟩
    · have hst' : (port t j).st = .up := htransmits.st.trans hst
      rw [hswitch, port_loseLane hst' hlane', htransmits.badLanes, htransmits.spareUsed, htransmits.switchAt]
      exact ⟨rfl, rfl, rfl, rfl⟩
    · have hst' : (port t j).st = .upFour := htransmits.st.trans hst
      rw [hswitch, loseLane_of_upFour hst' hlane']
      exact st_failPort ..
  · obtain ⟨ws, hws⟩ := doLaneErrorWindow_up (lanes := lanes) (levee := levee) hup
    obtain ⟨hfails, hrest⟩ := honly
    obtain ⟨hfallback, hst⟩ := port_fallBack (windowNoted s j lanes levee ws) j
    refine ⟨fallBack (windowNoted s j lanes levee ws) j, congrArg Host.Outcome.next (hws.trans ?_), hfallback, hst.trans ?_⟩
    · rw [failingLanes_none fun i hi => hrest i (by omega) (by omega)]
      exact if_pos hfails
    · rw [windowNoted, port_modPort_self]
      rfl
  · show Host.Outcome.next (doCreditTokenReceived j tok s) = _
    rw [doCreditTokenReceived, if_pos ⟨hup, htyp⟩, creditToken, if_neg (by simp [hclear])]
  · show Host.Outcome.next (doCreditTokenReceived j tok s) = Host.Outcome.next _
    rw [doCreditTokenReceived, if_pos ⟨hup, htyp⟩, creditToken, if_pos hclear]
    refine congrArg Host.Outcome.next (modPort_congr ?_)
    rw [drainTokens_eq]
    simp only [tokensSent, get_vmod_self, P]
    simp [vmod]
  · have hdown' : portUp (port s j) = false := hdown
    refine ⟨?_, ?_, ?_, ?_, ?_⟩
    · show Host.Outcome.next (doFlitReceived j x s) = _
      rw [doFlitReceived, if_neg (by simp [hdown'])]
    · show Host.Outcome.next (doReplayRequestReceived j ack s) = _
      rw [doReplayRequestReceived, if_neg (by simp [hdown'])]
    · show Host.Outcome.next (doReplayTimeout j s) = _
      rw [doReplayTimeout, if_neg (by simp [hdown'])]
    · show Host.Outcome.next (doLaneErrorWindow j lanes levee s) = _
      rw [doLaneErrorWindow, if_pos (by simp [hdown'])]
    · show Host.Outcome.next (doCreditTokenReceived j tok s) = _
      rw [doCreditTokenReceived, if_neg (by simp [hdown'])]
  · refine ⟨failPort s j, ?_, st_failPort .., fun p howner hrun hclose => ?_⟩
    · show Host.Outcome.next (doPortRetrainTimeout j s) = _
      rw [doPortRetrainTimeout, if_pos hst]
    · have howner' : (port s j).owner = some p := howner
      have htaken := faultC2_takenAlone (s := modPort s j fun P => { idlePort P with st := .failed }) hrun hclose
        (faultInfo 0x09 0xA 4 (16 * j.val))
      rw [failPort, howner']
      exact htaken.discarding.1
  · show Host.Outcome.next (doPortRetrainTimeout j s) = _
    rw [doPortRetrainTimeout, if_neg hst]

end Sys2Proof.Machine
end

section
/-! SUPPORT. `Deposits` and `PortsSend`: what the end of a collective writes, and what a collective moves of the ports (R256-R264, R277,
R278). -/

namespace Sys2Proof.Machine

variable {s t u : State} {p x : Fin 4} {q : Fin 16} {n : Word} {c : Cmd} {ls : List (Nat × List Byte)}

/-! ## Steps beside memory -/

theorem isSome_cmdAt_of_names (h : (polder t p).inflight.map (fun c => (c.q, c.e)) = (polder s p).inflight.map fun c => (c.q, c.e)) :
    (cmdAt t p q n).isSome = (cmdAt s p q n).isSome := by
  have hany (u : State) : (cmdAt u p q n).isSome =
      ((polder u p).inflight.map fun c => (c.q, c.e)).any fun x => x.1 = q && x.2.seq = n := by
    rw [cmdAt, List.isSome_find?, List.any_map]
    rfl
  rw [hany, hany, h]

theorem Quiet.cmdAt_isSome (h : Quiet s t) (hs : (cmdAt s p q n).isSome = true) : (cmdAt t p q n).isSome = true :=
  (isSome_cmdAt_of_names (h.names p)).trans hs

theorem EndedWith.sending {y : Fin 4} {st : Status} (h : EndedWith s p q n st) (k : Sending y s t) : EndedWith t p q n st :=
  h.of_inflight (k.flooding.inflight p)

/-! ## Lines stored -/

theorem take_leBytes {k n : Nat} (h : k ≤ n) (v : Nat) : (leBytes n v).take k = leBytes k v := by
  induction n generalizing k v with
  | zero => rw [Nat.le_zero.1 h]; rfl
  | succ n ih =>
    cases k with
    | zero => rfl
    | succ k => rw [leBytes, List.take_succ_cons, ih (Nat.le_of_succ_le_succ h), leBytes]

/-- A range that memory holds shows its lowest bytes as its number's. -/
theorem Holds.memNat {a m k v : Nat} (h : Holds s t [(a, leBytes m v)]) (hk : k ≤ m) : memNat t a k = v % 256 ^ k := by
  have hheld : memBytes t a m = leBytes m v := by simpa [leBytes_length] using h.1 _ (List.mem_singleton_self _)
  have hlow : fld (memBytes t a m) 0 k = Machine.memNat t (a + 0) k := fld_memBytes t a 0 k m (by omega)
  rw [← Nat.add_zero a, ← hlow, hheld, fld, List.drop_zero, take_leBytes hk, leVal_leBytes]

theorem Quiet.holds (h : Quiet s t) (k : Holds t u ls) : Holds s u ls := ⟨k.1, fun a ha => (k.2 a ha).trans (h.memByte a)⟩

/-- From s to t the lines were stored and nothing else moved in memory; the commands in flight stay. -/
structure Deposits (ls : List (Nat × List Byte)) (s t : State) : Prop where
  holds : Holds s t ls
  poison : t.poison = s.poison
  names : ∀ x, (polder t x).inflight.map (fun c => (c.q, c.e)) = (polder s x).inflight.map fun c => (c.q, c.e)

namespace Deposits

theorem ofQuiet (h : Quiet s t) (k : Deposits ls t u) : Deposits ls s u where
  holds := h.holds k.holds
  poison := k.poison.trans h.poison
  names x := (k.names x).trans (h.names x)

theorem thenQuiet (h : Deposits ls s t) (k : Quiet t u) : Deposits ls s u where
  holds := h.holds.sameMem k.sameMem
  poison := k.poison.trans h.poison
  names x := (k.names x).trans (h.names x)

theorem ends (h : Deposits ls s t) (hcmd : (cmdAt s p q n).isSome = true) (st : Status) : EndedWith (endCmd t p q n st) p q n st :=
  res_endCmd st ((isSome_cmdAt_of_names (h.names p)).trans hcmd)

end Deposits

/-- A unit's write of one range, with no memory error standing. -/
theorem unitWrite_deposits (h : s.poison = []) (p : Fin 4) (set : BitVec 16) (a : Nat) (bs : List Byte) :
    Deposits [(a, bs)] s (unitWrite s p set a bs).1 where
  holds := putAll_holds h p set (List.pairwise_singleton _ _)
  poison := (unitWrite_moved (tiles := false) h ..).poison
  names x := ((unitWrite_moved (tiles := false) h p set a bs).carries x).2

theorem unitWrite_stored (h : s.poison = []) (p : Fin 4) (set : BitVec 16) (a : Nat) (bs : List Byte) :
    (unitWrite s p set a bs).2 = true := memWrite_stores h ..

/-! ## The end of a collective -/

theorem releaseKids_sending (s : State) (p : Fin 4) (kids : BitVec 6) (op : Nat) (id : Word) (v : DWord) :
    Sending p s (releaseKids s p kids op id v) := .foldl (fun _ _ => sendToken_sending ..) _ s

theorem dropArrivals_quiet (s : State) (p : Fin 4) (id : Word) (ok : DWord → Bool) : Quiet s (dropArrivals s p id ok) :=
  .modPolder s p

theorem barResult_deposits (h : s.poison = []) (p : Fin 4) (c : Cmd) (r : BarRun) (v : DWord) :
    ∃ t, barResult s p c r v = endCmd t p c.q c.e.seq .ok ∧ Deposits [(r.result, leBytes 8 v.toNat)] s t :=
  ⟨_, if_pos (unitWrite_stored h ..), unitWrite_deposits h ..⟩

theorem barRelease_deposits (h : s.poison = []) (p : Fin 4) (c : Cmd) (r : BarRun) (v : DWord) :
    ∃ t, barRelease s p c r v = endCmd t p c.q c.e.seq .ok ∧ Deposits [(r.result, leBytes 8 v.toNat)] s t := by
  have hquiet : Quiet s (releaseKids (modPolder (dropArrivals s p r.id anyPayloadOk) p
      fun P => remember P (portSet r.parent r.kids) r.id v) p r.kids r.op r.id v) :=
    (dropArrivals_quiet ..).trans (.trans (.modPolder _ p) (.ofSending (releaseKids_sending ..)))
  obtain ⟨t, hend, hdeposits⟩ := barResult_deposits (hquiet.poison.trans h) p c r v
  exact ⟨t, hend, hdeposits.ofQuiet hquiet⟩

theorem redCommit_deposits (h : s.poison = []) (p : Fin 4) (c : Cmd) (r : RedRun) :
    ∃ t, redCommit s p c r = setAreas (endCmd t p c.q c.e.seq .ok) p c.q c.e.seq [] ∧
      Deposits [(r.commit, commitBytes r c.step)] s t := by
  have hsent := releaseKids_sending s p r.kids 0 r.tag (closingMark ||| attemptWord r.attempt)
  have hpoison := hsent.flooding.poison.trans h
  exact ⟨_, if_pos (unitWrite_stored hpoison ..), (unitWrite_deposits hpoison ..).ofQuiet (.ofSending hsent)⟩

/-- The norm cell of a pair and a step (R261). -/
def normBytes (v : DWord) (n : Word) : List Byte :=
  leBytes 4 (pairNorm (wordPair v)).1.toNat ++ leBytes 4 (pairNorm (wordPair v)).2.toNat ++ withComp 4 n.toNat

theorem finalRelease_deposits (h : s.poison = []) (p : Fin 4) (c : Cmd) (r : RedRun) (v : DWord) :
    ∃ t, finalRelease s p c r v = endCmd t p c.q c.e.seq .ok ∧ Deposits [(r.normCell, normBytes v c.step)] s t := by
  have hquiet : Quiet s (releaseKids (dropArrivals s p r.tag anyPayloadOk) p r.kids 5 r.tag v) :=
    (dropArrivals_quiet ..).trans (.ofSending (releaseKids_sending ..))
  have hpoison := hquiet.poison.trans h
  exact ⟨_, if_pos (unitWrite_stored hpoison ..), (unitWrite_deposits hpoison ..).ofQuiet hquiet⟩

/-! ## The root's result (R277) -/

theorem rootResult_low (op : Nat) (v : DWord) : (rootResult op v).toNat % 2 ^ 32 = v.toNat % 2 ^ 32 := by
  unfold rootResult
  split
  · rw [BitVec.toNat_append, BitVec.toNat_setWidth]
    have hlow : v.toNat % 2 ^ 32 < 2 ^ 32 := Nat.mod_lt _ (by decide)
    rw [← Nat.shiftLeft_add_eq_or_of_lt hlow, Nat.shiftLeft_eq]
    omega
  · rfl

theorem rootResult_whole {op : Nat} (h : op = 0 ∨ op = 5) (v : DWord) : rootResult op v = v := if_neg (by omega)

/-! ## What a collective moves of the ports -/

/-- From s to t the ports have queued and sent. -/
structure PortsSend (s t : State) : Prop where
  ports : ∀ i, Transmits (port s i) (port t i)

namespace PortsSend

theorem refl (s : State) : PortsSend s s := ⟨fun _ => .refl _⟩

theorem trans (h : PortsSend s t) (k : PortsSend t u) : PortsSend s u := ⟨fun i => (h.ports i).trans (k.ports i)⟩

theorem ite (c : Prop) [Decidable c] (h : PortsSend s t) (k : PortsSend s u) : PortsSend s (if c then t else u) := by
  split
  · exact h
  · exact k

theorem foldl {α : Type} {f : State → α → State} (hf : ∀ s x, PortsSend s (f s x)) (xs : List α) (s : State) :
    PortsSend s (xs.foldl f s) := List.foldlRecOn xs f (refl s) fun _ h x _ => h.trans (hf _ x)

theorem foldl_fst {α β : Type} {f : State × β → α → State × β} (hf : ∀ x a, PortsSend x.1 (f x a).1) (xs : List α)
    (x : State × β) : PortsSend x.1 (xs.foldl f x).1 :=
  List.foldlRecOn (motive := fun y => PortsSend x.1 y.1) xs f (refl x.1) fun _ h a _ => h.trans (hf _ a)

theorem ofPorts (h : t.ports = s.ports) : PortsSend s t := ⟨fun i => by rw [port, port, h]; exact .refl _⟩

theorem ofSending (h : Sending p s t) : PortsSend s t := ⟨h.ports⟩

theorem ofHandling (h : Handling p s t) : PortsSend s t := .ofPorts (by rw [h.eq]; rfl)

theorem ofMoved {writes tiles : Bool} (h : Moved writes tiles s t) : PortsSend s t := .ofPorts (by
  obtain ⟨_, _, _, _, _, _, _, _, rfl, -⟩ := h
  rfl)

theorem modPolder (s : State) (p : Fin 4) (f : Polder → Polder) : PortsSend s (modPolder s p f) := .ofPorts rfl

end PortsSend

theorem unitWrite_portsSend (s : State) (p : Fin 4) (set : BitVec 16) (a : Nat) (bs : List Byte) :
    PortsSend s (unitWrite s p set a bs).1 := .ofHandling (unitWrite_handling ..)

theorem failCmd_portsSend (s : State) (p : Fin 4) (q : Fin 16) (n : Word) (st : Status) : PortsSend s (failCmd s p q n st) :=
  .ofHandling (failCmd_handling ..)

theorem queuePiece_portsSend (s : State) (p : Fin 4) (c : Cmd) (r : RedRun) (j : Fin 6) (o : Nat) (payload : List Byte) :
    PortsSend s (queuePiece s p c r j o payload) :=
  .trans (.ofSending (queueSealed_sending ..)) (.ofMoved (writes := false) (tiles := false) (countAdd_moved ..))

theorem sendSums_portsSend (s : State) (p : Fin 4) (c : Cmd) (r : RedRun) (h d lo hi : Nat) :
    PortsSend s (sendSums s p c r h d lo hi) :=
  .trans (.foldl (fun _ _ => queuePiece_portsSend ..) _ s) (.ofSending (flush_sending _ p _))

theorem sendBits_portsSend (s : State) (p : Fin 4) (c : Cmd) (r : RedRun) (h d lo hi : Nat) :
    PortsSend s (sendBits s p c r h d lo hi) :=
  .trans (.foldl (fun _ _ => queuePiece_portsSend ..) _ s) (.ofSending (flush_sending _ p _))

theorem noteAccess_portsSend (s : State) (p : Fin 4) (set : BitVec 16) (a n : Nat) : PortsSend s (noteAccess s p set a n) :=
  .ofMoved (writes := false) (tiles := false) (noteAccess_moved ..)

theorem writeOwned_portsSend (s : State) (p : Fin 4) (c : Cmd) (r : RedRun) (h : Nat) : PortsSend s (writeOwned s p c r h).1 := by
  unfold writeOwned
  dsimp only
  split
  · split
    · exact noteAccess_portsSend ..
    · exact (noteAccess_portsSend ..).trans (unitWrite_portsSend ..)
  · exact .trans (.ofMoved (writes := false) (tiles := false) (noteCounts_moved ..)) (unitWrite_portsSend ..)

/-! ### The stages of one half -/

/-- The sums of dimension d begun, if they can begin. -/
def scatterStage (p : Fin 4) (c : Cmd) (h : Nat) (x : State × RedRun) (d : Nat) : State × RedRun :=
  if noted x.2 (sentNote (stageOf h d false)) || !scatterReady x.2 h d then x else
  let ch := chunkRange x.2 h d (prevPos x.2 h d)
  (sendSums x.1 p c x.2 h d ch.1 ch.2, note x.2 (sentNote (stageOf h d false)) 0 0)

/-- The result of the half written, once its sums are complete; the Bool tells of memory errors. -/
def halfWritten (p : Fin 4) (c : Cmd) (r : RedRun) (h : Nat) (x : State × RedRun) : State × RedRun × Bool :=
  if !noted x.2 (writtenNote h) && (!r.scatters || r.dims.all (scatterDone x.2 h)) then
    ((writeOwned x.1 p c x.2 h).1, note x.2 (writtenNote h) 0 0, (writeOwned x.1 p c x.2 h).2)
  else (x.1, x.2, true)

/-- The gathering of dimension d begun, if it can begin. -/
def gatherStage (p : Fin 4) (c : Cmd) (h : Nat) (x : State × RedRun) (d : Nat) : State × RedRun :=
  if noted x.2 (sentNote (stageOf h d true)) || !gatherReady x.2 h d then x else
  let own := rangeAt x.2 h (d + 1)
  (sendBits x.1 p c x.2 h d own.1 own.2, note x.2 (sentNote (stageOf h d true)) 0 0)

/-- The stages of some dimensions, if the mode has them. -/
def stages (has : Bool) (f : State × RedRun → Nat → State × RedRun) (ds : List Nat) (x : State × RedRun) : State × RedRun :=
  if !has then x else ds.foldl f x

/-- The sums of the half begun where they can begin, and its result written if they are complete. -/
def halfSummed (s : State) (p : Fin 4) (c : Cmd) (r : RedRun) (h : Nat) : State × RedRun × Bool :=
  halfWritten p c r h (stages r.scatters (scatterStage p c h) r.dims (s, r))

/-- And its gathering begun where it can begin. -/
def halfGathered (p : Fin 4) (c : Cmd) (r : RedRun) (h : Nat) (x : State × RedRun) : State × RedRun :=
  stages r.gathers (gatherStage p c h) r.dims.reverse x

theorem kickHalf_eq (s : State) (p : Fin 4) (c : Cmd) (r : RedRun) (h : Nat) : kickHalf s p c r h =
    ((halfGathered p c r h ((halfSummed s p c r h).1, (halfSummed s p c r h).2.1)).1,
     (halfGathered p c r h ((halfSummed s p c r h).1, (halfSummed s p c r h).2.1)).2, (halfSummed s p c r h).2.2) := rfl

theorem stages_portsSend {f : State × RedRun → Nat → State × RedRun} (hf : ∀ x d, PortsSend x.1 (f x d).1) (has : Bool)
    (ds : List Nat) (x : State × RedRun) : PortsSend x.1 (stages has f ds x).1 := by
  unfold stages
  split
  · exact .refl _
  · exact .foldl_fst hf ds x

theorem scatterStage_portsSend (p : Fin 4) (c : Cmd) (h : Nat) (x : State × RedRun) (d : Nat) :
    PortsSend x.1 (scatterStage p c h x d).1 := by
  unfold scatterStage
  split
  · exact .refl _
  · exact sendSums_portsSend ..

theorem gatherStage_portsSend (p : Fin 4) (c : Cmd) (h : Nat) (x : State × RedRun) (d : Nat) :
    PortsSend x.1 (gatherStage p c h x d).1 := by
  unfold gatherStage
  split
  · exact .refl _
  · exact sendBits_portsSend ..

theorem halfWritten_portsSend (p : Fin 4) (c : Cmd) (r : RedRun) (h : Nat) (x : State × RedRun) :
    PortsSend x.1 (halfWritten p c r h x).1 := by
  unfold halfWritten
  split
  · exact writeOwned_portsSend ..
  · exact .refl _

theorem kickHalf_portsSend (s : State) (p : Fin 4) (c : Cmd) (r : RedRun) (h : Nat) : PortsSend s (kickHalf s p c r h).1 := by
  have hsummed : PortsSend s (halfSummed s p c r h).1 :=
    (stages_portsSend (scatterStage_portsSend p c h) r.scatters r.dims (s, r)).trans (halfWritten_portsSend ..)
  exact hsummed.trans (stages_portsSend (gatherStage_portsSend p c h) r.gathers r.dims.reverse (_, (halfSummed s p c r h).2.1))

/-! ### The attempt -/

theorem writePartial_portsSend (s : State) (p : Fin 4) (c : Cmd) (r : RedRun) : PortsSend s (writePartial s p c r).1 := by
  unfold writePartial
  split
  · exact .refl s
  · exact unitWrite_portsSend ..

theorem setRed_portsSend (s : State) (p : Fin 4) (c : Cmd) (r : RedRun) : PortsSend s (setRed s p c r) := .ofPorts rfl

theorem endCmd_portsSend (s : State) (p : Fin 4) (q : Fin 16) (n : Word) (st : Status) : PortsSend s (endCmd s p q n st) := .ofPorts rfl

theorem setAreas_portsSend (s : State) (p : Fin 4) (q : Fin 16) (n : Word) (as : List Area) : PortsSend s (setAreas s p q n as) :=
  .ofPorts rfl

theorem redCommit_portsSend (s : State) (p : Fin 4) (c : Cmd) (r : RedRun) : PortsSend s (redCommit s p c r) := by
  have hreleased : PortsSend s (releaseKids s p r.kids 0 r.tag (closingMark ||| attemptWord r.attempt)) :=
    .ofSending (releaseKids_sending ..)
  unfold redCommit
  refine hreleased.trans (.trans (unitWrite_portsSend _ p c.e.ctrSet r.commit (commitBytes r c.step)) ?_)
  dsimp only
  split
  · exact (endCmd_portsSend _ p c.q c.e.seq .ok).trans (setAreas_portsSend ..)
  · exact failCmd_portsSend ..

theorem closeAdvance_portsSend (s : State) (p : Fin 4) (c : Cmd) (r : RedRun) : PortsSend s (closeAdvance s p c r) := by
  unfold closeAdvance
  split
  · exact setRed_portsSend ..
  · split
    · exact setRed_portsSend ..
    · refine .trans (.modPolder s p _) (.ite _ (redCommit_portsSend ..) ?_)
      exact (PortsSend.ofSending (sendToken_sending ..)).trans (setRed_portsSend ..)

/-- One half begun after others; the Bool tells of memory errors. -/
def kickNext (p : Fin 4) (c : Cmd) (x : State × RedRun × Bool) (h : Nat) : State × RedRun × Bool :=
  ((kickHalf x.1 p c x.2.1 h).1, (kickHalf x.1 p c x.2.1 h).2.1, x.2.2 && (kickHalf x.1 p c x.2.1 h).2.2)

/-- Both halves, or the one, begun. -/
def halvesKicked (s : State) (p : Fin 4) (c : Cmd) (r : RedRun) : State × RedRun × Bool := (halfList r).foldl (kickNext p c) (s, r, true)

/-- The end of the exchange: the partial entry, then the closing barrier. -/
def exchangeClosed (s : State) (p : Fin 4) (c : Cmd) (r : RedRun) : State :=
  if (writePartial s p c r).2 then closeAdvance (writePartial s p c r).1 p c { r with phase := .closing, sent := false }
  else failCmd (writePartial s p c r).1 p c.q c.e.seq .eccUncorrected

theorem redKick_eq (s : State) (p : Fin 4) (c : Cmd) (r : RedRun) : redKick s p c r =
    if !(halvesKicked s p c r).2.2 then failCmd (halvesKicked s p c r).1 p c.q c.e.seq .eccUncorrected
    else if exchangeDone (halvesKicked s p c r).2.1 then exchangeClosed (halvesKicked s p c r).1 p c (halvesKicked s p c r).2.1
    else setRed (halvesKicked s p c r).1 p c (halvesKicked s p c r).2.1 := rfl

theorem exchangeClosed_portsSend (s : State) (p : Fin 4) (c : Cmd) (r : RedRun) : PortsSend s (exchangeClosed s p c r) :=
  .ite _ ((writePartial_portsSend ..).trans (closeAdvance_portsSend ..)) ((writePartial_portsSend ..).trans (failCmd_portsSend ..))

theorem redKick_portsSend (s : State) (p : Fin 4) (c : Cmd) (r : RedRun) : PortsSend s (redKick s p c r) := by
  have hnext (x : State × RedRun × Bool) (h : Nat) : PortsSend x.1 (kickNext p c x h).1 := kickHalf_portsSend ..
  have hkicked : PortsSend s (halvesKicked s p c r).1 := .foldl_fst hnext (halfList r) (s, r, true)
  rw [redKick_eq]
  exact hkicked.trans (.ite _ (failCmd_portsSend ..) (.ite _ (exchangeClosed_portsSend ..) (setRed_portsSend ..)))

/-- A new attempt noted and released to the children. -/
def attemptReleased (s : State) (p : Fin 4) (r : RedRun) (attempt : Nat) : State :=
  releaseKids (modPolder s p fun P => { P with attempts := tabSet 0 P.attempts r.tag.toNat attempt }) p r.kids 0 r.tag
    (attemptWord attempt)

theorem redBegin_portsSend (s : State) (p : Fin 4) (c : Cmd) (r : RedRun) (attempt : Nat) : PortsSend s (redBegin s p c r attempt) := by
  have hreleased : PortsSend s (attemptReleased s p r attempt) :=
    .trans (.modPolder s p _) (.ofSending (releaseKids_sending ..))
  unfold redBegin
  refine hreleased.trans ?_
  dsimp only
  split
  · exact redKick_portsSend ..
  · split
    · exact (noteAccess_portsSend ..).trans (failCmd_portsSend ..)
    · exact (noteAccess_portsSend ..).trans (redKick_portsSend ..)

theorem startAdvance_portsSend (s : State) (p : Fin 4) (c : Cmd) (r : RedRun) : PortsSend s (startAdvance s p c r) := by
  unfold startAdvance
  split
  · exact .refl s
  · split
    · exact setRed_portsSend ..
    · refine .trans (.modPolder s p _) (.ite _ (redBegin_portsSend ..) ?_)
      exact (PortsSend.ofSending (sendToken_sending ..)).trans (setRed_portsSend ..)

theorem abandonAttempts_portsSend (s : State) (p : Fin 4) : PortsSend s (abandonAttempts s p) :=
  .foldl (fun s c => by
    split
    · split
      · exact .refl s
      · exact .trans (.modPolder s p _) (startAdvance_portsSend ..)
    · exact .refl s) _ s

end Sys2Proof.Machine
end

section
/-! SUPPORT. Tokens of the levee tree: arrivals, releases and floods (R262, R263, R276-R278), with the statement on them. -/

namespace Sys2Proof.Machine

variable {s t : State} {p : Fin 4} {j : Fin 6} {q : Fin 16} {n id : Word} {v : DWord} {c : Cmd} {tok : Token} {b : BarRun} {r : RedRun}
  {P : Polder} {vs : List DWord}

/-! ## A token on the lane (R276) -/

theorem onLevee_of {typ : Byte} (hup : portUp (port s j) = true) (htyp : tok.typ = typ) (act : State → State) :
    onLevee s j tok typ act = returnCredit (act s) j := if_pos ⟨hup, htyp⟩

theorem arriveToken_of_none (h : sealedToken s j tok = none) : arriveToken s j tok = s := by simp only [arriveToken, h]

theorem arriveToken_of_some (h : sealedToken s j tok = some (p, v)) : arriveToken s j tok = takeArrival s p j tok.op tok.id v := by
  simp only [arriveToken, h]

theorem releaseToken_of_none (h : sealedToken s j tok = none) : releaseToken s j tok = s := by simp only [releaseToken, h]

theorem releaseToken_of_some (h : sealedToken s j tok = some (p, v)) : releaseToken s j tok = takeRelease s p j tok.id v := by
  simp only [releaseToken, h]

theorem faultToken_of_none (h : sealedToken s j tok = none) : faultToken s j tok = s := by simp only [faultToken, h]

/-! ## The commands of a tree -/

theorem isSome_cmdAt_of_mem (h : c ∈ (polder s p).inflight) : (cmdAt s p c.q c.e.seq).isSome = true := by
  rw [cmdAt, List.find?_isSome]
  exact ⟨c, h, by simp⟩

theorem isSome_cmdAt_of_lone (h : liveCmds (polder s p) = [c]) : (cmdAt s p c.q c.e.seq).isSome = true :=
  isSome_cmdAt_of_mem (List.mem_of_mem_filter (h ▸ List.mem_singleton_self c : c ∈ liveCmds (polder s p)))

/-- No live command is of a tree that the polder does not have. -/
theorem treeId_ne_of_no_tree (h : hasTree P id = false) (hc : c ∈ liveCmds P) : treeId c ≠ some id := by
  have hother := List.any_eq_false.1 h c hc
  unfold treeId
  split
  · next hbody => simpa [hbody] using hother
  · next hbody => simpa [hbody] using hother
  · exact nofun

theorem hasTree_of_barrier (hlive : liveCmds P = [c]) (hbody : c.body = .barrier b) (hid : b.id = id) : hasTree P id = true := by
  simp [hasTree, hlive, hbody, hid]

theorem treeAdvance_of_no_tree (h : hasTree (polder s p) id = false) : treeAdvance s p id = s := by
  refine List.foldlRecOn (motive := (· = s)) _ _ rfl fun u hu c hc => ?_
  have hother := treeId_ne_of_no_tree h hc
  split
  · next hbody => exact (if_neg (by simpa [treeId, hbody] using hother)).trans hu
  · next hbody => exact (if_neg (by simpa [treeId, hbody] using hother)).trans hu
  · exact hu

theorem treeAdvance_of_barrier (hlive : liveCmds (polder s p) = [c]) (hbody : c.body = .barrier b) (hid : b.id = id) :
    treeAdvance s p id = barAdvance s p c b := by simp [treeAdvance, hlive, hbody, hid]

theorem barAdvance_of_waiting (hnone : childArrivals (polder s p) b.id b.kids anyPayloadOk = none) : barAdvance s p c b = s := by
  unfold barAdvance
  split
  · rfl
  · rw [hnone]

theorem barAdvance_of_root (hsent : b.sent = false) (harrived : childArrivals (polder s p) b.id b.kids anyPayloadOk = some vs)
    (hroot : b.parent = 0xFF) : barAdvance s p c b = barRelease s p c b (rootResult b.op (vs.foldl (barrierOp b.op) b.own)) := by
  simp [barAdvance, hsent, harrived, hroot]

theorem barAdvance_of_member (hsent : b.sent = false) (harrived : childArrivals (polder s p) b.id b.kids anyPayloadOk = some vs)
    (hmember : b.parent ≠ 0xFF) : barAdvance s p c b = setBody (sendArrival s p b.parent b.op b.id (vs.foldl (barrierOp b.op) b.own))
      p c.q c.e.seq (.barrier { b with sent := true }) := by
  simp [barAdvance, hsent, harrived, hmember]

/-! ## Arrivals (R277, R278) -/

/-- An arrival kept. -/
def withArrival (s : State) (p : Fin 4) (id : Word) (j : Fin 6) (v : DWord) : State :=
  modPolder s p fun P => { P with arrivals := P.arrivals ++ [(id, j.val, v)] }

theorem polder_withArrival (s : State) (p : Fin 4) (id : Word) (j : Fin 6) (v : DWord) :
    polder (withArrival s p id j v) p = { polder s p with arrivals := (polder s p).arrivals ++ [(id, j.val, v)] } :=
  polder_modPolder_self ..

theorem takeArrival_of_expired (h : (polder s p).timedOut.contains id = true) (op : BitVec 3) : takeArrival s p j op id v = s := if_pos h

theorem takeArrival_of_remembered {x : DWord} (hlive : (polder s p).timedOut.contains id = false)
    (hnone : hasTree (polder s p) id = false) (hx : rememberedFor (polder s p) id j = some x) (op : BitVec 3) :
    takeArrival s p j op id v = sendToken s p j 2 0 op id x := by
  simp only [takeArrival, hlive, hnone, hx, Bool.false_eq_true, if_false]

theorem takeArrival_of_early (hlive : (polder s p).timedOut.contains id = false) (hnone : hasTree (polder s p) id = false)
    (hx : rememberedFor (polder s p) id j = none) (op : BitVec 3) : takeArrival s p j op id v = withArrival s p id j v := by
  have hkept : hasTree (polder (withArrival s p id j v) p) id = false := by rw [polder_withArrival]; exact hnone
  simp only [takeArrival, hlive, hnone, hx, Bool.false_eq_true, if_false]
  exact treeAdvance_of_no_tree hkept

theorem takeArrival_of_tree (hlive : (polder s p).timedOut.contains id = false) (htree : hasTree (polder s p) id = true) (op : BitVec 3) :
    takeArrival s p j op id v = treeAdvance (withArrival s p id j v) p id := by
  simp only [takeArrival, hlive, htree, Bool.false_eq_true, if_false, if_true]
  rfl

/-! ## Releases (R262, R277) -/

theorem takeRelease_of_no_tree (h : hasTree (polder s p) id = false) : takeRelease s p j id v = s :=
  List.foldlRecOn (motive := (· = s)) _ _ rfl fun _ hu _ hc => (if_neg (treeId_ne_of_no_tree h hc)).trans hu

theorem takeRelease_of_lone (hlive : liveCmds (polder s p) = [c]) (hid : treeId c = some id) :
    takeRelease s p j id v = releaseTo s p j v c := by simp [takeRelease, hlive, hid]

theorem releaseTo_of_barrier (hbody : c.body = .barrier b) (hsent : b.sent = true) (hparent : b.parent = j.val) :
    releaseTo s p j v c = barRelease s p c b v := by simp [releaseTo, hbody, hsent, hparent]

theorem releaseTo_of_closing (hbody : c.body = .reduce r) (hparent : r.parent = j.val) (hphase : r.phase = .closing)
    (hclosing : closingOf r.attempt v = true) : releaseTo s p j v c = redCommit s p c r := by
  simp [releaseTo, hbody, hparent, hphase, hclosing]

/-! ## Floods (R263) -/

/-- A fault named on the port it came from, and forwarded on the others. -/
def faultForwarded (s : State) (p : Fin 4) (j : Fin 6) (tok : Token) (v : DWord) : State :=
  ((portsOf (modPort s j fun P => { P with faultsSeen := P.faultsSeen ++ [v] }) p).filter (· ≠ j)).foldl
    (fun s i => sendToken s p i 3 (tok.hop + 1) 0 tok.id v) (modPort s j fun P => { P with faultsSeen := P.faultsSeen ++ [v] })

theorem faultToken_of_known (h : sealedToken s j tok = some (p, v)) (hknown : 16 ≤ tok.hop.toNat ∨ faultKnown s p v = true) :
    faultToken s j tok = s := by
  simp only [faultToken, h]
  exact if_pos hknown

theorem faultToken_of_new (h : sealedToken s j tok = some (p, v)) (hhop : tok.hop.toNat < 16) (hnew : faultKnown s p v = false) :
    faultToken s j tok = abandonAttempts (faultForwarded s p j tok v) p := by
  simp only [faultToken, h]
  exact if_neg (by rw [hnew]; simpa using hhop)

theorem faultForwarded_sending (s : State) (p : Fin 4) (j : Fin 6) (tok : Token) (v : DWord) :
    Sending p (modPort s j fun P => { P with faultsSeen := P.faultsSeen ++ [v] }) (faultForwarded s p j tok v) :=
  .foldl (fun _ _ => sendToken_sending ..) _ _

theorem abandonAttempts_of_lone (hlive : liveCmds (polder s p) = [c]) (hbody : c.body = .reduce r) (hmode : r.mode ≠ 3) :
    abandonAttempts s p =
      startAdvance (dropArrivals s p r.tag anyPayloadOk) p c { r with phase := .start, got := [], sent := false } := by
  simp [abandonAttempts, hlive, hbody, hmode]

theorem startAdvance_of_waiting (hsent : r.sent = false) (hnone : childArrivals (polder s p) r.tag r.kids startOf = none) :
    startAdvance s p c r = setRed s p c r := by
  simp only [startAdvance, hsent, hnone, Bool.false_eq_true, if_false]

/-- Where there are children, no arrival of theirs outlasts a drop of all. -/
theorem childArrivals_dropped {kids : BitVec 6} (h : childPorts kids ≠ []) (s : State) (p : Fin 4) (id : Word) (ok : DWord → Bool) :
    childArrivals (polder (dropArrivals s p id anyPayloadOk) p) id kids ok = none := by
  have hgone (i : Fin 6) : arrivalFrom (polder (dropArrivals s p id anyPayloadOk) p) id ok i = none := by
    rw [dropArrivals, polder_modPolder_self, arrivalFrom, Option.map_eq_none_iff, List.find?_eq_none]
    intro a ha
    have hother := (List.mem_filter.1 ha).2
    simp only [anyPayloadOk, Bool.and_true, Bool.not_eq_true', beq_eq_false_iff_ne] at hother
    simp [hother]
  obtain ⟨i, is, hports⟩ := List.exists_cons_of_ne_nil h
  rw [childArrivals, hports, List.mapM_cons, hgone]
  rfl

theorem abandonAttempts_of_children (hlive : liveCmds (polder s p) = [c]) (hbody : c.body = .reduce r) (hmode : r.mode ≠ 3)
    (hkids : childPorts r.kids ≠ []) : abandonAttempts s p =
      setRed (dropArrivals s p r.tag anyPayloadOk) p c { r with phase := .start, got := [], sent := false } :=
  (abandonAttempts_of_lone hlive hbody hmode).trans (startAdvance_of_waiting rfl (childArrivals_dropped hkids ..))

/-- Settles O52: each token is taken by the polder whose key opens it; what a tree command then writes is `Deposits`, and sending moves
neither memory nor commands. -/
theorem leveeTokensCombineReleaseAndAbandon : Obligations.LeveeTokensCombineReleaseAndAbandon := by
  unfold Obligations.LeveeTokensCombineReleaseAndAbandon
  intro s j p tok v hup P paid ended
  have harrive (htyp : tok.typ = 1) : exec (.leveeArriveReceived j tok) s = .next (paid (arriveToken s j tok)) :=
    congrArg Host.Outcome.next (onLevee_of hup htyp fun s => arriveToken s j tok)
  have hrelease (htyp : tok.typ = 2) : exec (.leveeReleaseReceived j tok) s = .next (paid (releaseToken s j tok)) :=
    congrArg Host.Outcome.next (onLevee_of hup htyp fun s => releaseToken s j tok)
  have hfault (htyp : tok.typ = 3) : exec (.faultTokenReceived j tok) s = .next (paid (faultToken s j tok)) :=
    congrArg Host.Outcome.next (onLevee_of hup htyp fun s => faultToken s j tok)
  have hpaid (u : State) : Sending p u (paid u) := returnCredit_sending u p j
  have hended (u : State) (q : Fin 16) (n : Word) : Quiet u (paid (endCmd u p q n .ok)) :=
    (Quiet.ofMoved (tiles := false) (modCmd_moved ..)).trans (.ofSending (hpaid _))
  refine ⟨fun htyp hnone => ?_, fun htyp hnone => ?_, fun htyp hnone => ?_, fun hopen => ⟨fun htyp hexpired => ?_,
    fun htyp hlive hnone => ?_, fun c b vs htyp hlive hlone hbody hid hsent hroot hpoison hchildren => ?_, fun htyp hnone => ?_,
    fun c b htyp hlone hbody hid hsent hparent hpoison => ?_,
    fun c r htyp hlone hbody htag hparent hphase hclosing hpoison => ?_, fun htyp hknown => ?_, fun htyp hhop hnew => ?_⟩⟩
  · rw [harrive htyp, arriveToken_of_none hnone]
  · rw [hrelease htyp, releaseToken_of_none hnone]
  · rw [hfault htyp, faultToken_of_none hnone]
  · rw [harrive htyp, arriveToken_of_some hopen, takeArrival_of_expired hexpired]
  · rw [harrive htyp, arriveToken_of_some hopen]
    cases hx : rememberedFor P tok.id j with
    | some x => rw [takeArrival_of_remembered hlive hnone hx]
    | none => rw [takeArrival_of_early hlive hnone hx]; rfl
  · have hkept : polder (withArrival s p tok.id j v) p = { P with arrivals := P.arrivals ++ [(tok.id, j.val, v)] } :=
      polder_withArrival ..
    have hlone' : liveCmds (polder (withArrival s p tok.id j v) p) = [c] := by rw [hkept]; exact hlone
    obtain ⟨t, hend, hdeposits⟩ := barRelease_deposits (s := withArrival s p tok.id j v) hpoison p c b
      (rootResult b.op (vs.foldl (barrierOp b.op) b.own))
    refine ⟨paid (endCmd t p c.q c.e.seq .ok), ?_, (hdeposits.ends (isSome_cmdAt_of_lone hlone') _).sending (hpaid _), ?_⟩
    · rw [harrive htyp, arriveToken_of_some hopen, takeArrival_of_tree hlive (hasTree_of_barrier hlone hbody hid),
        treeAdvance_of_barrier hlone' hbody hid, barAdvance_of_root hsent (hkept ▸ hchildren) hroot, hend]
    · rw [(hended t c.q c.e.seq).memNat, hdeposits.holds.memNat (by decide)]
      exact rootResult_low ..
  · rw [hrelease htyp, releaseToken_of_some hopen, takeRelease_of_no_tree hnone]
  · have hid' : treeId c = some tok.id := by simp [treeId, hbody, hid]
    obtain ⟨t, hend, hdeposits⟩ := barRelease_deposits hpoison p c b v
    refine ⟨paid (endCmd t p c.q c.e.seq .ok), ?_, (hdeposits.ends (isSome_cmdAt_of_lone hlone) _).sending (hpaid _), ?_, fun _ => ?_⟩
    · rw [hrelease htyp, releaseToken_of_some hopen, takeRelease_of_lone hlone hid', releaseTo_of_barrier hbody hsent hparent, hend]
    · rw [(hended t c.q c.e.seq).memNat, hdeposits.holds.memNat (by decide)]
      rfl
    · rw [(hended t c.q c.e.seq).memNat, hdeposits.holds.memNat (Nat.le_refl 8)]
      exact Nat.mod_eq_of_lt v.isLt
  · have hid' : treeId c = some tok.id := by simp [treeId, hbody, htag]
    obtain ⟨t, hend, hdeposits⟩ := redCommit_deposits hpoison p c r
    have hmem : Quiet t (paid (setAreas (endCmd t p c.q c.e.seq .ok) p c.q c.e.seq [])) :=
      (Quiet.ofMoved (tiles := false) ((modCmd_moved ..).trans (setAreas_moved ..))).trans (.ofSending (hpaid _))
    have hcommitted : EndedWith (setAreas (endCmd t p c.q c.e.seq .ok) p c.q c.e.seq []) p c.q c.e.seq .ok :=
      (hdeposits.ends (isSome_cmdAt_of_lone hlone) _).modCmd
    refine ⟨_, ?_, hcommitted.sending (hpaid _), (hdeposits.thenQuiet hmem).holds⟩
    rw [hrelease htyp, releaseToken_of_some hopen, takeRelease_of_lone hlone hid', releaseTo_of_closing hbody hparent hphase hclosing,
      hend]
  · rw [hfault htyp, faultToken_of_known hopen hknown]
  · have hforwarded := faultForwarded_sending s p j tok v
    refine ⟨_, hfault htyp, ?_, fun c r hlone hbody hmode hkids => ?_⟩
    · rw [((hpaid _).ports j).faultsSeen, faultToken_of_new hopen hhop hnew, ((abandonAttempts_portsSend ..).ports j).faultsSeen,
        (hforwarded.ports j).faultsSeen, port_modPort_self]
    · have hinflight : (polder (faultForwarded s p j tok v) p).inflight = P.inflight := hforwarded.flooding.inflight p
      have hlone' : liveCmds (polder (faultForwarded s p j tok v) p) = [c] := by
        rw [liveCmds, hinflight]
        exact hlone
      have hdropped := dropArrivals_quiet (faultForwarded s p j tok v) p r.tag anyPayloadOk
      rw [cmdAt_of_inflight ((hpaid _).flooding.inflight p), faultToken_of_new hopen hhop hnew, abandonAttempts_of_children hlone' hbody hmode hkids]
      exact body_setBody _ (hdropped.cmdAt_isSome (isSome_cmdAt_of_lone hlone'))

end Sys2Proof.Machine
end

section
/-! SUPPORT. A REDUCE that is alone in its tree and its dimensions (R258, R259, R262): the bytes it writes. -/

namespace Sys2Proof.Machine

variable {s t u : State} {p : Fin 4} {c : Cmd} {R : RedRun} {h : Nat}

/-! ## Bytes of elements -/

theorem memBytes_append (s : State) (a m n : Nat) : memBytes s a (m + n) = memBytes s a m ++ memBytes s (a + m) n := by
  simp only [memBytes, List.range_add, List.map_append, List.map_map, Function.comp_def, Nat.add_assoc]

theorem memBytes_flatMap (s : State) (a n m : Nat) :
    memBytes s a (n * m) = (List.range n).flatMap fun i => memBytes s (a + i * m) m := by
  induction n with
  | zero => simp [memBytes]
  | succ n ih => rw [Nat.succ_mul, memBytes_append, ih, List.range_succ, List.flatMap_append, List.flatMap_singleton]

/-- Elements of one length are told apart in the bytes of all. -/
theorem flatMap_range_inj {α : Type} {f g : Nat → List α} {m n : Nat} (hf : ∀ i, (f i).length = m) (hg : ∀ i, (g i).length = m)
    (heq : (List.range n).flatMap f = (List.range n).flatMap g) : ∀ i, i < n → f i = g i := by
  induction n with
  | zero => exact nofun
  | succ n ih =>
    simp only [List.range_succ, List.flatMap_append, List.flatMap_singleton] at heq
    obtain ⟨hinit, hlast⟩ := List.append_inj' heq (by rw [hf, hg])
    intro i hi
    obtain hlt | rfl := Nat.lt_succ_iff_lt_or_eq.1 hi
    · exact ih hinit i hlt
    · exact hlast

/-! ## Ranges of a member that is alone (R258) -/

theorem splitRange_one {x : Nat × Nat} (hx : x.1 ≤ x.2) : splitRange x 1 0 = x := by
  refine Prod.ext ?_ ?_ <;> simp [splitRange]
  omega

theorem dim_of_alone {d : Nat} (hdims : R.dims = []) (hok : dimOk R d = true) (hd : d ∈ [0, 1, 2]) : R.dim d = 1 ∧ R.pos d = 0 := by
  have hsmall : ¬ 2 ≤ R.dim d := by simpa using List.filter_eq_nil_iff.1 hdims d hd
  simp only [dimOk, Bool.and_eq_true, decide_eq_true_eq] at hok
  omega

theorem halfRange_le (R : RedRun) (h : Nat) : (halfRange R h).1 ≤ (halfRange R h).2 := by
  unfold halfRange
  split
  · simp only [splitRange, Nat.zero_add, Nat.sub_zero]
    exact Nat.div_le_div_right (Nat.mul_le_mul_right _ (Nat.le_succ h))
  · exact Nat.zero_le _

theorem bucketFields_dims (hb : bucketFields R = true) : dimOk R 0 = true ∧ dimOk R 1 = true ∧ dimOk R 2 = true := by
  simp only [bucketFields, Bool.and_eq_true] at hb
  obtain ⟨⟨⟨⟨-, ⟨h0, h1⟩, h2⟩, -⟩, -⟩, -⟩ := hb
  exact ⟨h0, h1, h2⟩

theorem bucketFields_apart (hb : bucketFields R = true) :
    R.src + R.elems * R.size ≤ R.dst ∨ R.dst + R.elems * R.size ≤ R.src := by
  simp only [bucketFields, Bool.and_eq_true] at hb
  obtain ⟨-, happart⟩ := hb
  simpa using happart

/-- Alone, a member owns the whole of each half. -/
theorem ownedRange_of_alone (hdims : R.dims = []) (hb : bucketFields R = true) (h : Nat) : ownedRange R h = halfRange R h := by
  obtain ⟨h0, h1, h2⟩ := bucketFields_dims hb
  obtain ⟨hd0, hp0⟩ := dim_of_alone hdims h0 (by decide)
  obtain ⟨hd1, hp1⟩ := dim_of_alone hdims h1 (by decide)
  obtain ⟨hd2, hp2⟩ := dim_of_alone hdims h2 (by decide)
  have hle := halfRange_le R h
  simp only [ownedRange, rangeAt, hd0, hp0, hd1, hp1, hd2, hp2, splitRange_one hle]

/-! ## The result (R259) -/

/-- Element i of the result of a member that is alone: its own source bits, or their value rounded into the bucket's format. -/
def aloneElem (s : State) (R : RedRun) (i : Nat) : List Byte :=
  if R.mode = 1 then memBytes s (R.src + i * R.size) R.size
  else leBytes R.size (convertElem R.fmt .rne false false
    (f32dec (f32enc (decodeElem R.fmt (memNat s (R.src + i * R.size) R.size))))).code

theorem aloneElem_length (s : State) (R : RedRun) (i : Nat) : (aloneElem s R i).length = R.size := by
  unfold aloneElem
  split
  · exact memBytes_length ..
  · exact leBytes_length ..

/-- Elements [lo, hi) of the result. -/
def aloneBytes (s : State) (R : RedRun) (lo hi : Nat) : List Byte := (List.range (hi - lo)).flatMap fun i => aloneElem s R (lo + i)

theorem aloneBytes_length (s : State) (R : RedRun) (lo hi : Nat) : (aloneBytes s R lo hi).length = (hi - lo) * R.size := by
  rw [aloneBytes, flatMap_length_of_forall fun _ => aloneElem_length .., List.length_range, Nat.mul_comm]

theorem aloneBytes_append {lo mid hi : Nat} (s : State) (R : RedRun) (h : lo ≤ mid) (k : mid ≤ hi) :
    aloneBytes s R lo mid ++ aloneBytes s R mid hi = aloneBytes s R lo hi := by
  have hsplit : hi - lo = (mid - lo) + (hi - mid) := by omega
  have hfrom (i : Nat) : lo + (mid - lo + i) = mid + i := by omega
  simp only [aloneBytes, hsplit, List.range_add, List.flatMap_append, List.flatMap_map, hfrom]

theorem elems_of_aloneBytes {a k : Nat} (heq : memBytes t a ((k - 0) * R.size) = aloneBytes s R 0 k) :
    ∀ i, i < k → memBytes t (a + i * R.size) R.size = aloneElem s R i := by
  have hflat : ((List.range k).flatMap fun i => memBytes t (a + i * R.size) R.size) = (List.range k).flatMap (aloneElem s R) := by
    rw [← memBytes_flatMap]
    simpa [aloneBytes] using heq
  exact flatMap_range_inj (fun _ => memBytes_length ..) (aloneElem_length s R) hflat

/-- The values that a member which sums reads of its source. -/
def ownValues (s : State) (R : RedRun) : List Word :=
  (List.range R.elems).map fun i => f32enc (decodeElem R.fmt (memNat s (R.src + i * R.size) R.size))

theorem ownValues_slice {lo hi : Nat} (hhi : hi ≤ R.elems) : ((ownValues s R).drop lo).take (hi - lo) =
    (List.range (hi - lo)).map fun i => f32enc (decodeElem R.fmt (memNat s (R.src + (lo + i) * R.size) R.size)) := by
  apply List.ext_getElem
  · simp [ownValues]; omega
  · intro i _ _
    simp [ownValues]

/-- What a half's write finds: no memory error stands, the values are the member's own, and the source is untouched. -/
structure ReadyToWrite (u s : State) (R : RedRun) : Prop where
  poison : s.poison = []
  vals : R.mode ≠ 1 → R.val = ownValues u R
  source : ∀ a, R.src ≤ a → a < R.src + R.elems * R.size → memByte s a = memByte u a

section Owned

variable (hready : ReadyToWrite u s R) {lo hi : Nat} (howned : ownedRange R h = (lo, hi)) (hhi : hi ≤ R.elems) (p : Fin 4) (c : Cmd)
include hready howned hhi

theorem writeOwned_bits (hle : lo ≤ hi) (hmode : R.mode = 1) :
    (writeOwned s p c R h).2 = true ∧ Deposits [(R.dst + lo * R.size, aloneBytes u R lo hi)] s (writeOwned s p c R h).1 := by
  have hend : lo * R.size + (hi - lo) * R.size ≤ R.elems * R.size := by
    rw [← Nat.add_mul]
    exact Nat.mul_le_mul_right _ (by omega)
  have hsource : memBytes s (R.src + lo * R.size) ((hi - lo) * R.size) = memBytes u (R.src + lo * R.size) ((hi - lo) * R.size) :=
    List.map_congr_left fun k hk => by
      have hlt := List.mem_range.1 hk
      exact hready.source _ (by omega) (by omega)
  have hbits : memBytes s (R.src + lo * R.size) ((hi - lo) * R.size) = aloneBytes u R lo hi := by
    rw [hsource, memBytes_flatMap, aloneBytes]
    simp only [aloneElem, if_pos hmode, Nat.add_mul, Nat.add_assoc]
  have hnoted : Moved false false s (noteAccess s p c.e.ctrSet (R.src + lo * R.size) ((hi - lo) * R.size)) := noteAccess_moved ..
  have hpoison := hnoted.poison.trans hready.poison
  unfold writeOwned
  simp only [howned, if_pos hmode, unitRead_of_no_poison hready.poison, hbits]
  exact ⟨unitWrite_stored hpoison .., (unitWrite_deposits hpoison ..).ofQuiet (.ofMoved hnoted)⟩

theorem writeOwned_sums (hmode : R.mode ≠ 1) :
    (writeOwned s p c R h).2 = true ∧ Deposits [(R.dst + lo * R.size, aloneBytes u R lo hi)] s (writeOwned s p c R h).1 := by
  have hcodes : ((((R.val.drop lo).take (hi - lo)).map fun v => convertElem R.fmt .rne false false (f32dec v)).flatMap
      fun v => leBytes R.size v.code) = aloneBytes u R lo hi := by
    rw [hready.vals hmode, ownValues_slice hhi, List.map_map, List.flatMap_map, aloneBytes]
    simp only [aloneElem, if_neg hmode, Function.comp_def]
  have hcounted (a b : Nat) : Moved false false s (noteCounts s p c.q c.e.seq c.e.ctrSet a b 0) := noteCounts_moved ..
  have hpoison (a b : Nat) := (hcounted a b).poison.trans hready.poison
  unfold writeOwned
  simp only [howned, if_neg hmode, hcodes]
  exact ⟨unitWrite_stored (hpoison ..) .., (unitWrite_deposits (hpoison ..) ..).ofQuiet (.ofMoved (hcounted ..))⟩

theorem writeOwned_alone (hle : lo ≤ hi) :
    (writeOwned s p c R h).2 = true ∧ Deposits [(R.dst + lo * R.size, aloneBytes u R lo hi)] s (writeOwned s p c R h).1 := by
  by_cases hmode : R.mode = 1
  · exact writeOwned_bits hready howned hhi p c hle hmode
  · exact writeOwned_sums hready howned hhi p c hmode

end Owned

theorem kickHalf_alone (hdims : R.dims = []) (hnew : noted R (writtenNote h) = false) (s : State) (p : Fin 4) (c : Cmd) :
    kickHalf s p c R h = ((writeOwned s p c R h).1, note R (writtenNote h) 0 0, (writeOwned s p c R h).2) := by
  have hstages (has : Bool) (f : State × RedRun → Nat → State × RedRun) (x : State × RedRun) : stages has f [] x = x := by
    unfold stages
    split <;> rfl
  have hsummed : halfSummed s p c R h = ((writeOwned s p c R h).1, note R (writtenNote h) 0 0, (writeOwned s p c R h).2) := by
    unfold halfSummed halfWritten
    rw [hdims, hstages]
    exact if_pos (by simp [hnew])
  rw [kickHalf_eq, hsummed, halfGathered, hdims, List.reverse_nil, hstages]

theorem Deposits.append {xs ys : List (Nat × List Byte)} {v : State} (h : Deposits xs s t) (k : Deposits ys t v)
    (hapart : Apart (xs ++ ys)) : Deposits (xs ++ ys) s v where
  holds := h.holds.append k.holds hapart
  poison := k.poison.trans h.poison
  names x := (k.names x).trans (h.names x)

/-- Two ranges that touch are one. -/
theorem Deposits.join {a : Nat} {xs ys : List Byte} (h : Deposits [(a, xs), (a + xs.length, ys)] s t) : Deposits [(a, xs ++ ys)] s t where
  holds := by
    obtain ⟨hlines, hframe⟩ := h.holds
    have hxs : memBytes t a xs.length = xs := hlines (a, xs) (by simp)
    have hys : memBytes t (a + xs.length) ys.length = ys := hlines (a + xs.length, ys) (by simp)
    refine ⟨fun x hx => ?_, fun b hb => hframe b fun x hx => ?_⟩
    · rw [List.mem_singleton.1 hx, List.length_append, memBytes_append, hxs, hys]
    · have hout := hb (a, xs ++ ys) (by simp)
      rw [List.length_append] at hout
      obtain rfl | rfl : x = (a, xs) ∨ x = (a + xs.length, ys) := by simpa using hx
      · dsimp only at *; omega
      · dsimp only at *; omega
  poison := h.poison
  names := h.names

theorem noted_note (R : RedRun) (k lo n : Nat) : noted (note R k lo n) k = true := by simp [noted, note]

theorem noted_note_of_noted {k : Nat} (hk : noted R k = true) (m lo n : Nat) : noted (note R m lo n) k = true := by
  simp only [noted, note, List.any_append, Bool.or_eq_true] at hk ⊢
  exact .inl hk

theorem exchangeDone_alone (hdims : R.dims = []) (hwritten : ∀ h ∈ halfList R, noted R (writtenNote h) = true) :
    exchangeDone R = true := List.all_eq_true.2 fun h hh => by simp [hdims, hwritten h hh]

/-- After the first half's write the second finds its source as it was. -/
theorem readyToWrite_second (hready : ReadyToWrite u s R) (hb : bucketFields R = true)
    (hfirst : Deposits [(R.dst, aloneBytes u R 0 (R.elems / 2))] s t) :
    ReadyToWrite u t (note R (writtenNote 0) 0 0) where
  poison := hfirst.poison.trans hready.poison
  vals := hready.vals
  source a ha hend := by
    have ha' : R.src ≤ a := ha
    have hend' : a < R.src + R.elems * R.size := hend
    have happart := bucketFields_apart hb
    have hhalf : (R.elems / 2 - 0) * R.size ≤ R.elems * R.size := Nat.mul_le_mul_right _ (by omega)
    rw [hfirst.holds.2 a fun x hx => ?_, hready.source a ha hend]
    rw [List.mem_singleton.1 hx, aloneBytes_length]
    omega

/-- The halves have been begun: the whole result is written, and the exchange is done. -/
def WrittenWhole (u s : State) (p : Fin 4) (c : Cmd) (R : RedRun) : Prop :=
  ∃ got, (halvesKicked s p c R).2 = ({ R with got := got }, true) ∧ exchangeDone { R with got := got } = true ∧
    Deposits [(R.dst, aloneBytes u R 0 R.elems)] s (halvesKicked s p c R).1

section Halves

variable (hready : ReadyToWrite u s R) (hdims : R.dims = []) (hb : bucketFields R = true) (hgot : R.got = []) (p : Fin 4) (c : Cmd)
include hready hdims hb hgot

theorem halvesKicked_of_one (hbidir : R.bidir ≠ true) : WrittenWhole u s p c R := by
  have hkick := kickHalf_alone hdims (by simp [noted, hgot]) s p c (h := 0)
  have howned : ownedRange R 0 = (0, R.elems) := by rw [ownedRange_of_alone hdims hb, halfRange, if_neg hbidir]
  obtain ⟨hstored, hdeposits⟩ := writeOwned_alone hready howned (Nat.le_refl _) p c (Nat.zero_le _)
  have hkicked : halvesKicked s p c R = ((writeOwned s p c R 0).1, note R (writtenNote 0) 0 0, true) := by
    simp only [halvesKicked, halfList, if_neg hbidir, List.foldl_cons, List.foldl_nil, kickNext, hkick, hstored, Bool.and_self]
  rw [WrittenWhole, hkicked]
  refine ⟨_, rfl, exchangeDone_alone hdims fun h hh => ?_, by simpa using hdeposits⟩
  have hh' : h ∈ halfList R := hh
  obtain rfl : h = 0 := by simpa [halfList, hbidir] using hh'
  exact noted_note ..

theorem halvesKicked_of_two (hbidir : R.bidir = true) : WrittenWhole u s p c R := by
  have howned := ownedRange_of_alone hdims hb
  have howned0 : ownedRange R 0 = (0, R.elems / 2) := by
    rw [howned, halfRange, if_pos hbidir, splitRange]; simp
  have howned1 : ownedRange R 1 = (R.elems / 2, R.elems) := by
    rw [howned, halfRange, if_pos hbidir, splitRange]; simp
  obtain ⟨hstored0, hdeposits0⟩ := writeOwned_alone hready howned0 (Nat.div_le_self ..) p c (Nat.zero_le _)
  have hfirst : Deposits [(R.dst, aloneBytes u R 0 (R.elems / 2))] s (writeOwned s p c R 0).1 := by simpa using hdeposits0
  have hready1 := readyToWrite_second hready hb hfirst
  obtain ⟨hstored1, hdeposits1⟩ := writeOwned_alone hready1 howned1 (Nat.le_refl _) p c (Nat.div_le_self ..)
  have hplace : R.dst + R.elems / 2 * R.size = R.dst + (aloneBytes u R 0 (R.elems / 2)).length := by
    rw [aloneBytes_length, Nat.sub_zero]
  have hsecond : Deposits [(R.dst + (aloneBytes u R 0 (R.elems / 2)).length, aloneBytes u R (R.elems / 2) R.elems)]
      (writeOwned s p c R 0).1 (writeOwned (writeOwned s p c R 0).1 p c (note R (writtenNote 0) 0 0) 1).1 := hplace ▸ hdeposits1
  have hkick0 := kickHalf_alone hdims (by simp [noted, hgot]) s p c (h := 0)
  have hkick1 := kickHalf_alone (R := note R (writtenNote 0) 0 0) hdims (h := 1) (by simp [noted, note, hgot, writtenNote])
    (writeOwned s p c R 0).1 p c
  have hkicked : halvesKicked s p c R = ((writeOwned (writeOwned s p c R 0).1 p c (note R (writtenNote 0) 0 0) 1).1,
      note (note R (writtenNote 0) 0 0) (writtenNote 1) 0 0, true) := by
    simp only [halvesKicked, halfList, if_pos hbidir, List.foldl_cons, List.foldl_nil, kickNext, hkick0, hkick1, hstored0, hstored1,
      Bool.and_self]
  rw [WrittenWhole, hkicked]
  refine ⟨_, rfl, exchangeDone_alone hdims fun h hh => ?_, ?_⟩
  · have hh' : h ∈ halfList R := hh
    obtain rfl | rfl : h = 0 ∨ h = 1 := by simpa [halfList, hbidir] using hh'
    · exact noted_note_of_noted (noted_note ..) ..
    · exact noted_note ..
  · rw [← aloneBytes_append u R (Nat.zero_le _) (Nat.div_le_self R.elems 2)]
    exact (hfirst.append hsecond (by simp [Apart])).join

theorem halvesKicked_alone : WrittenWhole u s p c R := by
  by_cases hbidir : R.bidir = true
  · exact halvesKicked_of_two hready hdims hb hgot p c hbidir
  · exact halvesKicked_of_one hready hdims hb hgot p c hbidir

end Halves

/-! ## The attempt of a member that is alone (R262) -/

/-- A REDUCE with no neighbour: no child, no dimension, and at the root of its tree. -/
structure Alone (R : RedRun) : Prop where
  dims : R.dims = []
  kids : R.kids = 0
  root : R.parent = 0xFF
  norm : R.norm = false
  fields : bucketFields R = true

theorem childArrivals_of_no_kids {kids : BitVec 6} (h : kids = 0) (P : Polder) (id : Word) (ok : DWord → Bool) :
    childArrivals P id kids ok = some [] := by
  subst h
  rfl

theorem writePartial_of_no_norm (h : R.norm = false) (s : State) (p : Fin 4) (c : Cmd) : writePartial s p c R = (s, true) :=
  if_pos (by simp [h])

theorem closeAdvance_alone (h : Alone R) (hsent : R.sent = false) (s : State) (p : Fin 4) (c : Cmd) :
    closeAdvance s p c R = redCommit (dropArrivals s p R.tag (closingOf R.attempt)) p c R := by
  simp [closeAdvance, hsent, childArrivals_of_no_kids h.kids, h.root]

theorem redKick_of_done {R' : RedRun} (hkicked : (halvesKicked s p c R).2 = (R', true)) (hdone : exchangeDone R' = true) :
    redKick s p c R = exchangeClosed (halvesKicked s p c R).1 p c R' := by
  rw [redKick_eq, hkicked]
  simp [hdone]

theorem exchangeClosed_alone (h : Alone R) (s : State) (p : Fin 4) (c : Cmd) : exchangeClosed s p c R =
    redCommit (dropArrivals s p R.tag (closingOf R.attempt)) p c { R with phase := .closing, sent := false } := by
  have hclosing : Alone { R with phase := .closing, sent := false } := ⟨h.dims, h.kids, h.root, h.norm, h.fields⟩
  rw [exchangeClosed, writePartial_of_no_norm h.norm]
  exact closeAdvance_alone hclosing rfl ..

theorem commitBytes_length (R : RedRun) (n : Word) : (commitBytes R n).length = 16 := by
  simp [commitBytes, withComp, leBytes_length]

/-- The whole attempt: the result, then the commit cell. -/
theorem redKick_alone (hready : ReadyToWrite u s R) (h : Alone R) (hgot : R.got = [])
    (hcell : R.commit + 16 ≤ R.dst ∨ R.dst + R.elems * R.size ≤ R.commit) (p : Fin 4) (c : Cmd) :
    ∃ t, redKick s p c R = setAreas (endCmd t p c.q c.e.seq .ok) p c.q c.e.seq [] ∧
      Deposits [(R.dst, aloneBytes u R 0 R.elems), (R.commit, commitBytes R c.step)] s t := by
  obtain ⟨got, hkicked, hdone, hdeposits⟩ := halvesKicked_alone hready h.dims h.fields hgot p c
  have hrun : Alone { R with got := got } := ⟨h.dims, h.kids, h.root, h.norm, h.fields⟩
  obtain ⟨t, hcommit, hcommitted⟩ := redCommit_deposits (s := dropArrivals (halvesKicked s p c R).1 p R.tag (closingOf R.attempt))
    (hdeposits.poison.trans hready.poison) p c { R with got := got, phase := .closing, sent := false }
  refine ⟨t, ?_, hdeposits.append (hcommitted.ofQuiet (dropArrivals_quiet ..)) ?_⟩
  · rw [redKick_of_done hkicked hdone, exchangeClosed_alone hrun]
    exact hcommit
  · have hplaces : R.dst + (aloneBytes u R 0 R.elems).length ≤ R.commit ∨ R.commit + (commitBytes R c.step).length ≤ R.dst := by
      rw [aloneBytes_length, commitBytes_length, Nat.sub_zero]
      exact hcell.symm
    exact List.pairwise_pair.2 hplaces

/-- The run of an attempt that begins, with the values of the member. -/
def attemptRun (R : RedRun) (attempt : Nat) (vals : List Word) : RedRun :=
  { R with phase := .exchange, attempt := attempt, got := [], sent := false, val := vals }

theorem redBegin_of_gather (h : R.scatters = false) (s : State) (p : Fin 4) (c : Cmd) (attempt : Nat) :
    redBegin s p c R attempt = redKick (attemptReleased s p R attempt) p c (attemptRun R attempt R.val) := if_pos (congrArg not h)

theorem redBegin_of_read {attempt : Nat} {bs : List Byte} (h : R.scatters = true)
    (hread : (unitRead (attemptReleased s p R attempt) p c.e.ctrSet R.src (R.elems * R.size)).2 = some bs) :
    redBegin s p c R attempt = redKick (noteAccess (attemptReleased s p R attempt) p c.e.ctrSet R.src (R.elems * R.size)) p c
      (attemptRun R attempt ((List.range R.elems).map fun i => f32enc (decodeElem R.fmt (fld bs (i * R.size) R.size)))) := by
  unfold redBegin
  dsimp only
  split
  · next hgathers => exact absurd ((congrArg not h).symm.trans hgathers) nofun
  · split
    · next hnone => exact absurd (hnone.symm.trans hread) nofun
    · next hsome =>
      obtain rfl := Option.some.inj (hsome.symm.trans hread)
      rfl

/-- An attempt of a member that is alone begins with the values of its own source, as the command found it. -/
theorem redBegin_alone (hquiet : Quiet u s) (hpoison : u.poison = []) (hmode : R.mode < 3) (attempt : Nat) (p : Fin 4) (c : Cmd) :
    ∃ t vals, redBegin s p c R attempt = redKick t p c (attemptRun R attempt vals) ∧
      ReadyToWrite u t (attemptRun R attempt vals) ∧ Quiet u t := by
  have hreleased : Quiet u (attemptReleased s p R attempt) :=
    hquiet.trans (.trans (.modPolder s p) (.ofSending (releaseKids_sending ..)))
  cases hscatters : R.scatters with
  | false =>
    have hgathers : R.mode = 1 := by
      simp only [RedRun.scatters, Bool.or_eq_false_iff, beq_eq_false_iff_ne] at hscatters
      omega
    exact ⟨_, _, redBegin_of_gather hscatters .., ⟨hreleased.poison.trans hpoison, fun hsums => absurd hgathers hsums,
      fun a _ _ => hreleased.memByte a⟩, hreleased⟩
  | true =>
    have hread : Quiet u (noteAccess (attemptReleased s p R attempt) p c.e.ctrSet R.src (R.elems * R.size)) :=
      hreleased.trans (.ofMoved (tiles := false) (noteAccess_moved ..))
    have hvals : ((List.range R.elems).map fun i => f32enc (decodeElem R.fmt
        (fld (memBytes (attemptReleased s p R attempt) R.src (R.elems * R.size)) (i * R.size) R.size))) = ownValues u R :=
      List.map_congr_left fun i hi => by
        have hle : i * R.size + R.size ≤ R.elems * R.size := by
          rw [← Nat.succ_mul]
          exact Nat.mul_le_mul_right _ (List.mem_range.1 hi)
        rw [fld_memBytes _ _ _ _ _ hle, hreleased.memNat]
    exact ⟨_, _, redBegin_of_read hscatters (unitRead_of_no_poison (hreleased.poison.trans hpoison) ..),
      ⟨hread.poison.trans hpoison, fun _ => hvals, fun a _ _ => hread.memByte a⟩, hread⟩

/-- The number of the attempt that the root releases (R263). -/
def nextAttempt (s : State) (p : Fin 4) (R : RedRun) : Nat := (tabGet 0 (polder s p).attempts R.tag.toNat + 1) % 65536

/-- A REDUCE of a member that is alone runs through at its start. -/
theorem startAdvance_alone (hquiet : Quiet u s) (hpoison : u.poison = []) (h : Alone R) (hsent : R.sent = false) (hmode : R.mode < 3)
    (hcell : R.commit + 16 ≤ R.dst ∨ R.dst + R.elems * R.size ≤ R.commit) (p : Fin 4) (c : Cmd) :
    ∃ t, startAdvance s p c R = setAreas (endCmd t p c.q c.e.seq .ok) p c.q c.e.seq [] ∧
      Deposits [(R.dst, aloneBytes u R 0 R.elems), (R.commit, commitBytes R c.step)] u t := by
  obtain ⟨v, vals, hbegin, hready, hbegun⟩ := redBegin_alone (hquiet.trans (dropArrivals_quiet s p R.tag startOf)) hpoison hmode
    (nextAttempt (dropArrivals s p R.tag startOf) p R) p c
  have hrun : Alone (attemptRun R (nextAttempt (dropArrivals s p R.tag startOf) p R) vals) :=
    ⟨h.dims, h.kids, h.root, h.norm, h.fields⟩
  obtain ⟨t, hkick, hdeposits⟩ := redKick_alone hready hrun rfl hcell p c
  have hstart : startAdvance s p c R = redBegin (dropArrivals s p R.tag startOf) p c R
      (nextAttempt (dropArrivals s p R.tag startOf) p R) := by
    simp [startAdvance, hsent, childArrivals_of_no_kids h.kids, h.root, nextAttempt]
  exact ⟨t, hstart.trans (hbegin.trans hkick), hdeposits.ofQuiet hbegun⟩

end Sys2Proof.Machine
end

section
/-! SUPPORT. BARRIER and REDUCE at command start (R256, R260-R262, R277, R278), with the statement on them. -/

namespace Sys2Proof.Machine

variable {s t u : State} {p : Fin 4} {q : Fin 16} {e : Entry} {c : Cmd} {b : BarRun} {r : RedRun} {v : DWord} {vs : List DWord}
  {n : Word}

/-! ## A command that has started -/

theorem isSome_cmdAt_startCmd (s : State) (p : Fin 4) (q : Fin 16) (e : Entry) : (cmdAt (startCmd s p q e) p q e.seq).isSome = true := by
  obtain ⟨x, hinflight, he, hq, -⟩ := (startCmd_started s p q e).inflight
  rw [cmdAt, List.find?_isSome]
  exact ⟨x, by simp [hinflight], by simp [he, hq]⟩

/-- What a tree reads of a polder is not what units move. -/
theorem Moved.childArrivals {writes tiles : Bool} (h : Moved writes tiles s t) (p : Fin 4) (id : Word) (kids : BitVec 6)
    (ok : DWord → Bool) : childArrivals (polder t p) id kids ok = Machine.childArrivals (polder s p) id kids ok := by
  rw [(h.carries p).1]; rfl

theorem Moved.storedRelease {writes tiles : Bool} (h : Moved writes tiles s t) (p : Fin 4) (set : Nat) (id : Word) :
    storedRelease (polder t p) set id = Machine.storedRelease (polder s p) set id := by
  rw [(h.carries p).1]; rfl

/-! ## BARRIER -/

/-- The run of a BARRIER, its own value read. -/
def barOf (s : State) (p : Fin 4) (q : Fin 16) (e : Entry) : BarRun := readBar (startCmd s p q e) (memBytes s e.desc.toNat 64)

/-- A BARRIER in flight. -/
def barBegun (s : State) (p : Fin 4) (q : Fin 16) (e : Entry) : State :=
  noteAccess (setAreas (setBody (startCmd s p q e) p q e.seq (.barrier (barOf s p q e))) p q e.seq
    [{ host := false, addr := (barOf s p q e).result, lines := 1, bytes := 8, stride := 0 }]) p e.ctrSet
    (addrOf (memBytes s e.desc.toNat 64) 0x10) 8

theorem barBegun_moved (s : State) (p : Fin 4) (q : Fin 16) (e : Entry) : Moved false false (startCmd s p q e) (barBegun s p q e) :=
  (setBody_moved ..).trans ((setAreas_moved ..).trans (noteAccess_moved ..))

section Barrier

variable (hok : startOk s p q e 0x12 = true) (hchecks : barChecks s p e = none)
  (hc : cmdAt (barBegun s p q e) p q e.seq = some c)
include hok hchecks hc

theorem doBarrier_of_stored (hstored : storedRelease (polder (startCmd s p q e) p) (portSet (barOf s p q e).parent (barOf s p q e).kids)
    (barOf s p q e).id = some v) : doBarrier p q e s = barResult (barBegun s p q e) p c (barOf s p q e) v := by
  have hkept := (barBegun_moved s p q e).storedRelease p (portSet (barOf s p q e).parent (barOf s p q e).kids) (barOf s p q e).id
  unfold doBarrier
  rw [runEntry_of_passed hok hchecks]
  dsimp only
  split
  · next hnone => exact absurd (hnone.symm.trans hc) nofun
  · next hsome =>
    obtain rfl := Option.some.inj (hsome.symm.trans hc)
    split
    · next hv =>
      obtain rfl := Option.some.inj (hv.symm.trans (hkept.trans hstored))
      rfl
    · next hnone => exact absurd (hnone.symm.trans (hkept.trans hstored)) nofun

theorem doBarrier_of_new (hstored : storedRelease (polder (startCmd s p q e) p) (portSet (barOf s p q e).parent (barOf s p q e).kids)
    (barOf s p q e).id = none) : doBarrier p q e s = barAdvance (barBegun s p q e) p c (barOf s p q e) := by
  have hkept := (barBegun_moved s p q e).storedRelease p (portSet (barOf s p q e).parent (barOf s p q e).kids) (barOf s p q e).id
  unfold doBarrier
  rw [runEntry_of_passed hok hchecks]
  dsimp only
  split
  · next hnone => exact absurd (hnone.symm.trans hc) nofun
  · next hsome =>
    obtain rfl := Option.some.inj (hsome.symm.trans hc)
    split
    · next hv => exact absurd (hv.symm.trans (hkept.trans hstored)) nofun
    · rfl

end Barrier

/-! ## REDUCE -/

/-- The run of a REDUCE at its start. -/
def redOf (s : State) (p : Fin 4) (q : Fin 16) (e : Entry) : RedRun :=
  { readRed (memBytes s e.desc.toNat 128) with
    attempt := tabGet 0 (polder (startCmd s p q e) p).attempts (readRed (memBytes s e.desc.toNat 128)).tag.toNat }

/-- What a REDUCE of the modes 0 to 2 does once its commit cell has been read. -/
def redStarted (s : State) (p : Fin 4) (q : Fin 16) (e : Entry) : State :=
  setAreas (noteAccess (startCmd s p q e) p e.ctrSet (redOf s p q e).commit 16) p q e.seq (redAreas (redOf s p q e))

theorem redStarted_moved (s : State) (p : Fin 4) (q : Fin 16) (e : Entry) : Moved false false (startCmd s p q e) (redStarted s p q e) :=
  (noteAccess_moved ..).trans (setAreas_moved ..)

/-- What a norm-final does once its table has been read. -/
def finalStarted (s : State) (p : Fin 4) (q : Fin 16) (e : Entry) : State :=
  noteAccess (setAreas (startCmd s p q e) p q e.seq (redAreas (redOf s p q e))) p e.ctrSet (redOf s p q e).normTable
    (16 * (redOf s p q e).buckets)

theorem finalStarted_moved (s : State) (p : Fin 4) (q : Fin 16) (e : Entry) : Moved false false (startCmd s p q e) (finalStarted s p q e) :=
  (setAreas_moved ..).trans (noteAccess_moved ..)

section Reduce

variable (hok : startOk s p q e 0x07 = true) (hchecks : redChecks s p e = none) (hc : cmdAt (startCmd s p q e) p q e.seq = some c)
include hok hchecks hc

theorem doReduce_of_badTable {st : Status} (hmode : (redOf s p q e).mode = 3)
    (hst : partialChecks (startCmd s p q e) (redOf s p q e) c.step = some st) :
    doReduce p q e s = endCmd (startCmd s p q e) p q e.seq st := by
  unfold doReduce
  rw [runEntry_of_passed hok hchecks]
  simp only [hc]
  refine (if_pos hmode).trans ?_
  split
  · next hst' =>
    obtain rfl := Option.some.inj (hst'.symm.trans hst)
    rfl
  · next hnone => exact absurd (hnone.symm.trans hst) nofun

theorem doReduce_of_final (hmode : (redOf s p q e).mode = 3) (hnone : partialChecks (startCmd s p q e) (redOf s p q e) c.step = none) :
    doReduce p q e s = finalAdvance (finalStarted s p q e) p c
      { redOf s p q e with phase := .final, sum := partialSum (startCmd s p q e) (redOf s p q e) } := by
  unfold doReduce
  rw [runEntry_of_passed hok hchecks]
  simp only [hc]
  refine (if_pos hmode).trans ?_
  split
  · next hst => exact absurd (hst.symm.trans hnone) nofun
  · rfl

theorem doReduce_of_committed (hmode : (redOf s p q e).mode ≠ 3) (hdone : committed (startCmd s p q e) (redOf s p q e) c.step = true) :
    doReduce p q e s = endCmd (if (redOf s p q e).parent = 0xFF
        then noteAccess (startCmd s p q e) p e.ctrSet (redOf s p q e).commit 16
        else sendArrival (noteAccess (startCmd s p q e) p e.ctrSet (redOf s p q e).commit 16) p (redOf s p q e).parent 0 (redOf s p q e).tag
          (closingMark ||| attemptWord (redOf s p q e).attempt)) p q e.seq .ok := by
  unfold doReduce
  rw [runEntry_of_passed hok hchecks]
  simp only [hc]
  exact (if_neg hmode).trans (if_pos hdone)

theorem doReduce_of_new (hmode : (redOf s p q e).mode ≠ 3) (hnew : committed (startCmd s p q e) (redOf s p q e) c.step = false) :
    doReduce p q e s = startAdvance (redStarted s p q e) p c (redOf s p q e) := by
  unfold doReduce
  rw [runEntry_of_passed hok hchecks]
  simp only [hc]
  exact (if_neg hmode).trans (if_neg (Bool.eq_false_iff.1 hnew))

end Reduce

theorem startAdvance_of_member (hsent : r.sent = false) (harrived : childArrivals (polder s p) r.tag r.kids startOf = some vs)
    (hmember : r.parent ≠ 0xFF) : startAdvance s p c r =
      setRed (sendArrival (dropArrivals s p r.tag startOf) p r.parent 0 r.tag (attemptWord r.attempt)) p c { r with sent := true } := by
  simp [startAdvance, hsent, harrived, hmember]

theorem finalAdvance_of_root (hsent : r.sent = false) (harrived : childArrivals (polder s p) r.tag r.kids anyPayloadOk = some vs)
    (hroot : r.parent = 0xFF) : finalAdvance s p c r = finalRelease s p c r (vs.foldl (barrierOp 5) (pairWord r.sum)) := by
  simp [finalAdvance, hsent, harrived, hroot]

/-- A norm-final at the root, its children's arrivals there. -/
theorem doReduce_of_final_root (hok : startOk s p q e 0x07 = true) (hchecks : redChecks s p e = none) (hpoison : s.poison = [])
    (hc : cmdAt (startCmd s p q e) p q e.seq = some c) (hmode : (redOf s p q e).mode = 3)
    (hnone : partialChecks (startCmd s p q e) (redOf s p q e) c.step = none) (hroot : (redOf s p q e).parent = 0xFF)
    (hvs : childArrivals (polder (startCmd s p q e) p) (redOf s p q e).tag (redOf s p q e).kids anyPayloadOk = some vs) :
    ∃ t, doReduce p q e s = endCmd t p c.q c.e.seq .ok ∧ Deposits [((redOf s p q e).normCell,
      normBytes (vs.foldl (barrierOp 5) (pairWord (partialSum (startCmd s p q e) (redOf s p q e)))) c.step)] (startCmd s p q e) t := by
  have hmoved := finalStarted_moved s p q e
  have harrived := (hmoved.childArrivals p (redOf s p q e).tag (redOf s p q e).kids anyPayloadOk).trans hvs
  obtain ⟨t, hend, hdeposits⟩ := finalRelease_deposits (hmoved.poison.trans (startCmd_unpoisoned hpoison)) p c
    { redOf s p q e with phase := .final, sum := partialSum (startCmd s p q e) (redOf s p q e) }
    (vs.foldl (barrierOp 5) (pairWord (partialSum (startCmd s p q e) (redOf s p q e))))
  refine ⟨t, (doReduce_of_final hok hchecks hc hmode hnone).trans (.trans ?_ hend), hdeposits.ofQuiet (.ofMoved hmoved)⟩
  exact finalAdvance_of_root (r := { redOf s p q e with phase := .final, sum := partialSum (startCmd s p q e) (redOf s p q e) })
    rfl harrived hroot

/-! ## The statement -/

/-- Settles O47: each command start is its `doBarrier_of_` or `doReduce_of_` case; what the root, a stored release and a member that is
alone write is `Deposits`. -/
theorem collectivesCombineWhatEveryChildSends : Obligations.CollectivesCombineWhatEveryChildSends := by
  unfold Obligations.CollectivesCombineWhatEveryChildSends
  intro s p q e u d b u1 stored result
  refine ⟨fun hok hchecks hpoison => ?_, fun c hok hchecks hpoison hc => ?_⟩
  · have hmoved : Moved false false u u1 := barBegun_moved s p q e
    have hu1 : u1.poison = [] := hmoved.poison.trans (startCmd_unpoisoned hpoison)
    obtain ⟨c, hc⟩ := Option.isSome_iff_exists.1 (hmoved.cmdAt_isSome (isSome_cmdAt_startCmd s p q e))
    obtain ⟨hq, hseq⟩ := cmdAt_key hc
    have hresult {v w : DWord} {t : State} (hdo : doBarrier p q e s = endCmd t p c.q c.e.seq .ok)
        (hdeposits : Deposits [(b.result, leBytes 8 w.toNat)] u1 t) (hlow : w.toNat % 2 ^ 32 = v.toNat % 2 ^ 32)
        (hwhole : b.op = 0 ∨ b.op = 5 → w = v) : result v := by
      have hholds := (hdeposits.ofQuiet (.ofMoved hmoved)).holds
      refine ⟨t, congrArg Host.Outcome.next (by rw [hdo, hq, hseq]), (hholds.memNat (by decide)).trans hlow, fun hop => ?_,
        fun a ha => ?_⟩
      · rw [hholds.memNat (Nat.le_refl 8), hwhole hop]
        exact Nat.mod_eq_of_lt v.isLt
      · refine hholds.2 a fun x hx => ?_
        rw [List.mem_singleton.1 hx, leBytes_length]
        exact ha
    refine ⟨fun v hv => ?_, fun hv hnone => ?_, fun vs hv hvs => ?_⟩
    · obtain ⟨t, hend, hdeposits⟩ := barResult_deposits hu1 p c b v
      exact hresult ((doBarrier_of_stored hok hchecks hc hv).trans hend) hdeposits rfl fun _ => rfl
    · have hwait : childArrivals (polder u1 p) b.id b.kids anyPayloadOk = none := (hmoved.childArrivals ..).trans hnone
      exact congrArg Host.Outcome.next ((doBarrier_of_new hok hchecks hc hv).trans (barAdvance_of_waiting hwait))
    · have harrived : childArrivals (polder u1 p) b.id b.kids anyPayloadOk = some vs := (hmoved.childArrivals ..).trans hvs
      refine ⟨fun hroot => ?_, fun hmember => ?_⟩
      · obtain ⟨t, hend, hdeposits⟩ := barRelease_deposits hu1 p c b (rootResult b.op (vs.foldl (barrierOp b.op) b.own))
        exact hresult ((doBarrier_of_new hok hchecks hc hv).trans ((barAdvance_of_root rfl harrived hroot).trans hend)) hdeposits
          (rootResult_low ..) fun hop => rootResult_whole hop _
      · exact congrArg Host.Outcome.next ((doBarrier_of_new hok hchecks hc hv).trans ((barAdvance_of_member rfl harrived hmember).trans
          (by rw [hq, hseq])))
  · intro d r uc u2 elem
    obtain ⟨hq, hseq⟩ := cmdAt_key hc
    have hu : u.poison = [] := startCmd_unpoisoned hpoison
    have hmoved : Moved false false u u2 := redStarted_moved s p q e
    refine ⟨fun st hmode hst => ?_, fun vs hmode hnone hroot hvs => ?_, fun hmode hdone => ?_, fun hmode hnew hnone => ?_,
      fun vs hmode hnew hvs hmember => ?_, fun hmode hfields hnew hroot hkids hdims hnorm hcell => ?_⟩
    · exact congrArg Host.Outcome.next (doReduce_of_badTable hok hchecks hc hmode hst)
    · obtain ⟨t, hend, hdeposits⟩ := doReduce_of_final_root hok hchecks hpoison hc hmode hnone hroot hvs
      exact ⟨t, congrArg Host.Outcome.next (hend.trans (by rw [hq, hseq])), hdeposits.holds⟩
    · exact congrArg Host.Outcome.next (doReduce_of_committed hok hchecks hc hmode hdone)
    · have hwait : childArrivals (polder u2 p) r.tag r.kids startOf = none := (hmoved.childArrivals ..).trans hnone
      refine congrArg Host.Outcome.next ((doReduce_of_new hok hchecks hc hmode hnew).trans ?_)
      exact (startAdvance_of_waiting rfl hwait).trans (by rw [setRed, hq, hseq])
    · have harrived : childArrivals (polder u2 p) r.tag r.kids startOf = some vs := (hmoved.childArrivals ..).trans hvs
      refine congrArg Host.Outcome.next ((doReduce_of_new hok hchecks hc hmode hnew).trans ?_)
      exact (startAdvance_of_member rfl harrived hmember).trans (by rw [setRed, hq, hseq])
    · have hnot3 : r.mode ≠ 3 := by omega
      have halone : Alone r := ⟨hdims, hkids, hroot, hnorm, hfields⟩
      obtain ⟨t, hend, hdeposits⟩ := startAdvance_alone (.ofMoved hmoved) hu halone rfl hmode hcell p c
      obtain ⟨hlines, hframe⟩ := hdeposits.holds
      have hresult : memBytes t r.dst (aloneBytes u r 0 r.elems).length = aloneBytes u r 0 r.elems :=
        hlines (r.dst, aloneBytes u r 0 r.elems) (List.mem_cons_self ..)
      have hcommit : memBytes t r.commit (commitBytes r c.step).length = commitBytes r c.step :=
        hlines (r.commit, commitBytes r c.step) (List.mem_cons_of_mem _ (List.mem_singleton_self _))
      rw [aloneBytes_length] at hresult
      rw [commitBytes_length] at hcommit
      refine ⟨t, congrArg Host.Outcome.next ((doReduce_of_new hok hchecks hc hnot3 hnew).trans (hend.trans (by rw [hq, hseq]))), hcommit,
        elems_of_aloneBytes hresult, fun a hdst hcell => hframe a fun x hx => ?_⟩
      obtain rfl | rfl : x = (r.dst, aloneBytes u r 0 r.elems) ∨ x = (r.commit, commitBytes r c.step) := by simpa using hx
      · simpa [aloneBytes_length] using hdst
      · simpa [commitBytes_length] using hcell

end Sys2Proof.Machine
end

section
/-! SUPPORT. Messages taken off a stream (R252, R253, R259, R263, R264, R268), with the statement on them. -/

namespace Sys2Proof.Machine

variable {s t u : State} {p x : Fin 4} {j : Fin 6} {cls : Fin 4} {q : Fin 16} {n id : Word} {m : Msg} {rest bs : List Byte} {c : Cmd}
  {r : RedRun}

theorem SameMem.trans (h : SameMem s t) (k : SameMem t u) : SameMem s u := ⟨k.1.trans h.1, k.2.trans h.2⟩

theorem Flooding.liveCmd (h : Flooding p s t) (x : Fin 4) (q : Fin 16) (n : Word) : liveCmd t x q n = Machine.liveCmd s x q n := by
  obtain ⟨ivs, hx⟩ := h.polder x
  unfold Machine.liveCmd cmdAt
  rw [hx]
  rfl

/-! ## A message taken -/

/-- The message at the head of a stream taken, and counted under the polder's key. -/
def msgTaken (s : State) (p : Fin 4) (j : Fin 6) (cls : Fin 4) (rest : List Byte) : State :=
  bumpIv (popMsg s j cls rest) p (rxChannel j) cls

/-- Port P with the stream of a class cut to its rest, and the credits that it frees owed. -/
def streamCut (P : Port) (cls : Fin 4) (rest : List Byte) : Port :=
  { P with streams := vmod P.streams cls fun _ => rest,
           owed := vmod P.owed cls (· + (((P.streams.get cls).length + 495) / 496 - (rest.length + 495) / 496)) }

theorem popMsg_transmits (s : State) (j : Fin 6) (cls : Fin 4) (rest : List Byte) :
    Transmits (streamCut (port s j) cls rest) (port (popMsg s j cls rest) j) := by
  rw [popMsg, port_modPort_self]
  exact fillSlots_transmits (streamCut (port s j) cls rest)

theorem popMsg_flooding (s : State) (p : Fin 4) (j : Fin 6) (cls : Fin 4) (rest : List Byte) : Flooding p s (popMsg s j cls rest) :=
  modPort_flooding ..

theorem msgTaken_transmits (s : State) (p : Fin 4) (j : Fin 6) (cls : Fin 4) (rest : List Byte) :
    Transmits (streamCut (port s j) cls rest) (port (msgTaken s p j cls rest) j) := popMsg_transmits s j cls rest

theorem msgTaken_flooding (s : State) (p : Fin 4) (j : Fin 6) (cls : Fin 4) (rest : List Byte) :
    Flooding p s (msgTaken s p j cls rest) := (popMsg_flooding ..).trans (bumpIv_flooding ..)

/-! ## Refusals (R252, R268) -/

/-- What a write has stored so far, undefined. -/
def landedSpoilt (s : State) (j : Fin 6) (id : Word) : State :=
  ((port s j).landed.filter fun x => x.1 == id).foldl (fun s x => spoil s x.2.1 x.2.2) s

/-- A write refused on its port. -/
def refusalNoted (s : State) (j : Fin 6) (id : Word) : State :=
  modPort s j fun P => { P with landed := P.landed.filter (fun x => x.1 != id), refused := P.refused ++ [id] }

theorem refuseWrite_eq (s : State) (j : Fin 6) (m : Msg) :
    refuseWrite s j m = refuseMsg (refusalNoted (landedSpoilt s j m.id) j m.id) j m := rfl

theorem landedSpoilt_of_new (h : ∀ x ∈ (port s j).landed, x.1 ≠ id) : landedSpoilt s j id = s := by
  have hnone : ((port s j).landed.filter fun x => x.1 == id) = [] := List.filter_eq_nil_iff.2 fun x hx => by simpa using h x hx
  rw [landedSpoilt, hnone]
  rfl

theorem landedSpoilt_beside (s : State) (j : Fin 6) (id : Word) :
    (landedSpoilt s j id).polders = s.polders ∧ (landedSpoilt s j id).ports = s.ports :=
  List.foldlRecOn (motive := fun t : State => t.polders = s.polders ∧ t.ports = s.ports) _ _ ⟨rfl, rfl⟩ fun _ h _ _ => h

theorem polders_refuseWrite (s : State) (j : Fin 6) (m : Msg) : (refuseWrite s j m).polders = s.polders := by
  rw [refuseWrite_eq, refuseMsg, sendPlain, flush, modPort_polders, modPort_polders, refusalNoted, modPort_polders,
    (landedSpoilt_beside s j m.id).1]

theorem refused_refuseWrite (s : State) (j : Fin 6) (m : Msg) :
    (port (refuseWrite s j m) j).refused = (port s j).refused ++ [m.id] := by
  have hport : port (landedSpoilt s j m.id) j = port s j := congrArg (Vector.get · j) (landedSpoilt_beside s j m.id).2
  rw [refuseWrite_eq, ((refuseMsg_sending _ 0 j m).ports j).refused, refusalNoted, port_modPort_self, hport]

theorem refuseWrite_sameMem (h : ∀ x ∈ (port s j).landed, x.1 ≠ m.id) : SameMem s (refuseWrite s j m) := by
  rw [refuseWrite_eq, landedSpoilt_of_new h]
  exact ((modPort_flooding s 0 j _).trans (refuseMsg_sending _ 0 j m).flooding).sameMem

theorem polders_badMsg (s : State) (j : Fin 6) (m : Msg) : (badMsg s j m).polders = s.polders := by
  unfold badMsg
  rw [modPort_polders]
  split
  · exact polders_refuseWrite ..
  · rfl

theorem badMsg_sameMem (h : m.kind = 1 → ∀ x ∈ (port s j).landed, x.1 ≠ m.id) : SameMem s (badMsg s j m) := by
  unfold badMsg
  split
  · next hkind => exact (refuseWrite_sameMem (h hkind)).trans (modPort_flooding _ 0 j _).sameMem
  · exact ((refuseMsg_sending s 0 j m).flooding.trans (modPort_flooding _ 0 j _)).sameMem

theorem st_badMsg (s : State) (j : Fin 6) (m : Msg) : (port (badMsg s j m) j).st = .retraining := by
  rw [badMsg, port_modPort_self]

theorem badMsg_of_write (h : m.kind = 1) (s : State) :
    badMsg s j m = modPort (refuseWrite s j m) j fun P => { P with st := .retraining } := by
  rw [badMsg, if_pos h]

/-! ## The rows' cases -/

section Rows

variable (hup : portUp (port s j) = true)
include hup

theorem doWriteDataReceived_bad (hhead : headMsg (port s j) 2 = some (m, rest)) (hkind : m.kind = 1) (howner : (port s j).owner = some p)
    (hopen : openMsg s p j 2 m = none) : doWriteDataReceived j s = badMsg (msgTaken s p j 2 rest) j m := by
  simp [doWriteDataReceived, hup, hhead, hkind, howner, hopen, msgTaken]

theorem doWriteDataReceived_opened (hhead : headMsg (port s j) 2 = some (m, rest)) (hkind : m.kind = 1)
    (howner : (port s j).owner = some p) (hopen : openMsg s p j 2 m = some bs) :
    doWriteDataReceived j s = landWrite (msgTaken s p j 2 rest) p j m bs := by
  simp [doWriteDataReceived, hup, hhead, hkind, howner, hopen, msgTaken]

theorem doWriteDataReceived_unowned (hhead : headMsg (port s j) 2 = some (m, rest)) (hkind : m.kind = 1)
    (howner : (port s j).owner = none) : doWriteDataReceived j s = refuseWrite (popMsg s j 2 rest) j m := by
  simp [doWriteDataReceived, hup, hhead, hkind, howner]

theorem doWriteDoneReceived_bad (hhead : headMsg (port s j) 2 = some (m, rest)) (hkind : m.kind = 2) (howner : (port s j).owner = some p)
    (hopen : openMsg s p j 2 m = none) : doWriteDoneReceived j s = badMsg (msgTaken s p j 2 rest) j m := by
  simp [doWriteDoneReceived, hup, hhead, hkind, howner, hopen, msgTaken]

theorem doWriteDoneReceived_opened (hhead : headMsg (port s j) 2 = some (m, rest)) (hkind : m.kind = 2)
    (howner : (port s j).owner = some p) (hopen : openMsg s p j 2 m = some bs) :
    doWriteDoneReceived j s = if m.flags = 1 then endRemote (msgTaken s p j 2 rest) p m.id .ok
      else confirmWrite (msgTaken s p j 2 rest) p j m bs := by
  simp [doWriteDoneReceived, hup, hhead, hkind, howner, hopen, msgTaken]

theorem doWriteDoneReceived_unowned (hhead : headMsg (port s j) 2 = some (m, rest)) (hkind : m.kind = 2)
    (howner : (port s j).owner = none) : doWriteDoneReceived j s = refuseWrite (popMsg s j 2 rest) j m := by
  simp [doWriteDoneReceived, hup, hhead, hkind, howner]

theorem doCollectiveDataReceived_bad (hhead : headMsg (port s j) 1 = some (m, rest)) (hkind : m.kind = 3)
    (howner : (port s j).owner = some p) (hopen : openMsg s p j 1 m = none) :
    doCollectiveDataReceived j s = badMsg (msgTaken s p j 1 rest) j m := by
  simp [doCollectiveDataReceived, hup, hhead, hkind, howner, hopen, msgTaken]

theorem doCollectiveDataReceived_unowned (hhead : headMsg (port s j) 1 = some (m, rest)) (hkind : m.kind = 3)
    (howner : (port s j).owner = none) : doCollectiveDataReceived j s = refuseMsg (popMsg s j 1 rest) j m := by
  simp [doCollectiveDataReceived, hup, hhead, hkind, howner]

/-- What becomes of a collective message that opens. -/
def collected (s t : State) : Collected → State
  | .wait => s
  | .drop => t
  | .take u => u

theorem doCollectiveDataReceived_opened (hhead : headMsg (port s j) 1 = some (m, rest)) (hkind : m.kind = 3)
    (howner : (port s j).owner = some p) (hopen : openMsg s p j 1 m = some bs) :
    doCollectiveDataReceived j s = collected s (msgTaken s p j 1 rest)
      (takeCollective (msgTaken s p j 1 rest) p j m.id m.attempt m.addr bs) := by
  simp only [doCollectiveDataReceived, hup, hhead, hkind, howner, hopen, Bool.not_true, Bool.false_eq_true, if_false, ne_eq,
    not_true_eq_false]
  split <;> next htake => exact (congrArg (collected s (msgTaken s p j 1 rest)) htake).symm

theorem doManagementMessageReceived_of (hhead : headMsg (port s j) 3 = some (m, rest)) (hkind : m.kind = 4 ∨ m.kind = 5) :
    doManagementMessageReceived j s = manage (popMsg s j 3 rest) j m := by
  simp only [doManagementMessageReceived, hup, hhead, hkind, Bool.not_true, Bool.false_eq_true, if_false, if_true]

end Rows

/-! ## Writes (R252, R253) -/

theorem memWrite_holds (h : s.poison = []) (a : Nat) (bs : List Byte) : Holds s (memWrite s a bs).1 [(a, bs)] :=
  foldl_lines (f := fun s x => (memWrite s x.1 x.2).1) (P := fun s => s.poison = [])
    (fun _ _ h => (memWrite_moved (tiles := false) h ..).poison.trans h) (fun _ _ a h => byte_memWrite h _ _ a)
    (List.pairwise_singleton _ _) h

/-- A write landed on its port, its traffic counted. -/
def writeLanded (s : State) (p : Fin 4) (j : Fin 6) (m : Msg) (bs : List Byte) : State :=
  modPort (touch (memWrite s m.addr bs).1 p m.addr bs.length) j fun P =>
    { P with landed := P.landed ++ [(m.id, m.addr, bs.length)] }

theorem landWrite_inside (hin : inPeerWindow (polder s p) m.addr bs.length = true) (hpoison : s.poison = []) :
    landWrite s p j m bs = writeLanded s p j m bs := by
  simp [landWrite, hin, memWrite_stores hpoison, writeLanded]

theorem landWrite_outside (hout : inPeerWindow (polder s p) m.addr bs.length = false) : landWrite s p j m bs = refuseWrite s j m := by
  simp [landWrite, hout]

theorem writeLanded_beside (s : State) (p : Fin 4) (j : Fin 6) (m : Msg) (bs : List Byte) : BesideQueues p s (writeLanded s p j m bs) :=
  (touch_beside (memWrite_beside (.refl p s))).same rfl rfl rfl

theorem writeLanded_holds (h : s.poison = []) (p : Fin 4) (j : Fin 6) (m : Msg) (bs : List Byte) :
    Holds s (writeLanded s p j m bs) [(m.addr, bs)] :=
  .sameMem (t := touch (memWrite s m.addr bs).1 p m.addr bs.length)
    (.moved (tiles := false) (.refl s) (memWrite_holds h ..) (touch_moved ..)) ⟨rfl, rfl⟩

theorem landed_writeLanded (s : State) (p : Fin 4) (j : Fin 6) (m : Msg) (bs : List Byte) :
    (port (writeLanded s p j m bs) j).landed = (port s j).landed ++ [(m.id, m.addr, bs.length)] := by
  have hports : (touch (memWrite s m.addr bs).1 p m.addr bs.length).ports = s.ports := by
    rw [touch_eq, memWrite_eq]
  have hport : port (touch (memWrite s m.addr bs).1 p m.addr bs.length) j = port s j := congrArg (Vector.get · j) hports
  rw [writeLanded, port_modPort_self, hport]

/-! ## Answers (R253) -/

/-- The write's marks on its port gone. -/
def marksCleared (s : State) (j : Fin 6) (id : Word) : State :=
  modPort s j fun P => { P with landed := P.landed.filter (fun x => x.1 != id), refused := P.refused.filter (· != id) }

theorem confirmWrite_refused (h : m.id ∈ (port s j).refused) (p : Fin 4) (bs : List Byte) :
    confirmWrite s p j m bs = marksCleared s j m.id := if_pos (by simpa using h)

theorem confirmWrite_confirmed (h : m.id ∉ (port s j).refused) (p : Fin 4) (bs : List Byte) : confirmWrite s p j m bs =
    sendSealed (if fld bs 0 2 < 4096 then signal (marksCleared s j m.id) p (fld bs 0 2) 0 else marksCleared s j m.id) p j 2 1 m.id 0 0
      (zeros 16) := if_neg (by simpa using h)

/-- No MOVE waits under the ID any more. -/
def answered (s : State) (p : Fin 4) (id : Word) : State :=
  modPolder s p fun P => { P with remoteOut := P.remoteOut.filter fun x => x.1 != id }

theorem liveCmd_answered (s : State) (p : Fin 4) (id : Word) (q : Fin 16) (n : Word) :
    liveCmd (answered s p id) p q n = liveCmd s p q n := by
  unfold liveCmd cmdAt
  rw [answered, polder_modPolder_self]
  rfl

section Remote

variable {w : Word} (hwait : (polder s p).remoteOut.find? (fun x => x.1 == id) = some (w, q, n)) (hlive : liveCmd s p q n = some c)
include hwait hlive

theorem endRemote_ok :
    endRemote s p id .ok = endCmd (countAdd (answered s p id) p c.e.ctrSet 6 16) p q n .ok := by
  have hlive' : liveCmd (modPolder s p fun P => { P with remoteOut := P.remoteOut.filter fun x => x.1 != id }) p q n = some c :=
    (liveCmd_answered s p id q n).trans hlive
  simp [endRemote, hwait, hlive', answered]

theorem endRemote_failed {st : Status} (hst : st ≠ .ok) : endRemote s p id st = failCmd (answered s p id) p q n st := by
  have hlive' : liveCmd (modPolder s p fun P => { P with remoteOut := P.remoteOut.filter fun x => x.1 != id }) p q n = some c :=
    (liveCmd_answered s p id q n).trans hlive
  simp [endRemote, hwait, hlive', answered, hst]

end Remote

end Sys2Proof.Machine
end

section
/-! SUPPORT. Collective data and management messages (R259, R263, R264, R266, R273), and the statement on messages. -/

namespace Sys2Proof.Machine

variable {s t u : State} {p x : Fin 4} {j : Fin 6} {cls : Fin 4} {q : Fin 16} {n id : Word} {m : Msg} {rest bs : List Byte} {c : Cmd}
  {r : RedRun}

/-! ## Collective data -/

theorem Quiet.foldl {α : Type} {f : State → α → State} (hf : ∀ s x, Quiet s (f s x)) (xs : List α) (s : State) :
    Quiet s (xs.foldl f s) := List.foldlRecOn xs f (.refl s) fun _ h x _ => h.trans (hf _ x)

theorem Quiet.ite (c : Prop) [Decidable c] (h : Quiet s t) (k : Quiet s u) : Quiet s (if c then t else u) := by
  split
  · exact h
  · exact k

theorem countAdd_quiet (s : State) (p : Fin 4) (set : BitVec 16) (i : Fin 14) (n : Nat) : Quiet s (countAdd s p set i n) :=
  .ofMoved (tiles := false) (countAdd_moved ..)

theorem queuePiece_quiet (s : State) (p : Fin 4) (c : Cmd) (r : RedRun) (j : Fin 6) (o : Nat) (payload : List Byte) :
    Quiet s (queuePiece s p c r j o payload) := .trans (.ofSending (queueSealed_sending ..)) (countAdd_quiet ..)

theorem sendSums_quiet (s : State) (p : Fin 4) (c : Cmd) (r : RedRun) (h d lo hi : Nat) : Quiet s (sendSums s p c r h d lo hi) :=
  .trans (.foldl (fun _ _ => queuePiece_quiet ..) _ s) (.ofSending (flush_sending _ p _))

theorem sendBits_quiet (s : State) (p : Fin 4) (c : Cmd) (r : RedRun) (h d lo hi : Nat) : Quiet s (sendBits s p c r h d lo hi) :=
  .trans (.foldl (fun _ _ => queuePiece_quiet ..) _ s) (.ofSending (flush_sending _ p _))

/-- The words of a payload of partial sums. -/
def payloadWords (bs : List Byte) : List Word := (List.range (bs.length / 4)).map fun i => BitVec.ofNat 32 (fld bs (4 * i) 4)

section Collect

variable {h d o : Nat} (hstage : stageFor r j o = some (h, d))
include hstage

theorem collect_early (hsum : isSum r h d o = true) (hready : scatterReady r h d = false) : collect s p c r j o bs = .wait := by
  simp [collect, hstage, hsum, hready]

theorem collect_sums (hsum : isSum r h d o = true) (hready : scatterReady r h d = true) : ∃ u, collect s p c r j o bs =
    .take (redKick u p c (note (addSums r o (payloadWords bs)) (stageOf h d false) o (payloadWords bs).length)) ∧ Quiet s u := by
  refine ⟨if chunkAt r h d o = r.pos d then countAdd s p c.e.ctrSet 6 bs.length else sendSums (countAdd s p c.e.ctrSet 6 bs.length) p c
    (note (addSums r o (payloadWords bs)) (stageOf h d false) o (payloadWords bs).length) h d o (o + (payloadWords bs).length), ?_,
    .ite _ (countAdd_quiet ..) ((countAdd_quiet ..).trans (sendSums_quiet ..))⟩
  simp only [collect, hstage, hsum, hready, if_true, Bool.not_true, Bool.false_eq_true, if_false]
  rfl

theorem collect_bits (hsum : isSum r h d o = false) (hpoison : s.poison = []) : ∃ u, collect s p c r j o bs =
    .take (redKick u p c (note r (stageOf h d true) o (bs.length / r.size))) ∧ Holds s u [(r.dst + o * r.size, bs)] := by
  have hcounted := countAdd_quiet s p c.e.ctrSet 6 bs.length
  have hpoison' := hcounted.poison.trans hpoison
  have hstored := unitWrite_stored hpoison' p c.e.ctrSet (r.dst + o * r.size) bs
  have hdeposits := (unitWrite_deposits hpoison' p c.e.ctrSet (r.dst + o * r.size) bs).ofQuiet hcounted
  refine ⟨_, ?_, (hdeposits.thenQuiet (.ite (chunkAt r h d o = nextPos r h d) (.refl _) (sendBits_quiet _ p c
    (note r (stageOf h d true) o (bs.length / r.size)) h d o (o + bs.length / r.size)))).holds⟩
  simp only [collect, hstage, hsum, hstored, Bool.not_true, Bool.false_eq_true, if_false]
  rfl

end Collect

/-- A REDUCE of a tag that exchanges data. -/
def exchanges (tag : Word) (c : Cmd) : Bool :=
  match c.body with
  | .reduce r => r.tag == tag && r.mode != 3
  | _ => false

theorem takeCollective_of_expired (h : (polder s p).timedOut.contains id = true) (attempt o : Nat) :
    takeCollective s p j id attempt o bs = .drop := if_pos h

theorem takeCollective_of_early (hlive : (polder s p).timedOut.contains id = false)
    (hnone : (liveCmds (polder s p)).find? (exchanges id) = none) (attempt o : Nat) : takeCollective s p j id attempt o bs = .wait := by
  unfold takeCollective
  refine (if_neg (Bool.eq_false_iff.1 hlive)).trans ?_
  split
  · rfl
  · next hfound => exact absurd (hfound.symm.trans hnone) nofun

theorem takeCollective_of_running (hlive : (polder s p).timedOut.contains id = false)
    (hfound : (liveCmds (polder s p)).find? (exchanges id) = some c) (hbody : c.body = .reduce r) (hphase : r.phase = .exchange) (o : Nat) :
    takeCollective s p j id r.attempt o bs = collect s p c r j o bs := by
  unfold takeCollective
  refine (if_neg (Bool.eq_false_iff.1 hlive)).trans ?_
  split
  · next hnone => exact absurd (hnone.symm.trans hfound) nofun
  · next hfound' =>
    obtain rfl := Option.some.inj (hfound'.symm.trans hfound)
    simp only [hbody, hphase, if_true]

theorem find_exchanges_none {P : Polder} (h : ∀ c ∈ liveCmds P, ∀ r, c.body = .reduce r → r.tag ≠ id) :
    (liveCmds P).find? (exchanges id) = none := by
  refine List.find?_eq_none.2 fun c hc => ?_
  unfold exchanges
  split
  · next r hbody => simp [h c hc r hbody]
  · exact nofun

/-! ## Lane switches (R273) -/

theorem modPort_eq_self {f : Port → Port} (h : f (port s j) = port s j) : modPort s j f = s := by
  have hset : s.ports.set j (port s j) = s.ports := by simp [port, Vector.get_eq_getElem]
  calc modPort s j f
    _ = { s with ports := s.ports.set j (f (port s j)) } := rfl
    _ = s := by rw [h, hset]

theorem settleSwitches_undue (h : ∀ w ∈ (port s j).switchAt, switchDue (port s j) w = false) : settleSwitches s j = s := by
  have hdue : (port s j).switchAt.filter (switchDue (port s j)) = [] := List.filter_eq_nil_iff.2 fun w hw => by simp [h w hw]
  have hkept : (port s j).switchAt.filter (fun w => !switchDue (port s j) w) = (port s j).switchAt :=
    List.filter_eq_self.2 fun w hw => by simp [h w hw]
  simp only [settleSwitches, hdue, List.foldl_nil]
  exact modPort_eq_self (by rw [hkept])

/-- The port of a switch message: its sequence noted. -/
def switchNoted (s : State) (j : Fin 6) (m : Msg) : State :=
  modPort s j fun P => { P with switchAt := P.switchAt ++ [(false, fld m.payload 0 1, BitVec.ofNat 12 (fld m.payload 2 2))] }

/-! ## Management messages -/

theorem manage_hello (hkind : m.kind = 4) (hflags : m.flags = 1) :
    manage s j m = if fld m.payload 0 2 = 0x4832 then s else modPort s j idlePort := by simp [manage, hkind, hflags]

theorem manage_refusal (hkind : m.kind = 4) (hflags : m.flags = 2) :
    manage s j m = refused s j (BitVec.ofNat 32 (fld m.payload 0 4)) (fld m.payload 4 1) := by simp [manage, hkind, hflags]

theorem manage_switch (hkind : m.kind = 4) (hflags : m.flags = 3) : manage s j m = settleSwitches (switchNoted s j m) j := by
  simp [manage, hkind, hflags, switchNoted]

theorem manage_token (hkind : m.kind = 5) : manage s j m = fallbackToken s j (tokenOf m.payload) := by simp [manage, hkind]

theorem refused_of_write {kind : Nat} (howner : (port s j).owner = some p) (hkind : kind ≠ 3) :
    refused s j id kind = endRemote s p id .accessDenied := by simp [refused, howner, hkind]

/-! ## What the rows leave of the polder -/

/-- From s to t memory stays, and of polder p its commands and its events do. -/
structure KeptBy (p : Fin 4) (s t : State) : Prop where
  sameMem : SameMem s t
  inflight : (polder t p).inflight = (polder s p).inflight
  events : (polder t p).events = (polder s p).events

theorem KeptBy.ofFlooding (h : Flooding p s t) : KeptBy p s t := ⟨h.sameMem, h.inflight p, h.events p⟩

theorem KeptBy.ofPolders (hmem : SameMem s t) (h : t.polders = s.polders) : KeptBy p s t :=
  have hp : polder t p = polder s p := congrArg (Vector.get · p) h
  ⟨hmem, by rw [hp], by rw [hp]⟩

theorem KeptBy.trans (h : KeptBy p s t) (k : KeptBy p t u) : KeptBy p s u :=
  ⟨h.sameMem.trans k.sameMem, k.inflight.trans h.inflight, k.events.trans h.events⟩

/-- A message that does not authenticate acts on nothing (R268). -/
structure Dropped (p : Fin 4) (j : Fin 6) (m : Msg) (s t : State) : Prop where
  inflight : (polder t p).inflight = (polder s p).inflight
  events : (polder t p).events = (polder s p).events
  st : (port t j).st = .retraining
  sameMem : (m.kind = 1 → ∀ x ∈ (port s j).landed, x.1 ≠ m.id) → SameMem s t
  refused : m.kind = 1 → (port t j).refused = (port s j).refused ++ [m.id]

theorem badMsg_dropped (s : State) (p : Fin 4) (j : Fin 6) (cls : Fin 4) (rest : List Byte) (m : Msg) :
    Dropped p j m s (badMsg (msgTaken s p j cls rest) j m) := by
  have htook := msgTaken_flooding s p j cls rest
  have hport := msgTaken_transmits s p j cls rest
  have hpolder : polder (badMsg (msgTaken s p j cls rest) j m) p = polder (msgTaken s p j cls rest) p :=
    congrArg (Vector.get · p) (polders_badMsg ..)
  refine ⟨?_, ?_, st_badMsg .., fun hnone => ?_, fun hkind => ?_⟩
  · rw [hpolder, htook.inflight]
  · rw [hpolder, htook.events]
  · refine htook.sameMem.trans (badMsg_sameMem fun hkind => ?_)
    rw [hport.landed]
    exact hnone hkind
  · rw [badMsg_of_write hkind, port_modPort_self, refused_refuseWrite, hport.refused]
    rfl

theorem refuseWrite_keeps (h : ∀ x ∈ (port s j).landed, x.1 ≠ m.id) (p : Fin 4) : KeptBy p s (refuseWrite s j m) :=
  .ofPolders (refuseWrite_sameMem h) (polders_refuseWrite ..)

theorem confirmWrite_keeps (h : m.id ∈ (port s j).refused ∨ 4096 ≤ fld bs 0 2) (p : Fin 4) :
    KeptBy p s (confirmWrite s p j m bs) := by
  have hcleared : KeptBy p s (marksCleared s j m.id) := .ofFlooding (modPort_flooding ..)
  by_cases hrefused : m.id ∈ (port s j).refused
  · rw [confirmWrite_refused hrefused]
    exact hcleared
  · rw [confirmWrite_confirmed hrefused, if_neg (by have := h.resolve_left hrefused; omega)]
    exact hcleared.trans (.ofFlooding (sendSealed_sending ..).flooding)

/-- A confirmed write signals its event (R253). -/
theorem confirmWrite_signals (hrefused : m.id ∉ (port s j).refused) (hev : fld bs 0 2 < 4096) (p : Fin 4) :
    SameMem s (confirmWrite s p j m bs) ∧
      tabGet 0 (polder (confirmWrite s p j m bs) p).events (fld bs 0 2) = tabGet 0 (polder s p).events (fld bs 0 2) + 1 := by
  have hcleared : Flooding p s (marksCleared s j m.id) := modPort_flooding ..
  have hsent := (sendSealed_sending (signal (marksCleared s j m.id) p (fld bs 0 2) 0) p j 2 1 m.id 0 0 (zeros 16)).flooding
  rw [confirmWrite_confirmed hrefused, if_pos hev]
  refine ⟨hcleared.sameMem.trans (.trans ⟨rfl, rfl⟩ hsent.sameMem), ?_⟩
  rw [hsent.events, events_signal, if_pos rfl, hcleared.events]
  rfl

section Remote

variable {w : Word} (hwait : (polder s p).remoteOut.find? (fun x => x.1 == id) = some (w, q, n)) (hlive : liveCmd s p q n = some c)
include hwait hlive

theorem endRemote_ends : SameMem s (endRemote s p id .ok) ∧ EndedWith (endRemote s p id .ok) p q n .ok := by
  have hcmd : (cmdAt (answered s p id) p q n).isSome = true := by
    rw [cmdAt_of_liveCmd ((liveCmd_answered s p id q n).trans hlive)]
    rfl
  rw [endRemote_ok hwait hlive]
  have hmem : SameMem s (answered s p id) := ⟨rfl, rfl⟩
  have hended : Moved false false (countAdd (answered s p id) p c.e.ctrSet 6 16) (endCmd _ p q n .ok) := modCmd_moved _ p q n
  exact ⟨(hmem.trans (countAdd_quiet ..).sameMem).trans hended.sameMem, res_endCmd _ ((countAdd_quiet ..).cmdAt_isSome hcmd)⟩

theorem endRemote_fails {st : Status} (hst : st ≠ .ok) : EndedWith (endRemote s p id st) p q n st := by
  rw [endRemote_failed hwait hlive hst]
  exact failCmd_ends (cmdAt_of_liveCmd ((liveCmd_answered s p id q n).trans hlive)) st

end Remote

/-- What waits for an answer, and what works, is not what a message's count moves. -/
theorem Flooding.remote (h : Flooding p s t) {w : Word}
    (hwait : (Machine.polder s p).remoteOut.find? (fun x => x.1 == id) = some (w, q, n)) :
    (Machine.polder t p).remoteOut.find? (fun x => x.1 == id) = some (w, q, n) := by rw [h.remoteOut, hwait]

theorem Flooding.liveCmds (h : Flooding p s t) : liveCmds (Machine.polder t p) = Machine.liveCmds (Machine.polder s p) := by
  rw [Machine.liveCmds, h.inflight, Machine.liveCmds]

theorem Flooding.timedOut (h : Flooding p s t) : (Machine.polder t p).timedOut = (Machine.polder s p).timedOut := by
  obtain ⟨ivs, hp⟩ := h.polder p
  rw [hp]

theorem Flooding.inPeerWindow (h : Flooding p s t) (a n : Nat) :
    inPeerWindow (Machine.polder t p) a n = Machine.inPeerWindow (Machine.polder s p) a n := by
  obtain ⟨ivs, hp⟩ := h.polder p
  rw [hp]
  rfl

/-! ### A lane switch that the neighbour names -/

section Switch

variable (hsettled : (port s j).switchAt = [])
include hsettled

theorem port_switchNoted (rest : List Byte) : port (switchNoted (popMsg s j 3 rest) j m) j = { port (popMsg s j 3 rest) j with
    switchAt := [(false, fld m.payload 0 1, BitVec.ofNat 12 (fld m.payload 2 2))] } := by
  have hpop : (port (popMsg s j 3 rest) j).switchAt = [] := (popMsg_transmits s j 3 rest).switchAt.trans hsettled
  rw [switchNoted, port_modPort_self, hpop]
  rfl

theorem switchDue_noted (rest : List Byte) : switchDue (port (switchNoted (popMsg s j 3 rest) j m) j)
      (false, fld m.payload 0 1, BitVec.ofNat 12 (fld m.payload 2 2)) =
    decide (((port s j).rxNext - BitVec.ofNat 12 (fld m.payload 2 2)).toNat < 2048) := by
  have hnext : (port (popMsg s j 3 rest) j).rxNext = (port s j).rxNext := (popMsg_transmits s j 3 rest).rxNext
  rw [port_switchNoted hsettled, switchDue]
  simp [hnext]

theorem switchAt_switchNoted (rest : List Byte) : (port (switchNoted (popMsg s j 3 rest) j m) j).switchAt =
    [(false, fld m.payload 0 1, BitVec.ofNat 12 (fld m.payload 2 2))] := by rw [port_switchNoted hsettled]

theorem settleSwitches_early (hearly : 2048 ≤ ((port s j).rxNext - BitVec.ofNat 12 (fld m.payload 2 2)).toNat) (rest : List Byte) :
    settleSwitches (switchNoted (popMsg s j 3 rest) j m) j = switchNoted (popMsg s j 3 rest) j m := by
  refine settleSwitches_undue fun w hw => ?_
  rw [switchAt_switchNoted hsettled, List.mem_singleton] at hw
  rw [hw, switchDue_noted hsettled]
  exact decide_eq_false (by omega)

theorem badLanes_settleSwitches_due (hdue : ((port s j).rxNext - BitVec.ofNat 12 (fld m.payload 2 2)).toNat < 2048)
    (hst : (port s j).st = .up) (hlane : (port s j).badLanes.contains (fld m.payload 0 1) = false) (rest : List Byte) :
    (port (settleSwitches (switchNoted (popMsg s j 3 rest) j m) j) j).badLanes = (port s j).badLanes ++ [fld m.payload 0 1] := by
  have hpop := popMsg_transmits s j 3 rest
  have hport : port (modPort (switchNoted (popMsg s j 3 rest) j m) j fun P => { P with switchAt := [] }) j =
      { port (popMsg s j 3 rest) j with switchAt := [] } := by rw [port_modPort_self, port_switchNoted hsettled]
  have hbad : (port (popMsg s j 3 rest) j).badLanes = (port s j).badLanes := hpop.badLanes
  rw [settleSwitches_lone (switchAt_switchNoted hsettled rest) ((switchDue_noted hsettled rest).trans (decide_eq_true hdue)),
    port_loseLane (by rw [hport]; exact hpop.st.trans hst) (by rw [hport, hbad]; exact hlane), hport, hbad]

end Switch

/-! ## The statement -/

/-- Settles O51: a message is taken from its stream, which moves no polder but by its counts; what it then does is its row's case. -/
theorem messagesActOnlyWhenAuthentic : Obligations.MessagesActOnlyWhenAuthentic := by
  unfold Obligations.MessagesActOnlyWhenAuthentic
  intro s j p m rest bs hup P kept bad took ended isTree
  have htook (cls : Fin 4) : Flooding p s (msgTaken s p j cls rest) := msgTaken_flooding ..
  have hport (cls : Fin 4) : Transmits (streamCut (port s j) cls rest) (port (msgTaken s p j cls rest) j) := msgTaken_transmits ..
  have hlanded : (port (msgTaken s p j 2 rest) j).landed = (port s j).landed := (hport 2).landed
  have hrefused : (port (msgTaken s p j 2 rest) j).refused = (port s j).refused := (hport 2).refused
  have hbad {i : Instr} {cls : Fin 4} {kind : Nat} (hdo : headMsg (port s j) cls = some (m, rest) → m.kind = kind →
      openMsg s p j cls m = none → exec i s = .next (badMsg (msgTaken s p j cls rest) j m)) : bad i cls kind := by
    intro hhead hkind hopen
    obtain ⟨hinflight, hevents, hst, hmem, hrefused⟩ := badMsg_dropped s p j cls rest m
    rw [hkind] at hmem hrefused
    exact ⟨_, hdo hhead hkind hopen, hinflight, hevents, hst, hmem, hrefused⟩
  refine ⟨fun howner => ⟨?_, ?_, ?_, fun hhead hkind hopen => ⟨fun hin hpoison => ?_, fun hout hnone => ?_⟩,
    fun hhead hkind hopen => ⟨fun hflags hid hev => ?_, fun hflags hnot => ?_, fun w q n c hflags hwait hlive => ?_⟩,
    fun hhead hkind hopen => ⟨fun hexpired => ?_, fun hlive hnone => ?_, fun c r h d hlive hfound hbody hphase hattempt hstage => ?_⟩,
    fun w q n c hhead hkind hflags hrefusal hwait hlive => ?_⟩, fun howner => ⟨fun hhead hkind => ?_, fun hhead hkind => ?_,
    fun hhead hkind => ?_⟩, fun hhead => ⟨fun hkind hflags => ?_, fun hkind hflags hst hsettled => ?_, fun hkind => ?_⟩⟩
  · exact hbad fun hhead hkind hopen => congrArg Host.Outcome.next (doWriteDataReceived_bad hup hhead hkind howner hopen)
  · exact hbad fun hhead hkind hopen => congrArg Host.Outcome.next (doWriteDoneReceived_bad hup hhead hkind howner hopen)
  · exact hbad fun hhead hkind hopen => congrArg Host.Outcome.next (doCollectiveDataReceived_bad hup hhead hkind howner hopen)
  · have hpoison' := (htook 2).poison.trans hpoison
    have hbeside := writeLanded_beside (msgTaken s p j 2 rest) p j m bs
    refine ⟨_, congrArg Host.Outcome.next ((doWriteDataReceived_opened hup hhead hkind howner hopen).trans
      (landWrite_inside (((htook 2).inPeerWindow ..).trans hin) hpoison')),
      (Quiet.ofFlooding (htook 2)).holds (writeLanded_holds hpoison' ..), hbeside.inflight.trans ((htook 2).inflight p),
      hbeside.hostMem.trans (htook 2).hostMem, ?_⟩
    rw [landed_writeLanded, hlanded]
  · obtain ⟨hmem, hinflight, hevents⟩ := (KeptBy.ofFlooding (htook 2)).trans
      (refuseWrite_keeps (j := j) (m := m) (by rw [hlanded]; exact hnone) p)
    refine ⟨_, congrArg Host.Outcome.next ((doWriteDataReceived_opened hup hhead hkind howner hopen).trans
      (landWrite_outside (((htook 2).inPeerWindow ..).trans hout))), ⟨hmem, hinflight, hevents⟩, ?_⟩
    rw [refused_refuseWrite, hrefused]
  · have hid' : m.id ∉ (port (msgTaken s p j 2 rest) j).refused := by rw [hrefused]; exact hid
    obtain ⟨hmem, hsignalled⟩ := confirmWrite_signals hid' hev p
    refine ⟨_, congrArg Host.Outcome.next ((doWriteDoneReceived_opened hup hhead hkind howner hopen).trans (if_neg hflags)),
      (htook 2).sameMem.trans hmem, ?_⟩
    rw [hsignalled, (htook 2).events]
  · obtain ⟨hmem, hinflight, hevents⟩ := (KeptBy.ofFlooding (htook 2)).trans
      (confirmWrite_keeps (j := j) (m := m) (bs := bs) (by rw [hrefused]; exact hnot) p)
    exact ⟨_, congrArg Host.Outcome.next ((doWriteDoneReceived_opened hup hhead hkind howner hopen).trans (if_neg hflags)),
      hmem, hinflight, hevents⟩
  · obtain ⟨hmem, hended⟩ := endRemote_ends ((htook 2).remote hwait) (((htook 2).liveCmd ..).trans hlive)
    exact ⟨_, congrArg Host.Outcome.next ((doWriteDoneReceived_opened hup hhead hkind howner hopen).trans (if_pos hflags)),
      (htook 2).sameMem.trans hmem, hended⟩
  · have hexpired' : (polder (msgTaken s p j 1 rest) p).timedOut.contains m.id = true := by rw [(htook 1).timedOut]; exact hexpired
    refine congrArg Host.Outcome.next ((doCollectiveDataReceived_opened hup hhead hkind howner hopen).trans ?_)
    rw [takeCollective_of_expired hexpired']
    rfl
  · have hlive' : (polder (msgTaken s p j 1 rest) p).timedOut.contains m.id = false := by rw [(htook 1).timedOut]; exact hlive
    have hnone' : (liveCmds (polder (msgTaken s p j 1 rest) p)).find? (exchanges m.id) = none := by
      rw [(htook 1).liveCmds]
      exact find_exchanges_none hnone
    refine congrArg Host.Outcome.next ((doCollectiveDataReceived_opened hup hhead hkind howner hopen).trans ?_)
    rw [takeCollective_of_early hlive' hnone']
    rfl
  · have hlive' : (polder (msgTaken s p j 1 rest) p).timedOut.contains m.id = false := by rw [(htook 1).timedOut]; exact hlive
    have hfound' : (liveCmds (polder (msgTaken s p j 1 rest) p)).find? (exchanges m.id) = some c := by
      rw [(htook 1).liveCmds]
      exact hfound
    have hdo : doCollectiveDataReceived j s = collected s (msgTaken s p j 1 rest) (collect (msgTaken s p j 1 rest) p c r j m.addr bs) := by
      rw [doCollectiveDataReceived_opened hup hhead hkind howner hopen, hattempt,
        takeCollective_of_running hlive' hfound' hbody hphase]
    refine ⟨fun hsum hready => ?_, fun hsum hready => ?_, fun hsum hpoison => ?_⟩
    · rw [collect_early hstage hsum hready] at hdo
      exact congrArg Host.Outcome.next hdo
    · obtain ⟨u, htake, hquiet⟩ := collect_sums (s := msgTaken s p j 1 rest) (p := p) (c := c) (bs := bs) hstage hsum hready
      rw [htake] at hdo
      exact ⟨u, congrArg Host.Outcome.next hdo, (htook 1).sameMem.trans hquiet.sameMem⟩
    · obtain ⟨u, htake, hholds⟩ := collect_bits (s := msgTaken s p j 1 rest) (p := p) (c := c) (bs := bs) hstage hsum
        ((htook 1).poison.trans hpoison)
      rw [htake] at hdo
      exact ⟨u, congrArg Host.Outcome.next hdo, (Quiet.ofFlooding (htook 1)).holds hholds⟩
  · have hpop : Flooding p s (popMsg s j 3 rest) := popMsg_flooding ..
    have howner' : (port (popMsg s j 3 rest) j).owner = some p := (popMsg_transmits s j 3 rest).owner.trans howner
    refine ⟨_, congrArg Host.Outcome.next (doManagementMessageReceived_of hup hhead (.inl hkind)), ?_⟩
    rw [manage_refusal hkind hflags, refused_of_write howner' hrefusal]
    exact endRemote_fails (hpop.remote hwait) ((hpop.liveCmd ..).trans hlive) (by decide)
  · exact congrArg Host.Outcome.next (doWriteDataReceived_unowned hup hhead hkind howner)
  · exact congrArg Host.Outcome.next (doWriteDoneReceived_unowned hup hhead hkind howner)
  · exact congrArg Host.Outcome.next (doCollectiveDataReceived_unowned hup hhead hkind howner)
  · exact congrArg Host.Outcome.next ((doManagementMessageReceived_of hup hhead (.inl hkind)).trans (manage_hello hkind hflags))
  · have hdo := (doManagementMessageReceived_of hup hhead (.inl hkind)).trans (manage_switch hkind hflags)
    refine ⟨fun hearly => ⟨_, congrArg Host.Outcome.next hdo, ?_⟩,
      fun hdue hlane => ⟨_, congrArg Host.Outcome.next hdo, badLanes_settleSwitches_due hsettled hdue hst hlane rest⟩⟩
    rw [settleSwitches_early hsettled hearly, port_switchNoted hsettled]
    exact ⟨rfl, (popMsg_transmits s j 3 rest).badLanes⟩
  · exact congrArg Host.Outcome.next ((doManagementMessageReceived_of hup hhead (.inr hkind)).trans (manage_token hkind))

end Sys2Proof.Machine
end

section
/-! SUPPORT. A command's start keeps the key of its polder; BUCKET_ADD (R254); the end of a check (R244, R434-R437), CRC and checked
copies. -/

namespace Sys2Proof.Machine

variable {s t u v : State} {p : Fin 4} {q : Fin 16} {n : Word} {e : Entry} {d : SlDesc} {h : HostRead} {ls : List (Nat × List Byte)}

/-! ## Command start -/

theorem beforeTaking_handling (s : State) (p : Fin 4) (q : Fin 16) (e : Entry) : Handling p s (beforeTaking s p q e) := by
  have hdesc : Handling p s (readDesc s p e) := by
    unfold readDesc
    split
    · exact .ofMoved (touch_moved ..) (touch_beside (.refl p s))
    · exact .refl p s
  exact (hdesc.trans (takeSnap_handling ..)).trans (.trans (.ite _ (.refl p _) (traceRecord_handling ..)) (modPolder_handling _ p))

/-- A command's start leaves the polder's key (R247). -/
theorem key_startCmd (s : State) (p : Fin 4) (q : Fin 16) (e : Entry) : (polder (startCmd s p q e) p).key = (polder s p).key := by
  obtain ⟨x, hu, -⟩ := startCmd_eq s p q e
  have hkept : (polder (beforeTaking s p q e) p).key = (polder s p).key := by rw [(beforeTaking_handling s p q e).held]; rfl
  rw [hu, polder_modPolder_self, ← hkept]
  rfl

/-! ## What units leave of the state -/

theorem Moved.hostMem_kept {writes tiles : Bool} (h : Moved writes tiles s t) : t.hostMem = s.hostMem := by
  obtain ⟨_, _, _, _, _, _, _, _, rfl, -⟩ := h
  rfl

theorem Moved.sluiceCvu_kept {writes tiles : Bool} (h : Moved writes tiles s t) : t.sluiceCvu = s.sluiceCvu := by
  obtain ⟨_, _, _, _, _, _, _, _, rfl, -⟩ := h
  rfl

/-! ## The source lines -/

/-- The source lines read, the areas of the destination noted. -/
def sourceRead (u : State) (p : Fin 4) (q : Fin 16) (e : Entry) (d : SlDesc) (as : List Area) : State × Option (List (List Byte)) :=
  readLines (setAreas u p q e.seq as) p e.ctrSet d.src d.sstride d.sbytes (List.range d.lines)

theorem sourceRead_moved (u : State) (p : Fin 4) (q : Fin 16) (e : Entry) (d : SlDesc) (as : List Area) :
    Moved false false u (sourceRead u p q e d as).1 := (setAreas_moved ..).trans (readLines_moved ..)

theorem sourceRead_of_no_poison (hu : u.poison = []) (as : List Area) :
    (sourceRead u p q e d as).2 = some ((List.range d.lines).map (srcLine u d)) := by
  have hareas : Moved false false u (setAreas u p q e.seq as) := setAreas_moved ..
  rw [sourceRead, readLines_of_no_poison (hareas.poison.trans hu)]
  simp only [hareas.memBytes]
  rfl

/-! ## BUCKET_ADD -/

/-- A BUCKET_ADD has passed its formats (R254, R245). -/
theorem slChecks_bucketFmts (h : slChecks s p e = none) : bucketFmts (slDesc s e) = true := by
  have hown := (List.forall_mem_append.mp (firstFail_eq_none.mp h)).2
  simp only [List.forall_mem_cons] at hown
  obtain ⟨-, -, hfmts, -⟩ := hown
  exact hfmts

/-- A BUCKET_ADD has both ends in its polder's memory and no check (R242, R244). -/
theorem slCombination_bucket (h : slCombination d = true) (hop : d.op = 6) : d.hostDst = false ∧ d.checked = false := by
  refine ⟨slCombination_other h (by omega), ?_⟩
  simp only [slCombination, SlDesc.isMove, SlDesc.indexed, SlDesc.isGather, SlDesc.isScatter, hop] at h
  cases hc : d.checked with
  | false => rfl
  | true => simp [hc] at h

/-- A bucket's elements are whole bytes (R254). -/
theorem dbits_of_bucket (h : bucketFmts d = true) (hop : d.op = 6) : 8 ∣ d.dbits := by
  simp only [bucketFmts, SlDesc.isBucket, hop, beq_self_eq_true, Bool.not_true, Bool.false_or, Bool.and_eq_true, Bool.or_eq_true,
    beq_iff_eq] at h
  rw [SlDesc.dbits, if_pos (by simp [SlDesc.isBucket, hop])]
  rcases h.1 with hf | hf <;> rw [hf] <;> decide

/-- Line k of the addend as it is read; without an addend there is none. -/
def addendLine (u : State) (d : SlDesc) (k : Nat) : List Byte :=
  if d.addend = 0 then [] else memBytes u (d.addend + k * d.dstride) d.dbytes

theorem Moved.addendLine {tiles : Bool} (h : Moved false tiles s t) (d : SlDesc) : addendLine t d = Machine.addendLine s d :=
  funext fun k => by rw [Machine.addendLine, h.memBytes, Machine.addendLine]

/-- Line k of the sums. -/
def bucketSums (u : State) (d : SlDesc) (k : Nat) : List Conv := bucketLine d (srcLine u d k) (addendLine u d k)

/-- Line k that BUCKET_ADD writes. -/
def bucketOut (u : State) (d : SlDesc) (k : Nat) : List Byte := packLine d.dbits ((bucketSums u d k).map (·.code))

theorem bucketOut_length (hfmts : bucketFmts d = true) (hop : d.op = 6) (k : Nat) : (bucketOut u d k).length = d.dbytes := by
  rw [bucketOut, packLine_length (.inr (dbits_of_bucket hfmts hop)), List.length_map, bucketSums, bucketLine, List.length_map,
    List.length_range, SlDesc.dbytes, SlDesc.dlength_of (.inl (by omega))]

/-- The lines of the addend, read after those of the source. -/
def addendRead (s : State) (p : Fin 4) (set : BitVec 16) (d : SlDesc) : State × Option (List (List Byte)) :=
  if d.addend = 0 then (s, some (List.replicate d.lines [])) else readLines s p set d.addend d.dstride d.dbytes (List.range d.lines)

theorem addendRead_moved (s : State) (p : Fin 4) (set : BitVec 16) (d : SlDesc) : Moved false false s (addendRead s p set d).1 := by
  unfold addendRead
  split
  · exact .refl s
  · exact readLines_moved ..

theorem addendRead_of_no_poison (hs : s.poison = []) (set : BitVec 16) :
    (addendRead s p set d).2 = some ((List.range d.lines).map (addendLine s d)) := by
  unfold addendRead addendLine
  split
  · rw [List.map_const', List.length_range]
  · exact readLines_of_no_poison hs ..

/-- The sources and addends of a BUCKET_ADD read. -/
def bucketRead (u : State) (p : Fin 4) (q : Fin 16) (e : Entry) (d : SlDesc) : State :=
  (addendRead (sourceRead u p q e d (dstArea d)).1 p e.ctrSet d).1

/-- The sums of every line. -/
def allSums (u : State) (d : SlDesc) : List (List Conv) := (List.range d.lines).map (bucketSums u d)

theorem allSums_packed (u : State) (d : SlDesc) :
    ((allSums u d).map fun c => packLine d.dbits (c.map (·.code))) = (List.range d.lines).map (bucketOut u d) := by
  rw [allSums, List.map_map]
  rfl

theorem zipWith_bucketLine (u : State) (d : SlDesc) :
    List.zipWith (bucketLine d) ((List.range d.lines).map (srcLine u d)) ((List.range d.lines).map (addendLine u d)) = allSums u d := by
  rw [List.zipWith_map, List.zipWith_self]
  rfl

theorem bucketAct_eq (hu : u.poison = []) (hempty : slEmpty d = false) : ∃ t, Moved false false u t ∧
    bucketAct u p q e d = putLines t p q e d (numbered ((List.range d.lines).map (bucketOut u d))) [] := by
  have hread := sourceRead_moved u p q e d (dstArea d)
  have hall : Moved false false u (bucketRead u p q e d) := hread.trans (addendRead_moved ..)
  have hsrc := sourceRead_of_no_poison (p := p) (q := q) (e := e) (d := d) hu (dstArea d)
  have hadd := addendRead_of_no_poison (p := p) (d := d) (hread.poison.trans hu) e.ctrSet
  simp only [hread.addendLine] at hadd
  refine ⟨noteCounts (bucketRead u p q e d) p q e.seq e.ctrSet ((allSums u d).map satsOf).sum ((allSums u d).map flushesOf).sum 0,
    hall.trans (noteCounts_moved ..), ?_⟩
  have hact : bucketAct u p q e d = putLines (noteCounts (bucketRead u p q e d) p q e.seq e.ctrSet ((allSums u d).map satsOf).sum
      ((allSums u d).map flushesOf).sum 0) p q e d (numbered ((allSums u d).map fun c => packLine d.dbits (c.map (·.code)))) [] := by
    rw [sourceRead] at hsrc hadd
    rw [addendRead] at hadd
    simp only [bucketAct, hempty, Bool.false_eq_true, if_false, hsrc, hadd, zipWith_bucketLine]
    rw [bucketRead, addendRead, sourceRead]
  rw [hact, allSums_packed]

theorem bucketAct_copyEnds (hu : u.poison = []) (hop : d.op = 6) (hcombination : slCombination d = true) (hfmts : bucketFmts d = true)
    (haligned : slAligned d = true) (hempty : slEmpty d = false)
    (happart : areasMeet d.src d.lines d.sbytes d.sstride d.dst d.lines d.dbytes d.dstride = false) :
    CopyEnds u p q e d d.lines (fun k => some (bucketOut u d k)) (bucketAct u p q e d) := by
  obtain ⟨t, hmoved, hact⟩ := bucketAct_eq (p := p) (q := q) (e := e) hu hempty
  obtain ⟨hdst, hcheck⟩ := slCombination_bucket hcombination hop
  have hdlines : d.dlines = d.lines := SlDesc.dlines_of (by omega) (.inl (by omega))
  have hoverlap : overlaps d = false := by
    simpa [overlaps, SlDesc.isGather, SlDesc.isScatter, SlDesc.slines, hop, hdlines] using happart
  have hstride := slAligned_stride haligned
  rw [hdlines] at hstride
  rw [hact]
  exact putLines_copyEnds hu hmoved hcheck hdst (.inr (.inr hoverlap)) (linesOf_numbered ..)
    (fun k _ _ hl => by rw [← Option.some.inj hl, bucketOut_length hfmts hop]) hstride _

/-! ## The end of a check -/

/-- The register of a check fed with bytes (R434, R435). -/
def checkReg (c : CheckCfg) (bs : List Byte) : Nat := bs.foldl (crcByte c.poly (c.flags % 2 == 1)) c.init

/-- The result of a check over bytes. -/
def checkValue (c : CheckCfg) (bs : List Byte) : Nat := crcResult c.poly (c.flags / 2 % 2 == 1) c.fxor (checkReg c bs)

/-- State s with other registers in the check units of the sluices. -/
def withSluiceCvu (s : State) (m : Tab DWord) : State := { s with sluiceCvu := m }

theorem Moved.withSluiceCvu {writes tiles : Bool} (h : Moved writes tiles s t) (m : Tab DWord) :
    Moved writes tiles (withSluiceCvu s m) (withSluiceCvu t m) := by
  obtain ⟨_, _, _, _, _, _, _, _, rfl, hrest⟩ := h
  exact ⟨_, _, _, _, _, _, _, _, rfl, hrest⟩

/-- A unit of a sluice fed with bytes. -/
def unitFed (s : State) (c : CheckCfg) (unit : Nat) (bs : List Byte) : State :=
  nextDraw (withSluiceCvu s (tabSet 0 s.sluiceCvu unit (BitVec.ofNat 64 (checkReg c bs))))

/-- The result of a check stored. -/
def resultStored (s : State) (p : Fin 4) (set : BitVec 16) (c : CheckCfg) (unit at_ : Nat) (bs : List Byte) : State :=
  (unitWrite (unitFed s c unit bs) p set at_ (leBytes 8 (checkValue c bs))).1

/-- A result that differs from the expected one is reported when the check is told to compare (R437). -/
def compared (s : State) (p : Fin 4) (q : Fin 16) (n : Word) (c : CheckCfg) (source unit : Nat) (value : Nat) : State :=
  if c.flags / 4 % 2 == 1 && value != c.exp then polderEvent s p 0x0601 (cvuMismatchPay source unit q.val n value) else s

theorem unitFed_quiet (s : State) (c : CheckCfg) (unit : Nat) (bs : List Byte) : Quiet s (unitFed s c unit bs) :=
  ⟨⟨rfl, rfl⟩, rfl, fun _ => rfl⟩

theorem runCheck_eq (hs : s.poison = []) (set : BitVec 16) (c : CheckCfg) (host : Bool) (a at_ source : Nat) (bs : List Byte) :
    runCheck s p q n set c host a at_ source bs =
      (compared (resultStored s p set c (checkUnit s p host a) at_ bs) p q n c source (checkUnit s p host a) (checkValue c bs), true) := by
  have hclean : (unitFed s c (checkUnit s p host a) bs).poison = [] := hs
  refine Prod.ext rfl ?_
  exact unitWrite_stored hclean p set at_ (leBytes 8 (checkValue c bs))

theorem resultStored_moved (hs : s.poison = []) (set : BitVec 16) (c : CheckCfg) (unit at_ : Nat) (bs : List Byte) :
    Moved true false (withSluiceCvu s (resultStored s p set c unit at_ bs).sluiceCvu) (resultStored s p set c unit at_ bs) := by
  have hclean : (unitFed s c unit bs).poison = [] := hs
  have hfed : Moved true false (withSluiceCvu s (tabSet 0 s.sluiceCvu unit (BitVec.ofNat 64 (checkReg c bs)))) (unitFed s c unit bs) :=
    nextDraw_moved _
  have hmoved := hfed.trans (unitWrite_moved hclean p set at_ (leBytes 8 (checkValue c bs)))
  rw [resultStored, hmoved.sluiceCvu_kept]
  exact hmoved

theorem resultStored_deposits (hs : s.poison = []) (p : Fin 4) (set : BitVec 16) (c : CheckCfg) (unit at_ : Nat) (bs : List Byte) :
    Deposits [(at_, leBytes 8 (checkValue c bs))] s (resultStored s p set c unit at_ bs) :=
  .ofQuiet (unitFed_quiet s c unit bs) (unitWrite_deposits ((unitFed_quiet s c unit bs).poison.trans hs) ..)

theorem compared_quiet (s : State) (p : Fin 4) (q : Fin 16) (n : Word) (c : CheckCfg) (source unit value : Nat) :
    Quiet s (compared s p q n c source unit value) := by
  unfold compared
  split
  · rw [polderEvent_eq]
    exact ⟨⟨rfl, rfl⟩, rfl, fun _ => rfl⟩
  · exact .refl s

/-! ## CRC (R436, R437) -/

/-- Every byte of the lines of a CRC, in order. -/
def crcSource (u : State) (bs : List Byte) : List Byte :=
  (List.range (crcLines bs)).flatMap fun k => memBytes u (addrOf bs 0 + k * crcStride bs) (crcBytesPer bs)

/-- What a CRC writes (R436). -/
def resultArea (bs : List Byte) : List Area := [{ host := false, addr := addrOf bs 0x18, lines := 1, bytes := 8, stride := 8 }]

/-- The lines of a CRC read. -/
def crcRead (u : State) (p : Fin 4) (q : Fin 16) (e : Entry) (bs : List Byte) : State × Option (List (List Byte)) :=
  readLines (setAreas u p q e.seq (resultArea bs)) p e.ctrSet (addrOf bs 0) (crcStride bs) (crcBytesPer bs)
    (List.range (crcLines bs))

theorem crcRead_moved (u : State) (p : Fin 4) (q : Fin 16) (e : Entry) (bs : List Byte) : Moved false false u (crcRead u p q e bs).1 :=
  (setAreas_moved ..).trans (readLines_moved ..)

theorem crcRead_of_no_poison (hu : u.poison = []) (bs : List Byte) : (crcRead u p q e bs).2 =
    some ((List.range (crcLines bs)).map fun k => memBytes u (addrOf bs 0 + k * crcStride bs) (crcBytesPer bs)) := by
  have hareas : Moved false false u (setAreas u p q e.seq (resultArea bs)) := setAreas_moved ..
  rw [crcRead, readLines_of_no_poison (hareas.poison.trans hu)]
  simp only [hareas.memBytes]

/-- The result of a CRC stored. -/
def crcStored (u : State) (p : Fin 4) (q : Fin 16) (e : Entry) (bs : List Byte) : State :=
  resultStored (crcRead u p q e bs).1 p e.ctrSet (readCheck bs 0x20) (checkUnit (crcRead u p q e bs).1 p false (addrOf bs 0))
    (addrOf bs 0x18) (crcSource u bs)

theorem crcAct_eq (hu : u.poison = []) (bs : List Byte) : crcAct u p q e bs =
    endCmd (compared (crcStored u p q e bs) p q e.seq (readCheck bs 0x20) 1 (checkUnit (crcRead u p q e bs).1 p false (addrOf bs 0))
      (checkValue (readCheck bs 0x20) (crcSource u bs))) p q e.seq .ok := by
  have hclean := (crcRead_moved u p q e bs).poison.trans hu
  have hlines := crcRead_of_no_poison (p := p) (q := q) (e := e) hu bs
  rw [crcRead, resultArea] at hclean hlines
  simp only [crcAct, hlines, runCheck_eq hclean, if_true, crcStored, crcRead, resultArea, crcSource, List.flatMap_def]

theorem crcStored_frame (hu : u.poison = []) (bs : List Byte) :
    MemFrame (withSluiceCvu u (crcStored u p q e bs).sluiceCvu) (crcStored u p q e bs) := by
  have hread := (crcRead_moved u p q e bs).withSluiceCvu (crcStored u p q e bs).sluiceCvu
  exact (hread.any.trans (resultStored_moved ((crcRead_moved u p q e bs).poison.trans hu) ..)).memFrame

theorem crcStored_holds (hu : u.poison = []) (bs : List Byte) :
    Holds u (crcStored u p q e bs) [(addrOf bs 0x18, leBytes 8 (checkValue (readCheck bs 0x20) (crcSource u bs)))] :=
  (Quiet.ofMoved (crcRead_moved u p q e bs)).holds (resultStored_deposits ((crcRead_moved u p q e bs).poison.trans hu) ..).holds

/-! ## Checked copies (R244) -/

theorem putLines_stored (hs : s.poison = []) (hhost : d.hostDst = false) (hoverlap : overlaps d = false) (ls : List (Nat × List Byte))
    (src : List (List Byte)) :
    putLines s p q e d ls src = endCopy (putAll s p e.ctrSet (ls.map (placed d))) p q e d src true := by
  have happart : (!d.isFill && !d.hostSrc && !d.hostDst && !d.peer && overlaps d) = false := by simp [hoverlap]
  rw [overlaps, hhost] at happart
  simp only [putLines, hhost, happart, Bool.false_eq_true, if_false, Bool.false_and, writeLines_of_no_poison hs]
  rfl

theorem endCopy_of_checked (hs : s.poison = []) (hcheck : d.checked = true) (src : List (List Byte)) :
    endCopy s p q e d src true = endCmd (compared (resultStored s p e.ctrSet d.check (checkUnit s p d.hostSrc d.src) d.result src.flatten)
      p q e.seq d.check 2 (checkUnit s p d.hostSrc d.src) (checkValue d.check src.flatten)) p q e.seq .ok := by
  simp only [endCopy, copyCheck, hcheck, runCheck_eq hs, Bool.not_true, Bool.false_eq_true, if_false, if_true]

end Sys2Proof.Machine
end

section
/-! SUPPORT. Checked copies (R244), sealed copies (R248-R251) and copies to a peer (R252, R253), with the statement on results. -/

namespace Sys2Proof.Machine

variable {s t u v : State} {p : Fin 4} {q : Fin 16} {n : Word} {e : Entry} {d : SlDesc} {h : HostRead} {k : JobKey} {j : Fin 6}

/-! ## Checked copies (R244) -/

/-- Address a lies in no line of the destination. -/
def BesideLines (d : SlDesc) (a : Nat) : Prop :=
  ∀ i, i < d.lines → a < d.dst + i * d.dstride ∨ d.dst + i * d.dstride + d.dbytes ≤ a

/-- Every byte of the source lines, in order. -/
def sourceBytes (u : State) (d : SlDesc) : List Byte := (List.range d.lines).flatMap (srcLine u d)

/-- The source lines as they are moved, in the places of the destination. -/
def movedLines (u : State) (d : SlDesc) : List (Nat × List Byte) := (numbered ((List.range d.lines).map (movedLine u d))).map (placed d)

/-- A checked copy whose destination stands ends OK and stores its result, nothing else. -/
theorem endCopy_checkedEnds (hs : s.poison = []) (hcheck : d.checked = true) (hcmd : (cmdAt s p q e.seq).isSome = true)
    (src : List (List Byte)) : EndedWith (endCopy s p q e d src true) p q e.seq .ok ∧
      Holds s (endCopy s p q e d src true) [(d.result, leBytes 8 (checkValue d.check src.flatten))] := by
  have hstored := (resultStored_deposits hs p e.ctrSet d.check (checkUnit s p d.hostSrc d.src) d.result src.flatten).thenQuiet
    (compared_quiet _ p q e.seq d.check 2 (checkUnit s p d.hostSrc d.src) (checkValue d.check src.flatten))
  have hend (t : State) : Moved false false t (endCmd t p q e.seq .ok) := modCmd_moved ..
  rw [endCopy_of_checked hs hcheck]
  exact ⟨hstored.ends hcmd .ok, hstored.holds.sameMem (hend _).sameMem⟩

/-- What memory shows of a checked copy: its result, its lines and nothing else. -/
theorem checkedCopy_reads {x : Nat} (h : Holds u t (movedLines u d ++ [(d.result, leBytes 8 x)])) (hbytes : d.dbytes = d.sbytes) :
    memBytes t d.result 8 = leBytes 8 x ∧
    (∀ i, i < d.lines → memBytes t (d.dst + i * d.dstride) d.dbytes = movedLine u d i) ∧
    ∀ a, (a < d.result ∨ d.result + 8 ≤ a) → BesideLines d a → memByte t a = memByte u a := by
  have hls := linesOf_numbered d.lines (movedLine u d)
  have hlen (i : Nat) (l : List Byte) (_ : i < d.lines) (hl : some (movedLine u d i) = some l) : l.length = d.dbytes := by
    rw [← Option.some.inj hl, movedLine_length, hbytes]
  obtain ⟨hheld, hother⟩ := h
  obtain ⟨hlines, hresult⟩ := List.forall_mem_append.mp hheld
  refine ⟨?_, fun i hi => placed_lines hls hlen hlines i _ hi rfl,
    fun a ha hbeside => hother a (List.forall_mem_append.mpr ⟨?_, ?_⟩)⟩
  · simpa only [leBytes_length] using hresult _ (List.mem_singleton_self _)
  · exact beside_placed hls hlen fun i hi _ => hbeside i hi
  · exact List.forall_mem_singleton.mpr (by simpa only [leBytes_length] using ha)

/-- The lines of a checked copy are apart from its result. -/
theorem apart_result {f : Nat → Option (List Byte)} {ls : List (Nat × List Byte)} (hls : LinesOf d.lines f ls)
    (hlen : ∀ i l, i < d.lines → f i = some l → l.length = d.dbytes) (hapart : Apart (ls.map (placed d)))
    (hresult : ∀ i, i < d.lines → d.dst + i * d.dstride + d.dbytes ≤ d.result ∨ d.result + 8 ≤ d.dst + i * d.dstride) (x : Nat) :
    Apart (ls.map (placed d) ++ [(d.result, leBytes 8 x)]) := by
  refine List.pairwise_append.mpr ⟨hapart, List.pairwise_singleton .., fun y hy z hz => ?_⟩
  obtain ⟨⟨i, l⟩, hmem, rfl⟩ := List.mem_map.mp hy
  obtain ⟨hi, hl⟩ := (hls.mem_iff i l).mp hmem
  obtain rfl := List.mem_singleton.mp hz
  have hbeside := hresult i hi
  simp only [placed, hlen i l hi hl, leBytes_length]
  omega

theorem moveAct_checked (hu : u.poison = []) (hop : d.op = 3) (haligned : slAligned d = true) (hcheck : d.checked = true)
    (hsealed : d.sealed_ = false) (hpeer : d.peer = false) (hempty : slEmpty d = false) (hsrc : d.hostSrc = false)
    (hdst : d.hostDst = false) (htr : d.transpose = false)
    (happart : areasMeet d.src d.lines d.sbytes d.sstride d.dst d.lines d.dbytes d.dstride = false)
    (hresult : ∀ i, i < d.lines → d.dst + i * d.dstride + d.dbytes ≤ d.result ∨ d.result + 8 ≤ d.dst + i * d.dstride)
    (hcmd : (cmdAt u p q e.seq).isSome = true) :
    EndedWith (moveAct u p q e d h) p q e.seq .ok ∧ Holds u (moveAct u p q e d h)
      (movedLines u d ++ [(d.result, leBytes 8 (checkValue d.check (sourceBytes u d)))]) := by
  obtain ⟨t, hmoved, hact⟩ := moveAct_eq (p := p) (q := q) (e := e) (h := h) hu hempty hsealed hpeer (by simp [hsrc, hdst])
  have hdlines : d.dlines = d.lines := SlDesc.dlines_of (by omega) (.inr htr)
  have hoverlap : overlaps d = false := by
    simpa [overlaps, SlDesc.isGather, SlDesc.isScatter, SlDesc.slines, hop, hdlines] using happart
  have hlines : moveLines d (moveRead u d h) = (List.range d.lines).map (movedLine u d) := by
    rw [moveLines_device hop hsrc, hdlines]
    exact List.map_congr_left fun i _ => by rw [moveLine, htr, if_neg nofun]
  have hread : (moveRead u d h).flatten = sourceBytes u d := by
    rw [moveRead, if_neg (by simp [hsrc]), sourceBytes, List.flatMap_def]
  have hls := linesOf_numbered d.lines (movedLine u d)
  have hlen (i : Nat) (l : List Byte) (_ : i < d.lines) (hl : some (movedLine u d i) = some l) : l.length = d.dbytes := by
    rw [← Option.some.inj hl, movedLine_length, SlDesc.dbytes_of (by omega) (SlDesc.dlength_of (.inr htr))]
  have hstride := slAligned_stride haligned
  rw [hdlines] at hstride
  have hclean : t.poison = [] := hmoved.poison.trans hu
  have hput : Moved true false t _ := putAll_moved hclean p e.ctrSet (movedLines u d)
  obtain ⟨hended, hstored⟩ := endCopy_checkedEnds (hput.poison.trans hclean) hcheck (hput.cmdAt_isSome (hmoved.cmdAt_isSome hcmd))
    (moveRead u d h)
  have hapart := placed_apart hls hlen hstride
  have hholds := (putAll_holds hclean p e.ctrSet hapart).moved hmoved (.refl (tiles := false) _)
  rw [hread] at hstored
  rw [hact, hlines, putLines_stored hclean hdst hoverlap]
  exact ⟨hended, hholds.append hstored (apart_result hls hlen hapart hresult _)⟩

/-! ## Sealed copies (R248-R251) -/

theorem ctrBytes_length_le (key iv : List Byte) (m c : Nat) (bs : List Byte) : (ctrBytes key iv m c bs).length ≤ bs.length := by
  induction m generalizing c bs with
  | zero => exact Nat.zero_le _
  | succ m ih =>
    have hrest := ih (c + 1) (bs.drop 16)
    rw [ctrBytes, List.length_append, xorBytes, List.length_zipWith, List.length_take]
    rw [List.length_drop] at hrest
    omega

/-- An opened text is no longer than the sealed one. -/
theorem gcmOpen_length_le {key iv aad ct tag pt : List Byte} (h : gcmOpen key iv aad ct tag = some pt) : pt.length ≤ ct.length := by
  unfold gcmOpen at h
  split at h
  · cases h
    exact ctrBytes_length_le ..
  · cases h

/-- The records of a stream open to no more bytes than the stream has. -/
theorem openChunks_length_le (key : List Byte) (a stride bytes m o left : Nat) (bs : List Byte) :
    (openChunks m key a stride bytes o left bs).1.length ≤ left := by
  induction m generalizing o left bs with
  | zero => exact Nat.zero_le _
  | succ m ih =>
    unfold openChunks
    dsimp only
    split
    · split
      · next pt hopen =>
        have hpt := gcmOpen_length_le hopen
        have hrest := ih (o + min 65536 left) (left - min 65536 left) (bs.drop (roundUp (0x20 + min 65536 left) 64))
        rw [List.length_take] at hpt
        rw [List.length_append]
        omega
      · exact Nat.zero_le _
    · exact Nat.zero_le _

/-- The lines that a stream's bytes fill lie in the lines of the stream. -/
theorem streamLines_within {lines m : Nat} {bs : List Byte} (h : bs.length ≤ lines * m) :
    ∀ x ∈ streamLines m bs, x.1 < lines ∧ x.2.length ≤ m := by
  intro x hx
  rw [streamLines, cutLines_eq, numbered_map_range] at hx
  obtain ⟨i, hi, rfl⟩ := List.mem_map.mp hx
  refine ⟨?_, by simp⟩
  have hi := List.mem_range.mp hi
  have hm : 0 < m := Nat.pos_of_ne_zero fun h0 => by simp [h0] at hi
  have hcount : (bs.length + m - 1) / m < lines + 1 := by
    rw [Nat.div_lt_iff_lt_mul hm, Nat.succ_mul]
    omega
  exact Nat.lt_of_lt_of_le hi (Nat.le_of_lt_succ hcount)

theorem putAll_beside (hs : s.poison = []) (p : Fin 4) (set : BitVec 16) {ls : List (Nat × List Byte)} {a : Nat}
    (h : ∀ x ∈ ls, a < x.1 ∨ x.1 + x.2.length ≤ a) : memByte (putAll s p set ls) a = memByte s a := by
  induction ls generalizing s with
  | nil => rfl
  | cons x ls ih =>
    obtain ⟨hx, hrest⟩ := List.forall_mem_cons.mp h
    have hmoved : Moved true false s (unitWrite s p set x.1 x.2).1 := unitWrite_moved hs ..
    exact (ih (hmoved.poison.trans hs) hrest).trans ((byte_unitWrite hs ..).trans (if_neg (by omega)))

/-- Spoiling areas of device memory leaves the bytes beside them. -/
theorem memByte_spoilAreas {rs : List Area} {a : Nat}
    (h : ∀ r ∈ rs, r.host = false ∧ ∀ i, i < r.lines → a < r.addr + i * r.stride ∨ r.addr + i * r.stride + r.bytes ≤ a) :
    memByte (spoilAreas s rs) a = memByte s a := by
  refine List.foldlRecOn (motive := fun t => memByte t a = memByte s a) rs spoilArea rfl fun t ht r hr => ?_
  obtain ⟨hdevice, hbeside⟩ := h r hr
  refine List.foldlRecOn (motive := fun t => memByte t a = memByte s a) _ _ ht fun t ht i hi => ?_
  have hi := hbeside i (List.mem_range.mp hi)
  rw [hdevice, if_neg nofun, byte_spoil, if_neg (by omega), ht]

theorem memByte_spoilRest {a : Nat} (h : BesideLines d a) (o : Nat) : memByte (spoilAreas s (restAreas d o)) a = memByte s a := by
  refine memByte_spoilAreas fun r hr => ?_
  obtain ⟨i, hi, hr⟩ := List.mem_filterMap.mp hr
  have hline := h i (List.mem_range.mp hi)
  dsimp only at hr
  split at hr
  · cases hr
    refine ⟨rfl, fun l hl => ?_⟩
    dsimp only at hl ⊢
    omega
  · cases hr

/-- The plaintext of the records that a host read brings, and whether all verify (R250). -/
def openedStream (d : SlDesc) (h : HostRead) (k : JobKey) : List Byte × Bool :=
  openChunks ((d.lines * d.sbytes + 65535) / 65536) (keyBytes k.key) d.dst d.dstride d.dbytes 0 (d.lines * d.sbytes) h.data

/-- The lines of an opened stream as they are written. -/
def openedLines (d : SlDesc) (bs : List Byte) : List (Nat × List Byte) := (cleanStream d (streamLines d.dbytes bs)).map (placed d)

theorem openedLines_beside {a : Nat} {bs : List Byte} (h : BesideLines d a) (hbs : bs.length ≤ d.lines * d.dbytes) :
    ∀ x ∈ openedLines d bs, a < x.1 ∨ x.1 + x.2.length ≤ a := by
  intro x hx
  obtain ⟨y, hy, rfl⟩ := List.mem_map.mp hx
  obtain ⟨z, hz, rfl⟩ := List.mem_map.mp hy
  obtain ⟨hlt, hlen⟩ := streamLines_within hbs z hz
  have hline := h z.1 hlt
  have hclean : (if z.2.length = d.dbytes then cleanLine d.dbits d.dlength z.2 else z.2).length = z.2.length := by
    split
    · exact cleanLine_length ..
    · rfl
  simp only [placed, hclean]
  omega

theorem moveSealed_fromHost (hs : s.poison = []) (hsrc : d.hostSrc = true) (hcheck : d.checked = false) (hbytes : d.dbytes = d.sbytes) :
    ∃ v, moveSealed s p q e d h k = endCmd v p q e.seq (if (openedStream d h k).2 then .ok else .accessDenied) ∧
      ∀ a, BesideLines d a → memByte v a = memByte s a := by
  have hwrite (a : Nat) (ha : BesideLines d a) : memByte (putAll s p e.ctrSet (openedLines d (openedStream d h k).1)) a = memByte s a := by
    refine putAll_beside hs p e.ctrSet (openedLines_beside ha ?_)
    rw [hbytes]
    exact openChunks_length_le ..
  cases hgood : (openedStream d h k).2 with
  | true =>
    refine ⟨_, ?_, hwrite⟩
    rw [openedStream] at hgood
    simp only [moveSealed, hsrc, hgood, writeLines_of_no_poison hs, endCopy_of_unchecked hcheck, if_true, Bool.not_true,
      Bool.false_eq_true, if_false]
    rfl
  | false =>
    refine ⟨spoilAreas (putAll s p e.ctrSet (openedLines d (openedStream d h k).1)) (restAreas d (openedStream d h k).1.length), ?_,
      fun a ha => (memByte_spoilRest ha _).trans (hwrite a ha)⟩
    rw [openedStream] at hgood
    simp only [moveSealed, hsrc, hgood, writeLines_of_no_poison hs, if_true, Bool.not_false, Bool.false_eq_true, if_false]
    rfl

/-- The records of a stream of source lines (R249). -/
def sealedRecords (u : State) (p : Fin 4) (d : SlDesc) (k : JobKey) : List Byte :=
  sealChunks ((d.lines * d.sbytes + 65535) / 65536) (keyBytes k.key) k.rank (ivCounter u p 0xFF 0) d.src d.sstride d.sbytes 0
    ((List.range d.lines).flatMap (movedLine u d))

/-- Records written to the host, the IVs of m records taken. -/
def recordsSent (s : State) (p : Fin 4) (a m : Nat) (bs : List Byte) : State :=
  modPolder (hostWrite s a bs) p fun P => { P with ivs := tabMod 0 P.ivs (256 * 0xFF) (· + BitVec.ofNat 64 m) }

theorem recordsSent_sameMem (s : State) (p : Fin 4) (a m : Nat) (bs : List Byte) : SameMem s (recordsSent s p a m bs) := ⟨rfl, rfl⟩

theorem hostMem_recordsSent (s : State) (p : Fin 4) (a m : Nat) (bs : List Byte) :
    (recordsSent s p a m bs).hostMem = tabSplice 0 s.hostMem a bs := rfl

theorem ivCounter_recordsSent (s : State) (p : Fin 4) (a m : Nat) (bs : List Byte) :
    ivCounter (recordsSent s p a m bs) p 0xFF 0 = ivCounter s p 0xFF 0 + BitVec.ofNat 64 m := by
  rw [ivCounter, recordsSent, polder_modPolder_self, tabMod, tabGet_tabSet, if_pos rfl]
  rfl

theorem Moved.ivCounter {writes tiles : Bool} (h : Moved writes tiles s t) (p : Fin 4) (chan cls : Nat) :
    ivCounter t p chan cls = Machine.ivCounter s p chan cls := by
  rw [Machine.ivCounter, (h.carries p).1]
  rfl

/-- A sealed copy is `moveSealed`, its destination's areas noted. -/
theorem moveAct_sealed (hempty : slEmpty d = false) (hpeer : d.peer = false) (hsealed : d.sealed_ = true) (hgrant : h.granted = true)
    (hkey : (polder u p).key = some k) :
    moveAct u p q e d h = moveSealed (setAreas u p q e.seq (dstArea d)) p q e d h k := by
  have hareas : Moved false false u (setAreas u p q e.seq (dstArea d)) := setAreas_moved ..
  have hkept : (polder (setAreas u p q e.seq (dstArea d)) p).key = some k := by rw [(hareas.carries p).1, ← hkey]
  simp only [moveAct, hempty, hpeer, hsealed, hgrant, hkept, Bool.not_true, Bool.and_false, Bool.false_eq_true, if_false]

theorem moveSealed_toHost (hu : u.poison = []) (hsrc : d.hostSrc = false) (hcheck : d.checked = false) :
    moveSealed (setAreas u p q e.seq (dstArea d)) p q e d h k =
      endCmd (recordsSent (sourceRead u p q e d (dstArea d)).1 p d.dst ((d.lines * d.sbytes + 65535) / 65536)
        (sealedRecords u p d k)) p q e.seq .ok := by
  have hread := sourceRead_moved u p q e d (dstArea d)
  have hlines := sourceRead_of_no_poison (p := p) (q := q) (e := e) (d := d) hu (dstArea d)
  have hiv := hread.ivCounter p 0xFF 0
  rw [sourceRead] at hlines hiv
  simp only [moveSealed, hsrc, hlines, hiv, endCopy_of_unchecked hcheck, Bool.false_eq_true, if_false, List.map_map]
  rw [sourceRead, sealedRecords, List.flatMap_def]
  rfl

theorem moveAct_sealedToHost (hu : u.poison = []) (hop : d.op = 3) (hcombination : slCombination d = true) (hcheck : d.checked = false)
    (hempty : slEmpty d = false) (hsealed : d.sealed_ = true) (hgrant : h.granted = true) (hkey : (polder u p).key = some k)
    (hdst : d.hostDst = true) : ∃ v, moveAct u p q e d h = endCmd v p q e.seq .ok ∧ SameMem u v ∧
      v.hostMem = tabSplice 0 u.hostMem d.dst (sealedRecords u p d k) ∧
      ivCounter v p 0xFF 0 = ivCounter u p 0xFF 0 + BitVec.ofNat 64 ((d.lines * d.sbytes + 65535) / 65536) := by
  obtain ⟨hpeer, -, hone⟩ := slCombination_move hcombination hop (.inr hdst)
  have hsrc : d.hostSrc = false := Bool.eq_false_iff.mpr fun hsrc => absurd (hone hsrc) (by simp [hdst])
  have hread := sourceRead_moved u p q e d (dstArea d)
  refine ⟨_, (moveAct_sealed hempty hpeer hsealed hgrant hkey).trans (moveSealed_toHost hu hsrc hcheck),
    hread.sameMem.trans (recordsSent_sameMem ..), ?_, ?_⟩
  · rw [hostMem_recordsSent, hread.hostMem_kept]
  · rw [ivCounter_recordsSent, hread.ivCounter]

theorem moveAct_sealedFromHost (hu : u.poison = []) (hop : d.op = 3) (hcombination : slCombination d = true) (hcheck : d.checked = false)
    (hempty : slEmpty d = false) (hsealed : d.sealed_ = true) (hgrant : h.granted = true) (hkey : (polder u p).key = some k)
    (hsrc : d.hostSrc = true) : ∃ v, moveAct u p q e d h = endCmd v p q e.seq (if (openedStream d h k).2 then .ok else .accessDenied) ∧
      ∀ a, BesideLines d a → memByte v a = memByte u a := by
  obtain ⟨hpeer, htr, -⟩ := slCombination_move hcombination hop (.inl hsrc)
  have hbytes : d.dbytes = d.sbytes := SlDesc.dbytes_of (by omega) (SlDesc.dlength_of (.inr htr))
  have hareas : Moved false false u (setAreas u p q e.seq (dstArea d)) := setAreas_moved ..
  obtain ⟨v, hact, hother⟩ := moveSealed_fromHost (p := p) (q := q) (e := e) (h := h) (k := k) (hareas.poison.trans hu) hsrc hcheck
    hbytes
  exact ⟨v, (moveAct_sealed hempty hpeer hsealed hgrant hkey).trans hact, fun a ha => (hother a ha).trans (hareas.memByte a)⟩

/-! ## Copies to a peer (R252, R253) -/

/-- Of the ports only j has moved. -/
structure OnlyPort (j : Fin 6) (s t : State) : Prop where
  kept : ∀ i, i ≠ j → port t i = port s i

namespace OnlyPort

theorem refl (j : Fin 6) (s : State) : OnlyPort j s s := ⟨fun _ _ => rfl⟩

theorem trans (h : OnlyPort j s t) (k : OnlyPort j t u) : OnlyPort j s u :=
  ⟨fun i hi => (k.kept i hi).trans (h.kept i hi)⟩

theorem foldl {α : Type} {f : State → α → State} (hf : ∀ s x, OnlyPort j s (f s x)) (xs : List α) (s : State) :
    OnlyPort j s (xs.foldl f s) := List.foldlRecOn xs f (refl j s) fun _ h x _ => h.trans (hf _ x)

theorem modPort (s : State) (j : Fin 6) (f : Port → Port) : OnlyPort j s (modPort s j f) := ⟨fun _ hi => port_modPort_ne s f hi⟩

theorem ofMoved {writes tiles : Bool} (h : Moved writes tiles s t) (j : Fin 6) : OnlyPort j s t := by
  obtain ⟨_, _, _, _, _, _, _, _, rfl, -⟩ := h
  exact ⟨fun _ _ => rfl⟩

theorem queueSealed (s : State) (p : Fin 4) (j : Fin 6) (kind flags : Nat) (id : Word) (addr attempt : Nat) (payload : List Byte) :
    OnlyPort j s (queueSealed s p j kind flags id addr attempt payload) := by
  unfold Machine.queueSealed
  split
  · exact refl j s
  · exact (modPort ..).trans ⟨fun _ _ => rfl⟩

theorem sendSealed (s : State) (p : Fin 4) (j : Fin 6) (kind flags : Nat) (id : Word) (addr attempt : Nat) (payload : List Byte) :
    OnlyPort j s (sendSealed s p j kind flags id addr attempt payload) := (queueSealed ..).trans (modPort ..)

end OnlyPort

theorem queueLine_sends (m : Nat) (s : State) (p : Fin 4) (j : Fin 6) (id : Word) (a : Nat) (bs : List Byte) :
    Sending p s (queueLine m s p j id a bs) ∧ OnlyPort j s (queueLine m s p j id a bs) := by
  induction m generalizing s a bs with
  | zero => exact ⟨.refl p s, .refl j s⟩
  | succ m ih =>
    unfold queueLine
    split
    · exact ⟨.refl p s, .refl j s⟩
    · exact ⟨(queueSealed_sending ..).trans (ih ..).1, (OnlyPort.queueSealed ..).trans (ih ..).2⟩

/-- The messages of a copy to a peer sent: its lines and the write-done message (R253). -/
def peerSent (s : State) (p : Fin 4) (d : SlDesc) (ls : List (List Byte)) : State :=
  sendSealed ((numbered ls).foldl (fun t x => queueLine (x.2.length / 4096 + 1) t p (fin6 d.portNo) (writeId s p (fin6 d.portNo))
    (d.dst + x.1 * d.dstride) x.2) s) p (fin6 d.portNo) 2 0 (writeId s p (fin6 d.portNo)) 0 0 (leBytes 2 d.event ++ zeros 14)

theorem peerSent_sending (s : State) (p : Fin 4) (d : SlDesc) (ls : List (List Byte)) : Sending p s (peerSent s p d ls) :=
  (Sending.foldl (fun _ _ => (queueLine_sends ..).1) _ s).trans (sendSealed_sending ..)

theorem peerSent_onlyPort (s : State) (p : Fin 4) (d : SlDesc) (ls : List (List Byte)) :
    OnlyPort (fin6 d.portNo) s (peerSent s p d ls) :=
  (OnlyPort.foldl (fun _ _ => (queueLine_sends ..).2) _ s).trans (OnlyPort.sendSealed ..)

/-- The confirmation of a write awaited (R253). -/
def awaiting (s : State) (p : Fin 4) (q : Fin 16) (n id : Word) : State :=
  setBody (modPolder s p fun P => { P with remoteOut := P.remoteOut ++ [(id, q, n)] }) p q n (.remote id)

theorem movePeer_eq (ls : List (List Byte)) : movePeer s p q e d ls =
    awaiting (countAdd (peerSent s p d ls) p e.ctrSet 6 (d.lines * d.dbytes + 16)) p q e.seq (writeId s p (fin6 d.portNo)) := rfl

theorem awaiting_quiet (s : State) (p : Fin 4) (q : Fin 16) (n id : Word) : Quiet s (awaiting s p q n id) :=
  (Quiet.modPolder s p).trans (.ofMoved (tiles := false) (setBody_moved ..))

theorem awaiting_onlyPort (j : Fin 6) (s : State) (p : Fin 4) (q : Fin 16) (n id : Word) : OnlyPort j s (awaiting s p q n id) :=
  .trans (t := modPolder s p _) ⟨fun _ _ => rfl⟩ (.ofMoved (setBody_moved (writes := false) (tiles := false) ..) j)

theorem remoteOut_awaiting (s : State) (p : Fin 4) (q : Fin 16) (n id : Word) :
    (polder (awaiting s p q n id) p).remoteOut = (polder s p).remoteOut ++ [(id, q, n)] := by
  have hbody : Moved false false (modPolder s p fun P => { P with remoteOut := P.remoteOut ++ [(id, q, n)] }) (awaiting s p q n id) :=
    setBody_moved ..
  rw [(hbody.carries p).1, polder_modPolder_self]

theorem movePeer_waits (hcmd : (cmdAt s p q e.seq).isSome = true) (ls : List (List Byte)) :
    SameMem s (movePeer s p q e d ls) ∧
      (polder (movePeer s p q e d ls) p).remoteOut = (polder s p).remoteOut ++ [(writeId s p (fin6 d.portNo), q, e.seq)] ∧
      (cmdAt (movePeer s p q e d ls) p q e.seq).map (·.body) = some (.remote (writeId s p (fin6 d.portNo))) ∧
      OnlyPort (fin6 d.portNo) s (movePeer s p q e d ls) := by
  have hsent := peerSent_sending s p d ls
  have hquiet : Quiet s (countAdd (peerSent s p d ls) p e.ctrSet 6 (d.lines * d.dbytes + 16)) :=
    (Quiet.ofSending hsent).trans (countAdd_quiet ..)
  rw [movePeer_eq]
  refine ⟨(hquiet.trans (awaiting_quiet ..)).sameMem, ?_, ?_, (peerSent_onlyPort s p d ls).trans ?_⟩
  · rw [remoteOut_awaiting]
    exact congrArg (· ++ _) (hsent.flooding.remoteOut p)
  · exact body_setBody _ ((hquiet.trans (.modPolder _ p)).cmdAt_isSome hcmd)
  · exact (OnlyPort.ofMoved (countAdd_moved (writes := false) (tiles := false) ..) _).trans (awaiting_onlyPort ..)

/-- A MOVE to a peer has no other end outside its polder's memory, and is not sealed by itself (R242, R251). -/
theorem slCombination_peer (h : slCombination d = true) (hop : d.op = 3) (hpeer : d.peer = true) :
    d.hostSrc = false ∧ d.hostDst = false ∧ d.sealed_ = false := by
  simp only [slCombination, SlDesc.isMove, hop, hpeer] at h
  revert h
  cases d.hostSrc <;> cases d.hostDst <;> cases d.sealed_ <;> simp

theorem moveAct_peer (hu : u.poison = []) (hop : d.op = 3) (hcombination : slCombination d = true) (hcheck : d.checked = false)
    (hpeer : d.peer = true) (hempty : slEmpty d = false) :
    moveAct u p q e d h = movePeer (sourceRead u p q e d []).1 p q e d ((List.range d.lines).map (movedLine u d)) := by
  obtain ⟨hsrc, hdst, hsealed⟩ := slCombination_peer hcombination hop hpeer
  have hlines := sourceRead_of_no_poison (p := p) (q := q) (e := e) (d := d) hu []
  rw [sourceRead] at hlines
  simp only [moveAct, hempty, hpeer, hsrc, hdst, hsealed, hlines, copyCheck, hcheck, Bool.or_self, Bool.false_and, Bool.false_eq_true,
    if_false, if_true, List.map_map]
  rfl

theorem Moved.writeId {writes tiles : Bool} (h : Moved writes tiles s t) (p : Fin 4) (j : Fin 6) :
    writeId t p j = Machine.writeId s p j := by rw [Machine.writeId, h.ivCounter, Machine.writeId]

theorem moveAct_toPeer (hu : u.poison = []) (hop : d.op = 3) (hcombination : slCombination d = true) (hcheck : d.checked = false)
    (hpeer : d.peer = true) (hempty : slEmpty d = false) (hcmd : (cmdAt u p q e.seq).isSome = true) :
    SameMem u (moveAct u p q e d h) ∧
      (polder (moveAct u p q e d h) p).remoteOut = (polder u p).remoteOut ++ [(writeId u p (fin6 d.portNo), q, e.seq)] ∧
      (cmdAt (moveAct u p q e d h) p q e.seq).map (·.body) = some (.remote (writeId u p (fin6 d.portNo))) ∧
      OnlyPort (fin6 d.portNo) u (moveAct u p q e d h) := by
  have hread := sourceRead_moved u p q e d []
  obtain ⟨hmem, hout, hbody, hports⟩ := movePeer_waits (d := d) (hread.cmdAt_isSome hcmd) ((List.range d.lines).map (movedLine u d))
  have hremote : (polder (sourceRead u p q e d []).1 p).remoteOut = (polder u p).remoteOut := by rw [(hread.carries p).1]
  rw [hread.writeId] at hout hbody
  rw [hremote] at hout
  rw [moveAct_peer hu hop hcombination hcheck hpeer hempty]
  exact ⟨hread.sameMem.trans hmem, hout, hbody, (OnlyPort.ofMoved hread _).trans hports⟩

/-! ## The statement -/

/-- Settles O39: each row on a descriptor that has passed its checks, through what it writes and sends. -/
theorem resultsOfBucketsChecksSealsAndPeerCopies : Obligations.ResultsOfBucketsChecksSealsAndPeerCopies := by
  unfold Obligations.ResultsOfBucketsChecksSealsAndPeerCopies
  intro s p q e h hclean u d bs c line add out value res at_ chunks copies
  have hu : u.poison = [] := startCmd_unpoisoned hclean
  have hcmd : (cmdAt u p q e.seq).isSome = true := isSome_cmdAt_startCmd s p q e
  have hmove (hcopies : copies) : exec (.move p q e h) s = .next (moveAct u p q e d h) :=
    congrArg Host.Outcome.next (runEntry_of_passed hcopies.1 hcopies.2.1)
  refine ⟨fun hstart hchecks hempty happart => ?_, fun hstart hchecks => ?_,
    fun hcopies hcheck hsealed hpeer hsrc hdst htr happart hresult => ?_, fun k hcopies hcheck hsealed hgrant hkey => ⟨fun hdst => ?_,
      fun hsrc => ?_⟩, fun hcopies hcheck hpeer => ?_⟩
  · obtain ⟨-, hcombination, haligned⟩ := slChecks_passed hchecks
    obtain ⟨v, hact, hframe, hlines, hother⟩ := bucketAct_copyEnds (p := p) (q := q) (e := e) hu (slDesc_op hstart) hcombination
      (slChecks_bucketFmts hchecks) haligned hempty happart
    have hexec : exec (.bucketAdd p q e) s = .next (bucketAct u p q e d) :=
      congrArg Host.Outcome.next (runEntry_of_passed hstart hchecks)
    exact ⟨v, hexec.trans (congrArg _ hact), hframe, fun i hi => hlines i _ hi rfl, fun a ha => hother a fun i hi _ => ha i hi⟩
  · have hexec : exec (.crc p q e) s = .next (crcAct u p q e bs) :=
      congrArg Host.Outcome.next (runEntry_of_passed hstart hchecks)
    obtain ⟨hheld, hother⟩ := crcStored_holds (p := p) (q := q) (e := e) hu bs
    have hresult := hheld _ (List.mem_singleton_self _)
    rw [leBytes_length] at hresult
    refine ⟨_, _, hexec.trans (congrArg _ (crcAct_eq hu bs)), crcStored_frame hu bs, hresult, fun a ha => hother a ?_⟩
    exact List.forall_mem_singleton.mpr (by simpa only [leBytes_length] using ha)
  · have hop : d.op = 3 := slDesc_op hcopies.1
    obtain ⟨-, -, haligned⟩ := slChecks_passed hcopies.2.1
    obtain ⟨hended, hholds⟩ := moveAct_checked (h := h) hu hop haligned hcheck hsealed hpeer hcopies.2.2 hsrc hdst htr happart
      hresult hcmd
    exact ⟨_, hmove hcopies, hended, checkedCopy_reads hholds (SlDesc.dbytes_of (by omega) (SlDesc.dlength_of (.inr htr)))⟩
  · obtain ⟨-, hcombination, -⟩ := slChecks_passed hcopies.2.1
    obtain ⟨v, hact, hrest⟩ := moveAct_sealedToHost (q := q) (e := e) hu (slDesc_op hcopies.1) hcombination hcheck hcopies.2.2 hsealed
      hgrant ((key_startCmd s p q e).trans hkey) hdst
    exact ⟨v, (hmove hcopies).trans (congrArg _ hact), hrest⟩
  · obtain ⟨-, hcombination, -⟩ := slChecks_passed hcopies.2.1
    obtain ⟨v, hact, hrest⟩ := moveAct_sealedFromHost (q := q) (e := e) hu (slDesc_op hcopies.1) hcombination hcheck hcopies.2.2 hsealed
      hgrant ((key_startCmd s p q e).trans hkey) hsrc
    exact ⟨v, (hmove hcopies).trans (congrArg _ hact), hrest⟩
  · obtain ⟨-, hcombination, -⟩ := slChecks_passed hcopies.2.1
    obtain ⟨hmem, hout, hbody, hports⟩ := moveAct_toPeer (h := h) hu (slDesc_op hcopies.1) hcombination hcheck hpeer hcopies.2.2 hcmd
    exact ⟨_, hmove hcopies, hmem, hout, hbody, hports.kept⟩

end Sys2Proof.Machine
end
